-- ==== Sys2Proof/Word.lean ====
section
/-! DEFINITION. The machine words of the Fymor and the sparse table that every indexed piece of state uses. -/

namespace Sys2Proof

/-- A scalar register, a control register, a virtual or physical address (R17, R103). -/
abbrev Word := BitVec 64

/-- An instruction word, a sequence number, a data stamp (R55, R118, R168). -/
abbrev W32 := BitVec 32

/-- A byte of memory. -/
abbrev Byte := BitVec 8

/-- A table from small numbers to values: strictly rising keys, no entry equal to the value that an
unlisted key reads as. `Machine/Sparse.lean` holds its two operations. -/
abbrev Sparse (α : Type) := List (Nat × α)

end Sys2Proof
end

