-- ==== Sys2Proof/Syntax.lean ====
section
/-! DEFINITION. The instructions: one constructor for each row of the opcode table, 185 words and 114 steps
without a word. Fields that carry a code of a table of the manual are enumerations; the L bit belongs to the
issue group (R55) and is no part of an instruction. -/

namespace Sys2Proof

/-- R30, Table 2.1: element types. -/
inductive Ty where
  | i8 | i16 | i32 | i64 | n8 | n16 | n32 | n64 | fe8 | f16 | bf16 | f32 | q4 | bit
  deriving DecidableEq, Repr

/-- R96: scalar precision P. -/
inductive Prec where
  | f32 | f64
  deriving DecidableEq, Repr

/-- R97, Table 4.10: FCMP predicates. -/
inductive FcmpPred where
  | eq | lt | le | un | ne
  deriving DecidableEq, Repr

/-- R99, Table 4.11: FCVT codes, named result then source. -/
inductive FcvtOp where
  | f64f32 | f32f64 | i64f32 | i64f64 | n64f32 | n64f64 | i32f32 | i32f64 | f32i64 | f64i64 | f32n64 | f64n64
  deriving DecidableEq, Repr

/-- R144: VRED operators. -/
inductive RedOp where
  | add | min | max | and | or | xor
  deriving DecidableEq, Repr

/-- R145: VVOTE operators. -/
inductive VoteOp where
  | any | all | ballot | count
  deriving DecidableEq, Repr

/-- R59: access sizes 1, 2, 4 and 8 bytes. -/
inductive Size where
  | b | h | w | d
  deriving DecidableEq, Repr

/-- R123: atomic sizes, SZ 2 and 3. -/
inductive ASize where
  | w | d
  deriving DecidableEq, Repr

/-- R68: nullify codes. -/
inductive NullCode where
  | none | nt | tk
  deriving DecidableEq, Repr

/-- R70, Table 3.9: ordering codes; `dflt` takes the value from MDEF. -/
inductive Ord where
  | dflt | relaxed | acquire | release | acqrel | scseq
  deriving DecidableEq, Repr

/-- R258: the ordering codes a FENCE word may carry: 0 and 2 to 5. -/
inductive FOrd where
  | dflt | acquire | release | acqrel | scseq
  deriving DecidableEq, Repr

/-- R70, Table 3.9: scope codes. -/
inductive Scope where
  | dflt | tile | cluster | sector | device | system
  deriving DecidableEq, Repr

/-- R70, R127, Table 3.9: target assertions. -/
inductive Spc where
  | dflt | scratch | vault | host
  deriving DecidableEq, Repr

/-- R70, R126, Table 3.9: row policies. -/
inductive Pol where
  | dflt | keep | close | stream | wcomb
  deriving DecidableEq, Repr

/-- R224: the barrier domains, codes 2 to 6. -/
inductive BarDom where
  | tile | cluster | sector | device | fabric
  deriving DecidableEq, Repr

/-- R120: XLDT element width. -/
inductive XldtW where
  | byte | half
  deriving DecidableEq, Repr

/-- R263, Table 10.2: control registers 0 to 34. -/
inductive CReg where
  | status | epc | enpc | ennpc | eannul | ecause | eval | eseq | eloop | handler
  | mdef | fpmode | fpflags | mxflags | fmta | fmtb | scla | sclb | tilexy | ctxid
  | lvl0 | lvl1 | lvl2 | lvl3 | lvl4 | lvl5 | lvl6 | lvl7 | lvln
  | spillb | spillov | spilllim | sched | time | seqno
  deriving DecidableEq, Repr

/-- R55, R62, R63 and the opcode table: every instruction and every step without a word. Steps carry the
number of the tile (`t`), context (`c`), partition (`p`), queue (`q`) or entry (`k`) they concern. -/
inductive Instr where
  /-- NOP (R253): Issue group with no effect. -/
  | nop
  /-- HALT (R254): Stops issue by the context; the task ends once its accesses, copies, matrix operations and futures are done. -/
  | halt
  /-- TRAP (R255): Raises TRAP_INSTRUCTION after its group retires, with ARG n. -/
  | trap (n : Fin 64)
  /-- ERET (R256): Restores the sequencing state and privilege, completes any stopped tile move, and resumes any loop. -/
  | eret
  /-- BRK (R255): Raises BREAKPOINT before any effect of its group. -/
  | brk (n : Fin 64)
  /-- YIELD (R257): Off-core wait that hands the core to another ready context. -/
  | yield
  /-- FENCE (R258): Orders the context's accesses at the given ordering and scope. -/
  | fence (s : Scope) (o : FOrd)
  /-- PUBLISH (R259): Releases earlier writes at SYSTEM scope, then writes a host word untorn. -/
  | publish (a : Fin 16) (b : Fin 16)
  /-- TLBINV (R260): Removes the tile's TLB entries that map an address, or all entries. -/
  | tlbinv (a : Fin 16) (g : Bool)
  /-- MFC (R261): Moves a control register to a scalar. -/
  | mfc (d : Fin 16) (c : CReg)
  /-- MTC (R261): Moves a scalar to a control register. -/
  | mtc (a : Fin 16) (c : CReg)
  /-- PFX (R71): Prefix that sets ordering, scope, space and policy of the next memory instruction; both groups retire together. -/
  | pfx (o : Ord) (s : Scope) (p : Spc) (q : Pol)
  /-- LOOP (R91): Captures a body into the loop buffer and runs it n times with tile-name rotation. -/
  | loop (c : Fin 16) (n : Fin 64) (b : Fin 16) (w : Fin 4) (s : Fin 16)
  /-- WAIT (R223): Blocks until the outstanding load, store, copy and matrix counts are within the limits. -/
  | wait (a : Fin 64) (b : Fin 64) (c : Fin 64) (d : Fin 64)
  /-- BEQ (R85): Branch if equal. -/
  | beq (n : NullCode) (a : Fin 16) (b : Fin 16) (d : Fin 16384)
  /-- BNE (R85): Branch if not equal. -/
  | bne (n : NullCode) (a : Fin 16) (b : Fin 16) (d : Fin 16384)
  /-- BLT (R85): Branch if less, two's complement. -/
  | blt (n : NullCode) (a : Fin 16) (b : Fin 16) (d : Fin 16384)
  /-- BGE (R85): Branch if greater or equal, two's complement. -/
  | bge (n : NullCode) (a : Fin 16) (b : Fin 16) (d : Fin 16384)
  /-- BLTN (R85): Branch if less, unsigned. -/
  | bltn (n : NullCode) (a : Fin 16) (b : Fin 16) (d : Fin 16384)
  /-- BGEN (R85): Branch if greater or equal, unsigned. -/
  | bgen (n : NullCode) (a : Fin 16) (b : Fin 16) (d : Fin 16384)
  /-- BZ (R85): Branch if zero. -/
  | bz (n : NullCode) (a : Fin 16) (d : Fin 16384)
  /-- BNZ (R85): Branch if not zero. -/
  | bnz (n : NullCode) (a : Fin 16) (d : Fin 16384)
  /-- J (R88): Relative jump with two delay groups. -/
  | j (d : Fin 16777216)
  /-- JL (R89): Relative jump that writes the link into s15. -/
  | jl (d : Fin 16777216)
  /-- JR (R88): Jump to the address in a scalar. -/
  | jr (a : Fin 16)
  /-- JLR (R89): Jump to the address in a scalar and write the link into s15. -/
  | jlr (a : Fin 16)
  /-- LD (R113): Sign-extending scalar load. -/
  | ld (d : Fin 16) (a : Fin 16) (z : Size) (i : Fin 16384)
  /-- LDN (R113): Zero-extending scalar load. -/
  | ldn (d : Fin 16) (a : Fin 16) (z : Size) (i : Fin 16384)
  /-- ST (R113): Scalar store. -/
  | st (d : Fin 16) (a : Fin 16) (z : Size) (i : Fin 16384)
  /-- LDX (R114): Indexed scalar load. -/
  | ldx (d : Fin 16) (a : Fin 16) (b : Fin 16) (x : Bool) (n : Bool) (z : Size)
  /-- STX (R114): Indexed scalar store. -/
  | stx (d : Fin 16) (a : Fin 16) (b : Fin 16) (x : Bool) (z : Size)
  /-- VLD (R116): Loads 64 bytes into one tile-register row. -/
  | vld (x : Fin 16) (b : Fin 16) (r : Fin 16) (d : Fin 4096)
  /-- VST (R116): Stores one tile-register row to 64 bytes. -/
  | vst (x : Fin 16) (b : Fin 16) (r : Fin 16) (d : Fin 4096)
  /-- XLD (R117): Tile load of 16 segments into a tile register, optionally with a scale record. -/
  | xld (x : Fin 16) (b : Fin 16) (c : Bool) (p : Fin 8) (d : Fin 4096)
  /-- XST (R117): Stores a tile register as 16 segments. -/
  | xst (x : Fin 16) (b : Fin 16) (p : Fin 8) (d : Fin 4096)
  /-- XLDT (R120): Loads a contiguous 1 KiB and writes its transpose into a tile register. -/
  | xldt (x : Fin 16) (b : Fin 16) (w : XldtW) (d : Fin 4096)
  /-- WLD (R121): Fills a slot's shadow plane from memory. -/
  | wld (s : Fin 4) (b : Fin 16) (c : Bool) (p : Fin 8) (d : Fin 4096)
  /-- ROWACT (R122): Opens the own-vault DRAM row that holds an address. -/
  | rowact (b : Fin 16) (d : Fin 4096)
  /-- AADD (R123): Atomic wrapping add. -/
  | aadd (d : Fin 16) (a : Fin 16) (b : Fin 16) (z : ASize)
  /-- AMIN (R123): Atomic signed minimum. -/
  | amin (d : Fin 16) (a : Fin 16) (b : Fin 16) (z : ASize)
  /-- AMAX (R123): Atomic signed maximum. -/
  | amax (d : Fin 16) (a : Fin 16) (b : Fin 16) (z : ASize)
  /-- AMINN (R123): Atomic unsigned minimum. -/
  | aminn (d : Fin 16) (a : Fin 16) (b : Fin 16) (z : ASize)
  /-- AMAXN (R123): Atomic unsigned maximum. -/
  | amaxn (d : Fin 16) (a : Fin 16) (b : Fin 16) (z : ASize)
  /-- AAND (R123): Atomic AND. -/
  | aand (d : Fin 16) (a : Fin 16) (b : Fin 16) (z : ASize)
  /-- AOR (R123): Atomic OR. -/
  | aor (d : Fin 16) (a : Fin 16) (b : Fin 16) (z : ASize)
  /-- AXOR (R123): Atomic XOR. -/
  | axor (d : Fin 16) (a : Fin 16) (b : Fin 16) (z : ASize)
  /-- ASWP (R123): Atomic swap. -/
  | aswp (d : Fin 16) (a : Fin 16) (b : Fin 16) (z : ASize)
  /-- ACAS (R123): Atomic compare and swap. -/
  | acas (d : Fin 16) (a : Fin 16) (b : Fin 16) (c : Fin 16) (z : ASize)
  /-- AFADD (R123): Atomic float add, round to nearest even. -/
  | afadd (d : Fin 16) (a : Fin 16) (b : Fin 16) (z : ASize)
  /-- AFMIN (R123): Atomic float minimum. -/
  | afmin (d : Fin 16) (a : Fin 16) (b : Fin 16) (z : ASize)
  /-- AFMAX (R123): Atomic float maximum. -/
  | afmax (d : Fin 16) (a : Fin 16) (b : Fin 16) (z : ASize)
  /-- CPY (R192): Hands a box-copy descriptor to the copy engine. -/
  | cpy (h : Fin 8) (a : Fin 16) (n : Bool) (t : Bool)
  /-- CPYS (R200): Reserves and releases the next n copy-schedule entries. -/
  | cpys (i : Fin 65536)
  /-- RPC_READ (R203): Agent procedure READ at a target vault. -/
  | rpcRead (h : Fin 8) (a : Fin 16) (n : Bool) (t : Bool)
  /-- RPC_WRITE (R203): Agent procedure WRITE at a target vault. -/
  | rpcWrite (h : Fin 8) (a : Fin 16) (n : Bool) (t : Bool)
  /-- VADD_F32 (R203): Agent procedure adding f32 values at the target. -/
  | vaddF32 (h : Fin 8) (a : Fin 16) (n : Bool) (t : Bool)
  /-- VADD_I32 (R203): Agent procedure adding i32 values at the target. -/
  | vaddI32 (h : Fin 8) (a : Fin 16) (n : Bool) (t : Bool)
  /-- VMIN_F32 (R203): Agent procedure taking f32 minima at the target. -/
  | vminF32 (h : Fin 8) (a : Fin 16) (n : Bool) (t : Bool)
  /-- VMAX_F32 (R203): Agent procedure taking f32 maxima at the target. -/
  | vmaxF32 (h : Fin 8) (a : Fin 16) (n : Bool) (t : Bool)
  /-- CAS64 (R203): Agent procedure 64-bit compare and swap. -/
  | cas64 (h : Fin 8) (a : Fin 16) (n : Bool) (t : Bool)
  /-- SWAP64 (R203): Agent procedure 64-bit swap. -/
  | swap64 (h : Fin 8) (a : Fin 16) (n : Bool) (t : Bool)
  /-- READ_BOX (R203): Agent procedure copying a box from its vault to the requester. -/
  | readBox (h : Fin 8) (a : Fin 16) (n : Bool) (t : Bool)
  /-- WRITE_BOX (R203): Agent procedure copying a box from the requester into its vault. -/
  | writeBox (h : Fin 8) (a : Fin 16) (n : Bool) (t : Bool)
  /-- RPC_FILL (R203): Agent procedure repeating a pattern at the target. -/
  | rpcFill (h : Fin 8) (a : Fin 16) (n : Bool) (t : Bool)
  /-- ZERO_PAGE (R203): Agent procedure zeroing a 64 KiB page. -/
  | zeroPage (h : Fin 8) (a : Fin 16) (n : Bool) (t : Bool)
  /-- TRAV (R206): Starts a Rambler walk. -/
  | trav (h : Fin 8) (a : Fin 16) (t : Bool)
  /-- TRAV_RES (R213): Resumes a Rambler walk from a PARTIAL token. -/
  | travRes (h : Fin 8) (a : Fin 16) (t : Bool)
  /-- GPOOL (R214): Gather-and-pool lookup at the agent owning the table. -/
  | gpool (h : Fin 8) (a : Fin 16) (t : Bool)
  /-- ATTN (R216): Attention decode at the agent owning the key cache. -/
  | attn (h : Fin 8) (a : Fin 16) (t : Bool)
  /-- FWAIT (R187): Blocks until a future is terminal, optionally freeing it. -/
  | fwait (h : Fin 8) (r : Bool)
  /-- FGET (R187): Waits for a future and reads one word of its record. -/
  | fget (h : Fin 8) (d : Fin 16) (w : Fin 6) (r : Bool)
  /-- FTEST (R188): Tests whether a future is terminal without blocking. -/
  | ftest (h : Fin 8) (d : Fin 16)
  /-- FCANCEL (R189): Asks the serving engine to drop a command. -/
  | fcancel (h : Fin 8)
  /-- FXFER (R190): Moves a future to a handle of another context of the tile. -/
  | fxfer (h : Fin 8) (a : Fin 16) (g : Fin 8)
  /-- BAR_ARR (R226): Arrives at a barrier and returns the phase joined. -/
  | barArr (d : Fin 16) (m : BarDom) (i : Fin 64)
  /-- BAR_WAIT (R226): Blocks until a barrier phase has completed. -/
  | barWait (a : Fin 16) (m : BarDom) (i : Fin 64)
  /-- BAR_AW (R227): Arrives at a barrier and waits for the joined phase. -/
  | barAw (m : BarDom) (i : Fin 64)
  /-- SIG (R230): Adds to a semaphore, serving waiters in order. -/
  | sig (a : Fin 16) (s : Fin 16)
  /-- WSEM (R231): Joins a semaphore's waiter queue and takes n when first and available. -/
  | wsem (a : Fin 16) (s : Fin 16)
  /-- TSEM (R230): Takes from a semaphore if possible, never blocks. -/
  | tsem (d : Fin 16) (a : Fin 16) (s : Fin 16)
  /-- ASARM (R232): Arms an arrival set on a region with an expected count. -/
  | asarm (a : Fin 16) (b : Fin 16) (s : Fin 64)
  /-- ASWAIT (R234): Blocks until masked chunks or the whole arrival set are complete. -/
  | aswait (a : Fin 16) (b : Fin 16) (s : Fin 64)
  /-- ASTEST (R234): Tests an arrival-set condition without blocking. -/
  | astest (d : Fin 16) (a : Fin 16) (b : Fin 16) (s : Fin 64)
  /-- WLAPP (R238): Appends a 16-byte item to a work list. -/
  | wlapp (a : Fin 16) (b : Fin 16) (i : Fin 64)
  /-- WLTAKE (R239): Takes up to m items from a work list, or ends with 0 at quiescence. -/
  | wltake (d : Fin 16) (a : Fin 16) (b : Fin 16) (i : Fin 64)
  /-- WLDONE (R240): Acknowledges taken work items. -/
  | wldone (a : Fin 16) (i : Fin 64)
  /-- QWAIT (R241): Blocks until the launch is quiescent. -/
  | qwait
  /-- CLAIM (R245): Sets the context's hamper claim. -/
  | claim (a : Fin 16)
  /-- ACQ (R247): Requests hamper resources, blocking until the banker's check grants them. -/
  | acq (d : Fin 16) (a : Fin 16)
  /-- ACQT (R316): Requests hamper resources without blocking. -/
  | acqt (d : Fin 16) (a : Fin 16)
  /-- REL (R249): Releases named hamper holdings and rescans the request queue. -/
  | rel (a : Fin 16)
  /-- RELALL (R249): Releases every hamper holding of the context. -/
  | relall
  /-- RESQ (R248): Reads a hamper quantity selected by a scalar. -/
  | resq (d : Fin 16) (a : Fin 16)
  /-- ADD (R93): Integer add. -/
  | add (d : Fin 16) (a : Fin 16) (b : Fin 16)
  /-- SUB (R93): Integer subtract. -/
  | sub (d : Fin 16) (a : Fin 16) (b : Fin 16)
  /-- AND (R93): Bitwise AND. -/
  | and_ (d : Fin 16) (a : Fin 16) (b : Fin 16)
  /-- OR (R93): Bitwise OR. -/
  | or_ (d : Fin 16) (a : Fin 16) (b : Fin 16)
  /-- XOR (R93): Bitwise XOR. -/
  | xor (d : Fin 16) (a : Fin 16) (b : Fin 16)
  /-- ANDN (R93): AND with complement. -/
  | andn (d : Fin 16) (a : Fin 16) (b : Fin 16)
  /-- SHL (R93): Shift left. -/
  | shl (d : Fin 16) (a : Fin 16) (b : Fin 16)
  /-- SHR (R93): Logical shift right. -/
  | shr (d : Fin 16) (a : Fin 16) (b : Fin 16)
  /-- SHRA (R93): Arithmetic shift right. -/
  | shra (d : Fin 16) (a : Fin 16) (b : Fin 16)
  /-- ROTL (R93): Rotate left. -/
  | rotl (d : Fin 16) (a : Fin 16) (b : Fin 16)
  /-- MIN (R93): Signed minimum. -/
  | min (d : Fin 16) (a : Fin 16) (b : Fin 16)
  /-- MAX (R93): Signed maximum. -/
  | max (d : Fin 16) (a : Fin 16) (b : Fin 16)
  /-- MINN (R93): Unsigned minimum. -/
  | minn (d : Fin 16) (a : Fin 16) (b : Fin 16)
  /-- MAXN (R93): Unsigned maximum. -/
  | maxn (d : Fin 16) (a : Fin 16) (b : Fin 16)
  /-- SEQ (R93): Set if equal. -/
  | seq (d : Fin 16) (a : Fin 16) (b : Fin 16)
  /-- SNE (R93): Set if not equal. -/
  | sne (d : Fin 16) (a : Fin 16) (b : Fin 16)
  /-- SLT (R93): Set if less, two's complement. -/
  | slt (d : Fin 16) (a : Fin 16) (b : Fin 16)
  /-- SLTN (R93): Set if less, unsigned. -/
  | sltn (d : Fin 16) (a : Fin 16) (b : Fin 16)
  /-- SEL (R93): Selects one of two scalars by a third. -/
  | sel (d : Fin 16) (a : Fin 16) (b : Fin 16) (c : Fin 16)
  /-- CLZ (R93): Counts leading zero bits. -/
  | clz (d : Fin 16) (a : Fin 16)
  /-- CTZ (R93): Counts trailing zero bits. -/
  | ctz (d : Fin 16) (a : Fin 16)
  /-- POPC (R93): Counts one bits. -/
  | popc (d : Fin 16) (a : Fin 16)
  /-- MOV (R93): Copies a scalar. -/
  | mov (d : Fin 16) (a : Fin 16)
  /-- MUL (R94): Low 64 bits of a product. -/
  | mul (d : Fin 16) (a : Fin 16) (b : Fin 16)
  /-- MULH (R94): High 64 bits of a signed product. -/
  | mulh (d : Fin 16) (a : Fin 16) (b : Fin 16)
  /-- MULHN (R94): High 64 bits of an unsigned product. -/
  | mulhn (d : Fin 16) (a : Fin 16) (b : Fin 16)
  /-- DIV (R94): Signed division. -/
  | div (d : Fin 16) (a : Fin 16) (b : Fin 16)
  /-- DIVN (R94): Unsigned division. -/
  | divn (d : Fin 16) (a : Fin 16) (b : Fin 16)
  /-- REM (R94): Signed remainder. -/
  | rem (d : Fin 16) (a : Fin 16) (b : Fin 16)
  /-- REMN (R94): Unsigned remainder. -/
  | remn (d : Fin 16) (a : Fin 16) (b : Fin 16)
  /-- ADDI (R95): Add sign-extended immediate. -/
  | addi (d : Fin 16) (a : Fin 16) (i : Fin 65536)
  /-- ANDI (R95): AND with sign-extended immediate. -/
  | andi (d : Fin 16) (a : Fin 16) (i : Fin 65536)
  /-- ORI (R95): OR with zero-extended immediate. -/
  | ori (d : Fin 16) (a : Fin 16) (i : Fin 65536)
  /-- XORI (R95): XOR with zero-extended immediate. -/
  | xori (d : Fin 16) (a : Fin 16) (i : Fin 65536)
  /-- SHLI (R95): Shift left by immediate. -/
  | shli (d : Fin 16) (a : Fin 16) (i : Fin 64)
  /-- SHRI (R95): Logical shift right by immediate. -/
  | shri (d : Fin 16) (a : Fin 16) (i : Fin 64)
  /-- SHRAI (R95): Arithmetic shift right by immediate. -/
  | shrai (d : Fin 16) (a : Fin 16) (i : Fin 64)
  /-- SLTI (R95): Set if less than sign-extended immediate. -/
  | slti (d : Fin 16) (a : Fin 16) (i : Fin 65536)
  /-- LI (R95): Loads a sign-extended immediate. -/
  | li (d : Fin 16) (i : Fin 65536)
  /-- LIH (R95): Shifts a halfword into the low end of a register. -/
  | lih (d : Fin 16) (a : Fin 16) (i : Fin 65536)
  /-- FADD (R96): Float add. -/
  | fadd (d : Fin 16) (a : Fin 16) (b : Fin 16) (p : Prec)
  /-- FSUB (R96): Float subtract. -/
  | fsub (d : Fin 16) (a : Fin 16) (b : Fin 16) (p : Prec)
  /-- FMUL (R96): Float multiply. -/
  | fmul (d : Fin 16) (a : Fin 16) (b : Fin 16) (p : Prec)
  /-- FDIV (R96): Float divide. -/
  | fdiv (d : Fin 16) (a : Fin 16) (b : Fin 16) (p : Prec)
  /-- FSQRT (R96): Float square root. -/
  | fsqrt (d : Fin 16) (a : Fin 16) (p : Prec)
  /-- FMIN (R98): Float minimum. -/
  | fmin (d : Fin 16) (a : Fin 16) (b : Fin 16) (p : Prec)
  /-- FMAX (R98): Float maximum. -/
  | fmax (d : Fin 16) (a : Fin 16) (b : Fin 16) (p : Prec)
  /-- FCMP (R97): Float compare by predicate. -/
  | fcmp (d : Fin 16) (a : Fin 16) (b : Fin 16) (c : FcmpPred) (p : Prec)
  /-- FCVT (R99): Scalar conversion by code. -/
  | fcvt (d : Fin 16) (a : Fin 16) (c : FcvtOp)
  /-- FCLASS (R100): Writes the class mask of a float. -/
  | fclass (d : Fin 16) (a : Fin 16) (p : Prec)
  /-- FMA (R101): Fused multiply-add with one rounding. -/
  | fma (d : Fin 16) (a : Fin 16) (b : Fin 16) (n : Bool) (p : Prec) (c : Fin 16)
  /-- VADD (R141): Element-wise add of a row. -/
  | vadd (d : Fin 16) (a : Fin 16) (b : Fin 16) (r : Fin 16) (s : Fin 16) (t : Ty)
  /-- VSUB (R141): Element-wise subtract. -/
  | vsub (d : Fin 16) (a : Fin 16) (b : Fin 16) (r : Fin 16) (s : Fin 16) (t : Ty)
  /-- VMUL (R141): Element-wise multiply. -/
  | vmul (d : Fin 16) (a : Fin 16) (b : Fin 16) (r : Fin 16) (s : Fin 16) (t : Ty)
  /-- VFMA (R141): Element-wise fused multiply-add into the destination. -/
  | vfma (d : Fin 16) (a : Fin 16) (b : Fin 16) (r : Fin 16) (s : Fin 16) (t : Ty)
  /-- VMIN (R141): Element-wise minimum. -/
  | vmin (d : Fin 16) (a : Fin 16) (b : Fin 16) (r : Fin 16) (s : Fin 16) (t : Ty)
  /-- VMAX (R141): Element-wise maximum. -/
  | vmax (d : Fin 16) (a : Fin 16) (b : Fin 16) (r : Fin 16) (s : Fin 16) (t : Ty)
  /-- VABSD (R141): Element-wise absolute difference. -/
  | vabsd (d : Fin 16) (a : Fin 16) (b : Fin 16) (r : Fin 16) (s : Fin 16) (t : Ty)
  /-- VAND (R141): Row bitwise AND. -/
  | vand (d : Fin 16) (a : Fin 16) (b : Fin 16) (r : Fin 16) (s : Fin 16) (t : Ty)
  /-- VOR (R141): Row bitwise OR. -/
  | vor (d : Fin 16) (a : Fin 16) (b : Fin 16) (r : Fin 16) (s : Fin 16) (t : Ty)
  /-- VXOR (R141): Row bitwise XOR. -/
  | vxor (d : Fin 16) (a : Fin 16) (b : Fin 16) (r : Fin 16) (s : Fin 16) (t : Ty)
  /-- VSHL (R141): Element-wise shift left. -/
  | vshl (d : Fin 16) (a : Fin 16) (b : Fin 16) (r : Fin 16) (s : Fin 16) (t : Ty)
  /-- VSHR (R141): Element-wise logical shift right. -/
  | vshr (d : Fin 16) (a : Fin 16) (b : Fin 16) (r : Fin 16) (s : Fin 16) (t : Ty)
  /-- VSHRA (R141): Element-wise arithmetic shift right. -/
  | vshra (d : Fin 16) (a : Fin 16) (b : Fin 16) (r : Fin 16) (s : Fin 16) (t : Ty)
  /-- VCEQ (R141): Element-wise equality mask. -/
  | vceq (d : Fin 16) (a : Fin 16) (b : Fin 16) (r : Fin 16) (s : Fin 16) (t : Ty)
  /-- VCLT (R141): Element-wise less-than mask. -/
  | vclt (d : Fin 16) (a : Fin 16) (b : Fin 16) (r : Fin 16) (s : Fin 16) (t : Ty)
  /-- VSEL (R141): Bitwise select using the old destination row as mask. -/
  | vsel (d : Fin 16) (a : Fin 16) (b : Fin 16) (r : Fin 16) (s : Fin 16) (t : Ty)
  /-- VCVT (R143): Converts a row between element types. -/
  | vcvt (d : Fin 16) (a : Fin 16) (y : Ty) (r : Fin 16) (s : Fin 16) (t : Ty)
  /-- VRED (R144): Reduces a row to a scalar. -/
  | vred (d : Fin 16) (a : Fin 16) (o : RedOp) (s : Fin 16) (t : Ty)
  /-- VBCST (R148): Broadcasts a scalar to every element of a row. -/
  | vbcst (d : Fin 16) (a : Fin 16) (r : Fin 16) (t : Ty)
  /-- VSHUF (R147): Permutes elements of a row by indices. -/
  | vshuf (d : Fin 16) (a : Fin 16) (b : Fin 16) (r : Fin 16) (s : Fin 16) (t : Ty)
  /-- VVOTE (R145): Votes over non-zero elements into a scalar. -/
  | vvote (d : Fin 16) (a : Fin 16) (o : VoteOp) (s : Fin 16) (t : Ty)
  /-- VMATCH (R146): Writes each element's first matching index. -/
  | vmatch (d : Fin 16) (a : Fin 16) (r : Fin 16) (s : Fin 16) (t : Ty)
  /-- VEXT (R149): Extracts one element into a scalar. -/
  | vext (d : Fin 16) (a : Fin 16) (b : Fin 16) (s : Fin 16) (t : Ty)
  /-- VINS (R148): Inserts a scalar into one element. -/
  | vins (d : Fin 16) (a : Fin 16) (b : Fin 16) (r : Fin 16) (t : Ty)
  /-- VEXP2 (R151): Element-wise 2 to the power. -/
  | vexp2 (d : Fin 16) (a : Fin 16) (r : Fin 16) (s : Fin 16) (t : Ty)
  /-- VRCP (R151): Element-wise reciprocal. -/
  | vrcp (d : Fin 16) (a : Fin 16) (r : Fin 16) (s : Fin 16) (t : Ty)
  /-- VRSQ (R151): Element-wise reciprocal square root. -/
  | vrsq (d : Fin 16) (a : Fin 16) (r : Fin 16) (s : Fin 16) (t : Ty)
  /-- VCPY (R150): Copies a row with its poison. -/
  | vcpy (d : Fin 16) (a : Fin 16) (r : Fin 16) (s : Fin 16)
  /-- XZERO (R152): Zeroes a whole tile register. -/
  | xzero (d : Fin 16)
  /-- XFILL (R152): Fills a tile register with a scalar. -/
  | xfill (d : Fin 16) (a : Fin 16)
  /-- XCPY (R152): Copies a whole tile register. -/
  | xcpy (d : Fin 16) (a : Fin 16)
  /-- XTRN (R152): Transposes a tile register of 32-bit elements. -/
  | xtrn (d : Fin 16) (a : Fin 16)
  /-- MMUL (R173): Queues a semiring matrix multiply of A rows against the active plane. -/
  | mmul (s : Fin 4) (e : Fin 8) (a : Fin 16) (f : Fin 16) (n : Fin 16) (c : Fin 16)
  /-- MDRAIN (R174): Queues a conversion of the accumulator into a tile register. -/
  | mdrain (s : Fin 4) (d : Fin 16) (t : Ty)
  /-- MLDW (R171): Queues a copy of a tile register into a shadow plane. -/
  | mldw (s : Fin 4) (a : Fin 16)
  /-- MSWAP (R172): Queues an exchange of a slot's active and shadow planes. -/
  | mswap (s : Fin 4)
  /-- MACZ (R170): Queues setting the accumulator to an entry's identity and the kind. -/
  | macz (s : Fin 4) (e : Fin 8)
  /-- MOPW (R163): Writes an alloy-table entry. -/
  | mopw (e : Fin 8) (a : Fin 16)
  /-- MOPR (R163): Reads an alloy-table entry. -/
  | mopr (e : Fin 8) (d : Fin 16)
  /-- MSAVE (R175): Queues writing a slot image to memory. -/
  | msave (s : Fin 4) (a : Fin 16)
  /-- MREST (R175): Queues loading a slot from an image. -/
  | mrest (s : Fin 4) (a : Fin 16)
  /-- RESERVED_PATTERN (R64): An issue group whose word is not an instruction (undefined major or minor, reserved field) traps with OPCODE_UNDEFINED or FIELD_RESERVED and has no effect. -/
  | reservedPattern (w : W32)
  /-- PENDING_CAUSE_ENTRY (R349): At a group boundary a pending class D, I or F cause is taken by handler entry. -/
  | pendingCauseEntry (t : Nat) (c : Fin 8)
  /-- TIMER (R354): TIME reaches TCMP, TIMER becomes pending and TCMP clears. -/
  | timer (t : Nat) (c : Fin 8)
  /-- QUANTUM_EXPIRY (R300): The ring-mode quantum of 4,096 cycles passes and the core switches context. -/
  | quantumExpiry (t : Nat) (k : Nat)
  /-- DROWSY_ENTRY (R154): A bound tile register untouched for 16,384 cycles becomes drowsy. -/
  | drowsyEntry (t : Nat) (k : Nat)
  /-- TASK_START (R298): The task scheduler starts a pending task whose conditions hold. -/
  | taskStart (t : Nat)
  /-- TASK_END (R254): A halted task ends once its accesses, copies, matrix operations and futures are complete. -/
  | taskEnd (t : Nat) (c : Fin 8)
  /-- LOAD_DATA_RETURN (R115): Load data arrives and is written, waking a waiting group. -/
  | loadDataReturn (t : Nat) (c : Fin 8) (k : Nat)
  /-- STORE_PERFORM (R415): A retired store or atomic is performed at its home. -/
  | storePerform (t : Nat) (c : Fin 8) (k : Nat)
  /-- REMOTE_ACCESS_ARRIVAL (R124): A remote scratchpad load, store or atomic request is served at its home. -/
  | remoteAccessArrival (t : Nat) (c : Fin 8) (k : Nat)
  /-- TILE_SEGMENT_LAND (R117): One segment of a tile move lands or stops on repair or hold. -/
  | tileSegmentLand (t : Nat) (k : Nat)
  /-- WRITE_BLOCK_TIMEOUT (R112): A store stalled on write-block for 2^22 cycles traps. -/
  | writeBlockTimeout (t : Nat) (c : Fin 8)
  /-- REFRESH (R131): A bank's refresh falls due and the bank becomes unavailable. -/
  | refresh (t : Nat) (k : Nat)
  /-- REFRESH_END (R131): A refresh ends and the bank is precharged. -/
  | refreshEnd (t : Nat) (k : Nat)
  /-- HOLD_ENTERED (R132): Precharge-all and the agent handshake finish and the vault enters HOLD. -/
  | holdEntered (t : Nat)
  /-- HOLD_TIMEOUT (R133): An access stalled by HOLD for 2 µs traps if the vault is not ACTIVE. -/
  | holdTimeout (t : Nat) (c : Fin 8)
  /-- ROW_REPAIR_DONE (R318): The repair flag of a row clears and held accesses are performed. -/
  | rowRepairDone (t : Nat) (k : Nat) (m : Nat)
  /-- MATRIX_OP_START (R160): A matrix operation leaves the queue head once its operands are ready. -/
  | matrixOpStart (t : Nat)
  /-- MATRIX_OP_COMPLETE (R161): A matrix operation completes, with flags and deferred traps. -/
  | matrixOpComplete (t : Nat) (k : Nat)
  /-- COPY_ACCESS (R416): The copy engine makes one access of a copy and marks arrival sets. -/
  | copyAccess (t : Nat) (k : Nat) (elems : List Nat)
  /-- COPY_COMPLETE (R198): A copy has landed every byte and ends its future. -/
  | copyComplete (t : Nat) (k : Nat)
  /-- SCHEDULE_ENTRY_RELEASE (R200): A reserved schedule entry is released into the copy queue as room appears. -/
  | scheduleEntryRelease (t : Nat)
  /-- CANCEL_ARRIVAL (R189): A cancel request reaches the serving engine. -/
  | cancelArrival (k : Nat)
  /-- AGENT_SERVE (R204): The vault agent takes its head request and performs the procedure indivisibly. -/
  | agentServe (t : Nat)
  /-- AGENT_HOLD_TIMEOUT (R205): An agent request stalled in HOLD for 2 µs faults with RPC_REMOTE. -/
  | agentHoldTimeout (t : Nat)
  /-- RAMBLER_STEP (R208): The agent fetches a record and interprets rules of a walk. -/
  | ramblerStep (t : Nat) (k : Nat)
  /-- CONTINUATION_ARRIVAL (R212): A continuation arrives at the owning agent, which takes up the walk. -/
  | continuationArrival (k : Nat)
  /-- GATHER_POOL (R215): The agent gathers and pools table rows for a lookup record. -/
  | gatherPool (t : Nat)
  /-- ATTENTION_DECODE (R217): The agent computes attention for an attention descriptor. -/
  | attentionDecode (t : Nat)
  /-- REPLY_ARRIVAL (R181): A reply lands and its future becomes terminal. -/
  | replyArrival (k : Nat)
  /-- BARRIER_ARRIVAL (R225): An arrival reaches the barrier's home and may complete a phase. -/
  | barrierArrival (k : Nat)
  /-- BARRIER_RELEASE (R229): A completed phase reaches a waiter, which resumes. -/
  | barrierRelease (t : Nat) (c : Fin 8)
  /-- BARRIER_TIMEOUT (R228): A barrier waiter still blocked after T µs traps. -/
  | barrierTimeout (t : Nat) (c : Fin 8)
  /-- WL_REQUEST_APPLY (R418): The compaction unit applies a work-list request. -/
  | wlRequestApply (t : Nat) (c : Fin 8)
  /-- WL_ANSWER (R418): The compaction unit's answer reaches the waiting context. -/
  | wlAnswer (t : Nat) (c : Fin 8)
  /-- PREEMPTION (R357): The dispatcher pre-empts a partition, halting every context. -/
  | preemption (p : Fin 8)
  /-- CONTEXTS_HALTED (R357): Every context of a partition has stopped at a boundary. -/
  | contextsHalted (p : Fin 8)
  /-- TILE_IMAGE_SAVE (R357): A drained tile's images are written to the save area. -/
  | tileImageSave (t : Nat)
  /-- LAUNCH_RESTORE (R362): The dispatcher restores a saved launch. -/
  | launchRestore (p : Fin 8)
  /-- WATCHDOG_EXPIRY (R378): A launch's watchdog count reaches WDOG. -/
  | watchdogExpiry (p : Fin 8)
  /-- PRIORITY_AGING (R336): A queue head that waited 10 ms is raised one priority. -/
  | priorityAging (q : Fin 16)
  /-- LAUNCH (R331): Dispatch of a LAUNCH command: checks the record and places tasks. -/
  | launch (q : Fin 16)
  /-- COPY (R329): Dispatch of a COPY command. -/
  | copy (q : Fin 16)
  /-- COPY_COMMAND_COMPLETE (R329): A COPY command has written every byte and completes. -/
  | copyCommandComplete (q : Fin 16) (k : Nat)
  /-- FENCE_COMMAND (R327): Dispatch of a FENCE command, completing at once. -/
  | fenceCommand (q : Fin 16)
  /-- SIGNAL (R326): Raises a timeline to at least a value. -/
  | signal (q : Fin 16)
  /-- WAITVAL (R327): Completes once a timeline reaches a value. -/
  | waitval (q : Fin 16)
  /-- COND (R328): Reads a predicate and skips following entries when it fails. -/
  | cond (q : Fin 16)
  /-- PUBLISH_COMMAND (R419): Writes a value to a host word behind earlier device writes. -/
  | publishCommand (q : Fin 16)
  /-- LAUNCH_COMPLETE (R335): Every task has ended; the completion publication and word are written. -/
  | launchComplete (p : Fin 8)
  /-- RESUME_TAKES_EFFECT (R363): A waiting resume takes effect once earlier matrix operations and loads complete. -/
  | resumeTakesEffect (t : Nat) (c : Fin 8)
  /-- CLEAR_COMPLETE (R375): A partition clear completes and CLEARED is set. -/
  | clearComplete (p : Fin 8)
  /-- PAIR_INTERVAL_END (R388): A paired interval ends and fingerprints are exchanged and compared. -/
  | pairIntervalEnd (t : Nat) (c : Fin 8) (b : Bool)
  /-- REPLAY_WAIT_TIMEOUT (R413): An agent or bank waits 2^22 cycles for its logged request and the launch ends. -/
  | replayWaitTimeout (t : Nat)
  /-- EVENT_COUNTER_WRAP (R404): An event counter counting cycles, stalls or idle cycles wraps from 2^48 - 1 to 0, sets OVF and, with SMP, freezes issue for one cycle and writes a SAMPLE record. -/
  | eventCounterWrap (t : Nat) (k : Nat) (i : Fin 4)
  /-- THERMAL_SAMPLE (R130): The 1 µs vault temperature sample selects the thermal state. -/
  | thermalSample (t : Nat) (temp : Int)
  /-- MAINTENANCE_HOLD (R132): Firmware holds a vault for maintenance. -/
  | maintenanceHold (t : Nat)
  /-- MAINTENANCE_RELEASE (R132): Firmware releases a maintenance hold. -/
  | maintenanceRelease (t : Nat)
  /-- QTAIL (R325): Doorbell write of a queue's tail index. -/
  | qtail (q : Fin 16) (v : Word)
  /-- SHOOT (R341): Starts a TLB shootdown of a partition. -/
  | shoot (v : Word)
  /-- SHOOTDOWN_COMPLETE (R341): The last acknowledgement arrives and GO reads 0. -/
  | shootdownComplete
  /-- CRST (R343): Clears an access counter and its tile record. -/
  | crst (v : Word)
  /-- MBDATA (R339): Applies a mailbox write at MBADDR and advances it. -/
  | mbdata (v : Word)
  /-- BAR2_READ (R323): Host read through a BAR2 window. -/
  | bar2Read (a : Nat)
  /-- BAR2_WRITE (R323): Host write through a BAR2 window. -/
  | bar2Write (a : Nat) (v : Word)
  /-- PRI_RESPONSE (R342): A page request response retries or faults a stalled host access. -/
  | priResponse (a : Nat) (b : Bool)
  /-- ATS_INVALIDATION (R342): The host invalidates an ATS translation. -/
  | atsInvalidation (a : Nat)
  /-- REGISTER_WRITE (R7): Write to a register with no behaviour of its own. -/
  | registerWrite (a : Nat) (wide : Bool) (v : Word)
  /-- FWCMD_QUEUE_RESET (R375): Host firmware command resetting a queue. -/
  | fwcmdQueueReset (q : Fin 16)
  /-- FWCMD_PARTITION_RESET (R375): Host firmware command resetting a partition. -/
  | fwcmdPartitionReset (p : Fin 8)
  /-- FWCMD_DEVICE_RESET (R375): Host firmware command resetting the device. -/
  | fwcmdDeviceReset
  /-- RELCLR (R384): Clears the selected tile's reliability counters. -/
  | relclr (v : Word)
  /-- DBG_HALT (R363): Debug port halts the selected context. -/
  | dbgHalt
  /-- DBG_RESUME (R363): Debug port requests resume of a halted context. -/
  | dbgResume
  /-- DBG_STEP (R400): Resumes for one step, then halts. -/
  | dbgStep
  /-- RDREG (R401): Reads a scalar, control register or future word. -/
  | rdreg (idx : Fin 256)
  /-- WRREG (R401): Writes a scalar or control register. -/
  | wrreg (idx : Fin 256)
  /-- RDROW (R401): Reads a tile-register row. -/
  | rdrow (idx : Fin 256) (row : Fin 16)
  /-- WRROW (R401): Writes a tile-register row unpoisoned. -/
  | wrrow (idx : Fin 256) (row : Fin 16)
  /-- RDMEM (R402): Reads 64 bytes of memory at FIRM translation. -/
  | rdmem
  /-- WRMEM (R402): Writes 64 bytes of memory. -/
  | wrmem
  /-- RDSLOT (R401): Reads one segment of a slot image. -/
  | rdslot (idx : Fin 256) (slot : Fin 4)
  /-- EVWAIT (R377): Firmware load that blocks until a watchdog has expired. -/
  | evwait (d : Fin 16)
  /-- PCTL_HALT (R377): Halts every context of a partition. -/
  | pctlHalt (p : Fin 8)
  /-- PCTL_CANCEL (R377): Cancels and drains a halted partition's commands. -/
  | pctlCancel (p : Fin 8)
  /-- PCTL_CLEAR (R377): Clears a halted, quiet partition's tiles. -/
  | pctlClear (p : Fin 8)
  /-- PCTL_RUN (R377): Allows or stops dispatch on a partition. -/
  | pctlRun (p : Fin 8) (b : Bool)
  /-- QEND (R379): Completes a halted launch with a given status. -/
  | qend (v : Word)
  /-- JALLOC (R377): Load that allocates the next journal sequence number. -/
  | jalloc (d : Fin 16)
  /-- JW (R377): Writes 8 bytes of the selected journal entry. -/
  | jw (k : Fin 8) (v : Word)
  /-- POWER_ON (R365): Power-on runs the boot stages. -/
  | powerOn
  /-- MCTP_CONTROL (R370): Side-port MCTP control message. -/
  | mctpControl
  /-- GET_ID (R370): Side-port identity read. -/
  | getId (k : Nat)
  /-- ATTEST (R368): Side-port signed attestation response. -/
  | attest (nonce : BitVec 256)
  /-- JOURNAL_READ (R372): Side-port read of journal entries. -/
  | journalRead (v : Word) (k : Nat)
  /-- TELEMETRY (R370): Side-port read of a telemetry page. -/
  | telemetry (k : Nat) (m : Nat)
  /-- DUMP_READ (R374): Side-port read of a dump. -/
  | dumpRead (v : Word) (k : Nat) (m : Nat)
  /-- QUEUE_RESET (R375): Side-port queue reset. -/
  | queueReset (q : Fin 16)
  /-- PARTITION_RESET (R375): Side-port partition reset. -/
  | partitionReset (p : Fin 8)
  /-- DEVICE_RESET (R375): Side-port device reset. -/
  | deviceReset
  /-- FW_BEGIN (R371): Opens a firmware update session on the inactive slot. -/
  | fwBegin
  /-- FW_DATA (R371): Writes firmware update data. -/
  | fwData (k : Nat) (data : List Byte)
  /-- FW_COMMIT (R371): Verifies and activates the updated slot. -/
  | fwCommit
  /-- MACHINE_CHECK (R355): An uncorrectable internal error ends every task on the tile. -/
  | machineCheck (t : Nat)
  /-- PEER_LINK_FAILURE (R346): A peer link or device fails and commands in flight fault. -/
  | peerLinkFailure (k : Nat)
  /-- PATROL_SCRUB (R385): A vault scrub step reads and writes back one segment. -/
  | patrolScrub (t : Nat)
  /-- SRAM_SCRUB (R385): Periodic scrub of a correcting SRAM array. -/
  | sramScrub (t : Nat)
  /-- MATRIX_SPARE_SWITCH (R386): Firmware switches a suspect engine row or column to the spare when idle. -/
  | matrixSpareSwitch (t : Nat)
  /-- UV_WINDOW (R391): A 1 ms undervolting window ends and voltage is adjusted. -/
  | uvWindow (s : Fin 8)
  /-- VERIFICATION_WINDOW (R392): The 60 s period holds a sector at nominal for a verification window. -/
  | verificationWindow (s : Fin 8)
  /-- VERIFICATION_WINDOW_END (R392): The 10 ms window ends and failing arrays are declared. -/
  | verificationWindowEnd (s : Fin 8)
  /-- NETWORK_SNAPSHOT (R408): The grid interval expires and link counts are latched and written. -/
  | networkSnapshot
  /-- PCIE_LINK_STATE_CHANGE (R374): The PCI Express link goes down or comes back up, which decides whether a fatal dump is pushed to DUMPB. -/
  | pcieLinkStateChange (b : Bool)
  /-- UNSERVED_MCTP_MESSAGE (R370): A side-port message of a type other than MCTP control or vendor type 0x7E arrives and is dropped. -/
  | unservedMctpMessage (k : Nat)
  deriving DecidableEq, Repr

end Sys2Proof
end

