-- ==== Sys2Proof/WellFormed.lean ====
section
/-! DEFINITION. Which terms of `Instr` are instructions of the machine: the combinations of fields that the
manual accepts, and the numbers a step may carry. -/

namespace Sys2Proof

/-- R30: the integer types. -/
def Ty.isInt : Ty → Bool
  | .i8 | .i16 | .i32 | .i64 | .n8 | .n16 | .n32 | .n64 => true
  | .fe8 | .f16 | .bf16 | .f32 | .q4 | .bit => false

/-- R30: the two's-complement integer types. -/
def Ty.isSigned : Ty → Bool
  | .i8 | .i16 | .i32 | .i64 => true
  | .n8 | .n16 | .n32 | .n64 | .fe8 | .f16 | .bf16 | .f32 | .q4 | .bit => false

/-- R30: the floating-point types. -/
def Ty.isFloat : Ty → Bool
  | .fe8 | .f16 | .bf16 | .f32 => true
  | .i8 | .i16 | .i32 | .i64 | .n8 | .n16 | .n32 | .n64 | .q4 | .bit => false

/-- R151: the types of VEXP2, VRCP and VRSQ. -/
def Ty.isWideFloat : Ty → Bool
  | .f16 | .bf16 | .f32 => true
  | .fe8 | .i8 | .i16 | .i32 | .i64 | .n8 | .n16 | .n32 | .n64 | .q4 | .bit => false

/-- R141, R146, R147: every type but q4 and bit. -/
def Ty.numeric (t : Ty) : Bool := t.isInt || t.isFloat

/-- R144, Table 6.5: the reserved combinations of VRED are the bitwise operators on q4 and on floats. -/
def RedOp.accepts (o : RedOp) (t : Ty) : Bool :=
  match o with
  | .add | .min | .max => true
  | .and | .or | .xor => t.isInt || decide (t = .bit)

/-- R145: a ballot needs at most 64 elements. -/
def VoteOp.accepts (o : VoteOp) (t : Ty) : Bool :=
  match o with
  | .ballot => t.numeric
  | .any | .all | .count => true

/-- R75, R90: the rotation window of a ROTW code. -/
def loopWindow (w : Fin 4) : Nat := if w.val = 0 then 0 else 2 ^ w.val

/-- R64, R90: the window lies within x0 to x15. -/
def loopOk (b : Fin 16) (w : Fin 4) : Bool := decide (w.val = 0) || decide (b.val + loopWindow w ≤ 16)

/-- R6: the logical tiles, and the number under which the firmware core is held (log 9). -/
def tileOk (t : Nat) : Bool := decide (t ≤ 2048)

/-- A well-formed instruction: the fields of a word combine as the manual accepts them (R60, R140 to R152, R192,
R260), and a step names an existing tile, bank, counter or register. -/
def Instr.wf : Instr → Bool
  | .nop => true
  | .halt => true
  | .trap _ => true
  | .eret => true
  | .brk _ => true
  | .yield => true
  | .fence _ _ => true
  | .publish _ _ => true
  | .tlbinv a g => !g || decide (a.val = 0)
  | .mfc _ _ => true
  | .mtc _ _ => true
  | .pfx _ _ _ _ => true
  | .loop _ _ b w _ => loopOk b w
  | .wait _ _ _ _ => true
  | .beq _ _ _ _ => true
  | .bne _ _ _ _ => true
  | .blt _ _ _ _ => true
  | .bge _ _ _ _ => true
  | .bltn _ _ _ _ => true
  | .bgen _ _ _ _ => true
  | .bz _ _ _ => true
  | .bnz _ _ _ => true
  | .j _ => true
  | .jl _ => true
  | .jr _ => true
  | .jlr _ => true
  | .ld _ _ _ _ => true
  | .ldn _ _ _ _ => true
  | .st _ _ _ _ => true
  | .ldx _ _ _ _ _ _ => true
  | .stx _ _ _ _ _ => true
  | .vld _ _ _ _ => true
  | .vst _ _ _ _ => true
  | .xld _ _ _ _ _ => true
  | .xst _ _ _ _ => true
  | .xldt _ _ _ _ => true
  | .wld _ _ _ _ _ => true
  | .rowact _ _ => true
  | .aadd _ _ _ _ => true
  | .amin _ _ _ _ => true
  | .amax _ _ _ _ => true
  | .aminn _ _ _ _ => true
  | .amaxn _ _ _ _ => true
  | .aand _ _ _ _ => true
  | .aor _ _ _ _ => true
  | .axor _ _ _ _ => true
  | .aswp _ _ _ _ => true
  | .acas _ _ _ _ _ => true
  | .afadd _ _ _ _ => true
  | .afmin _ _ _ _ => true
  | .afmax _ _ _ _ => true
  | .cpy h _ n _ => !n || decide (h.val = 0)
  | .cpys _ => true
  | .rpcRead _ _ _ _ => true
  | .rpcWrite _ _ _ _ => true
  | .vaddF32 _ _ _ _ => true
  | .vaddI32 _ _ _ _ => true
  | .vminF32 _ _ _ _ => true
  | .vmaxF32 _ _ _ _ => true
  | .cas64 _ _ _ _ => true
  | .swap64 _ _ _ _ => true
  | .readBox _ _ _ _ => true
  | .writeBox _ _ _ _ => true
  | .rpcFill _ _ _ _ => true
  | .zeroPage _ _ _ _ => true
  | .trav _ _ _ => true
  | .travRes _ _ _ => true
  | .gpool _ _ _ => true
  | .attn _ _ _ => true
  | .fwait _ _ => true
  | .fget _ _ _ _ => true
  | .ftest _ _ => true
  | .fcancel _ => true
  | .fxfer _ _ _ => true
  | .barArr _ _ _ => true
  | .barWait _ _ _ => true
  | .barAw _ _ => true
  | .sig _ _ => true
  | .wsem _ _ => true
  | .tsem _ _ _ => true
  | .asarm _ _ _ => true
  | .aswait _ _ _ => true
  | .astest _ _ _ _ => true
  | .wlapp _ _ _ => true
  | .wltake _ _ _ _ => true
  | .wldone _ _ => true
  | .qwait => true
  | .claim _ => true
  | .acq _ _ => true
  | .acqt _ _ => true
  | .rel _ => true
  | .relall => true
  | .resq _ _ => true
  | .add _ _ _ => true
  | .sub _ _ _ => true
  | .and_ _ _ _ => true
  | .or_ _ _ _ => true
  | .xor _ _ _ => true
  | .andn _ _ _ => true
  | .shl _ _ _ => true
  | .shr _ _ _ => true
  | .shra _ _ _ => true
  | .rotl _ _ _ => true
  | .min _ _ _ => true
  | .max _ _ _ => true
  | .minn _ _ _ => true
  | .maxn _ _ _ => true
  | .seq _ _ _ => true
  | .sne _ _ _ => true
  | .slt _ _ _ => true
  | .sltn _ _ _ => true
  | .sel _ _ _ _ => true
  | .clz _ _ => true
  | .ctz _ _ => true
  | .popc _ _ => true
  | .mov _ _ => true
  | .mul _ _ _ => true
  | .mulh _ _ _ => true
  | .mulhn _ _ _ => true
  | .div _ _ _ => true
  | .divn _ _ _ => true
  | .rem _ _ _ => true
  | .remn _ _ _ => true
  | .addi _ _ _ => true
  | .andi _ _ _ => true
  | .ori _ _ _ => true
  | .xori _ _ _ => true
  | .shli _ _ _ => true
  | .shri _ _ _ => true
  | .shrai _ _ _ => true
  | .slti _ _ _ => true
  | .li _ _ => true
  | .lih _ _ _ => true
  | .fadd _ _ _ _ => true
  | .fsub _ _ _ _ => true
  | .fmul _ _ _ _ => true
  | .fdiv _ _ _ _ => true
  | .fsqrt _ _ _ => true
  | .fmin _ _ _ _ => true
  | .fmax _ _ _ _ => true
  | .fcmp _ _ _ _ _ => true
  | .fcvt _ _ _ => true
  | .fclass _ _ _ => true
  | .fma _ _ _ _ _ _ => true
  | .vadd _ _ _ _ _ t => t.numeric
  | .vsub _ _ _ _ _ t => t.numeric
  | .vmul _ _ _ _ _ t => t.numeric
  | .vfma _ _ _ _ _ t => t.numeric
  | .vmin _ _ _ _ _ t => t.numeric
  | .vmax _ _ _ _ _ t => t.numeric
  | .vabsd _ _ _ _ _ t => t.numeric
  | .vand _ _ _ _ _ _ => true
  | .vor _ _ _ _ _ _ => true
  | .vxor _ _ _ _ _ _ => true
  | .vshl _ _ _ _ _ t => t.isInt
  | .vshr _ _ _ _ _ t => t.isInt
  | .vshra _ _ _ _ _ t => t.isInt
  | .vceq _ _ _ _ _ t => t.numeric
  | .vclt _ _ _ _ _ t => t.numeric
  | .vsel _ _ _ _ _ _ => true
  | .vcvt _ _ _ _ _ _ => true
  | .vred _ _ o _ t => RedOp.accepts o t
  | .vbcst _ _ _ _ => true
  | .vshuf _ _ _ _ _ t => t.numeric
  | .vvote _ _ o _ t => VoteOp.accepts o t
  | .vmatch _ _ _ _ t => t.numeric
  | .vext _ _ _ _ _ => true
  | .vins _ _ _ _ _ => true
  | .vexp2 _ _ _ _ t => t.isWideFloat
  | .vrcp _ _ _ _ t => t.isWideFloat
  | .vrsq _ _ _ _ t => t.isWideFloat
  | .vcpy _ _ _ _ => true
  | .xzero _ => true
  | .xfill _ _ => true
  | .xcpy _ _ => true
  | .xtrn _ _ => true
  | .mmul _ _ _ f n _ => decide (f.val + n.val ≤ 15)
  | .mdrain _ _ _ => true
  | .mldw _ _ => true
  | .mswap _ => true
  | .macz _ _ => true
  | .mopw _ _ => true
  | .mopr _ _ => true
  | .msave _ _ => true
  | .mrest _ _ => true
  | .pendingCauseEntry t _ => tileOk t
  | .timer t _ => tileOk t
  | .quantumExpiry t k => tileOk t && decide (k < 2)
  | .drowsyEntry t k => tileOk t && decide (k < 32)
  | .taskStart t => tileOk t
  | .taskEnd t _ => tileOk t
  | .loadDataReturn t _ _ => tileOk t
  | .storePerform t _ _ => tileOk t
  | .remoteAccessArrival t _ _ => tileOk t
  | .tileSegmentLand t _ => tileOk t
  | .writeBlockTimeout t _ => tileOk t
  | .refresh t k => tileOk t && decide (k < 24)
  | .refreshEnd t k => tileOk t && decide (k < 24)
  | .thermalSample t _ => tileOk t
  | .holdEntered t => tileOk t
  | .maintenanceHold t => tileOk t
  | .maintenanceRelease t => tileOk t
  | .holdTimeout t _ => tileOk t
  | .rowRepairDone t k m => tileOk t && decide (k < 24) && decide (m < 5462)
  | .matrixOpStart t => tileOk t
  | .matrixOpComplete t _ => tileOk t
  | .copyAccess t _ _ => tileOk t
  | .copyComplete t _ => tileOk t
  | .scheduleEntryRelease t => tileOk t
  | .cancelArrival _ => true
  | .agentServe t => tileOk t
  | .agentHoldTimeout t => tileOk t
  | .ramblerStep t _ => tileOk t
  | .continuationArrival _ => true
  | .gatherPool t => tileOk t
  | .attentionDecode t => tileOk t
  | .replyArrival _ => true
  | .barrierArrival _ => true
  | .barrierRelease t _ => tileOk t
  | .barrierTimeout t _ => tileOk t
  | .wlRequestApply t _ => tileOk t
  | .wlAnswer t _ => tileOk t
  | .preemption _ => true
  | .contextsHalted _ => true
  | .tileImageSave t => tileOk t
  | .launchRestore _ => true
  | .watchdogExpiry _ => true
  | .priorityAging _ => true
  | .qtail _ _ => true
  | .launch _ => true
  | .copy _ => true
  | .copyCommandComplete _ _ => true
  | .fenceCommand _ => true
  | .signal _ => true
  | .waitval _ => true
  | .cond _ => true
  | .publishCommand _ => true
  | .launchComplete _ => true
  | .shoot _ => true
  | .shootdownComplete => true
  | .crst _ => true
  | .mbdata _ => true
  | .bar2Read a => decide (a < 2 ^ 34) && decide (a % 8 = 0)
  | .bar2Write a _ => decide (a < 2 ^ 34) && decide (a % 8 = 0)
  | .priResponse _ _ => true
  | .atsInvalidation _ => true
  | .registerWrite a wide _ => decide (a < 131072) && decide (a % (if wide then 8 else 4) = 0)
  | .fwcmdQueueReset _ => true
  | .fwcmdPartitionReset _ => true
  | .fwcmdDeviceReset => true
  | .relclr _ => true
  | .dbgHalt => true
  | .dbgResume => true
  | .resumeTakesEffect t _ => tileOk t
  | .dbgStep => true
  | .rdreg _ => true
  | .wrreg _ => true
  | .rdrow _ _ => true
  | .wrrow _ _ => true
  | .rdmem => true
  | .wrmem => true
  | .rdslot _ _ => true
  | .evwait _ => true
  | .pctlHalt _ => true
  | .pctlCancel _ => true
  | .pctlClear _ => true
  | .clearComplete _ => true
  | .pctlRun _ _ => true
  | .qend _ => true
  | .jalloc _ => true
  | .jw _ _ => true
  | .powerOn => true
  | .mctpControl => true
  | .getId _ => true
  | .attest _ => true
  | .journalRead _ k => decide (1 ≤ k) && decide (k ≤ 16)
  | .telemetry _ _ => true
  | .dumpRead _ _ _ => true
  | .queueReset _ => true
  | .partitionReset _ => true
  | .deviceReset => true
  | .fwBegin => true
  | .fwData _ data => decide (data.length ≤ 1024)
  | .fwCommit => true
  | .machineCheck t => tileOk t
  | .peerLinkFailure _ => true
  | .patrolScrub t => tileOk t
  | .sramScrub t => tileOk t
  | .matrixSpareSwitch t => tileOk t
  | .pairIntervalEnd t _ _ => tileOk t
  | .uvWindow _ => true
  | .verificationWindow _ => true
  | .verificationWindowEnd _ => true
  | .networkSnapshot => true
  | .replayWaitTimeout t => tileOk t
  | .reservedPattern _ => true
  | .eventCounterWrap t k _ => tileOk t && decide (k < 2)
  | .pcieLinkStateChange _ => true
  | .unservedMctpMessage _ => true

end Sys2Proof
end

