-- ==== Sys2Proof/Decode.lean ====
section
/-! DEFINITION. From words to instructions and back. Every 32-bit word decodes to an instruction or to the
named trap of R64; the encoder is written from the same tables. Bit 31, L, belongs to the issue group (R55). -/

namespace Sys2Proof

/-- R64, R65: why a word is no instruction, in the order in which the traps are raised. -/
inductive Reject where
  /-- R64: undefined major, minor or SUB. Raised by the decoder; safe, the manual names the trap. -/
  | opcodeUndefined
  /-- R64: a reserved field or code. Raised by the decoder; safe, the manual names the trap. -/
  | fieldReserved
  /-- R64, R90: a LOOP window past x15. Raised by the decoder; safe, the manual names the trap. -/
  | loopRotation
  /-- Fewer than four bytes: no word. Raised by `decodeBytes`; safe. -/
  | truncated
  deriving DecidableEq, Repr

/-- R2: field [lo+n-1:lo] of a word. -/
def fld (w lo n : Nat) : Nat := w / 2 ^ lo % 2 ^ n

/-- A field of a word as a number below `n`, for `n` a power of two. -/
def fin (n : Nat) [NeZero n] (w lo : Nat) : Fin n := Fin.ofNat n (w / 2 ^ lo)

/-- One bit of a word. -/
def flag (w lo : Nat) : Bool := decide (fld w lo 1 = 1)

/-- One bit as a number. -/
def bit (b : Bool) : Nat := if b then 1 else 0

/-- A number below a bound that is no power of two. -/
def finBelow (n v : Nat) : Option (Fin n) := if h : v < n then some ⟨v, h⟩ else none

/-- A field code with no meaning is a reserved field (R64). -/
def withCode {α : Type} (o : Option α) (k : α → Except Reject Instr) : Except Reject Instr :=
  match o with
  | some x => k x
  | none => .error .fieldReserved

/-- R30, Table 2.1: the code of each value. -/
def Ty.code : Ty → Nat
  | .i8 => 0
  | .i16 => 1
  | .i32 => 2
  | .i64 => 3
  | .n8 => 4
  | .n16 => 5
  | .n32 => 6
  | .n64 => 7
  | .fe8 => 8
  | .f16 => 9
  | .bf16 => 10
  | .f32 => 11
  | .q4 => 12
  | .bit => 13

/-- R30, Table 2.1: the value of a code, none for a reserved code. -/
def Ty.ofCode : Nat → Option Ty
  | 0 => some .i8
  | 1 => some .i16
  | 2 => some .i32
  | 3 => some .i64
  | 4 => some .n8
  | 5 => some .n16
  | 6 => some .n32
  | 7 => some .n64
  | 8 => some .fe8
  | 9 => some .f16
  | 10 => some .bf16
  | 11 => some .f32
  | 12 => some .q4
  | 13 => some .bit
  | _ => none

/-- R96: the code of each value. -/
def Prec.code : Prec → Nat
  | .f32 => 0
  | .f64 => 1

/-- R96: the value of a code, none for a reserved code. -/
def Prec.ofCode : Nat → Option Prec
  | 0 => some .f32
  | 1 => some .f64
  | _ => none

/-- R97, Table 4.10: the code of each value. -/
def FcmpPred.code : FcmpPred → Nat
  | .eq => 0
  | .lt => 1
  | .le => 2
  | .un => 3
  | .ne => 4

/-- R97, Table 4.10: the value of a code, none for a reserved code. -/
def FcmpPred.ofCode : Nat → Option FcmpPred
  | 0 => some .eq
  | 1 => some .lt
  | 2 => some .le
  | 3 => some .un
  | 4 => some .ne
  | _ => none

/-- R99, Table 4.11: the code of each value. -/
def FcvtOp.code : FcvtOp → Nat
  | .f64f32 => 0
  | .f32f64 => 1
  | .i64f32 => 2
  | .i64f64 => 3
  | .n64f32 => 4
  | .n64f64 => 5
  | .i32f32 => 6
  | .i32f64 => 7
  | .f32i64 => 8
  | .f64i64 => 9
  | .f32n64 => 10
  | .f64n64 => 11

/-- R99, Table 4.11: the value of a code, none for a reserved code. -/
def FcvtOp.ofCode : Nat → Option FcvtOp
  | 0 => some .f64f32
  | 1 => some .f32f64
  | 2 => some .i64f32
  | 3 => some .i64f64
  | 4 => some .n64f32
  | 5 => some .n64f64
  | 6 => some .i32f32
  | 7 => some .i32f64
  | 8 => some .f32i64
  | 9 => some .f64i64
  | 10 => some .f32n64
  | 11 => some .f64n64
  | _ => none

/-- R144: the code of each value. -/
def RedOp.code : RedOp → Nat
  | .add => 0
  | .min => 1
  | .max => 2
  | .and => 3
  | .or => 4
  | .xor => 5

/-- R144: the value of a code, none for a reserved code. -/
def RedOp.ofCode : Nat → Option RedOp
  | 0 => some .add
  | 1 => some .min
  | 2 => some .max
  | 3 => some .and
  | 4 => some .or
  | 5 => some .xor
  | _ => none

/-- R145: the code of each value. -/
def VoteOp.code : VoteOp → Nat
  | .any => 0
  | .all => 1
  | .ballot => 2
  | .count => 3

/-- R145: the value of a code, none for a reserved code. -/
def VoteOp.ofCode : Nat → Option VoteOp
  | 0 => some .any
  | 1 => some .all
  | 2 => some .ballot
  | 3 => some .count
  | _ => none

/-- R59: the code of each value. -/
def Size.code : Size → Nat
  | .b => 0
  | .h => 1
  | .w => 2
  | .d => 3

/-- R59: the value of a code, none for a reserved code. -/
def Size.ofCode : Nat → Option Size
  | 0 => some .b
  | 1 => some .h
  | 2 => some .w
  | 3 => some .d
  | _ => none

/-- R123: the code of each value. -/
def ASize.code : ASize → Nat
  | .w => 2
  | .d => 3

/-- R123: the value of a code, none for a reserved code. -/
def ASize.ofCode : Nat → Option ASize
  | 2 => some .w
  | 3 => some .d
  | _ => none

/-- R68: the code of each value. -/
def NullCode.code : NullCode → Nat
  | .none => 0
  | .nt => 1
  | .tk => 2

/-- R68: the value of a code, none for a reserved code. -/
def NullCode.ofCode : Nat → Option NullCode
  | 0 => some .none
  | 1 => some .nt
  | 2 => some .tk
  | _ => Option.none

/-- R70, Table 3.9: the code of each value. -/
def Ord.code : Ord → Nat
  | .dflt => 0
  | .relaxed => 1
  | .acquire => 2
  | .release => 3
  | .acqrel => 4
  | .scseq => 5

/-- R70, Table 3.9: the value of a code, none for a reserved code. -/
def Ord.ofCode : Nat → Option Ord
  | 0 => some .dflt
  | 1 => some .relaxed
  | 2 => some .acquire
  | 3 => some .release
  | 4 => some .acqrel
  | 5 => some .scseq
  | _ => none

/-- R258: the code of each value. -/
def FOrd.code : FOrd → Nat
  | .dflt => 0
  | .acquire => 2
  | .release => 3
  | .acqrel => 4
  | .scseq => 5

/-- R258: the value of a code, none for a reserved code. -/
def FOrd.ofCode : Nat → Option FOrd
  | 0 => some .dflt
  | 2 => some .acquire
  | 3 => some .release
  | 4 => some .acqrel
  | 5 => some .scseq
  | _ => none

/-- R70, Table 3.9: the code of each value. -/
def Scope.code : Scope → Nat
  | .dflt => 0
  | .tile => 1
  | .cluster => 2
  | .sector => 3
  | .device => 4
  | .system => 5

/-- R70, Table 3.9: the value of a code, none for a reserved code. -/
def Scope.ofCode : Nat → Option Scope
  | 0 => some .dflt
  | 1 => some .tile
  | 2 => some .cluster
  | 3 => some .sector
  | 4 => some .device
  | 5 => some .system
  | _ => none

/-- R70, Table 3.9: the code of each value. -/
def Spc.code : Spc → Nat
  | .dflt => 0
  | .scratch => 1
  | .vault => 2
  | .host => 3

/-- R70, Table 3.9: the value of a code, none for a reserved code. -/
def Spc.ofCode : Nat → Option Spc
  | 0 => some .dflt
  | 1 => some .scratch
  | 2 => some .vault
  | 3 => some .host
  | _ => none

/-- R70, Table 3.9: the code of each value. -/
def Pol.code : Pol → Nat
  | .dflt => 0
  | .keep => 1
  | .close => 2
  | .stream => 3
  | .wcomb => 4

/-- R70, Table 3.9: the value of a code, none for a reserved code. -/
def Pol.ofCode : Nat → Option Pol
  | 0 => some .dflt
  | 1 => some .keep
  | 2 => some .close
  | 3 => some .stream
  | 4 => some .wcomb
  | _ => none

/-- R224, Table 1.7: the code of each value. -/
def BarDom.code : BarDom → Nat
  | .tile => 2
  | .cluster => 3
  | .sector => 4
  | .device => 5
  | .fabric => 6

/-- R224, Table 1.7: the value of a code, none for a reserved code. -/
def BarDom.ofCode : Nat → Option BarDom
  | 2 => some .tile
  | 3 => some .cluster
  | 4 => some .sector
  | 5 => some .device
  | 6 => some .fabric
  | _ => none

/-- R117, Table 5.2: the code of each value. -/
def XldtW.code : XldtW → Nat
  | .byte => 0
  | .half => 1

/-- R117, Table 5.2: the value of a code, none for a reserved code. -/
def XldtW.ofCode : Nat → Option XldtW
  | 0 => some .byte
  | 1 => some .half
  | _ => none

/-- R263, Table 10.2: the code of each value. -/
def CReg.code : CReg → Nat
  | .status => 0
  | .epc => 1
  | .enpc => 2
  | .ennpc => 3
  | .eannul => 4
  | .ecause => 5
  | .eval => 6
  | .eseq => 7
  | .eloop => 8
  | .handler => 9
  | .mdef => 10
  | .fpmode => 11
  | .fpflags => 12
  | .mxflags => 13
  | .fmta => 14
  | .fmtb => 15
  | .scla => 16
  | .sclb => 17
  | .tilexy => 18
  | .ctxid => 19
  | .lvl0 => 20
  | .lvl1 => 21
  | .lvl2 => 22
  | .lvl3 => 23
  | .lvl4 => 24
  | .lvl5 => 25
  | .lvl6 => 26
  | .lvl7 => 27
  | .lvln => 28
  | .spillb => 29
  | .spillov => 30
  | .spilllim => 31
  | .sched => 32
  | .time => 33
  | .seqno => 34

/-- R263, Table 10.2: the value of a code, none for a reserved code. -/
def CReg.ofCode : Nat → Option CReg
  | 0 => some .status
  | 1 => some .epc
  | 2 => some .enpc
  | 3 => some .ennpc
  | 4 => some .eannul
  | 5 => some .ecause
  | 6 => some .eval
  | 7 => some .eseq
  | 8 => some .eloop
  | 9 => some .handler
  | 10 => some .mdef
  | 11 => some .fpmode
  | 12 => some .fpflags
  | 13 => some .mxflags
  | 14 => some .fmta
  | 15 => some .fmtb
  | 16 => some .scla
  | 17 => some .sclb
  | 18 => some .tilexy
  | 19 => some .ctxid
  | 20 => some .lvl0
  | 21 => some .lvl1
  | 22 => some .lvl2
  | 23 => some .lvl3
  | 24 => some .lvl4
  | 25 => some .lvl5
  | 26 => some .lvl6
  | 27 => some .lvl7
  | 28 => some .lvln
  | 29 => some .spillb
  | 30 => some .spillov
  | 31 => some .spilllim
  | 32 => some .sched
  | 33 => some .time
  | 34 => some .seqno
  | _ => none

/-- R64, R65: the combinations of fields that no single field shows. -/
def check (i : Instr) : Except Reject Instr :=
  match i with
  | .loop _ _ b w _ => if loopOk b w then .ok i else .error .loopRotation
  | _ => if i.wf then .ok i else .error .fieldReserved

/-- R253. -/
def decNop (w : Nat) : Except Reject Instr :=
  if fld w 0 6 = 0 ∧ fld w 12 12 = 0 then check .nop else .error .fieldReserved

/-- R254. -/
def decHalt (w : Nat) : Except Reject Instr :=
  if fld w 0 6 = 0 ∧ fld w 12 12 = 0 then check .halt else .error .fieldReserved

/-- R255. -/
def decTrap (w : Nat) : Except Reject Instr :=
  if fld w 12 12 = 0 then check (.trap (fin 64 w 0)) else .error .fieldReserved

/-- R256. -/
def decEret (w : Nat) : Except Reject Instr :=
  if fld w 0 6 = 0 ∧ fld w 12 12 = 0 then check .eret else .error .fieldReserved

/-- R255. -/
def decBrk (w : Nat) : Except Reject Instr :=
  if fld w 12 12 = 0 then check (.brk (fin 64 w 0)) else .error .fieldReserved

/-- R257. -/
def decYield (w : Nat) : Except Reject Instr :=
  if fld w 0 6 = 0 ∧ fld w 12 12 = 0 then check .yield else .error .fieldReserved

/-- R258. -/
def decFence (w : Nat) : Except Reject Instr :=
  if fld w 12 12 = 0 then withCode (Scope.ofCode (fld w 3 3)) fun xs => withCode (FOrd.ofCode (fld w 0 3)) fun xo => check (.fence xs xo) else .error .fieldReserved

/-- R259. -/
def decPublish (w : Nat) : Except Reject Instr :=
  if fld w 0 6 = 0 ∧ fld w 20 4 = 0 then check (.publish (fin 16 w 16) (fin 16 w 12)) else .error .fieldReserved

/-- R260. -/
def decTlbinv (w : Nat) : Except Reject Instr :=
  if fld w 1 5 = 0 ∧ fld w 12 4 = 0 ∧ fld w 20 4 = 0 then check (.tlbinv (fin 16 w 16) (flag w 0)) else .error .fieldReserved

/-- R261. -/
def decMfc (w : Nat) : Except Reject Instr :=
  if fld w 12 8 = 0 then withCode (CReg.ofCode (fld w 0 6)) fun xc => check (.mfc (fin 16 w 20) xc) else .error .fieldReserved

/-- R261. -/
def decMtc (w : Nat) : Except Reject Instr :=
  if fld w 12 4 = 0 ∧ fld w 20 4 = 0 then withCode (CReg.ofCode (fld w 0 6)) fun xc => check (.mtc (fin 16 w 16) xc) else .error .fieldReserved

/-- R71. -/
def decPfx (w : Nat) : Except Reject Instr :=
  if fld w 0 12 = 0 then withCode (Ord.ofCode (fld w 21 3)) fun xo => withCode (Scope.ofCode (fld w 18 3)) fun xs => withCode (Spc.ofCode (fld w 15 3)) fun xp => withCode (Pol.ofCode (fld w 12 3)) fun xq => check (.pfx xo xs xp xq) else .error .fieldReserved

/-- R91. -/
def decLoop (w : Nat) : Except Reject Instr :=
  if fld w 0 4 = 0 then check (.loop (fin 16 w 20) (fin 64 w 14) (fin 16 w 10) (fin 4 w 8) (fin 16 w 4)) else .error .fieldReserved

/-- R223. -/
def decWait (w : Nat) : Except Reject Instr :=
  check (.wait (fin 64 w 18) (fin 64 w 12) (fin 64 w 6) (fin 64 w 0))

/-- R85. -/
def decBeq (w : Nat) : Except Reject Instr :=
  withCode (NullCode.ofCode (fld w 22 2)) fun xn => check (.beq xn (fin 16 w 18) (fin 16 w 14) (fin 16384 w 0))

/-- R85. -/
def decBne (w : Nat) : Except Reject Instr :=
  withCode (NullCode.ofCode (fld w 22 2)) fun xn => check (.bne xn (fin 16 w 18) (fin 16 w 14) (fin 16384 w 0))

/-- R85. -/
def decBlt (w : Nat) : Except Reject Instr :=
  withCode (NullCode.ofCode (fld w 22 2)) fun xn => check (.blt xn (fin 16 w 18) (fin 16 w 14) (fin 16384 w 0))

/-- R85. -/
def decBge (w : Nat) : Except Reject Instr :=
  withCode (NullCode.ofCode (fld w 22 2)) fun xn => check (.bge xn (fin 16 w 18) (fin 16 w 14) (fin 16384 w 0))

/-- R85. -/
def decBltn (w : Nat) : Except Reject Instr :=
  withCode (NullCode.ofCode (fld w 22 2)) fun xn => check (.bltn xn (fin 16 w 18) (fin 16 w 14) (fin 16384 w 0))

/-- R85. -/
def decBgen (w : Nat) : Except Reject Instr :=
  withCode (NullCode.ofCode (fld w 22 2)) fun xn => check (.bgen xn (fin 16 w 18) (fin 16 w 14) (fin 16384 w 0))

/-- R85. -/
def decBz (w : Nat) : Except Reject Instr :=
  if fld w 14 4 = 0 then withCode (NullCode.ofCode (fld w 22 2)) fun xn => check (.bz xn (fin 16 w 18) (fin 16384 w 0)) else .error .fieldReserved

/-- R85. -/
def decBnz (w : Nat) : Except Reject Instr :=
  if fld w 14 4 = 0 then withCode (NullCode.ofCode (fld w 22 2)) fun xn => check (.bnz xn (fin 16 w 18) (fin 16384 w 0)) else .error .fieldReserved

/-- R88. -/
def decJ (w : Nat) : Except Reject Instr :=
  check (.j (fin 16777216 w 0))

/-- R89. -/
def decJl (w : Nat) : Except Reject Instr :=
  check (.jl (fin 16777216 w 0))

/-- R88. -/
def decJr (w : Nat) : Except Reject Instr :=
  if fld w 0 16 = 0 ∧ fld w 20 4 = 0 then check (.jr (fin 16 w 16)) else .error .fieldReserved

/-- R89. -/
def decJlr (w : Nat) : Except Reject Instr :=
  if fld w 0 16 = 0 ∧ fld w 20 4 = 0 then check (.jlr (fin 16 w 16)) else .error .fieldReserved

/-- R113. -/
def decLd (w : Nat) : Except Reject Instr :=
  withCode (Size.ofCode (fld w 14 2)) fun xz => check (.ld (fin 16 w 20) (fin 16 w 16) xz (fin 16384 w 0))

/-- R113. -/
def decLdn (w : Nat) : Except Reject Instr :=
  withCode (Size.ofCode (fld w 14 2)) fun xz => check (.ldn (fin 16 w 20) (fin 16 w 16) xz (fin 16384 w 0))

/-- R113. -/
def decSt (w : Nat) : Except Reject Instr :=
  withCode (Size.ofCode (fld w 14 2)) fun xz => check (.st (fin 16 w 20) (fin 16 w 16) xz (fin 16384 w 0))

/-- R114. -/
def decLdx (w : Nat) : Except Reject Instr :=
  if fld w 4 2 = 0 then withCode (Size.ofCode (fld w 0 2)) fun xz => check (.ldx (fin 16 w 20) (fin 16 w 16) (fin 16 w 12) (flag w 3) (flag w 2) xz) else .error .fieldReserved

/-- R114. -/
def decStx (w : Nat) : Except Reject Instr :=
  if fld w 2 1 = 0 ∧ fld w 4 2 = 0 then withCode (Size.ofCode (fld w 0 2)) fun xz => check (.stx (fin 16 w 20) (fin 16 w 16) (fin 16 w 12) (flag w 3) xz) else .error .fieldReserved

/-- R116. -/
def decVld (w : Nat) : Except Reject Instr :=
  check (.vld (fin 16 w 20) (fin 16 w 16) (fin 16 w 12) (fin 4096 w 0))

/-- R116. -/
def decVst (w : Nat) : Except Reject Instr :=
  check (.vst (fin 16 w 20) (fin 16 w 16) (fin 16 w 12) (fin 4096 w 0))

/-- R117. -/
def decXld (w : Nat) : Except Reject Instr :=
  check (.xld (fin 16 w 20) (fin 16 w 16) (flag w 15) (fin 8 w 12) (fin 4096 w 0))

/-- R117. -/
def decXst (w : Nat) : Except Reject Instr :=
  if fld w 15 1 = 0 then check (.xst (fin 16 w 20) (fin 16 w 16) (fin 8 w 12) (fin 4096 w 0)) else .error .fieldReserved

/-- R120. -/
def decXldt (w : Nat) : Except Reject Instr :=
  if fld w 14 2 = 0 then withCode (XldtW.ofCode (fld w 12 2)) fun xw => check (.xldt (fin 16 w 20) (fin 16 w 16) xw (fin 4096 w 0)) else .error .fieldReserved

/-- R121. -/
def decWld (w : Nat) : Except Reject Instr :=
  if fld w 22 2 = 0 then check (.wld (fin 4 w 20) (fin 16 w 16) (flag w 15) (fin 8 w 12) (fin 4096 w 0)) else .error .fieldReserved

/-- R122. -/
def decRowact (w : Nat) : Except Reject Instr :=
  if fld w 12 4 = 0 ∧ fld w 20 4 = 0 then check (.rowact (fin 16 w 16) (fin 4096 w 0)) else .error .fieldReserved

/-- R123. -/
def decAadd (w : Nat) : Except Reject Instr :=
  if fld w 2 4 = 0 then withCode (ASize.ofCode (fld w 0 2)) fun xz => check (.aadd (fin 16 w 20) (fin 16 w 16) (fin 16 w 12) xz) else .error .fieldReserved

/-- R123. -/
def decAmin (w : Nat) : Except Reject Instr :=
  if fld w 2 4 = 0 then withCode (ASize.ofCode (fld w 0 2)) fun xz => check (.amin (fin 16 w 20) (fin 16 w 16) (fin 16 w 12) xz) else .error .fieldReserved

/-- R123. -/
def decAmax (w : Nat) : Except Reject Instr :=
  if fld w 2 4 = 0 then withCode (ASize.ofCode (fld w 0 2)) fun xz => check (.amax (fin 16 w 20) (fin 16 w 16) (fin 16 w 12) xz) else .error .fieldReserved

/-- R123. -/
def decAminn (w : Nat) : Except Reject Instr :=
  if fld w 2 4 = 0 then withCode (ASize.ofCode (fld w 0 2)) fun xz => check (.aminn (fin 16 w 20) (fin 16 w 16) (fin 16 w 12) xz) else .error .fieldReserved

/-- R123. -/
def decAmaxn (w : Nat) : Except Reject Instr :=
  if fld w 2 4 = 0 then withCode (ASize.ofCode (fld w 0 2)) fun xz => check (.amaxn (fin 16 w 20) (fin 16 w 16) (fin 16 w 12) xz) else .error .fieldReserved

/-- R123. -/
def decAand (w : Nat) : Except Reject Instr :=
  if fld w 2 4 = 0 then withCode (ASize.ofCode (fld w 0 2)) fun xz => check (.aand (fin 16 w 20) (fin 16 w 16) (fin 16 w 12) xz) else .error .fieldReserved

/-- R123. -/
def decAor (w : Nat) : Except Reject Instr :=
  if fld w 2 4 = 0 then withCode (ASize.ofCode (fld w 0 2)) fun xz => check (.aor (fin 16 w 20) (fin 16 w 16) (fin 16 w 12) xz) else .error .fieldReserved

/-- R123. -/
def decAxor (w : Nat) : Except Reject Instr :=
  if fld w 2 4 = 0 then withCode (ASize.ofCode (fld w 0 2)) fun xz => check (.axor (fin 16 w 20) (fin 16 w 16) (fin 16 w 12) xz) else .error .fieldReserved

/-- R123. -/
def decAswp (w : Nat) : Except Reject Instr :=
  if fld w 2 4 = 0 then withCode (ASize.ofCode (fld w 0 2)) fun xz => check (.aswp (fin 16 w 20) (fin 16 w 16) (fin 16 w 12) xz) else .error .fieldReserved

/-- R123. -/
def decAcas (w : Nat) : Except Reject Instr :=
  withCode (ASize.ofCode (fld w 0 2)) fun xz => check (.acas (fin 16 w 20) (fin 16 w 16) (fin 16 w 12) (fin 16 w 2) xz)

/-- R123. -/
def decAfadd (w : Nat) : Except Reject Instr :=
  if fld w 2 4 = 0 then withCode (ASize.ofCode (fld w 0 2)) fun xz => check (.afadd (fin 16 w 20) (fin 16 w 16) (fin 16 w 12) xz) else .error .fieldReserved

/-- R123. -/
def decAfmin (w : Nat) : Except Reject Instr :=
  if fld w 2 4 = 0 then withCode (ASize.ofCode (fld w 0 2)) fun xz => check (.afmin (fin 16 w 20) (fin 16 w 16) (fin 16 w 12) xz) else .error .fieldReserved

/-- R123. -/
def decAfmax (w : Nat) : Except Reject Instr :=
  if fld w 2 4 = 0 then withCode (ASize.ofCode (fld w 0 2)) fun xz => check (.afmax (fin 16 w 20) (fin 16 w 16) (fin 16 w 12) xz) else .error .fieldReserved

/-- R192. -/
def decCpy (w : Nat) : Except Reject Instr :=
  if fld w 0 2 = 0 ∧ fld w 4 8 = 0 then check (.cpy (fin 8 w 21) (fin 16 w 12) (flag w 3) (flag w 2)) else .error .fieldReserved

/-- R200. -/
def decCpys (w : Nat) : Except Reject Instr :=
  if fld w 16 8 = 0 then check (.cpys (fin 65536 w 0)) else .error .fieldReserved

/-- R203. -/
def decRpcRead (w : Nat) : Except Reject Instr :=
  if fld w 0 2 = 0 ∧ fld w 4 8 = 0 then check (.rpcRead (fin 8 w 21) (fin 16 w 12) (flag w 3) (flag w 2)) else .error .fieldReserved

/-- R203. -/
def decRpcWrite (w : Nat) : Except Reject Instr :=
  if fld w 0 2 = 0 ∧ fld w 4 8 = 0 then check (.rpcWrite (fin 8 w 21) (fin 16 w 12) (flag w 3) (flag w 2)) else .error .fieldReserved

/-- R203. -/
def decVaddF32 (w : Nat) : Except Reject Instr :=
  if fld w 0 2 = 0 ∧ fld w 4 8 = 0 then check (.vaddF32 (fin 8 w 21) (fin 16 w 12) (flag w 3) (flag w 2)) else .error .fieldReserved

/-- R203. -/
def decVaddI32 (w : Nat) : Except Reject Instr :=
  if fld w 0 2 = 0 ∧ fld w 4 8 = 0 then check (.vaddI32 (fin 8 w 21) (fin 16 w 12) (flag w 3) (flag w 2)) else .error .fieldReserved

/-- R203. -/
def decVminF32 (w : Nat) : Except Reject Instr :=
  if fld w 0 2 = 0 ∧ fld w 4 8 = 0 then check (.vminF32 (fin 8 w 21) (fin 16 w 12) (flag w 3) (flag w 2)) else .error .fieldReserved

/-- R203. -/
def decVmaxF32 (w : Nat) : Except Reject Instr :=
  if fld w 0 2 = 0 ∧ fld w 4 8 = 0 then check (.vmaxF32 (fin 8 w 21) (fin 16 w 12) (flag w 3) (flag w 2)) else .error .fieldReserved

/-- R203. -/
def decCas64 (w : Nat) : Except Reject Instr :=
  if fld w 0 2 = 0 ∧ fld w 4 8 = 0 then check (.cas64 (fin 8 w 21) (fin 16 w 12) (flag w 3) (flag w 2)) else .error .fieldReserved

/-- R203. -/
def decSwap64 (w : Nat) : Except Reject Instr :=
  if fld w 0 2 = 0 ∧ fld w 4 8 = 0 then check (.swap64 (fin 8 w 21) (fin 16 w 12) (flag w 3) (flag w 2)) else .error .fieldReserved

/-- R203. -/
def decReadBox (w : Nat) : Except Reject Instr :=
  if fld w 0 2 = 0 ∧ fld w 4 8 = 0 then check (.readBox (fin 8 w 21) (fin 16 w 12) (flag w 3) (flag w 2)) else .error .fieldReserved

/-- R203. -/
def decWriteBox (w : Nat) : Except Reject Instr :=
  if fld w 0 2 = 0 ∧ fld w 4 8 = 0 then check (.writeBox (fin 8 w 21) (fin 16 w 12) (flag w 3) (flag w 2)) else .error .fieldReserved

/-- R203. -/
def decRpcFill (w : Nat) : Except Reject Instr :=
  if fld w 0 2 = 0 ∧ fld w 4 8 = 0 then check (.rpcFill (fin 8 w 21) (fin 16 w 12) (flag w 3) (flag w 2)) else .error .fieldReserved

/-- R203. -/
def decZeroPage (w : Nat) : Except Reject Instr :=
  if fld w 0 2 = 0 ∧ fld w 4 8 = 0 then check (.zeroPage (fin 8 w 21) (fin 16 w 12) (flag w 3) (flag w 2)) else .error .fieldReserved

/-- R206. -/
def decTrav (w : Nat) : Except Reject Instr :=
  if fld w 0 2 = 0 ∧ fld w 3 9 = 0 then check (.trav (fin 8 w 21) (fin 16 w 12) (flag w 2)) else .error .fieldReserved

/-- R213. -/
def decTravRes (w : Nat) : Except Reject Instr :=
  if fld w 0 2 = 0 ∧ fld w 3 9 = 0 then check (.travRes (fin 8 w 21) (fin 16 w 12) (flag w 2)) else .error .fieldReserved

/-- R214. -/
def decGpool (w : Nat) : Except Reject Instr :=
  if fld w 0 2 = 0 ∧ fld w 3 9 = 0 then check (.gpool (fin 8 w 21) (fin 16 w 12) (flag w 2)) else .error .fieldReserved

/-- R216. -/
def decAttn (w : Nat) : Except Reject Instr :=
  if fld w 0 2 = 0 ∧ fld w 3 9 = 0 then check (.attn (fin 8 w 21) (fin 16 w 12) (flag w 2)) else .error .fieldReserved

/-- R187. -/
def decFwait (w : Nat) : Except Reject Instr :=
  if fld w 1 15 = 0 then check (.fwait (fin 8 w 21) (flag w 0)) else .error .fieldReserved

/-- R187. -/
def decFget (w : Nat) : Except Reject Instr :=
  if fld w 1 3 = 0 ∧ fld w 8 4 = 0 then withCode (finBelow 6 (fld w 4 4)) fun xw => check (.fget (fin 8 w 21) (fin 16 w 12) xw (flag w 0)) else .error .fieldReserved

/-- R188. -/
def decFtest (w : Nat) : Except Reject Instr :=
  if fld w 0 12 = 0 then check (.ftest (fin 8 w 21) (fin 16 w 12)) else .error .fieldReserved

/-- R189. -/
def decFcancel (w : Nat) : Except Reject Instr :=
  if fld w 0 16 = 0 then check (.fcancel (fin 8 w 21)) else .error .fieldReserved

/-- R190. -/
def decFxfer (w : Nat) : Except Reject Instr :=
  if fld w 0 8 = 0 ∧ fld w 11 1 = 0 then check (.fxfer (fin 8 w 21) (fin 16 w 12) (fin 8 w 8)) else .error .fieldReserved

/-- R226. -/
def decBarArr (w : Nat) : Except Reject Instr :=
  if fld w 15 5 = 0 then withCode (BarDom.ofCode (fld w 12 3)) fun xm => check (.barArr (fin 16 w 20) xm (fin 64 w 0)) else .error .fieldReserved

/-- R226. -/
def decBarWait (w : Nat) : Except Reject Instr :=
  if fld w 15 1 = 0 ∧ fld w 20 4 = 0 then withCode (BarDom.ofCode (fld w 12 3)) fun xm => check (.barWait (fin 16 w 16) xm (fin 64 w 0)) else .error .fieldReserved

/-- R227. -/
def decBarAw (w : Nat) : Except Reject Instr :=
  if fld w 15 9 = 0 then withCode (BarDom.ofCode (fld w 12 3)) fun xm => check (.barAw xm (fin 64 w 0)) else .error .fieldReserved

/-- R230. -/
def decSig (w : Nat) : Except Reject Instr :=
  if fld w 4 2 = 0 ∧ fld w 12 4 = 0 ∧ fld w 20 4 = 0 then check (.sig (fin 16 w 16) (fin 16 w 0)) else .error .fieldReserved

/-- R231. -/
def decWsem (w : Nat) : Except Reject Instr :=
  if fld w 4 2 = 0 ∧ fld w 12 4 = 0 ∧ fld w 20 4 = 0 then check (.wsem (fin 16 w 16) (fin 16 w 0)) else .error .fieldReserved

/-- R230. -/
def decTsem (w : Nat) : Except Reject Instr :=
  if fld w 4 2 = 0 ∧ fld w 12 4 = 0 then check (.tsem (fin 16 w 20) (fin 16 w 16) (fin 16 w 0)) else .error .fieldReserved

/-- R232. -/
def decAsarm (w : Nat) : Except Reject Instr :=
  if fld w 20 4 = 0 then check (.asarm (fin 16 w 16) (fin 16 w 12) (fin 64 w 0)) else .error .fieldReserved

/-- R234. -/
def decAswait (w : Nat) : Except Reject Instr :=
  if fld w 20 4 = 0 then check (.aswait (fin 16 w 16) (fin 16 w 12) (fin 64 w 0)) else .error .fieldReserved

/-- R234. -/
def decAstest (w : Nat) : Except Reject Instr :=
  check (.astest (fin 16 w 20) (fin 16 w 16) (fin 16 w 12) (fin 64 w 0))

/-- R238. -/
def decWlapp (w : Nat) : Except Reject Instr :=
  if fld w 20 4 = 0 then check (.wlapp (fin 16 w 16) (fin 16 w 12) (fin 64 w 0)) else .error .fieldReserved

/-- R239. -/
def decWltake (w : Nat) : Except Reject Instr :=
  check (.wltake (fin 16 w 20) (fin 16 w 16) (fin 16 w 12) (fin 64 w 0))

/-- R240. -/
def decWldone (w : Nat) : Except Reject Instr :=
  if fld w 12 4 = 0 ∧ fld w 20 4 = 0 then check (.wldone (fin 16 w 16) (fin 64 w 0)) else .error .fieldReserved

/-- R241. -/
def decQwait (w : Nat) : Except Reject Instr :=
  if fld w 0 6 = 0 ∧ fld w 12 12 = 0 then check .qwait else .error .fieldReserved

/-- R245. -/
def decClaim (w : Nat) : Except Reject Instr :=
  if fld w 0 6 = 0 ∧ fld w 12 4 = 0 ∧ fld w 20 4 = 0 then check (.claim (fin 16 w 16)) else .error .fieldReserved

/-- R247. -/
def decAcq (w : Nat) : Except Reject Instr :=
  if fld w 0 6 = 0 ∧ fld w 12 4 = 0 then check (.acq (fin 16 w 20) (fin 16 w 16)) else .error .fieldReserved

/-- R316. -/
def decAcqt (w : Nat) : Except Reject Instr :=
  if fld w 0 6 = 0 ∧ fld w 12 4 = 0 then check (.acqt (fin 16 w 20) (fin 16 w 16)) else .error .fieldReserved

/-- R249. -/
def decRel (w : Nat) : Except Reject Instr :=
  if fld w 0 6 = 0 ∧ fld w 12 4 = 0 ∧ fld w 20 4 = 0 then check (.rel (fin 16 w 16)) else .error .fieldReserved

/-- R249. -/
def decRelall (w : Nat) : Except Reject Instr :=
  if fld w 0 6 = 0 ∧ fld w 12 12 = 0 then check .relall else .error .fieldReserved

/-- R248. -/
def decResq (w : Nat) : Except Reject Instr :=
  if fld w 0 6 = 0 ∧ fld w 12 4 = 0 then check (.resq (fin 16 w 20) (fin 16 w 16)) else .error .fieldReserved

/-- R93. -/
def decAdd (w : Nat) : Except Reject Instr :=
  if fld w 0 6 = 0 then check (.add (fin 16 w 20) (fin 16 w 16) (fin 16 w 12)) else .error .fieldReserved

/-- R93. -/
def decSub (w : Nat) : Except Reject Instr :=
  if fld w 0 6 = 0 then check (.sub (fin 16 w 20) (fin 16 w 16) (fin 16 w 12)) else .error .fieldReserved

/-- R93. -/
def decAnd_ (w : Nat) : Except Reject Instr :=
  if fld w 0 6 = 0 then check (.and_ (fin 16 w 20) (fin 16 w 16) (fin 16 w 12)) else .error .fieldReserved

/-- R93. -/
def decOr_ (w : Nat) : Except Reject Instr :=
  if fld w 0 6 = 0 then check (.or_ (fin 16 w 20) (fin 16 w 16) (fin 16 w 12)) else .error .fieldReserved

/-- R93. -/
def decXor (w : Nat) : Except Reject Instr :=
  if fld w 0 6 = 0 then check (.xor (fin 16 w 20) (fin 16 w 16) (fin 16 w 12)) else .error .fieldReserved

/-- R93. -/
def decAndn (w : Nat) : Except Reject Instr :=
  if fld w 0 6 = 0 then check (.andn (fin 16 w 20) (fin 16 w 16) (fin 16 w 12)) else .error .fieldReserved

/-- R93. -/
def decShl (w : Nat) : Except Reject Instr :=
  if fld w 0 6 = 0 then check (.shl (fin 16 w 20) (fin 16 w 16) (fin 16 w 12)) else .error .fieldReserved

/-- R93. -/
def decShr (w : Nat) : Except Reject Instr :=
  if fld w 0 6 = 0 then check (.shr (fin 16 w 20) (fin 16 w 16) (fin 16 w 12)) else .error .fieldReserved

/-- R93. -/
def decShra (w : Nat) : Except Reject Instr :=
  if fld w 0 6 = 0 then check (.shra (fin 16 w 20) (fin 16 w 16) (fin 16 w 12)) else .error .fieldReserved

/-- R93. -/
def decRotl (w : Nat) : Except Reject Instr :=
  if fld w 0 6 = 0 then check (.rotl (fin 16 w 20) (fin 16 w 16) (fin 16 w 12)) else .error .fieldReserved

/-- R93. -/
def decMin (w : Nat) : Except Reject Instr :=
  if fld w 0 6 = 0 then check (.min (fin 16 w 20) (fin 16 w 16) (fin 16 w 12)) else .error .fieldReserved

/-- R93. -/
def decMax (w : Nat) : Except Reject Instr :=
  if fld w 0 6 = 0 then check (.max (fin 16 w 20) (fin 16 w 16) (fin 16 w 12)) else .error .fieldReserved

/-- R93. -/
def decMinn (w : Nat) : Except Reject Instr :=
  if fld w 0 6 = 0 then check (.minn (fin 16 w 20) (fin 16 w 16) (fin 16 w 12)) else .error .fieldReserved

/-- R93. -/
def decMaxn (w : Nat) : Except Reject Instr :=
  if fld w 0 6 = 0 then check (.maxn (fin 16 w 20) (fin 16 w 16) (fin 16 w 12)) else .error .fieldReserved

/-- R93. -/
def decSeq (w : Nat) : Except Reject Instr :=
  if fld w 0 6 = 0 then check (.seq (fin 16 w 20) (fin 16 w 16) (fin 16 w 12)) else .error .fieldReserved

/-- R93. -/
def decSne (w : Nat) : Except Reject Instr :=
  if fld w 0 6 = 0 then check (.sne (fin 16 w 20) (fin 16 w 16) (fin 16 w 12)) else .error .fieldReserved

/-- R93. -/
def decSlt (w : Nat) : Except Reject Instr :=
  if fld w 0 6 = 0 then check (.slt (fin 16 w 20) (fin 16 w 16) (fin 16 w 12)) else .error .fieldReserved

/-- R93. -/
def decSltn (w : Nat) : Except Reject Instr :=
  if fld w 0 6 = 0 then check (.sltn (fin 16 w 20) (fin 16 w 16) (fin 16 w 12)) else .error .fieldReserved

/-- R93. -/
def decSel (w : Nat) : Except Reject Instr :=
  if fld w 4 2 = 0 then check (.sel (fin 16 w 20) (fin 16 w 16) (fin 16 w 12) (fin 16 w 0)) else .error .fieldReserved

/-- R93. -/
def decClz (w : Nat) : Except Reject Instr :=
  if fld w 0 6 = 0 ∧ fld w 12 4 = 0 then check (.clz (fin 16 w 20) (fin 16 w 16)) else .error .fieldReserved

/-- R93. -/
def decCtz (w : Nat) : Except Reject Instr :=
  if fld w 0 6 = 0 ∧ fld w 12 4 = 0 then check (.ctz (fin 16 w 20) (fin 16 w 16)) else .error .fieldReserved

/-- R93. -/
def decPopc (w : Nat) : Except Reject Instr :=
  if fld w 0 6 = 0 ∧ fld w 12 4 = 0 then check (.popc (fin 16 w 20) (fin 16 w 16)) else .error .fieldReserved

/-- R93. -/
def decMov (w : Nat) : Except Reject Instr :=
  if fld w 0 6 = 0 ∧ fld w 12 4 = 0 then check (.mov (fin 16 w 20) (fin 16 w 16)) else .error .fieldReserved

/-- R94. -/
def decMul (w : Nat) : Except Reject Instr :=
  if fld w 0 6 = 0 then check (.mul (fin 16 w 20) (fin 16 w 16) (fin 16 w 12)) else .error .fieldReserved

/-- R94. -/
def decMulh (w : Nat) : Except Reject Instr :=
  if fld w 0 6 = 0 then check (.mulh (fin 16 w 20) (fin 16 w 16) (fin 16 w 12)) else .error .fieldReserved

/-- R94. -/
def decMulhn (w : Nat) : Except Reject Instr :=
  if fld w 0 6 = 0 then check (.mulhn (fin 16 w 20) (fin 16 w 16) (fin 16 w 12)) else .error .fieldReserved

/-- R94. -/
def decDiv (w : Nat) : Except Reject Instr :=
  if fld w 0 6 = 0 then check (.div (fin 16 w 20) (fin 16 w 16) (fin 16 w 12)) else .error .fieldReserved

/-- R94. -/
def decDivn (w : Nat) : Except Reject Instr :=
  if fld w 0 6 = 0 then check (.divn (fin 16 w 20) (fin 16 w 16) (fin 16 w 12)) else .error .fieldReserved

/-- R94. -/
def decRem (w : Nat) : Except Reject Instr :=
  if fld w 0 6 = 0 then check (.rem (fin 16 w 20) (fin 16 w 16) (fin 16 w 12)) else .error .fieldReserved

/-- R94. -/
def decRemn (w : Nat) : Except Reject Instr :=
  if fld w 0 6 = 0 then check (.remn (fin 16 w 20) (fin 16 w 16) (fin 16 w 12)) else .error .fieldReserved

/-- R95. -/
def decAddi (w : Nat) : Except Reject Instr :=
  check (.addi (fin 16 w 20) (fin 16 w 16) (fin 65536 w 0))

/-- R95. -/
def decAndi (w : Nat) : Except Reject Instr :=
  check (.andi (fin 16 w 20) (fin 16 w 16) (fin 65536 w 0))

/-- R95. -/
def decOri (w : Nat) : Except Reject Instr :=
  check (.ori (fin 16 w 20) (fin 16 w 16) (fin 65536 w 0))

/-- R95. -/
def decXori (w : Nat) : Except Reject Instr :=
  check (.xori (fin 16 w 20) (fin 16 w 16) (fin 65536 w 0))

/-- R95. -/
def decShli (w : Nat) : Except Reject Instr :=
  if fld w 6 10 = 0 then check (.shli (fin 16 w 20) (fin 16 w 16) (fin 64 w 0)) else .error .fieldReserved

/-- R95. -/
def decShri (w : Nat) : Except Reject Instr :=
  if fld w 6 10 = 0 then check (.shri (fin 16 w 20) (fin 16 w 16) (fin 64 w 0)) else .error .fieldReserved

/-- R95. -/
def decShrai (w : Nat) : Except Reject Instr :=
  if fld w 6 10 = 0 then check (.shrai (fin 16 w 20) (fin 16 w 16) (fin 64 w 0)) else .error .fieldReserved

/-- R95. -/
def decSlti (w : Nat) : Except Reject Instr :=
  check (.slti (fin 16 w 20) (fin 16 w 16) (fin 65536 w 0))

/-- R95. -/
def decLi (w : Nat) : Except Reject Instr :=
  if fld w 16 4 = 0 then check (.li (fin 16 w 20) (fin 65536 w 0)) else .error .fieldReserved

/-- R95. -/
def decLih (w : Nat) : Except Reject Instr :=
  check (.lih (fin 16 w 20) (fin 16 w 16) (fin 65536 w 0))

/-- R96. -/
def decFadd (w : Nat) : Except Reject Instr :=
  if fld w 1 5 = 0 then withCode (Prec.ofCode (fld w 0 1)) fun xp => check (.fadd (fin 16 w 20) (fin 16 w 16) (fin 16 w 12) xp) else .error .fieldReserved

/-- R96. -/
def decFsub (w : Nat) : Except Reject Instr :=
  if fld w 1 5 = 0 then withCode (Prec.ofCode (fld w 0 1)) fun xp => check (.fsub (fin 16 w 20) (fin 16 w 16) (fin 16 w 12) xp) else .error .fieldReserved

/-- R96. -/
def decFmul (w : Nat) : Except Reject Instr :=
  if fld w 1 5 = 0 then withCode (Prec.ofCode (fld w 0 1)) fun xp => check (.fmul (fin 16 w 20) (fin 16 w 16) (fin 16 w 12) xp) else .error .fieldReserved

/-- R96. -/
def decFdiv (w : Nat) : Except Reject Instr :=
  if fld w 1 5 = 0 then withCode (Prec.ofCode (fld w 0 1)) fun xp => check (.fdiv (fin 16 w 20) (fin 16 w 16) (fin 16 w 12) xp) else .error .fieldReserved

/-- R96. -/
def decFsqrt (w : Nat) : Except Reject Instr :=
  if fld w 1 5 = 0 ∧ fld w 12 4 = 0 then withCode (Prec.ofCode (fld w 0 1)) fun xp => check (.fsqrt (fin 16 w 20) (fin 16 w 16) xp) else .error .fieldReserved

/-- R98. -/
def decFmin (w : Nat) : Except Reject Instr :=
  if fld w 1 5 = 0 then withCode (Prec.ofCode (fld w 0 1)) fun xp => check (.fmin (fin 16 w 20) (fin 16 w 16) (fin 16 w 12) xp) else .error .fieldReserved

/-- R98. -/
def decFmax (w : Nat) : Except Reject Instr :=
  if fld w 1 5 = 0 then withCode (Prec.ofCode (fld w 0 1)) fun xp => check (.fmax (fin 16 w 20) (fin 16 w 16) (fin 16 w 12) xp) else .error .fieldReserved

/-- R97. -/
def decFcmp (w : Nat) : Except Reject Instr :=
  if fld w 4 2 = 0 then withCode (FcmpPred.ofCode (fld w 1 3)) fun xc => withCode (Prec.ofCode (fld w 0 1)) fun xp => check (.fcmp (fin 16 w 20) (fin 16 w 16) (fin 16 w 12) xc xp) else .error .fieldReserved

/-- R99. -/
def decFcvt (w : Nat) : Except Reject Instr :=
  if fld w 12 4 = 0 then withCode (FcvtOp.ofCode (fld w 0 6)) fun xc => check (.fcvt (fin 16 w 20) (fin 16 w 16) xc) else .error .fieldReserved

/-- R100. -/
def decFclass (w : Nat) : Except Reject Instr :=
  if fld w 1 5 = 0 ∧ fld w 12 4 = 0 then withCode (Prec.ofCode (fld w 0 1)) fun xp => check (.fclass (fin 16 w 20) (fin 16 w 16) xp) else .error .fieldReserved

/-- R101. -/
def decFma (w : Nat) : Except Reject Instr :=
  if fld w 6 6 = 0 then withCode (Prec.ofCode (fld w 4 1)) fun xp => check (.fma (fin 16 w 20) (fin 16 w 16) (fin 16 w 12) (flag w 5) xp (fin 16 w 0)) else .error .fieldReserved

/-- R141. -/
def decVadd (w : Nat) : Except Reject Instr :=
  withCode (Ty.ofCode (fld w 0 4)) fun xt => check (.vadd (fin 16 w 20) (fin 16 w 16) (fin 16 w 12) (fin 16 w 8) (fin 16 w 4) xt)

/-- R141. -/
def decVsub (w : Nat) : Except Reject Instr :=
  withCode (Ty.ofCode (fld w 0 4)) fun xt => check (.vsub (fin 16 w 20) (fin 16 w 16) (fin 16 w 12) (fin 16 w 8) (fin 16 w 4) xt)

/-- R141. -/
def decVmul (w : Nat) : Except Reject Instr :=
  withCode (Ty.ofCode (fld w 0 4)) fun xt => check (.vmul (fin 16 w 20) (fin 16 w 16) (fin 16 w 12) (fin 16 w 8) (fin 16 w 4) xt)

/-- R141. -/
def decVfma (w : Nat) : Except Reject Instr :=
  withCode (Ty.ofCode (fld w 0 4)) fun xt => check (.vfma (fin 16 w 20) (fin 16 w 16) (fin 16 w 12) (fin 16 w 8) (fin 16 w 4) xt)

/-- R141. -/
def decVmin (w : Nat) : Except Reject Instr :=
  withCode (Ty.ofCode (fld w 0 4)) fun xt => check (.vmin (fin 16 w 20) (fin 16 w 16) (fin 16 w 12) (fin 16 w 8) (fin 16 w 4) xt)

/-- R141. -/
def decVmax (w : Nat) : Except Reject Instr :=
  withCode (Ty.ofCode (fld w 0 4)) fun xt => check (.vmax (fin 16 w 20) (fin 16 w 16) (fin 16 w 12) (fin 16 w 8) (fin 16 w 4) xt)

/-- R141. -/
def decVabsd (w : Nat) : Except Reject Instr :=
  withCode (Ty.ofCode (fld w 0 4)) fun xt => check (.vabsd (fin 16 w 20) (fin 16 w 16) (fin 16 w 12) (fin 16 w 8) (fin 16 w 4) xt)

/-- R141. -/
def decVand (w : Nat) : Except Reject Instr :=
  withCode (Ty.ofCode (fld w 0 4)) fun xt => check (.vand (fin 16 w 20) (fin 16 w 16) (fin 16 w 12) (fin 16 w 8) (fin 16 w 4) xt)

/-- R141. -/
def decVor (w : Nat) : Except Reject Instr :=
  withCode (Ty.ofCode (fld w 0 4)) fun xt => check (.vor (fin 16 w 20) (fin 16 w 16) (fin 16 w 12) (fin 16 w 8) (fin 16 w 4) xt)

/-- R141. -/
def decVxor (w : Nat) : Except Reject Instr :=
  withCode (Ty.ofCode (fld w 0 4)) fun xt => check (.vxor (fin 16 w 20) (fin 16 w 16) (fin 16 w 12) (fin 16 w 8) (fin 16 w 4) xt)

/-- R141. -/
def decVshl (w : Nat) : Except Reject Instr :=
  withCode (Ty.ofCode (fld w 0 4)) fun xt => check (.vshl (fin 16 w 20) (fin 16 w 16) (fin 16 w 12) (fin 16 w 8) (fin 16 w 4) xt)

/-- R141. -/
def decVshr (w : Nat) : Except Reject Instr :=
  withCode (Ty.ofCode (fld w 0 4)) fun xt => check (.vshr (fin 16 w 20) (fin 16 w 16) (fin 16 w 12) (fin 16 w 8) (fin 16 w 4) xt)

/-- R141. -/
def decVshra (w : Nat) : Except Reject Instr :=
  withCode (Ty.ofCode (fld w 0 4)) fun xt => check (.vshra (fin 16 w 20) (fin 16 w 16) (fin 16 w 12) (fin 16 w 8) (fin 16 w 4) xt)

/-- R141. -/
def decVceq (w : Nat) : Except Reject Instr :=
  withCode (Ty.ofCode (fld w 0 4)) fun xt => check (.vceq (fin 16 w 20) (fin 16 w 16) (fin 16 w 12) (fin 16 w 8) (fin 16 w 4) xt)

/-- R141. -/
def decVclt (w : Nat) : Except Reject Instr :=
  withCode (Ty.ofCode (fld w 0 4)) fun xt => check (.vclt (fin 16 w 20) (fin 16 w 16) (fin 16 w 12) (fin 16 w 8) (fin 16 w 4) xt)

/-- R141. -/
def decVsel (w : Nat) : Except Reject Instr :=
  withCode (Ty.ofCode (fld w 0 4)) fun xt => check (.vsel (fin 16 w 20) (fin 16 w 16) (fin 16 w 12) (fin 16 w 8) (fin 16 w 4) xt)

/-- R143. -/
def decVcvt (w : Nat) : Except Reject Instr :=
  withCode (Ty.ofCode (fld w 12 4)) fun xy => withCode (Ty.ofCode (fld w 0 4)) fun xt => check (.vcvt (fin 16 w 20) (fin 16 w 16) xy (fin 16 w 8) (fin 16 w 4) xt)

/-- R144. -/
def decVred (w : Nat) : Except Reject Instr :=
  if fld w 8 4 = 0 then withCode (RedOp.ofCode (fld w 12 4)) fun xo => withCode (Ty.ofCode (fld w 0 4)) fun xt => check (.vred (fin 16 w 20) (fin 16 w 16) xo (fin 16 w 4) xt) else .error .fieldReserved

/-- R148. -/
def decVbcst (w : Nat) : Except Reject Instr :=
  if fld w 4 4 = 0 ∧ fld w 12 4 = 0 then withCode (Ty.ofCode (fld w 0 4)) fun xt => check (.vbcst (fin 16 w 20) (fin 16 w 16) (fin 16 w 8) xt) else .error .fieldReserved

/-- R147. -/
def decVshuf (w : Nat) : Except Reject Instr :=
  withCode (Ty.ofCode (fld w 0 4)) fun xt => check (.vshuf (fin 16 w 20) (fin 16 w 16) (fin 16 w 12) (fin 16 w 8) (fin 16 w 4) xt)

/-- R145. -/
def decVvote (w : Nat) : Except Reject Instr :=
  if fld w 8 4 = 0 then withCode (VoteOp.ofCode (fld w 12 4)) fun xo => withCode (Ty.ofCode (fld w 0 4)) fun xt => check (.vvote (fin 16 w 20) (fin 16 w 16) xo (fin 16 w 4) xt) else .error .fieldReserved

/-- R146. -/
def decVmatch (w : Nat) : Except Reject Instr :=
  if fld w 12 4 = 0 then withCode (Ty.ofCode (fld w 0 4)) fun xt => check (.vmatch (fin 16 w 20) (fin 16 w 16) (fin 16 w 8) (fin 16 w 4) xt) else .error .fieldReserved

/-- R149. -/
def decVext (w : Nat) : Except Reject Instr :=
  if fld w 8 4 = 0 then withCode (Ty.ofCode (fld w 0 4)) fun xt => check (.vext (fin 16 w 20) (fin 16 w 16) (fin 16 w 12) (fin 16 w 4) xt) else .error .fieldReserved

/-- R148. -/
def decVins (w : Nat) : Except Reject Instr :=
  if fld w 4 4 = 0 then withCode (Ty.ofCode (fld w 0 4)) fun xt => check (.vins (fin 16 w 20) (fin 16 w 16) (fin 16 w 12) (fin 16 w 8) xt) else .error .fieldReserved

/-- R151. -/
def decVexp2 (w : Nat) : Except Reject Instr :=
  if fld w 12 4 = 0 then withCode (Ty.ofCode (fld w 0 4)) fun xt => check (.vexp2 (fin 16 w 20) (fin 16 w 16) (fin 16 w 8) (fin 16 w 4) xt) else .error .fieldReserved

/-- R151. -/
def decVrcp (w : Nat) : Except Reject Instr :=
  if fld w 12 4 = 0 then withCode (Ty.ofCode (fld w 0 4)) fun xt => check (.vrcp (fin 16 w 20) (fin 16 w 16) (fin 16 w 8) (fin 16 w 4) xt) else .error .fieldReserved

/-- R151. -/
def decVrsq (w : Nat) : Except Reject Instr :=
  if fld w 12 4 = 0 then withCode (Ty.ofCode (fld w 0 4)) fun xt => check (.vrsq (fin 16 w 20) (fin 16 w 16) (fin 16 w 8) (fin 16 w 4) xt) else .error .fieldReserved

/-- R150. -/
def decVcpy (w : Nat) : Except Reject Instr :=
  if fld w 0 4 = 0 ∧ fld w 12 4 = 0 then check (.vcpy (fin 16 w 20) (fin 16 w 16) (fin 16 w 8) (fin 16 w 4)) else .error .fieldReserved

/-- R152. -/
def decXzero (w : Nat) : Except Reject Instr :=
  if fld w 0 6 = 0 ∧ fld w 12 8 = 0 then check (.xzero (fin 16 w 20)) else .error .fieldReserved

/-- R152. -/
def decXfill (w : Nat) : Except Reject Instr :=
  if fld w 0 6 = 0 ∧ fld w 12 4 = 0 then check (.xfill (fin 16 w 20) (fin 16 w 16)) else .error .fieldReserved

/-- R152. -/
def decXcpy (w : Nat) : Except Reject Instr :=
  if fld w 0 6 = 0 ∧ fld w 12 4 = 0 then check (.xcpy (fin 16 w 20) (fin 16 w 16)) else .error .fieldReserved

/-- R152. -/
def decXtrn (w : Nat) : Except Reject Instr :=
  if fld w 0 6 = 0 ∧ fld w 12 4 = 0 then check (.xtrn (fin 16 w 20) (fin 16 w 16)) else .error .fieldReserved

/-- R173. -/
def decMmul (w : Nat) : Except Reject Instr :=
  if fld w 0 3 = 0 then check (.mmul (fin 4 w 22) (fin 8 w 19) (fin 16 w 15) (fin 16 w 11) (fin 16 w 7) (fin 16 w 3)) else .error .fieldReserved

/-- R174. -/
def decMdrain (w : Nat) : Except Reject Instr :=
  if fld w 0 14 = 0 then withCode (Ty.ofCode (fld w 14 4)) fun xt => check (.mdrain (fin 4 w 22) (fin 16 w 18) xt) else .error .fieldReserved

/-- R171. -/
def decMldw (w : Nat) : Except Reject Instr :=
  if fld w 0 18 = 0 then check (.mldw (fin 4 w 22) (fin 16 w 18)) else .error .fieldReserved

/-- R172. -/
def decMswap (w : Nat) : Except Reject Instr :=
  if fld w 0 22 = 0 then check (.mswap (fin 4 w 22)) else .error .fieldReserved

/-- R170. -/
def decMacz (w : Nat) : Except Reject Instr :=
  if fld w 0 19 = 0 then check (.macz (fin 4 w 22) (fin 8 w 19)) else .error .fieldReserved

/-- R163. -/
def decMopw (w : Nat) : Except Reject Instr :=
  if fld w 0 17 = 0 then check (.mopw (fin 8 w 21) (fin 16 w 17)) else .error .fieldReserved

/-- R163. -/
def decMopr (w : Nat) : Except Reject Instr :=
  if fld w 0 17 = 0 then check (.mopr (fin 8 w 21) (fin 16 w 17)) else .error .fieldReserved

/-- R175. -/
def decMsave (w : Nat) : Except Reject Instr :=
  if fld w 0 18 = 0 then check (.msave (fin 4 w 22) (fin 16 w 18)) else .error .fieldReserved

/-- R175. -/
def decMrest (w : Nat) : Except Reject Instr :=
  if fld w 0 18 = 0 then check (.mrest (fin 4 w 22) (fin 16 w 18)) else .error .fieldReserved

/-- R62 to R64: the instructions of major 0x00 with class bit 0, by minor code or SUB. -/
def decMajor00 (w : Nat) : Except Reject Instr :=
  match fld w 6 6 with
  | 0 => decNop w
  | 1 => decHalt w
  | 2 => decTrap w
  | 3 => decEret w
  | 4 => decBrk w
  | 5 => decYield w
  | 6 => decFence w
  | 7 => decPublish w
  | 8 => decTlbinv w
  | 9 => decMfc w
  | 10 => decMtc w
  | _ => .error .opcodeUndefined

/-- R62 to R64: the instructions of major 0x13 with class bit 0, by minor code or SUB. -/
def decMajor13 (w : Nat) : Except Reject Instr :=
  match fld w 6 6 with
  | 0 => decLdx w
  | _ => .error .opcodeUndefined

/-- R62 to R64: the instructions of major 0x14 with class bit 0, by minor code or SUB. -/
def decMajor14 (w : Nat) : Except Reject Instr :=
  match fld w 6 6 with
  | 0 => decStx w
  | _ => .error .opcodeUndefined

/-- R62 to R64: the instructions of major 0x1C with class bit 0, by minor code or SUB. -/
def decMajor1C (w : Nat) : Except Reject Instr :=
  match fld w 6 6 with
  | 0 => decAadd w
  | 1 => decAmin w
  | 2 => decAmax w
  | 3 => decAminn w
  | 4 => decAmaxn w
  | 5 => decAand w
  | 6 => decAor w
  | 7 => decAxor w
  | 8 => decAswp w
  | 9 => decAcas w
  | 10 => decAfadd w
  | 11 => decAfmin w
  | 12 => decAfmax w
  | _ => .error .opcodeUndefined

/-- R62 to R64: the instructions of major 0x20 with class bit 0, by minor code or SUB. -/
def decMajor20 (w : Nat) : Except Reject Instr :=
  match fld w 16 5 with
  | 0 => decCpy w
  | _ => .error .opcodeUndefined

/-- R62 to R64: the instructions of major 0x22 with class bit 0, by minor code or SUB. -/
def decMajor22 (w : Nat) : Except Reject Instr :=
  match fld w 16 5 with
  | 0 => decRpcRead w
  | 1 => decRpcWrite w
  | 2 => decVaddF32 w
  | 3 => decVaddI32 w
  | 4 => decVminF32 w
  | 5 => decVmaxF32 w
  | 6 => decCas64 w
  | 7 => decSwap64 w
  | 8 => decReadBox w
  | 9 => decWriteBox w
  | 10 => decRpcFill w
  | 11 => decZeroPage w
  | _ => .error .opcodeUndefined

/-- R62 to R64: the instructions of major 0x23 with class bit 0, by minor code or SUB. -/
def decMajor23 (w : Nat) : Except Reject Instr :=
  match fld w 16 5 with
  | 0 => decTrav w
  | 1 => decTravRes w
  | _ => .error .opcodeUndefined

/-- R62 to R64: the instructions of major 0x24 with class bit 0, by minor code or SUB. -/
def decMajor24 (w : Nat) : Except Reject Instr :=
  match fld w 16 5 with
  | 0 => decGpool w
  | _ => .error .opcodeUndefined

/-- R62 to R64: the instructions of major 0x25 with class bit 0, by minor code or SUB. -/
def decMajor25 (w : Nat) : Except Reject Instr :=
  match fld w 16 5 with
  | 0 => decAttn w
  | _ => .error .opcodeUndefined

/-- R62 to R64: the instructions of major 0x26 with class bit 0, by minor code or SUB. -/
def decMajor26 (w : Nat) : Except Reject Instr :=
  match fld w 16 5 with
  | 0 => decFwait w
  | 1 => decFget w
  | 2 => decFtest w
  | 3 => decFcancel w
  | 4 => decFxfer w
  | _ => .error .opcodeUndefined

/-- R62 to R64: the instructions of major 0x28 with class bit 0, by minor code or SUB. -/
def decMajor28 (w : Nat) : Except Reject Instr :=
  match fld w 6 6 with
  | 0 => decBarArr w
  | 1 => decBarWait w
  | 2 => decBarAw w
  | _ => .error .opcodeUndefined

/-- R62 to R64: the instructions of major 0x29 with class bit 0, by minor code or SUB. -/
def decMajor29 (w : Nat) : Except Reject Instr :=
  match fld w 6 6 with
  | 0 => decSig w
  | 1 => decWsem w
  | 2 => decTsem w
  | _ => .error .opcodeUndefined

/-- R62 to R64: the instructions of major 0x2A with class bit 0, by minor code or SUB. -/
def decMajor2A (w : Nat) : Except Reject Instr :=
  match fld w 6 6 with
  | 0 => decAsarm w
  | 1 => decAswait w
  | 2 => decAstest w
  | _ => .error .opcodeUndefined

/-- R62 to R64: the instructions of major 0x2B with class bit 0, by minor code or SUB. -/
def decMajor2B (w : Nat) : Except Reject Instr :=
  match fld w 6 6 with
  | 0 => decWlapp w
  | 1 => decWltake w
  | 2 => decWldone w
  | 3 => decQwait w
  | _ => .error .opcodeUndefined

/-- R62 to R64: the instructions of major 0x2C with class bit 0, by minor code or SUB. -/
def decMajor2C (w : Nat) : Except Reject Instr :=
  match fld w 6 6 with
  | 0 => decClaim w
  | 1 => decAcq w
  | 2 => decAcqt w
  | 3 => decRel w
  | 4 => decRelall w
  | 5 => decResq w
  | _ => .error .opcodeUndefined

/-- R62 to R64: the instructions of major 0x00 with class bit 1, by minor code or SUB. -/
def decMajor40 (w : Nat) : Except Reject Instr :=
  match fld w 6 6 with
  | 0 => decAdd w
  | 1 => decSub w
  | 2 => decAnd_ w
  | 3 => decOr_ w
  | 4 => decXor w
  | 5 => decAndn w
  | 6 => decShl w
  | 7 => decShr w
  | 8 => decShra w
  | 9 => decRotl w
  | 10 => decMin w
  | 11 => decMax w
  | 12 => decMinn w
  | 13 => decMaxn w
  | 14 => decSeq w
  | 15 => decSne w
  | 16 => decSlt w
  | 17 => decSltn w
  | 18 => decSel w
  | 19 => decClz w
  | 20 => decCtz w
  | 21 => decPopc w
  | 22 => decMov w
  | _ => .error .opcodeUndefined

/-- R62 to R64: the instructions of major 0x01 with class bit 1, by minor code or SUB. -/
def decMajor41 (w : Nat) : Except Reject Instr :=
  match fld w 6 6 with
  | 0 => decMul w
  | 1 => decMulh w
  | 2 => decMulhn w
  | 3 => decDiv w
  | 4 => decDivn w
  | 5 => decRem w
  | 6 => decRemn w
  | _ => .error .opcodeUndefined

/-- R62 to R64: the instructions of major 0x0C with class bit 1, by minor code or SUB. -/
def decMajor4C (w : Nat) : Except Reject Instr :=
  match fld w 6 6 with
  | 0 => decFadd w
  | 1 => decFsub w
  | 2 => decFmul w
  | 3 => decFdiv w
  | 4 => decFsqrt w
  | 5 => decFmin w
  | 6 => decFmax w
  | 7 => decFcmp w
  | 8 => decFcvt w
  | 9 => decFclass w
  | _ => .error .opcodeUndefined

/-- R62 to R64: the instructions of major 0x2C with class bit 1, by minor code or SUB. -/
def decMajor6C (w : Nat) : Except Reject Instr :=
  match fld w 6 6 with
  | 0 => decXzero w
  | 1 => decXfill w
  | 2 => decXcpy w
  | 3 => decXtrn w
  | _ => .error .opcodeUndefined

/-- R55 to R64: the instruction of a word, or the trap it raises; bit 31 is not looked at. -/
def decodeWord (w : Nat) : Except Reject Instr :=
  match fld w 24 7 with
  | 0x00 => decMajor00 w
  | 0x01 => decPfx w
  | 0x02 => decLoop w
  | 0x03 => decWait w
  | 0x04 => decBeq w
  | 0x05 => decBne w
  | 0x06 => decBlt w
  | 0x07 => decBge w
  | 0x08 => decBltn w
  | 0x09 => decBgen w
  | 0x0A => decBz w
  | 0x0B => decBnz w
  | 0x0C => decJ w
  | 0x0D => decJl w
  | 0x0E => decJr w
  | 0x0F => decJlr w
  | 0x10 => decLd w
  | 0x11 => decLdn w
  | 0x12 => decSt w
  | 0x13 => decMajor13 w
  | 0x14 => decMajor14 w
  | 0x15 => decVld w
  | 0x16 => decVst w
  | 0x17 => decXld w
  | 0x18 => decXst w
  | 0x19 => decXldt w
  | 0x1A => decWld w
  | 0x1B => decRowact w
  | 0x1C => decMajor1C w
  | 0x20 => decMajor20 w
  | 0x21 => decCpys w
  | 0x22 => decMajor22 w
  | 0x23 => decMajor23 w
  | 0x24 => decMajor24 w
  | 0x25 => decMajor25 w
  | 0x26 => decMajor26 w
  | 0x28 => decMajor28 w
  | 0x29 => decMajor29 w
  | 0x2A => decMajor2A w
  | 0x2B => decMajor2B w
  | 0x2C => decMajor2C w
  | 0x40 => decMajor40 w
  | 0x41 => decMajor41 w
  | 0x42 => decAddi w
  | 0x43 => decAndi w
  | 0x44 => decOri w
  | 0x45 => decXori w
  | 0x46 => decShli w
  | 0x47 => decShri w
  | 0x48 => decShrai w
  | 0x49 => decSlti w
  | 0x4A => decLi w
  | 0x4B => decLih w
  | 0x4C => decMajor4C w
  | 0x4D => decFma w
  | 0x50 => decVadd w
  | 0x51 => decVsub w
  | 0x52 => decVmul w
  | 0x53 => decVfma w
  | 0x54 => decVmin w
  | 0x55 => decVmax w
  | 0x56 => decVabsd w
  | 0x57 => decVand w
  | 0x58 => decVor w
  | 0x59 => decVxor w
  | 0x5A => decVshl w
  | 0x5B => decVshr w
  | 0x5C => decVshra w
  | 0x5D => decVceq w
  | 0x5E => decVclt w
  | 0x5F => decVsel w
  | 0x60 => decVcvt w
  | 0x61 => decVred w
  | 0x62 => decVbcst w
  | 0x63 => decVshuf w
  | 0x64 => decVvote w
  | 0x65 => decVmatch w
  | 0x66 => decVext w
  | 0x67 => decVins w
  | 0x68 => decVexp2 w
  | 0x69 => decVrcp w
  | 0x6A => decVrsq w
  | 0x6B => decVcpy w
  | 0x6C => decMajor6C w
  | 0x70 => decMmul w
  | 0x71 => decMdrain w
  | 0x72 => decMldw w
  | 0x73 => decMswap w
  | 0x74 => decMacz w
  | 0x75 => decMopw w
  | 0x76 => decMopr w
  | 0x77 => decMsave w
  | 0x78 => decMrest w
  | _ => .error .opcodeUndefined

/-- R2, R56: an instruction is four little-endian bytes; the rest of the list follows it. -/
def decodeBytes : List Byte → Except Reject (Instr × List Byte)
  | a :: b :: c :: d :: rest =>
    match decodeWord (a.toNat + b.toNat * 2 ^ 8 + c.toNat * 2 ^ 16 + d.toNat * 2 ^ 24) with
    | .ok i => .ok (i, rest)
    | .error e => .error e
  | _ => .error .truncated

/-- R2: a field's value at bit `lo` of a word. -/
def put (v lo : Nat) : Nat := v * 2 ^ lo

/-- R55 to R63: the word of an instruction with L = 0; none for a step without a word. -/
def encode : Instr → Option Nat
  | .nop => some (0x00000000)
  | .halt => some (0x00000040)
  | .trap n => some (0x00000080 + n.val)
  | .eret => some (0x000000C0)
  | .brk n => some (0x00000100 + n.val)
  | .yield => some (0x00000140)
  | .fence s o => some (0x00000180 + put s.code 3 + o.code)
  | .publish a b => some (0x000001C0 + put a.val 16 + put b.val 12)
  | .tlbinv a g => some (0x00000200 + put a.val 16 + bit g)
  | .mfc d c => some (0x00000240 + put d.val 20 + c.code)
  | .mtc a c => some (0x00000280 + put a.val 16 + c.code)
  | .pfx o s p q => some (0x01000000 + put o.code 21 + put s.code 18 + put p.code 15 + put q.code 12)
  | .loop c n b w s => some (0x02000000 + put c.val 20 + put n.val 14 + put b.val 10 + put w.val 8 + put s.val 4)
  | .wait a b c d => some (0x03000000 + put a.val 18 + put b.val 12 + put c.val 6 + d.val)
  | .beq n a b d => some (0x04000000 + put n.code 22 + put a.val 18 + put b.val 14 + d.val)
  | .bne n a b d => some (0x05000000 + put n.code 22 + put a.val 18 + put b.val 14 + d.val)
  | .blt n a b d => some (0x06000000 + put n.code 22 + put a.val 18 + put b.val 14 + d.val)
  | .bge n a b d => some (0x07000000 + put n.code 22 + put a.val 18 + put b.val 14 + d.val)
  | .bltn n a b d => some (0x08000000 + put n.code 22 + put a.val 18 + put b.val 14 + d.val)
  | .bgen n a b d => some (0x09000000 + put n.code 22 + put a.val 18 + put b.val 14 + d.val)
  | .bz n a d => some (0x0A000000 + put n.code 22 + put a.val 18 + d.val)
  | .bnz n a d => some (0x0B000000 + put n.code 22 + put a.val 18 + d.val)
  | .j d => some (0x0C000000 + d.val)
  | .jl d => some (0x0D000000 + d.val)
  | .jr a => some (0x0E000000 + put a.val 16)
  | .jlr a => some (0x0F000000 + put a.val 16)
  | .ld d a z i => some (0x10000000 + put d.val 20 + put a.val 16 + put z.code 14 + i.val)
  | .ldn d a z i => some (0x11000000 + put d.val 20 + put a.val 16 + put z.code 14 + i.val)
  | .st d a z i => some (0x12000000 + put d.val 20 + put a.val 16 + put z.code 14 + i.val)
  | .ldx d a b x n z => some (0x13000000 + put d.val 20 + put a.val 16 + put b.val 12 + put (bit x) 3 + put (bit n) 2 + z.code)
  | .stx d a b x z => some (0x14000000 + put d.val 20 + put a.val 16 + put b.val 12 + put (bit x) 3 + z.code)
  | .vld x b r d => some (0x15000000 + put x.val 20 + put b.val 16 + put r.val 12 + d.val)
  | .vst x b r d => some (0x16000000 + put x.val 20 + put b.val 16 + put r.val 12 + d.val)
  | .xld x b c p d => some (0x17000000 + put x.val 20 + put b.val 16 + put (bit c) 15 + put p.val 12 + d.val)
  | .xst x b p d => some (0x18000000 + put x.val 20 + put b.val 16 + put p.val 12 + d.val)
  | .xldt x b w d => some (0x19000000 + put x.val 20 + put b.val 16 + put w.code 12 + d.val)
  | .wld s b c p d => some (0x1A000000 + put s.val 20 + put b.val 16 + put (bit c) 15 + put p.val 12 + d.val)
  | .rowact b d => some (0x1B000000 + put b.val 16 + d.val)
  | .aadd d a b z => some (0x1C000000 + put d.val 20 + put a.val 16 + put b.val 12 + z.code)
  | .amin d a b z => some (0x1C000040 + put d.val 20 + put a.val 16 + put b.val 12 + z.code)
  | .amax d a b z => some (0x1C000080 + put d.val 20 + put a.val 16 + put b.val 12 + z.code)
  | .aminn d a b z => some (0x1C0000C0 + put d.val 20 + put a.val 16 + put b.val 12 + z.code)
  | .amaxn d a b z => some (0x1C000100 + put d.val 20 + put a.val 16 + put b.val 12 + z.code)
  | .aand d a b z => some (0x1C000140 + put d.val 20 + put a.val 16 + put b.val 12 + z.code)
  | .aor d a b z => some (0x1C000180 + put d.val 20 + put a.val 16 + put b.val 12 + z.code)
  | .axor d a b z => some (0x1C0001C0 + put d.val 20 + put a.val 16 + put b.val 12 + z.code)
  | .aswp d a b z => some (0x1C000200 + put d.val 20 + put a.val 16 + put b.val 12 + z.code)
  | .acas d a b c z => some (0x1C000240 + put d.val 20 + put a.val 16 + put b.val 12 + put c.val 2 + z.code)
  | .afadd d a b z => some (0x1C000280 + put d.val 20 + put a.val 16 + put b.val 12 + z.code)
  | .afmin d a b z => some (0x1C0002C0 + put d.val 20 + put a.val 16 + put b.val 12 + z.code)
  | .afmax d a b z => some (0x1C000300 + put d.val 20 + put a.val 16 + put b.val 12 + z.code)
  | .cpy h a n t => some (0x20000000 + put h.val 21 + put a.val 12 + put (bit n) 3 + put (bit t) 2)
  | .cpys i => some (0x21000000 + i.val)
  | .rpcRead h a n t => some (0x22000000 + put h.val 21 + put a.val 12 + put (bit n) 3 + put (bit t) 2)
  | .rpcWrite h a n t => some (0x22010000 + put h.val 21 + put a.val 12 + put (bit n) 3 + put (bit t) 2)
  | .vaddF32 h a n t => some (0x22020000 + put h.val 21 + put a.val 12 + put (bit n) 3 + put (bit t) 2)
  | .vaddI32 h a n t => some (0x22030000 + put h.val 21 + put a.val 12 + put (bit n) 3 + put (bit t) 2)
  | .vminF32 h a n t => some (0x22040000 + put h.val 21 + put a.val 12 + put (bit n) 3 + put (bit t) 2)
  | .vmaxF32 h a n t => some (0x22050000 + put h.val 21 + put a.val 12 + put (bit n) 3 + put (bit t) 2)
  | .cas64 h a n t => some (0x22060000 + put h.val 21 + put a.val 12 + put (bit n) 3 + put (bit t) 2)
  | .swap64 h a n t => some (0x22070000 + put h.val 21 + put a.val 12 + put (bit n) 3 + put (bit t) 2)
  | .readBox h a n t => some (0x22080000 + put h.val 21 + put a.val 12 + put (bit n) 3 + put (bit t) 2)
  | .writeBox h a n t => some (0x22090000 + put h.val 21 + put a.val 12 + put (bit n) 3 + put (bit t) 2)
  | .rpcFill h a n t => some (0x220A0000 + put h.val 21 + put a.val 12 + put (bit n) 3 + put (bit t) 2)
  | .zeroPage h a n t => some (0x220B0000 + put h.val 21 + put a.val 12 + put (bit n) 3 + put (bit t) 2)
  | .trav h a t => some (0x23000000 + put h.val 21 + put a.val 12 + put (bit t) 2)
  | .travRes h a t => some (0x23010000 + put h.val 21 + put a.val 12 + put (bit t) 2)
  | .gpool h a t => some (0x24000000 + put h.val 21 + put a.val 12 + put (bit t) 2)
  | .attn h a t => some (0x25000000 + put h.val 21 + put a.val 12 + put (bit t) 2)
  | .fwait h r => some (0x26000000 + put h.val 21 + bit r)
  | .fget h d w r => some (0x26010000 + put h.val 21 + put d.val 12 + put w.val 4 + bit r)
  | .ftest h d => some (0x26020000 + put h.val 21 + put d.val 12)
  | .fcancel h => some (0x26030000 + put h.val 21)
  | .fxfer h a g => some (0x26040000 + put h.val 21 + put a.val 12 + put g.val 8)
  | .barArr d m i => some (0x28000000 + put d.val 20 + put m.code 12 + i.val)
  | .barWait a m i => some (0x28000040 + put a.val 16 + put m.code 12 + i.val)
  | .barAw m i => some (0x28000080 + put m.code 12 + i.val)
  | .sig a s => some (0x29000000 + put a.val 16 + s.val)
  | .wsem a s => some (0x29000040 + put a.val 16 + s.val)
  | .tsem d a s => some (0x29000080 + put d.val 20 + put a.val 16 + s.val)
  | .asarm a b s => some (0x2A000000 + put a.val 16 + put b.val 12 + s.val)
  | .aswait a b s => some (0x2A000040 + put a.val 16 + put b.val 12 + s.val)
  | .astest d a b s => some (0x2A000080 + put d.val 20 + put a.val 16 + put b.val 12 + s.val)
  | .wlapp a b i => some (0x2B000000 + put a.val 16 + put b.val 12 + i.val)
  | .wltake d a b i => some (0x2B000040 + put d.val 20 + put a.val 16 + put b.val 12 + i.val)
  | .wldone a i => some (0x2B000080 + put a.val 16 + i.val)
  | .qwait => some (0x2B0000C0)
  | .claim a => some (0x2C000000 + put a.val 16)
  | .acq d a => some (0x2C000040 + put d.val 20 + put a.val 16)
  | .acqt d a => some (0x2C000080 + put d.val 20 + put a.val 16)
  | .rel a => some (0x2C0000C0 + put a.val 16)
  | .relall => some (0x2C000100)
  | .resq d a => some (0x2C000140 + put d.val 20 + put a.val 16)
  | .add d a b => some (0x40000000 + put d.val 20 + put a.val 16 + put b.val 12)
  | .sub d a b => some (0x40000040 + put d.val 20 + put a.val 16 + put b.val 12)
  | .and_ d a b => some (0x40000080 + put d.val 20 + put a.val 16 + put b.val 12)
  | .or_ d a b => some (0x400000C0 + put d.val 20 + put a.val 16 + put b.val 12)
  | .xor d a b => some (0x40000100 + put d.val 20 + put a.val 16 + put b.val 12)
  | .andn d a b => some (0x40000140 + put d.val 20 + put a.val 16 + put b.val 12)
  | .shl d a b => some (0x40000180 + put d.val 20 + put a.val 16 + put b.val 12)
  | .shr d a b => some (0x400001C0 + put d.val 20 + put a.val 16 + put b.val 12)
  | .shra d a b => some (0x40000200 + put d.val 20 + put a.val 16 + put b.val 12)
  | .rotl d a b => some (0x40000240 + put d.val 20 + put a.val 16 + put b.val 12)
  | .min d a b => some (0x40000280 + put d.val 20 + put a.val 16 + put b.val 12)
  | .max d a b => some (0x400002C0 + put d.val 20 + put a.val 16 + put b.val 12)
  | .minn d a b => some (0x40000300 + put d.val 20 + put a.val 16 + put b.val 12)
  | .maxn d a b => some (0x40000340 + put d.val 20 + put a.val 16 + put b.val 12)
  | .seq d a b => some (0x40000380 + put d.val 20 + put a.val 16 + put b.val 12)
  | .sne d a b => some (0x400003C0 + put d.val 20 + put a.val 16 + put b.val 12)
  | .slt d a b => some (0x40000400 + put d.val 20 + put a.val 16 + put b.val 12)
  | .sltn d a b => some (0x40000440 + put d.val 20 + put a.val 16 + put b.val 12)
  | .sel d a b c => some (0x40000480 + put d.val 20 + put a.val 16 + put b.val 12 + c.val)
  | .clz d a => some (0x400004C0 + put d.val 20 + put a.val 16)
  | .ctz d a => some (0x40000500 + put d.val 20 + put a.val 16)
  | .popc d a => some (0x40000540 + put d.val 20 + put a.val 16)
  | .mov d a => some (0x40000580 + put d.val 20 + put a.val 16)
  | .mul d a b => some (0x41000000 + put d.val 20 + put a.val 16 + put b.val 12)
  | .mulh d a b => some (0x41000040 + put d.val 20 + put a.val 16 + put b.val 12)
  | .mulhn d a b => some (0x41000080 + put d.val 20 + put a.val 16 + put b.val 12)
  | .div d a b => some (0x410000C0 + put d.val 20 + put a.val 16 + put b.val 12)
  | .divn d a b => some (0x41000100 + put d.val 20 + put a.val 16 + put b.val 12)
  | .rem d a b => some (0x41000140 + put d.val 20 + put a.val 16 + put b.val 12)
  | .remn d a b => some (0x41000180 + put d.val 20 + put a.val 16 + put b.val 12)
  | .addi d a i => some (0x42000000 + put d.val 20 + put a.val 16 + i.val)
  | .andi d a i => some (0x43000000 + put d.val 20 + put a.val 16 + i.val)
  | .ori d a i => some (0x44000000 + put d.val 20 + put a.val 16 + i.val)
  | .xori d a i => some (0x45000000 + put d.val 20 + put a.val 16 + i.val)
  | .shli d a i => some (0x46000000 + put d.val 20 + put a.val 16 + i.val)
  | .shri d a i => some (0x47000000 + put d.val 20 + put a.val 16 + i.val)
  | .shrai d a i => some (0x48000000 + put d.val 20 + put a.val 16 + i.val)
  | .slti d a i => some (0x49000000 + put d.val 20 + put a.val 16 + i.val)
  | .li d i => some (0x4A000000 + put d.val 20 + i.val)
  | .lih d a i => some (0x4B000000 + put d.val 20 + put a.val 16 + i.val)
  | .fadd d a b p => some (0x4C000000 + put d.val 20 + put a.val 16 + put b.val 12 + p.code)
  | .fsub d a b p => some (0x4C000040 + put d.val 20 + put a.val 16 + put b.val 12 + p.code)
  | .fmul d a b p => some (0x4C000080 + put d.val 20 + put a.val 16 + put b.val 12 + p.code)
  | .fdiv d a b p => some (0x4C0000C0 + put d.val 20 + put a.val 16 + put b.val 12 + p.code)
  | .fsqrt d a p => some (0x4C000100 + put d.val 20 + put a.val 16 + p.code)
  | .fmin d a b p => some (0x4C000140 + put d.val 20 + put a.val 16 + put b.val 12 + p.code)
  | .fmax d a b p => some (0x4C000180 + put d.val 20 + put a.val 16 + put b.val 12 + p.code)
  | .fcmp d a b c p => some (0x4C0001C0 + put d.val 20 + put a.val 16 + put b.val 12 + put c.code 1 + p.code)
  | .fcvt d a c => some (0x4C000200 + put d.val 20 + put a.val 16 + c.code)
  | .fclass d a p => some (0x4C000240 + put d.val 20 + put a.val 16 + p.code)
  | .fma d a b n p c => some (0x4D000000 + put d.val 20 + put a.val 16 + put b.val 12 + put (bit n) 5 + put p.code 4 + c.val)
  | .vadd d a b r s t => some (0x50000000 + put d.val 20 + put a.val 16 + put b.val 12 + put r.val 8 + put s.val 4 + t.code)
  | .vsub d a b r s t => some (0x51000000 + put d.val 20 + put a.val 16 + put b.val 12 + put r.val 8 + put s.val 4 + t.code)
  | .vmul d a b r s t => some (0x52000000 + put d.val 20 + put a.val 16 + put b.val 12 + put r.val 8 + put s.val 4 + t.code)
  | .vfma d a b r s t => some (0x53000000 + put d.val 20 + put a.val 16 + put b.val 12 + put r.val 8 + put s.val 4 + t.code)
  | .vmin d a b r s t => some (0x54000000 + put d.val 20 + put a.val 16 + put b.val 12 + put r.val 8 + put s.val 4 + t.code)
  | .vmax d a b r s t => some (0x55000000 + put d.val 20 + put a.val 16 + put b.val 12 + put r.val 8 + put s.val 4 + t.code)
  | .vabsd d a b r s t => some (0x56000000 + put d.val 20 + put a.val 16 + put b.val 12 + put r.val 8 + put s.val 4 + t.code)
  | .vand d a b r s t => some (0x57000000 + put d.val 20 + put a.val 16 + put b.val 12 + put r.val 8 + put s.val 4 + t.code)
  | .vor d a b r s t => some (0x58000000 + put d.val 20 + put a.val 16 + put b.val 12 + put r.val 8 + put s.val 4 + t.code)
  | .vxor d a b r s t => some (0x59000000 + put d.val 20 + put a.val 16 + put b.val 12 + put r.val 8 + put s.val 4 + t.code)
  | .vshl d a b r s t => some (0x5A000000 + put d.val 20 + put a.val 16 + put b.val 12 + put r.val 8 + put s.val 4 + t.code)
  | .vshr d a b r s t => some (0x5B000000 + put d.val 20 + put a.val 16 + put b.val 12 + put r.val 8 + put s.val 4 + t.code)
  | .vshra d a b r s t => some (0x5C000000 + put d.val 20 + put a.val 16 + put b.val 12 + put r.val 8 + put s.val 4 + t.code)
  | .vceq d a b r s t => some (0x5D000000 + put d.val 20 + put a.val 16 + put b.val 12 + put r.val 8 + put s.val 4 + t.code)
  | .vclt d a b r s t => some (0x5E000000 + put d.val 20 + put a.val 16 + put b.val 12 + put r.val 8 + put s.val 4 + t.code)
  | .vsel d a b r s t => some (0x5F000000 + put d.val 20 + put a.val 16 + put b.val 12 + put r.val 8 + put s.val 4 + t.code)
  | .vcvt d a y r s t => some (0x60000000 + put d.val 20 + put a.val 16 + put y.code 12 + put r.val 8 + put s.val 4 + t.code)
  | .vred d a o s t => some (0x61000000 + put d.val 20 + put a.val 16 + put o.code 12 + put s.val 4 + t.code)
  | .vbcst d a r t => some (0x62000000 + put d.val 20 + put a.val 16 + put r.val 8 + t.code)
  | .vshuf d a b r s t => some (0x63000000 + put d.val 20 + put a.val 16 + put b.val 12 + put r.val 8 + put s.val 4 + t.code)
  | .vvote d a o s t => some (0x64000000 + put d.val 20 + put a.val 16 + put o.code 12 + put s.val 4 + t.code)
  | .vmatch d a r s t => some (0x65000000 + put d.val 20 + put a.val 16 + put r.val 8 + put s.val 4 + t.code)
  | .vext d a b s t => some (0x66000000 + put d.val 20 + put a.val 16 + put b.val 12 + put s.val 4 + t.code)
  | .vins d a b r t => some (0x67000000 + put d.val 20 + put a.val 16 + put b.val 12 + put r.val 8 + t.code)
  | .vexp2 d a r s t => some (0x68000000 + put d.val 20 + put a.val 16 + put r.val 8 + put s.val 4 + t.code)
  | .vrcp d a r s t => some (0x69000000 + put d.val 20 + put a.val 16 + put r.val 8 + put s.val 4 + t.code)
  | .vrsq d a r s t => some (0x6A000000 + put d.val 20 + put a.val 16 + put r.val 8 + put s.val 4 + t.code)
  | .vcpy d a r s => some (0x6B000000 + put d.val 20 + put a.val 16 + put r.val 8 + put s.val 4)
  | .xzero d => some (0x6C000000 + put d.val 20)
  | .xfill d a => some (0x6C000040 + put d.val 20 + put a.val 16)
  | .xcpy d a => some (0x6C000080 + put d.val 20 + put a.val 16)
  | .xtrn d a => some (0x6C0000C0 + put d.val 20 + put a.val 16)
  | .mmul s e a f n c => some (0x70000000 + put s.val 22 + put e.val 19 + put a.val 15 + put f.val 11 + put n.val 7 + put c.val 3)
  | .mdrain s d t => some (0x71000000 + put s.val 22 + put d.val 18 + put t.code 14)
  | .mldw s a => some (0x72000000 + put s.val 22 + put a.val 18)
  | .mswap s => some (0x73000000 + put s.val 22)
  | .macz s e => some (0x74000000 + put s.val 22 + put e.val 19)
  | .mopw e a => some (0x75000000 + put e.val 21 + put a.val 17)
  | .mopr e d => some (0x76000000 + put e.val 21 + put d.val 17)
  | .msave s a => some (0x77000000 + put s.val 22 + put a.val 18)
  | .mrest s a => some (0x78000000 + put s.val 22 + put a.val 18)
  | .pendingCauseEntry _ _ => none
  | .timer _ _ => none
  | .quantumExpiry _ _ => none
  | .drowsyEntry _ _ => none
  | .taskStart _ => none
  | .taskEnd _ _ => none
  | .loadDataReturn _ _ _ => none
  | .storePerform _ _ _ => none
  | .remoteAccessArrival _ _ _ => none
  | .tileSegmentLand _ _ => none
  | .writeBlockTimeout _ _ => none
  | .refresh _ _ => none
  | .refreshEnd _ _ => none
  | .thermalSample _ _ => none
  | .holdEntered _ => none
  | .maintenanceHold _ => none
  | .maintenanceRelease _ => none
  | .holdTimeout _ _ => none
  | .rowRepairDone _ _ _ => none
  | .matrixOpStart _ => none
  | .matrixOpComplete _ _ => none
  | .copyAccess _ _ _ => none
  | .copyComplete _ _ => none
  | .scheduleEntryRelease _ => none
  | .cancelArrival _ => none
  | .agentServe _ => none
  | .agentHoldTimeout _ => none
  | .ramblerStep _ _ => none
  | .continuationArrival _ => none
  | .gatherPool _ => none
  | .attentionDecode _ => none
  | .replyArrival _ => none
  | .barrierArrival _ => none
  | .barrierRelease _ _ => none
  | .barrierTimeout _ _ => none
  | .wlRequestApply _ _ => none
  | .wlAnswer _ _ => none
  | .preemption _ => none
  | .contextsHalted _ => none
  | .tileImageSave _ => none
  | .launchRestore _ => none
  | .watchdogExpiry _ => none
  | .priorityAging _ => none
  | .qtail _ _ => none
  | .launch _ => none
  | .copy _ => none
  | .copyCommandComplete _ _ => none
  | .fenceCommand _ => none
  | .signal _ => none
  | .waitval _ => none
  | .cond _ => none
  | .publishCommand _ => none
  | .launchComplete _ => none
  | .shoot _ => none
  | .shootdownComplete => none
  | .crst _ => none
  | .mbdata _ => none
  | .bar2Read _ => none
  | .bar2Write _ _ => none
  | .priResponse _ _ => none
  | .atsInvalidation _ => none
  | .registerWrite _ _ _ => none
  | .fwcmdQueueReset _ => none
  | .fwcmdPartitionReset _ => none
  | .fwcmdDeviceReset => none
  | .relclr _ => none
  | .dbgHalt => none
  | .dbgResume => none
  | .resumeTakesEffect _ _ => none
  | .dbgStep => none
  | .rdreg _ => none
  | .wrreg _ => none
  | .rdrow _ _ => none
  | .wrrow _ _ => none
  | .rdmem => none
  | .wrmem => none
  | .rdslot _ _ => none
  | .evwait _ => none
  | .pctlHalt _ => none
  | .pctlCancel _ => none
  | .pctlClear _ => none
  | .clearComplete _ => none
  | .pctlRun _ _ => none
  | .qend _ => none
  | .jalloc _ => none
  | .jw _ _ => none
  | .powerOn => none
  | .mctpControl => none
  | .getId _ => none
  | .attest _ => none
  | .journalRead _ _ => none
  | .telemetry _ _ => none
  | .dumpRead _ _ _ => none
  | .queueReset _ => none
  | .partitionReset _ => none
  | .deviceReset => none
  | .fwBegin => none
  | .fwData _ _ => none
  | .fwCommit => none
  | .machineCheck _ => none
  | .peerLinkFailure _ => none
  | .patrolScrub _ => none
  | .sramScrub _ => none
  | .matrixSpareSwitch _ => none
  | .pairIntervalEnd _ _ _ => none
  | .uvWindow _ => none
  | .verificationWindow _ => none
  | .verificationWindowEnd _ => none
  | .networkSnapshot => none
  | .replayWaitTimeout _ => none
  | .reservedPattern _ => none
  | .eventCounterWrap _ _ _ => none
  | .pcieLinkStateChange _ => none
  | .unservedMctpMessage _ => none

/-- The word as the hardware stores it: four bytes, least significant first (R2). -/
def wordBytes (w : Nat) : List Byte :=
  [BitVec.ofNat 8 w, BitVec.ofNat 8 (w / 2 ^ 8), BitVec.ofNat 8 (w / 2 ^ 16), BitVec.ofNat 8 (w / 2 ^ 24)]

/-- The instruction that the decoder reads from an opcode-table row's word of 32 bits. -/
def decodeTableWord (nbits w : Nat) : Option Instr :=
  if nbits = 32 then
    match decodeBytes (wordBytes w) with
    | .ok (i, _) => some i
    | .error _ => none
  else none

end Sys2Proof
end

