-- ==== Sys2Proof/Config.lean ====
section
/-! DEFINITION. What an implementation fixes, and the free values: constants without a body that stand for
what the manual names or allows without stating a value. -/

namespace Sys2Proof.Config

/-- R17, R107: bytes of one scratchpad. -/
def scratchBytes : Nat := 393216
/-- R17: bytes of one vault. -/
def vaultBytes : Nat := 0x10000000
/-- R6, R28: logical tiles. -/
def tiles : Nat := 2048
/-- R17: granules of 4 KiB in one scratchpad. -/
def granules : Nat := 96
/-- R294: the code region of every vault, S image and C image. -/
def codeRegionS : Nat := 0x0DC00000
def codeRegionC : Nat := 0x0EC00000
/-- R294: end of the code region, which is the start of the firmware reserve (R364). -/
def firmwareReserve : Nat := 0x0FC00000
/-- R364: the firmware-level handler code, whose offset 0 is the firmware vector of R351. -/
def firmwareVectorOffset : Nat := 0x0FE00000
/-- R133: 2 microseconds in cycles. -/
def holdLimit : Nat := 6600

/-- R28, Table 1.8: the cycles of one beat of a vault's clock. -/
def beat : Nat := 2
/-- R112, R413: 2^22 cycles. -/
def writeBlockLimit : Nat := 4194304
/-- R300: the ring-mode quantum. -/
def quantum : Nat := 4096
/-- R154: cycles after which an untouched register is drowsy. -/
def drowsyAfter : Nat := 16384
/-- R5: cycles in one microsecond at 3.3 GHz. -/
def cyclesPerMicro : Nat := 3300
/-- The index under which the firmware core's context is held beside the 2,048 tiles.
DESIGN CHOICE (log 9): the manual gives the firmware core no tile number; safe, no tile has this number. -/
def fwTile : Nat := 2048
/-- The widest time a `Nat` clock shows in the 64-bit TIME register. -/
def timeModulus : Nat := 2 ^ 64

/-- FREE VALUE (log 8, safe): deterministic Falcon-1024 key generation from a seed: public and private key (R368). -/
opaque falconKeyGen : BitVec 512 → List Byte × List Byte
/-- FREE VALUE (log 8, safe): the 1,280 signature bytes under a private key over a message (R368), by byte position. -/
opaque falconSign : List Byte → List Byte → Nat → Byte
/-- FREE VALUE (log 8, safe): the stored certificate of GET_ID, that of a public key, by byte position (R368, R370). -/
opaque certificate : List Byte → Nat → Byte
/-- FREE VALUE (log 8, safe): the measurement M0 of the boot ROM (R365, R368), whose contents the manual does not give. -/
opaque measureRom : BitVec 512
/-- FREE VALUE (log 8, safe): the measurement M2 of a configuration (R365, R368): remap table, defect lists, firmware version
and fused minimum SVN. The manual does not say how it is computed. -/
opaque measureConfig : List (Nat × Nat) → List (Nat × Nat) → Word → Nat → BitVec 512
/-- FREE VALUE (log 10, safe): the 32-byte flits beyond the first of a message, by its number (R23, R408). -/
opaque messageFlits : Nat → Nat
/-- FREE VALUE (log 10, safe): STALL, and the flits of what is not counted message by message, of one link and channel at one
snapshot (R408). -/
opaque linkCounts : Nat → Nat → Word
/-- FREE VALUE (log 10, safe): bytes of a TELEMETRY page whose layout R370 does not give. Arguments: selector, page, what the
device holds of the quantity, byte. -/
opaque telemetryByte : Nat → Nat → List Int → Nat → Byte
/-- FREE VALUE (log 12, safe): a fresh unspecified 64-bit value, by the model's counter. -/
opaque freeValue : Nat → Word

/-- R272: how many cycles a merged host store may wait for its block to be issued; the manual says only that the time is
finite (log 48). -/
opaque mergeLimit : Nat

end Sys2Proof.Config
end

