-- ==== Sys2Proof/Machine/Sparse.lean ====
section
/-! DEFINITION. The two operations of every indexed table of the state, and the canonical memory. -/

namespace Sys2Proof

/-- The entry under a key, or `d` for a key that is not listed. -/
def Sparse.get {α : Type} (d : α) : Sparse α → Nat → α
  | [], _ => d
  | (k, v) :: r, i => if k = i then v else Sparse.get d r i

/-- The table with one entry replaced, in its place among rising keys. -/
def Sparse.set {α : Type} (i : Nat) (x : α) : Sparse α → Sparse α
  | [] => [(i, x)]
  | (k, v) :: r =>
    if i < k then (i, x) :: (k, v) :: r
    else if k = i then (i, x) :: r
    else (k, v) :: Sparse.set i x r

/-- The table with one entry changed by a function of its value. -/
def Sparse.modify {α : Type} (d : α) (i : Nat) (f : α → α) (m : Sparse α) : Sparse α :=
  Sparse.set i (f (Sparse.get d m i)) m

/-- The table without an entry. -/
def Sparse.erase {α : Type} (i : Nat) (m : Sparse α) : Sparse α := m.filter fun kv => decide (kv.1 ≠ i)

/-- Insertion of a key that the table does not hold. -/
def Sparse.insert {α : Type} (i : Nat) (x : α) : Sparse α → Sparse α
  | [] => [(i, x)]
  | (k, v) :: r => if i < k then (i, x) :: (k, v) :: r else (k, v) :: Sparse.insert i x r

/-- Memory: bytes by physical address, rising, none equal to what an unlisted address reads as, 0
(R365, R375 for the scratchpads; log 1 for vaults and host memory). -/
abbrev Memory := Sparse Byte

/-- The byte at an address. -/
def Memory.read (m : Memory) (a : Nat) : Byte := Sparse.get 0 m a

/-- One byte written; writing what an unlisted address reads as removes the entry. -/
def Memory.write (a : Nat) (b : Byte) (m : Memory) : Memory :=
  if b = 0 then Sparse.erase a m else Sparse.insert a b (Sparse.erase a m)

/-- The canonical form of a memory. -/
def Memory.wf (m : Memory) : Bool :=
  decide (m.Pairwise fun x y => x.1 < y.1) && m.all fun x => decide (x.2 ≠ 0)

/-- R2: `n` bytes from address `a` as one little-endian number. -/
def Memory.readN (m : Memory) (a : Nat) : Nat → Nat
  | 0 => 0
  | n + 1 => (m.read a).toNat + 2 ^ 8 * Memory.readN m (a + 1) n

/-- R2: the low `n` bytes of `v` written from address `a` on, little-endian. -/
def Memory.writeN (a v : Nat) : Nat → Memory → Memory
  | 0, m => m
  | n + 1, m => Memory.writeN (a + 1) (v / 2 ^ 8) n (Memory.write a (BitVec.ofNat 8 v) m)

/-- A list of bytes written from address `a` on. -/
def Memory.writeBytes (a : Nat) : List Byte → Memory → Memory
  | [], m => m
  | b :: r, m => Memory.writeBytes (a + 1) r (Memory.write a b m)

/-- `n` bytes from address `a` on. -/
def Memory.readBytes (m : Memory) (a : Nat) : Nat → List Byte
  | 0 => []
  | n + 1 => m.read a :: Memory.readBytes m (a + 1) n

/-- The memory with the cells of [a, a + n) removed: `n` zero bytes written at once. -/
def Memory.clear (a n : Nat) (m : Memory) : Memory := m.filter fun c => decide (c.1 < a) || decide (a + n ≤ c.1)

/-- The cells of [a, a + n), moved so that address `a` becomes `b`. -/
def Memory.slice (a n b : Nat) (m : Memory) : Memory :=
  (m.filter fun c => decide (a ≤ c.1) && decide (c.1 < a + n)).map fun c => (c.1 - a + b, c.2)

/-- Every cell of the first memory written into the second. -/
def Memory.overlay : Memory → Memory → Memory
  | [], m => m
  | (a, b) :: r, m => Memory.overlay r (Memory.write a b m)

/-- A block of `n` bytes of one memory at `a` placed into another at `b` (R293). -/
def Memory.place (src : Memory) (a n b : Nat) (dst : Memory) : Memory :=
  Memory.overlay (Memory.slice a n b src) (Memory.clear b n dst)

end Sys2Proof
end

