-- ==== Sys2Proof/Machine/State.lean ====
section
/-! DEFINITION. The state of the whole device as plain data, the named causes, and the machine after reset. -/

namespace Sys2Proof.Machine

/-- R350, Table 19.2: the trap causes, in code order from 0x00. -/
inductive Cause where
  | none_ | opcodeUndefined | fieldReserved | pairAlign | slotClass | prefixMisuse | delaySlotForbidden
  | loopBodyForbidden | privilege | coreRole | handleInvalid | regUnbound | align | xlateAbsent
  | xlatePermission | targetForbidden | scratchRange | spillLimit | writeBlockTimeout | poisonConsumed
  | hostAbort | peerAbort | atomicTarget | vaultHold | rowRepair | thermalHold | replayDivergence
  | pairDivergence | claimAbsent | claimRepeated | claimExceeded | claimImpossible | slotNotHeld
  | semaphoreOverflow | barrierTimeout | barrierId | arrivalId | worklistFull | worklistId
  | hierarchyRange | alloyEntry | alloyFormat | scaleSequence | scaleAbsent | matrixLasting | accImage
  | drainFormat | loopRotation | copyDescriptor | copyScheduleEnd | rpcProcedure | rpcRemote | traversal
  | gather | attention | futureCancelled | trapInstruction | breakpoint | watchpoint | step | timer
  | preempt | watchdogKill | machineCheck
  deriving DecidableEq, Repr

/-- The machine never stops: every behaviour the manual describes is a next state. -/
inductive Fault where
  /-- No meaning raises it; safe. It keeps the type inhabited for a reader of `Host.Outcome`. -/
  | none_
  deriving DecidableEq, Repr

/-- Why an instruction has no meaning in the model. -/
inductive Refusal where
  /-- Raised by an arm of `exec` that has no meaning yet; safe, nothing is claimed of it. -/
  | notModelled (mnemonic : String)
  deriving DecidableEq, Repr

/-- R17, R83: a scalar register. -/
structure Scalar where
  val : Word := 0
  poison : Bool := false
  deriving DecidableEq, Repr, Inhabited

/-- R30, R138: one row of a tile register, a plane or an accumulator, or one 64-byte segment. -/
structure Row where
  bits : BitVec 512 := 0
  poison : Bool := false
  deriving DecidableEq, Repr, Inhabited

/-- R168: a scale record of 16 bf16 values. -/
structure ScaleRec where
  bits : BitVec 256 := 0
  stamp : W32 := 0xFFFFFFFF
  poison : Bool := false
  deriving DecidableEq, Repr, Inhabited

/-- R136, R154, R168: a physical tile register. -/
structure TileReg where
  bound : Bool := false
  rows : Sparse Row := []
  stamp : W32 := 0xFFFFFFFF
  srec : Option ScaleRec := none
  lastUse : Nat := 0
  drowsy : Bool := false
  deriving DecidableEq, Repr, Inhabited

/-- R155: a plane of a matrix slot. -/
structure Plane where
  rows : Sparse Row := []
  stamp : W32 := 0xFFFFFFFF
  srec : Option ScaleRec := none
  deriving DecidableEq, Repr, Inhabited

/-- R155, R157: a matrix slot; `kind` is the catalogue code and the accumulator bit. -/
structure MSlot where
  owner : Option Nat := none
  active : Plane := {}
  shadow : Plane := {}
  acc : Sparse Row := []
  kind : Option (Nat × Bool) := none
  deriving DecidableEq, Repr, Inhabited

/-- R268: a set of writes, by their places in home order: those below `upTo`, and some more. -/
structure Known where
  upTo : Nat := 0
  also : List Nat := []
  deriving DecidableEq, Repr, Inhabited

/-- R265, R274: the parties: a context of a tile, a command that a tile issued with its scope, the host, a peer, the mailbox,
the dispatcher. -/
inductive Party where
  | ctx (t : Nat)
  | command (scope : Scope) (t : Nat)
  | host | peer | mailbox | dispatcher
  deriving DecidableEq, Repr, Inhabited

/-- R275: what a release offers to an acquire that reads it: who released, at what scope, and the writes hb-before it; `own` for
a release that is the write itself and not a FENCE before it (R276). -/
structure Msg where
  party : Party := .host
  scope : Scope := .device
  known : Known := {}
  own : Bool := false
  deriving DecidableEq, Repr, Inhabited

/-- R268, R275, R276: where a context stands in happens-before: the writes of others that it has acquired, what its writes carry
since its release FENCEs, what its reads have returned for an acquire FENCE, and the first write after its task began. -/
structure Sight where
  known : Known := {}
  msgs : List Msg := []
  reads : List Msg := []
  born : Nat := 0
  deriving DecidableEq, Repr, Inhabited

/-- R265, R281: whose write it is: an access `id` of a context, a copy, a command that tile `t` gave the agent of tile `u`, or
another party's. -/
inductive Writer where
  | other
  | ctx (t c id : Nat)
  | copy (k : Nat)
  | agent (k t u : Nat)
  deriving DecidableEq, Repr, Inhabited

/-- R265, R269: a write performed at its home: its place in home order, its bytes, what stood there before it with its poison, what
it offers to an acquire, and for an atomic everything hb-before it (R271). -/
structure WriteEv where
  n : Nat := 0
  pa : Nat := 0
  len : Nat := 0
  old : Nat := 0
  bad : Bool := false
  writer : Writer := .other
  msgs : List Msg := []
  past : Option Known := none
  deriving DecidableEq, Repr, Inhabited

/-- R181: the states of a handle. -/
inductive FutState where
  | free | pending | terminal
  deriving DecidableEq, Repr, Inhabited

/-- R181, R182: a future record; `cmd` names the command it waits for, `seen` the writes that the command made (R280). -/
structure Fut where
  st : FutState := .free
  cmd : Nat := 0
  code : Nat := 0
  cause : Nat := 0
  flags : Nat := 0
  count : Nat := 0
  aux : Word := 0
  data : BitVec 256 := 0
  poison : Bool := false
  seen : Known := {}
  deriving DecidableEq, Repr, Inhabited

/-- R73 to R76, R92: the loop a context is running, with its captured body; `missing` lists the words of a refilled body
that could not be fetched (log 43). -/
structure LoopSt where
  bs : Nat := 0
  len : Nat := 0
  rem : Nat := 0
  pass : Nat := 0
  rotb : Nat := 0
  rotw : Nat := 0
  stride : Nat := 0
  words : List Nat := []
  missing : List Nat := []
  deriving DecidableEq, Repr, Inhabited

/-- R349, R360: a pending class D or F cause. -/
structure Pending where
  cause : Cause := .none_
  seq : W32 := 0
  eval : Word := 0
  mword : Nat := 0
  deriving DecidableEq, Repr, Inhabited

/-- What an outstanding access does at its home. -/
inductive AccKind where
  | load | store | atomic | rowLoad | rowStore | phase
  deriving DecidableEq, Repr, Inhabited

/-- R104, R105: where an access goes. -/
inductive Home where
  | ownScratch | remScratch | ownVault | host | control | device
  deriving DecidableEq, Repr, Inhabited

/-- R393, R406: what a record names of the group that it is about: its address, its nullification bits and its privilege. -/
structure Site where
  pc : Nat := 0
  bits : Nat := 0
  lvl : Nat := 0
  deriving DecidableEq, Repr, Inhabited

/-- R115: an access that has issued and is not yet performed or returned; `mrg` numbers the merged write that a host store is
part of (R126), `sight` is what was hb-before it, and what a write carries (R275), `part` counts the 8-byte units of a row at the host that are done (R266), `sent` orders an answer among what
its home's tile sends (R24). -/
structure Acc where
  id : Nat := 0
  kind : AccKind := .load
  home : Home := .ownScratch
  va : Nat := 0
  pa : Nat := 0
  size : Nat := 8
  dest : Nat := 0
  row : Nat := 0
  sext : Bool := false
  aop : Nat := 0
  data : BitVec 512 := 0
  data2 : Word := 0
  poison : Bool := false
  ord : Ord := .relaxed
  scope : Scope := .device
  pol : Pol := .keep
  held : Bool := false
  served : Bool := false
  sent : Nat := 0
  mrg : Nat := 0
  moved : List Nat := []
  site : Site := {}
  cnt : Nat := 0
  seq : W32 := 0
  sight : Sight := {}
  since : Nat := 0
  deriving DecidableEq, Repr, Inhabited

/-- Why a context waits, with what the wait needs: an off-core wait of R299, or a stall that keeps it ready (`scoreboard`,
`writeBlock`, and `holdHere`, which is timed by R133 as `hold` is). -/
inductive Wait where
  | none_
  | scoreboard
  | offcore
  | writeBlock (va : Nat)
  | hold (va : Nat)
  | holdHere (va : Nat)
  | pri (page : Nat)
  | barrier (key phase : Nat)
  | worklist
  deriving DecidableEq, Repr, Inhabited

/-- R191, R254, R355: the life of a context. -/
inductive Phase where
  | free | running | halted | ending
  deriving DecidableEq, Repr, Inhabited

/-- R418: a request to the compaction unit and its answer. -/
structure WlReq where
  id : Nat := 0
  op : Nat := 0
  list : Nat := 0
  a : Word := 0
  b : Word := 0
  pa : Nat := 0
  poison : Bool := false
  applied : Bool := false
  answered : Bool := false
  order : Nat := 0
  sent : Nat := 0
  result : Nat := 0
  known : Known := {}
  trap : Cause := .none_
  deriving DecidableEq, Repr, Inhabited

/-- R396, R399: what is to follow a group whose own-vault tile load, the move with a number, may yet match a watched range: whether the
group was one of TASK, the cause that it raised, and what its accesses have touched so far. -/
structure AfterLoad where
  move : Nat := 0
  wasTask : Bool := false
  raised : Option (Cause × Nat) := none
  touch : List (Nat × Nat × Bool) := []
  deriving DecidableEq, Repr, Inhabited

/-- R17, R263, R290: one context. `lastPc` is the address of its last group (R406), `wlKept` an answer of the compaction unit that a
group which trapped has still to take, with that group's address (R418). -/
structure Ctx where
  phase : Phase := .free
  launch : Nat := 0
  flat : Nat := 0
  pc : Nat := 0
  npc : Nat := 0
  nnpc : Nat := 0
  n0 : Bool := false
  n1 : Bool := false
  dg0 : Bool := false
  dg1 : Bool := false
  sregs : Sparse Scalar := []
  futs : Sparse Fut := []
  names : Sparse (Nat × Bool) := []
  status : Word := 0x20
  epc : Word := 0
  enpc : Word := 0
  ennpc : Word := 0
  eannul : Word := 0
  ecause : Word := 0
  eval : Word := 0
  eseq : Word := 0
  eloop : Word := 0
  handler : Word := 0
  mdef : Word := 0
  fpmode : Word := 0
  fpflags : Word := 0
  mxflags : Word := 0
  fmta : Word := 9
  fmtb : Word := 9
  scla : Word := 0
  sclb : Word := 0
  ctxid : Word := 0
  lvl : Sparse Word := []
  lvln : Word := 0
  spillb : Word := 0
  spillov : Word := 0
  spilllim : Word := 0
  loop : Option LoopSt := none
  accs : List Acc := []
  sight : Sight := {}
  wcBlock : Option Nat := none
  claim : Option Word := none
  granules : List Nat := []
  pend : List Pending := []
  timerPend : Bool := false
  shadow : List Word := []
  wait : Wait := .none_
  waitSince : Nat := 0
  priFail : Bool := false
  cpysLeft : Nat := 0
  cpysNext : Nat := 0
  cpysDone : Bool := false
  afterEret : Bool := false
  stopOrder : Option (Nat × W32 × Nat) := none
  heldNames : Option (Sparse (Nat × Bool)) := none
  barPhase : Option Nat := none
  acqRes : Option Word := none
  wl : Option WlReq := none
  wlKept : Option (Nat × WlReq) := none
  after : Option AfterLoad := none
  endPend : Option (Cause × Word × W32) := none
  lastPc : Nat := 0
  seqLast : W32 := 0
  retired : Nat := 0
  debugHalt : Bool := false
  resumeReq : Bool := false
  stepReq : Bool := false
  suppress : Nat := 0
  haltReason : Nat := 0
  stopped : Bool := false
  endCause : Cause := .none_
  endEpc : Word := 0
  endSeq : W32 := 0
  endLate : Bool := false
  closed : Bool := false
  tcmp : Word := 0
  dbg : Sparse Word := []
  rplPos : Nat := 0
  deriving DecidableEq, Repr, Inhabited

/-- R341: one translation held by a TLB. -/
structure TlbEntry where
  part : Nat := 0
  base : Nat := 0
  size : Nat := 0
  leaf : Word := 0
  deriving DecidableEq, Repr, Inhabited

/-- R17, R299 to R303, R403: one control core. -/
structure CoreSt where
  mode : Bool := false
  cur : Option Nat := none
  lastCur : Nat := 3
  lastIssue : Nat := 3
  curSince : Nat := 0
  seqno : W32 := 0
  image : Memory := []
  imageLen : Nat := 0
  tlb : List TlbEntry := []
  pmc : Sparse Word := []
  pmsel : Sparse Word := []
  freeze : Bool := false
  deriving DecidableEq, Repr, Inhabited

/-- R117: the tile moves. -/
inductive MoveOp where
  | xld | xst | xldt | wld
  deriving DecidableEq, Repr, Inhabited

/-- R117 to R121, R135: a tile move in flight; `src` holds the rows that an XST reads, or the segments that an XLDT has
read, `first` is the segment that it began with, `site` its group (R404). -/
structure Move where
  id : Nat := 0
  ctx : Nat := 0
  op : MoveOp := .xld
  word : Nat := 0
  va : Nat := 0
  pitch : Nat := 64
  pas : List Nat := []
  next : Nat := 0
  seq : W32 := 0
  reg : Nat := 0
  scl : Option Nat := none
  half : Bool := false
  vault : Bool := false
  order : Nat := 0
  acq : Bool := false
  ord : Ord := .relaxed
  scope : Scope := .device
  sight : Sight := {}
  pol : Pol := .keep
  resumed : Bool := false
  first : Nat := 0
  site : Site := {}
  src : Sparse Row := []
  since : Nat := 0
  deriving DecidableEq, Repr, Inhabited

/-- R159: the matrix operations. -/
inductive MatKind where
  | mmul | mdrain | mldw | mswap | macz | msave | mrest
  deriving DecidableEq, Repr, Inhabited

/-- R159, R160: an operation in the matrix queue; the `a*` fields hold what it reads when it leaves the head, `after` the
acquiring accesses that its own memory accesses follow (R268, R273), `kindAt` the kind of its slot where it stands in the
queue (R170, R174, R175), `site` its group (R404), `left` the segments of its image still to be moved, `buf` and `bad` what it has
read of it (R266). -/
structure MatOp where
  id : Nat := 0
  ctx : Nat := 0
  seq : W32 := 0
  slot : Nat := 0
  kind : MatKind := .mmul
  entry : Word := 0
  reg : Nat := 0
  first : Nat := 0
  nrow : Nat := 16
  ncol : Nat := 16
  ty : Ty := .f32
  mck : Bool := false
  arrA : Option Nat := none
  arrB : Option Nat := none
  pas : List Nat := []
  started : Bool := false
  discarded : Bool := false
  fail : Cause := .none_
  retried : Bool := false
  after : List Nat := []
  sight : Sight := {}
  kindAt : Option (Nat × Bool) := none
  site : Site := {}
  left : List Nat := []
  buf : Memory := []
  bad : List Nat := []
  aRows : Sparse Row := []
  aStamp : W32 := 0xFFFFFFFF
  aRec : Option ScaleRec := none
  scA : BitVec 256 := 0
  scB : BitVec 256 := 0
  scPoison : Bool := false
  since : Nat := 0
  deriving DecidableEq, Repr, Inhabited

/-- R193, Table 8.4: one dimension of a copy descriptor. -/
structure Dim where
  e : Nat := 0
  ss : Int := 0
  ds : Int := 0
  b : Nat := 0
  o : Int := 0
  deriving DecidableEq, Repr, Inhabited

/-- R193: a copy descriptor with its fill value worked out (R195). -/
structure CopyDesc where
  src : Nat := 0
  dst : Nat := 0
  dims : List Dim := []
  esz : Nat := 0
  fill : Nat := 0
  as_ : Nat := 0
  asv : Bool := false
  ast : Nat := 0
  deriving DecidableEq, Repr, Inhabited

/-- R103, R296: what an engine needs to resolve an address as the issuing task does; `stat` is the size of the tile's static
region under the launch (R107), `known` what is hb-before the accesses of a command (R279). -/
structure View where
  part : Nat := 0
  tile : Nat := 0
  launch : Nat := 0
  firm : Bool := false
  sup : Bool := false
  spillb : Word := 0
  spillov : Word := 0
  spilllim : Word := 0
  ctx : Nat := 0
  stat : Nat := 0
  known : Known := {}
  deriving DecidableEq, Repr, Inhabited

/-- R192 to R200: a copy in the copy queue; the elements below `next` and those of `done` have landed, those of `flying`
are with a vault's agent (R197), and `got` holds what such an agent has read; `stall` and `heldSince` say when write-block and HOLD
began to stall it. -/
structure Copy where
  id : Nat := 0
  ctx : Nat := 0
  launch : Nat := 0
  seq : W32 := 0
  trap : Bool := false
  nf : Bool := false
  desc : CopyDesc := {}
  view : View := {}
  next : Nat := 0
  done : List Nat := []
  flying : List Nat := []
  got : List (List Nat × List (Nat × Bool)) := []
  pri : Option Nat := none
  priFail : Bool := false
  stall : Option Nat := none
  heldSince : Option Nat := none
  cause : Cause := .none_
  aux : Word := 0
  cancelled : Bool := false
  sched : Bool := false
  deriving DecidableEq, Repr, Inhabited

/-- R200, R417: entries reserved by a CPYS and not yet released. -/
structure Reserve where
  ctx : Nat := 0
  next : Nat := 0
  left : Nat := 0
  deriving DecidableEq, Repr, Inhabited

/-- R182, R213: a reply on its way to its requester, from the agent of tile `src`; `sent` orders it among what that tile
sends (R24), and `taken` says that its requester's tile has taken it, while write-block keeps its bytes from landing since `stall`
(R112, R219). -/
structure Reply where
  id : Nat := 0
  src : Nat := 0
  sent : Nat := 0
  taken : Bool := false
  stall : Option Nat := none
  tile : Nat := 0
  cmd : Nat := 0
  code : Nat := 0
  cause : Cause := .none_
  flags : Nat := 0
  count : Nat := 0
  aux : Word := 0
  bytes : List Byte := []
  poison : Bool := false
  rply : Nat := 0
  arv : Option Nat := none
  wide : Bool := false
  view : View := {}
  trap : Bool := false
  trapCause : Cause := .none_
  seq : W32 := 0
  deriving DecidableEq, Repr, Inhabited

/-- R124, R197, R201, R206, R214, R216: what an agent request asks for: a command, an atomic of the vault's owner, or the
reads or writes of a copy at one end. -/
inductive AgentKind where
  | rpc (proc : Nat) | trav | travRes | gpool | attn
  | atomic
  | copyEnd (copy : Nat) (elems : List Nat) (write : Bool)
  deriving DecidableEq, Repr, Inhabited

/-- R201 to R218: an agent request on its way or in a queue; `block` is the 64 bytes of a command, `units` what the end of a
copy writes, `banks` the banks of its vault that it needs (R205), `stall` and `heldSince` when write-block and HOLD began to stall
it (R112, R205), `heldRow` the flagged row at which it, or a request before it, was held (R318), `writes` the segments that a
procedure under way writes, `left` those that are still to be written, `box` the box whose sets it marks then, `answer` its reply
(R204, R266). -/
structure AReq where
  id : Nat := 0
  kind : AgentKind := .trav
  seq : W32 := 0
  block : BitVec 512 := 0
  blockVa : Nat := 0
  handle : Nat := 0
  token : BitVec 512 := 0
  poison : Bool := false
  trap : Bool := false
  nf : Bool := false
  view : View := {}
  arrive : Nat := 0
  stall : Option Nat := none
  heldSince : Option Nat := none
  heldRow : Option Nat := none
  units : List (Nat × Bool) := []
  banks : List Nat := []
  writes : List (List (Nat × Nat × Nat × Bool)) := []
  left : List Nat := []
  box : Option (CopyDesc × Bool) := none
  answer : Option Reply := none
  cancelled : Bool := false
  deriving DecidableEq, Repr, Inhabited

/-- R208, R212: a walk under way; `kept` is the record held since its fetch, `slot` whether it holds a continuation slot,
`held` whether its fetch waits for a repair, and `bank` the bank of it (R318, R319), `src` the agent that sent its continuation. -/
structure Walk where
  req : AReq := {}
  rule : Nat := 0
  p : Word := 0
  v : Sparse Word := []
  steps : Nat := 0
  rules : List Word := []
  kept : Option (List Byte) := none
  slot : Bool := false
  stall : Option Nat := none
  held : Bool := false
  bank : Option Nat := none
  src : Nat := 0
  deriving DecidableEq, Repr, Inhabited

/-- R225: a barrier object, arrivals and completed phases; `sent` orders its last release among what its home sends (R24);
`arrived` and `released` are what its arrivals, and those of its completed phases, have released (R226). -/
structure Bar where
  a : Nat := 0
  c : Nat := 0
  sent : Nat := 0
  arrived : Known := {}
  released : Known := {}
  deriving DecidableEq, Repr, Inhabited

/-- R226, R229: a barrier arrival on its way; `acc` is the access that returns the phase, 0 for none, `known` what it releases. -/
structure BarArr where
  id : Nat := 0
  key : Nat := 0
  count : Nat := 0
  tile : Nat := 0
  ctx : Nat := 0
  acc : Nat := 0
  aw : Bool := false
  known : Known := {}
  deriving DecidableEq, Repr, Inhabited

/-- R232: an arrival set; `base` is the virtual address that ASARM names, `seen` the writes that marked each chunk (R282). -/
structure ArrSet where
  armed : Bool := false
  base : Nat := 0
  nc : Nat := 0
  e : Nat := 0
  count : Nat := 0
  bits : BitVec 128 := 0
  seen : List (Nat × Nat) := []
  deriving DecidableEq, Repr, Inhabited

/-- R130, Table 5.6: thermal states. -/
inductive Thermal where
  | normal | warm | hot | critical
  deriving DecidableEq, Repr, Inhabited

/-- R132, Table 5.7: the HOLD sequence. -/
inductive HoldSt where
  | active | entering | hold
  deriving DecidableEq, Repr, Inhabited

/-- R383: an error held in an array, as the next read finds it. -/
inductive ErrKind where
  | corrected | transient | lasting
  deriving DecidableEq, Repr, Inhabited

/-- R129 to R134, R385: a vault beside its bytes; a row is bank + 24 * row. -/
structure Vault where
  openRow : Sparse (Option Nat) := []
  refresh : Sparse (Option Nat) := []
  opening : Sparse (Option (Nat × Pol)) := []
  flagged : List Nat := []
  repairing : List Nat := []
  spares : Sparse Nat := []
  recent : List (Nat × Nat) := []
  temp : Int := 0
  thermal : Thermal := .normal
  hold : HoldSt := .active
  critical : Bool := false
  maint : Bool := false
  holdThermal : Bool := false
  scrub : Nat := 0
  errs : Sparse (Option ErrKind) := []
  deriving DecidableEq, Repr, Inhabited

/-- R298, R332: a task placed and not started: flat index, role (C-core or not), its two conditions. -/
structure Task where
  flat : Nat := 0
  role : Bool := false
  conds : List (Nat × BitVec 128) := []
  deriving DecidableEq, Repr, Inhabited

/-- R388, R389: the checkpoint of a paired context; effects numbered from `firstId` on are held. `crc` holds the fingerprints
of the primary and of the shadow, `writes` counts the entries of the undo log, `seqno` is SEQNO at the checkpoint, `taken` the
numbers that the interval took of it, `alloy` the entries of the alloy table that it replaced. -/
structure PairCk where
  ctx : Ctx := {}
  xregs : Sparse TileReg := []
  slots : Sparse MSlot := []
  undo : List (Nat × Byte × Bool) := []
  writes : Nat := 0
  crc : Word × Word := (0, 0)
  seqno : W32 := 0
  taken : Nat := 0
  alloy : List (Nat × Word) := []
  firstId : Nat := 0
  failed : Bool := false
  deriving DecidableEq, Repr, Inhabited

/-- R17, R298, R361: one tile; `semTrail` holds, of each semaphore, the increments not yet consumed with what their SIG released
(R231). -/
structure Tile where
  ctxs : Sparse Ctx := []
  cores : Sparse CoreSt := []
  xregs : Sparse TileReg := []
  slots : Sparse MSlot := []
  alloy : Sparse Word := []
  matq : List MatOp := []
  moves : List Move := []
  copies : List Copy := []
  sched : List (List Byte) := []
  stage : Nat := 0
  reserves : List Reserve := []
  agentq : List AReq := []
  walks : List Walk := []
  sems : Sparse Nat := []
  semTrail : Sparse (List (Nat × Known)) := []
  semq : List (Nat × Nat × Nat) := []
  arr : Sparse ArrSet := []
  acqq : List (Nat × Word) := []
  firstGranule : Nat := 96
  freeGranules : List Nat := []
  statBytes : Nat := 0
  spill : Nat := 0
  part : Nat := 0
  launch : Nat := 0
  tasks : List Task := []
  handler : Nat := 0
  tlb : List TlbEntry := []
  agentTlb : List TlbEntry := []
  vault : Vault := {}
  mon : Sparse Word := []
  relc : Sparse Word := []
  sramErrs : Sparse Nat := []
  suspect : List Bool := []
  spareUsed : List Bool := []
  retire : Bool := false
  logCount : Nat := 0
  logPos : Nat := 0
  serves : Nat := 0
  bankPos : Sparse Nat := []
  logFull : Bool := false
  logWait : Option Nat := none
  bankWait : Sparse (Option Nat) := []
  pairOf : Option Nat := none
  isShadow : Bool := false
  pairs : Sparse (Option PairCk) := []
  saved : Bool := false
  deriving DecidableEq, Repr, Inhabited

/-- R326: a command entry that was dispatched and has not completed; `entry` is its 64 bytes, `pri` the host page that it
waits for and `priFail` whether that page was refused (R329, R342); a COPY has moved `done` bytes and the units that begin
at the offsets of `ahead` (R266), and `known` is what is hb-before the command, and what it has written (R286, R327). -/
structure Cmd where
  idx : Nat := 0
  kind : Nat := 0
  irq : Bool := false
  entry : BitVec 512 := 0
  journal : Nat := 0
  done : Nat := 0
  ahead : List Nat := []
  pri : Option Nat := none
  priFail : Bool := false
  known : Known := {}
  deriving DecidableEq, Repr, Inhabited

/-- R325 to R328, R336: one host queue; `entry` is the head entry once it has been read, with its journal number; `pri` and
`priFail` are those of a COND at the head; `bells` holds what the host had written before each doorbell, by the tail it gave, `known`
what the last FENCE, COND and WAITVAL make hb-before later commands, `completed` the same of all completed commands (R286, R327). -/
structure Queue where
  base : Word := 0
  cfg : Word := 0
  tail : Nat := 0
  head : Nat := 0
  doneN : Nat := 0
  entry : Option (Nat × BitVec 512) := none
  flight : List Cmd := []
  skip : Nat := 0
  since : Option Nat := none
  pri : Option Nat := none
  priFail : Bool := false
  raised : Nat := 0
  resetTo : Option Nat := none
  resetJournal : List Nat := []
  bells : List (Nat × Known) := []
  known : Known := {}
  completed : Known := {}
  deriving DecidableEq, Repr, Inhabited

/-- R235, R237: one work list of a launch; items stand in its backing region; `seen` is what their appenders released (R239). -/
structure WorkList where
  cap : Nat := 0
  pa : Nat := 0
  head : Nat := 0
  tail : Nat := 0
  seen : Sparse Known := []
  deriving DecidableEq, Repr, Inhabited

/-- R331: a launch that is running or saved; `ended` is what its halted tasks released (R284), `done` what its work-list operations
released (R241), `known` what is hb-before its tasks (R286); `gone` counts the work-list items that a clear has discarded (R375, R379); `kept` and `bars` are the tiles and the barrier objects of a
saved launch as they were, for what its images do not hold (R357). -/
structure Launch where
  serial : Nat := 0
  queue : Nat := 0
  part : Nat := 0
  prio : Nat := 0
  qidx : Nat := 0
  record : List Byte := []
  recAddr : Word := 0
  placed : List (Nat × Task) := []
  left : Nat := 0
  cause : Option Cause := none
  wdUs : Nat := 0
  wdAt : Nat := 0
  expired : Bool := false
  saved : Option Nat := none
  paired : Bool := false
  recording : Option Bool := none
  lists : Sparse WorkList := []
  gone : Nat := 0
  known : Known := {}
  ended : Known := {}
  done : Known := {}
  p : Nat := 0
  k : Nat := 0
  q : Nat := 0
  u : Sparse Nat := []
  journal : Nat := 0
  irq : Bool := false
  entry : BitVec 512 := 0
  kept : Sparse Tile := []
  bars : Sparse Bar := []
  deriving DecidableEq, Repr, Inhabited

/-- R336, R337, R377: one partition's run state. -/
structure Part where
  run : Bool := true
  halt : Bool := false
  cleared : Bool := false
  live : Bool := false
  queue : Nat := 0
  qidx : Nat := 0
  lseq : Nat := 0
  lastQ : Nat := 15
  preempt : Bool := false
  saveJournal : Nat := 0
  clearing : Bool := false
  reset : List Nat := []
  deriving DecidableEq, Repr, Inhabited

/-- R391, R392: one sector's voltage controller; `start` is the start of its window, `verAt` that of the last verification
window. -/
structure Volt where
  off : Nat := 0
  floor : Nat := 0
  floorUntil : Nat := 0
  raising : Nat := 0
  window : Bool := false
  start : Nat := 0
  verAt : Nat := 0
  counts : Sparse Nat := []
  deriving DecidableEq, Repr, Inhabited

/-- R365 to R371: firmware slots, keys, update session, boot and management state; `booting` is a boot under way, cold or with
the journal entries that it completes, `pendSvn` the slot and the SVN that a commit
named, and `asked` the reads of a dump or of the journal that wait for a vault in HOLD (R132). -/
structure Mgmt where
  stage : Nat := 7
  ready : Bool := true
  fail : Bool := false
  slotA : Memory := []
  slotB : Memory := []
  activeB : Bool := false
  nextB : Bool := false
  minSvn : Nat := 0
  session : Bool := false
  defects : List (Nat × Nat) := []
  fuses : List (Nat × Nat) := []
  clockFail : Bool := false
  vaultFail : Bool := false
  powerOns : Nat := 1
  link : Bool := true
  booting : Option (Bool × List Nat) := none
  vendorKey : List Byte := []
  keyDigest : BitVec 512 := 0
  secret : List Byte := []
  pendSvn : Option (Bool × Nat) := none
  resp : List Byte := []
  asked : List (Bool × Nat × Nat × Nat) := []
  m0 : BitVec 512 := 0
  m1 : BitVec 512 := 0
  m2 : BitVec 512 := 0
  fwver : Word := 0
  deriving DecidableEq, Repr, Inhabited

/-- R342: an ATS invalidation in progress: the page, and the accesses that used its translation. -/
structure Inval where
  page : Nat := 0
  accs : List (Nat × Nat × Nat) := []
  deriving DecidableEq, Repr, Inhabited

/-- R132, R285: an access of the host through BAR2 or the mailbox that has not reached its home: 8 bytes at `pa`, the bits of
`cover` written. -/
structure HostAcc where
  pa : Nat := 0
  v : Word := 0
  cover : Word := 0
  write : Bool := false
  mailbox : Bool := false
  deriving DecidableEq, Repr, Inhabited

/-- R341: a shootdown in progress. -/
structure Shoot where
  part : Nat := 0
  all : Bool := false
  base : Nat := 0
  size : Nat := 0
  accs : List (Nat × Nat × Nat) := []
  deriving DecidableEq, Repr, Inhabited

/-- R343: an access counter. -/
structure Counter where
  n : Nat := 0
  last : Option Nat := none
  multi : Bool := false
  posted : Bool := false
  deriving DecidableEq, Repr, Inhabited

/-- R70: the fields of a PFX word waiting for its group. -/
structure Pfx where
  ord : Ord := .dflt
  scope : Scope := .dflt
  spc : Spc := .dflt
  pol : Pol := .dflt
  deriving DecidableEq, Repr, Inhabited

/-- How a group hands over to the next one (R66, R91, R256). -/
inductive Flow where
  | next
  | branch (taken : Bool) (target : Nat) (kill : Bool)
  | loopStart (l : LoopSt) (n : Nat)
  | eret
  | halted
  | trapAfter (cause : Cause) (arg : Nat)
  | prefixed
  deriving DecidableEq, Repr, Inhabited

/-- R56, R57: which word of a group a meaning carries out. -/
inductive Half where
  | lone | first | second
  deriving DecidableEq, Repr, Inhabited

/-- A class S cause with what entry writes (R350), and the vault row whose repair it begins (R318); `late` for one that is
delivered as class D (R349). -/
structure Trap where
  cause : Cause := .none_
  arg : Nat := 0
  eval : Word := 0
  seq : W32 := 0
  row : Option Nat := none
  late : Bool := false
  deriving DecidableEq, Repr, Inhabited

/-- The issue group being carried out: which half, the tile as it stood before the group (R57), the prefix, and
what the halves have reported so far; `eret` is the site of an ERET, `load` the own-vault tile load that the group has begun (R396), and `samples` the SAMPLE records to be written once the
number that the group takes is known (R393, R404). -/
structure Frame where
  half : Half := .lone
  snap : Option Tile := none
  pfx : Option Pfx := none
  flow : Flow := .next
  trap : Option Trap := none
  blocked : Bool := false
  touch : List (Nat × Nat × Bool) := []
  word : Nat := 0
  seq : Option W32 := none
  retire : Bool := false
  eret : Option Site := none
  load : Option Nat := none
  samples : List (Nat × Site × Nat) := []
  deriving DecidableEq, Repr, Inhabited

/-- Whose turn a step is: a core issues, an agent of the machine or the outside moves, time passes, a TLB drops an
entry (R341), the host stores to its own memory, an array takes an error (R383; none: one that an
agent buffer corrects), an array's code corrects an error that a read of it meets (R381), an
agent request reaches its agent's queue, a task of a peer device arrives at a FABRIC barrier, the host changes whether one of
its pages may be written and whether it answers reads of it with an error (R342), the host reads its own memory and orders what it does
later after that (R284), a request arrives at the side port (R370), the reads of the next turn return what stood at the homes
before write `n`, where R270 allows it, or the next turn moves unit `n` of those that an access has left (R266). A store of the host
may be a release at SYSTEM scope (R274). -/
inductive Turn where
  | issue (t core : Nat)
  | event (i : Instr)
  | elapse (n : Nat)
  | evict (t : Nat) (which : Nat) (k : Nat)
  | hostStore (a n v : Nat) (release : Bool)
  | hostLoad (a : Nat)
  | upset (t off : Nat) (e : Option ErrKind)
  | corrects (t array : Nat)
  | arrive (k : Nat)
  | peerArrive (p idx : Nat)
  | hostPage (page : Nat) (readOnly fails : Bool)
  | side (request : List Byte)
  | asOf (n : Nat)
  | unit (n : Nat)
  deriving DecidableEq, Repr

/-- R23, R24: a message on the mesh: the routers that it goes from and to, its channel, its number. -/
abbrev NetMsg := Nat × Nat × Nat × Nat

/-- The device. `hist` holds the writes performed at their homes, the latest first, and `writes` counts them; `asOf` is the
place in home order that the reads of this turn ask for (R270), `scOrder` what the scoped-sequential events of each scope instance
have made hb-before the next one (R277), `epoch` the time that passed before the last device
reset (R385), `pick` the unit of an access that this turn moves first (R266), `pub` what the host has
written to its memory and acquired from there, `mailSeen` what it wrote to the device, `tlnSeen` what SIGNALs made hb-before a
WAITVAL (R284 to R286). `dumps` names the dumps that stand: identifier, tile, and context or 8 for the tile's (R374); `toAccept` what
waits for the firmware core in order of arrival: the head of a queue, or the command in FWCMD (R371); `dbgRun` what a debug
command under way was started with: DBGSEL, DBGCMD and DBGADR (R400); `netUsed` the messages sent since the
last snapshot of the network, `netMaybe` the routers and the channel between which others may have gone, `netOpen` whether messages of
parties that have no router may have crossed it (R23, R408). -/
structure State where
  time : Nat := 0
  epoch : Nat := 0
  mem : Memory := []
  poison : List Nat := []
  remap : Sparse Nat := []
  tiles : Sparse Tile := []
  bars : Sparse Bar := []
  barArr : List BarArr := []
  regs : Sparse Word := []
  tln : Sparse Word := []
  queues : Sparse Queue := []
  parts : Sparse Part := []
  launches : List Launch := []
  nextSerial : Nat := 1
  counters : Sparse Counter := []
  ats : List Nat := []
  atsRO : List Nat := []
  hostRO : List Nat := []
  hostFails : List Nat := []
  invs : List Inval := []
  priReqs : List Nat := []
  shoot : Option Shoot := none
  wdexp : Word := 0
  jsel : Word := 0
  jnext : Nat := 1
  dumps : List (Nat × Nat × Nat) := []
  toAccept : List (Option Nat) := []
  replies : List Reply := []
  cancels : List (Nat × Nat × Nat) := []
  conts : List (Nat × Nat × Walk) := []
  agentReqs : List (Nat × AReq) := []
  late : List (Nat × Nat × Nat) := []
  overPend : List (Nat × Nat × Nat × Pending) := []
  nextId : Nat := 1
  mbAddr : Word := 0
  dbgDat : Word := 0
  dbgSince : Option Nat := none
  dbgRun : Word × Word × Word := (0, 0, 0)
  dbgWaited : Bool := false
  dbgPri : Option Nat := none
  dbgPriFail : Bool := false
  dbgRow : BitVec 512 := 0
  msix : List Nat := []
  volts : Sparse Volt := []
  netLast : Nat := 0
  netPrev : Nat := 0
  netUsed : List NetMsg := []
  netMaybe : List (Nat × Nat × Nat) := []
  netOpen : Bool := true
  mgmt : Mgmt := {}
  hostData : Word := 0
  hostAccs : List HostAcc := []
  hist : List WriteEv := []
  writes : Nat := 0
  asOf : Option Nat := none
  pick : Nat := 0
  scOrder : Sparse Known := []
  pub : Known := {}
  mailSeen : Known := {}
  tlnSeen : Sparse Known := []
  agenda : List Turn := []
  focusTile : Nat := 0
  focusCtx : Nat := 4
  grp : Frame := {}
  freeCount : Nat := 0
  deriving DecidableEq, Repr

/-- R263, R303, R324, R365, R369, R372: the device right after the boot of a power-on, with the header of the journal. The
fields not listed here have the value that the structure gives: registers as the Reset columns state them; log 1, 2 and 3
for what the manual leaves open, the empty fuse and field defect lists among it (R13). -/
def State.reset : State := { mem := [(Config.firmwareReserve, 1), (Config.firmwareReserve + 8, 1)] }

/-- How a meaning ends before the group is settled: its effect done, a class S cause, or a wait (R57, R221). -/
inductive Eff where
  | done (s : State) (f : Flow)
  | trap (t : Trap)
  | wait (s : State) (w : Wait)
  deriving Repr

end Sys2Proof.Machine
end

