-- ==== Sys2Proof/Machine/Flags.lean ====
section
/-! DEFINITION. The sticky flags: their bits (R45, Table 10.6) and the rules that raise them. -/

namespace Sys2Proof.Machine

/-- R34, R45: invalid operation. -/
def fNV : Nat := 1
/-- R45: division by zero. -/
def fDZ : Nat := 2
/-- R39, R45: overflow. -/
def fOF : Nat := 4
/-- R42, R45: tiny and inexact. -/
def fUF : Nat := 8
/-- R45: inexact. -/
def fNX : Nat := 16
/-- R35, R40, R45: saturation. -/
def fIS : Nat := 32
/-- R45, R51: accumulator wrap. -/
def fWR : Nat := 64

/-- A flag raised when a condition holds. -/
def flagIf (c : Bool) (f : Nat) : Nat := if c then f else 0

/-- R38, R42: the flags of a rounding that did not overflow: NX when inexact, UF when also tiny. -/
def roundFlags (inexact tiny : Bool) : Nat := flagIf inexact fNX ||| flagIf (inexact && tiny) fUF

/-- R39: the flags of an overflow. -/
def overflowFlags : Nat := fOF ||| fNX

/-- R40: the flags of a conversion to an integer: IS when clamped, otherwise NX when the value changed. -/
def integerFlags (clamped changed : Bool) : Nat := if clamped then fIS else flagIf changed fNX

/-- R51: the flag of an i32 accumulation. -/
def wrapFlags (v : Int) : Nat := flagIf (decide (v < -2147483648) || decide (v > 2147483647)) fWR

end Sys2Proof.Machine
end

