-- ==== Sys2Proof/Machine/Numbers.lean ====
section
/-! DEFINITION. The number formats: values of codes, exact arithmetic, and the one rounding that follows it
(R30 to R44, R98). -/

namespace Sys2Proof.Machine

/-- R32: what a code stands for: a NaN (signalling or not), an infinity, or a signed dyadic number m × 2^e. -/
inductive Num where
  | nan (sig : Bool)
  | inf (neg : Bool)
  | fin (neg : Bool) (m : Nat) (e : Int)
  deriving DecidableEq, Repr, Inhabited

/-- R32, Table 2.2: a floating-point format; `ieee` formats have infinities and NaNs in the top exponent. -/
structure Fmt where
  eb : Nat
  fb : Nat
  bias : Int
  ieee : Bool
  deriving DecidableEq, Repr, Inhabited

/-- Table 2.2. -/
def f64Fmt : Fmt := { eb := 11, fb := 52, bias := 1023, ieee := true }
/-- Table 2.2. -/
def f32Fmt : Fmt := { eb := 8, fb := 23, bias := 127, ieee := true }
/-- Table 2.2. -/
def bf16Fmt : Fmt := { eb := 8, fb := 7, bias := 127, ieee := true }
/-- Table 2.2. -/
def f16Fmt : Fmt := { eb := 5, fb := 10, bias := 15, ieee := true }
/-- Table 2.2. -/
def fe8Fmt : Fmt := { eb := 4, fb := 3, bias := 7, ieee := false }

/-- Table 2.2: the least exponent. -/
def Fmt.emin (f : Fmt) : Int := 1 - f.bias
/-- Table 2.2: the greatest exponent. -/
def Fmt.emax (f : Fmt) : Int := (if f.ieee then 2 ^ f.eb - 2 else 2 ^ f.eb - 1 : Int) - f.bias
/-- The sign bit of a code. -/
def Fmt.sign (f : Fmt) : Nat := 2 ^ (f.eb + f.fb)
/-- Table 2.2: the canonical NaN. -/
def Fmt.nan (f : Fmt) : Nat := if f.ieee then (2 ^ f.eb - 1) * 2 ^ f.fb + 2 ^ (f.fb - 1) else 0x80
/-- The code of the largest finite value. -/
def Fmt.maxCode (f : Fmt) : Nat := if f.ieee then (2 ^ f.eb - 1) * 2 ^ f.fb - 1 else 0x7F
/-- The code of +∞. -/
def Fmt.infCode (f : Fmt) : Nat := (2 ^ f.eb - 1) * 2 ^ f.fb

/-- R32, R33: the value of a code. -/
def Fmt.decode (f : Fmt) (c : Nat) : Num :=
  let neg := decide (c / f.sign % 2 = 1)
  let e := c / 2 ^ f.fb % 2 ^ f.eb
  let m := c % 2 ^ f.fb
  if ¬f.ieee ∧ c % 256 = 0x80 then .nan false
  else if f.ieee ∧ e = 2 ^ f.eb - 1 then
    (if m = 0 then .inf neg else .nan (decide (m < 2 ^ (f.fb - 1))))
  else if e = 0 then .fin neg m (f.emin - f.fb)
  else .fin neg (2 ^ f.fb + m) ((e : Int) - f.bias - f.fb)

/-- A code with a sign; fe8 has one zero (R33). -/
def Fmt.signed (f : Fmt) (neg : Bool) (c : Nat) : Nat :=
  if neg ∧ (f.ieee ∨ c ≠ 0) then c + f.sign else c

/-- R43: the rounding modes of Table 2.6. -/
inductive Mode where
  | ne | tz | up | dn
  deriving DecidableEq, Repr, Inhabited

/-- R39, Table 2.5: the result of an overflow. -/
def Fmt.overflow (f : Fmt) (mode : Mode) (neg : Bool) : Nat :=
  let big : Bool := match mode with
    | .ne => true
    | .tz => false
    | .up => !neg
    | .dn => neg
  f.signed neg (if f.ieee ∧ big then f.infCode else f.maxCode)

/-- Whether a rounding goes away from zero: `n` the truncated magnitude, `rem` out of `2^sh` cut off. -/
def roundsUp (mode : Mode) (neg : Bool) (n rem sh : Nat) : Bool :=
  match mode with
  | .ne => decide (2 * rem > 2 ^ sh) || (decide (2 * rem = 2 ^ sh) && decide (n % 2 = 1))
  | .tz => false
  | .up => decide (rem ≠ 0) && !neg
  | .dn => decide (rem ≠ 0) && neg

/-- R38, R41, R42: a number m × 2^e rounded to a format: the code and the flags. -/
def Fmt.roundFin (f : Fmt) (mode : Mode) (neg : Bool) (m : Nat) (e : Int) : Nat × Nat :=
  if m = 0 then (f.signed neg 0, 0)
  else
    let ex := max ((m.log2 : Int) + e) f.emin
    let qe := ex - f.fb
    let sh := (qe - e).toNat
    let n0 := if qe ≤ e then m * 2 ^ (e - qe).toNat else m / 2 ^ sh
    let rem := if qe ≤ e then 0 else m % 2 ^ sh
    let n := if roundsUp mode neg n0 rem sh then n0 + 1 else n0
    if ex > f.emax ∨ (ex = f.emax ∧ n = 2 ^ (f.fb + 1)) then (f.overflow mode neg, overflowFlags)
    else
      let code := if n < 2 ^ f.fb then n else ((ex + f.bias).toNat - 1) * 2 ^ f.fb + n
      (f.signed neg code, roundFlags (decide (rem ≠ 0)) (decide (n < 2 ^ f.fb)))

/-- R34, R38: any number rounded to a format. A NaN gives the canonical NaN and raises nothing here. -/
def Fmt.round (f : Fmt) (mode : Mode) : Num → Nat × Nat
  | .nan _ => (f.nan, 0)
  | .inf neg => if f.ieee then (f.signed neg f.infCode, 0) else (f.signed neg f.maxCode, fOF)
  | .fin neg m e => f.roundFin mode neg m e

/-- R34: NV for a signalling NaN. -/
def sigFlags : Num → Nat
  | .nan true => fNV
  | .nan false | .inf _ | .fin _ _ _ => 0

/-- Whether a number is a NaN. -/
def Num.isNan : Num → Bool
  | .nan _ => true
  | .inf _ | .fin _ _ _ => false

/-- Whether a number is zero. -/
def Num.isZero : Num → Bool
  | .fin _ m _ => decide (m = 0)
  | .nan _ | .inf _ => false

/-- The sign of a number; a NaN has none. -/
def Num.neg : Num → Bool
  | .nan _ => false
  | .inf n => n
  | .fin n _ _ => n

/-- The opposite number. -/
def Num.negate : Num → Num
  | .nan s => .nan s
  | .inf n => .inf (!n)
  | .fin n m e => .fin (!n) m e

/-- The magnitude of a number. -/
def Num.abs : Num → Num
  | .nan s => .nan s
  | .inf _ => .inf false
  | .fin _ m e => .fin false m e

/-- A signed integer as a number. -/
def Num.ofInt (i : Int) : Num := .fin (decide (i < 0)) i.natAbs 0

/-- The signed numerator of a finite number over 2^e. -/
def scaled (e : Int) : Num → Int
  | .fin neg m k => (if neg then -1 else 1) * ((m * 2 ^ (k - e).toNat : Nat) : Int)
  | .nan _ | .inf _ => 0

/-- The least exponent among finite numbers. -/
def leastExp : List Num → Int
  | [] => 0
  | [.fin _ _ e] => e
  | .fin _ _ e :: r => min e (leastExp r)
  | _ :: r => leastExp r

/-- R41: the sign of an exact zero sum. -/
def zeroSign (mode : Mode) (l : List Num) : Bool :=
  let neg := l.any fun x => x.neg
  let pos := l.any fun x => !x.neg
  if pos then (match mode with | .dn => neg | .ne | .tz | .up => false) else neg

/-- R41, R49: the exact sum of a list of numbers: a NaN if any is one, NV for opposite infinities and signalling
NaNs. -/
def sumNum (mode : Mode) (l : List Num) : Num × Nat :=
  let sig := if l.any (fun x => decide (sigFlags x ≠ 0)) then fNV else 0
  let pi := l.any fun x => decide (x = .inf false)
  let ni := l.any fun x => decide (x = .inf true)
  if l.any Num.isNan then (.nan false, sig ||| (if pi && ni then fNV else 0))
  else if pi && ni then (.nan false, fNV)
  else if pi then (.inf false, 0)
  else if ni then (.inf true, 0)
  else
    let e := leastExp l
    let t := l.foldl (fun a x => a + scaled e x) 0
    if t = 0 then (.fin (zeroSign mode l) 0 0, 0) else (.fin (decide (t < 0)) t.natAbs e, 0)

/-- R34, R41: the exact product. -/
def mulNum (a b : Num) : Num × Nat :=
  match a, b with
  | .nan x, .nan y => (.nan false, flagIf (x || y) fNV)
  | .nan x, _ => (.nan false, flagIf x fNV)
  | _, .nan y => (.nan false, flagIf y fNV)
  | .inf n, b => if b.isZero then (.nan false, fNV) else (.inf (xor n b.neg), 0)
  | a, .inf n => if a.isZero then (.nan false, fNV) else (.inf (xor n a.neg), 0)
  | .fin n m e, .fin n' m' e' => (.fin (xor n n') (m * m') (e + e'), 0)

/-- The bits of precision to which a quotient or root is carried before its sticky bit. -/
def guardBits : Nat := 140

/-- Table 4.9: the quotient, odd in its last place when it is not exact, so that one rounding is right. -/
def divNum (a b : Num) : Num × Nat :=
  match a, b with
  | .nan x, .nan y => (.nan false, flagIf (x || y) fNV)
  | .nan x, _ => (.nan false, flagIf x fNV)
  | _, .nan y => (.nan false, flagIf y fNV)
  | .inf _, .inf _ => (.nan false, fNV)
  | .inf n, b => (.inf (xor n b.neg), 0)
  | a, .inf n => (.fin (xor n a.neg) 0 0, 0)
  | .fin n m e, .fin n' m' e' =>
    if m' = 0 then (if m = 0 then (.nan false, fNV) else (.inf (xor n n'), fDZ))
    else
      let k := guardBits + m'.log2
      let q := m * 2 ^ k / m'
      let r := m * 2 ^ k % m'
      (.fin (xor n n') (2 * q + (if r = 0 then 0 else 1)) (e - e' - k - 1), 0)

/-- The integer square root from bit `i` down, with `r` found so far. -/
def isqrtFrom (n : Nat) : Nat → Nat → Nat
  | 0, r => if (r + 1) * (r + 1) ≤ n then r + 1 else r
  | i + 1, r => isqrtFrom n i (if (r + 2 ^ (i + 1)) * (r + 2 ^ (i + 1)) ≤ n then r + 2 ^ (i + 1) else r)

/-- The integer square root. -/
def isqrt (n : Nat) : Nat := isqrtFrom n (n.log2 / 2 + 1) 0

/-- Table 4.9: the square root, carried as a quotient is. -/
def sqrtNum (a : Num) : Num × Nat :=
  match a with
  | .nan x => (.nan false, flagIf x fNV)
  | .inf neg => if neg then (.nan false, fNV) else (.inf false, 0)
  | .fin neg m e =>
    if m = 0 then (.fin neg 0 0, 0)
    else if neg then (.nan false, fNV)
    else
      let k : Nat := if e % 2 = 0 then 2 * guardBits else 2 * guardBits + 1
      let v := m * 2 ^ k
      let r := isqrt v
      (.fin false (2 * r + (if r * r = v then 0 else 1)) ((e - k) / 2 - 1), 0)

/-- R151: 1/√a, carried as a quotient is. -/
def rsqrtNum (a : Num) : Num × Nat :=
  match a with
  | .nan x => (.nan false, flagIf x fNV)
  | .inf neg => if neg then (.nan false, fNV) else (.fin false 0 0, 0)
  | .fin neg m e =>
    if m = 0 then (.inf neg, fDZ)
    else if neg then (.nan false, fNV)
    else
      let m' := if e % 2 = 0 then m else 2 * m
      let e' := if e % 2 = 0 then e else e - 1
      let k := guardBits + m'.log2
      let r := isqrt (2 ^ (2 * k) / m')
      (.fin false (2 * r + (if r * r * m' = 2 ^ (2 * k) then 0 else 1)) (-(e' / 2) - k - 1), 0)

/-- ln 2 to 256 fraction bits. -/
def ln2Bits : Nat := 80260960185991308862233904206310070533990667611589946606122867505419956976171

/-- The series of exp from term `k` on, in units of 2^-256. -/
def expSeries (x : Nat) : Nat → Nat → Nat → Nat
  | 0, _, _ => 0
  | n + 1, k, term => term + expSeries x n (k + 1) (term * x / 2 ^ 256 / (k + 1))

/-- R151: 2^a. A power that is not exact is carried to 256 bits with a sticky bit (log 7). -/
def exp2Num (a : Num) : Num × Nat :=
  match a with
  | .nan x => (.nan false, flagIf x fNV)
  | .inf neg => if neg then (.fin false 0 0, 0) else (.inf false, 0)
  | .fin neg m e =>
    if m = 0 then (.fin false 1 0, 0)
    else if (m.log2 : Int) + e ≥ 12 then (.fin false 3 (if neg then -5000 else 5000), 0)
    else
      let v : Int := (if neg then -1 else 1) * ((if e ≥ 0 then m * 2 ^ (e + 256).toNat else m * 2 ^ 256 / 2 ^ (-e).toNat : Nat) : Int)
      let i := v / 2 ^ 256
      let f := (v % 2 ^ 256).toNat
      if f = 0 then (.fin false 1 i, 0)
      else
        let x := f * ln2Bits / 2 ^ 256
        (.fin false (2 * expSeries x 70 0 (2 ^ 256) + 1) (i - 257), 0)

/-- The order of two numbers that are no NaNs, −0 below +0 (R98): whether a < b. -/
def ltNum (a b : Num) : Bool :=
  match a, b with
  | .nan _, _ | _, .nan _ => false
  | .inf n, .inf n' => n && !n'
  | .inf n, .fin _ _ _ => n
  | .fin _ _ _, .inf n => !n
  | .fin n m e, .fin n' m' e' =>
    if m = 0 ∧ m' = 0 then n && !n'
    else
      let k := min e e'
      decide (scaled k (.fin n m e) < scaled k (.fin n' m' e'))

/-- R97: equality of values, −0 and +0 equal. -/
def eqNum (a b : Num) : Bool :=
  match a, b with
  | .nan _, _ | _, .nan _ => false
  | .inf n, .inf n' => decide (n = n')
  | .inf _, .fin _ _ _ | .fin _ _ _, .inf _ => false
  | .fin n m e, .fin n' m' e' =>
    let k := min e e'
    decide (scaled k (.fin n m e) = scaled k (.fin n' m' e'))

/-- R97: less by value, −0 and +0 equal. -/
def ltValue (a b : Num) : Bool := ltNum a b && !eqNum a b

/-- R98: the smaller operand. -/
def minNum (a b : Num) : Num × Nat :=
  if a.isNan || b.isNan then (.nan false, sigFlags a ||| sigFlags b)
  else (if ltNum b a then b else a, 0)

/-- R98: the larger operand. -/
def maxNum (a b : Num) : Num × Nat :=
  if a.isNan || b.isNan then (.nan false, sigFlags a ||| sigFlags b)
  else (if ltNum a b then b else a, 0)

/-- A finite number rounded to the integer grid: the integer and whether it changed. -/
def roundInt (mode : Mode) (neg : Bool) (m : Nat) (e : Int) : Int × Bool :=
  if e ≥ 0 then ((if neg then -1 else 1) * ((m * 2 ^ e.toNat : Nat) : Int), false)
  else
    let sh := (-e).toNat
    let n0 := m / 2 ^ sh
    let rem := m % 2 ^ sh
    let n := if roundsUp mode neg n0 rem sh then n0 + 1 else n0
    ((if neg then -1 else 1) * (n : Int), decide (rem ≠ 0))

/-- R40: a number converted to an integer of a range: NaN gives 0 and NV, out of range saturates with IS. -/
def toInteger (mode : Mode) (lo hi : Int) : Num → Int × Nat
  | .nan _ => (0, fNV)
  | .inf neg => (if neg then lo else hi, fIS)
  | .fin neg m e =>
    if m = 0 then (0, 0)
    else if (m.log2 : Int) + e > 80 then (if neg then lo else hi, fIS)
    else
      let (v, changed) := roundInt mode neg m e
      if v < lo then (lo, integerFlags true changed)
      else if v > hi then (hi, integerFlags true changed)
      else (v, integerFlags false changed)

/-- R30: the width of an element. -/
def tyWidth : Ty → Nat
  | .i8 | .n8 | .fe8 => 8
  | .i16 | .n16 | .f16 | .bf16 => 16
  | .i32 | .n32 | .f32 => 32
  | .i64 | .n64 => 64
  | .q4 => 4
  | .bit => 1

/-- R30: elements per row. -/
def tyCount (t : Ty) : Nat := 512 / tyWidth t

/-- Table 2.2: the format of a float type. -/
def tyFmt : Ty → Fmt
  | .fe8 => fe8Fmt
  | .f16 => f16Fmt
  | .bf16 => bf16Fmt
  | .f32 | .i8 | .i16 | .i32 | .i64 | .n8 | .n16 | .n32 | .n64 | .q4 | .bit => f32Fmt

/-- R35: the least value of an integer type. -/
def tyLo (t : Ty) : Int := if t.isSigned then -(2 ^ (tyWidth t - 1) : Int) else 0
/-- R35: the greatest value of an integer type. -/
def tyHi (t : Ty) : Int := if t.isSigned then 2 ^ (tyWidth t - 1) - 1 else 2 ^ tyWidth t - 1

/-- R35: the integer of a code. -/
def intOf (t : Ty) (c : Nat) : Int :=
  if t.isSigned ∧ c ≥ 2 ^ (tyWidth t - 1) then (c : Int) - 2 ^ tyWidth t else c

/-- An integer as a code of a width, modulo 2^w. -/
def codeOf (w : Nat) (i : Int) : Nat := (i % 2 ^ w).toNat

/-- R30: the code of element i of a row. -/
def elem (w : Nat) (r : BitVec 512) (i : Nat) : Nat := r.toNat / 2 ^ (w * i) % 2 ^ w

/-- R30: a row from its element codes, from element 0 on. -/
def packElems (w : Nat) : List Nat → Nat
  | [] => 0
  | c :: r => c % 2 ^ w + 2 ^ w * packElems w r

/-- R36: the value of an X8 code. -/
def x8 (v : Nat) : Int :=
  let m : Int := 3 * 2 ^ (v / 16 % 8 + 2)
  if v / 128 % 2 = 1 then -m else m

/-- R36: a nibble as a two's-complement value. -/
def signed4 (n : Nat) : Int := if n ≥ 8 then (n : Int) - 16 else n

/-- R36: the two values of a q4 byte. -/
def decodeQ4 (b : Nat) : Int × Int :=
  let lo := b % 16
  let hi := b / 16 % 16
  if lo = 8 then (x8 b, 0) else if hi = 8 then (0, x8 (lo * 16 + 8)) else (signed4 lo, signed4 hi)

/-- R30, R36, R44: element i of a row of a type as a number. -/
def elemNum (t : Ty) (r : BitVec 512) (i : Nat) : Num :=
  if t.isFloat then (tyFmt t).decode (elem (tyWidth t) r i)
  else if t = .q4 then
    let p := decodeQ4 (elem 8 r (i / 2))
    Num.ofInt (if i % 2 = 0 then p.1 else p.2)
  else Num.ofInt (intOf t (elem (tyWidth t) r i))

/-- R44, Table 2.7: a number as a code of a type other than q4. -/
def toCode (t : Ty) (mode : Mode) (v : Num) : Nat × Nat :=
  if t.isFloat then
    let (c, f) := (tyFmt t).round mode v
    (c, f ||| sigFlags v)
  else if t = .bit then
    match v with
    | .nan _ => (1, fNV)
    | .inf _ => (1, 0)
    | .fin _ m _ => (if m = 0 then 0 else 1, 0)
  else
    let (i, f) := toInteger mode (tyLo t) (tyHi t) v
    (codeOf (tyWidth t) i, f)

/-- Twice the magnitude of a number compared with an integer: whether |x| < k/2. -/
def absBelowHalf (x : Num) (k : Nat) : Bool :=
  match x with
  | .nan _ | .inf _ => false
  | .fin _ m e => ltValue (.fin false m (e + 1)) (.fin false k 0)

/-- R37: the X8 code whose magnitude is nearest, the smaller on a tie, with the sign; and OF above 1,536. -/
def nearestX8 (x : Num) : Nat × Nat :=
  let s := if x.neg then 128 else 0
  let beyond := !absBelowHalf x 3072 && !eqNum x.abs (.fin false 1536 0)
  -- the midpoints between neighbouring magnitudes 12·2^k are 18·2^k
  let k := ((List.range 7).filter fun k => ltValue (.fin false (18 * 2 ^ k) 0) x.abs).length
  (s + k * 16 + 8, flagIf beyond fOF)

/-- R37: one element on its way to q4: escaping with its X8 code, or a nibble; NV, IS and NX are settled below. -/
def q4Elem (x : Num) : Bool × Nat × Int × Nat :=
  match x with
  | .nan _ => (false, 0, 0, fNV)
  | .inf neg => (true, if neg then 0xF8 else 0x78, 0, fOF)
  | .fin neg m e =>
    if absBelowHalf x 19 then
      let (v, _) := roundInt .ne neg m e
      let c := if v < -7 then -7 else if v > 7 then 7 else v
      (false, 0, c, flagIf (decide (c ≠ v)) fIS)
    else
      let (t, f) := nearestX8 x
      (true, t, 0, f)

/-- R37: a pair of numbers encoded to a q4 byte, with its flags. -/
def encodeQ4 (x0 x1 : Num) : Nat × Nat :=
  let (e0, t0, c0, f0) := q4Elem x0
  let (e1, t1, c1, f1) := q4Elem x1
  let odd := e1 && decide (t1 = 0x88)
  let e1' := e1 && !odd
  let c1' := if odd then -7 else c1
  let f1' := if odd then f1 ||| fIS else f1
  let both := e0 && e1'
  let second := both && ltValue x0.abs x1.abs
  let e0' := e0 && !second
  let e1'' := e1' && !(both && !second)
  let b := if e0' then t0 else if e1'' then 128 + t1 / 16 % 16
    else codeOf 4 c1' * 16 + codeOf 4 c0
  let d := decodeQ4 b
  let nx0 := !x0.isNan && !eqNum x0 (Num.ofInt d.1)
  let nx1 := !x1.isNan && !eqNum x1 (Num.ofInt d.2)
  (b, f0 ||| f1' ||| flagIf (nx0 || nx1) fNX)

end Sys2Proof.Machine
end

