-- ==== Sys2Proof/Machine/Regs.lean ====
section
/-! DEFINITION. Reading and writing the registers of tiles, cores and contexts, through one accessor each. -/

namespace Sys2Proof.Machine

/-- The tile with logical number `t` (R6). -/
def tileOf (s : State) (t : Nat) : Tile := Sparse.get {} s.tiles t

/-- One tile replaced. -/
def setTile (t : Nat) (x : Tile) (s : State) : State := { s with tiles := Sparse.set t x s.tiles }

/-- One tile changed. -/
def modTile (t : Nat) (f : Tile → Tile) (s : State) : State := setTile t (f (tileOf s t)) s

/-- Context `c` of a tile record. -/
def ctxIn (x : Tile) (c : Nat) : Ctx := Sparse.get {} x.ctxs c

/-- Context `c` of tile `t` (R16). -/
def ctxOf (s : State) (t c : Nat) : Ctx := ctxIn (tileOf s t) c

/-- One context replaced. -/
def setCtx (t c : Nat) (x : Ctx) (s : State) : State :=
  modTile t (fun tl => { tl with ctxs := Sparse.set c x tl.ctxs }) s

/-- One context changed. -/
def modCtx (t c : Nat) (f : Ctx → Ctx) (s : State) : State := setCtx t c (f (ctxOf s t c)) s

/-- R16: the core of a context, 0 for the S-core and 1 for the C-core. -/
def coreIx (c : Nat) : Nat := c / 4

/-- A core of a tile. -/
def coreOf (s : State) (t k : Nat) : CoreSt := Sparse.get {} (tileOf s t).cores k

/-- One core changed. -/
def modCore (t k : Nat) (f : CoreSt → CoreSt) (s : State) : State :=
  modTile t (fun tl => { tl with cores := Sparse.modify {} k f tl.cores }) s

/-- The context whose group is carried out. -/
def cur (s : State) : Ctx := ctxOf s s.focusTile s.focusCtx

/-- The acting context changed. -/
def modCur (f : Ctx → Ctx) (s : State) : State := modCtx s.focusTile s.focusCtx f s

/-- The acting tile. -/
def curTile (s : State) : Tile := tileOf s s.focusTile

/-- The acting tile changed. -/
def modCurTile (f : Tile → Tile) (s : State) : State := modTile s.focusTile f s

/-- R57: the tile from which operands are read: as it stood before the group. -/
def opTile (s : State) : Tile := s.grp.snap.getD (curTile s)

/-- R57: the context from which operands are read. -/
def opCtx (s : State) : Ctx := ctxIn (opTile s) s.focusCtx

/-- A scalar register of a context; s0 reads zero and is never poisoned (R83). -/
def scalarIn (x : Ctx) (r : Nat) : Scalar := if r = 0 then {} else Sparse.get {} x.sregs r

/-- R57, R81: a scalar operand. -/
def rdS (s : State) (r : Fin 16) : Scalar := scalarIn (opCtx s) r.val

/-- R83: a scalar result; a write to s0 is discarded together with its poison. -/
def putScalar (r : Nat) (v : Scalar) (x : Ctx) : Ctx :=
  if r = 0 then x else { x with sregs := Sparse.set r v x.sregs }

/-- A scalar result of the acting context. -/
def wrS (r : Fin 16) (v : Scalar) (s : State) : State := modCur (putScalar r.val v) s

/-- One bit of a word. -/
def wbit (w : Word) (i : Nat) : Bool := w.getLsbD i

/-- Field [lo+n-1:lo] of a word. -/
def wfld (w : Word) (lo n : Nat) : Nat := w.toNat / 2 ^ lo % 2 ^ n

/-- A word with field [lo+n-1:lo] replaced. -/
def putFld (w : Word) (lo n v : Nat) : Word :=
  BitVec.ofNat 64 (w.toNat - wfld w lo n * 2 ^ lo + v % 2 ^ n * 2 ^ lo)

/-- Table 10.3: the privilege, 0 TASK, 1 SUPER, 2 FIRM. -/
def prv (x : Ctx) : Nat := wfld x.status 0 2
/-- Table 10.3: the privilege before trap entry. -/
def pprv (x : Ctx) : Nat := wfld x.status 2 2
/-- Table 10.3: in a handler. -/
def exl (x : Ctx) : Bool := wbit x.status 4
/-- Table 10.3: TIMER interrupts are taken. -/
def ie (x : Ctx) : Bool := wbit x.status 5
/-- Table 10.3: mirror check enable. -/
def mck (x : Ctx) : Bool := wbit x.status 6
/-- Table 10.3: the partial-move bit. -/
def pm (x : Ctx) : Bool := wbit x.status 7
/-- Table 10.3: single step. -/
def ss (x : Ctx) : Bool := wbit x.status 8

/-- The partial-move bit written. -/
def setPm (b : Bool) (x : Ctx) : Ctx := { x with status := putFld x.status 7 1 (if b then 1 else 0) }

/-- R340: the partition of a tile's sector, from PARTCFG (R324); none when the sector belongs to no partition. -/
def sectorOf (t : Nat) : Nat := t / 32 / 16 * 2 + t % 32 / 16

/-- R15: the cluster of a tile. -/
def clusterOf (t : Nat) : Nat := t / 32 / 4 * 8 + t % 32 / 4

/-- R13: the physical column of a logical tile under a remap table. -/
def physColIn (r : Sparse Nat) (t : Nat) : Nat := if t % 32 < Sparse.get 32 r (t / 32) then t % 32 else t % 32 + 1

/-- R13, R25: the physical column of a logical tile. -/
def physCol (s : State) (t : Nat) : Nat := physColIn s.remap t

/-- R75: a tile-register name under the rotation of the pass a context is in. -/
def rotate (x : Ctx) (f : Nat) : Nat :=
  match x.loop with
  | none => f
  | some l =>
    let w := if l.rotw = 0 then 0 else 2 ^ l.rotw
    if l.rotb ≤ f ∧ f < l.rotb + w then l.rotb + (f - l.rotb + l.pass * l.stride) % w else f

/-- R136: the physical tile register that a rotated name of a context is bound to. -/
def physOf (x : Ctx) (f : Nat) : Option Nat :=
  match Sparse.get (999, false) x.names f with
  | (p, _) => if p < 32 then some p else none

/-- R136: the physical register that a tile-name field of the acting group names. -/
def nameOf (s : State) (f : Fin 16) : Option Nat := physOf (opCtx s) (rotate (opCtx s) f.val)

/-- A row of a physical tile register of a tile record. -/
def rowIn (x : Tile) (p k : Nat) : Row := Sparse.get {} (Sparse.get {} x.xregs p).rows k

/-- R57, R137: a row operand. -/
def rdRow (s : State) (p k : Nat) : Row := rowIn (opTile s) p k

/-- R168: a row written by anything but a tile load sets the data stamp to NONE and leaves the record. -/
def putRow (p k : Nat) (v : Row) (now : Nat) (x : Tile) : Tile :=
  { x with xregs := Sparse.modify {} p (fun g =>
      { g with rows := Sparse.set k v g.rows, stamp := 0xFFFFFFFF, lastUse := now, drowsy := false }) x.xregs }

/-- A row result of the acting group. -/
def wrRow (p k : Nat) (v : Row) (s : State) : State := modCurTile (putRow p k v s.time) s

/-- R154: a register that a group reads is awake and its use is noted. -/
def touchReg (p : Nat) (s : State) : State :=
  modCurTile (fun x => { x with xregs := Sparse.modify {} p (fun g =>
    { g with lastUse := s.time, drowsy := false }) x.xregs }) s

/-- R45: flags raised into FPFLAGS; the bits are NV 0, DZ 1, OF 2, UF 3, NX 4, IS 5, WR 6. -/
def raiseFp (f : Nat) (s : State) : State :=
  modCur (fun x => { x with fpflags := x.fpflags ||| BitVec.ofNat 64 f }) s

/-- R262: flags raised into the MXFLAGS of a context. -/
def raiseMx (t c f : Nat) (s : State) : State :=
  modCtx t c (fun x => { x with mxflags := x.mxflags ||| BitVec.ofNat 64 (f &&& 0x5D) }) s

/-- R118, R159, R183: the next engine sequence number of a core; it wraps. -/
def takeSeq (t k : Nat) (s : State) : W32 × State :=
  let n := (coreOf s t k).seqno
  (n, modCore t k (fun x => { x with seqno := n + 1 }) s)

/-- R388: the checkpoint of a context changed, while it has one. -/
def modPair (t c : Nat) (f : PairCk → PairCk) (s : State) : State :=
  match Sparse.get none (tileOf s t).pairs c with
  | none => s
  | some k => modTile t (fun x => { x with pairs := Sparse.set c (some (f k)) x.pairs }) s

/-- R389: the effect on a context of what it asked for before its interval began stands in its checkpoint too. -/
def landBoth (t c id : Nat) (f : Ctx → Ctx) (s : State) : State :=
  modPair t c (fun k => if id < k.firstId then { k with ctx := f k.ctx } else k) (modCtx t c f s)

/-- R389, R393: the number that a group of a context took becomes its last one. -/
def noteSeq (n : W32) (s : State) : State :=
  let s := modPair s.focusTile s.focusCtx (fun k => { k with taken := k.taken + 1 })
    (modCur (fun x => { x with seqLast := n }) s)
  { s with grp := { s.grp with seq := some n } }

/-- R118, R159, R183: the acting context takes a number. -/
def takeSeqCur (s : State) : W32 × State :=
  let (n, s) := takeSeq s.focusTile (coreIx s.focusCtx) s
  (n, noteSeq n s)

/-- A fresh number for a command, an access or a message. -/
def freshId (s : State) : Nat × State := (s.nextId, { s with nextId := s.nextId + 1 })

/-- A fresh unspecified value (log 12). -/
def freshValue (s : State) : Word × State := (Config.freeValue s.freeCount, { s with freeCount := s.freeCount + 1 })

/-- TIME as a register shows it. -/
def timeWord (s : State) : Word := BitVec.ofNat 64 s.time

/-- R324: PARTCFG. -/
def partOfSector (s : State) (n : Nat) : Option Nat :=
  let w := Sparse.get 0 s.regs 0x10
  if wbit w (4 * n + 3) then some (wfld w (4 * n) 3) else none

/-- R324: the partition a tile belongs to. -/
def partOfTile (s : State) (t : Nat) : Option Nat := partOfSector s (sectorOf t)

/-- The running or saved launch with a serial number. -/
def launchOf (s : State) (n : Nat) : Option Launch := s.launches.find? fun l => decide (l.serial = n)

/-- The launch that runs on a partition. -/
def runningLaunch (s : State) (p : Nat) : Option Launch :=
  s.launches.find? fun l => decide (l.part = p) && l.saved.isNone

/-- One launch changed. -/
def modLaunch (n : Nat) (f : Launch → Launch) (s : State) : State :=
  { s with launches := s.launches.map fun l => if l.serial = n then f l else l }

/-- One partition's run state. -/
def partOf (s : State) (p : Nat) : Part := Sparse.get {} s.parts p

/-- One partition changed. -/
def modPart (p : Nat) (f : Part → Part) (s : State) : State := { s with parts := Sparse.modify {} p f s.parts }

/-- One host queue. -/
def queueOf (s : State) (q : Nat) : Queue := Sparse.get {} s.queues q

/-- One host queue changed. -/
def modQueue (q : Nat) (f : Queue → Queue) (s : State) : State := { s with queues := Sparse.modify {} q f s.queues }

/-- R321: an MSI-X vector is raised. -/
def raiseMsix (v : Nat) (s : State) : State := { s with msix := s.msix ++ [v] }

end Sys2Proof.Machine
end

