-- ==== Sys2Proof/Machine/Alloy.lean ====
section
/-! DEFINITION. The alloy table and the arithmetic of the matrix engine: entries, row passes, drains (R47 to R53,
R162 to R166, R174). -/

namespace Sys2Proof.Machine

/-- R162, Table 7.3: the catalogue code of an entry. -/
def eCat (e : Word) : Nat := wfld e 0 4
/-- Table 7.3: the element type of an entry; 14 and 15 never stand in a valid entry. -/
def eTy (e : Word) : Ty := (Ty.ofCode (wfld e 4 4)).getD .i8
/-- Table 7.3: both operands scaled. -/
def eScl (e : Word) : Bool := wbit e 8
/-- Table 7.3: an NV event also poisons the row. -/
def eExc (e : Word) : Bool := wbit e 9
/-- Table 7.3: a legal entry. -/
def eValid (e : Word) : Bool := wbit e 10
/-- Table 7.3: the accumulator is i32. -/
def eAcc (e : Word) : Bool := wbit e 11
/-- Table 7.3: the identity. -/
def eIdent (e : Word) : Nat := wfld e 16 32
/-- Table 7.3: the padding value. -/
def ePad (e : Word) : Nat := wfld e 48 16

/-- R164, Table 7.4: the accumulator format of a legal combination, true for i32; none for an illegal one. -/
def alloyAcc (cat : Nat) (t : Ty) (scl : Bool) : Option Bool :=
  match cat, t, scl with
  | 0, .f16, false | 0, .bf16, false | 0, .fe8, _ | 0, .q4, true => some false
  | 0, .i8, false | 0, .q4, false => some true
  | 1, .f16, false | 1, .bf16, false | 2, .f16, false | 2, .bf16, false
  | 6, .f16, false | 6, .bf16, false | 7, .f16, false | 7, .bf16, false => some false
  | 1, .i16, false | 1, .i8, false | 2, .i16, false | 2, .i8, false
  | 6, .i16, false | 6, .i8, false | 7, .i16, false | 7, .i8, false => some true
  | 3, .f16, false | 3, .bf16, false | 3, .fe8, false => some false
  | 4, .bit, false | 5, .bit, false => some true
  | 8, .f16, false | 8, .bf16, false => some false
  | 8, .i8, false => some true
  | _, _, _ => none

/-- R165, Table 7.5: the identity. -/
def alloyIdent (cat : Nat) (i32 : Bool) : Nat :=
  match cat with
  | 1 | 6 => if i32 then 0x7FFFFFFF else 0x7F800000
  | 2 | 7 => if i32 then 0x80000000 else 0xFF800000
  | _ => 0

/-- R165, Table 7.5: the padding value. -/
def alloyPad (cat : Nat) (t : Ty) : Nat :=
  match cat, t with
  | 1, .f16 | 6, .f16 => 0x7C00
  | 1, .bf16 | 6, .bf16 => 0x7F80
  | 1, .i16 | 6, .i16 => 0x7FFF
  | 1, .i8 | 6, .i8 => 0x7F
  | 2, .f16 | 7, .f16 => 0xFC00
  | 2, .bf16 | 7, .bf16 => 0xFF80
  | 2, .i16 | 7, .i16 => 0x8000
  | 2, .i8 | 7, .i8 => 0x80
  | _, _ => 0

/-- R162, R163: the entry that bits [9:0] of a word make; none when they form no legal row. -/
def alloyEntry (v : Nat) : Option Word :=
  match Ty.ofCode (v / 16 % 16) with
  | none => none
  | some t =>
    match alloyAcc (v % 16) t (decide (v / 256 % 2 = 1)) with
    | none => none
    | some i32 =>
      some (BitVec.ofNat 64 (v % 1024 + 2 ^ 10 + (if i32 then 2 ^ 11 else 0) + alloyIdent (v % 16) i32 * 2 ^ 16 +
        alloyPad (v % 16) t * 2 ^ 48))

/-- R156: element k of an operand row, as a number. -/
def opNum (t : Ty) (r : BitVec 512) (k : Nat) : Num := elemNum t r k

/-- R165: an integer operand with its extreme codes standing for the infinities of the accumulator. -/
def extInt (t : Ty) (c : Nat) : Int :=
  let i := intOf t c
  if i = tyHi t then 2 ^ 31 - 1 else if i = tyLo t then -(2 ^ 31) else i

/-- R166: a finite sum or term kept off the extreme codes. -/
def satInt (i : Int) : Int := max (-(2 ^ 31) + 1) (min i (2 ^ 31 - 2))

/-- The i32 value of an accumulator code. -/
def i32Of (c : Nat) : Int := intOf .i32 (c % 2 ^ 32)

/-- R51: an exact i32 sum wrapped, with WR when it left the range. -/
def wrap32 (v : Int) : Nat × Nat := (codeOf 32 v, wrapFlags v)

/-- R52: a float term rounded to the accumulator format and read back. -/
def termF32 (v : Num × Nat) : Num × Nat :=
  let r := f32Fmt.round .ne v.1
  (f32Fmt.decode r.1, r.2 ||| v.2)

/-- R166: NaN operands of MP, XP, MX and XM give the canonical NaN and NV, quiet or not. -/
def nanTerm (a b : Num) (k : Num × Nat) : Num × Nat := if a.isNan || b.isNan then (.nan false, fNV) else k

/-- R166, Table 7.6: the negative rule of XT. -/
def xtOperand (a : Num) : Num × Nat :=
  if !a.isNan && a.neg && !a.isZero then (.fin false 0 0, fNV) else (a, 0)

/-- R166, Table 7.6: one term of a float entry: none when it is skipped, and the flags that stand. In MP and XP the skip comes first,
whatever the other operand is (DESIGN CHOICE, log 78). -/
def floatTerm (cat : Nat) (a b : Num) : Option Num × Nat :=
  match cat with
  | 0 => if a.isZero || b.isZero then (none, 0) else let v := mulNum a b; (some v.1, v.2)
  | 1 =>
    if a = .inf false ∨ b = .inf false then (none, 0)
    else let v := termF32 (nanTerm a b (sumNum .ne [a, b])); (some v.1, v.2)
  | 2 =>
    if a = .inf true ∨ b = .inf true then (none, 0)
    else let v := termF32 (nanTerm a b (sumNum .ne [a, b])); (some v.1, v.2)
  | 3 =>
    let x := xtOperand a
    let y := xtOperand b
    if x.1.isZero || y.1.isZero then (none, x.2 ||| y.2)
    else let v := termF32 (mulNum x.1 y.1); (some v.1, v.2 ||| x.2 ||| y.2)
  | 6 => let v := nanTerm a b (maxNum a b); (some v.1, v.2)
  | 7 => let v := nanTerm a b (minNum a b); (some v.1, v.2)
  | _ =>
    let d := sumNum .ne [a, b.negate]
    let v := termF32 (d.1.abs, d.2)
    (some v.1, v.2)

/-- R166, Table 7.6: one term of an integer entry. -/
def intTerm (cat : Nat) (t : Ty) (a b : Nat) : Option Int :=
  let x := extInt t a
  let y := extInt t b
  match cat with
  | 1 =>
    if x = 2 ^ 31 - 1 ∨ y = 2 ^ 31 - 1 then none
    else if x = -(2 ^ 31) ∨ y = -(2 ^ 31) then some (-(2 ^ 31)) else some (satInt (x + y))
  | 2 =>
    if x = -(2 ^ 31) ∨ y = -(2 ^ 31) then none
    else if x = 2 ^ 31 - 1 ∨ y = 2 ^ 31 - 1 then some (2 ^ 31 - 1) else some (satInt (x + y))
  | 6 => some (max x y)
  | 7 => some (min x y)
  | 8 => some ((intOf t a - intOf t b).natAbs)
  | _ => some (intOf t a * intOf t b)

/-- The terms that are not skipped, and the flags of all. -/
def gatherTerms (l : List (Option Num × Nat)) : List Num × Nat :=
  (l.filterMap fun x => x.1, l.foldl (fun f x => f ||| x.2) 0)

/-- R49, R52: a list of numbers added to an f32 accumulator with one rounding. -/
def addF32 (c : Nat) (l : List Num) (flags : Nat) : Nat × Nat :=
  let v := sumNum .ne (f32Fmt.decode c :: l)
  let r := f32Fmt.round .ne v.1
  (r.1, r.2 ||| v.2 ||| flags)

/-- R52, R166: an extreme of an f32 accumulator and its terms. -/
def extremeF32 (f : Num → Num → Num × Nat) (c : Nat) (l : List Num) (flags : Nat) : Nat × Nat :=
  let v := l.foldl (fun acc y => let w := f acc.1 y; (w.1, acc.2 ||| w.2)) (f32Fmt.decode c, 0)
  ((f32Fmt.round .ne v.1).1, v.2 ||| flags)

/-- R36, R48: the exact dot product of a K-block over the products that are not skipped. -/
def blockDot (t : Ty) (a b : BitVec 512) : Num × Nat :=
  let g := gatherTerms ((List.range (tyCount t)).map fun k => floatTerm 0 (opNum t a k) (opNum t b k))
  let v := sumNum .ne g.1
  (v.1, v.2 ||| g.2)

/-- R48, R50: one scaled K-block added to the accumulator. -/
def scaledPass (t : Ty) (c : Nat) (a b : BitVec 512) (sA sB : Num) : Nat × Nat :=
  let p := blockDot t a b
  if p.1.isZero then (c, p.2)
  else
    let u := mulNum p.1 sA
    let v := mulNum u.1 sB
    addF32 c [v.1] (p.2 ||| u.2 ||| v.2)

/-- R166: the number of one bits of the AND of two rows. -/
def andBits (a b : BitVec 512) : Nat := (List.range 512).foldl (fun n i => n + if a.getLsbD i && b.getLsbD i then 1 else 0) 0

/-- R48 to R52, R166: one row pass on one accumulator element: the new code and the flags. -/
def rowPass (e : Word) (c : Nat) (a b : BitVec 512) (sA sB : Num) : Nat × Nat :=
  let t := eTy e
  let n := tyCount t
  let w := tyWidth t
  match eCat e with
  | 4 => (if c ≠ 0 ∨ andBits a b ≠ 0 then 1 else 0, 0)
  | 5 => ((c + andBits a b) % 2, 0)
  | cat =>
    if eScl e then scaledPass t c a b sA sB
    else if eAcc e then
      let ints := (List.range n).map fun k =>
        if t = .q4 then
          let p := decodeQ4 (elem 8 a (k / 2))
          let q := decodeQ4 (elem 8 b (k / 2))
          some (if k % 2 = 0 then p.1 * q.1 else p.2 * q.2)
        else intTerm cat t (elem w a k) (elem w b k)
      let l := ints.filterMap id
      match cat with
      | 1 | 6 => (codeOf 32 (l.foldl min (i32Of c)), 0)
      | 2 | 7 => (codeOf 32 (l.foldl max (i32Of c)), 0)
      | _ => wrap32 (l.foldl (fun x y => x + y) (i32Of c))
    else
      let g := gatherTerms ((List.range n).map fun k => floatTerm cat (opNum t a k) (opNum t b k))
      match cat with
      | 1 | 6 => extremeF32 minNum c g.1 g.2
      | 2 | 3 | 7 => extremeF32 maxNum c g.1 g.2
      | _ => addF32 c g.1 g.2

/-- R47: the bf16 scale at index `i` of 32 bytes. -/
def scaleNum (rec_ : BitVec 256) (i : Nat) : Num := bf16Fmt.decode (rec_.toNat / 2 ^ (16 * i) % 2 ^ 16)

/-- R174, Table 7.9: whether a kind drains to a type. -/
def drainAllowed (cat : Nat) (i32 : Bool) (t : Ty) : Bool :=
  let extreme := decide (cat = 1) || decide (cat = 2) || decide (cat = 6) || decide (cat = 7)
  match i32, t with
  | false, .f32 | false, .bf16 | false, .f16 => true
  | false, .fe8 => !extreme
  | true, .i32 | true, .i16 | true, .i8 => true
  | true, .n32 | true, .n16 | true, .n8 => !extreme
  | true, .bit => decide (cat = 4) || decide (cat = 5)
  | _, _ => false

/-- R174: one accumulator element drained: its code and flags. -/
def drainElem (cat : Nat) (i32 : Bool) (t : Ty) (c : Nat) : Nat × Nat :=
  if i32 then
    let v := i32Of c
    let extreme := decide (cat = 1) || decide (cat = 2) || decide (cat = 6) || decide (cat = 7)
    if t = .bit then (if v = 0 then 0 else 1, 0)
    else if extreme then
      (if v = 2 ^ 31 - 1 then (codeOf (tyWidth t) (tyHi t), 0)
       else if v = -(2 ^ 31) then (codeOf (tyWidth t) (tyLo t), 0)
       else
        let u := max (tyLo t + 1) (min v (tyHi t - 1))
        (codeOf (tyWidth t) u, flagIf (decide (u ≠ v)) fOF))
    else
      let u := max (tyLo t) (min v (tyHi t))
      (codeOf (tyWidth t) u, flagIf (decide (u ≠ v)) fOF)
  else toCode t .tz (f32Fmt.decode c)

/-- R155: an accumulator element. -/
def accElem (r : Row) (n : Nat) : Nat := elem 32 r.bits n

end Sys2Proof.Machine
end

