-- ==== Sys2Proof/Machine/Mem.lean ====
section
/-! DEFINITION. Addresses, translation, bytes and poison: where an access goes and what it may touch. -/

namespace Sys2Proof.Machine

/-- R106: the target types of Table 5.11. -/
inductive Target where
  | vault | scratch | host | peer | control
  deriving DecidableEq, Repr, Inhabited

/-- R106: the code of a target type. -/
def Target.code : Target → Nat
  | .vault => 1 | .scratch => 2 | .host => 3 | .peer => 4 | .control => 5

/-- R105: the region of a physical address and the tile number in it. -/
def paRegion (pa : Nat) : Nat := pa / 2 ^ 40
/-- R105: the tile number of a vault, scratchpad or tile-control address. -/
def paTile (pa : Nat) : Nat := pa / 2 ^ 28 % 2 ^ 12
/-- R105: PA[27:0]. -/
def paOff (pa : Nat) : Nat := pa % 2 ^ 28

/-- R105, Table 5.10: the target type of a physical address; none when it is absent. -/
def targetOf (pa : Nat) : Option Target :=
  if pa ≥ 2 ^ 48 then none
  else if paRegion pa = 0 then (if paTile pa < 2048 then some .vault else none)
  else if paRegion pa = 1 then (if paTile pa < 2048 ∧ paOff pa < 2 ^ 19 then some .scratch else none)
  else if paRegion pa = 2 then (if paTile pa < 2048 ∧ paOff pa < 2 ^ 12 then some .control else none)
  else if paRegion pa = 3 then (if pa % 2 ^ 40 < 2 ^ 21 then some .control else none)
  else if paRegion pa = 16 then some .host
  else if 32 ≤ paRegion pa ∧ paRegion pa ≤ 95 then
    (if pa / 2 ^ 39 % 2 = 0 ∨ paOff pa < 2 ^ 19 then some .peer else none)
  else none

/-- R105: the physical address of a vault offset of a tile. -/
def vaultPa (t off : Nat) : Nat := t * 2 ^ 28 + off
/-- R105: the physical address of a scratchpad offset of a tile. -/
def scratchPa (t off : Nat) : Nat := 2 ^ 40 + t * 2 ^ 28 + off
/-- R105, R342: the physical address of a host I/O address. -/
def hostPa (a : Nat) : Nat := 16 * 2 ^ 40 + a % 2 ^ 40

/-- R111: whether the 64-byte segment of an address is poisoned. -/
def segPoison (s : State) (pa : Nat) : Bool := s.poison.contains (pa / 64)

/-- A number put into a rising list without repeats. -/
def insertNat (n : Nat) : List Nat → List Nat
  | [] => [n]
  | k :: r => if n < k then n :: k :: r else if n = k then k :: r else k :: insertNat n r

/-- R111: a segment poisoned or cleared. -/
def setSegPoison (pa : Nat) (b : Bool) (s : State) : State :=
  { s with poison := if b then insertNat (pa / 64) s.poison else s.poison.filter fun n => decide (n ≠ pa / 64) }

/-- R2: `n` bytes of memory as a number. -/
def readMem (s : State) (pa n : Nat) : Nat := s.mem.readN pa n

/-- R2: the low `n` bytes of a value written to memory. -/
def writeMem (pa n v : Nat) (s : State) : State := { s with mem := Memory.writeN pa v n s.mem }

/-- R111: a store of `n` bytes within one segment: poisoned data poisons the segment, a full unpoisoned segment
clears it, a narrower unpoisoned store leaves it. -/
def storeMem (pa n v : Nat) (poison : Bool) (s : State) : State :=
  let s := writeMem pa n v s
  if poison then setSegPoison pa true s
  else if n = 64 ∧ pa % 64 = 0 then setSegPoison pa false s
  else s

/-- R111: a range without poison. -/
def clearPoison (a n : Nat) (s : State) : State :=
  { s with poison := s.poison.filter fun k => decide (k < a / 64) || decide ((a + n) / 64 ≤ k) }

/-- R111, R357: the poison of `n` bytes copied, segment by segment. -/
def copyPoison (src dst n : Nat) (s : State) : State :=
  (s.poison.filter fun k => decide (src / 64 ≤ k) && decide (k < (src + n) / 64)).foldl (fun s k =>
    setSegPoison (dst + 64 * (k - src / 64)) true s) s

/-- R111: 64 bytes of memory with the poison of their segment. -/
def readSeg (s : State) (pa : Nat) : Row := { bits := BitVec.ofNat 512 (readMem s pa 64), poison := segPoison s pa }

/-- R111: a row stored to its segment. -/
def storeSeg (pa : Nat) (r : Row) (s : State) : State := storeMem pa 64 r.bits.toNat r.poison s

/-- R340: the fields of a page-table entry. -/
def pteLeaf (e : Word) : Bool := wbit e 8
/-- R340: target type of an entry; 6 and 7 read as 0 (R106). -/
def pteTt (e : Word) : Nat := if wfld e 0 3 ≥ 6 then 0 else wfld e 0 3
/-- R340: the physical address field. -/
def ptePa (e : Word) : Nat := wfld e 16 32 * 2 ^ 16

/-- R340: whether a leaf of `2^bits` bytes obeys Table 18.9. -/
def pteLeafOk (e : Word) (bits : Nat) : Bool :=
  decide (wfld e 9 7 = 0) && decide (ptePa e % 2 ^ bits = 0) &&
  (!wbit e 7 || decide (pteTt e = 3)) && (wbit e 7 || decide (wfld e 48 16 = 0)) && decide (pteTt e ≠ 0) &&
  decide ((targetOf (ptePa e)).map Target.code = some (pteTt e))

/-- R340: whether a non-leaf entry obeys Table 18.9. -/
def pteNodeOk (e : Word) : Bool :=
  decide (wfld e 9 7 = 0) && decide (pteTt e = 1) && !wbit e 7 && decide (wfld e 48 16 = 0) &&
  (decide (paRegion (ptePa e) = 0) || decide (paRegion (ptePa e) = 16))

/-- R340: the table walk from the levels still to go, each given by the bit its index starts at. -/
def walkTable (s : State) (va : Nat) : List Nat → Nat → Option TlbEntry
  | [], _ => none
  | sh :: rest, table =>
    let e : Word := BitVec.ofNat 64 (readMem s (table + 8 * (va / 2 ^ sh % 512)) 8)
    if pteLeaf e then
      if sh ≠ 43 ∧ pteLeafOk e sh then some { base := va / 2 ^ sh * 2 ^ sh, size := 2 ^ sh, leaf := e } else none
    else if sh ≠ 16 ∧ pteNodeOk e then walkTable s va rest (ptePa e)
    else none

/-- R340: the translation that the page table of a partition gives now. -/
def walk (s : State) (part va : Nat) : Option TlbEntry :=
  (walkTable s va [43, 34, 25, 16] (wfld (Sparse.get 0 s.regs (0x40 + 8 * part)) 12 36 * 2 ^ 12)).map
    fun e => { e with part := part }

/-- R341: the entry of a TLB that maps an address. -/
def tlbFind (l : List TlbEntry) (part va : Nat) : Option TlbEntry :=
  l.find? fun e => decide (e.part = part) && decide (e.base ≤ va) && decide (va < e.base + e.size)

/-- R341: which TLB an access translates through first: a core's of the acting tile, the agent's of a tile, or, for
a copy engine, the tile's own; or none. -/
inductive Via where
  | core (k : Nat) | agent (u : Nat) | tile | none_
  deriving DecidableEq, Repr

/-- R341: the translation an access uses: a TLB entry, however stale, before the table. -/
def lookup (s : State) (via : Via) (t part va : Nat) : Option TlbEntry :=
  let x := tileOf s t
  let first := match via with
    | .core k => (Sparse.get {} x.cores k).tlb
    | .agent u => (tileOf s u).agentTlb
    | .tile => x.tlb
    | .none_ => []
  let second := match via with
    | .core _ => x.tlb
    | .agent _ => []
    | .tile => []
    | .none_ => []
  match tlbFind first part va with
  | some e => some e
  | none =>
    match tlbFind second part va with
    | some e => some e
    | none => walk s part va

/-- R341: a TLB with an entry added; when it is full the oldest entry leaves (log 15: any choice is allowed). -/
def tlbAdd (cap : Nat) (e : TlbEntry) (l : List TlbEntry) : List TlbEntry :=
  if l.contains e then l else (l ++ [e]).drop (l.length + 1 - cap)

/-- R17, R341: the TLBs filled by an access that used a translation. -/
def fillTlb (via : Via) (t : Nat) (e : TlbEntry) (s : State) : State :=
  match via with
  | .core k => modTile t (fun x =>
      { x with tlb := tlbAdd 1024 e x.tlb,
               cores := Sparse.modify {} k (fun c => { c with tlb := tlbAdd 128 e c.tlb }) x.cores }) s
  | .agent u => modTile u (fun x => { x with agentTlb := tlbAdd 64 e x.agentTlb }) s
  | .tile => modTile t (fun x => { x with tlb := tlbAdd 1024 e x.tlb }) s
  | .none_ => s

/-- Where an address resolves: its physical address and type, and what its leaf asks for. -/
structure Resolved where
  pa : Nat := 0
  tgt : Target := .vault
  wb : Bool := false
  ace : Option Nat := none
  entry : Option TlbEntry := none
  deriving DecidableEq, Repr, Inhabited

/-- A cause with the virtual address in EVAL. -/
def addrTrap (c : Cause) (va : Word) : Trap := { cause := c, eval := va }

/-- R107: a field of a launch record. -/
def recField (l : Launch) (off n : Nat) : Nat :=
  (l.record.drop off).take n |>.foldr (fun b a => b.toNat + 256 * a) 0

/-- R296: whether tile `u` lies in the sharing instance of a task of launch `l` on tile `t`: the widest scope of
its levels, cut to the partition. -/
def shares (s : State) (l : Launch) (t u : Nat) : Bool :=
  let n := recField l 2 1
  let widest := (List.range n).foldl (fun m i => max m (recField l (104 + 8 * i) 8 / 2 ^ 20 % 8)) 1
  decide (u < 2048) && decide (partOfTile s u = some l.part) &&
  (match widest with
   | 1 => decide (u = t)
   | 2 => decide (clusterOf u = clusterOf t)
   | 3 => decide (sectorOf u = sectorOf t)
   | _ => true)

/-- R108, R264, R294, R364: an address inside the spill window. -/
def resolveSpill (v : View) (va : Nat) : Option (Except Cause Resolved) :=
  let base := wfld v.spillb 24 28 * 2 ^ 24
  if base = 0 ∨ va < base ∨ base + 2 ^ 24 ≤ va then none
  else
    let o := va - base
    let sz := wfld v.spillb 0 20
    if o < sz then
      some (.ok { pa := scratchPa v.tile (v.stat + v.ctx * sz + o), tgt := .scratch })
    else if o < v.spilllim.toNat then
      let off := v.spillov.toNat + (o - sz)
      if off < Config.codeRegionS then some (.ok { pa := vaultPa v.tile off, tgt := .vault })
      else some (.error .spillLimit)
    else some (.error .spillLimit)

/-- R334: an address inside the launch's scratchpad window. -/
def resolveWindow (s : State) (v : View) (va : Nat) : Option (Except Cause Resolved) :=
  match launchOf s v.launch with
  | none => none
  | some l =>
    let spb := recField l 40 8
    if spb = 0 ∨ va < spb ∨ spb + 2 ^ 30 ≤ va then none
    else
      let t := (va - spb) / 2 ^ 19
      let o := (va - spb) % 2 ^ 19
      if shares s l v.tile t ∧ o < Config.scratchBytes then some (.ok { pa := scratchPa t o, tgt := .scratch })
      else some (.error .xlateAbsent)

/-- R103, R340, R364: an address translated through the page tables. -/
def resolvePage (s : State) (v : View) (via : Via) (va : Nat) (write : Bool) : Except Cause Resolved :=
  match lookup s via v.tile v.part va with
  | none => .error .xlateAbsent
  | some e =>
    let pa := ptePa e.leaf + (va - e.base)
    match targetOf pa with
    | none => .error .xlateAbsent
    | some tgt =>
      if (if write then wbit e.leaf 4 else wbit e.leaf 3) = false ∨ (wbit e.leaf 5 ∧ ¬(v.sup ∨ v.firm)) then
        .error .xlatePermission
      else if tgt = .vault ∧ paOff pa ≥ Config.firmwareReserve ∧ ¬v.firm then .error .xlatePermission
      else .ok { pa := pa, tgt := tgt, wb := wbit e.leaf 6,
                 ace := if wbit e.leaf 7 then some (wfld e.leaf 48 16) else none, entry := some e }

/-- R103: the resolution of a 64-bit effective address: bits above 51 zero, the spill window, the scratchpad
window, then the page tables. -/
def resolve (s : State) (v : View) (via : Via) (va : Nat) (write : Bool) : Except Cause Resolved :=
  if va ≥ 2 ^ 52 then .error .xlateAbsent
  else match resolveSpill v va with
    | some r => r
    | none =>
      match resolveWindow s v va with
      | some r => r
      | none => resolvePage s v via va write

/-- R103: how a context resolves addresses. -/
def viewOf (s : State) (t c : Nat) : View :=
  let x := ctxOf s t c
  { part := (tileOf s t).part, tile := t, launch := x.launch, firm := decide (prv x = 2), sup := decide (prv x = 1),
    spillb := x.spillb, spillov := x.spillov, spilllim := x.spilllim, ctx := c, stat := (tileOf s t).statBytes }

/-- How the acting context resolves addresses, with the registers as they stood before the group (R57). -/
def curView (s : State) : View :=
  let x := opCtx s
  { part := (curTile s).part, tile := s.focusTile, launch := x.launch, firm := decide (prv x = 2),
    sup := decide (prv x = 1), spillb := x.spillb, spillov := x.spillov, spilllim := x.spilllim, ctx := s.focusCtx,
    stat := (curTile s).statBytes }

/-- R104, Table 5.1: what a memory instruction accepts. -/
inductive AccessClass where
  | scalar (size : Nat) | row | tile | atom | block | host
  deriving DecidableEq, Repr

/-- R104, Table 5.1: the cause that a resolved target raises, none when it is accepted. -/
def targetTrap (k : AccessClass) (t : Nat) (r : Resolved) : Option Cause :=
  match k, r.tgt with
  | .scalar _, .scratch | .row, .scratch | .atom, .scratch => none
  | .tile, .scratch | .block, .scratch => if paTile r.pa = t then none else some .targetForbidden
  | .scalar _, .vault | .row, .vault | .atom, .vault | .tile, .vault =>
    if paTile r.pa = t then none else some .targetForbidden
  | .scalar _, .host | .row, .host | .host, .host => none
  | .scalar n, .control => if n = 8 then none else some .targetForbidden
  | .atom, .host | .atom, .control => some .atomicTarget
  | _, _ => some .targetForbidden

/-- R109 from step 2 on: alignment, translation, the SPC assertion, the accepted targets and the scratchpad bound,
for one unit of `size` bytes aligned to `algn`. -/
def checkAccess (s : State) (v : View) (via : Via) (va : Word) (size algn : Nat) (write : Bool) (spc : Spc)
    (k : AccessClass) : Except Trap Resolved :=
  if va.toNat % algn ≠ 0 then .error (addrTrap .align va)
  else match resolve s v via va.toNat write with
    | .error c => .error (addrTrap c va)
    | .ok r =>
      if (spc = .scratch ∧ r.tgt ≠ .scratch) ∨ (spc = .vault ∧ r.tgt ≠ .vault) ∨ (spc = .host ∧ r.tgt ≠ .host) then
        .error { cause := .targetForbidden, eval := BitVec.ofNat 64 r.tgt.code }
      else match targetTrap k v.tile r with
        | some c => .error (addrTrap c va)
        | none =>
          if r.tgt = .scratch ∧ paOff r.pa + size > Config.scratchBytes then .error (addrTrap .scratchRange va)
          else .ok r

/-- R104: where a resolved access is performed. -/
def homeOf (t : Nat) (r : Resolved) : Home :=
  match r.tgt with
  | .scratch => if paTile r.pa = t then .ownScratch else .remScratch
  | .vault => .ownVault
  | .host => .host
  | .control => if paRegion r.pa = 3 then .device else .control
  | .peer => .device

/-- R129: the bank and row of a vault offset, as bank + 24 * row. -/
def rowNumber (off : Nat) : Nat := off / 2048

/-- R129: the bank of a row number. -/
def bankOf (n : Nat) : Nat := n % 24

/-- R126, R129: the open row of a bank after an access with a policy. Streaming closes the row after the access that ends
with its last byte (log 60). -/
def touchBank (t off len : Nat) (pol : Pol) (s : State) : State :=
  let n := rowNumber off
  let shut := match pol with
    | .close => true
    | .stream => decide ((off + len) % 2048 = 0)
    | .dflt | .keep | .wcomb => false
  modTile t (fun x => { x with vault := { x.vault with
    openRow := Sparse.set (bankOf n) (if shut then none else some n) x.vault.openRow } }) s

/-- R131: whether a bank is unavailable for refresh. -/
def refreshing (s : State) (t bank : Nat) : Bool :=
  (Sparse.get none (tileOf s t).vault.refresh bank).isSome

/-- R134: whether a row is flagged for repair. -/
def flaggedRow (s : State) (t off : Nat) : Bool := (tileOf s t).vault.flagged.contains (rowNumber off)

/-- R131, R132, R134: whether a vault serves an access at an offset now. -/
def vaultServes (s : State) (t off : Nat) : Bool :=
  decide ((tileOf s t).vault.hold = .active) && !refreshing s t (bankOf (rowNumber off)) && !flaggedRow s t off

/-- R205, R319: whether a request that arrived at a time has waited more than 64 beats. -/
def longWaited (s : State) (arrive : Nat) : Bool := decide (arrive + 64 * Config.beat < s.time)

/-- R318: whether a request of an agent is held at a row that is still flagged. -/
def heldNow (x : Tile) : Bool :=
  x.agentq.any fun q => match q.heldRow with
    | some row => x.vault.flagged.contains row
    | none => false

/-- R205, R318, R319: whether a request at an agent that has waited more than 64 beats takes a bank before the owner: the one
at the head of its queue, or one that a repair held. -/
def agentFirst (s : State) (t off : Nat) : Bool :=
  let x := tileOf s t
  let b := bankOf (rowNumber off)
  decide (x.vault.hold = .active) && !heldNow x &&
  ((x.agentq.zipIdx.any fun q => (decide (q.2 = 0) || q.1.heldRow.isSome) && q.1.banks.contains b && q.1.stall.isNone &&
      longWaited s q.1.arrive) ||
   x.walks.any fun w => decide (w.bank = some b) && longWaited s w.req.arrive)

/-- R342: the page of a host address in the ATS cache. -/
def hostPage (pa : Nat) : Nat := pa % 2 ^ 40 / 4096

/-- R342: whether the translation cache lets an access reach a host address. -/
def hostAllows (s : State) (pa : Nat) (write : Bool) : Bool :=
  s.ats.contains (hostPage pa) && !(write && s.atsRO.contains (hostPage pa))

/-- R342: whether the host answers a read with an error status. -/
def hostErrs (s : State) (pa : Nat) (write : Bool) : Bool := !write && s.hostFails.contains (hostPage pa)

/-- R321, R342: a page request sent, unless one is on its way or 512 are outstanding. -/
def requestPage (n : Nat) (s : State) : State :=
  if s.priReqs.contains n ∨ s.priReqs.length ≥ 512 then s else { s with priReqs := s.priReqs ++ [n] }

/-- R342: the page that an access waits for once its request is sent. -/
def askedPage (n : Nat) (s : State) : Option Nat := if s.priReqs.contains n then some n else none

end Sys2Proof.Machine
end

