-- ==== Sys2Proof/Machine/Order.lean ====
section
/-! DEFINITION. The consistency model: parties and the scopes that cover them, what is hb-before an event, the writes in
home order, and the candidates of a read (R265 to R288; log 68). -/

namespace Sys2Proof.Machine

/-- Whether a write is in a set. -/
def Known.has (k : Known) (n : Nat) : Bool := decide (n < k.upTo) || k.also.contains n

/-- Two sets of writes joined. -/
def Known.join (a b : Known) : Known := { upTo := max a.upTo b.upTo, also := a.also ++ b.also.filter fun n => !a.has n }

/-- One write more. -/
def Known.add (n : Nat) (k : Known) : Known := k.join { also := [n] }

/-- Several sets of writes joined. -/
def Known.all (l : List Known) : Known := l.foldl Known.join {}

/-- Table 1.7: the scopes from the narrowest on. -/
def scopeLevel : Scope → Nat
  | .tile => 0 | .cluster => 1 | .sector => 2 | .dflt | .device => 3 | .system => 4

/-- R15, R274: the instance of a scope that contains a tile. -/
def scopeInst (l t : Nat) : Nat := 2048 * l + (match l with | 0 => t | 1 => clusterOf t | 2 => sectorOf t | _ => 0)

/-- R274: the scope instances that a party belongs to. -/
def Party.instances : Party → List Nat
  | .ctx t => (List.range 5).map fun l => scopeInst l t
  | .command c t => ((List.range 5).filter fun l => decide (scopeLevel c ≤ l)).map fun l => scopeInst l t
  | .host | .peer => [scopeInst 4 0]
  | .mailbox | .dispatcher => [scopeInst 3 0, scopeInst 4 0]

/-- R274: whether a release or an acquire of a party at a scope covers another: it belongs to the party's instance. -/
def covers (a : Party) (sc : Scope) (b : Party) : Bool :=
  a.instances.any fun i => decide (i / 2048 = scopeLevel sc) && b.instances.contains i

/-- R275: whether an acquire of a party at a scope takes what a release offers. -/
def syncs (p : Party) (sc : Scope) (m : Msg) : Bool := covers m.party m.scope p && covers p sc m.party

/-- R268: more writes become hb-before what a context does from now on. -/
def Sight.know (k : Known) (v : Sight) : Sight := { v with known := v.known.join k }

/-- R275: an acquire at a scope of what releases offer. -/
def Sight.accept (p : Party) (sc : Scope) (l : List Msg) (v : Sight) : Sight :=
  v.know (Known.all ((l.filter (syncs p sc)).map fun m => m.known))

/-- R276: what a read that is no acquire returned, for an acquire FENCE. -/
def Sight.remember (l : List Msg) (v : Sight) : Sight := { v with reads := v.reads ++ l.filter fun m => !v.reads.contains m }

/-- R273: an ordering that later accesses wait for. -/
def acquires : Ord → Bool
  | .acquire | .acqrel | .scseq => true
  | .dflt | .relaxed | .release => false

/-- R273: an ordering that waits for earlier accesses. -/
def releases : Ord → Bool
  | .release | .acqrel | .scseq => true
  | .dflt | .relaxed | .acquire => false

/-- Whether a write is one of a context, before its access with a number. -/
def byCtx (t c before : Nat) (e : WriteEv) : Bool :=
  match e.writer with
  | .ctx u d k => decide (u = t) && decide (d = c) && decide (k < before)
  | .other | .copy _ | .agent _ _ _ => false

/-- R268: what is hb-before access `id` of a context with a sight: what it acquired, and its own writes before it. -/
def Sight.before (s : State) (t c id : Nat) (v : Sight) : Known :=
  v.known.join { also := (s.hist.filter fun e => decide (v.born ≤ e.n) && byCtx t c id e).map fun e => e.n }

/-- R268: what is hb-before the next thing that a context does. -/
def knownNow (s : State) (t c : Nat) : Known := (ctxOf s t c).sight.before s t c s.nextId

/-- R275: what a release of a context at a scope offers. -/
def releaseMsg (s : State) (t c : Nat) (sc : Scope) : Msg := { party := .ctx t, scope := sc, known := knownNow s t c }

/-- R268, R275: what a release write offers once it stands at place `n` of home order: itself too. -/
def Msg.at (n : Nat) (m : Msg) : Msg := if m.own then { m with known := m.known.add n } else m

/-- R268, R271, R277: what has become hb-before a write since its group, a release among what it carries offers too. -/
def Sight.learn (k : Known) (v : Sight) : Sight :=
  { v with msgs := v.msgs.map fun m => if m.own then { m with known := m.known.join k } else m }

/-- R275, R276: the sight with which an access of a context leaves its group: what was hb-before it, and what its write carries. -/
def sightAt (s : State) (t c : Nat) (o : Ord) (sc : Scope) : Sight :=
  let v := (ctxOf s t c).sight
  if releases o then { v with msgs := v.msgs ++ [{ releaseMsg s t c sc with own := true }] } else v

/-- The sight of a context changed, in its checkpoint too where the cause is older than that (R389). -/
def modSight (t c id : Nat) (f : Sight → Sight) (s : State) : State := landBoth t c id (fun y => { y with sight := f y.sight }) s

/-- R269: a write of `n` bytes takes its place in home order; the bytes change after it. -/
def noteWrite (pa n : Nat) (s : State) : State :=
  { s with writes := s.writes + 1,
           hist := { n := s.writes, pa := pa, len := n, old := readMem s pa n, bad := segPoison s pa } :: s.hist }

/-- The writes from place `n` on described further. -/
def retag (n : Nat) (g : WriteEv → WriteEv) : List WriteEv → List WriteEv
  | [] => []
  | e :: l => if n ≤ e.n then g e :: retag n g l else e :: l

/-- R265: the writes that a change of the state makes are those of a party. -/
def tagged (g : WriteEv → WriteEv) (f : State → State) (s : State) : State :=
  let s' := f s
  { s' with hist := retag s.writes g s'.hist }

/-- Whether a write meets `n` bytes. -/
def WriteEv.meets (e : WriteEv) (pa n : Nat) : Bool := decide (e.pa < pa + n) && decide (pa < e.pa + e.len)

/-- R270: the latest writes to a unit that a read passes over: those from the place that the turn asks for on, down to the first
that is hb-before the read. -/
def passedOver (s : State) (mine : WriteEv → Bool) (pa n : Nat) : List WriteEv :=
  match s.asOf with
  | none => []
  | some cut => (s.hist.filter fun e => e.meets pa n).takeWhile fun e => decide (cut ≤ e.n) && !mine e

/-- One byte as it stood before the writes of a list, the latest first. -/
def byteBefore (s : State) (l : List WriteEv) (x : Nat) : Nat :=
  match l.reverse.find? fun e => e.meets x 1 with
  | some e => e.old / 2 ^ (8 * (x - e.pa)) % 256
  | none => (s.mem.read x).toNat

/-- R270: a read of a unit: the value of the candidate that it returns, and its poison. -/
def readAs (s : State) (mine : WriteEv → Bool) (pa n : Nat) : Nat × Bool :=
  match passedOver s mine pa n with
  | [] => (readMem s pa n, segPoison s pa)
  | e :: l =>
    ((List.range n).foldr (fun i v => byteBefore s (e :: l) (pa + i) + 256 * v) 0, ((e :: l).getLast?.map fun e => e.bad).getD false)

/-- R275: of several writes, the latest first, those that bytes still show. -/
def shown : List WriteEv → List Nat → List WriteEv
  | [], _ => []
  | e :: l, x =>
    if x.isEmpty then []
    else
      let rest := x.filter fun a => !e.meets a 1
      if rest.length = x.length then shown l x else e :: shown l rest

/-- R275: the writes that a read of a unit reads. -/
def readFrom (s : State) (mine : WriteEv → Bool) (pa n : Nat) : List WriteEv :=
  shown ((s.hist.filter fun e => e.meets pa n).drop (passedOver s mine pa n).length) ((List.range n).map fun i => pa + i)

/-- R277: the scope instances that contain a tile, up to a scope. -/
def scInsts (t : Nat) (sc : Scope) : List Nat := ((List.range 5).filter fun l => decide (l ≤ scopeLevel sc)).map fun l => scopeInst l t

/-- R277: what the scoped-sequential events before one of a party on a tile make hb-before it. -/
def scBefore (s : State) (t : Nat) (sc : Scope) : Known := Known.all ((scInsts t sc).map fun i => Sparse.get {} s.scOrder i)

/-- R277: a scoped-sequential event of a context takes its place in the order of each scope instance. -/
def scSync (t c id : Nat) (sc : Scope) (s : State) : State :=
  let s := modSight t c id (Sight.know (scBefore s t sc)) s
  let k := knownNow s t c
  { s with scOrder := (scInsts t sc).foldl (fun m i => Sparse.set i ((Sparse.get {} m i).join k) m) s.scOrder }

/-- R268, R270: the writes that a read of a context may not pass over. -/
def ctxKnows (t c id : Nat) (v : Sight) (e : WriteEv) : Bool := v.known.has e.n || (byCtx t c id e && decide (v.born ≤ e.n))

/-- R270, R273, R275 to R277: access `id` of a context reads a unit: what it returns, and what it acquires. -/
def ctxRead (t c id : Nat) (v : Sight) (o : Ord) (sc : Scope) (pa n : Nat) (s : State) : (Nat × Bool) × State :=
  let v := if o = .scseq then v.know (scBefore s t sc) else v
  let mine := ctxKnows t c id v
  let got := (readFrom s mine pa n).flatMap fun e => e.msgs
  let s' := if got.isEmpty then s
    else modSight t c id (if acquires o then Sight.accept (.ctx t) sc got else Sight.remember got) s
  (readAs s mine pa n, if o = .scseq then scSync t c id sc s' else s')

/-- R265, R275: a change of the state makes the write of access `id` of a context with a sight. -/
def ctxWrites (t c id : Nat) (v : Sight) (f : State → State) (s : State) : State :=
  tagged (fun e => { e with writer := .ctx t c id, msgs := v.msgs.map (Msg.at e.n) }) f s

/-- R275: what a read of `n` bytes by a party at a scope takes from the writes it reads, and the value that it returns. -/
def takes (s : State) (mine : WriteEv → Bool) (p : Party) (sc : Scope) (pa n : Nat) : Known :=
  Known.all ((((readFrom s mine pa n).flatMap fun e => e.msgs).filter (syncs p sc)).map fun m => m.known)

/-- R284, R286: the dispatcher publishes to a host word what a command makes hb-before it. -/
def publishes (k : Known) (f : State → State) (s : State) : State :=
  tagged (fun e => { e with msgs := [Msg.at e.n { party := .dispatcher, scope := .system, known := k, own := true }] }) f s

/-- R271: the latest atomic of a location. -/
def lastAtomic (s : State) (pa n : Nat) : Option WriteEv := s.hist.find? fun e => e.meets pa n && e.past.isSome

/-- R271: what the atomics of a location before the next one make hb-before it. -/
def atomicsBefore (s : State) (pa n : Nat) : Known :=
  match lastAtomic s pa n with
  | some e => (e.past.getD {}).add e.n
  | none => {}

/-- R271, R275: the change `f` performs an atomic of a location with `past` hb-before it; it carries on what the write it
reads offers (an unbroken run of atomics). -/
def atomicWrite (pa n : Nat) (past : Known) (f : State → State) (s : State) : State :=
  let got := (readFrom s (fun _ => true) pa n).flatMap fun e => e.msgs
  tagged (fun e => if e.meets pa n then { e with msgs := e.msgs ++ got, past := some past } else e) f s

/-- R271, R273, R275 to R277: what an atomic of a context acquires from what it reads. -/
def atomicReads (t c id : Nat) (o : Ord) (sc : Scope) (pa n : Nat) (s : State) : State :=
  let got := (readFrom s (fun _ => true) pa n).flatMap fun e => e.msgs
  let k := atomicsBefore s pa n
  let s := if k = {} then s else modSight t c id (Sight.know k) s
  if got.isEmpty then s else modSight t c id (if acquires o then Sight.accept (.ctx t) sc got else Sight.remember got) s

/-- R258, R276, R277: a FENCE of the acting context with its ordering and scope. -/
def fenceSync (o : Ord) (sc : Scope) (s : State) : State :=
  let t := s.focusTile
  let c := s.focusCtx
  let s := if acquires o then modCur (fun y => { y with sight := y.sight.accept (.ctx t) sc y.sight.reads }) s else s
  let s := if o = .scseq then scSync t c s.nextId sc s else s
  if releases o then
    let m := releaseMsg s t c sc
    modCur (fun y => { y with sight := { y.sight with msgs := (y.sight.msgs.filter fun k => decide (k.scope ≠ sc)) ++ [m] } }) s
  else s

/-- R279: what is hb-before the accesses of a command that the acting context issues now: the issue is a release at the
command's scope, whose instance contains the issuing tile, and the command's first event acquires it. -/
def commandKnows (s : State) : Known := knownNow s s.focusTile s.focusCtx

/-- R270, R279: the writes that a read of a copy may not pass over. -/
def copyKnows (v : View) (k : Nat) (e : WriteEv) : Bool := v.known.has e.n || decide (e.writer = .copy k)

/-- R270, R279, R281: the writes that a read made for a command at the agent of tile `u` may not pass over: among them those of
the commands that its tile gave that agent. -/
def agentKnows (v : View) (u : Nat) (e : WriteEv) : Bool :=
  v.known.has e.n ||
  (match e.writer with
   | .agent _ t w => decide (t = v.tile) && decide (w = u)
   | .other | .ctx _ _ _ | .copy _ => false)

/-- R280: the writes that a command has made. -/
def commandWrites (s : State) (k : Nat) : Known :=
  { also := (s.hist.filter fun e => match e.writer with
      | .copy n => decide (n = k)
      | .agent n _ _ => decide (n = k)
      | .other | .ctx _ _ _ => false).map fun e => e.n }

/-- R282: the write of a command that landed at an address. -/
def commandWriteAt (s : State) (k pa : Nat) : Option Nat :=
  (s.hist.find? fun e => e.meets pa 1 && (match e.writer with
    | .copy n => decide (n = k)
    | .agent n _ _ => decide (n = k)
    | .other | .ctx _ _ _ => false)).map fun e => e.n

/-- The writes to a range leave the history: what stands there now is what every read returns. -/
def forgetWrites (a n : Nat) (s : State) : State := { s with hist := s.hist.filter fun e => !e.meets a n }

/-- R284 to R286: a write of the host is one that it knows. -/
def hostKnows (s : State) : State := { s with pub := s.pub.add (s.writes - 1) }

/-- R274, R284: a store of the host to its own memory, a release at SYSTEM scope where the host orders it so. -/
def hostStored (a n v : Nat) (release : Bool) (s : State) : State :=
  let m : Msg := { party := .host, scope := .system, known := s.pub, own := true }
  let f (s : State) : State := writeMem (hostPa a) n v (noteWrite (hostPa a) n s)
  hostKnows (tagged (fun e => { e with msgs := if release then [m.at e.n] else [] }) f s)

/-- R284: the host reads 8 bytes of its own memory, and what it does later is ordered after that. -/
def hostLoaded (a : Nat) (s : State) : State :=
  { s with pub := s.pub.join (takes s (fun e => s.pub.has e.n) .host .system (hostPa a) 8) }

/-- R266: which of `n` units the turn moves first. -/
def pickOf (s : State) (n : Nat) : Nat := s.pick % n

/-- R266: the item of a list that the turn takes first, and the others in their order. -/
def pickOne (s : State) (l : List α) : Option (α × List α) :=
  let k := pickOf s l.length
  (l[k]?).map fun x => (x, l.eraseIdx k)

end Sys2Proof.Machine
end

