-- ==== Sys2Proof/Machine/Errors.lean ====
section
/-! DEFINITION. Errors in the arrays: correction, the one retry, poisoning, and the flagging of rows (R381 to R385). -/

namespace Sys2Proof.Machine

/-- R384: a field of a tile's reliability counters advanced, saturating. -/
def relAdd (t reg lo n : Nat) (s : State) : State :=
  modTile t (fun x => { x with relc := Sparse.modify 0 reg (fun w =>
    if wfld w lo n = 2 ^ n - 1 then w else putFld w lo n (wfld w lo n + 1)) x.relc }) s

/-- R384: `n` more in a counter field, saturating. -/
def relAddN (t reg lo n k : Nat) (s : State) : State :=
  modTile t (fun x => { x with relc := Sparse.modify 0 reg (fun w =>
    putFld w lo n (min (2 ^ n - 1) (wfld w lo n + k))) x.relc }) s

/-- R385: cycles in 24 hours. -/
def dayCycles : Nat := 86400 * 1000000 * Config.cyclesPerMicro

/-- R385: a row flagged for repair, unless its bank's 32 spares are spent, or promised to the rows flagged before it. -/
def flagRow (t row : Nat) (s : State) : State :=
  modTile t (fun x =>
    let b := bankOf row
    let promised := (x.vault.flagged.filter fun r => decide (bankOf r = b)).length
    if Sparse.get 0 x.vault.spares b + promised < 32 then
      { x with vault := { x.vault with flagged := insertNat row x.vault.flagged } }
    else x) s

/-- R385: a corrected error entered in the recent-row table, the oldest use last; the second of a row within a day
flags it. Its stamps count on over a device reset, which restarts TIME and keeps the table. -/
def noteCorrected (t row : Nat) (s : State) : State :=
  let l := (tileOf s t).vault.recent
  let again := l.any fun e => decide (e.1 = row) && decide (s.epoch + s.time < e.2 + dayCycles)
  let l' := ((row, s.epoch + s.time) :: l.filter fun e => decide (e.1 ≠ row)).take 16
  let s := modTile t (fun x => { x with vault := { x.vault with recent := l' } }) s
  if again then flagRow t row s else s

/-- R391: an uncorrected error in an undervolted sector first returns the sector to nominal. -/
def toNominal (t : Nat) (s : State) : State :=
  { s with volts := Sparse.modify {} (sectorOf t) (fun v => { v with off := 0 }) s.volts }

/-- R391: UVCFG of a sector. -/
def uvCfg (s : State) (n : Nat) : Word := Sparse.get 4 s.regs (0xA80 + 8 * n)

/-- One sector's controller. -/
def voltOf (s : State) (n : Nat) : Volt := Sparse.get {} s.volts n

/-- R391: a sector's voltage raised by two steps; it does not go below the new level for 1 s, and a new window begins. -/
def raiseVolt (now : Nat) (v : Volt) : Volt :=
  { v with off := v.off - 2, floor := v.off - 2, floorUntil := now + 1000000 * Config.cyclesPerMicro,
           raising := now + 10 * Config.cyclesPerMicro, start := now, counts := [] }

/-- R391, R392: `n` corrected errors of an array, numbered within its tile, in the window of the sector; outside a
verification window a count above GUARD raises the voltage. -/
def noteWindow (t a n : Nat) (s : State) : State :=
  let sec := sectorOf t
  let v := voltOf s sec
  let v := { v with counts := Sparse.modify 0 (16 * t + a) (fun k => k + n) v.counts }
  let over_ := decide (wfld (uvCfg s sec) 0 8 < Sparse.get 0 v.counts (16 * t + a))
  { s with volts := Sparse.set sec (if over_ && wbit (uvCfg s sec) 31 && !v.window then raiseVolt s.time v else v) s.volts }

/-- R381, R384, R391: `n` errors that the code of an SRAM array has corrected, or parity errors refilled, counted. -/
def countCorrected (t a n : Nat) (s : State) : State := noteWindow t a n (relAddN t 1 32 32 n s)

/-- The error that a vault segment holds. -/
def errAt (s : State) (pa : Nat) : Option ErrKind :=
  if paRegion pa = 0 then Sparse.get none (tileOf s (paTile pa)).vault.errs (paOff pa / 64) else none

/-- The error of a segment gone from its array. -/
def clearErr (pa : Nat) (s : State) : State :=
  modTile (paTile pa) (fun x => { x with vault := { x.vault with errs := Sparse.erase (paOff pa / 64) x.vault.errs } }) s

/-- R381, R383: what a read of a segment does about an error that the segment holds; the read follows it. -/
def checkSegment (pa : Nat) (s : State) : State :=
  let t := paTile pa
  let row := rowNumber (paOff pa)
  match errAt s pa with
  | none => s
  | some .corrected => noteCorrected t row (relAdd t 0 32 32 (clearErr pa s))
  | some .transient => relAdd t 0 16 16 (toNominal t (clearErr pa s))
  | some .lasting =>
    flagRow t row (relAdd t 3 32 32 (relAdd t 0 0 16 (setSegPoison pa true (toNominal t (clearErr pa s)))))

/-- R381, R383: what a read of `n` bytes does about the errors that their segments hold. -/
def checkRange (pa n : Nat) (s : State) : State :=
  let l := if paRegion pa = 0 then (tileOf s (paTile pa)).vault.errs.filter fun e =>
      decide (paOff pa / 64 ≤ e.1) && decide (64 * e.1 < paOff pa + n) else []
  l.foldl (fun s e => checkSegment (vaultPa (paTile pa) (64 * e.1)) s) s

/-- R382, R383: what a store of `n` bytes does about an error that the segment holds; the store follows it. A full segment
gets fresh check bits; a narrower store reads the segment first, with the retry and the verdict of a read, and merges into
what a lasting error has poisoned. -/
def checkStore (pa n : Nat) (s : State) : State :=
  match errAt s pa with
  | none => s
  | some _ => if n = 64 then clearErr pa s else checkSegment pa s

/-- R111, R383: 64 bytes read at their home. -/
def homeRead (pa : Nat) (s : State) : Row × State :=
  let s := checkSegment pa s
  (readSeg s (pa / 64 * 64), s)

/-- R111, R382: `n` bytes stored at their home. -/
def homeStore (pa n v : Nat) (poison : Bool) (s : State) : State := storeMem pa n v poison (noteWrite pa n (checkStore pa n s))

/-- R288, R382, R407: `n` bytes within one segment stored by the machine itself, which every later read returns;
it waits for no HOLD, refresh or repair (log 71). -/
def vaultStore (pa n v : Nat) (s : State) : State := forgetWrites pa n (storeMem pa n v false (checkStore pa n s))

/-- R111, R382: `n` bytes written from a segment's start on: whole segments get fresh check bits and lose their poison. -/
def placeFresh (src : Memory) (a n b : Nat) (s : State) : State :=
  let last := b + n / 64 * 64
  let s := if n % 64 = 0 then s else checkStore last (n % 64) s
  let s := if paRegion b = 0 then modTile (paTile b) (fun x => { x with vault := { x.vault with
      errs := x.vault.errs.filter fun e => decide (e.1 < paOff b / 64) || decide (paOff b / 64 + n / 64 ≤ e.1) } }) s else s
  clearPoison b (n / 64 * 64) (forgetWrites b n { s with mem := Memory.place src a n b s.mem })

/-- R387: the shadow of a primary tile. -/
def shadowOf (s : State) (t : Nat) : Option Nat :=
  let x := tileOf s t
  if x.isShadow then none else x.pairOf

/-- R387: the address in a shadow that answers to one in its primary. -/
def shadowPa (pa u : Nat) : Nat := pa - paTile pa * 2 ^ 28 + u * 2 ^ 28

/-- R387: whether an address is in the memory of a tile. -/
def inTile (t pa : Nat) : Bool := decide (paRegion pa ≤ 1) && decide (paTile pa = t)

/-- R388: one bit of the CRC with the ECMA-182 polynomial. -/
def crcBit (c : Word) : Word := if c.getLsbD 63 then (c <<< 1) ^^^ 0x42F0E1EBA9EA3693 else c <<< 1

/-- R388: `n` 64-bit words of a value folded into a fingerprint. -/
def crcFold (c : Word) (v : Nat) : Nat → Word
  | 0 => c
  | n + 1 => crcFold ((List.range 64).foldl (fun c _ => crcBit c) (c ^^^ BitVec.ofNat 64 v)) (v / 2 ^ 64) n

/-- R388: `n` words folded into the fingerprints of the primary, `v`, and of the shadow, `w`. -/
def notePrint (t c n v w : Nat) (s : State) : State :=
  modPair t c (fun k => { k with crc := (crcFold k.crc.1 v n, crcFold k.crc.2 w n) }) s

/-- R387, R388: what `n` bytes read by a paired context give: the primary reads its own copy and the shadow its own, and what
does not lie in the tile is forwarded. -/
def noteRead (t c pa n : Nat) (s : State) : State :=
  let val (s : State) (a : Nat) : Nat := readMem s a n + (if segPoison s a then 2 ^ (8 * n) else 0)
  match Sparse.get none (tileOf s t).pairs c, shadowOf s t with
  | some _, some u =>
    if inTile t pa then
      let s := checkSegment (shadowPa pa u) s
      notePrint t c (n / 8 + 1) (val s pa) (val s (shadowPa pa u)) s
    else notePrint t c (n / 8 + 1) (val s pa) (val s pa) s
  | _, _ => s

/-- R388: a local write of a paired context enters the undo log of its interval, which counts that of the tile itself. -/
def noteUndo (t c pa n : Nat) (s : State) : State :=
  let old := (List.range n).map fun i => (pa + i, s.mem.read (pa + i), segPoison s (pa + i))
  modPair t c (fun k => { k with undo := old ++ k.undo, writes := if inTile t pa then k.writes + 1 else k.writes }) s

/-- R388: a store of a context to its own scratchpad or vault, and of its shadow to its own; its address and datum enter the
fingerprints. -/
def ctxStore (t c pa n v : Nat) (poison : Bool) (s : State) : State :=
  let w := paOff pa + 2 ^ 64 * (v + if poison then 2 ^ (8 * n) else 0)
  let s := homeStore pa n v poison (noteUndo t c pa n (notePrint t c (n / 8 + 2) w w s))
  match shadowOf s t with
  | some u => homeStore (shadowPa pa u) n v poison (noteUndo t c (shadowPa pa u) n s)
  | none => s

/-- R388: an off-tile effect of a paired context is held while its interval runs. -/
def heldByPair (s : State) (t c id : Nat) : Bool :=
  match Sparse.get none (tileOf s t).pairs c with
  | none => false
  | some k => decide (k.firstId ≤ id)

/-- R388: whether a context holds the future of a command. -/
def holdsCommand (s : State) (t c cmd : Nat) : Bool :=
  (ctxOf s t c).futs.any fun f => decide (f.2.st = .pending) && decide (f.2.cmd = cmd)

/-- R389, R390: whether a context has a failed interval that has not begun again. -/
def notBegun (x : Tile) (c : Nat) : Bool :=
  match Sparse.get none x.pairs c with
  | none => false
  | some k => k.failed && decide ((ctxIn x c).retired = k.ctx.retired) && decide (k.crc = (0, 0)) && (ctxIn x c).endPend.isNone

/-- R388: the effects of a context that its pair holds. -/
def heldEffects (s : State) (t c first : Nat) : Nat :=
  let mine (v : View) (id : Nat) : Bool := decide (v.tile = t) && decide (v.ctx = c) && decide (first ≤ id)
  let x := tileOf s t
  let y := ctxIn x c
  (y.accs.filter fun a => decide (first ≤ a.id) && decide (a.home ≠ .ownScratch) && decide (a.home ≠ .ownVault) &&
    (decide (a.kind = .store) || decide (a.kind = .rowStore) || decide (a.kind = .atomic))).length +
  (x.copies.filter fun k => mine k.view k.id).length + (s.agentReqs.filter fun r => mine r.2.view r.2.id).length +
  (s.barArr.filter fun b => decide (b.tile = t) && decide (b.ctx = c) && decide (first ≤ b.id)).length +
  (match y.wl with | some r => if first ≤ r.id then 1 else 0 | none => 0)

/-- R388: whether an interval has reached one of its bounds: groups, held effects, undo log. -/
def intervalFull (s : State) (t c : Nat) : Bool :=
  match Sparse.get none (tileOf s t).pairs c with
  | none => false
  | some k => decide (1024 ≤ (ctxOf s t c).retired - k.ctx.retired) || decide (64 ≤ heldEffects s t c k.firstId) ||
      decide (512 ≤ k.writes)

/-- R387: the address in the shadow's memory where what another party writes into that of a primary tile is written as well. -/
def mirrorOf (s : State) (pa : Nat) : Option Nat :=
  if paRegion pa ≤ 1 then (shadowOf s (paTile pa)).map (shadowPa pa) else none

/-- R382, R387: what another party stores in the memory of a primary tile is stored in its shadow as well. -/
def mirrorWrite (pa n v : Nat) (poison : Bool) (s : State) : State :=
  match mirrorOf s pa with
  | some q => homeStore q n v poison s
  | none => s

end Sys2Proof.Machine
end

