-- ==== Sys2Proof/Machine/Monitor.lean ====
section
/-! DEFINITION. What every step may leave behind for an observer: monitor records, event counts, journal entries,
notifications. -/

namespace Sys2Proof.Machine

/-- R405: one 32-byte record put at MPTR, or dropped and counted when it would reach MLIM. -/
def monitorPut (t : Nat) (w0 w1 w2 w3 : Nat) (s : State) : State :=
  let x := tileOf s t
  let ptr := wfld (Sparse.get 0 x.mon 0x10) 5 23 * 32
  let lim := wfld (Sparse.get 0 x.mon 0x08) 6 22 * 64
  if ptr + 32 > lim then
    modTile t (fun x => { x with mon := Sparse.modify 0 0x18 (fun w =>
      if w.toNat ≥ 2 ^ 32 - 1 then w else w + 1) x.mon }) s
  else
    let s := vaultStore (vaultPa t ptr) 32 (w0 + w1 * 2 ^ 64 + w2 * 2 ^ 128 + w3 * 2 ^ 192) s
    modTile t (fun x => { x with mon := Sparse.set 0x10 (BitVec.ofNat 64 (ptr + 32)) x.mon }) s

/-- R406: the group that a context stands at. -/
def siteOf (y : Ctx) : Site :=
  { pc := y.pc, bits := (if y.n0 then 1 else 0) + (if y.n1 then 2 else 0) + (if y.dg0 then 4 else 0) + (if y.dg1 then 8 else 0),
    lvl := prv y }

/-- R405, R406: a record of a kind about a group, when the monitor is enabled and, but for a SAMPLE, TRCFG traces the kind
and the context. -/
def monitorAt (t c kind code : Nat) (g : Site) (addr2 : Nat) (seq : W32) (s : State) : State :=
  let x := tileOf s t
  let trc := Sparse.get 0 x.mon 0x20
  if wbit (Sparse.get 0 x.mon 0) 63 ∧ (kind = 9 ∨ (wbit trc kind ∧ wbit trc (16 + c))) then
    monitorPut t (kind + c * 2 ^ 4 + code % 256 * 2 ^ 8 + s.time % 2 ^ 48 * 2 ^ 16) (g.pc % 2 ^ 64) (addr2 % 2 ^ 64)
      (seq.toNat + (g.bits + g.lvl * 2 ^ 4) * 2 ^ 32) s
  else s

/-- R405, R406: a record with the bits and the privilege of the group that the context stands at. -/
def monitor (t c kind code pc addr2 : Nat) (seq : W32) (s : State) : State :=
  monitorAt t c kind code { siteOf (ctxOf s t c) with pc := pc } addr2 seq s

/-- R404: one counter of a core advanced by `n`; on a wrap OVF is set and, with SMP, issue freezes for a cycle and a
SAMPLE record is written: at once, or with the end of the group that is being carried out, whose number it names (R393). -/
def pmcAdd (t k i c n : Nat) (g : Site) (seq : W32) (s : State) : State :=
  let v := (Sparse.get 0 (coreOf s t k).pmc i).toNat
  let s := modCore t k (fun x => { x with pmc := Sparse.set i (BitVec.ofNat 64 ((v + n) % 2 ^ 48)) x.pmc }) s
  if v + n < 2 ^ 48 then s
  else
    let s := modCore t k (fun x => { x with pmsel := Sparse.modify 0 i (fun w => w ||| 0x20000) x.pmsel }) s
    if wbit (Sparse.get 0 (coreOf s t k).pmsel i) 16 then
      let s := modCore t k (fun x => { x with freeze := true }) s
      if s.grp.half = .lone then monitorAt t c 9 (4 * k + i) g ((v + n) % 2 ^ 48) seq s
      else { s with grp := { s.grp with samples := s.grp.samples ++ [(4 * k + i, g, (v + n) % 2 ^ 48)] } }
    else s

/-- R393, R404: the SAMPLE records that a group has caused, with the number that it took or its context's last one. -/
def flushSamples (t c : Nat) (s : State) : State :=
  let l := s.grp.samples
  l.foldl (fun s r => monitorAt t c 9 r.1 r.2.1 r.2.2 (ctxOf s t c).seqLast s) { s with grp := { s.grp with samples := [] } }

/-- R403: `n` events of a code for a context at a privilege, counted by every counter of its core that selects them; `g` and
`seq` name the group that raised them. -/
def countAt (t c ev n lvl : Nat) (g : Site) (seq : W32) (s : State) : State :=
  let k := coreIx c
  (List.range 4).foldl (fun s i =>
    let sel := Sparse.get 0 (coreOf s t k).pmsel i
    if wfld sel 0 8 = ev ∧ wbit sel (8 + c % 4) ∧ wbit sel (12 + lvl) then pmcAdd t k i c n g seq s else s) s

/-- R403: `n` events of a code raised by the group that a context stands at. -/
def countEvent (t c ev n : Nat) (s : State) : State :=
  let y := ctxOf s t c
  countAt t c ev n (prv y) (siteOf y) y.seqLast s

/-- R403: `n` events of a core as a whole, counted when any CTX bit is set; `c`, `g` and `seq` name a group. -/
def countCoreAt (t k ev n c : Nat) (g : Site) (seq : W32) (s : State) : State :=
  (List.range 4).foldl (fun s i =>
    let sel := Sparse.get 0 (coreOf s t k).pmsel i
    if wfld sel 0 8 = ev ∧ wfld sel 8 4 ≠ 0 then pmcAdd t k i c n g seq s else s) s

/-- R404: the context whose next group a sample names that no group raised: the current one in ring mode, the last to issue in
interleave mode. -/
def sampled (s : State) (t k : Nat) : Nat :=
  let x := coreOf s t k
  4 * k + (if x.mode then x.lastIssue else x.cur.getD x.lastCur)

/-- R403, R404: events of a core as a whole that no group raised. -/
def countCore (t k ev n : Nat) (s : State) : State :=
  let y := ctxOf s t (sampled s t k)
  countCoreAt t k ev n (sampled s t k) (siteOf y) y.seqLast s

/-- R372: the address of the journal entry with a sequence number. -/
def journalPa (n : Nat) : Nat := vaultPa 0 (Config.firmwareReserve + 64 * (1 + (n - 1) % 32767))

/-- R372, R377: the next journal sequence number taken. -/
def journalAlloc (s : State) : Nat × State :=
  (s.jnext, vaultStore (vaultPa 0 Config.firmwareReserve) 8 (s.jnext + 1) { s with jnext := s.jnext + 1 })

/-- R372: the words of an accepted entry: bytes 8-63 with TEND and FINAL zero, then SEQ. -/
def journalBegin (master queue kind part qidx arg0 arg1 arg2 : Nat) (s : State) : Nat × State :=
  let (n, s) := journalAlloc s
  let pa := journalPa n
  let s := vaultStore (pa + 8) 8 (master + queue * 2 ^ 8 + kind * 2 ^ 16 + part * 2 ^ 24 + qidx % 2 ^ 32 * 2 ^ 32) s
  let s := vaultStore (pa + 16) 8 s.time s
  let s := vaultStore (pa + 24) 8 0 s
  let s := vaultStore (pa + 32) 24 (arg0 + arg1 * 2 ^ 64 + arg2 * 2 ^ 128) s
  let s := vaultStore (pa + 56) 8 0 s
  (n, vaultStore pa 8 n s)

/-- R372: on completion TEND, then FINAL. -/
def journalEnd (n : Nat) (final : Nat) (s : State) : State :=
  vaultStore (journalPa n + 56) 8 final (vaultStore (journalPa n + 24) 8 s.time s)

/-- R326, R330: a completion word. -/
def completionWord (status cause value : Nat) : Nat := status + cause * 2 ^ 8 + value % 2 ^ 32 * 2 ^ 32

/-- R344: whether the notification ring has room, and the link is up. -/
def notifyRoom (s : State) : Bool :=
  let head := wfld (Sparse.get 0 s.regs 0x128) 0 32
  let tail := wfld (Sparse.get 0 s.regs 0x130) 0 32
  s.mgmt.link && decide ((tail + 2 ^ 32 - head) % 2 ^ 32 < 2 ^ (wfld (Sparse.get 0 s.regs 0x120) 0 4 + 6))

/-- R344: a notification entry for the page at `va` posted, or OVF set when the ring is full; nothing is posted while the
link is down. -/
def notify (cidx va tile part : Nat) (multi : Bool) (s : State) : State :=
  let size := 2 ^ (wfld (Sparse.get 0 s.regs 0x120) 0 4 + 6)
  let tail := wfld (Sparse.get 0 s.regs 0x130) 0 32
  if !s.mgmt.link then s
  else if !notifyRoom s then
    { s with regs := Sparse.modify 0 0x120 (fun w => w ||| 0x80000000) s.regs }
  else
    let pa := hostPa (wfld (Sparse.get 0 s.regs 0x118) 5 47 * 32 + 32 * (tail % size))
    let thr := wfld (Sparse.get 256 s.regs 0x108) 0 16
    let s := writeMem pa 32 (cidx + thr * 2 ^ 16 + part * 2 ^ 32 + (if multi then 2 ^ 40 else 0) + tile * 2 ^ 48 +
      va * 2 ^ 64 + s.time % 2 ^ 64 * 2 ^ 128) s
    raiseMsix 16 { s with regs := Sparse.set 0x130 (BitVec.ofNat 64 ((tail + 1) % 2 ^ 32)) s.regs }

/-- R343, R344: one access through a counted leaf. -/
def countAccess (cidx va tile part : Nat) (s : State) : State :=
  let k := Sparse.get {} s.counters cidx
  let multi := k.multi || (match k.last with | none => false | some u => decide (u ≠ tile))
  let n := if k.n ≥ 65535 then 65535 else k.n + 1
  let hit := decide (n = wfld (Sparse.get 256 s.regs 0x108) 0 16) && decide (k.n ≠ n) && !k.posted
  let k' : Counter := { n := n, last := some tile, multi := multi, posted := k.posted || (hit && notifyRoom s) }
  let s := { s with counters := Sparse.set cidx k' s.counters }
  if hit then notify cidx va tile part multi s else s

/-- R343, R344: an access of a resolved address is sent; a counted leaf counts it, for the page that it maps. -/
def sendAccess (r : Resolved) (va tile part : Nat) (s : State) : State :=
  match r.ace with
  | some cidx => countAccess cidx ((r.entry.map fun e => e.base).getD va) tile part s
  | none => s

/-- R410: a replay register of a partition. -/
def rplCfg (s : State) (p : Nat) : Word := Sparse.get 0 s.regs (0xD40 + 8 * p)

/-- R410: the address of entry `n` of a tile's log. -/
def logPa (s : State) (t n : Nat) : Nat :=
  vaultPa t (wfld (rplCfg s (tileOf s t).part) 16 12 * 2 ^ 16 + 64 + 16 * n)

/-- R410, R411: one log entry appended while the tile's launch records; a full log sets OVF. -/
def logPut (t kind c code count value : Nat) (s : State) : State :=
  match launchOf s (tileOf s t).launch with
  | some l =>
    if l.recording = some false ∧ ¬(tileOf s t).logFull then
      let n := (tileOf s t).logCount
      if 64 + 16 * (n + 1) > wfld (rplCfg s l.part) 32 16 * 2 ^ 16 then
        modTile t (fun x => { x with logFull := true })
          { s with regs := Sparse.modify 0 (0xD80 + 8 * l.part) (fun w => w ||| 1) s.regs }
      else
        let s := vaultStore (logPa s t n) 16
          (kind + c * 2 ^ 4 + code * 2 ^ 8 + count % 2 ^ 48 * 2 ^ 16 + value % 2 ^ 64 * 2 ^ 64) s
        let s := vaultStore (logPa s t 0 - 64) 8 (n + 1) s
        modTile t (fun x => { x with logCount := n + 1 }) s
    else s
  | none => s

/-- R410: a tile is replaying a recorded launch. -/
def replaying (s : State) (t : Nat) : Bool :=
  match launchOf s (tileOf s t).launch with
  | some l => decide (l.recording = some true)
  | none => false

/-- R412: from log position `n` on, with `fuel` entries to look at, the next entry of a context that is not the
agent's or a bank's: its position, its word and its value. -/
def logNext (s : State) (t c : Nat) : Nat → Nat → Option (Nat × Nat × Nat)
  | 0, _ => none
  | fuel + 1, n =>
    let w := readMem s (logPa s t n) 8
    if w / 2 ^ 4 % 8 = c ∧ w % 16 ≥ 3 then some (n, w, readMem s (logPa s t n + 8) 8)
    else logNext s t c fuel (n + 1)

/-- R412: the entry that a replaying context comes to next. -/
def logPeek (s : State) (t c : Nat) : Option (Nat × Nat × Nat) :=
  let total := readMem s (logPa s t 0 - 64) 8
  let pos := (ctxOf s t c).rplPos
  logNext s t c (total - pos) pos

end Sys2Proof.Machine
end

