-- ==== Sys2Proof/Machine/Image.lean ====
section
/-! DEFINITION. Control registers by number, and the images of slots, contexts and tiles (Tables 7.10, 19.4, 19.5). -/

namespace Sys2Proof.Machine

/-- R348, Table 19.2: the code of a cause. -/
def Cause.code (c : Cause) : Nat := c.ctorIdx

/-- Table 10.7: TILEXY of a tile; a shadow tile reads its primary's coordinate (R387). -/
def tilexy (s : State) (t : Nat) : Word :=
  let t := if (tileOf s t).isShadow then t - 1 else t
  BitVec.ofNat 64 (sectorOf t * 2 ^ 40 + clusterOf t * 2 ^ 32 + t * 2 ^ 16 + t / 32 * 2 ^ 8 + t % 32)

/-- R261, R263, Table 10.2: a control register of a context of tile `t`, read from the given records. -/
def cregIn (s : State) (t c : Nat) (x : Ctx) (core : CoreSt) : CReg → Word
  | .status => x.status
  | .epc => x.epc
  | .enpc => x.enpc
  | .ennpc => x.ennpc
  | .eannul => x.eannul
  | .ecause => x.ecause
  | .eval => x.eval
  | .eseq => x.eseq
  | .eloop => x.eloop
  | .handler => x.handler
  | .mdef => x.mdef
  | .fpmode => x.fpmode
  | .fpflags => x.fpflags
  | .mxflags => x.mxflags
  | .fmta => x.fmta
  | .fmtb => x.fmtb
  | .scla => x.scla
  | .sclb => x.sclb
  | .tilexy => tilexy s t
  | .ctxid => x.ctxid ||| BitVec.ofNat 64 c
  | .lvl0 => Sparse.get 0 x.lvl 0
  | .lvl1 => Sparse.get 0 x.lvl 1
  | .lvl2 => Sparse.get 0 x.lvl 2
  | .lvl3 => Sparse.get 0 x.lvl 3
  | .lvl4 => Sparse.get 0 x.lvl 4
  | .lvl5 => Sparse.get 0 x.lvl 5
  | .lvl6 => Sparse.get 0 x.lvl 6
  | .lvl7 => Sparse.get 0 x.lvl 7
  | .lvln => x.lvln
  | .spillb => x.spillb
  | .spillov => x.spillov
  | .spilllim => x.spilllim
  | .sched => if core.mode then 1 else 0
  | .time => timeWord s
  | .seqno => BitVec.ofNat 64 core.seqno.toNat

/-- Table 10.2: a control register's value put into a context, as a debugger's or an image's write does. The
registers of the core, the device and the identity are not the context's. -/
def cregPut (r : CReg) (v : Word) (x : Ctx) : Ctx :=
  match r with
  | .status => { x with status := v }
  | .epc => { x with epc := v }
  | .enpc => { x with enpc := v }
  | .ennpc => { x with ennpc := v }
  | .eannul => { x with eannul := v }
  | .ecause => { x with ecause := v }
  | .eval => { x with eval := v }
  | .eseq => { x with eseq := v }
  | .eloop => { x with eloop := v }
  | .handler => { x with handler := v }
  | .mdef => { x with mdef := v }
  | .fpmode => { x with fpmode := v }
  | .fpflags => { x with fpflags := v }
  | .mxflags => { x with mxflags := v }
  | .fmta => { x with fmta := v }
  | .fmtb => { x with fmtb := v }
  | .scla => { x with scla := v }
  | .sclb => { x with sclb := v }
  | .ctxid => { x with ctxid := v &&& 0xFFFFFFFFFFFFFFF8 }
  | .lvl0 => { x with lvl := Sparse.set 0 v x.lvl }
  | .lvl1 => { x with lvl := Sparse.set 1 v x.lvl }
  | .lvl2 => { x with lvl := Sparse.set 2 v x.lvl }
  | .lvl3 => { x with lvl := Sparse.set 3 v x.lvl }
  | .lvl4 => { x with lvl := Sparse.set 4 v x.lvl }
  | .lvl5 => { x with lvl := Sparse.set 5 v x.lvl }
  | .lvl6 => { x with lvl := Sparse.set 6 v x.lvl }
  | .lvl7 => { x with lvl := Sparse.set 7 v x.lvl }
  | .lvln => { x with lvln := v }
  | .spillb => { x with spillb := v }
  | .spillov => { x with spillov := v }
  | .spilllim => { x with spilllim := v }
  | .tilexy | .sched | .time | .seqno => x

/-- Parts of an image: offset, bytes, value. -/
abbrev Parts := List (Nat × Nat × Nat)

/-- An image from its parts; what no part covers is zero. -/
def build : Parts → Memory
  | [] => []
  | (a, n, v) :: r => Memory.writeN a v n (build r)

/-- Poison bits of 16 rows, bit k for row k. -/
def poisonBits (rows : Sparse Row) : Nat :=
  (List.range 16).foldl (fun m k => m + if (Sparse.get {} rows k).poison then 2 ^ k else 0) 0

/-- 16 rows at an offset of an image. -/
def rowParts (off : Nat) (rows : Sparse Row) : Parts :=
  rows.map fun kr => (off + 64 * kr.1, 64, kr.2.bits.toNat)

/-- Rows read back from an image with their poison bits. -/
def rowsFrom (m : Memory) (off bits : Nat) : Sparse Row :=
  (List.range 16).map fun k =>
    (k, { bits := BitVec.ofNat 512 (m.readN (off + 64 * k) 64), poison := decide (bits / 2 ^ k % 2 = 1) })

/-- The value 1 or 0 of a Boolean. -/
def b2n (b : Bool) : Nat := if b then 1 else 0

/-- R168: the stamp shown for an absent record is NONE. -/
def recStamp (r : Option ScaleRec) : Nat := match r with | some x => x.stamp.toNat | none => 0xFFFFFFFF
/-- R168: the 16 values of a record, zero for an absent one. -/
def recBits (r : Option ScaleRec) : Nat := match r with | some x => x.bits.toNat | none => 0
/-- R168: whether a record is poisoned. -/
def recPoison (r : Option ScaleRec) : Bool := match r with | some x => x.poison | none => false

/-- R175, Table 7.10: the parts of a slot image. -/
def slotParts (x : MSlot) : Parts :=
  let kind := match x.kind with
    | some (cat, acc) => cat + b2n acc * 2 ^ 4 + 2 ^ 5
    | none => 0
  [(0, 1, 3), (1, 1, kind),
   (2, 2, b2n x.active.srec.isSome + b2n x.shadow.srec.isSome * 2 + b2n (recPoison x.active.srec) * 4 +
     b2n (recPoison x.shadow.srec) * 8),
   (4, 2, poisonBits x.active.rows), (6, 2, poisonBits x.shadow.rows), (8, 2, poisonBits x.acc),
   (16, 4, x.active.stamp.toNat), (20, 4, x.shadow.stamp.toNat), (24, 4, recStamp x.active.srec),
   (28, 4, recStamp x.shadow.srec), (32, 32, recBits x.active.srec), (64, 32, recBits x.shadow.srec)] ++
  rowParts 128 x.active.rows ++ rowParts 1152 x.shadow.rows ++ rowParts 2176 x.acc

/-- R175: a slot image as 3,200 bytes. -/
def slotImage (x : MSlot) : Memory := build (slotParts x)

/-- A record read back from an image. -/
def recFrom (m : Memory) (present poisoned : Bool) (stampOff off : Nat) : Option ScaleRec :=
  if present then some { bits := BitVec.ofNat 256 (m.readN off 32), stamp := BitVec.ofNat 32 (m.readN stampOff 4),
                         poison := poisoned } else none

/-- R175: the slot that an image at `b` describes; the owner is not the image's. -/
def slotFrom (m : Memory) (b : Nat) (owner : Option Nat) : MSlot :=
  let k := m.readN (b + 1) 1
  let f := m.readN (b + 2) 2
  { owner := owner,
    kind := if k / 2 ^ 5 % 2 = 1 then some (k % 16, decide (k / 2 ^ 4 % 2 = 1)) else none,
    active := { rows := rowsFrom m (b + 128) (m.readN (b + 4) 2), stamp := BitVec.ofNat 32 (m.readN (b + 16) 4),
                srec := recFrom m (decide (f % 2 = 1)) (decide (f / 4 % 2 = 1)) (b + 24) (b + 32) },
    shadow := { rows := rowsFrom m (b + 1152) (m.readN (b + 6) 2), stamp := BitVec.ofNat 32 (m.readN (b + 20) 4),
                srec := recFrom m (decide (f / 2 % 2 = 1)) (decide (f / 8 % 2 = 1)) (b + 28) (b + 64) },
    acc := rowsFrom m (b + 2176) (m.readN (b + 8) 2) }

/-- R182, Table 8.1: word 0 of a future record. -/
def futStatus (f : Fut) : Nat := f.code + f.cause * 2 ^ 8 + f.flags % 16 * 2 ^ 16 + f.count % 2 ^ 32 * 2 ^ 32

/-- R182: a word of a future record. -/
def futWord (f : Fut) (w : Nat) : Word :=
  if w = 0 then BitVec.ofNat 64 (futStatus f) else if w = 1 then f.aux
  else BitVec.ofNat 64 (f.data.toNat / 2 ^ (64 * (w - 2)))

/-- R243: the names a context has bound, one bit each. -/
def boundBits (x : Ctx) : Nat :=
  (List.range 16).foldl (fun m k => m + if (physOf x k).isSome then 2 ^ k else 0) 0

/-- R243: the names a context has bound with SH. -/
def shBits (x : Ctx) : Nat :=
  (List.range 16).foldl (fun m k => m + if (physOf x k).isSome ∧ (Sparse.get (999, false) x.names k).2 then 2 ^ k else 0) 0

/-- R157: the slots that a context acquired. -/
def slotBits (x : Tile) (c : Nat) : Nat :=
  (List.range 4).foldl (fun m k => m + if (Sparse.get {} x.slots k).owner = some c then 2 ^ k else 0) 0

/-- A count of one bits among the first `n`. -/
def popBits (v n : Nat) : Nat := (List.range n).foldl (fun m k => m + v / 2 ^ k % 2) 0

/-- R243: what a context holds: registers bound in its own right, granules, slots. -/
def holdings (x : Tile) (c : Nat) : Nat × Nat × Nat :=
  let y := ctxIn x c
  (popBits (boundBits y) 16 - popBits (shBits y) 16, y.granules.length, popBits (slotBits x c) 4)

/-- R243, Table 9.6: a count vector. -/
def countVector (v : Nat × Nat × Nat) : Word := BitVec.ofNat 64 (v.1 + v.2.1 * 2 ^ 16 + v.2.2 * 2 ^ 24)

/-- R360: the code of a handle's state. -/
def FutState.code : FutState → Nat
  | .free => 0 | .pending => 1 | .terminal => 2

/-- R360, Table 19.4: the image of a name. -/
def nameParts (x : Tile) (y : Ctx) (n : Nat) : Parts :=
  match physOf y n with
  | none => []
  | some p =>
    let b := 2048 + 1088 * n
    if (Sparse.get (999, false) y.names n).2 then [(b + 2, 1, 9)]
    else
      let g := Sparse.get {} x.xregs p
      [(b, 2, poisonBits g.rows), (b + 2, 1, 1 + b2n g.srec.isSome * 2 + b2n (recPoison g.srec) * 4),
       (b + 4, 4, g.stamp.toNat), (b + 8, 4, recStamp g.srec), (b + 32, 32, recBits g.srec)] ++ rowParts (b + 64) g.rows

/-- R135, R360: the stopped tile move whose cause is still pending. -/
def pendingMword (y : Ctx) : Option Pending := y.pend.find? fun p => decide (p.mword ≠ 0)

/-- R135: a tile move that stopped part-way and has not been completed: its word, the address of its next segment
and the segment's number. A task that has met its fatal end completes none. -/
def stoppedMove (y : Ctx) : Option (Nat × Nat × Nat) :=
  match (if y.phase = .ending then none else pendingMword y) with
  | some p => some (p.mword, p.eval.toNat / 64 * 64, p.eval.toNat % 64)
  | none =>
    if y.phase ≠ .ending ∧ pm y ∧ wfld y.ecause 32 32 ≠ 0 then some (wfld y.ecause 32 32, y.eval.toNat / 64 * 64, y.eval.toNat % 64)
    else none

/-- R135: whether row `k` of a physical register belongs to what a stopped move has not moved. -/
def stoppedOwes (y : Ctx) (p k : Nat) (write : Bool) : Bool :=
  match stoppedMove y with
  | none => false
  | some (w, _, n) =>
    let loads := decide (w / 2 ^ 24 % 64 = 0x17) || decide (w / 2 ^ 24 % 64 = 0x19)
    let stores := decide (w / 2 ^ 24 % 64 = 0x18)
    (loads || (stores && write)) && decide (n ≤ k) && decide (physOf y (w / 2 ^ 20 % 16) = some p)

/-- R121, R135: the slot whose shadow plane a stopped WLD has not filled. -/
def stoppedFill (y : Ctx) : Option Nat :=
  match stoppedMove y with
  | some (w, _, _) => if w / 2 ^ 24 % 64 = 0x1A then some (w / 2 ^ 20 % 4) else none
  | none => none

/-- R358: whether a context must resume on the tile it is saved from. -/
def isFirmBound (y : Ctx) : Bool :=
  decide (prv y = 2) || y.pend.any (fun p => decide (p.cause = .rowRepair) && decide (p.mword ≠ 0)) ||
  (decide (wfld y.ecause 0 8 = Cause.rowRepair.code) && pm y && decide (wfld y.ecause 32 32 ≠ 0))

/-- R360: the pending causes of a context in the order that its image takes them: the first 16 stand in the image, and those that a
future record holds are left there first. -/
def imagePend (y : Ctx) : List Pending :=
  let held (p : Pending) : Bool := y.futs.any fun f => decide (f.2.code = 5) && decide (f.2.cause = p.cause.code) && decide (f.2.aux = p.eval)
  if y.pend.length ≤ 16 then y.pend else y.pend.filter (fun p => !held p) ++ y.pend.filter held

/-- R360, Table 19.4: the image of a context; that of one with no task is zero throughout, its byte 0 too (log 66). -/
def ctxImage (s : State) (t c : Nat) : Memory :=
  let x := tileOf s t
  let y := ctxIn x c
  if y.phase = .free then []
  else
    let fut h := Sparse.get ({} : Fut) y.futs h
    let sc i := scalarIn y i
    build ([(0, 1, 3),
      (1, 1, 1 + b2n y.debugHalt * 2 + b2n (isFirmBound y) * 4 + b2n y.timerPend * 8 +
        b2n y.claim.isSome * 16),
      (2, 2, (List.range 8).foldl (fun m h => m + (fut h).st.code * 2 ^ (2 * h)) 0),
      (4, 2, (List.range 16).foldl (fun m i => m + b2n (sc i).poison * 2 ^ i) 0),
      (6, 1, (List.range 8).foldl (fun m h => m + b2n (fut h).poison * 2 ^ h) 0),
      (8, 8, y.pc), (16, 8, y.npc), (24, 8, y.nnpc),
      (32, 1, b2n y.n0 + b2n y.n1 * 2 + b2n y.dg0 * 4 + b2n y.dg1 * 8),
      (40, 8, (y.claim.getD 0).toNat), (48, 8, (countVector (holdings x c)).toNat),
      (56, 8, boundBits y + shBits y * 2 ^ 16 + slotBits x c * 2 ^ 32),
      (616, 5, match pendingMword y with | some p => p.mword + 2 ^ 32 | none => 0),
      (1280, 8, match launchOf s y.launch with | some l => Sparse.get 0 l.u (t * 8 + c) | none => 0)] ++
      (List.range 16).map (fun i => (64 + 8 * i, 8, (sc i).val.toNat)) ++
      (List.range 35).map (fun n => (192 + 8 * n, 8,
        match CReg.ofCode n with
        | some r => (cregIn s t c y (Sparse.get {} x.cores (coreIx c)) r).toNat
        | none => 0)) ++
      (y.shadow.zipIdx.map fun wi => (512 + 8 * wi.2, 8, wi.1.toNat)) ++
      (((imagePend y).take 16).zipIdx.map fun pi => (640 + 16 * pi.2, 16,
        pi.1.eval.toNat + pi.1.seq.toNat * 2 ^ 64 + pi.1.cause.code * 2 ^ 96 + 2 ^ 103)) ++
      (List.range 8).flatMap (fun h => (List.range 6).map fun w => (896 + 48 * h + 8 * w, 8, (futWord (fut h) w).toNat)) ++
      (List.range 16).flatMap (nameParts x y) ++
      (List.range 4).flatMap (fun j =>
        if (Sparse.get {} x.slots j).owner = some c then
          (slotParts (Sparse.get {} x.slots j)).map fun p => (20480 + 3200 * j + p.1, p.2)
        else []))

/-- R224, R225: the key of a barrier object: domain code, instance, index. -/
def barKey (dom inst idx : Nat) : Nat := dom * 2 ^ 20 + inst * 2 ^ 6 + idx

/-- R225: a barrier object of an image. -/
def barPart (s : State) (off key : Nat) : Parts :=
  let b := Sparse.get {} s.bars key
  [(off, 8, b.a), (off + 8, 8, b.c)]

/-- R229: the home tile of a cluster, its lowest-numbered tile (R15). -/
def clusterHome (n : Nat) : Nat := 4 * (n / 8) * 32 + 4 * (n % 8)
/-- R229: the home tile of a sector. -/
def sectorHome (n : Nat) : Nat := 16 * (n / 2) * 32 + 16 * (n % 2)

/-- R361, Table 19.5: the image of a tile without its scratchpad. -/
def tileParts (s : State) (t : Nat) (avail : Nat) : Parts :=
  let x := tileOf s t
  [(0, 1, 3), (1, 1, b2n (Sparse.get {} x.cores 0).mode + b2n (Sparse.get {} x.cores 1).mode * 2), (2, 2, t),
   (8, 8, x.launch), (16, 8, avail), (3520, 2, x.stage), (3522, 2, x.sched.length)] ++
  ((x.acqq.take 8).zipIdx.map fun qi => (32 + 8 * qi.2, 8, qi.1.2.toNat + qi.1.1 * 2 ^ 32 + 2 ^ 39)) ++
  (List.range 16).map (fun i => (96 + i, 1, Sparse.get 0 x.sems i)) ++
  ((x.semq.take 8).zipIdx.map fun qi => (112 + qi.2, 1, qi.1.1 + 8 + qi.1.2.1 * 16)) ++
  (List.range 16).flatMap (fun i => barPart s (128 + 16 * i) (barKey 2 t i)) ++
  (if t = clusterHome (clusterOf t) then
    (List.range 32).flatMap (fun i => barPart s (384 + 16 * i) (barKey 3 (clusterOf t) i)) else []) ++
  (if t = sectorHome (sectorOf t) then
    (List.range 32).flatMap (fun i => barPart s (896 + 16 * i) (barKey 4 (sectorOf t) i)) else []) ++
  x.arr.map (fun ia => (1408 + 32 * ia.1, 32, ia.2.bits.toNat + ia.2.base * 2 ^ 128 + ia.2.count * 2 ^ 192 +
    (ia.2.e + ia.2.nc * 2 ^ 17 + b2n ia.2.armed * 2 ^ 31) * 2 ^ 224)) ++
  (List.range 8).map (fun i => (3456 + 8 * i, 8, (Sparse.get 0 x.alloy i).toNat)) ++
  (List.range 64).map (fun i => (3584 + 4 * i, 4, match x.tasks[i]? with | some k => k.flat | none => 0xFFFFFFFF))

/-- R361: the image of a tile with its scratchpad. -/
def tileImage (s : State) (t : Nat) (avail : Nat) : Memory :=
  Memory.overlay (Memory.slice (scratchPa t 0) Config.scratchBytes 4096 s.mem) (build (tileParts s t avail))

end Sys2Proof.Machine
end

