-- ==== Sys2Proof/Machine/Hold.lean ====
section
/-! DEFINITION. The hamper: claims, the banker's check, grants and releases (R243 to R250). -/

namespace Sys2Proof.Machine

/-- R243: quantities of the three classes: tile registers, granules, slots. -/
abbrev Quant := Nat × Nat × Nat

/-- Componentwise comparison. -/
def Quant.le (a b : Quant) : Bool := decide (a.1 ≤ b.1) && decide (a.2.1 ≤ b.2.1) && decide (a.2.2 ≤ b.2.2)
/-- Componentwise sum. -/
def Quant.add (a b : Quant) : Quant := (a.1 + b.1, a.2.1 + b.2.1, a.2.2 + b.2.2)
/-- Componentwise difference, not below zero. -/
def Quant.sub (a b : Quant) : Quant := (a.1 - b.1, a.2.1 - b.2.1, a.2.2 - b.2.2)

/-- R243: the quantities of a claim vector. -/
def claimQuant (w : Word) : Quant := (wfld w 0 6, wfld w 16 7, wfld w 24 3)

/-- R243: bits of a claim vector that must be zero. -/
def claimShape (w : Word) : Bool := decide (wfld w 6 10 = 0) && decide (wfld w 23 1 = 0) && decide (wfld w 27 37 = 0)

/-- R107, R243: the totals of a tile's hamper. -/
def totals (x : Tile) : Quant := (32, 96 - x.firstGranule, 4)

/-- R248: what the hamper has free. -/
def avail (x : Tile) : Quant :=
  (((List.range 32).filter fun p => !(Sparse.get {} x.xregs p).bound).length, x.freeGranules.length,
   ((List.range 4).filter fun j => (Sparse.get {} x.slots j).owner.isNone).length)

/-- R245: whether a claim exceeds a total. -/
def claimFits (x : Tile) (w : Word) : Bool := claimShape w && Quant.le (claimQuant w) (totals x)

/-- R243: the claimants of a tile, each with its claim and what it holds. -/
def claimants (x : Tile) : List (Nat × Quant × Quant) :=
  (List.range 8).filterMap fun c =>
    match (ctxIn x c).claim with
    | some w => some (c, claimQuant w, holdings x c)
    | none => none

/-- R246: the banker's loop: every claimant can finish with what is free, in some order. -/
def bankerSafe : Nat → Quant → List (Quant × Quant) → Bool
  | 0, _, l => l.isEmpty
  | n + 1, work, l =>
    let can := l.filter fun ch => Quant.le (Quant.sub ch.1 ch.2) work
    if can.isEmpty then l.isEmpty
    else bankerSafe n (can.foldl (fun w ch => Quant.add w ch.2) work)
      (l.filter fun ch => !Quant.le (Quant.sub ch.1 ch.2) work)

/-- R157: the partner of a context. -/
def partner (c : Nat) : Nat := (c + 4) % 8

/-- R243: the bits of a request vector that must be zero. -/
def requestShape (w : Word) : Bool := decide (wfld w 23 1 = 0) && decide (wfld w 27 4 = 0) && decide (wfld w 32 32 = 0)

/-- R243: the names of a request that are not bound already. -/
def newNames (y : Ctx) (w : Word) : List Nat :=
  (List.range 16).filter fun k => wbit w k && (physOf y k).isNone

/-- R243: the counted vector of a request. -/
def requestQuant (y : Ctx) (w : Word) : Quant :=
  (if wbit w 31 then 0 else (newNames y w).length, wfld w 16 7, wfld w 24 3)

/-- R245, R246: the check of a request: a cause, or 0 granted, 1 not available, 2 unsafe. Without a claim the cause is CLAIM_ABSENT,
whatever the request (DESIGN CHOICE, log 80). -/
def hamperCheck (x : Tile) (c : Nat) (w : Word) : Except Cause Nat :=
  let y := ctxIn x c
  match y.claim with
  | none => .error .claimAbsent
  | some cl =>
    let req := requestQuant y w
    if !requestShape w || decide (wfld w 24 3 > 4) then .error .claimExceeded
    else if !Quant.le (Quant.add (holdings x c) req) (claimQuant cl) then .error .claimExceeded
    else if !Quant.le req (avail x) then .ok 1
    else
      let l := (claimants x).map fun jch => (jch.2.1, if jch.1 = c then Quant.add jch.2.2 req else jch.2.2)
      .ok (if bankerSafe 9 (Quant.sub (avail x) req) l then 0 else 2)

/-- R136, R246: a name bound to the lowest-numbered free physical register, which reads as zero. -/
def bindName (c now k : Nat) (x : Tile) : Tile :=
  match (List.range 32).find? fun p => !(Sparse.get {} x.xregs p).bound with
  | none => x
  | some p =>
    { x with xregs := Sparse.set p { bound := true, lastUse := now } x.xregs,
             ctxs := Sparse.modify {} c (fun y => { y with names := Sparse.set k (p, false) y.names }) x.ctxs }

/-- R243: a name bound to the register that the partner holds under the same name. -/
def bindShared (c k : Nat) (x : Tile) : Tile :=
  let q := Sparse.get (999, false) (ctxIn x (partner c)).names k
  if q.1 < 32 ∧ q.2 = false then
    { x with ctxs := Sparse.modify {} c (fun y => { y with names := Sparse.set k (q.1, true) y.names }) x.ctxs }
  else x

/-- R246: the lowest-numbered free granules taken. -/
def takeGranules (c n : Nat) (x : Tile) : Tile :=
  { x with freeGranules := x.freeGranules.drop n,
           ctxs := Sparse.modify {} c (fun y => { y with granules := y.granules ++ x.freeGranules.take n }) x.ctxs }

/-- R155, R246: the lowest-numbered free slots granted, in the state of R155. -/
def takeSlots (c n : Nat) (x : Tile) : Tile :=
  let free := ((List.range 4).filter fun j => (Sparse.get {} x.slots j).owner.isNone).take n
  { x with slots := free.foldl (fun m j => Sparse.set j { owner := some c } m) x.slots }

/-- R246: a request granted: the tile, and the value of s[D]. -/
def grant (now c : Nat) (w : Word) (x : Tile) : Word × Tile :=
  let names := newNames (ctxIn x c) w
  let x1 := names.foldl (fun x k => if wbit w 31 then bindShared c k x else bindName c now k x) x
  let x2 := takeSlots c (wfld w 24 3) (takeGranules c (wfld w 16 7) x1)
  let got := boundBits (ctxIn x2 c) - boundBits (ctxIn x c)
  (BitVec.ofNat 64 (got * 2 ^ 16 + (slotBits x2 c - slotBits x c) * 2 ^ 32), x2)

/-- R247: the request queue scanned in arrival order; every request whose check now gives 0 is granted, and its
blocked group completes with the value held for it. -/
def rescan (now : Nat) : List (Nat × Word) → Tile → Tile
  | [], x => x
  | (c, w) :: r, x =>
    match hamperCheck x c w with
    | .ok 0 =>
      let gx := grant now c w x
      rescan now r { gx.2 with acqq := gx.2.acqq.filter fun q => decide (q.1 ≠ c),
                               ctxs := Sparse.modify {} c (fun y => { y with acqRes := some gx.1 }) gx.2.ctxs }
    | _ => rescan now r x

/-- R249: a name released: one bound with SH is unbound here only; otherwise its register is gated and unbound in
both partners. -/
def releaseName (c k : Nat) (x : Tile) : Tile :=
  let y := ctxIn x c
  match physOf y k with
  | none => x
  | some p =>
    if (Sparse.get (999, false) y.names k).2 then
      { x with ctxs := Sparse.set c { y with names := Sparse.erase k y.names } x.ctxs }
    else
      let strip (y : Ctx) : Ctx := { y with names := y.names.filter fun n => decide (n.2.1 ≠ p) }
      { x with xregs := Sparse.set p {} x.xregs,
               ctxs := Sparse.modify {} (partner c) strip (Sparse.modify {} c strip x.ctxs) }

/-- A number put back among rising numbers. -/
def insertFree (n : Nat) : List Nat → List Nat
  | [] => [n]
  | k :: r => if n < k then n :: k :: r else k :: insertFree n r

/-- R243, R249: the most recently granted granules released; they keep their contents. -/
def releaseGranules (c n : Nat) (x : Tile) : Tile :=
  let g := (ctxIn x c).granules
  let back := g.drop (g.length - n)
  { x with freeGranules := back.foldl (fun l a => insertFree a l) x.freeGranules,
           ctxs := Sparse.modify {} c (fun y => { y with granules := g.take (g.length - n) }) x.ctxs }

/-- R249: slots released, those of the mask that the context acquired. -/
def releaseSlots (c mask : Nat) (x : Tile) : Tile :=
  { x with slots := (List.range 4).foldl (fun m j =>
      if mask / 2 ^ j % 2 = 1 ∧ (Sparse.get {} x.slots j).owner = some c then Sparse.set j {} m else m) x.slots }

/-- R249: the holdings named by a release vector returned, and the request queue scanned (R247). -/
def releaseVector (now c : Nat) (w : Word) (x : Tile) : Tile :=
  let x := ((List.range 16).filter fun k => wbit w k).foldl (fun x k => releaseName c k x) x
  let x := releaseSlots c (wfld w 24 4) (releaseGranules c (wfld w 16 7) x)
  rescan now x.acqq x

/-- R249, R250: every holding of a context returned. -/
def releaseAll (now c : Nat) (x : Tile) : Tile :=
  releaseVector now c (BitVec.ofNat 64 (0xFFFF + 127 * 2 ^ 16 + 15 * 2 ^ 24)) x

/-- R250: a claimant removed with all it holds. -/
def removeClaimant (now c : Nat) (x : Tile) : Tile :=
  let x := { x with acqq := x.acqq.filter fun q => decide (q.1 ≠ c) }
  let x := releaseAll now c x
  let x := { x with ctxs := Sparse.modify {} c (fun y => { y with claim := none, acqRes := none }) x.ctxs }
  rescan now x.acqq x

/-- R157: whether a context holds a slot, itself or through its partner. -/
def holdsSlot (x : Tile) (c j : Nat) : Bool :=
  decide ((Sparse.get {} x.slots j).owner = some c) || decide ((Sparse.get {} x.slots j).owner = some (partner c))

/-- R160, R249: a matrix operation that reads or writes a physical register. -/
def matUses (o : MatOp) (p : Nat) : Bool :=
  match o.kind with
  | .mmul | .mdrain | .mldw => decide (o.reg = p)
  | .mswap | .macz | .msave | .mrest => false

/-- R249, R311: an operation, tile move or row access still to be performed that names a physical register. -/
def regBusy (x : Tile) (p : Nat) : Bool :=
  x.matq.any (fun o => matUses o p) ||
  x.moves.any (fun m => decide (m.op ≠ .wld) && decide (m.reg = p)) ||
  (List.range 8).any fun c => (ctxIn x c).accs.any (fun a => decide (a.kind = .rowLoad) && decide (a.dest = p)) ||
    stoppedOwes (ctxIn x c) p 15 true

/-- R249, R311: an operation or fill still to be performed that names a slot. -/
def slotBusy (x : Tile) (j : Nat) : Bool :=
  x.matq.any (fun o => decide (o.slot = j)) || x.moves.any (fun m => decide (m.op = .wld) && decide (m.reg = j)) ||
  (List.range 8).any fun c => decide (stoppedFill (ctxIn x c) = some j)

/-- Whether a view is that of a context, in the launch whose task it runs. -/
def viewIs (s : State) (t c : Nat) (v : View) : Bool :=
  decide (v.tile = t) && decide (v.ctx = c) && decide (v.launch = (ctxOf s t c).launch)

/-- R201, R206, R214, R216: whether a request is a command of its own, and no atomic or end of a copy. -/
def AReq.isCommand (q : AReq) : Bool :=
  match q.kind with
  | .rpc _ | .trav | .travRes | .gpool | .attn => true
  | .atomic | .copyEnd _ _ _ => false

/-- R191, R218: the agent commands of a context whose replies have not landed, those without a future and those whose future
another context holds among them. -/
def agentCommands (s : State) (t c : Nat) : List Nat :=
  ((s.agentReqs.filter fun r => r.2.isCommand && viewIs s t c r.2.view).map fun r => r.2.id) ++
  s.tiles.flatMap (fun x => ((x.2.agentq.filter fun r => r.isCommand && viewIs s t c r.view).map fun r => r.id) ++
    (x.2.walks.filter fun w => viewIs s t c w.req.view).map fun w => w.req.id) ++
  ((s.conts.filter fun k => viewIs s t c k.2.2.req.view).map fun k => k.2.2.req.id) ++
  (s.replies.filter fun r => viewIs s t c r.view).map fun r => r.cmd

/-- R218: how many agent commands of a context are outstanding. -/
def outstanding (s : State) (t c : Nat) : Nat := (agentCommands s t c).length

/-- R243, R249: the granules that a release vector names, the most recently granted ones. -/
def namedGranules (x : Tile) (c : Nat) (w : Word) : List Nat :=
  let g := (ctxIn x c).granules
  g.drop (g.length - wfld w 16 7)

/-- R107, R249: whether `n` bytes of the scratchpad at a physical address lie in one of several granules of tile `t`. -/
def inGranules (t : Nat) (l : List Nat) (pa n : Nat) : Bool :=
  l.any fun g => decide (scratchPa t (g * 4096) < pa + n) && decide (pa < scratchPa t (g * 4096) + 4096)

/-- R249: whether an access, a tile move, an image operation, a copy or an agent command of a context may still read or
write one of several granules. Where an engine's command will reach is not looked at: each one is waited for (log 61). -/
def granulesBusy (s : State) (t c : Nat) (l : List Nat) : Bool :=
  let x := tileOf s t
  let y := ctxIn x c
  !l.isEmpty &&
  (y.accs.any (fun a => !a.served && inGranules t l a.pa a.size) ||
   x.moves.any (fun m => decide (m.ctx = c) && ((m.pas.drop m.next).any (fun p => inGranules t l p 64) ||
     m.scl.any fun p => inGranules t l p 32)) ||
   x.matq.any (fun o => decide (o.ctx = c) && (o.left.any (fun k => inGranules t l (o.pas.getD k 0) 64) ||
     (!o.started && (o.arrA.any (fun p => inGranules t l p 32) || o.arrB.any fun p => inGranules t l p 32)))) ||
   x.copies.any (fun k => decide (k.view.ctx = c) && decide (k.launch = y.launch)) ||
   decide (outstanding s t c ≠ 0))

/-- R249, R311: whether a release must wait: something that it names is still used, by the context or by its partner. -/
def releaseBusy (s : State) (t c : Nat) (w : Word) : Bool :=
  let x := tileOf s t
  ((List.range 16).any fun k => wbit w k && !(Sparse.get (999, false) (ctxIn x c).names k).2 &&
    (match physOf (ctxIn x c) k with | some p => regBusy x p | none => false)) ||
  ((List.range 4).any fun j => wbit w (24 + j) && decide ((Sparse.get {} x.slots j).owner = some c) && slotBusy x j) ||
  granulesBusy s t c (namedGranules x c w)

/-- R249: a release vector that names every name, every granule and every slot. -/
def everything : Word := 0x0F7FFFFF

end Sys2Proof.Machine
end

