-- ==== Sys2Proof/Machine/Ops.lean ====
section
/-! DEFINITION. Sequencing of groups, taking an exception and returning from one, fatal ends, and how a meaning
settles its group. -/

namespace Sys2Proof.Machine

/-- R333: the word at an address of the image of a context: from the loop buffer inside a running body (R92), from
the firmware handler code at FIRM (R351, R364; log 13), otherwise from the image that the launch placed (R21). -/
def fetchWord (s : State) (t c a : Nat) : Option Nat :=
  let y := ctxOf s t c
  let image : Option Nat :=
    if prv y = 2 ∧ t ≠ Config.fwTile then
      if Config.firmwareVectorOffset ≤ a ∧ a + 4 ≤ Config.firmwareVectorOffset + 2 ^ 20 then
        some (readMem s (vaultPa t a) 4) else none
    else
      let k := coreOf s t (coreIx c)
      if a + 4 ≤ k.imageLen then some (k.image.readN a 4) else none
  match y.loop with
  | some l =>
    if l.bs ≤ a ∧ a < l.bs + 4 * l.len then
      (if l.missing.contains ((a - l.bs) / 4) then none else some (l.words.getD ((a - l.bs) / 4) 0))
    else image
  | none => image

/-- R56: the address of the group after the one at `a`; an address that cannot be fetched counts as a lone word
(log 11). -/
def seqAddr (s : State) (t c a : Nat) : Nat :=
  match fetchWord s t c a with
  | some w => if w / 2 ^ 31 % 2 = 1 ∨ a % 8 ≠ 0 then a + 4 else a + 8
  | none => a + 4

/-- R91: the group after the one at `a` while `l` runs, with the loop state it runs in. -/
def loopNext (s : State) (t c : Nat) (a : Nat) (l : Option LoopSt) : Nat × Option LoopSt :=
  let n := seqAddr s t c a
  match l with
  | none => (n, none)
  | some l =>
    if n ≠ l.bs + 4 * l.len then (n, some l)
    else if l.rem = 0 then (n, none)
    else (l.bs, some { l with rem := l.rem - 1, pass := (l.pass + 1) % 8 })

/-- R91: PC, nPC and nnPC name the next three groups from `a` on, in the sequence of the loop. -/
def seatLoop (s : State) (t c : Nat) (a : Nat) (l : Option LoopSt) (x : Ctx) : Ctx :=
  let (b, l1) := loopNext s t c a l
  let (d, _) := loopNext s t c b l1
  { x with pc := a, npc := b, nnpc := d, loop := l, n0 := false, n1 := false, dg0 := false, dg1 := false }

/-- R66, R91: the group after the one at nnPC, with the loop state at nPC. -/
def pastNext (s : State) (t c : Nat) (x : Ctx) : Nat × Option LoopSt :=
  let l1 := (loopNext s t c x.pc x.loop).2
  ((loopNext s t c x.nnpc (loopNext s t c x.npc l1).2).1, l1)

/-- R66: the step of the sequencing state after the group at PC. While a loop runs, the group after nnPC is the next of
its sequence (R91). R74 checks a body at its LOOP only: a branch that a refilled body holds does not redirect, and a
LOOP that it holds starts its own loop, or with a count of 0 leaves the old one standing (log 43). -/
def advance (t c : Nat) (f : Flow) (s : State) : State :=
  let x := ctxOf s t c
  match f, x.loop with
  | .loopStart l n, _ =>
    if n = 0 then
      let be := l.bs + 4 * l.len
      let b := seqAddr s t c be
      setCtx t c { x with pc := be, npc := b, nnpc := seqAddr s t c b, n0 := x.n1, n1 := false,
                          dg0 := x.dg1, dg1 := false } s
    else
      let s := setCtx t c { x with loop := some l } s
      modCtx t c (seatLoop s t c l.bs (some l)) s
  | .branch taken target kill, none =>
    setCtx t c { x with pc := x.npc, npc := x.nnpc, nnpc := if taken then target else seqAddr s t c x.nnpc,
                        n0 := x.n1 || kill, n1 := kill, dg0 := x.dg1 || true, dg1 := true } s
  | _, _ =>
    let (d, l) := pastNext s t c x
    setCtx t c { x with pc := x.npc, npc := x.nnpc, nnpc := d, loop := l,
                        n0 := x.n1, n1 := false, dg0 := x.dg1, dg1 := false } s

/-- R347, Table 19.1: the delivery classes. -/
inductive Class where
  | s | a | d | i | f | x | t | k | l
  deriving DecidableEq, Repr

/-- R350, Table 19.2: the class of a cause as a context takes it. -/
def Cause.cls : Cause → Class
  | .poisonConsumed | .replayDivergence | .pairDivergence => .x
  | .rowRepair => .f
  | .machineCheck => .t
  | .watchdogKill => .k
  | .none_ | .hierarchyRange | .preempt => .l
  | .trapInstruction | .watchpoint | .step => .a
  | .timer => .i
  | .peerAbort | .scaleSequence | .scaleAbsent | .matrixLasting | .accImage | .rpcRemote => .d
  | .opcodeUndefined | .fieldReserved | .pairAlign | .slotClass | .prefixMisuse | .delaySlotForbidden
  | .loopBodyForbidden | .privilege | .coreRole | .handleInvalid | .regUnbound | .align | .xlateAbsent
  | .xlatePermission | .targetForbidden | .scratchRange | .spillLimit | .writeBlockTimeout | .hostAbort
  | .atomicTarget | .vaultHold | .thermalHold | .claimAbsent | .claimRepeated | .claimExceeded | .claimImpossible
  | .slotNotHeld | .semaphoreOverflow | .barrierTimeout | .barrierId | .arrivalId | .worklistFull | .worklistId
  | .alloyEntry | .alloyFormat | .drainFormat | .loopRotation | .copyDescriptor | .copyScheduleEnd
  | .rpcProcedure | .traversal | .gather | .attention | .futureCancelled | .breakpoint => .s

/-- Table 10.5: ELOOP for a context stopped in a loop body. -/
def eloopOf (l : LoopSt) (pc : Nat) : Word :=
  BitVec.ofNat 64 (l.rem * 2 ^ 32 + 2 ^ 31 + l.pass % 8 * 2 ^ 28 + (l.len - 1) * 2 ^ 22 + (pc - l.bs) / 4 % 64 * 2 ^ 16 +
    l.rotb * 2 ^ 12 + l.rotw * 2 ^ 10 + l.stride * 2 ^ 6)

/-- R374: a fatal dump pushed to DUMPB when it is enabled and the link is up. -/
def pushDump (id : Nat) (image : Memory) (len : Nat) (s : State) : State :=
  let b := Sparse.get 0 s.regs 0x810
  if wbit b 0 ∧ s.mgmt.link then
    let room := wfld (Sparse.get 0 s.regs 0x818) 0 32 - 16
    let n := min len room
    let pa := hostPa (wfld b 12 40 * 2 ^ 12)
    let s := writeMem pa 16 (id + n * 2 ^ 64) s
    let s := { s with mem := Memory.place image 0 n (pa + 16) s.mem }
    raiseMsix 17 { s with regs := Sparse.set 0x820 (BitVec.ofNat 64 (n * 2 ^ 32 + id % 2 ^ 32)) s.regs }
  else s

/-- R374: the dump with an identifier stands in a slot, in place of the one before it. -/
def noteDump (id t k : Nat) (s : State) : State :=
  { s with dumps := (s.dumps.filter fun d => decide (d.2 ≠ (t, k))) ++ [(id, t, k)] }

/-- R349, R350: the class in which a cause was delivered. -/
def deliveredClass (cause : Cause) (late : Bool) : Class := if late && decide (cause.cls = .s) then .d else cause.cls

/-- R374: the context dump: the image after the holdings are returned, the released vector, the cause, the class in which it
was delivered, and TIME. -/
def dumpContext (t c : Nat) (cause : Cause) (vec : Word) (id : Nat) (s : State) : State :=
  let img := ctxImage s t c
  let cls := deliveredClass cause (ctxOf s t c).endLate
  let img := Memory.writeN 584 vec.toNat 8 (Memory.writeN 592 cause.code 1 (Memory.writeN 593 cls.ctorIdx 1
    (Memory.writeN 600 s.time 8 img)))
  let s := noteDump id t c (placeFresh img 0 33280 (vaultPa t (0x0FFA2000 + 33280 * c)) s)
  pushDump id img 33280 s

/-- R189, R191, R355: cancel requests for every command that a task has issued and that may still be cancelled. -/
def cancelCommands (t c : Nat) (s : State) : State :=
  let x := tileOf s t
  let cmds := (x.copies.filter fun k => viewIs s t c k.view).map (fun k => k.id) ++ agentCommands s t c
  cmds.foldl (fun s k => { s with cancels := s.cancels ++ [(s.nextId, t, k)], nextId := s.nextId + 1 }) s

/-- R172: whether a fill of a slot that issued as number `k` goes into what is still the active plane, since an odd number of exchanges
that issued before it, and that the end of context `c` leaves in the queue, have still to be made. -/
def fillsActive (x : Tile) (c j k : Nat) : Bool :=
  (x.matq.filter fun o => decide (o.kind = .mswap) && decide (o.slot = j) && decide (o.id < k) &&
    (decide (o.ctx ≠ c) || o.started)).length % 2 = 1

/-- R172, R355: an abandoned fill of a shadow plane counts as complete; the data stamp of its plane becomes NONE. -/
def abandonFills (c : Nat) (x : Tile) : Tile :=
  let y := ctxIn x c
  let gone := ((x.moves.filter fun m => decide (m.ctx = c) && decide (m.op = .wld)).map fun m => (m.reg, m.order)) ++
    ((x.matq.filter fun o => decide (o.ctx = c) && decide (o.kind = .mldw) && !o.started).map fun o => (o.slot, o.id)) ++
    ((stoppedFill y).map fun j => (j, ((y.stopOrder.map fun o => o.2.2).getD 0))).toList
  { x with moves := x.moves.filter fun m => !(decide (m.ctx = c) && decide (m.op = .wld)),
           slots := gone.foldl (fun l j => Sparse.modify {} j.1 (fun (z : MSlot) =>
             if fillsActive x c j.1 j.2 then { z with active := { z.active with stamp := 0xFFFFFFFF } }
             else { z with shadow := { z.shadow with stamp := 0xFFFFFFFF } }) l) x.slots }

/-- R355: whether the results that an ending task had in flight have come and nothing uses what it holds any more. -/
def resultsIn (s : State) (t c : Nat) : Bool :=
  let x := tileOf s t
  (ctxIn x c).accs.all (fun a => decide (a.kind = .store) || decide (a.kind = .rowStore)) &&
  !x.moves.any (fun m => decide (m.ctx = c)) && !x.matq.any (fun o => decide (o.ctx = c)) && !releaseBusy s t c everything

/-- R355, steps 4 and 5: the holdings of an ending task returned, the fault recorded and dumped. -/
def fatalClose (t c : Nat) (s : State) : State :=
  let vec := countVector (holdings (tileOf s t) c)
  let s := modCtx t c (fun y => { y with closed := true }) (modTile t (removeClaimant s.time c) s)
  let y := ctxOf s t c
  let l := (launchOf s y.launch).getD { queue := 0xFF, part := 0xFF }
  let (n, s) := journalBegin 2 l.queue 0x20 l.part l.qidx y.endEpc.toNat
    (y.endSeq.toNat + t * 2 ^ 32 + c * 2 ^ 48 + y.endCause.code * 2 ^ 56) (vec.toNat % 2 ^ 32) s
  journalEnd n (completionWord 4 y.endCause.code 0) (dumpContext t c y.endCause vec n s)

/-- R242: a request to the compaction unit that an ending task has sent still reaches the unit. -/
def unapplied (y : Ctx) : Option WlReq :=
  match y.wl with
  | some w => if w.applied then none else some w
  | none => none

/-- R355: the fatal end of a task: it issues nothing more, matrix operations still queued are discarded, and its commands
cancelled. Its holdings return once its results in flight are in (`fatalClose`), and the context stays occupied until its
commands are terminal (R191). -/
def fatalEnd (t c : Nat) (cause : Cause) (epc : Word) (seq : W32) (s : State) : State :=
  let s := modTile t (fun x =>
    let x := abandonFills c x
    { x with matq := x.matq.filter (fun o => decide (o.ctx ≠ c) || o.started),
             reserves := x.reserves.filter fun r => decide (r.ctx ≠ c),
             semq := x.semq.filter fun q => decide (q.1 ≠ c) }) s
  let s := cancelCommands t c s
  let s := modCtx t c (fun y =>
    { y with phase := .ending, endCause := cause, endEpc := epc, endSeq := seq, closed := false, wait := .none_, pend := [],
             timerPend := false, barPhase := none, cpysLeft := 0, cpysDone := false, wl := unapplied y, wlKept := none, after := none, endPend := none, loop := none }) s
  let s := modLaunch (ctxOf s t c).launch (fun l => { l with cause := some (l.cause.getD cause) }) s
  if resultsIn s t c then fatalClose t c s else s

/-- R355, R372: MACHINE_CHECK ends every task of the tile at once and dumps the tile; `src` is the context that raised it, with
EPC and ESEQ. -/
def machineCheckTile (t : Nat) (src : Option (Nat × Word × W32)) (s : State) : State :=
  let occupied := (List.range 8).filter fun c => decide ((ctxOf s t c).phase = .running) || decide ((ctxOf s t c).phase = .halted)
  let x := tileOf s t
  let vec := countVector (occupied.foldl (fun q c => Quant.add q (holdings x c)) (0, 0, 0))
  let (c, epc, seq) := src.getD (0, 0, 0)
  let s := occupied.foldl (fun s c => fatalEnd t c .machineCheck (BitVec.ofNat 64 (ctxOf s t c).pc) 0 s) s
  let l := (launchOf s (tileOf s t).launch).getD { queue := 0xFF, part := 0xFF }
  let (n, s) := journalBegin 2 l.queue 0x24 l.part l.qidx epc.toNat
    (seq.toNat + t * 2 ^ 32 + c * 2 ^ 48 + Cause.machineCheck.code * 2 ^ 56) vec.toNat s
  let img := (List.range 8).foldl (fun m c => Memory.place (ctxImage s t c) 0 33280 (397312 + 33280 * c) m)
    (tileImage s t (countVector (avail (tileOf s t))).toNat)
  let s := noteDump n t 8 (placeFresh img 0 663552 (vaultPa t 0x0FF00000) s)
  let s := pushDump n img 663552 s
  journalEnd n (completionWord 4 Cause.machineCheck.code 0) s

/-- R57, R418: the answer that a group has still to take when it executes again: the unit has applied its request, and another word
of the group has trapped meanwhile (log 73). -/
def keptAnswer (y : Ctx) : Option (Nat × WlReq) :=
  match y.wl with
  | some w => if w.applied ∧ w.trap = .none_ then some (y.pc, w) else y.wlKept
  | none => y.wlKept

/-- R221, R227, R417, R418: a blocked group that an entry interrupts leaves the queues it joined; a request to the
compaction unit that has not been applied is withdrawn. -/
def leaveQueues (t c : Nat) (s : State) : State :=
  let s := modTile t (fun x => { x with acqq := x.acqq.filter fun q => decide (q.1 ≠ c),
                                         semq := x.semq.filter fun q => decide (q.1 ≠ c) }) s
  modCtx t c (fun y => { y with wait := .none_, priFail := false, wl := none, heldNames := none, wlKept := keptAnswer y }) s

/-- R242, R355: the queues that a context leaves at its fatal end; what it has sent to the compaction unit stands. -/
def leaveFatal (t c : Nat) (s : State) : State :=
  let w := (ctxOf s t c).wl
  modCtx t c (fun y => { y with wl := w }) (leaveQueues t c s)

/-- R76: a context as trap entry saves its loop: ELOOP holds the loop state, or its valid bit is cleared. -/
def saveLoop (y : Ctx) : Ctx :=
  match y.loop with
  | some l => { y with eloop := eloopOf l y.pc, loop := none }
  | none => { y with eloop := putFld y.eloop 31 1 0 }

/-- R69, R351: the save and the redirection of trap entry, to privilege `lvl` and address `entry`; the firmware core stays at
FIRM (R251). -/
def saveAndEnter (t c : Nat) (cause : Cause) (arg mword lvl entry : Nat) (eval : Word) (seq : W32) (partial_ : Bool)
    (s : State) : State :=
  let g := siteOf (ctxOf s t c)
  let s := modCtx t c (fun y => saveLoop
    { y with epc := BitVec.ofNat 64 y.pc, enpc := BitVec.ofNat 64 y.npc, ennpc := BitVec.ofNat 64 y.nnpc,
             eannul := BitVec.ofNat 64 (b2n y.n0 + b2n y.n1 * 2 + b2n y.dg0 * 4 + b2n y.dg1 * 8),
             ecause := BitVec.ofNat 64 (cause.code + 256 * arg + 2 ^ 32 * mword), eval := eval,
             eseq := BitVec.ofNat 64 seq.toNat }) s
  let s := modCtx t c (fun y =>
    let st := putFld (putFld (putFld y.status 2 2 (prv y)) 0 2 (if t = Config.fwTile then 2 else lvl)) 4 1 1
    { y with status := if partial_ then putFld st 7 1 1 else st, barPhase := none, cpysLeft := 0, cpysDone := false, afterEret := false,
             n0 := false, n1 := false, dg0 := false, dg1 := false, pc := entry }) s
  let b := seqAddr s t c entry
  let s := modCtx t c (fun y => { y with npc := b, nnpc := seqAddr s t c b }) s
  countAt t c 19 1 g.lvl g (ctxOf s t c).seqLast (monitorAt t c 2 cause.code g eval.toNat seq s)

/-- R411: a delivered or fatal cause of class S, A, D or I is logged while recording. -/
def logCause (t c : Nat) (cause : Cause) (arg : Nat) (eval : Word) (seq : W32) (s : State) : State :=
  let n := (ctxOf s t c).retired
  let s := logPut t 8 c cause.code n eval.toNat s
  if seq.toNat ≠ 0 ∨ arg ≠ 0 then logPut t 9 c cause.code n (seq.toNat + arg * 2 ^ 32) s else s

/-- R412, R413: whether a replaying context finds the cause it would deliver in its log: the logged ARG, EVAL and ESEQ, and the
state past the entry. -/
def replayCause (t c : Nat) (cause : Cause) (s : State) : Option (Nat × Word × W32 × State) :=
  match logPeek s t c with
  | some (n, w, v) =>
    if w % 16 = 8 ∧ w / 2 ^ 8 % 256 = cause.code ∧ w / 2 ^ 16 = (ctxOf s t c).retired then
      let more := readMem s (logPa s t (n + 1)) 8
      let two := decide (more % 16 = 9) && decide (more / 2 ^ 4 % 8 = c)
      let x := if two then readMem s (logPa s t (n + 1) + 8) 8 else 0
      some (x / 2 ^ 32 % 64, BitVec.ofNat 64 v, BitVec.ofNat 32 x,
        modCtx t c (fun y => { y with rplPos := if two then n + 2 else n + 1 }) s)
    else none
  | none => none

/-- R413: the divergence of a replaying context. -/
def diverge (t c : Nat) (s : State) : State :=
  let p := (tileOf s t).part
  fatalEnd t c .replayDivergence (BitVec.ofNat 64 (ctxOf s t c).pc) 0
    { s with regs := Sparse.modify 0 (0xD80 + 8 * p) (fun w => w ||| 2) s.regs }

/-- R227, R417: whether a word is a BAR.AW or a CPYS. -/
def resumable (w : Nat) : Bool :=
  decide (w / 2 ^ 30 % 2 = 0) &&
  (decide (w / 2 ^ 24 % 64 = 0x21) || (decide (w / 2 ^ 24 % 64 = 0x28) && decide (w / 2 ^ 6 % 64 = 2)))

/-- R227, R417: what EVAL holds for a BAR.AW or a CPYS that an entry stops, and whether one is stopped; one that an
ERET named and that has not gone on yet is stopped as before. -/
def stoppedGroup (s : State) (t c : Nat) : Option Word :=
  let y := ctxOf s t c
  match y.barPhase with
  | some ph => some (BitVec.ofNat 64 ph)
  | none =>
    if y.cpysLeft ≠ 0 ∨ y.cpysDone then some (BitVec.ofNat 64 (y.cpysNext + y.cpysLeft * 2 ^ 16))
    else if y.afterEret ∧ resumable ((fetchWord s t c y.pc).getD 0) then some y.eval
    else none

/-- R318: the repair of a row is in progress from the moment an owner access traps. -/
def beginRepair (t : Nat) (row : Option Nat) (s : State) : State :=
  match row with
  | some n => modTile t (fun x => { x with vault := { x.vault with repairing := insertNat n x.vault.repairing } }) s
  | none => s

/-- R388, R389: a fatal cause of a paired context ends its interval: the task ends once the fingerprints agree, and issues nothing
until then. -/
def endsFatally (t c : Nat) (cause : Cause) (epc : Word) (seq : W32) (s : State) : State :=
  match Sparse.get none (tileOf s t).pairs c with
  | none => fatalEnd t c cause epc seq s
  | some _ =>
    modCtx t c (fun y => { y with endPend := some (cause, epc, seq), wait := .none_ })
      (modTile t (fun x => { x with matq := x.matq.filter fun o => decide (o.ctx ≠ c) || o.started }) s)

/-- R351, R355, R411: a cause of class S, A, D, I or L is delivered with its ARG, EVAL and ESEQ: to the SUPER handler, or as the fatal end
of the task. -/
def deliverCause (t c : Nat) (tr : Trap) (mword : Nat) (partial_ : Bool) (arg : Nat) (eval : Word) (seq : W32) (s : State) : State :=
  let y := ctxOf s t c
  let fatal := decide (y.handler = 0) || exl y
  let s := logCause t c tr.cause arg eval seq (if fatal then leaveFatal t c s else leaveQueues t c s)
  if fatal then
    endsFatally t c tr.cause (BitVec.ofNat 64 y.pc) seq (modCtx t c (fun y => { y with endLate := tr.late }) s)
  else saveAndEnter t c tr.cause arg mword 1 y.handler.toNat eval seq partial_ s

/-- R406: the address of a group that a cause of its own ends is that of the last group of its context. -/
def noteLast (t c : Nat) (tr : Trap) (s : State) : State :=
  if tr.cause.cls = .s ∧ ¬tr.late then modCtx t c (fun y => { y with lastPc := y.pc }) s else s

/-- R351: taking an exception, from the sequencing state the context has now: the SUPER handler, the firmware
vector for ROW_REPAIR, or a fatal end. A cause that interrupts a BAR.AW or a CPYS, a deferred matrix trap among them, leaves in EVAL what
that group needs to go on (R227, R417), and not its own value (DESIGN CHOICE, log 74). In a replay it is delivered as it is logged (R412). -/
def enterCause (t c : Nat) (tr : Trap) (mword : Nat) (s : State) : State :=
  let s := notePrint t c 1 tr.cause.code tr.cause.code s
  let y := ctxOf s t c
  let stopped := stoppedGroup s t c
  let eval := stopped.getD tr.eval
  let partial_ := stopped.isSome || decide (mword ≠ 0)
  let epc := BitVec.ofNat 64 y.pc
  let s := noteLast t c tr s
  match tr.cause.cls with
  | .t => machineCheckTile t (some (c, epc, tr.seq)) s
  | .x | .k =>
    let s := leaveFatal t c s
    if tr.cause = .replayDivergence then diverge t c s else endsFatally t c tr.cause epc tr.seq s
  | .f =>
    if prv y = 2 then machineCheckTile t (some (c, epc, tr.seq)) s
    else
      let s := beginRepair t tr.row (leaveQueues t c s)
      let s := modCtx t c (fun y => { y with shadow :=
        [y.epc, y.enpc, y.ennpc, y.eannul, y.ecause, y.eval, y.eseq, y.eloop, y.status] }) s
      saveAndEnter t c tr.cause tr.arg mword 2 Config.firmwareVectorOffset eval tr.seq partial_ s
  | .s | .a | .d | .i | .l =>
    if replaying s t then
      match replayCause t c tr.cause s with
      | some (arg, eval, seq, s) => deliverCause t c tr mword partial_ arg eval seq s
      | none => diverge t c s
    else deliverCause t c tr mword partial_ tr.arg eval tr.seq s

/-- R363, R398: a context stops for the debugger, at a boundary; a blocked group leaves the queues that it joined, and executes
again at the resume (R221). -/
def debugStop (t c reason : Nat) (s : State) : State :=
  modCtx t c (fun y => { y with debugHalt := true, resumeReq := false, stepReq := false, haltReason := reason })
    (leaveQueues t c s)

/-- R394, R395, R399: a source of a debug event noted in DHIT. -/
def setDhit (t c bit : Nat) (s : State) : State :=
  modCtx t c (fun y => { y with dbg := Sparse.modify 0 0x38 (fun w => w ||| BitVec.ofNat 64 (2 ^ bit)) y.dbg }) s

/-- R394: DCTL.TODBG of a context. -/
def toDbg (y : Ctx) : Bool := wbit (Sparse.get 0 y.dbg 0x30) 0

/-- R395, R398: BREAKPOINT, to the debugger or as a class S cause. -/
def takeBreakpoint (t c arg reason : Nat) (s : State) : State :=
  if toDbg (ctxOf s t c) then debugStop t c reason s
  else enterCause t c { cause := .breakpoint, arg := arg } 0 s

/-- R396: the lowest byte of a watched range that an access touches. -/
def watchHit (y : Ctx) (i va len : Nat) (write : Bool) : Option Nat :=
  let base := wfld (Sparse.get 0 y.dbg (0x10 + 16 * i)) 0 52
  let ctl := Sparse.get 0 y.dbg (0x18 + 16 * i)
  let n := wfld ctl 0 32
  if n ≠ 0 ∧ wbit ctl (if write then 33 else 32) ∧ va < base + n ∧ base < va + len then some (max va base) else none

/-- R396: the lowest byte that a group's accesses match in either watched range; `i` is the comparator. -/
def watchAll (y : Ctx) (i : Nat) (touch : List (Nat × Nat × Bool)) : Option Nat :=
  touch.foldl (fun m a => match watchHit y i a.1 a.2.1 a.2.2, m with
    | some v, some u => some (min u v)
    | some v, none => some v
    | none, m => m) none

/-- The issue frame emptied. -/
def clearFrame (s : State) : State := { s with grp := {} }

/-- R397, R399: what follows a group that has retired: a class A cause, a watchpoint, a single step, a debug step. -/
def afterGroup (t c : Nat) (wasTask : Bool) (trapAfter : Option (Cause × Nat)) (touch : List (Nat × Nat × Bool))
    (s : State) : State :=
  let y := ctxOf s t c
  let h0 := watchAll y 0 touch
  let h1 := watchAll y 1 touch
  let s := if h0.isSome then setDhit t c 2 s else s
  let s := if h1.isSome then setDhit t c 3 s else s
  let stepped := ss y && wasTask
  let s := if stepped then setDhit t c 5 s else s
  let hit := match h0, h1 with
    | some a, some b => some (min a b)
    | some a, none => some a
    | none, b => b
  if y.phase ≠ .running then s
  else match trapAfter with
    | some (cause, arg) => enterCause t c { cause := cause, arg := arg } 0 s
    | none =>
      match hit with
      | some a =>
        if toDbg y then debugStop t c 4 s
        else enterCause t c { cause := .watchpoint, eval := BitVec.ofNat 64 a } 0 s
      | none =>
        if stepped then (if toDbg y then debugStop t c 16 s else enterCause t c { cause := .step } 0 s)
        else if y.stepReq && wasTask then debugStop t c 16 s
        else s

/-- R396: whether a context may see a watched range touched by the segments that a move has still to complete. -/
def mayWatch (y : Ctx) (m : Move) : Bool :=
  let l := ((List.range 16).drop m.first).map fun k => ((m.va + k * m.pitch) % 2 ^ 64, 64, false)
  (watchAll y 0 l).isSome || (watchAll y 1 l).isSome

/-- R396, R397, R399: what follows a group that has retired, at once, or once the own-vault tile load that it began has ended or stopped
where that may match a watched range (DESIGN CHOICE, log 75). -/
def groupEnds (t c : Nat) (load : Option Nat) (wasTask : Bool) (raised : Option (Cause × Nat)) (touch : List (Nat × Nat × Bool))
    (s : State) : State :=
  match (tileOf s t).moves.find? fun m => decide (some m.id = load) && mayWatch (ctxOf s t c) m with
  | some m => modCtx t c (fun y => { y with after := some { move := m.id, wasTask := wasTask, raised := raised, touch := touch } }) s
  | none => afterGroup t c wasTask raised touch s

/-- R388: what a group that retires brings into a fingerprint: its address, and the scalars as it leaves them. -/
def fingerWords (y : Ctx) : Nat := y.sregs.foldl (fun n r => n + (r.2.val.toNat + b2n r.2.poison) * 2 ^ (64 * (r.1 + 1))) y.pc

/-- R388: the rows of the tile registers that a paired context has bound enter its fingerprints. -/
def printRows (t c : Nat) (s : State) : State :=
  let x := tileOf s t
  match Sparse.get none x.pairs c with
  | none => s
  | some _ =>
    (x.xregs.filter fun r => r.2.bound && (ctxIn x c).names.any fun n => decide (n.2.1 = r.1)).foldl (fun s r =>
      r.2.rows.foldl (fun s k => notePrint t c 9 (k.2.bits.toNat + b2n k.2.poison * 2 ^ 512) (k.2.bits.toNat + b2n k.2.poison * 2 ^ 512) s) s) s

/-- R393: an access of the group that a context retires as its `n`-th names the number that the group took. -/
def numbered (seq : Option W32) (n : Nat) (a : Acc) : Acc :=
  match seq with
  | some k => if a.cnt = n then { a with seq := k } else a
  | none => a

/-- R66, R254, R256, R404, R406: a group that took effect retires: it is counted and traced, the sequencing state moves on,
and what follows the group is taken. -/
def retireGroup (t c : Nat) (flow : Flow) (s : State) : State :=
  let y := ctxOf s t c
  let g := s.grp.eret.getD (siteOf y)
  let wasTask := decide (g.lvl = 0) && decide (flow ≠ .eret)
  let touch := s.grp.touch
  let load := s.grp.load
  let s := printRows t c (notePrint t c 17 (fingerWords y) (fingerWords y) s)
  let s := countAt t c 2 1 g.lvl g y.seqLast (flushSamples t c s)
  let s := match flow with
    | .branch true target _ => monitorAt t c 1 0 g target y.seqLast s
    | .eret => monitorAt t c 3 0 g y.pc y.seqLast s
    | _ => s
  let s := match flow with
    | .eret | .halted => s
    | _ => advance t c flow s
  let s := modCtx t c (fun y =>
    { y with retired := y.retired + 1, wait := .none_, suppress := 0, heldNames := none, lastPc := g.pc,
             accs := y.accs.map (numbered s.grp.seq (y.retired + 1)),
             afterEret := decide (flow = .eret) && y.afterEret }) s
  groupEnds t c load wasTask (match flow with | .trapAfter k a => some (k, a) | _ => none) touch (clearFrame s)

/-- R221, R299: a group that cannot complete leaves the context waiting; its start is kept while it waits. -/
def waitGroup (t c : Nat) (w : Wait) (s : State) : State :=
  modCtx t c (fun y => if y.wait = w then y else { y with wait := w, waitSince := s.time }) (clearFrame s)

/-- R57, R69: a class S cause of a group, taken from the state before the group. BRK may go to the debugger (R398). -/
def trapGroup (t c : Nat) (tr : Trap) (s : State) : State :=
  let s := modCtx t c (fun y => { y with lastPc := y.pc }) s
  if tr.cause = .breakpoint then takeBreakpoint t c tr.arg 8 (setDhit t c 4 (clearFrame s))
  else enterCause t c tr 0 (clearFrame s)

/-- R57: the state that a meaning leaves. A lone word settles its group at once; a word of a pair, or of a prefixed
group, reports its flow, trap or wait, and the step settles the group as a whole. -/
def settled (s : State) (e : Eff) : State :=
  let t := s.focusTile
  let c := s.focusCtx
  match s.grp.half, e with
  | .lone, .done s' f => if f = .prefixed then s' else retireGroup t c f s'
  | .lone, .trap tr => trapGroup t c tr s
  | .lone, .wait s' w => waitGroup t c w s'
  | _, .done s' f => if f = .next then s' else { s' with grp := { s'.grp with flow := f } }
  | _, .trap tr => { s with grp := { s.grp with trap := some tr } }
  | .first, .wait s' w => { waitGroup t c w s' with grp := { s'.grp with blocked := true } }
  | .second, .wait s' w => { waitGroup t c w s' with grp := { s.grp with blocked := true } }

/-- R57: how a meaning ends. -/
def settle (s : State) (e : Eff) : Host.Outcome State Fault Refusal := .next (settled s e)

/-- A class S cause with EVAL zero. -/
def fail (c : Cause) : Eff := .trap { cause := c }

/-- R256: the sequencing state and privilege restored from the trap registers; at FIRM the registers come back from
the shadow (R353); the firmware core stays there (R251). -/
def restoreSeq (t c : Nat) (s : State) : State :=
  let firm := decide (prv (ctxOf s t c) = 2)
  modCtx t c (fun y =>
    let st := putFld (putFld y.status 0 2 (if t = Config.fwTile then 2 else pprv y)) 4 1 0
    let y := { y with pc := y.epc.toNat, npc := y.enpc.toNat, nnpc := y.ennpc.toNat,
                      n0 := wbit y.eannul 0, n1 := wbit y.eannul 1, dg0 := wbit y.eannul 2, dg1 := wbit y.eannul 3,
                      status := st,
                      afterEret := wbit y.status 7 && decide (wfld y.ecause 32 32 = 0) }
    if firm then
      match y.shadow with
      | [a, b, d, e, f, g, h, i, w] =>
        { y with epc := a, enpc := b, ennpc := d, eannul := e, ecause := f, eval := g, eseq := h, eloop := i,
                 status := putFld w 7 1 (wfld st 7 1), shadow := [] }
      | _ => y
    else y) s

/-- R76: the loop that ELOOP describes, refilled from the body's address, EPC minus 4 × OFF. A word that cannot be fetched
stays missing, and the group that holds it raises its fetch trap when it is reached (R256; log 43). -/
def loopFrom (s : State) (t c : Nat) (e : Word) (epc : Nat) : Option LoopSt :=
  let len := wfld e 22 6 + 1
  let bs := epc - 4 * wfld e 16 6
  if wbit e 31 then
    some { bs := bs, len := len, rem := wfld e 32 32, pass := wfld e 28 3, rotb := wfld e 12 4, rotw := wfld e 10 2,
           stride := wfld e 6 4,
           words := (List.range len).map (fun i => (fetchWord s t c (bs + 4 * i)).getD 0),
           missing := (List.range len).filter fun i => (fetchWord s t c (bs + 4 * i)).isNone }
  else none

end Sys2Proof.Machine
end

