-- ==== Sys2Proof/Machine/Fetch.lean ====
section
/-! DEFINITION. The issue group at an address, the traps that decoding a group raises (R56, R57, R64, R65), the
prefix that applies to a word (R70, R125), and the pending causes of a boundary (R349). -/

namespace Sys2Proof.Machine

/-- R56: an issue group. -/
inductive Group where
  | lone (w : Nat)
  | pair (w v : Nat)
  deriving DecidableEq, Repr

/-- R333: the trap of a fetch outside the image. -/
def fetchTrap (a : Nat) : Trap := { cause := .xlateAbsent, eval := BitVec.ofNat 64 a }

/-- R56: the group at an address. -/
def decodeGroup (s : State) (t c a : Nat) : Except Trap Group :=
  match fetchWord s t c a with
  | none => .error (fetchTrap a)
  | some w =>
    if w / 2 ^ 31 % 2 = 1 then .ok (.lone w)
    else if a % 8 ≠ 0 then .error { cause := .pairAlign }
    else match fetchWord s t c (a + 4) with
      | none => .error (fetchTrap (a + 4))
      | some v =>
        if w / 2 ^ 30 % 2 = 1 ∨ v / 2 ^ 31 % 2 = 1 ∨ v / 2 ^ 30 % 2 = 0 then .error { cause := .slotClass }
        else .ok (.pair w v)

/-- R64: the instruction that a word issues; a pattern that is none issues as such. -/
def wordInstr (w : Nat) : Instr :=
  match decodeWord w with
  | .ok i => i
  | .error _ => .reservedPattern (BitVec.ofNat 32 w)

/-- R64, R65: the rank and cause of a pattern that is no instruction. -/
def rejectCause (w : Nat) : Option (Nat × Cause) :=
  match decodeWord w with
  | .ok _ => none
  | .error .opcodeUndefined => some (3, .opcodeUndefined)
  | .error .fieldReserved => some (4, .fieldReserved)
  | .error .loopRotation => some (5, .loopRotation)
  | .error .truncated => some (3, .opcodeUndefined)

/-- R263, Table 10.2: the level that reading a control register needs. -/
def cregReadLevel : CReg → Nat
  | .epc | .enpc | .ennpc | .eannul | .ecause | .eval | .eseq | .eloop | .handler => 1
  | .status | .mdef | .fpmode | .fpflags | .mxflags | .fmta | .fmtb | .scla | .sclb | .tilexy | .ctxid
  | .lvl0 | .lvl1 | .lvl2 | .lvl3 | .lvl4 | .lvl5 | .lvl6 | .lvl7 | .lvln
  | .spillb | .spillov | .spilllim | .sched | .time | .seqno => 0

/-- R263, Table 10.2: the level that writing a control register needs; 3 for "none", which no context has. -/
def cregWriteLevel : CReg → Nat
  | .mdef | .fpmode | .fpflags | .mxflags | .fmta | .fmtb | .scla | .sclb => 0
  | .status | .epc | .enpc | .ennpc | .eannul | .ecause | .eval | .eseq | .eloop | .handler
  | .spillb | .spillov | .spilllim | .sched => 1
  | .tilexy | .ctxid | .lvl0 | .lvl1 | .lvl2 | .lvl3 | .lvl4 | .lvl5 | .lvl6 | .lvl7 | .lvln | .time | .seqno => 3

/-- R251, R261: the level that an instruction needs. -/
def needLevel : Instr → Nat
  | .eret | .tlbinv _ _ | .mopw _ _ | .zeroPage _ _ _ _ => 1
  | .mfc _ r => cregReadLevel r
  | .mtc _ r => cregWriteLevel r
  | _ => 0

/-- R18, Table 1.3: whether an instruction is issued on the wrong core. -/
def wrongRole (c : Nat) : Instr → Bool
  | .mmul _ _ _ _ _ _ | .mdrain _ _ _ | .mswap _ | .macz _ _ => decide (c < 4)
  | .cpy _ _ _ _ | .cpys _ => decide (4 ≤ c)
  | _ => false

/-- R67: the instructions that a delay group may not hold. -/
def delayForbidden : Instr → Bool
  | .eret | .loop _ _ _ _ _ => true
  | _ => false

/-- Table 5.4: the rows of the table. -/
inductive MemKind where
  | load | store | tileLoad | tileStore | atom | rowact
  deriving DecidableEq, Repr

/-- R71, Table 5.4: the kind of a memory instruction, the C-class majors 0x10 to 0x1C. -/
def memKind : Instr → Option MemKind
  | .ld _ _ _ _ | .ldn _ _ _ _ | .ldx _ _ _ _ _ _ | .vld _ _ _ _ => some .load
  | .st _ _ _ _ | .stx _ _ _ _ _ | .vst _ _ _ _ => some .store
  | .xld _ _ _ _ _ | .xldt _ _ _ _ | .wld _ _ _ _ _ => some .tileLoad
  | .xst _ _ _ _ => some .tileStore
  | .aadd _ _ _ _ | .amin _ _ _ _ | .amax _ _ _ _ | .aminn _ _ _ _ | .amaxn _ _ _ _ | .aand _ _ _ _
  | .aor _ _ _ _ | .axor _ _ _ _ | .aswp _ _ _ _ | .acas _ _ _ _ _ | .afadd _ _ _ _ | .afmin _ _ _ _
  | .afmax _ _ _ _ => some .atom
  | .rowact _ _ => some .rowact
  | _ => none

/-- R70, Table 10.6: the ordering, scope, assertion and policy of a memory instruction: the prefix's, and MDEF's
where a field is left at 0. -/
def prefixOf (s : State) : Pfx :=
  let m := (opCtx s).mdef
  let p := s.grp.pfx.getD {}
  { ord := if p.ord ≠ .dflt then p.ord else
      match Ord.ofCode (wfld m 0 3) with
      | some .dflt | none => .relaxed
      | some o => o,
    scope := if p.scope ≠ .dflt then p.scope else
      match Scope.ofCode (wfld m 3 3) with
      | some .dflt | none => .device
      | some o => o,
    spc := if p.spc ≠ .dflt then p.spc else (Spc.ofCode (wfld m 6 3)).getD .dflt,
    pol := if p.pol ≠ .dflt then p.pol else
      match Pol.ofCode (wfld m 9 3) with
      | some .dflt | none => .keep
      | some o => o }

/-- R125, Table 5.4: whether a kind of memory instruction accepts the values that apply to it. -/
def prefixAccepted (s : State) (k : MemKind) : Bool :=
  let p := prefixOf s
  match k with
  | .load => decide (p.ord = .relaxed) || decide (p.ord = .acquire) || decide (p.ord = .scseq)
  | .store => decide (p.ord = .relaxed) || decide (p.ord = .release) || decide (p.ord = .scseq)
  | .tileLoad => (decide (p.ord = .relaxed) || decide (p.ord = .acquire)) && decide (p.spc ≠ .host)
  | .tileStore => (decide (p.ord = .relaxed) || decide (p.ord = .release)) && decide (p.spc ≠ .host)
  | .atom => true
  | .rowact => decide ((s.grp.pfx.getD {}).ord = .dflt) && decide ((s.grp.pfx.getD {}).scope = .dflt)

/-- R65: the rank and cause of an instruction that its group raises before execution, but for those of its word. -/
def staticCause (s : State) (i : Instr) : Option (Nat × Cause) :=
  if (match memKind i with | some k => !prefixAccepted s k | none => false) then some (4, .fieldReserved)
  else if prv (opCtx s) < needLevel i then some (6, .privilege)
  else if wrongRole s.focusCtx i then some (7, .coreRole)
  else if (opCtx s).dg0 && delayForbidden i then some (8, .delaySlotForbidden)
  else none

/-- R65: the rank and cause of a word. -/
def wordCause (s : State) (w : Nat) : Option (Nat × Cause) :=
  match rejectCause w with
  | some r => some r
  | none => staticCause s (wordInstr w)

/-- What a word writes, as far as R57 compares it: a scalar or a tile-register name. -/
inductive Dest where
  | scalar (n : Fin 16) | tile (n : Fin 16)
  deriving DecidableEq, Repr

/-- R57: the scalar or tile-register name that an instruction writes. No A-class word writes a handle or a control
register, so those never coincide in a pair; the flags that one raises are no destination of it, so MTC FPFLAGS may stand
beside it, and they join what the MTC has written (log 70). -/
def dest : Instr → Option Dest
  | .mfc d _ | .ld d _ _ _ | .ldn d _ _ _ | .ldx d _ _ _ _ _ | .aadd d _ _ _ | .amin d _ _ _ | .amax d _ _ _
  | .aminn d _ _ _ | .amaxn d _ _ _ | .aand d _ _ _ | .aor d _ _ _ | .axor d _ _ _ | .aswp d _ _ _
  | .acas d _ _ _ _ | .afadd d _ _ _ | .afmin d _ _ _ | .afmax d _ _ _ | .fget _ d _ _ | .ftest _ d
  | .barArr d _ _ | .tsem d _ _ | .astest d _ _ _ | .wltake d _ _ _ | .acq d _ | .acqt d _ | .resq d _
  | .add d _ _ | .sub d _ _ | .and_ d _ _ | .or_ d _ _ | .xor d _ _ | .andn d _ _ | .shl d _ _ | .shr d _ _
  | .shra d _ _ | .rotl d _ _ | .min d _ _ | .max d _ _ | .minn d _ _ | .maxn d _ _ | .seq d _ _ | .sne d _ _
  | .slt d _ _ | .sltn d _ _ | .sel d _ _ _ | .clz d _ | .ctz d _ | .popc d _ | .mov d _ | .mul d _ _
  | .mulh d _ _ | .mulhn d _ _ | .div d _ _ | .divn d _ _ | .rem d _ _ | .remn d _ _ | .addi d _ _ | .andi d _ _
  | .ori d _ _ | .xori d _ _ | .shli d _ _ | .shri d _ _ | .shrai d _ _ | .slti d _ _ | .li d _ | .lih d _ _
  | .fadd d _ _ _ | .fsub d _ _ _ | .fmul d _ _ _ | .fdiv d _ _ _ | .fsqrt d _ _ | .fmin d _ _ _ | .fmax d _ _ _
  | .fcmp d _ _ _ _ | .fcvt d _ _ | .fclass d _ _ | .fma d _ _ _ _ _ | .vred d _ _ _ _ | .vvote d _ _ _ _
  | .vext d _ _ _ _ | .mopr _ d => some (.scalar d)
  | .jl _ | .jlr _ => some (.scalar 15)
  | .vld x _ _ _ | .xld x _ _ _ _ | .xldt x _ _ _ | .vadd x _ _ _ _ _ | .vsub x _ _ _ _ _ | .vmul x _ _ _ _ _
  | .vfma x _ _ _ _ _ | .vmin x _ _ _ _ _ | .vmax x _ _ _ _ _ | .vabsd x _ _ _ _ _ | .vand x _ _ _ _ _
  | .vor x _ _ _ _ _ | .vxor x _ _ _ _ _ | .vshl x _ _ _ _ _ | .vshr x _ _ _ _ _ | .vshra x _ _ _ _ _
  | .vceq x _ _ _ _ _ | .vclt x _ _ _ _ _ | .vsel x _ _ _ _ _ | .vcvt x _ _ _ _ _ | .vbcst x _ _ _
  | .vshuf x _ _ _ _ _ | .vmatch x _ _ _ _ | .vins x _ _ _ _ | .vexp2 x _ _ _ _ | .vrcp x _ _ _ _
  | .vrsq x _ _ _ _ | .vcpy x _ _ _ | .xzero x | .xfill x _ | .xcpy x _ | .xtrn x _ | .mdrain _ x _ => some (.tile x)
  | _ => none

/-- R119: the tile-register names that an A-class word reads as sources. -/
def tileSources : Instr → List (Fin 16)
  | .vadd _ a b _ _ _ | .vsub _ a b _ _ _ | .vmul _ a b _ _ _ | .vfma _ a b _ _ _ | .vmin _ a b _ _ _
  | .vmax _ a b _ _ _ | .vabsd _ a b _ _ _ | .vand _ a b _ _ _ | .vor _ a b _ _ _ | .vxor _ a b _ _ _
  | .vshl _ a b _ _ _ | .vshr _ a b _ _ _ | .vshra _ a b _ _ _ | .vceq _ a b _ _ _ | .vclt _ a b _ _ _
  | .vsel _ a b _ _ _ | .vshuf _ a b _ _ _ => [a, b]
  | .vcvt _ a _ _ _ _ | .vred _ a _ _ _ | .vvote _ a _ _ _ | .vmatch _ a _ _ _ | .vext _ a _ _ _
  | .vexp2 _ a _ _ _ | .vrcp _ a _ _ _ | .vrsq _ a _ _ _ | .vcpy _ a _ _ | .xcpy _ a | .xtrn _ a
  | .mmul _ _ a _ _ _ | .mldw _ a => [a]
  | _ => []

/-- R57, R119: the words of a pair that may not stand together. -/
def pairClash (i j : Instr) : Bool :=
  (match dest i, dest j with
   | some (.scalar a), some (.scalar b) => decide (a = b) && decide (a ≠ 0)
   | some (.tile a), some (.tile b) => decide (a = b)
   | _, _ => false) ||
  (match i with
   | .xld x _ _ _ _ | .xldt x _ _ _ => (tileSources j).contains x
   | _ => false)

/-- R57: the cause of the two words of a group together. -/
def pairCause (i j : Instr) : Option (Nat × Cause) := if pairClash i j then some (4, .fieldReserved) else none

/-- R65: the first of several causes: the least rank, and among equals the earliest. -/
def firstCause : List (Option (Nat × Cause)) → Option (Nat × Cause)
  | [] => none
  | none :: r => firstCause r
  | some (n, c) :: r =>
    match firstCause r with
    | some (m, d) => if m < n then some (m, d) else some (n, c)
    | none => some (n, c)

/-- R65: the cause that decoding a group raises. -/
def groupCause (s : State) : Group → List (Option (Nat × Cause))
  | .lone w => [wordCause s w]
  | .pair w v => [wordCause s w, wordCause s v, pairCause (wordInstr w) (wordInstr v)]

/-- The first word of a group. -/
def Group.head : Group → Nat
  | .lone w => w
  | .pair w _ => w

/-- The second word of a group. -/
def Group.tail : Group → Option Nat
  | .lone _ => none
  | .pair _ v => some v

/-- Whether a group is a PFX group. -/
def Group.prefixes (g : Group) : Option Pfx :=
  match wordInstr g.head with
  | .pfx o sc sp po => some { ord := o, scope := sc, spc := sp, pol := po }
  | _ => none

/-- R71: whether a PFX at PC may not prefix the group that follows it. -/
def prefixMisused (s : State) (t c : Nat) (g : Group) : Bool :=
  let y := ctxOf s t c
  (memKind (wordInstr g.head)).isNone || y.dg0 || decide (y.npc ≠ seqAddr s t c y.pc) ||
  (match y.loop with | some l => decide (seqAddr s t c y.pc = l.bs + 4 * l.len) | none => false)

/-- The static check that every meaning makes first, so that a word carried out alone traps as its group does. -/
def static (s : State) (i : Instr) (k : Eff) : Eff :=
  match staticCause s i with
  | some (_, c) => fail c
  | none => k

/-- R349: whether number `a` is older than `b`, modulo 2^32. -/
def olderSeq (a b : W32) : Bool := decide (0 < (b - a).toNat ∧ (b - a).toNat < 2 ^ 31)

/-- R349: the oldest of several pending causes. -/
def oldestPending : List Pending → Option Pending
  | [] => none
  | p :: r =>
    match oldestPending r with
    | some q => if olderSeq q.seq p.seq then some q else some p
    | none => some p

/-- R135, R349: whether a pending cause can be taken now. The cause of a stopped move is not, while the context stands at a BAR.AW
that has made its arrival (R227), or at a CPYS with entries still to release, whose EVAL it would take (log 38). -/
def takeable (stopped : Bool) (y : Ctx) (p : Pending) : Bool :=
  (decide (p.cause = .rowRepair) || decide (p.cause.cls = .x) || !exl y) && !(stopped && decide (p.mword ≠ 0))

/-- R247, R418: a blocked group whose condition has come to hold completes before anything is taken. -/
def answerHeld (y : Ctx) : Bool :=
  y.acqRes.isSome || y.cpysDone || (match y.wl with | some w => w.applied | none => false)

/-- R349: the pending cause that a boundary takes, with the state after its entry. The phase that a BAR.AW joins must
have returned before anything stops it (R227). -/
def takePending (t c : Nat) (s : State) : Option State :=
  let y := ctxOf s t c
  if answerHeld y || y.after.isSome || s.barArr.any (fun b => b.aw && decide (b.tile = t) && decide (b.ctx = c)) then none
  else match oldestPending (y.pend.filter (takeable (stoppedGroup s t c).isSome y)) with
    | some p =>
      let s := modCtx t c (fun y => { y with pend := y.pend.erase p }) s
      some (enterCause t c { cause := p.cause, eval := p.eval, seq := p.seq, late := true } p.mword s)
    | none =>
      if y.timerPend && !exl y && ie y then
        some (enterCause t c { cause := .timer } 0 (modCtx t c (fun y => { y with timerPend := false }) s))
      else none

/-- Table 19.2: the cause with a code below 64. -/
def Cause.ofCode (k : Nat) : Cause := Cause.ofNat (k % 64)

/-- R412: a logged cause is delivered, whether or not it recurs; a recurrence at the same boundary goes with it. -/
def deliverLogged (t c n w v : Nat) (s : State) : State :=
  let y := ctxOf s t c
  let k := Cause.ofCode (w / 2 ^ 8 % 64)
  let more := readMem s (logPa s t (n + 1)) 8
  let x := if more % 16 = 9 ∧ more / 2 ^ 4 % 8 = c then readMem s (logPa s t (n + 1) + 8) 8 else 0
  let same := y.pend.find? fun p => decide (p.cause = k) && decide (p.seq = BitVec.ofNat 32 x)
  enterCause t c { cause := k, arg := x / 2 ^ 32 % 64, eval := BitVec.ofNat 64 v, seq := BitVec.ofNat 32 x, late := same.isSome }
    ((same.map fun p => p.mword).getD 0)
    (modCtx t c (fun y => { y with pend := match same with | some p => y.pend.erase p | none => y.pend }) s)

/-- R412, R413: what a replaying context does at a boundary before its group: a logged cause is delivered, a
logged result that the groups so far did not take is a divergence. -/
def replayBoundary (t c : Nat) (s : State) : Option State :=
  if replaying s t then
    match logPeek s t c with
    | some (n, w, v) =>
      if w / 2 ^ 16 ≤ (ctxOf s t c).retired then
        some (if w % 16 = 8 then deliverLogged t c n w v s else diverge t c s)
      else none
    | none => none
  else none

/-- R411: the kind and code of the log entry that an instruction makes when it retires. -/
def loggedKind : Instr → Option (Nat × Nat)
  | .wltake .. => some (3, 0)
  | .acqt .. => some (4, 0)
  | .ftest .. => some (5, 0x26)
  | .barArr .. => some (5, 0x28)
  | .tsem .. => some (5, 0x29)
  | .astest .. => some (5, 0x2A)
  | .mfc _ .time => some (6, 0)
  | _ => none

/-- R413: whether a replaying context is about to execute, as its `n`-th group, words that make no entry of the kind that its log names
next for that count. -/
def strays (t c n : Nat) (l : List Nat) (s : State) : Bool :=
  replaying s t &&
  match logPeek s t c with
  | some (_, w, _) => decide (w / 2 ^ 16 = n) && decide (w % 16 ≠ 8) &&
      !l.any fun v => loggedKind (wordInstr v) = some (w % 16, w / 2 ^ 8 % 256)
  | none => false

/-- R395: the comparators that match the group at PC, as bits 0 and 1. -/
def breakHits (y : Ctx) : Nat :=
  (List.range 2).foldl (fun m i =>
    let w := Sparse.get 0 y.dbg (8 * i)
    if wbit w 0 ∧ wfld w 2 50 * 4 = y.pc ∧ y.suppress / 2 ^ i % 2 = 0 then m + 2 ^ i else m) 0

/-- R395, R398: a breakpoint comparator stops the group at PC. -/
def stopAtBreak (t c hits : Nat) (s : State) : State :=
  let s := if hits % 2 = 1 then setDhit t c 0 s else s
  let s := if hits / 2 = 1 then setDhit t c 1 s else s
  let s := takeBreakpoint t c 0 2 s
  if (ctxOf s t c).debugHalt then modCtx t c (fun y => { y with suppress := hits }) s else s

end Sys2Proof.Machine
end

