-- ==== Sys2Proof/Machine/Operands.lean ====
section
/-! DEFINITION. The operand forms: scalars, rows and addresses as a group reads them, with the waits and traps
that reading raises; and the issue of one memory access (R81, R103 to R116, R137, R160, R415). -/

namespace Sys2Proof.Machine

/-- R59: a field of `n` bits as a two's-complement number. -/
def sext (n v : Nat) : Int := if v ≥ 2 ^ (n - 1) then (v : Int) - 2 ^ n else v

/-- An integer as a 64-bit word. -/
def wordOf (v : Int) : Word := BitVec.ofInt 64 v

/-- The low `8 n` bits of a value read as two's complement (R113). -/
def sextBytes (n v : Nat) : Word := BitVec.ofInt 64 (sext (8 * n) v)

/-- R59: bytes of an access size. -/
def sizeBytes : Size → Nat
  | .b => 1 | .h => 2 | .w => 4 | .d => 8

/-- R123: bytes of an atomic. -/
def asizeBytes : ASize → Nat
  | .w => 4 | .d => 8

/-- R115, R229: an outstanding result for a scalar. -/
def awaited (y : Ctx) (r : Nat) : Option Acc :=
  if r = 0 then none
  else y.accs.find? fun a =>
    (decide (a.kind = .load) || decide (a.kind = .atomic) || decide (a.kind = .phase)) && decide (a.dest = r)

/-- R111: whether an access writes memory. -/
def accWrites (a : Acc) : Bool := decide (a.kind = .store) || decide (a.kind = .rowStore) || decide (a.kind = .atomic)

/-- R299, R415: how a group waits for an outstanding access; one that waits for a write which HOLD holds back is
itself the access stalled by HOLD. -/
def resultWait (x : Tile) (a : Acc) : Wait :=
  if a.home = .ownScratch then .scoreboard
  else if a.home = .ownVault ∧ accWrites a ∧ ¬a.served ∧ x.vault.hold ≠ .active then .hold a.va
  else .offcore

/-- R81, R299: the wait for the first of several scalars that is not ready. -/
def scalarWait (x : Tile) (y : Ctx) : List (Fin 16) → Option Wait
  | [] => none
  | r :: l => match awaited y r.val with
    | some a => some (resultWait x a)
    | none => scalarWait x y l

/-- R81: a group goes on once the scalars that it reads and writes are ready. -/
def ready (s : State) (l : List (Fin 16)) (k : Eff) : Eff :=
  match scalarWait (opTile s) (opCtx s) l with
  | some w => .wait s w
  | none => k

/-- R83, R222: whether any of several scalars is poisoned. -/
def anyPoison (s : State) (l : List (Fin 16)) : Bool := l.any fun r => (rdS s r).poison

/-- R356: a poisoned operand that selects state ends the task. -/
def unpoisoned (s : State) (l : List (Fin 16)) (k : Eff) : Eff :=
  if anyPoison s l then fail .poisonConsumed else k

/-- R119: whether a tile load still has to land row `k` of a physical register; all rows of an XLDT land together. -/
def moveOwes (m : Move) (p k : Nat) : Bool :=
  decide (m.reg = p) &&
  match m.op with
  | .xld => decide (m.next ≤ k)
  | .xldt => true
  | .xst | .wld => false

/-- R117: whether an XST still has to read row `k` of a physical register. -/
def moveReads (m : Move) (p k : Nat) : Bool :=
  decide (m.op = .xst) && decide (m.reg = p) && decide (m.next ≤ k)

/-- R160: whether a queued matrix operation has still to read row `k` of a physical register. -/
def matReads (o : MatOp) (p k : Nat) : Bool :=
  !o.started && decide (o.reg = p) &&
  match o.kind with
  | .mmul => decide (o.first ≤ k) && decide (k < o.first + o.nrow)
  | .mldw => true
  | .mdrain | .mswap | .macz | .msave | .mrest => false

/-- R119, R137, R160, R299: the wait for row `k` of physical register `p` by a group of context `c`: off-core for a row of an
own-vault tile load, a scoreboard stall for any other (log 47). -/
def rowWait (x : Tile) (c p k : Nat) (write : Bool) : Option Wait :=
  let y := ctxIn x c
  match x.moves.find? (fun m => decide (m.ctx = c) && moveOwes m p k) with
  | some m => some (if m.vault then .offcore else .scoreboard)
  | none =>
    if write && x.moves.any (fun m => decide (m.ctx = c) && moveReads m p k) then some .scoreboard else
    match y.accs.find? (fun a => decide (a.kind = .rowLoad) && decide (a.dest = p) && decide (a.row = k)) with
    | some a => some (resultWait x a)
    | none =>
      if stoppedOwes y p k write ||
          x.matq.any (fun o => decide (o.ctx = c) && decide (o.kind = .mdrain) && decide (o.reg = p)) ||
          (write && x.matq.any fun o => matReads o p k) then
        some .scoreboard
      else none

/-- The first of several waits. -/
def firstWait : List (Option Wait) → Option Wait
  | [] => none
  | some w :: _ => some w
  | none :: r => firstWait r

/-- R137: a group goes on once the rows it reads and the rows it writes are ready. -/
def readyRows (s : State) (reads writes : List (Nat × Nat)) (k : Eff) : Eff :=
  let x := opTile s
  match firstWait (reads.map (fun pk => rowWait x s.focusCtx pk.1 pk.2 false) ++
      writes.map fun pk => rowWait x s.focusCtx pk.1 pk.2 true) with
  | some w => .wait s w
  | none => k

/-- R136: a tile name that must be bound. -/
def withName (s : State) (f : Fin 16) (k : Nat → Eff) : Eff :=
  match nameOf s f with
  | some p => k p
  | none => fail .regUnbound

/-- R273: an access whose value or effect at its home is still to come. -/
def unperformed (a : Acc) : Bool := !a.served && decide (a.kind ≠ .phase)

/-- R273: how a group waits for one of several accesses. -/
def accWait (x : Tile) (l : List Acc) (ms : List Move) : Option Wait :=
  match l with
  | a :: r =>
    match (a :: r).find? (fun b => decide (resultWait x b = .hold b.va)) with
    | some b => some (.hold b.va)
    | none => some (resultWait x a)
  | [] => match ms with
    | m :: _ => some (if m.vault then .offcore else .scoreboard)
    | [] => none

/-- R299: a wait for earlier accesses that is not on R299's list of off-core waits: the context stays ready. -/
def inPlace : Wait → Wait
  | .offcore => .scoreboard
  | .hold va => .holdHere va
  | w => w

/-- R126, R273: any release issues the context's merged host write. -/
def issueMerged (y : Ctx) : Ctx :=
  let g := ((y.accs.find? fun a => a.held).map fun a => a.id).getD 0
  { y with wcBlock := none, accs := y.accs.map fun a => if a.held then { a with held := false, mrg := g } else a }

/-- The acting context's tile moves. -/
def curMoves (s : State) : List Move := (curTile s).moves.filter fun m => decide (m.ctx = s.focusCtx)

/-- R169, R175: whether a matrix operation has still to read memory: an MREST its image, an MMUL its scale arrays. -/
def matLoads (o : MatOp) : Bool :=
  !o.started && (decide (o.kind = .mrest) || (decide (o.kind = .mmul) && (o.arrA.isSome || o.arrB.isSome)))

/-- R169, R175, R276: whether one of the context's matrix operations still reads memory. -/
def imageLoads (s : State) : Bool := (curTile s).matq.any fun o => decide (o.ctx = s.focusCtx) && matLoads o

/-- R169, R175, R276: whether one of the context's matrix operations still reads or writes memory. -/
def imageBusy (s : State) : Bool :=
  (curTile s).matq.any fun o => decide (o.ctx = s.focusCtx) && (decide (o.kind = .msave) || matLoads o)

/-- R273, R276, R283: a release goes on once every earlier access of the context is performed. -/
def released (s : State) (k : State → Eff) : Eff :=
  let s := modCur issueMerged s
  match accWait (curTile s) ((cur s).accs.filter unperformed) (curMoves s) with
  | some w => .wait s (inPlace w)
  | none => if imageBusy s then .wait s .scoreboard else k s

/-- The acting context's tile moves as they stood before the group. -/
def opMoves (s : State) : List Move := (opTile s).moves.filter fun m => decide (m.ctx = s.focusCtx)

/-- R273: no access is performed before an earlier acquire of the context. What an A-class word asks of the C-class word
of its own group its operation carries with it (R268). -/
def acquired (s : State) (k : Eff) : Eff :=
  match accWait (curTile s) ((opCtx s).accs.filter fun a => unperformed a && acquires a.ord)
      ((opMoves s).filter fun m => m.acq) with
  | some w => .wait s (inPlace w)
  | none => k

/-- R273: the waits that the ordering of an access asks for. -/
def ordered (s : State) (o : Ord) (k : State → Eff) : Eff :=
  acquired s (if releases o then released s k else k s)

/-- R133, R134, R318: an own-vault read at issue: it waits in HOLD and while a repair is in progress, and it takes
ROW_REPAIR at a flagged row. -/
def vaultRead (s : State) (va : Word) (off : Nat) (k : Eff) : Eff :=
  let v := (curTile s).vault
  let n := rowNumber off
  if v.hold ≠ .active then .wait s (.holdHere va.toNat)
  else if v.flagged.contains n then
    (if v.repairing.contains n then .wait s .scoreboard else .trap { addrTrap .rowRepair va with row := some n })
  else k

/-- R342: a host access goes on when the translation cache holds its page with the permission that it needs; a read that
the host answers with an error, or an access while the link is down, traps. -/
def hostReady (s : State) (va : Word) (pa : Nat) (write : Bool) (k : Eff) : Eff :=
  if (cur s).priFail then .trap (addrTrap .xlateAbsent va)
  else if !s.mgmt.link then .trap (addrTrap .hostAbort va)
  else if !hostAllows s pa write then .wait (requestPage (hostPage pa) s) (.pri (hostPage pa))
  else if hostErrs s pa write then .trap (addrTrap .hostAbort va)
  else k

/-- R403, R404: what an access of context `c` to its own vault counts when it takes its bank, for the group that made it: 7 every access,
8 a row hit, 9 a conflict. -/
def countVault (t c off : Nat) (g : Site) (seq : W32) (s : State) : State :=
  let old := Sparse.get none (tileOf s t).vault.openRow (bankOf (rowNumber off))
  let s := countAt t c 7 1 g.lvl g seq s
  match old with
  | some r => countAt t c (if r = rowNumber off then 8 else 9) 1 g.lvl g seq s
  | none => s

/-- R126, R129, R403: an access of a context to `n` bytes of its own vault takes its bank. -/
def useBank (t c off n : Nat) (pol : Pol) (g : Site) (seq : W32) (s : State) : State :=
  touchBank t off n pol (countVault t c off g seq s)

/-- R126: a host store with write-combining joins or opens the merged block; it holds back until the block fills. -/
def combine (a : Acc) (y : Ctx) : Ctx :=
  if a.kind = .store ∨ a.kind = .rowStore then
    if a.home = .host then
      let y := if y.wcBlock = some (a.pa / 64) then y else issueMerged y
      if a.pol = .wcomb then
        let l := y.accs ++ [{ a with held := true }]
        let full := (List.range 64).all fun i => l.any fun b =>
          b.held && decide (b.pa ≤ a.pa / 64 * 64 + i) && decide (a.pa / 64 * 64 + i < b.pa + b.size)
        let y := { y with accs := l, wcBlock := some (a.pa / 64) }
        if full then issueMerged y else y
      else { y with accs := y.accs ++ [a] }
    else { y with accs := y.accs ++ [a] }
  else { y with accs := y.accs ++ [a] }

/-- R343, R341, R396, R403: an access leaves its group; it opens its row when it is performed. -/
def sendAcc (a : Acc) (r : Resolved) (s : State) : State :=
  let t := s.focusTile
  let c := s.focusCtx
  let (n, s) := freshId s
  let a := { a with id := n, pa := r.pa, home := homeOf t r, since := s.time, site := siteOf (cur s),
                    cnt := (cur s).retired + 1, seq := (cur s).seqLast, sight := sightAt s t c a.ord a.scope }
  let s := match r.entry with | some e => fillTlb (.core (coreIx c)) t e s | none => s
  let s := sendAccess r a.va t (tileOf s t).part s
  let s := if a.home = .remScratch ∧ (a.kind = .load ∨ a.kind = .rowLoad) then countEvent t c 11 1 s
    else if a.home = .host ∧ (a.kind = .load ∨ a.kind = .rowLoad) then countEvent t c 12 1 s
    else s
  let touch := match a.kind with
    | .load | .rowLoad => [(a.va, a.size, false)]
    | .store | .rowStore => [(a.va, a.size, true)]
    | .atomic => [(a.va, a.size, false), (a.va, a.size, true)]
    | .phase => []
  let s := if accWrites a ∧ a.home ≠ .ownScratch ∧ a.home ≠ .ownVault then notePrint t c 10 (a.va + a.data.toNat * 2 ^ 64) (a.va + a.data.toNat * 2 ^ 64) s else s
  modCur (combine a) { s with grp := { s.grp with touch := s.grp.touch ++ touch } }

/-- The access class of Table 5.1 that an access belongs to. -/
def accClass (a : Acc) : AccessClass :=
  match a.kind with
  | .rowLoad | .rowStore => .row
  | .atomic => .atom
  | .load | .store | .phase => .scalar a.size

/-- R135: whether an access overlaps a segment that a stopped move has not completed. -/
def overlapsStopped (y : Ctx) (va size : Nat) : Bool :=
  match stoppedMove y with
  | none => false
  | some (w, a, n) =>
    let pitch := if w / 2 ^ 24 % 64 = 0x19 then 64 else 64 * 2 ^ (w / 2 ^ 12 % 8)
    (List.range (16 - n)).any fun k => decide (va < a + k * pitch + 64) && decide (a + k * pitch < va + size)

/-- R115: whether two byte ranges meet. -/
def meets (a n b m : Nat) : Bool := decide (a < b + m) && decide (b < a + n)

/-- R117: whether a move writes memory. -/
def MoveOp.writes : MoveOp → Bool
  | .xst => true
  | .xld | .xldt | .wld => false

/-- R117, R120: the segments that a move has still to read or write. -/
def movePending (m : Move) : List Nat := m.pas.drop m.next

/-- R135: whether a range overlaps what an own-vault move of the acting context, which may yet stop, has still to move. -/
def moveMeets (s : State) (write : Bool) (pa n : Nat) : Bool :=
  (curMoves s).any fun m => m.vault && (m.op.writes || write) && (movePending m).any fun p => meets p 64 pa n

/-- R415: the own-vault writes of a context still to be performed that a range overlaps. -/
def overlapped (y : Ctx) (pa n : Nat) : List Acc :=
  y.accs.filter fun b => decide (b.home = .ownVault) && accWrites b && !b.served && meets b.pa b.size pa n

/-- R109, R111, R112, R133, R342, R415: one scalar, row or atomic access, from the poison of its address on. -/
def doAccess (s : State) (addrPoison : Bool) (a : Acc) : Eff :=
  let p := prefixOf s
  let a := { a with ord := p.ord, scope := p.scope, pol := p.pol }
  let va : Word := BitVec.ofNat 64 a.va
  if addrPoison then fail .poisonConsumed
  else match checkAccess s (curView s) (.core (coreIx s.focusCtx)) va a.size a.size (accWrites a) p.spc (accClass a) with
    | .error tr => .trap tr
    | .ok r =>
      if accWrites a ∧ a.poison ∧ r.tgt = .host then fail .poisonConsumed
      else if accWrites a ∧ r.wb then .wait s (.writeBlock a.va)
      else if overlapsStopped (opCtx s) a.va a.size then .wait s .scoreboard
      else if moveMeets s (accWrites a) r.pa a.size then .wait s .scoreboard
      else
        let go : Eff := ordered s p.ord fun s => .done (sendAcc a r s) .next
        if r.tgt = .host then hostReady s va r.pa (accWrites a) go
        else if r.tgt = .vault ∧ a.kind ≠ .store ∧ a.kind ≠ .rowStore ∧ (overlapped (cur s) r.pa a.size).isEmpty = false then
          .wait s (inPlace ((accWait (curTile s) (overlapped (cur s) r.pa a.size) []).getD .scoreboard))
        else if r.tgt = .vault ∧ ¬accWrites a then vaultRead s va (paOff r.pa) go
        else go

/-- R113: a scalar load. -/
def doLoad (s : State) (i : Instr) (d : Fin 16) (addrs : List (Fin 16)) (va : Word) (size : Nat) (sx : Bool) : Eff :=
  static s i <| ready s (d :: addrs) <|
    doAccess s (anyPoison s addrs) { kind := .load, va := va.toNat, size := size, dest := d.val, sext := sx }

/-- R113: a scalar store. -/
def doStore (s : State) (i : Instr) (d : Fin 16) (addrs : List (Fin 16)) (va : Word) (size : Nat) : Eff :=
  static s i <| ready s (d :: addrs) <|
    doAccess s (anyPoison s addrs)
      { kind := .store, va := va.toNat, size := size, data := BitVec.ofNat 512 ((rdS s d).val.toNat % 2 ^ (8 * size)),
        poison := (rdS s d).poison }

/-- R59, R113: the address s[A] + DISP14 × 2^SZ. -/
def dispAddr (s : State) (a : Fin 16) (z : Size) (i : Fin 16384) : Word :=
  (rdS s a).val + wordOf (sext 14 i.val * sizeBytes z)

/-- R59, R116, R117: the address s[BASE] + 64 × DISP12. -/
def rowAddr (s : State) (b : Fin 16) (d : Fin 4096) : Word := (rdS s b).val + wordOf (sext 12 d.val * 64)

/-- R114: the address s[A] + s[B], scaled by the size with SC. -/
def indexAddr (s : State) (a b : Fin 16) (x : Bool) (z : Size) : Word :=
  (rdS s a).val + (rdS s b).val * (if x then BitVec.ofNat 64 (sizeBytes z) else 1)

end Sys2Proof.Machine
end

