-- ==== Sys2Proof/Machine/Moves.lean ====
section
/-! DEFINITION. Tile moves: XLD, XST, XLDT and WLD, their segments, and what stops them part-way (R117 to R121,
R135). -/

namespace Sys2Proof.Machine

/-- R117: a tile move as its word describes it; `n0` is 0, or the resume count of R135. -/
structure MoveReq where
  op : MoveOp
  word : Nat
  va : Nat
  pitch : Nat
  n0 : Nat
  reg : Nat
  scl : Bool
  half : Bool
  seq : Option W32
  deriving DecidableEq, Repr

/-- R117: the address of segment `k`. -/
def segVa (va pitch k : Nat) : Nat := (va + k * pitch) % 2 ^ 64

/-- R117: every segment checked under R109, all of one target type. -/
def checkSegs (s : State) (v : View) (via : Via) (write : Bool) (spc : Spc) (va pitch : Nat) :
    List Nat → Option Target → Except Trap (List Resolved)
  | [], _ => .ok []
  | k :: r, first =>
    let a : Word := BitVec.ofNat 64 (segVa va pitch k)
    match checkAccess s v via a 64 64 write spc .tile with
    | .error tr => .error tr
    | .ok x =>
      if first.isSome ∧ first ≠ some x.tgt then .error (addrTrap .targetForbidden a)
      else match checkSegs s v via write spc va pitch r (some x.tgt) with
        | .error tr => .error tr
        | .ok l => .ok (x :: l)

/-- R118: the address of the scale array of a load. -/
def scaleAddr (y : Ctx) (op : MoveOp) : Word := if op = .wld then y.sclb else y.scla

/-- R118: the scale array of a load checked for its own address. -/
def checkScale (s : State) (v : View) (via : Via) (y : Ctx) (q : MoveReq) : Except Trap (Option Nat) :=
  if q.scl then
    match checkAccess s v via (scaleAddr y q.op) 32 32 false .dflt .tile with
    | .error tr => .error tr
    | .ok r => .ok (some r.pa)
  else .ok none

/-- The TLBs filled by the translations of several accesses (R341). -/
def fillAll (via : Via) (t : Nat) (l : List Resolved) (s : State) : State :=
  l.foldl (fun s r => match r.entry with | some e => fillTlb via t e s | none => s) s

/-- R134, R396: whether a move is a tile load that can trap part-way: the segments that it has completed are watched at its end. -/
def stopsPartWay (m : Move) : Bool := m.vault && decide (m.op ≠ .xst)

/-- R117, R118: a checked move joins the tile's moves; a tile load takes a number and is traced, an XST is not. A stopped
move that an ERET completes keeps the place of its group among the operations of the tile (R137, R160, R171, R172). -/
def addMove (q : MoveReq) (l : List Resolved) (scl : Option Nat) (ord : Ord) (s : State) : State :=
  let t := s.focusTile
  let c := s.focusCtx
  let src := if q.op = MoveOp.xst then (Sparse.get {} (opTile s).xregs q.reg).rows else []
  let (n, s) := match q.seq with
    | some n => (n, s)
    | none => if q.op = MoveOp.xst then (0, s) else takeSeqCur s
  let (id, s) := freshId s
  let order := match q.seq, (cur s).stopOrder with
    | some k, some (w, n', o) => if w = q.word ∧ n' = k then o else id
    | _, _ => id
  let s := fillAll (.core (coreIx c)) t l s
  let s := if q.seq.isNone ∧ q.op ≠ MoveOp.xst then monitor t c 4 (q.word / 2 ^ 24 % 64) (cur s).pc 0 n s else s
  let m : Move :=
    { id := id, ctx := c, op := q.op, word := q.word, va := q.va, pitch := q.pitch,
      pas := List.replicate q.n0 0 ++ l.map fun r => r.pa, next := q.n0, seq := n, reg := q.reg, scl := scl,
      half := q.half, vault := l.any fun r => decide (r.tgt = .vault), order := order, acq := acquires ord, ord := ord,
      scope := (prefixOf s).scope, sight := sightAt s t c ord (prefixOf s).scope, pol := (prefixOf s).pol,
      resumed := q.seq.isSome, first := q.n0, site := s.grp.eret.getD (siteOf (cur s)), src := src }
  let touch := ((List.range 16).drop q.n0).map fun k => (segVa q.va q.pitch k, 64, q.op.writes)
  let s := if q.op = MoveOp.xst then touchReg q.reg s else s
  let touch := if stopsPartWay m then [] else touch
  let load := if stopsPartWay m then some m.id else s.grp.load
  modTile t (fun x => { x with moves := x.moves ++ [m] }) { s with grp := { s.grp with touch := s.grp.touch ++ touch, load := load } }

/-- R109, R112, R117, R118, R135: a move issues, as context `y` with view `v`. -/
def launchMove (s : State) (v : View) (y : Ctx) (q : MoveReq) (k : State → Eff) : Eff :=
  let p := prefixOf s
  let via := Via.core (coreIx s.focusCtx)
  match checkSegs s v via q.op.writes p.spc q.va q.pitch ((List.range 16).drop q.n0) none with
  | .error tr => .trap tr
  | .ok l =>
    match checkScale s v via y q with
    | .error tr => .trap tr
    | .ok scl =>
      if q.op.writes ∧ l.any (fun r => r.wb) then .wait s (.writeBlock (segVa q.va q.pitch (q.n0 + l.findIdx fun r => r.wb)))
      else if l.any (fun r => decide (r.tgt = .vault)) ∧
          ((curMoves s).any (fun m => m.vault) ∨ (q.seq.isNone ∧ (stoppedMove (opCtx s)).isSome)) then
        .wait s .offcore
      else if q.seq.isNone ∧ (List.range 16).any (fun k => overlapsStopped (opCtx s) (segVa q.va q.pitch k) 64) then
        .wait s .scoreboard
      else ordered s p.ord fun s => k (addMove q l scl p.ord s)

/-- All 16 rows of a physical register. -/
def allRows (p : Nat) : List (Nat × Nat) := (List.range 16).map fun k => (p, k)

/-- R135: the word of the acting group with its own L bit, for an instruction with rotation applied. -/
def moveWord (s : State) (i : Instr) : Nat :=
  (encode i).getD 0 + (if s.grp.half = .lone then 2 ^ 31 else s.grp.word / 2 ^ 31 % 2 * 2 ^ 31)

/-- R75: a tile name as rotation leaves it. -/
def rotated (s : State) (x : Fin 16) : Fin 16 := Fin.ofNat 16 (rotate (opCtx s) x.val)

/-- R117, R120: a tile load into a bound register. -/
def doTileLoad (s : State) (i : Instr) (x b : Fin 16) (q : Nat → MoveReq) : Eff :=
  static s i <| ready s [b] <| withName s x fun p =>
    readyRows s [] (allRows p) <| unpoisoned s [b] <|
      launchMove s (curView s) (opCtx s) (q p) fun s => .done s .next

/-- R117: XLD. -/
def doXld (x b : Fin 16) (c : Bool) (p : Fin 8) (d : Fin 4096) (s : State) : Eff :=
  doTileLoad s (.xld x b c p d) x b fun reg =>
    { op := .xld, word := moveWord s (.xld (rotated s x) b c p d), va := (rowAddr s b d).toNat,
      pitch := 64 * 2 ^ p.val, n0 := 0, reg := reg, scl := c, half := false, seq := none }

/-- R117: the instruction. -/
def execXld (x b : Fin 16) (c : Bool) (p : Fin 8) (d : Fin 4096) (s : State) : Host.Outcome State Fault Refusal :=
  settle s (doXld x b c p d s)

/-- R120: XLDT. -/
def doXldt (x b : Fin 16) (w : XldtW) (d : Fin 4096) (s : State) : Eff :=
  doTileLoad s (.xldt x b w d) x b fun reg =>
    { op := .xldt, word := moveWord s (.xldt (rotated s x) b w d), va := (rowAddr s b d).toNat,
      pitch := 64, n0 := 0, reg := reg, scl := false, half := decide (w = .half), seq := none }

/-- R120: the instruction. -/
def execXldt (x b : Fin 16) (w : XldtW) (d : Fin 4096) (s : State) : Host.Outcome State Fault Refusal :=
  settle s (doXldt x b w d s)

/-- R117: XST. -/
def doXst (x b : Fin 16) (p : Fin 8) (d : Fin 4096) (s : State) : Eff :=
  static s (.xst x b p d) <| ready s [b] <| withName s x fun reg =>
    readyRows s (allRows reg) [] <| unpoisoned s [b] <|
      launchMove s (curView s) (opCtx s)
        { op := .xst, word := moveWord s (.xst (rotated s x) b p d), va := (rowAddr s b d).toNat,
          pitch := 64 * 2 ^ p.val, n0 := 0, reg := reg, scl := false, half := false, seq := none }
        fun s => .done s .next

/-- R117: the instruction. -/
def execXst (x b : Fin 16) (p : Fin 8) (d : Fin 4096) (s : State) : Host.Outcome State Fault Refusal :=
  settle s (doXst x b p d s)

/-- R135: a group that fills or reads the shadow plane of a slot stalls while a WLD of its context into that plane stands
stopped. -/
def fillReady (s : State) (j : Nat) (k : Eff) : Eff := if stoppedFill (opCtx s) = some j then .wait s .scoreboard else k

/-- R121: WLD. -/
def doWld (j : Fin 4) (b : Fin 16) (c : Bool) (p : Fin 8) (d : Fin 4096) (s : State) : Eff :=
  static s (.wld j b c p d) <| ready s [b] <|
    if !holdsSlot (opTile s) s.focusCtx j.val then fail .slotNotHeld
    else fillReady s j.val <| unpoisoned s [b] <|
      launchMove s (curView s) (opCtx s)
        { op := .wld, word := moveWord s (.wld j b c p d), va := (rowAddr s b d).toNat,
          pitch := 64 * 2 ^ p.val, n0 := 0, reg := j.val, scl := c, half := false, seq := none }
        fun s => .done s .next

/-- R121: the instruction. -/
def execWld (j : Fin 4) (b : Fin 16) (c : Bool) (p : Fin 8) (d : Fin 4096) (s : State) :
    Host.Outcome State Fault Refusal := settle s (doWld j b c p d s)

/-- R135: the move that MWORD, EVAL and ESEQ describe, carried out by an ERET: `y` is the context as the ERET
leaves it, `v` its view; `mw`, `ev` and `n` are the values at the ERET. An XLDT has no row complete before all of its
source is read, so it reads all 16 segments whatever segment number EVAL holds (log 59). -/
def resumeMove (s : State) (v : View) (y : Ctx) (mw : Nat) (ev : Word) (n : W32) (k : State → Eff) : Eff :=
  let n0 := ev.toNat % 16
  let base (pitch : Nat) : Nat := (ev.toNat / 64 % 2 ^ 46 * 64 + 2 ^ 64 - n0 * pitch) % 2 ^ 64
  let go (op : MoveOp) (reg pitch : Nat) (scl half : Bool) : Eff :=
    launchMove s v y { op := op, word := mw, va := base pitch, pitch := pitch, n0 := if op = .xldt then 0 else n0, reg := reg, scl := scl,
                       half := half, seq := some n } k
  let named (f : Fin 16) (g : Nat → Eff) : Eff :=
    match physOf y f.val with
    | some p => g p
    | none => fail .regUnbound
  match decodeWord mw with
  | .ok (.xld x _ c p _) => named x fun r => go .xld r (64 * 2 ^ p.val) c false
  | .ok (.xldt x _ w _) => named x fun r => go .xldt r 64 false (decide (w = .half))
  | .ok (.xst x _ p _) => named x fun r => go .xst r (64 * 2 ^ p.val) false false
  | .ok (.wld j _ c p _) =>
    if holdsSlot (curTile s) s.focusCtx j.val then go .wld j.val (64 * 2 ^ p.val) c false else fail .slotNotHeld
  | _ => fail .fieldReserved

/-- R168: the data stamp of a load of a context. -/
def stampOf (c : Nat) (n : W32) : W32 := BitVec.ofNat 32 (n.toNat % 2 ^ 31 + coreIx c * 2 ^ 31)

/-- R120: destination row `i` of the transpose of 16 source segments. -/
def transposeRow (half : Bool) (src : List Row) (i : Nat) : BitVec 512 :=
  let w := if half then 16 else 8
  let all := src.foldr (fun r n => r.bits.toNat + 2 ^ 512 * n) 0
  BitVec.ofNat 512 ((List.range (512 / w)).foldr (fun j n => all / 2 ^ (w * (16 * j + i)) % 2 ^ w + 2 ^ w * n) 0)

/-- One row put into a register with a stamp left as it is. -/
def landRow (p k : Nat) (r : Row) (now : Nat) (x : Tile) : Tile :=
  { x with xregs := Sparse.modify {} p (fun g =>
      { g with rows := Sparse.set k r g.rows, lastUse := now, drowsy := false }) x.xregs }

/-- R118: the scale record of a load, read once as 32 bytes. -/
def pushRecord (t : Nat) (m : Move) (s : State) : Option ScaleRec × State :=
  match m.scl with
  | none => (none, s)
  | some pa =>
    let s := if paRegion pa = 0 ∧ paTile pa = t then useBank t m.ctx (paOff pa) 32 m.pol m.site m.seq s else s
    let s := noteRead t m.ctx pa 32 (checkSegment pa s)
    let (v, s) := ctxRead t m.ctx m.id m.sight m.ord m.scope pa 32 s
    (some { bits := BitVec.ofNat 256 v.1, stamp := stampOf m.ctx m.seq, poison := v.2 }, s)

/-- R396: the segments that an own-vault tile load has completed, those before segment `upto`, are what its group has touched. -/
def watchMove (t : Nat) (m : Move) (upto : Nat) (s : State) : State :=
  let l := (((List.range 16).drop m.first).filter fun k => decide (k < upto)).map fun k => (segVa m.va m.pitch k, 64, false)
  modCtx t m.ctx (fun y => { y with after := y.after.map fun a =>
    if a.move = m.id then { a with touch := a.touch ++ l } else a }) s

/-- R118, R168: the end of a move: the data stamp, and the record when it has one. -/
def finishMove (t : Nat) (m : Move) (s : State) : State :=
  let (rec_, s) := pushRecord t m (watchMove t m 16 s)
  let st := stampOf m.ctx m.seq
  let s := modTile t (fun x =>
    match m.op with
    | .xld | .xldt => { x with xregs := Sparse.modify {} m.reg (fun g =>
        { g with stamp := st, srec := if rec_.isSome then rec_ else g.srec }) x.xregs }
    | .wld => { x with slots := Sparse.modify {} m.reg (fun j =>
        { j with shadow := { j.shadow with stamp := st, srec := if rec_.isSome then rec_ else j.shadow.srec } }) x.slots }
    | .xst => x) s
  let s := modTile t (fun x => { x with moves := x.moves.filter fun n => decide (n.id ≠ m.id) }) s
  if m.resumed then modCtx t m.ctx (fun y => { setPm false y with ecause := putFld y.ecause 32 32 0 }) s else s

/-- R111, R266, R270, R383, R388: the segment that a move reads. -/
def moveRead (t : Nat) (m : Move) (pa : Nat) (s : State) : Row × State :=
  let (v, s) := ctxRead t m.ctx m.id m.sight m.ord m.scope pa 64 (noteRead t m.ctx pa 64 (checkSegment pa s))
  ({ bits := BitVec.ofNat 512 v.1, poison := v.2 }, s)

/-- R117, R120, R121: segment `m.next` of a move lands. -/
def landSegment (t : Nat) (m : Move) (s : State) : State :=
  let n := m.next
  let pa := m.pas.getD n 0
  let s := if m.vault then useBank t m.ctx (paOff pa) 64 m.pol m.site m.seq s else s
  let s := match m.op with
    | .xst => let r := Sparse.get {} m.src n; ctxWrites t m.ctx m.id m.sight (ctxStore t m.ctx pa 64 r.bits.toNat r.poison) s
    | .xld => let (r, s) := moveRead t m pa s; modTile t (landRow m.reg n r s.time) s
    | .wld => let (r, s) := moveRead t m pa s
              modTile t (fun x => { x with slots := Sparse.modify {} m.reg (fun j =>
                { j with shadow := { j.shadow with rows := Sparse.set n r j.shadow.rows } }) x.slots }) s
    | .xldt =>
      let (r, s) := moveRead t m pa s
      let m := { m with src := Sparse.set n r m.src }
      let s := modTile t (fun x => { x with moves := x.moves.map fun k => if k.id = m.id then m else k }) s
      if n = 15 then
        let src := (List.range 16).map fun k => Sparse.get ({} : Row) m.src k
        let bad := src.any fun r => r.poison
        modTile t (fun x => (List.range 16).foldl (fun x i =>
          landRow m.reg i { bits := transposeRow m.half src i, poison := bad } s.time x) x) s
      else s
  let s := if m.op = .xst ∧ m.ord = .scseq then scSync t m.ctx m.id m.scope s else s
  if n = 15 then finishMove t m s
  else modTile t (fun x => { x with moves := x.moves.map fun k =>
    if k.id = m.id then { k with next := n + 1, since := 0 } else k }) s

/-- R135: a move stops at its next segment; the cause is pending for the next boundary. -/
def stopMove (t : Nat) (m : Move) (cause : Cause) (s : State) : State :=
  let n := if m.op = .xldt then 0 else m.next
  let ev : Word := BitVec.ofNat 64 (segVa m.va m.pitch n / 64 * 64 + n)
  let s := watchMove t m n (modTile t (fun x => { x with moves := x.moves.filter fun k => decide (k.id ≠ m.id) }) s)
  modCtx t m.ctx (fun y =>
    let y := if m.resumed then { setPm false y with ecause := putFld y.ecause 32 32 0 } else y
    if y.phase = .ending then y else { y with stopOrder := some (m.word, m.seq, m.order), pend := y.pend ++ [{ cause := cause, seq := m.seq, eval := ev, mword := m.word }] }) s

/-- R115, R118: whether a context's tile moves before number `id` have still to touch a range, a write or not. -/
def moveAhead (x : Tile) (c id : Nat) (write : Bool) (pa n : Nat) : Bool :=
  x.moves.any fun k => decide (k.ctx = c) && decide (k.order < id) &&
    (((k.op.writes || write) && (movePending k).any fun p => meets p 64 pa n) ||
     (write && k.scl.any fun p => meets p 32 pa n))

/-- R115: whether a context's accesses before number `id` have still to touch a range, a write or not. -/
def accAhead (x : Tile) (c id : Nat) (write : Bool) (pa n : Nat) : Bool :=
  (ctxIn x c).accs.any fun a => decide (a.id < id) && unperformed a && (accWrites a || write) && meets a.pa a.size pa n

/-- R115, R169, R175: whether a context's matrix operations before number `id` have still to touch a range. -/
def imageAhead (x : Tile) (c id : Nat) (write : Bool) (pa n : Nat) : Bool :=
  x.matq.any fun o => decide (o.ctx = c) && decide (o.id < id) &&
    (((decide (o.kind = .msave) || (write && decide (o.kind = .mrest) && !o.started)) && o.pas.any fun p => meets p 64 pa n) ||
     (write && !o.started && ((o.arrA.any fun p => meets p 32 pa n) || o.arrB.any fun p => meets p 32 pa n)))

/-- R115: whether something that a context did before number `id` must touch a range first. -/
def touchedFirst (x : Tile) (c id : Nat) (write : Bool) (pa n : Nat) : Bool :=
  accAhead x c id write pa n || moveAhead x c id write pa n || imageAhead x c id write pa n

/-- R115, R119, R172: whether a move must wait for something that its context did before it. -/
def moveBehind (x : Tile) (m : Move) : Bool :=
  touchedFirst x m.ctx m.order m.op.writes (m.pas.getD m.next 0) 64 ||
  (decide (m.next = 15) && m.scl.any fun pa => touchedFirst x m.ctx m.order false pa 32) ||
  (decide (m.op = .wld) &&
    (x.moves.any (fun k => decide (k.order < m.order) && decide (k.op = .wld) && decide (k.reg = m.reg)) ||
     (List.range 8).any (fun c => decide (c ≠ m.ctx) && decide (stoppedFill (ctxIn x c) = some m.reg) &&
       !x.moves.any fun k => decide (k.ctx = c) && k.resumed) ||
     x.matq.any fun o => decide (o.id < m.order) && decide (o.slot = m.reg) &&
       decide (o.kind ≠ .mmul) && decide (o.kind ≠ .mdrain) && decide (o.kind ≠ .macz)))

/-- R117, R118: the own-vault addresses that a move reaches next: its segment, and with the last one its scale array. -/
def moveReach (m : Move) : List Nat :=
  ([m.pas.getD m.next 0] ++ (if m.next = 15 then m.scl.toList else [])).filter fun pa => decide (paRegion pa = 0)

/-- R117, R118, R131, R132, R134, R135: one segment of a tile move lands, waits, or stops the move. -/
def tileSegmentLand (t k : Nat) (s : State) : State :=
  let x := tileOf s t
  match x.moves.find? fun m => decide (m.id = k) with
  | none => s
  | some m =>
    if moveBehind x m then s
    else match (moveReach m).find? fun pa => !vaultServes s t (paOff pa) with
      | none => if (moveReach m).any fun pa => agentFirst s t (paOff pa) then s else landSegment t m s
      | some pa =>
        let row := rowNumber (paOff pa)
        if x.vault.hold ≠ .active then
          (if m.since = 0 then modTile t (fun x => { x with moves := x.moves.map fun n =>
            if n.id = k then { n with since := s.time + 1 } else n }) s else s)
        else if x.vault.flagged.contains row ∧ ¬x.vault.repairing.contains row then
          stopMove t m .rowRepair (beginRepair t (some row) s)
        else s

/-- R117: the step. -/
def execTileSegmentLand (t k : Nat) (s : State) : Host.Outcome State Fault Refusal := .next (tileSegmentLand t k s)

end Sys2Proof.Machine
end

