-- ==== Sys2Proof/Machine/System.lean ====
section
/-! DEFINITION. The SYS group, the prefix and WAIT (R70, R223, R251 to R263). -/

namespace Sys2Proof.Machine

/-- R415: the first write of the acting context that HOLD keeps back. -/
def heldWrite (s : State) : Option Acc :=
  if (curTile s).vault.hold = .active then none
  else (cur s).accs.find? fun a => accWrites a && !a.served && decide (a.home = .ownVault)

/-- R223: a context's outstanding loads, tile loads and MREST included. -/
def loadCount (s : State) : Nat :=
  ((opCtx s).accs.filter fun a => decide (a.kind = .load) || decide (a.kind = .rowLoad) || decide (a.kind = .atomic)).length +
  ((curMoves s).filter fun m => !m.op.writes).length +
  ((opTile s).matq.filter fun o => decide (o.ctx = s.focusCtx) && decide (o.kind = .mrest)).length

/-- R223: a context's outstanding stores, XST and MSAVE included. -/
def storeCount (s : State) : Nat :=
  ((opCtx s).accs.filter fun a => accWrites a && !a.served).length +
  ((curMoves s).filter fun m => m.op.writes).length +
  ((opTile s).matq.filter fun o => decide (o.ctx = s.focusCtx) && decide (o.kind = .msave)).length

/-- R223: a context's outstanding copies; those of another launch that was saved meanwhile are not its own (R220). -/
def copyCount (s : State) : Nat := ((opTile s).copies.filter fun k => viewIs s s.focusTile s.focusCtx k.view).length

/-- R223: a context's outstanding matrix operations. -/
def matCount (s : State) : Nat := ((opTile s).matq.filter fun o => decide (o.ctx = s.focusCtx)).length

/-- R258: the ordering of a FENCE: its own, or MDEF's. -/
def fenceOrd (s : State) (o : FOrd) : Ord :=
  match o with
  | .dflt => match Ord.ofCode (wfld (opCtx s).mdef 0 3) with
    | some .dflt | none => .relaxed
    | some x => x
  | .acquire => .acquire
  | .release => .release
  | .acqrel => .acqrel
  | .scseq => .scseq

/-- R276: an acquire FENCE completes once every earlier load of the context is performed. -/
def loadsPerformed (s : State) (k : State → Eff) : Eff :=
  let s := modCur issueMerged s
  match accWait (curTile s) ((cur s).accs.filter fun a =>
      unperformed a && (decide (a.kind ≠ .store) && decide (a.kind ≠ .rowStore)))
      ((curMoves s).filter fun m => !m.op.writes) with
  | some w => .wait s (inPlace w)
  | none => if imageLoads s then .wait s .scoreboard else k s

/-- R260: TLB entries that map an address removed, or all of them. -/
def dropEntries (va : Option Nat) (l : List TlbEntry) : List TlbEntry :=
  match va with
  | none => []
  | some a => l.filter fun e => !(decide (e.base ≤ a) && decide (a < e.base + e.size))

/-- R261: the bits that a write may set, and the read-only bits that it leaves. -/
def cregBits : CReg → Nat × Nat
  | .status => (0x1FC, 3)
  | .epc | .enpc | .ennpc | .handler => (0x000FFFFFFFFFFFFC, 0)
  | .eannul => (0xF, 0)
  | .ecause => (0xFFFFFFFF00003F3F, 0)
  | .eval => (0xFFFFFFFFFFFFFFFF, 0)
  | .eseq => (0xFFFFFFFF, 0)
  | .eloop => (0xFFFFFFFFFFFFFFC0, 0)
  | .mdef => (0xFFF, 0)
  | .fpmode => (7, 0)
  | .fpflags => (0x3F, 0)
  | .mxflags => (0x5D, 0)
  | .fmta | .fmtb => (0x2F, 0)
  | .scla | .sclb => (0x000FFFFFFFFFFFE0, 0)
  | .spillb => (0x000FFFFFFF000000, 0xFFFFF)
  | .spillov => (0x0FFFFFC0, 0)
  | .spilllim => (0x00FFFFC0, 0)
  | .sched => (1, 0)
  | .tilexy | .ctxid | .lvl0 | .lvl1 | .lvl2 | .lvl3 | .lvl4 | .lvl5 | .lvl6 | .lvl7 | .lvln | .time | .seqno => (0, 0)

/-- R54, R70, R167, R261: whether a value sets a reserved bit or writes a reserved code. -/
def cregRefuses (r : CReg) (v : Word) : Bool :=
  let m := cregBits r
  decide (v.toNat &&& (2 ^ 64 - 1 - (m.1 ||| m.2)) ≠ 0) ||
  match r with
  | .mdef => decide (wfld v 0 3 > 5) || decide (wfld v 3 3 > 5) || decide (wfld v 6 3 > 3) || decide (wfld v 9 3 > 4)
  | .fpmode => decide (wfld v 0 3 > 3)
  | .fmta | .fmtb => decide (wfld v 0 4 ≥ 14)
  | _ => false

/-- R261: the value that a register holds after a write. -/
def cregMerge (r : CReg) (old v : Word) : Word :=
  let m := cregBits r
  (v &&& BitVec.ofNat 64 m.1) ||| (old &&& BitVec.ofNat 64 m.2)

/-- R302: a write to SCHED: on ring mode the writing context is current, on interleave mode it was the last to issue. -/
def putSched (t c : Nat) (ring : Bool) (s : State) : State :=
  modCore t (coreIx c) (fun k =>
    if ring = !k.mode then k
    else if ring then { k with mode := false, cur := some (c % 4), curSince := s.time }
    else { k with mode := true, lastIssue := c % 4, cur := none }) s

/-- R261: a control register of a context written by a group or by the debugger. -/
def putCreg (t c : Nat) (r : CReg) (v : Word) (s : State) : State :=
  match r with
  | .sched => putSched t c (!wbit v 0) s
  | _ => modCtx t c (fun y => cregPut r (cregMerge r (cregIn s t c y (coreOf s t (coreIx c)) r) v) y) s

/-- R261: a control register as the acting group reads it. -/
def rdCreg (s : State) (r : CReg) : Word :=
  cregIn s s.focusTile s.focusCtx (opCtx s) (Sparse.get {} (opTile s).cores (coreIx s.focusCtx)) r

/-- R411, R412: a result that a recording logs, and that a replay takes from the log; `wanted` says whether a logged
value must first be reachable, and `now` gives the value and effect of a run without a log. -/
def logged (s : State) (kind code : Nat) (now : Word → State → Eff) (value : Word) (reach : Word → Option Wait)
    (take : Word → State → Eff) : Eff :=
  let t := s.focusTile
  let c := s.focusCtx
  if replaying s t then
    match logPeek s t c with
    | some (n, w, v) =>
      if w % 16 = kind ∧ w / 2 ^ 8 % 256 = code ∧ w / 2 ^ 16 = (cur s).retired + 1 then
        match reach (BitVec.ofNat 64 v) with
        | some wt => .wait s wt
        | none => take (BitVec.ofNat 64 v) (modCur (fun y => { y with rplPos := n + 1 }) s)
      else fail .replayDivergence
    | none => fail .replayDivergence
  else now value (logPut t kind c code ((cur s).retired + 1) value.toNat s)

/-- R256, R76: ERET has restored the context; a loop resumes from ELOOP as it stood, at EPC in the same pass, with the
sequencing state that ERET reloaded (R69). -/
def resumeLoop (s : State) (t c : Nat) (e : Word) (epc : Nat) : State :=
  modCtx t c (fun y => { y with loop := loopFrom s t c e epc }) s

/-- R256, R353: what ERET restores, without the tile move. -/
def eretState (s : State) : State :=
  let t := s.focusTile
  let c := s.focusCtx
  let y := opCtx s
  let s1 := restoreSeq t c { s with grp := { s.grp with eret := some (siteOf y) } }
  resumeLoop (modCtx t c (fun z => { z with loop := none }) s1) t c y.eloop y.epc.toNat

/-- R135: whether the values of PM, MWORD and EVAL ask for a move that no word describes. -/
def moveRefused (mw : Nat) (ev : Word) : Bool :=
  decide (mw / 2 ^ 24 % 128 < 0x17) || decide (mw / 2 ^ 24 % 128 > 0x1A) || decide (wfld ev 4 2 ≠ 0)

/-- R259: a publication: checks, release at SYSTEM scope, one 8-byte store to HOST. -/
def publishWord (s : State) (va : Word) (v : Scalar) : Eff :=
  match checkAccess s (curView s) (.core (coreIx s.focusCtx)) va 8 8 true .dflt .host with
  | .error tr => .trap tr
  | .ok r =>
    if r.wb then .wait s (.writeBlock va.toNat)
    else hostReady s va r.pa true <| released s fun s =>
      .done (sendAcc { kind := .store, va := va.toNat, size := 8, data := BitVec.ofNat 512 v.val.toNat,
                       ord := .release, scope := .system, pol := .keep } r s) .next

/-- R253: NOP has no effect. -/
def doNop (s : State) : Eff :=
  .done s .next

/-- R253: the instruction. -/
def execNop (s : State) : Host.Outcome State Fault Refusal := settle s (doNop s)

/-- R254, R177, R415: HALT. It waits for the context's matrix operations and tile moves, so that a cause they raise is
taken first; the task ends later (TASK_END). A cause that cannot be taken, since the task is in a handler with EXL = 1, is not delivered
before its end (DESIGN CHOICE, log 78). -/
def doHalt (s : State) : Eff :=
  match heldWrite s with
  | some a => .wait s (.holdHere a.va)
  | none =>
  if matCount s ≠ 0 ∨ (curMoves s).isEmpty = false then .wait s .scoreboard
  else .done (modCur (fun y => { issueMerged y with phase := .halted, loop := none }) s) .halted

/-- R254: the instruction. -/
def execHalt (s : State) : Host.Outcome State Fault Refusal := settle s (doHalt s)

/-- R255: TRAP n, taken after its group. -/
def doTrap (n : Fin 64) (s : State) : Eff :=
  .done s (.trapAfter .trapInstruction n.val)

/-- R255: the instruction. -/
def execTrap (n : Fin 64) (s : State) : Host.Outcome State Fault Refusal := settle s (doTrap n s)

/-- R256, R135, R353: ERET. One whose move must wait is itself what waits, and restores nothing until the move can issue. -/
def doEret (s : State) : Eff :=
  static s .eret <|
    let y := opCtx s
    let mw := wfld y.ecause 32 32
    if pm y ∧ mw ≠ 0 then
      if moveRefused mw y.eval then fail .fieldReserved
      else
        let s' := eretState s
        let z := ctxOf s' s.focusTile s.focusCtx
        let v := { curView s with firm := decide (prv z = 2), sup := decide (prv z = 1) }
        match resumeMove s' v z mw y.eval (BitVec.ofNat 32 y.eseq.toNat) fun s => .done s .eret with
        | .wait u w => .wait { s with priReqs := u.priReqs } w
        | e => e
    else .done (eretState s) .eret

/-- R256: the instruction. -/
def execEret (s : State) : Host.Outcome State Fault Refusal := settle s (doEret s)

/-- R255: BRK n. -/
def doBrk (n : Fin 64) (_s : State) : Eff :=
  .trap { cause := .breakpoint, arg := n.val }

/-- R255: the instruction. -/
def execBrk (n : Fin 64) (s : State) : Host.Outcome State Fault Refusal := settle s (doBrk n s)

/-- R257, R300: YIELD gives the core away in ring mode. -/
def doYield (s : State) : Eff :=
  let k := coreIx s.focusCtx
  if (coreOf s s.focusTile k).mode then .done s .next
  else .done (modCore s.focusTile k (fun x => { x with cur := none, lastCur := s.focusCtx % 4 }) s) .next

/-- R257: the instruction. -/
def execYield (s : State) : Host.Outcome State Fault Refusal := settle s (doYield s)

/-- R258: the scope of a FENCE: its own, or MDEF's. -/
def fenceScope (s : State) (c : Scope) : Scope :=
  match c with
  | .dflt => match Scope.ofCode (wfld (opCtx s).mdef 3 3) with
    | some .dflt | none => .device
    | some x => x
  | .tile | .cluster | .sector | .device | .system => c

/-- R258, R276: FENCE. -/
def doFence (c : Scope) (o : FOrd) (s : State) : Eff :=
  let p := fenceOrd s o
  let go (s : State) : Eff := .done (fenceSync p (fenceScope s c) s) .next
  match p with
  | .relaxed | .dflt => .done s .next
  | .acquire => loadsPerformed s go
  | .release | .acqrel | .scseq => released s go

/-- R258: the instruction. -/
def execFence (c : Scope) (o : FOrd) (s : State) : Host.Outcome State Fault Refusal := settle s (doFence c o s)

/-- R259: PUBLISH. -/
def doPublish (a b : Fin 16) (s : State) : Eff :=
  ready s [a, b] <| unpoisoned s [a, b] <| publishWord s (rdS s a).val (rdS s b)

/-- R259: the instruction. -/
def execPublish (a b : Fin 16) (s : State) : Host.Outcome State Fault Refusal := settle s (doPublish a b s)

/-- R260: TLBINV. It retires once what the tile's agent has still to write has been written, where that may have been translated through
an entry that it removes. -/
def doTlbinv (a : Fin 16) (g : Bool) (s : State) : Eff :=
  static s (.tlbinv a g) <| ready s [a] <| unpoisoned s [a] <|
    let va := if g then none else some (rdS s a).val.toNat
    let x := curTile s
    if (dropEntries va (x.agentTlb ++ x.tlb)).length ≠ (x.agentTlb ++ x.tlb).length ∧ x.agentq.any (fun q => !q.writes.isEmpty) then
      .wait s .scoreboard
    else
    .done (modCurTile (fun x =>
      { x with tlb := dropEntries va x.tlb, agentTlb := dropEntries va x.agentTlb,
               cores := x.cores.map fun kc => (kc.1, { kc.2 with tlb := dropEntries va kc.2.tlb }) }) s) .next

/-- R260: the instruction. -/
def execTlbinv (a : Fin 16) (g : Bool) (s : State) : Host.Outcome State Fault Refusal := settle s (doTlbinv a g s)

/-- R261, R262: MFC, unpoisoned; TIME is logged and replayed (R411, R412). -/
def doMfc (d : Fin 16) (r : CReg) (s : State) : Eff :=
  static s (.mfc d r) <| ready s [d] <|
    let put (v : Word) (s : State) : Eff := .done (wrS d { val := v } s) .next
    if r = .time then logged s 6 0 put (rdCreg s r) (fun _ => none) put else put (rdCreg s r) s

/-- R261: the instruction. -/
def execMfc (d : Fin 16) (r : CReg) (s : State) : Host.Outcome State Fault Refusal := settle s (doMfc d r s)

/-- R261: MTC. A reserved bit or code traps in execution (log 16). -/
def doMtc (a : Fin 16) (r : CReg) (s : State) : Eff :=
  static s (.mtc a r) <| ready s [a] <| unpoisoned s [a] <|
    let v := (rdS s a).val
    if cregRefuses r v then fail .fieldReserved
    else if r = .status ∧ wfld v 2 2 > prv (opCtx s) then fail .privilege
    else .done (putCreg s.focusTile s.focusCtx r v s) .next

/-- R261: the instruction. -/
def execMtc (a : Fin 16) (r : CReg) (s : State) : Host.Outcome State Fault Refusal := settle s (doMtc a r s)

/-- R70, R71: PFX hands its fields to the group that follows; the issue of the pair checks where it stands. -/
def doPfx (o : Ord) (c : Scope) (p : Spc) (q : Pol) (s : State) : Eff :=
  .done { s with grp := { s.grp with pfx := some { ord := o, scope := c, spc := p, pol := q } } } .prefixed

/-- R70: the instruction. -/
def execPfx (o : Ord) (c : Scope) (p : Spc) (q : Pol) (s : State) : Host.Outcome State Fault Refusal := settle s (doPfx o c p q s)

/-- R223, R272: WAIT. One that must wait for stores sends a merged host write on its way. -/
def doWait (a b c d : Fin 64) (s : State) : Eff :=
  if loadCount s ≤ a.val ∧ storeCount s ≤ b.val ∧ copyCount s ≤ c.val ∧ matCount s ≤ d.val then .done s .next
  else if b.val < storeCount s then
    .wait (modCur issueMerged s) (match heldWrite s with | some a => .hold a.va | none => .offcore)
  else .wait s .offcore

/-- R223: the instruction. -/
def execWait (a b c d : Fin 64) (s : State) : Host.Outcome State Fault Refusal := settle s (doWait a b c d s)

/-- R64: a word that is no instruction traps. -/
def doReservedPattern (w : W32) (s : State) : Eff :=
  match rejectCause w.toNat with
  | some (_, c) => fail c
  | none => .done s .next

/-- R64: the instruction. -/
def execReservedPattern (w : W32) (s : State) : Host.Outcome State Fault Refusal := settle s (doReservedPattern w s)

end Sys2Proof.Machine
end

