-- ==== Sys2Proof/Machine/Futures.lean ====
section
/-! DEFINITION. Futures: how a command ends them, where late results of a saved launch land, and the FUT
instructions (R181 to R191, R220). -/

namespace Sys2Proof.Machine

/-- R324: the tiles of a partition, ascending. -/
def partTiles (s : State) (p : Nat) : List Nat :=
  (List.range Config.tiles).filter fun t => decide (partOfTile s t = some p)

/-- R359: the address of save slot `j` of a partition. -/
def saveArea (s : State) (p j : Nat) : Nat :=
  wfld (Sparse.get 0 s.regs (0x80 + 8 * p)) 16 32 * 2 ^ 16 + j * (65536 + (partTiles s p).length * 663552)

/-- R359: the block of a tile in a save slot. -/
def tileBlock (s : State) (p j t : Nat) : Nat := saveArea s p j + 65536 + 663552 * (partTiles s p).idxOf t

/-- R359: the image of a context in a tile block. -/
def ctxBlock (b c : Nat) : Nat := b + 397312 + 33280 * c

/-- R220, R357: the tile block of a launch whose image of tile `t` is written; none while the tile itself holds it. -/
def lateBase (s : State) (n t : Nat) : Option Nat :=
  match launchOf s n with
  | none => none
  | some l =>
    match l.saved with
    | none => none
    | some j =>
      if partOfTile s t = some l.part ∧ ((tileOf s t).saved ∨ (tileOf s t).launch ≠ n) then some (tileBlock s l.part j t) else none

/-- R220: where a scratchpad byte of a launch is: in the scratchpad, or in the tile's saved image. -/
def lateAddr (s : State) (v : View) (pa : Nat) : Nat :=
  if paRegion pa = 1 then
    match lateBase s v.launch (paTile pa) with
    | some b => b + 4096 + paOff pa
    | none => pa
  else pa

/-- R181: the context and handle that hold the future of a command. -/
def futHolder (x : Tile) (k : Nat) : Option (Nat × Nat) :=
  (List.range 8).findSome? fun c => ((List.range 8).find? fun h =>
    let f := Sparse.get ({} : Fut) (ctxIn x c).futs h
    decide (f.st = .pending) && decide (f.cmd = k)).map fun h => (c, h)

/-- R360: a future record written into the image of a context at `b`. -/
def writeFutImage (b h : Nat) (f : Fut) (s : State) : State :=
  let st := readMem s (b + 2) 2
  let s := vaultStore (b + 2) 2 (st - st / 4 ^ h % 4 * 4 ^ h + 2 * 4 ^ h) s
  let p := readMem s (b + 6) 1
  let s := vaultStore (b + 6) 1 (p - p / 2 ^ h % 2 * 2 ^ h + b2n f.poison * 2 ^ h) s
  (List.range 6).foldl (fun s w => vaultStore (b + 896 + 48 * h + 8 * w) 8 (futWord f w).toNat s) s

/-- R389: the terminal state of a command's future in a checkpoint: the command left the pair before the interval began. -/
def landFuture (k : Nat) (f : Fut) (p : PairCk) : PairCk :=
  let hit (g : Fut) : Bool := decide (g.st = .pending) && decide (g.cmd = k)
  { p with ctx := { p.ctx with futs := p.ctx.futs.map fun e => if hit e.2 then (e.1, f) else e } }

/-- R220: what the device keeps of a tile of a saved launch, changed as its image is. -/
def modKept (n t : Nat) (f : Tile → Tile) (s : State) : State :=
  modLaunch n (fun l => { l with kept := l.kept.map fun e => if e.1 = t then (t, f e.2) else e }) s

/-- R181, R220, R406: a command's future takes its terminal state, wherever the record now is. -/
def endFuture (v : View) (k : Nat) (seq : W32) (f : Fut) (s : State) : State :=
  let f := { f with st := .terminal, cmd := 0, seen := commandWrites s k }
  match futHolder (tileOf s v.tile) k with
  | some (c, h) =>
    monitor v.tile c 5 f.code 0 f.aux.toNat seq
      (modPair v.tile c (landFuture k f) (modCtx v.tile c (fun y => { y with futs := Sparse.set h f y.futs }) s))
  | none =>
    match s.late.find? fun e => decide (e.1 = k) with
    | some (_, b, h) =>
      modKept v.launch v.tile (fun x => { x with ctxs := Sparse.modify {} v.ctx (fun y =>
          { y with futs := Sparse.set h f y.futs }) x.ctxs })
        (writeFutImage b h f { s with late := s.late.filter fun e => decide (e.1 ≠ k) })
    | none => s

/-- R357, R360: a pending cause written into a free entry of a context's image, or kept for its restore. -/
def pendImage (n t c b : Nat) (p : Pending) (s : State) : State :=
  match (List.range 16).find? fun i => decide (readMem s (b + 640 + 16 * i + 12) 1 / 2 ^ 7 % 2 = 0) with
  | some i => vaultStore (b + 640 + 16 * i) 16
      (p.eval.toNat + p.seq.toNat * 2 ^ 64 + p.cause.code * 2 ^ 96 + 2 ^ 103) s
  | none => { s with overPend := s.overPend ++ [(n, t, c, p)] }

/-- Whether the context that issued a command still runs the task that did. -/
def issuerRuns (s : State) (v : View) : Bool :=
  decide ((tileOf s v.tile).launch = v.launch) && !(tileOf s v.tile).saved &&
  decide ((ctxOf s v.tile v.ctx).launch = v.launch) && decide ((ctxOf s v.tile v.ctx).phase = .running)

/-- R184: an engine fault pending as a trap of the issuing context. -/
def pendTrap (v : View) (cause : Cause) (seq : W32) (eval : Word) (s : State) : State :=
  let p : Pending := { cause := cause, seq := seq, eval := eval }
  match lateBase s v.launch v.tile with
  | some b => pendImage v.launch v.tile v.ctx (ctxBlock b v.ctx) p s
  | none =>
    if issuerRuns s v then
      modPair v.tile v.ctx (fun k => { k with ctx := { k.ctx with pend := k.ctx.pend ++ [p] } })
        (modCtx v.tile v.ctx (fun y => { y with pend := y.pend ++ [p] }) s)
    else s

/-- A future of the acting context. -/
def futOf (s : State) (h : Fin 8) : Fut := Sparse.get {} (cur s).futs h.val

/-- One future of the acting context replaced. -/
def putFut (h : Fin 8) (f : Fut) (s : State) : State := modCur (fun y => { y with futs := Sparse.set h.val f y.futs }) s

/-- R187, R280: a FWAIT or FGET goes on with a terminal future, and acquires the writes of its command. -/
def terminal (s : State) (h : Fin 8) (k : Fut → State → Eff) : Eff :=
  match (futOf s h).st with
  | .free => fail .handleInvalid
  | .pending => .wait s .offcore
  | .terminal => k (futOf s h) (modCur (fun y => { y with sight := y.sight.know (futOf s h).seen }) s)

/-- R187: with REL the handle becomes FREE. -/
def release (r : Bool) (h : Fin 8) (s : State) : State := if r then putFut h {} s else s

/-- R187: FWAIT. -/
def doFwait (h : Fin 8) (r : Bool) (s : State) : Eff := terminal s h fun _ s => .done (release r h s) .next

/-- R187: the instruction. -/
def execFwait (h : Fin 8) (r : Bool) (s : State) : Host.Outcome State Fault Refusal := settle s (doFwait h r s)

/-- R187: FGET. Words 0 and 1 are never poisoned (R182). -/
def doFget (h : Fin 8) (d : Fin 16) (w : Fin 6) (r : Bool) (s : State) : Eff :=
  ready s [d] <| terminal s h fun f s =>
    if 2 ≤ w.val ∧ f.code = 6 then fail .futureCancelled
    else .done (release r h (wrS d { val := futWord f w.val, poison := f.poison && decide (2 ≤ w.val) } s)) .next

/-- R187: the instruction. -/
def execFget (h : Fin 8) (d : Fin 16) (w : Fin 6) (r : Bool) (s : State) : Host.Outcome State Fault Refusal :=
  settle s (doFget h d w r s)

/-- R188, R411, R412: FTEST; a logged 1 waits until the handle is terminal. -/
def doFtest (h : Fin 8) (d : Fin 16) (s : State) : Eff :=
  ready s [d] <|
    let f := futOf s h
    let put (v : Word) (s : State) : Eff := .done (wrS d { val := v } s) .next
    if f.st = .free then fail .handleInvalid
    else logged s 5 0x26 put (if f.st = .terminal then 1 else 0)
      (fun v => if v = 1 ∧ f.st = .pending then some .offcore else none) put

/-- R188: the instruction. -/
def execFtest (h : Fin 8) (d : Fin 16) (s : State) : Host.Outcome State Fault Refusal := settle s (doFtest h d s)

/-- R189: FCANCEL sends a cancel request for the command of a PENDING handle. -/
def doFcancel (h : Fin 8) (s : State) : Eff :=
  let f := futOf s h
  match f.st with
  | .free => fail .handleInvalid
  | .terminal => .done s .next
  | .pending =>
    let (n, s') := freshId s
    .done { s' with cancels := s'.cancels ++ [(n, s.focusTile, f.cmd)] } .next

/-- R189: the instruction. -/
def execFcancel (h : Fin 8) (s : State) : Host.Outcome State Fault Refusal := settle s (doFcancel h s)

/-- R190: FXFER. A context that has executed HALT and is not free yet still takes a handle (DESIGN CHOICE, log 79). -/
def doFxfer (h : Fin 8) (a : Fin 16) (g : Fin 8) (s : State) : Eff :=
  ready s [a] <|
    let f := futOf s h
    if f.st = .free then fail .handleInvalid
    else unpoisoned s [a] <|
      let v := (rdS s a).val
      let c := wfld v 0 3
      let y := ctxOf s s.focusTile c
      if wfld v 3 61 ≠ 0 ∨ c = s.focusCtx ∨ (Sparse.get ({} : Fut) y.futs g.val).st ≠ .free ∨
          (y.phase ≠ .running ∧ y.phase ≠ .halted) ∨ y.launch ≠ (cur s).launch then
        fail .handleInvalid
      else
        .done (modCtx s.focusTile c (fun y => { y with futs := Sparse.set g.val f y.futs }) (putFut h {} s)) .next

/-- R190: the instruction. -/
def execFxfer (h : Fin 8) (a : Fin 16) (g : Fin 8) (s : State) : Host.Outcome State Fault Refusal := settle s (doFxfer h a g s)

end Sys2Proof.Machine
end

