-- ==== Sys2Proof/Machine/Landing.lean ====
section
/-! DEFINITION. What engines share: reading a block of fields, one access to an end of a transfer, landing bytes, and
marking arrival sets (R183, R197, R198, R202, R232, R233). -/

namespace Sys2Proof.Machine

/-- Bytes [off, off + n) of a block as a number (R2). -/
def blk (b off n : Nat) : Nat := b / 2 ^ (8 * off) % 2 ^ (8 * n)

/-- A list of bytes as a number (R2). -/
def bytesNat (l : List Byte) : Nat := l.foldr (fun b n => b.toNat + 2 ^ 8 * n) 0

/-- The low `n` bytes of a number (R2). -/
def natBytes (v : Nat) : Nat → List Byte
  | 0 => []
  | n + 1 => BitVec.ofNat 8 v :: natBytes (v / 2 ^ 8) n

/-- R15, R229: the home tile of a barrier object. -/
def barHome (key : Nat) : Nat :=
  let inst := key / 2 ^ 6 % 2 ^ 14
  match key / 2 ^ 20 with
  | 2 => inst
  | 3 => clusterHome inst
  | 4 => sectorHome inst
  | _ => 0

/-- R189: the tile at which a cancel request of tile `t` seeks its command. -/
def cancelTile (s : State) (t cmd : Nat) : Nat :=
  match s.agentReqs.find? fun r => decide (r.2.id = cmd) with
  | some r => r.1
  | none => ((s.tiles.find? fun x => x.2.agentq.any fun q => decide (q.id = cmd)).map fun x => x.1).getD t

/-- R388: whether a request to cancel a command is held with its pair's interval. -/
def cancelHeld (s : State) (t k cmd : Nat) : Bool := (List.range 8).any fun c => holdsCommand s t c cmd && heldByPair s t c k

/-- R24, VC0: whether tile `t` sent tile `u` a request before number `k` that has not arrived: a command or its cancellation, an access
to its scratchpad, a barrier arrival. -/
def sentBefore (s : State) (t u k : Nat) : Bool :=
  (s.agentReqs.any fun r => decide (r.1 = u) && decide (r.2.view.tile = t) && decide (r.2.id < k) &&
    (match r.2.kind with | .copyEnd _ _ _ => false | _ => true) && !heldByPair s t r.2.view.ctx r.2.id) ||
  (s.barArr.any fun b => decide (b.tile = t) && decide (barHome b.key = u) && decide (b.id < k) && !heldByPair s t b.ctx b.id) ||
  (s.cancels.any fun r => decide (r.2.1 = t) && decide (cancelTile s t r.2.2 = u) && decide (r.1 < k) && !cancelHeld s t r.1 r.2.2) ||
  (List.range 8).any fun c => (ctxOf s t c).accs.any fun a =>
    decide (a.home = .remScratch) && decide (a.kind ≠ .phase) && !a.served && decide (paTile a.pa = u) && decide (a.id < k) &&
    !heldByPair s t c a.id

/-- R24, VC3: whether tile `t` sent the agent of tile `u` an access of a copy before number `k` that has not arrived. -/
def copiedBefore (s : State) (t u k : Nat) : Bool :=
  s.agentReqs.any fun r => decide (r.1 = u) && decide (r.2.view.tile = t) && decide (r.2.id < k) &&
    (match r.2.kind with | .copyEnd _ _ _ => true | _ => false) && !heldByPair s t r.2.view.ctx r.2.id

/-- R24, VC1: whether tile `u` sent tile `t` an answer before number `n` that has not arrived: a reply, load data, a
barrier's release. -/
def repliedBefore (s : State) (u t n : Nat) : Bool :=
  (s.replies.any fun r => decide (r.src = u) && decide (r.tile = t) && decide (r.sent < n) && !r.taken) ||
  (List.range 8).any fun c =>
    let y := ctxOf s t c
    (y.accs.any fun a => decide (a.home = .remScratch) && a.served && decide (paTile a.pa = u) && decide (a.sent < n)) ||
    (match y.wait with
     | .barrier key p =>
       let b := Sparse.get ({} : Bar) s.bars key
       decide (key / 2 ^ 20 ≠ 2) && decide (barHome key = u) && decide (p < b.c) && decide (b.sent < n)
     | _ => false)

/-- What keeps an engine from one access. -/
inductive Hindrance where
  | fault (c : Cause)
  | hold (c : Cause)
  | writeBlock
  | page (n : Nat)
  | repair (t row : Nat)
  | later
  deriving DecidableEq, Repr

/-- R133: the cause of an access stalled by HOLD. -/
def holdCause (v : Vault) : Cause := if v.holdThermal then .thermalHold else .vaultHold

/-- R131, R132, R134: what keeps a vault from serving an access at an offset. -/
def vaultHindrance (s : State) (t off : Nat) (c : Cause) : Option Hindrance :=
  let v := (tileOf s t).vault
  if v.hold ≠ .active then some (.hold c)
  else if v.flagged.contains (rowNumber off) then some (.repair t (rowNumber off))
  else if refreshing s t (bankOf (rowNumber off)) then some .later
  else none

/-- R197, R342: `n` bytes within one segment at one end of a transfer, as an engine of tile `v.tile` reaches them. -/
def endCheck (s : State) (v : View) (via : Via) (va n : Nat) (write : Bool) : Except Hindrance Resolved :=
  match resolve s v via va write with
  | .error c => .error (.fault c)
  | .ok r =>
    if r.tgt = .control then .error (.fault .targetForbidden)
    else if r.tgt = .scratch ∧ paOff r.pa + n > Config.scratchBytes then .error (.fault .scratchRange)
    else if write ∧ r.wb then .error .writeBlock
    else match r.tgt with
      | .vault =>
        let t := paTile r.pa
        match vaultHindrance s t (paOff r.pa) (if t = v.tile then holdCause (tileOf s t).vault else .rpcRemote) with
        | some h => .error h
        | none => .ok r
      | .host =>
        if !s.mgmt.link then .error (.fault .hostAbort)
        else if !hostAllows s r.pa write then .error (.page (hostPage r.pa))
        else if hostErrs s r.pa write then .error (.fault .hostAbort)
        else .ok r
      | .scratch | .peer | .control => .ok r

/-- R318: the row reported, unless its repair is in progress. -/
def reportRow (t row : Nat) (s : State) : State :=
  if (tileOf s t).vault.repairing.contains row then s else beginRepair t (some row) s

/-- One unit that an engine writes: physical address, bytes, value, poison. -/
abbrev Landed := Nat × Nat × Nat × Bool

/-- R111, R382: units of one segment land in one copy of it. Unpoisoned units that fill the segment clear it. -/
def landSeg (l : List Landed) (s : State) : State :=
  match l with
  | [] => s
  | (pa, _) :: _ =>
    let seg := pa / 64 * 64
    let full := (List.range 64).all fun i => l.any fun u => decide (u.1 ≤ seg + i) && decide (seg + i < u.1 + u.2.1)
    let bad := l.any fun u => u.2.2.2
    let s := l.foldl (fun s u => writeMem u.1 u.2.1 u.2.2.1 (noteWrite u.1 u.2.1 s)) (checkStore seg (if full then 64 else 1) s)
    if bad then setSegPoison seg true s else if full then setSegPoison seg false s else s

/-- R111, R382, R387: units of one segment land, in the memory of a primary tile and of its shadow. -/
def landUnits (l : List Landed) (s : State) : State :=
  match (l.head?.map fun u => u.1).bind (mirrorOf s) with
  | some q => landSeg (l.map fun u => (shadowPa u.1 (paTile q), u.2)) (landSeg l s)
  | none => landSeg l s

/-- A run of bytes cut into pieces that lie within one 64-byte segment each: address, offset in the run, length. -/
def pieces (va : Nat) : Nat → Nat → Nat → List (Nat × Nat × Nat)
  | 0, _, _ => []
  | fuel + 1, off, n =>
    if n = 0 then []
    else
      let m := min n (64 - (va + off) % 64)
      (va + off, off, m) :: pieces va fuel (off + m) (n - m)

/-- The pieces of `n` bytes from an address on. -/
def piecesOf (va n : Nat) : List (Nat × Nat × Nat) := pieces va (n / 64 + 2) 0 n

/-- R361, Table 19.5: the arrival set of an image at `a`, with the record of the writes that marked it. -/
def setAt (s : State) (a : Nat) (seen : List (Nat × Nat)) : ArrSet :=
  let w := readMem s (a + 28) 4
  { armed := decide (w / 2 ^ 31 = 1), base := readMem s (a + 16) 8, nc := w / 2 ^ 17 % 2 ^ 8, e := w % 2 ^ 17,
    count := readMem s (a + 24) 4, bits := BitVec.ofNat 128 (readMem s a 16), seen := seen }

/-- R225, R357: an arrival set of tile `t`, in the tile or in the saved image of its launch. -/
def arrOf (s : State) (v : View) (t i : Nat) : ArrSet :=
  match lateBase s v.launch t with
  | none => Sparse.get {} (tileOf s t).arr i
  | some b =>
    let kept : Tile := match launchOf s v.launch with | some l => Sparse.get {} l.kept t | none => {}
    setAt s (b + 1408 + 32 * i) (Sparse.get ({} : ArrSet) kept.arr i).seen

/-- R225, R357: an arrival set replaced, in the tile or in the saved image of its launch. -/
def putArr (v : View) (t i : Nat) (k : ArrSet) (s : State) : State :=
  match lateBase s v.launch t with
  | none => modTile t (fun x => { x with arr := Sparse.set i k x.arr }) s
  | some b =>
    let a := b + 1408 + 32 * i
    modKept v.launch t (fun x => { x with arr := Sparse.set i k x.arr })
      (vaultStore (a + 24) 4 k.count (vaultStore a 16 k.bits.toNat s))

/-- R195, R220, R361: the alloy table that a command reads: its tile's, or the one in the saved image of its launch. -/
def alloyFor (s : State) (v : View) : Sparse Word :=
  match lateBase s v.launch v.tile with
  | none => (tileOf s v.tile).alloy
  | some b => (List.range 8).map fun i => (i, BitVec.ofNat 64 (readMem s (b + 3456 + 8 * i) 8))

/-- R232: whether `n` bytes lie in the armed region of a set. -/
def inRegion (k : ArrSet) (lo hi : Int) : Bool :=
  k.armed && decide ((k.base : Int) ≤ lo) && decide (hi ≤ k.base + 512 * k.nc)

/-- R198, R232, R233: landed bytes added to the counter of a set; it saturates. -/
def markCount (va n : Nat) (k : ArrSet) : ArrSet :=
  if inRegion k va (va + n) then { k with count := min 131071 (k.count + n) } else k

/-- The chunk of a set's region that an address lies in. -/
def chunkOf (k : ArrSet) (va : Nat) : Option Nat :=
  if inRegion k va (va + 1) then some ((va - k.base) / 512) else none

/-- R198: the bit of a chunk set. -/
def markChunk (c : Nat) (k : ArrSet) : ArrSet := { k with bits := k.bits ||| BitVec.ofNat 128 (2 ^ c) }

/-- R183: the first check of a command that names a handle. -/
def freeHandle (s : State) (h : Option (Fin 8)) (k : Eff) : Eff :=
  match h with
  | none => k
  | some h => if (futOf s h).st ≠ .free then fail .handleInvalid else k

/-- R183: the 64-byte segments of the block that s[A] names, checked in order. -/
def blockSegs (s : State) (va : Word) : List Nat → Except Trap (List Resolved)
  | [] => .ok []
  | i :: r =>
    match checkAccess s (curView s) (.core (coreIx s.focusCtx)) (va + BitVec.ofNat 64 (64 * i)) 64 64 false .dflt .block with
    | .error tr => .error tr
    | .ok x => match blockSegs s va r with
      | .error tr => .error tr
      | .ok l => .ok (x :: l)

/-- R265, R270: a read of 64 bytes that a group of the acting context makes by itself: the value that it returns, and its poison. -/
def groupRead (s : State) (pa : Nat) : Nat × Bool :=
  readAs s (ctxKnows s.focusTile s.focusCtx s.nextId (ctxOf s s.focusTile s.focusCtx).sight) pa 64

/-- The bytes of resolved segments as one number. -/
def readBlock (s : State) : List Resolved → Nat
  | [] => 0
  | r :: l => (groupRead s r.pa).1 + 2 ^ 512 * readBlock s l

/-- R183, R185, R222: steps 1 to 3 of a command with a block of `n` segments; it waits for the context's earlier stores,
which its issue releases toward the engine, and then reads the block. Poison of any of its segments traps (DESIGN CHOICE, log 79). -/
def withBlock (s : State) (h : Option (Fin 8)) (a : Fin 16) (n : Nat) (k : State → List Resolved → Nat → Eff) : Eff :=
  ready s [a] <| freeHandle s h <| unpoisoned s [a] <|
    match blockSegs s (rdS s a).val (List.range n) with
    | .error tr => .trap tr
    | .ok l => released s fun s =>
      if l.any fun r => segPoison s r.pa then fail .poisonConsumed
      else
        let b := readBlock s l
        k (notePrint s.focusTile s.focusCtx (8 * n) b b s) l b

/-- R183: `n` bytes that must lie in the requester's own scratchpad. -/
def ownArea (s : State) (va n : Nat) (write : Bool) : Option Trap :=
  (piecesOf va n).findSome? fun p =>
    match checkAccess s (curView s) (.core (coreIx s.focusCtx)) (BitVec.ofNat 64 p.1) p.2.2 1 write .dflt .block with
    | .error tr => some tr
    | .ok _ => if p.1 ≥ 2 ^ 64 then some (addrTrap .xlateAbsent (BitVec.ofNat 64 va)) else none

/-- R103, R279: how a command of the acting context resolves addresses, and what is hb-before its accesses. -/
def commandView (s : State) : View := { curView s with known := commandKnows s }

/-- R282: the writes that marked a chunk noted in a set. -/
def noteMarks (l : List (Nat × Nat)) (k : ArrSet) : ArrSet := { k with seen := k.seen ++ l.filter fun e => !k.seen.contains e }

/-- R282: the writes to the chunks of a mask, or all of them. -/
def marksOf (k : ArrSet) (m : Nat) : Known :=
  { also := (k.seen.filter fun e => decide (m = 0) || decide (m / 2 ^ e.1 % 2 = 1)).map fun e => e.2 }

/-- R183, R405, R403: a command passes: it takes its number and its identity, and its handle becomes PENDING. -/
def takeCommand (h : Option (Fin 8)) (major : Nat) (l : List Resolved) (s : State) : Nat × W32 × State :=
  let (n, s) := takeSeqCur s
  let (id, s) := freshId s
  let s := countEvent s.focusTile s.focusCtx 15 1 (monitor s.focusTile s.focusCtx 4 major (cur s).pc 0 n s)
  let s := match h with
    | some h => putFut h { st := .pending, cmd := id } s
    | none => s
  (id, n, fillAll (.core (coreIx s.focusCtx)) s.focusTile l s)

end Sys2Proof.Machine
end

