-- ==== Sys2Proof/Machine/Copy.lean ====
section
/-! DEFINITION. The copy engine: CPY, CPYS, the accesses of a copy, its end, and the copy schedule (R192 to R200, R416,
R417). -/

namespace Sys2Proof.Machine

/-- R195: the fill value of a descriptor, none where FILL breaks its rule. -/
def fillValue (table : Sparse Word) (fill fty ent esz : Nat) : Option Nat :=
  if fill = 0 then some 0
  else match Ty.ofCode fty with
    | none => none
    | some t =>
      if tyWidth t ≠ 8 * 2 ^ esz ∨ t = .q4 ∨ t = .bit ∨ fill > 4 then none
      else if fill = 3 then some (toCode t .ne (Num.ofInt 1)).1
      else if fill = 4 then
        let e := Sparse.get 0 table ent
        if eValid e ∧ wfld e 4 4 = fty then some (ePad e) else none
      else if t.isFloat then
        if (tyFmt t).ieee then some ((if fill = 2 then (tyFmt t).sign else 0) + (tyFmt t).infCode) else none
      else some (codeOf (tyWidth t) (if fill = 1 then tyHi t else tyLo t))

/-- A field of 8 `n` bits as a two's-complement number. -/
def sblk (b off n : Nat) : Int := sext (8 * n) (blk b off n)

/-- R193: the dimensions that a descriptor uses. -/
def copyDims (b n : Nat) : List Dim :=
  (List.range n).map fun d =>
    { e := blk b (32 + 16 * d) 4, ss := sblk b (36 + 16 * d) 4, ds := sblk b (40 + 16 * d) 4, b := blk b (44 + 16 * d) 4,
      o := sblk b (112 + 2 * d) 2 }

/-- R193, R195, R196: the 128 bytes of a copy descriptor, none where they break R195 or R196 but for the arrival set. -/
def parseCopy (table : Sparse Word) (b : Nat) : Option CopyDesc :=
  let b16 := blk b 16 1
  let n := b16 % 8 + 1
  let esz := b16 / 8 % 4
  let unit : Int := 2 ^ esz
  let dims := copyDims b n
  let b18 := blk b 18 1
  let b19 := blk b 19 1
  if n > 5 ∨ b16 / 32 ≠ 0 ∨ b18 / 128 ≠ 0 ∨ b19 / 128 ≠ 0 ∨ blk b 20 2 / 2048 ≠ 0 ∨ blk b 22 10 ≠ 0 ∨ blk b 122 6 ≠ 0 ∨
      (blk b 0 8 : Int) % unit ≠ 0 ∨ (blk b 8 8 : Int) % unit ≠ 0 ∨
      dims.any (fun d => decide (d.ss % unit ≠ 0) || decide (d.ds % unit ≠ 0)) then none
  else
    (fillValue table (blk b 17 1) (b18 % 16) (b18 / 16 % 8) esz).map fun f =>
      { src := blk b 0 8, dst := blk b 8 8, dims := dims, esz := esz, fill := f, as_ := b19 % 64,
        asv := decide (b19 / 64 % 2 = 1), ast := blk b 20 2 }

/-- R194: the number of elements of a box. -/
def boxCount (c : CopyDesc) : Nat := c.dims.foldl (fun n d => n * d.e) 1

/-- An address modulo 2^64. -/
def addr64 (i : Int) : Nat := (i % 2 ^ 64).toNat

/-- R194: element `k` of a box, dimension 0 fastest: its source, its destination, whether it is read. -/
def element (c : CopyDesc) (k : Nat) : Nat × Nat × Bool :=
  let r := c.dims.foldl (fun (a : Nat × Int × Int × Bool) d =>
    let i : Int := ((a.1 % d.e : Nat) : Int)
    let j := i + d.o
    (a.1 / d.e, a.2.1 + j * d.ss, a.2.2.1 + i * d.ds,
      a.2.2.2 && (decide (d.b = 0xFFFFFFFF) || (decide (0 ≤ j) && decide (j < d.b))))) (k, (c.src : Int), (c.dst : Int), true)
  (addr64 r.2.1, addr64 r.2.2.1, r.2.2.2)

/-- R196: the least and the first address beyond the destination bytes of a box. -/
def boxExtent (c : CopyDesc) : Int × Int :=
  c.dims.foldl (fun a d =>
    let w := ((d.e : Int) - 1) * d.ds
    (a.1 + min 0 w, a.2 + max 0 w)) ((c.dst : Int), (c.dst : Int) + 2 ^ c.esz)

/-- R196, R232: the arming check of a descriptor. -/
def armingHolds (s : State) (v : View) (c : CopyDesc) : Bool :=
  !c.asv || decide (boxCount c = 0) ||
  (decide (c.ast < Config.tiles) &&
    let e := boxExtent c
    inRegion (arrOf s v c.ast c.as_) e.1 e.2)

/-- R196: the check of AST: the issuing tile, or the tile that holds DST; a translation fault is its own. A box without
elements passes. -/
def astCheck (s : State) (v : View) (via : Via) (c : CopyDesc) : Except Cause (Option Resolved) :=
  if !c.asv ∨ c.ast = v.tile ∨ boxCount c = 0 then .ok none
  else match resolve s v via c.dst true with
    | .error k => .error k
    | .ok r =>
      if (r.tgt = .scratch ∨ r.tgt = .vault) ∧ paTile r.pa = c.ast then .ok (some r) else .error .copyDescriptor

/-- R192, R196: CPY. -/
def doCpy (h : Fin 8) (a : Fin 16) (n t : Bool) (s : State) : Eff :=
  let hd := if n then none else some h
  static s (.cpy h a n t) <| withBlock s hd a 2 fun s l b =>
    let v := commandView s
    match parseCopy (opTile s).alloy b with
    | none => fail .copyDescriptor
    | some d =>
      if !armingHolds s v d then fail .copyDescriptor
      else match astCheck s v (.core (coreIx s.focusCtx)) d with
      | .error k => if k = .copyDescriptor then fail k else .trap (addrTrap k (BitVec.ofNat 64 d.dst))
      | .ok r =>
        if (curTile s).copies.length ≥ 1024 then .wait s .offcore
        else
          let (id, q, s) := takeCommand hd 0x20 (l ++ r.toList) s
          let k : Copy := { id := id, ctx := s.focusCtx, launch := v.launch, seq := q, trap := t, nf := n, desc := d, view := v }
          .done (modCurTile (fun x => { x with copies := x.copies ++ [k] }) s) .next

/-- R192: the instruction. -/
def execCpy (h : Fin 8) (a : Fin 16) (n t : Bool) (s : State) : Host.Outcome State Fault Refusal := settle s (doCpy h a n t s)

/-- R200: entries reserved, in schedule order. -/
def insertReserve (r : Reserve) : List Reserve → List Reserve
  | [] => [r]
  | k :: l => if r.next < k.next then r :: k :: l else k :: insertReserve r l

/-- R200, R279, R417: CPYS: it reserves when it first executes, once the context's earlier stores are performed, waits while
its entries are released, and retires. -/
def doCpys (i : Fin 65536) (s : State) : Eff :=
  static s (.cpys i) <|
    let y := cur s
    let x := curTile s
    let wait (next left : Nat) (s : State) : Eff :=
      .wait (modCur (fun y => { y with cpysLeft := left, cpysNext := next, afterEret := false }) s) .offcore
    if y.cpysDone then .done (modCur (fun y => { setPm false y with cpysDone := false }) s) .next
    else if y.cpysLeft ≠ 0 then .wait s .offcore
    else if y.afterEret then released s fun s =>
      let left := wfld y.eval 16 16
      if left = 0 then .done (modCur (setPm false) s) .next
      else
        let next := wfld y.eval 0 16
        let mine := x.reserves.any fun r => decide (r.ctx = s.focusCtx) && decide (r.next = next)
        let r : Reserve := { ctx := s.focusCtx, next := next, left := left }
        let s := if mine then s else modCurTile (fun x => { x with reserves := insertReserve r x.reserves }) s
        wait next left s
    else if i.val = 0 then .done s .next
    else if x.stage + i.val > x.sched.length then fail .copyScheduleEnd
    else released s fun s =>
      let r : Reserve := { ctx := s.focusCtx, next := x.stage, left := i.val }
      wait x.stage i.val (modCurTile (fun x => { x with stage := x.stage + i.val, reserves := insertReserve r x.reserves }) s)

/-- R200: the instruction. -/
def execCpys (i : Fin 65536) (s : State) : Host.Outcome State Fault Refusal := settle s (doCpys i s)

/-- R200: the copy that releasing an entry makes; a failed check is its fault. -/
def releasedCopy (s : State) (t : Nat) (r : Reserve) (id : Nat) (n : W32) : Copy × Option Resolved :=
  let v := { viewOf s t r.ctx with known := knownNow s t r.ctx }
  let k : Copy := { id := id, ctx := r.ctx, launch := v.launch, seq := n, trap := true, nf := true, view := v, sched := true }
  match parseCopy (tileOf s t).alloy (bytesNat ((tileOf s t).sched.getD r.next [])) with
  | none => ({ k with cause := .copyDescriptor }, none)
  | some d =>
    let k := { k with desc := d }
    if !armingHolds s v d then ({ k with cause := .copyDescriptor }, none)
    else match astCheck s v .tile d with
    | .error c => ({ k with cause := c, aux := if c = .copyDescriptor then 0 else BitVec.ofNat 64 d.dst }, none)
    | .ok e => (k, e)

/-- R200: the first reserved entry is released into the copy queue, in schedule order, when there is room; the entries
of a CPYS that was stopped keep those behind them waiting. -/
def scheduleEntryRelease (t : Nat) (s : State) : State :=
  let x := tileOf s t
  match x.reserves with
  | [] => s
  | r :: rest =>
    if (ctxIn x r.ctx).cpysLeft = 0 ∨ (ctxIn x r.ctx).cpysNext ≠ r.next ∨ (ctxIn x r.ctx).stopped ∨ x.copies.length ≥ 1024 then s
    else
      let (n, s) := takeSeq t 0 s
      let (id, s) := freshId s
      let pc := (ctxIn x r.ctx).pc
      let s := countEvent t r.ctx 15 1 (monitor t r.ctx 4 0x21 pc 0 n s)
      let (k, e) := releasedCopy s t r id n
      let s := match e with
        | some e => (match e.entry with | some e => fillTlb .tile t e s | none => s)
        | none => s
      let s := modCtx t r.ctx (fun y => { y with seqLast := n, cpysLeft := r.left - 1, cpysNext := r.next + 1,
                                                 cpysDone := decide (r.left = 1) }) s
      let l := if r.left = 1 then rest else { r with next := r.next + 1, left := r.left - 1 } :: rest
      modTile t (fun x => { x with copies := x.copies ++ [k], reserves := l }) s

/-- R200: the step. -/
def execScheduleEntryRelease (t : Nat) (s : State) : Host.Outcome State Fault Refusal := .next (scheduleEntryRelease t s)

/-- Whether element `k` of a copy has landed. -/
def hasLanded (q : Copy) (k : Nat) : Bool := decide (k < q.next) || q.done.contains k

/-- R197: whether element `k` of a copy has still to be moved and no vault's agent has it. -/
def toMove (q : Copy) (k : Nat) : Bool := decide (k < boxCount q.desc) && !hasLanded q k && !q.flying.contains k

/-- Whether two elements may share one access: one destination segment, and both filled or of one source segment. -/
def sameAccess (a b : Nat × Nat × Bool) : Bool :=
  decide (a.2.1 / 64 = b.2.1 / 64) && (a.2.2 == b.2.2) && (!a.2.2 || decide (a.1 / 64 = b.1 / 64))

/-- The elements from `k` on that one access can move with the first. -/
def runFrom (q : Copy) (first : Nat × Nat × Bool) : Nat → Nat → List Nat
  | 0, _ => []
  | fuel + 1, k => if toMove q k ∧ sameAccess first (element q.desc k) then k :: runFrom q first fuel (k + 1) else []

/-- The first element from `k` on that is still to be moved. -/
def firstToMove (q : Copy) : Nat → Nat → Nat
  | 0, k => k
  | fuel + 1, k => if toMove q k then k else firstToMove q fuel (k + 1)

/-- R416: the elements that an access moves: those named, or the next ones in order; none where they cannot share one. -/
def accessElems (q : Copy) (l : List Nat) : List Nat :=
  match l with
  | [] =>
    let k := firstToMove q (q.done.length + q.flying.length) q.next
    runFrom q (element q.desc k) 64 k
  | k :: _ =>
    if decide l.Nodup && l.all fun i => toMove q i && sameAccess (element q.desc k) (element q.desc i) then l else []

/-- The copy past the elements that have landed from its next one on. -/
def compactCopy : Nat → Copy → Copy
  | 0, q => q
  | n + 1, q =>
    if q.done.contains q.next then compactCopy n { q with next := q.next + 1, done := q.done.filter fun k => decide (k ≠ q.next) }
    else q

/-- One copy of a tile changed. -/
def modCopy (t k : Nat) (f : Copy → Copy) (s : State) : State :=
  modTile t (fun x => { x with copies := x.copies.map fun q => if q.id = k then f q else q }) s

/-- R199: a copy meets a fault; the first one counts. -/
def faultCopy (t k : Nat) (c : Cause) (va : Nat) (s : State) : State :=
  modCopy t k (fun q => if q.cause = .none_ then { q with cause := c, aux := BitVec.ofNat 64 va } else q) s

/-- A stall of a copy since `b`, if it has begun, that may last `limit` cycles before it is a fault; `put` notes its beginning. -/
def stallCopy (t : Nat) (q : Copy) (b : Option Nat) (put : Option Nat → Copy → Copy) (limit : Nat) (c : Cause) (va : Nat)
    (s : State) : State :=
  match b with
  | none => modCopy t q.id (put (some s.time)) s
  | some b => if s.time ≥ b + limit then faultCopy t q.id c va s else s

/-- R112, R131, R133, R199, R318, R342: what a hindered access does to its copy. -/
def hinderCopy (t : Nat) (q : Copy) (h : Hindrance) (va : Nat) (s : State) : State :=
  match h with
  | .fault c => faultCopy t q.id c va s
  | .hold c => stallCopy t q q.heldSince (fun b q => { q with heldSince := b, stall := none }) Config.holdLimit c va s
  | .writeBlock =>
    stallCopy t q q.stall (fun b q => { q with stall := b, heldSince := none }) Config.writeBlockLimit .writeBlockTimeout va s
  | .page n =>
    if q.priFail then faultCopy t q.id .xlateAbsent va s
    else
      let s := requestPage n s
      modCopy t q.id (fun q => { q with pri := askedPage n s }) s
  | .repair u row => reportRow u row s
  | .later => s

/-- R343, R126, R341: an access to an end is sent. -/
def sendEnd (v : View) (r : Resolved) (va n : Nat) (s : State) : State :=
  let s := match r.entry with
    | some e => fillTlb .tile v.tile e s
    | none => s
  let s := if r.tgt = .vault then touchBank (paTile r.pa) (paOff r.pa) n .keep s else s
  sendAccess r va v.tile v.part s

/-- R198: what landing elements marks: their bytes, and the chunks whose last byte has landed; `q` is the copy after
them. -/
def markElems (q : Copy) (l : List Nat) (s : State) : State :=
  let c := q.desc
  if !c.asv then s
  else
    let k := arrOf s q.view c.ast c.as_
    let k1 := l.foldl (fun k i => markCount (element c i).2.1 (2 ^ c.esz) k) k
    let rest := (List.range (boxCount c)).filter fun i => !hasLanded q i
    let owed := rest.filterMap fun i => chunkOf k (element c i).2.1
    let k2 := l.foldl (fun k i =>
      match chunkOf k (element c i).2.1 with
      | some ch => if owed.contains ch then k else markChunk ch k
      | none => k) k1
    let seen := l.filterMap fun i =>
      match chunkOf k (element c i).2.1, resolve s q.view .tile (element c i).2.1 true with
      | some ch, .ok r => (commandWriteAt s q.id (lateAddr s q.view r.pa)).map fun n => (ch, n)
      | _, _ => none
    putArr q.view c.ast c.as_ (noteMarks seen k2) s

/-- R197: an end of an access: the agent of another tile's vault, or what the copy engine reaches itself. -/
inductive CopyEnd where
  | agent (u : Nat)
  | direct (r : Resolved)

/-- R197: the end at a virtual address, as the copy engine finds it. -/
def endRoute (s : State) (q : Copy) (va n : Nat) (write : Bool) : Except Hindrance CopyEnd :=
  match resolve s q.view .tile va write with
  | .error c => .error (.fault c)
  | .ok r =>
    if r.tgt = .vault ∧ paTile r.pa ≠ q.view.tile then .ok (.agent (paTile r.pa))
    else (endCheck s q.view .tile va n write).map .direct

/-- The number of free values for a list of reads at a peer (R346). -/
def freshUnits (n : Nat) : List Nat → State → List (Nat × Bool) × State
  | [], s => ([], s)
  | _ :: l, s =>
    let (v, s) := freshValue s
    let (r, s) := freshUnits n l s
    ((v.toNat % 2 ^ (8 * n), false) :: r, s)

/-- R194: what an access reads for its elements at the end that the copy engine reaches; `va` is the address that it
resolved. -/
def readElems (q : Copy) (l : List Nat) (va : Nat) (r : Resolved) (s : State) : List (Nat × Bool) × State :=
  let n := 2 ^ q.desc.esz
  let s := sendEnd q.view r va n (if r.tgt = Target.vault then checkSegment r.pa s else s)
  if r.tgt = Target.peer then freshUnits n l s
  else (l.map fun i =>
    let a := lateAddr s q.view (r.pa + (element q.desc i).1 - va)
    readAs s (copyKnows q.view q.id) a n, s)

/-- R198: elements of a copy have landed. -/
def elemsDone (t : Nat) (q : Copy) (l : List Nat) (s : State) : State :=
  let q' := compactCopy (q.done.length + l.length)
    { q with done := q.done ++ l, stall := none, heldSince := none, priFail := false, pri := none,
             flying := q.flying.filter (fun i => !l.contains i), got := q.got.filter fun g => decide (g.1 ≠ l) }
  markElems q' l (modCopy t q.id (fun _ => q') s)

/-- R194, R198, R199: the values of elements written at the end that the copy engine reaches. -/
def landElems (t : Nat) (q : Copy) (l : List Nat) (units : List (Nat × Bool)) (va : Nat) (r : Resolved) (s : State) : State :=
  let n := 2 ^ q.desc.esz
  if (r.tgt = Target.host ∨ r.tgt = Target.peer) ∧ units.any fun u => u.2 then faultCopy t q.id .poisonConsumed va s
  else
    let s := sendEnd q.view r va n s
    let out : List Landed := (l.zip units).map fun iu =>
      (lateAddr s q.view (r.pa + (element q.desc iu.1).2.1 - va), n, iu.2.1, iu.2.2)
    elemsDone t q l (if r.tgt = Target.peer then s else tagged (fun e => { e with writer := .copy q.id }) (landUnits out) s)

/-- R197: an access of a copy at another tile's vault is sent to that vault's agent. -/
def askAgent (t : Nat) (q : Copy) (u : Nat) (l : List Nat) (write : Bool) (units : List (Nat × Bool)) (s : State) : State :=
  let (n, s) := freshId s
  let r : AReq := { id := n, kind := .copyEnd q.id l write, seq := q.seq, view := q.view, units := units }
  modCopy t q.id (fun q => { q with flying := q.flying.filter (fun i => !l.contains i) ++ l, stall := none, heldSince := none, pri := none,
                                    got := q.got.filter fun g => decide (g.1 ≠ l) })
    { s with agentReqs := s.agentReqs ++ [(u, r)] }

/-- The least of the addresses of a list of elements. -/
def leastOf (q : Copy) (f : Nat × Nat × Bool → Nat) : List Nat → Nat
  | [] => 0
  | i :: l => l.foldl (fun m j => min m (f (element q.desc j))) (f (element q.desc i))

/-- R194, R197: values read or filled go to the destination end. -/
def writeElems (t : Nat) (q : Copy) (l : List Nat) (units : State → List (Nat × Bool) × State) (s : State) : State :=
  let va := leastOf q (fun e => e.2.1) l
  match endRoute s q va (2 ^ q.desc.esz) true with
  | .error h => hinderCopy t q h va s
  | .ok (.agent u) => let (v, s) := units s; askAgent t q u l true v s
  | .ok (.direct r) => let (v, s) := units s; landElems t q l v va r s

/-- R194, R416: one access of the copy engine for a copy: the values that an agent has read go on; otherwise elements are
read or filled. -/
def copyAccess (t k : Nat) (elems : List Nat) (s : State) : State :=
  match (tileOf s t).copies.find? fun q => decide (q.id = k) with
  | none => s
  | some q =>
    if q.cause ≠ .none_ ∨ q.cancelled ∨ q.pri.isSome ∨ heldByPair s t q.ctx q.id then s
    else match q.got.find? fun g => elems.isEmpty || decide (g.1 = elems) with
      | some g => writeElems t q g.1 (fun s => (g.2, s)) s
      | none =>
        match accessElems q elems with
        | [] => s
        | i :: r =>
          let l := i :: r
          if (element q.desc i).2.2 then
            let va := leastOf q (fun e => e.1) l
            match endRoute s q va (2 ^ q.desc.esz) false with
            | .error h => hinderCopy t q h va s
            | .ok (.agent u) => askAgent t q u l false [] s
            | .ok (.direct r) => writeElems t q l (readElems q l va r) s
          else writeElems t q l (fun s => (l.map fun _ => (q.desc.fill, false), s)) s

/-- R416: the step. -/
def execCopyAccess (t k : Nat) (elems : List Nat) (s : State) : Host.Outcome State Fault Refusal :=
  .next (copyAccess t k elems s)

/-- R182: the bytes that a copy has landed. -/
def landedBytes (q : Copy) : Nat := ((q.next + q.done.length) * 2 ^ q.desc.esz) % 2 ^ 32

/-- R184, R200: a copy that ended in a fault delivers it: to its future, as a trap of the option, and, for an entry of a
schedule whose issuer has ended, to the launch. -/
def deliverCopy (q : Copy) (s : State) : State :=
  let s := endFuture q.view q.id q.seq { code := 5, cause := q.cause.code, count := landedBytes q, aux := q.aux } s
  if q.sched then
    let runs := issuerRuns s q.view || (lateBase s q.view.launch q.view.tile).isSome
    if runs then pendTrap q.view q.cause q.seq q.aux s
    else modLaunch q.launch (fun l => { l with cause := some (l.cause.getD q.cause) }) s
  else if q.trap then pendTrap q.view q.cause q.seq q.aux s
  else s

/-- R197, R199: whether an access of a copy is with a vault's agent, or on its way there. -/
def copyFlies (s : State) (k : Nat) : Bool :=
  let mine (q : AReq) : Bool := match q.kind with
    | .copyEnd n _ _ => decide (n = k)
    | .rpc _ | .trav | .travRes | .gpool | .attn | .atomic => false
  (s.agentReqs.any fun r => mine r.2) || s.tiles.any fun x => x.2.agentq.any mine

/-- R189, R198, R199: a copy ends: cancelled, in a fault once the accesses already made are complete, or with every byte
landed. -/
def copyComplete (t k : Nat) (s : State) : State :=
  match (tileOf s t).copies.find? fun q => decide (q.id = k) with
  | none => s
  | some q =>
    let gone (s : State) : State := modTile t (fun x => { x with copies := x.copies.filter fun r => decide (r.id ≠ k) }) s
    if heldByPair s t q.ctx q.id then s
    else if q.cancelled then gone (endFuture q.view k q.seq { code := 6 } s)
    else if q.cause ≠ .none_ then (if copyFlies s k then s else gone (deliverCopy q s))
    else if q.next ≥ boxCount q.desc then gone (endFuture q.view k q.seq { code := 1, count := landedBytes q } s)
    else s

/-- R198: the step. -/
def execCopyComplete (t k : Nat) (s : State) : Host.Outcome State Fault Refusal := .next (copyComplete t k s)

end Sys2Proof.Machine
end

