-- ==== Sys2Proof/Machine/Agents.lean ====
section
/-! DEFINITION. Commands to vault agents as they issue, their way to an agent, and replies on their way back
(R201 to R206, R213 to R219). -/

namespace Sys2Proof.Machine

/-- R203, Table 8.6: reply bytes and bytes at TGT of a procedure, none outside the table. READ-BOX counts as one without a reply
(DESIGN CHOICE, log 79). -/
def rpcShape (proc len flg tgt : Nat) : Option (Nat × Nat) :=
  let ret := flg % 2
  let ind := flg / 2
  match proc with
  | 0 => if flg = 0 ∧ 1 ≤ len ∧ len ≤ 2048 then some (len, len) else none
  | 1 => if ret = 0 ∧ 1 ≤ len ∧ len ≤ (if ind = 1 then 2048 else 32) then some (0, len) else none
  | 2 | 3 | 4 | 5 =>
    if 1 ≤ len ∧ len ≤ (if ind = 1 then 512 else 8) ∧ tgt % 4 = 0 then some (if ret = 1 then 4 * len else 0, 4 * len) else none
  | 6 | 7 => if flg = 0 ∧ tgt % 8 = 0 then some (8, 8) else none
  | 8 | 9 => if flg = 0 then some (0, 0) else none
  | 10 => if flg = 0 ∧ 8 ≤ len ∧ len ≤ 65536 ∧ len % 8 = 0 ∧ tgt % 8 = 0 then some (0, len) else none
  | _ => if flg = 0 then some (0, 65536) else none

/-- R203: whether a procedure writes at TGT. -/
def rpcWrites (proc : Nat) : Bool := decide (proc ≠ 0) && decide (proc ≠ 8)

/-- R202, R203: the bytes of data that a procedure reads at the IND pointer. -/
def indBytes (proc len : Nat) : Nat := if proc = 1 then len else 4 * len

/-- R202, R203: what a request block asks for, none where it breaks Table 8.5, Table 8.6 or the rules of NF. -/
def rpcParse (s : State) (proc b : Nat) (nf : Bool) : Option (Nat × Nat) :=
  let flg := blk b 28 1
  let arv := blk b 29 1
  if flg > 3 ∨ arv ≥ 128 ∨ blk b 30 2 ≠ 0 then none
  else match rpcShape proc (blk b 24 4) flg (blk b 8 8) with
    | none => none
    | some (reply, n) =>
      let rply := blk b 16 8
      let armed := decide (arv / 64 = 1) && (Sparse.get ({} : ArrSet) (opTile s).arr (arv % 64)).armed
      if (rply = 0 ∧ (reply > 32 ∨ (nf ∧ reply ≠ 0))) ∨ (nf ∧ ¬armed) then none else some (reply, n)

/-- R287: the number under which the model sends a request to a peer device. -/
def peerDest (pa : Nat) : Nat := 4096 + paRegion pa

/-- R183, R201, R218: the end of an issue: a full queue or 32 outstanding commands stall it, otherwise the command leaves
for the agent of tile `dest`. -/
def sendCommand (s : State) (h : Option (Fin 8)) (major : Nat) (dest : Nat) (q : AReq) (l : List Resolved) : Eff :=
  let c := s.focusCtx
  if outstanding s s.focusTile c ≥ 32 ∨ (tileOf s dest).agentq.length ≥ 64 then .wait s .offcore
  else
    let v := commandView s
    let (id, n, s) := takeCommand h major l s
    let q := { q with id := id, seq := n, view := v, handle := (h.map fun h => h.val).getD 0 }
    .done { s with agentReqs := s.agentReqs ++ [(dest, q)] } .next

/-- R183: the tile whose agent serves an address, with its translation; a cause of R103, or TARGET_FORBIDDEN. -/
def serving (s : State) (va : Nat) (write peer : Bool) : Except Trap (Nat × Resolved) :=
  let w : Word := BitVec.ofNat 64 va
  match resolve s (curView s) (.core (coreIx s.focusCtx)) va write with
  | .error c => .error (addrTrap c w)
  | .ok r =>
    if r.tgt = .vault then .ok (paTile r.pa, r)
    else if r.tgt = .peer ∧ peer then .ok (peerDest r.pa, r)
    else .error (addrTrap .targetForbidden w)

/-- R183: the first trap of several areas. -/
def areas (l : List (Option Trap)) (k : Eff) : Eff :=
  match l.findSome? id with
  | some tr => .trap tr
  | none => k

/-- R201 to R203: RPC. -/
def doRpc (proc : Nat) (i : Instr) (h : Fin 8) (a : Fin 16) (n t : Bool) (s : State) : Eff :=
  let hd := if n then none else some h
  static s i <| withBlock s hd a 1 fun s l b =>
    match rpcParse s proc b n with
    | none => fail .rpcProcedure
    | some (reply, _) =>
      let rply := blk b 16 8
      let ind := decide (blk b 28 1 / 2 % 2 = 1)
      areas [if rply ≠ 0 ∧ reply ≠ 0 then ownArea s rply reply true else none,
             if ind then ownArea s (blk b 32 8) (indBytes proc (blk b 24 4)) false else none] <|
        match serving s (blk b 8 8) (rpcWrites proc) true with
        | .error tr => .trap tr
        | .ok (u, r) =>
          sendCommand s hd 0x22 u
            { kind := .rpc proc, block := BitVec.ofNat 512 b, blockVa := (rdS s a).val.toNat, trap := t, nf := n } (l ++ [r])

/-- R203: RPC.READ. -/
def doRpcRead (h : Fin 8) (a : Fin 16) (n t : Bool) (s : State) : Eff := doRpc 0 (.rpcRead h a n t) h a n t s

/-- R203: the instruction. -/
def execRpcRead (h : Fin 8) (a : Fin 16) (n t : Bool) (s : State) : Host.Outcome State Fault Refusal :=
  settle s (doRpcRead h a n t s)

/-- R203: RPC.WRITE. -/
def doRpcWrite (h : Fin 8) (a : Fin 16) (n t : Bool) (s : State) : Eff := doRpc 1 (.rpcWrite h a n t) h a n t s

/-- R203: the instruction. -/
def execRpcWrite (h : Fin 8) (a : Fin 16) (n t : Bool) (s : State) : Host.Outcome State Fault Refusal :=
  settle s (doRpcWrite h a n t s)

/-- R203: RPC.VADD.F32. -/
def doVaddF32 (h : Fin 8) (a : Fin 16) (n t : Bool) (s : State) : Eff := doRpc 2 (.vaddF32 h a n t) h a n t s

/-- R203: the instruction. -/
def execVaddF32 (h : Fin 8) (a : Fin 16) (n t : Bool) (s : State) : Host.Outcome State Fault Refusal :=
  settle s (doVaddF32 h a n t s)

/-- R203: RPC.VADD.I32. -/
def doVaddI32 (h : Fin 8) (a : Fin 16) (n t : Bool) (s : State) : Eff := doRpc 3 (.vaddI32 h a n t) h a n t s

/-- R203: the instruction. -/
def execVaddI32 (h : Fin 8) (a : Fin 16) (n t : Bool) (s : State) : Host.Outcome State Fault Refusal :=
  settle s (doVaddI32 h a n t s)

/-- R203: RPC.VMIN.F32. -/
def doVminF32 (h : Fin 8) (a : Fin 16) (n t : Bool) (s : State) : Eff := doRpc 4 (.vminF32 h a n t) h a n t s

/-- R203: the instruction. -/
def execVminF32 (h : Fin 8) (a : Fin 16) (n t : Bool) (s : State) : Host.Outcome State Fault Refusal :=
  settle s (doVminF32 h a n t s)

/-- R203: RPC.VMAX.F32. -/
def doVmaxF32 (h : Fin 8) (a : Fin 16) (n t : Bool) (s : State) : Eff := doRpc 5 (.vmaxF32 h a n t) h a n t s

/-- R203: the instruction. -/
def execVmaxF32 (h : Fin 8) (a : Fin 16) (n t : Bool) (s : State) : Host.Outcome State Fault Refusal :=
  settle s (doVmaxF32 h a n t s)

/-- R203: RPC.CAS64. -/
def doCas64 (h : Fin 8) (a : Fin 16) (n t : Bool) (s : State) : Eff := doRpc 6 (.cas64 h a n t) h a n t s

/-- R203: the instruction. -/
def execCas64 (h : Fin 8) (a : Fin 16) (n t : Bool) (s : State) : Host.Outcome State Fault Refusal :=
  settle s (doCas64 h a n t s)

/-- R203: RPC.SWAP64. -/
def doSwap64 (h : Fin 8) (a : Fin 16) (n t : Bool) (s : State) : Eff := doRpc 7 (.swap64 h a n t) h a n t s

/-- R203: the instruction. -/
def execSwap64 (h : Fin 8) (a : Fin 16) (n t : Bool) (s : State) : Host.Outcome State Fault Refusal :=
  settle s (doSwap64 h a n t s)

/-- R203: RPC.READ-BOX. -/
def doReadBox (h : Fin 8) (a : Fin 16) (n t : Bool) (s : State) : Eff := doRpc 8 (.readBox h a n t) h a n t s

/-- R203: the instruction. -/
def execReadBox (h : Fin 8) (a : Fin 16) (n t : Bool) (s : State) : Host.Outcome State Fault Refusal :=
  settle s (doReadBox h a n t s)

/-- R203: RPC.WRITE-BOX. -/
def doWriteBox (h : Fin 8) (a : Fin 16) (n t : Bool) (s : State) : Eff := doRpc 9 (.writeBox h a n t) h a n t s

/-- R203: the instruction. -/
def execWriteBox (h : Fin 8) (a : Fin 16) (n t : Bool) (s : State) : Host.Outcome State Fault Refusal :=
  settle s (doWriteBox h a n t s)

/-- R203: RPC.FILL. -/
def doRpcFill (h : Fin 8) (a : Fin 16) (n t : Bool) (s : State) : Eff := doRpc 10 (.rpcFill h a n t) h a n t s

/-- R203: the instruction. -/
def execRpcFill (h : Fin 8) (a : Fin 16) (n t : Bool) (s : State) : Host.Outcome State Fault Refusal :=
  settle s (doRpcFill h a n t s)

/-- R203: RPC.ZERO-PAGE. -/
def doZeroPage (h : Fin 8) (a : Fin 16) (n t : Bool) (s : State) : Eff := doRpc 11 (.zeroPage h a n t) h a n t s

/-- R203: the instruction. -/
def execZeroPage (h : Fin 8) (a : Fin 16) (n t : Bool) (s : State) : Host.Outcome State Fault Refusal :=
  settle s (doZeroPage h a n t s)

/-- R206, Table 8.7: the offset of the first field of a walk block that is outside its limits. -/
def walkBad (b : Nat) : Option Nat :=
  let pol := blk b 35 1
  if blk b 32 2 = 0 then some 32
  else if blk b 34 1 ≥ 16 then some 34
  else if (List.range 4).any fun i => decide (pol / 4 ^ i % 4 = 3) then some 35
  else if blk b 37 3 ≠ 0 then some 37
  else if blk b 40 4 = 0 then some 40
  else if blk b 56 8 = 0 ∨ blk b 56 8 % 64 ≠ 0 then some 56
  else none

/-- R206: TRAVERSAL at issue. -/
def walkTrap (off : Nat) : Eff := .trap { cause := .traversal, eval := BitVec.ofNat 64 off }

/-- R183, R315: the tile that takes up a walk: the one that owns the pointer, or the issuing tile. -/
def walkAgent (s : State) (p : Nat) : Nat :=
  if p = 0 then s.focusTile
  else match resolve s (curView s) (.core (coreIx s.focusCtx)) p false with
    | .ok r => if r.tgt = .vault then paTile r.pa else s.focusTile
    | .error _ => s.focusTile

/-- R206, R213: TRAV and TRAV.res up to the pointer at which the walk starts; `k` gets the token. -/
def withWalk (s : State) (i : Instr) (h : Fin 8) (a : Fin 16) (k : State → List Resolved → Nat → Eff) : Eff :=
  static s i <| withBlock s (some h) a 1 fun s l b =>
    match walkBad b with
    | some off => walkTrap off
    | none => areas [ownArea s (blk b 0 8) 128 false, ownArea s (blk b 56 8) 256 true] (k s l b)

/-- R206: TRAV. -/
def doTrav (h : Fin 8) (a : Fin 16) (t : Bool) (s : State) : Eff :=
  withWalk s (.trav h a t) h a fun s l b =>
    sendCommand s (some h) 0x23 (walkAgent s (blk b 8 8))
      { kind := .trav, block := BitVec.ofNat 512 b, blockVa := (rdS s a).val.toNat, trap := t } l

/-- R206: the instruction. -/
def execTrav (h : Fin 8) (a : Fin 16) (t : Bool) (s : State) : Host.Outcome State Fault Refusal := settle s (doTrav h a t s)

/-- R213: whether a token belongs to the walk block at an address of a tile. -/
def tokenFits (k t va : Nat) : Bool :=
  decide (blk k 8 8 = va) && decide (k % 2 ^ 11 = t) && decide (k / 2 ^ 21 % 2 ^ 11 = 0) && decide (blk k 56 8 = 0)

/-- R213: TRAV.res. -/
def doTravRes (h : Fin 8) (a : Fin 16) (t : Bool) (s : State) : Eff :=
  withWalk s (.travRes h a t) h a fun s l b =>
    let va := (rdS s a).val.toNat
    match resolve s (curView s) (.core (coreIx s.focusCtx)) (blk b 56 8) false with
    | .error c => .trap (addrTrap c (BitVec.ofNat 64 (blk b 56 8)))
    | .ok r =>
      let k := readMem s r.pa 64
      if segPoison s r.pa then fail .poisonConsumed
      else if !tokenFits k s.focusTile va then walkTrap 56
      else sendCommand s (some h) 0x23 (walkAgent s (blk k 16 8))
        { kind := .travRes, block := BitVec.ofNat 512 b, blockVa := va, token := BitVec.ofNat 512 k, trap := t } (l ++ [r])

/-- R213: the instruction. -/
def execTravRes (h : Fin 8) (a : Fin 16) (t : Bool) (s : State) : Host.Outcome State Fault Refusal := settle s (doTravRes h a t s)

/-- R214, Table 8.9: the element type of a table. -/
def poolTy (k : Nat) : Option Ty :=
  match Ty.ofCode k with
  | some .fe8 => some .fe8
  | some .f16 => some .f16
  | some .bf16 => some .bf16
  | some .f32 => some .f32
  | _ => none

/-- R214, Table 8.9: whether a lookup record is within the limits. -/
def poolOk (b : Nat) : Bool :=
  let ni := blk b 24 4
  let rl := blk b 32 2
  let b34 := blk b 34 1
  let pol := blk b 35 1
  match poolTy (b34 % 16) with
  | none => false
  | some t =>
    decide (blk b 0 8 % 4 = 0) && decide (1 ≤ ni) && decide (ni ≤ 4096) && decide (1 ≤ rl) && decide (rl ≤ 512) &&
    decide (b34 / 16 % 4 ≠ 3) && decide (b34 < 64) && decide (pol < 64) &&
    ((List.range 3).all fun i => decide (pol / 4 ^ i % 4 ≠ 3)) &&
    decide (blk b 36 4 % (tyWidth t / 8) = 0) && decide (blk b 40 8 ≠ 0) && decide (blk b 40 8 % 64 = 0) &&
    decide (blk b 48 16 = 0)

/-- R214: GPOOL. -/
def doGpool (h : Fin 8) (a : Fin 16) (t : Bool) (s : State) : Eff :=
  static s (.gpool h a t) <| withBlock s (some h) a 1 fun s l b =>
    if !poolOk b then fail .gather
    else
      let ni := blk b 24 4
      areas [ownArea s (blk b 0 8) (4 * ni) false,
             if blk b 8 8 ≠ 0 then ownArea s (blk b 8 8) (4 * ni) false else none,
             ownArea s (blk b 40 8) (4 * blk b 32 2) true] <|
        match serving s (blk b 16 8) false false with
        | .error tr => .trap tr
        | .ok (u, r) =>
          sendCommand s (some h) 0x24 u
            { kind := .gpool, block := BitVec.ofNat 512 b, blockVa := (rdS s a).val.toNat, trap := t } (l ++ [r])

/-- R214: the instruction. -/
def execGpool (h : Fin 8) (a : Fin 16) (t : Bool) (s : State) : Host.Outcome State Fault Refusal := settle s (doGpool h a t s)

/-- R216, Table 8.10: the query and key types of a descriptor. -/
def attnTys (k : Nat) : Option (Ty × Ty) :=
  match Ty.ofCode (k % 16), Ty.ofCode (k / 16) with
  | some q, some t =>
    if (q = .f16 ∨ q = .bf16) ∧ (t = .f16 ∨ t = .fe8 ∨ t = .q4) then some (q, t) else none
  | _, _ => none

/-- R216, Table 8.10: whether an attention descriptor is within the limits. -/
def attnOk (b : Nat) : Bool :=
  let d := blk b 32 2
  let hq := blk b 35 1 % 16 + 1
  let g := blk b 35 1 / 16 + 1
  match attnTys (blk b 34 1) with
  | none => false
  | some (_, t) =>
    decide (64 ≤ d) && decide (d ≤ 256) && (decide (t ≠ .fe8) || decide (d % 64 = 0)) && (decide (t ≠ .q4) || decide (d % 128 = 0)) &&
    decide (hq % g = 0) && decide (blk b 40 4 ≤ blk b 36 4) && decide (blk b 52 4 % 64 = 0) &&
    decide (blk b 56 8 % 64 = 0)

/-- R216: ATTN. -/
def doAttn (h : Fin 8) (a : Fin 16) (t : Bool) (s : State) : Eff :=
  static s (.attn h a t) <| withBlock s (some h) a 1 fun s l b =>
    if !attnOk b then fail .attention
    else
      let n := (blk b 35 1 % 16 + 1) * blk b 32 2
      areas [ownArea s (blk b 0 8) (2 * n) false, ownArea s (blk b 56 8) (4 * n) true] <|
        match serving s (blk b 8 8) false false with
        | .error tr => .trap tr
        | .ok (u, r) =>
          sendCommand s (some h) 0x25 u
            { kind := .attn, block := BitVec.ofNat 512 b, blockVa := (rdS s a).val.toNat, trap := t } (l ++ [r])

/-- R216: the instruction. -/
def execAttn (h : Fin 8) (a : Fin 16) (t : Bool) (s : State) : Host.Outcome State Fault Refusal := settle s (doAttn h a t s)

/-- R205: the banks of the vault of tile `u` that a request needs: those of the range of a procedure or of the end of a copy,
otherwise that of the first address that it names (log 72). -/
def bankNeeds (s : State) (u : Nat) (q : AReq) : List Nat :=
  let b := q.block.toNat
  let one (n : Nat) : List (Nat × Nat × Nat) := [(n, 0, 1)]
  let l : List (Nat × Nat × Nat) := match q.kind with
    | .rpc p =>
      let n := ((rpcShape p (blk b 24 4) (blk b 28 1) (blk b 8 8)).getD (0, 0)).2
      piecesOf (if p = 11 then blk b 8 8 / 65536 * 65536 else blk b 8 8) n
    | .trav | .attn => one (blk b 8 8)
    | .travRes => one (blk q.token.toNat 16 8)
    | .gpool => one (blk b 16 8)
    | .atomic => []
    | .copyEnd k l write =>
      match (tileOf s q.view.tile).copies.find? fun c => decide (c.id = k) with
      | some c => l.map fun i => ((if write then (element c.desc i).2.1 else (element c.desc i).1), 0, 1)
      | none => []
  (l.filterMap fun p => match resolve s q.view (.agent u) p.1 false with
    | .ok r => if r.tgt = .vault ∧ paTile r.pa = u then some (bankOf (rowNumber (paOff r.pa))) else none
    | .error _ => none).eraseDups

/-- R318: a request that arrives while another is held at a row under repair is held behind it. -/
def heldBehind (x : Tile) (q : AReq) : AReq :=
  { q with heldRow := (x.agentq.findSome? fun r => r.heldRow).filter fun row => x.vault.flagged.contains row }

/-- R24, R204, R218, R219: request `k` reaches its agent: behind those of its tile sent before it on its channel, and while
there is room. -/
def arriveRequest (k : Nat) (s : State) : State :=
  match s.agentReqs.find? fun r => decide (r.2.id = k) with
  | none => s
  | some (u, q) =>
    let behind := if q.isCommand then sentBefore s q.view.tile u k else copiedBefore s q.view.tile u k
    if behind ∨ heldByPair s q.view.tile q.view.ctx k ∨ u ≥ 4096 ∨ (tileOf s u).agentq.length ≥ 64 then s
    else modTile u (fun x => { x with agentq := x.agentq ++ [heldBehind x { q with arrive := s.time, banks := bankNeeds s u q }] })
      { s with agentReqs := s.agentReqs.filter fun r => decide (r.2.id ≠ k) }

/-- R182, R184: the reply of an agent. -/
def replyOf (q : AReq) (code : Nat) (cause : Cause) (flags count : Nat) (aux : Word) (bytes : List Byte) (poison : Bool) :
    Reply :=
  { id := q.id, tile := q.view.tile, cmd := q.id, code := code, cause := cause, flags := flags, count := count, aux := aux,
    bytes := bytes, poison := poison, view := q.view, trap := q.trap, trapCause := cause, seq := q.seq }

/-- R24: a reply leaves the agent of tile `u`. -/
def sendReply (u : Nat) (r : Reply) (s : State) : State :=
  let (n, s) := freshId s
  { s with replies := s.replies ++ [{ r with src := u, sent := n }] }

/-- A reply that carries no data. -/
def faultReply (q : AReq) (c : Cause) (aux : Word) : Reply := replyOf q 5 c 0 0 aux [] false

/-- R202, R198: a reply of an NF request marks its set with the bytes of it that lie in the region. -/
def markRange (va n : Nat) (k : ArrSet) : ArrSet :=
  let hits := (List.range n).filterMap fun i => chunkOf k (va + i)
  if k.armed then
    hits.eraseDups.foldl (fun k c => markChunk c k) { k with count := min 131071 (k.count + hits.length) }
  else k

/-- The scratchpad addresses of a range of an engine's requester, by pieces, or the first hindrance and its address. -/
def ownPieces (s : State) (v : View) (via : Via) (write : Bool) :
    List (Nat × Nat × Nat) → Except (Hindrance × Nat) (List (Nat × Nat × Nat))
  | [] => .ok []
  | p :: r =>
    match resolve s v via p.1 write, endCheck s v via p.1 p.2.2 write with
    | .ok x, r0 =>
      if x.tgt ≠ .scratch ∨ paTile x.pa ≠ v.tile then .error (.fault .targetForbidden, p.1)
      else match r0 with
      | .error h => .error (h, p.1)
      | .ok _ => match ownPieces s v via write r with
        | .error e => .error e
        | .ok l => .ok ((lateAddr s v x.pa, p.2.1, p.2.2) :: l)
    | .error c, _ => .error (.fault c, p.1)

/-- R266, R270: pieces read as one number, with their poison, by a party that may not pass over certain writes. -/
def readPieces (s : State) (mine : WriteEv → Bool) (l : List (Nat × Nat × Nat)) : Nat × Bool :=
  l.foldl (fun a p => let v := readAs s mine p.1 p.2.2; (a.1 + v.1 * 2 ^ (8 * p.2.1), a.2 || v.2)) (0, false)

/-- A number written over pieces. -/
def writePieces (l : List (Nat × Nat × Nat)) (v : Nat) (poison : Bool) (s : State) : State :=
  l.foldl (fun s p => landUnits [(p.1, p.2.2, v / 2 ^ (8 * p.2.1) % 2 ^ (8 * p.2.2), poison)] s) s

/-- Bytes that are each a free value. -/
def freshBytes : Nat → State → List Byte × State
  | 0, s => ([], s)
  | n + 1, s =>
    let (v, s) := freshValue s
    let (l, s) := freshBytes n s
    (BitVec.ofNat 8 v.toNat :: l, s)

/-- R198, R202, R282: the elements of a box that have landed together, in a set, with the writes of the command that did it. -/
def markBox (s : State) (q : AReq) (c : CopyDesc) (k : ArrSet) : ArrSet :=
  let all := List.range (boxCount c)
  let seen := all.filterMap fun i =>
    match chunkOf k (element c i).2.1, resolve s q.view .none_ (element c i).2.1 true with
    | some ch, .ok r => (commandWriteAt s q.id (lateAddr s q.view r.pa)).map fun n => (ch, n)
    | _, _ => none
  let k := noteMarks seen k
  let k := all.foldl (fun k i => markCount (element c i).2.1 (2 ^ c.esz) k) k
  (all.filterMap fun i => chunkOf k (element c i).2.1).eraseDups.foldl (fun k c => markChunk c k) k

/-- R198, R202, R203: a box has landed: the set of its descriptor and, of a READ-BOX without a future, the set that the
request names; one set named by both is marked once (log 63). -/
def markBoxes (q : AReq) (c : CopyDesc) (read : Bool) (s : State) : State :=
  let v := q.view
  let arv := blk q.block.toNat 29 1 % 64
  let s := if c.asv then putArr v c.ast c.as_ (markBox s q c (arrOf s v c.ast c.as_)) s else s
  if q.nf ∧ read ∧ ¬(c.asv ∧ c.ast = v.tile ∧ c.as_ = arv) then putArr v v.tile arv (markBox s q c (arrOf s v v.tile arv)) s else s

/-- The scratchpad places of the elements of a box, by the address that `f` takes of an element. -/
def ownElems (s : State) (q : AReq) (c : CopyDesc) (write : Bool) (f : Nat × Nat × Bool → Nat) :
    List Nat → Except (Hindrance × Nat) (List Nat)
  | [] => .ok []
  | i :: r =>
    match ownPieces s q.view .none_ write [(f (element c i), 0, 2 ^ c.esz)] with
    | .error e => .error e
    | .ok l => match ownElems s q c write f r with
      | .error e => .error e
      | .ok m => .ok ((l.head?.map fun p => p.1).getD 0 :: m)

/-- R203, R287: the box of a READ-BOX or a WRITE-BOX that a peer's agent performs: what it reads in its vault is free; a
cause and an address where it fails. -/
def peerBox (q : AReq) (read : Bool) (s : State) : Except (Cause × Nat) (Nat × State) :=
  let ptr := blk q.block.toNat 32 8
  let bad (h : Hindrance) (va : Nat) : Except (Cause × Nat) (Nat × State) :=
    .error (match h with | .fault c => (c, va) | _ => (.rpcRemote, va))
  match ownPieces s q.view .none_ false (piecesOf ptr 128) with
  | .error (h, va) => bad h va
  | .ok d =>
    let v := readPieces s (agentKnows q.view 4096) d
    if v.2 then .error (.poisonConsumed, ptr)
    else match parseCopy (alloyFor s q.view) v.1 with
      | none => .error (.copyDescriptor, ptr)
      | some c =>
        if (c.asv ∧ c.ast ≠ q.view.tile) ∨ !armingHolds s q.view c then .error (.copyDescriptor, ptr)
        else
          let all := List.range (boxCount c)
          let n := all.length * 2 ^ c.esz % 2 ^ 32
          match ownElems s q c read (fun e => if read then e.2.1 else e.1)
              (if read then all else all.filter fun i => (element c i).2.2) with
          | .error (h, va) => bad h va
          | .ok l =>
            if !read then .ok (n, s)
            else
              let s := (all.zip l).foldl (fun s ia =>
                let (v, s) := freshValue s
                let x := if (element c ia.1).2.2 then v.toNat % 2 ^ (8 * 2 ^ c.esz) else c.fill
                tagged (fun e => { e with writer := .agent q.id q.view.tile 4096 }) (landUnits [(ia.2, 2 ^ c.esz, x, false)]) s) s
              .ok (n, markBoxes q c true s)

/-- R24, R287, R346: a peer's agent answers a request, behind those that its tile sent to that device before it; what it
answers is free (log 18). -/
def peerAnswer (k : Nat) (s : State) : State :=
  match s.agentReqs.find? fun r => decide (r.2.id = k) && decide (4096 ≤ r.1) with
  | none => s
  | some (u, q) =>
    if heldByPair s q.view.tile q.view.ctx k ∨ sentBefore s q.view.tile u k then s
    else
      let s := { s with agentReqs := s.agentReqs.filter fun r => decide (r.2.id ≠ k) }
      let (o, s) := freshValue s
      let b := q.block.toNat
      let tgt := BitVec.ofNat 64 (blk b 8 8)
      if wbit o 0 then sendReply u (faultReply q .rpcRemote tgt) s
      else
        let box : Option Bool := match q.kind with
          | .rpc p => if p = 8 then some true else if p = 9 then some false else none
          | _ => none
        match box with
        | some read =>
          (match peerBox q read s with
           | .error (c, va) => sendReply u (faultReply q c (BitVec.ofNat 64 va)) s
           | .ok (n, s) => sendReply u (replyOf q 1 .none_ 0 n 0 [] false) s)
        | none =>
          let n := match q.kind with
            | .rpc p => (rpcShape p (blk b 24 4) (blk b 28 1) (blk b 8 8)).getD (0, 0)
            | _ => (0, 0)
          let (bytes, s) := freshBytes n.1 s
          sendReply u { replyOf q 1 .none_ (wfld o 1 4) n.2 0 bytes (wbit o 5) with
            rply := blk b 16 8, arv := if q.nf then some (blk b 29 1 % 64) else none } s

/-- An agent request on its way reaches its agent, or the peer's. -/
def arrive (k : Nat) (s : State) : State := peerAnswer k (arriveRequest k s)

/-- R24, R181, R184, R219: a reply lands at its requester, behind what its agent's tile sent there before it: its bytes, the mark
of an NF request, the future, and the trap. One whose bytes must wait for write-block is taken, and lands later; a limit of R112
ends it as it ends a copy. Where RPLY names a place, the data words stay zero but for a wide reply (DESIGN CHOICE, log 79). -/
def replyArrival (k : Nat) (s : State) : State :=
  match s.replies.find? fun r => decide (r.id = k) with
  | none => s
  | some r =>
    if !r.taken ∧ repliedBefore s r.src r.tile r.sent then s else
    let s0 := { s with replies := s.replies.filter fun q => decide (q.id ≠ k) }
    let data := if r.rply = 0 ∨ r.wide then BitVec.ofNat 256 (bytesNat (r.bytes.take 32)) else 0
    let f : Fut := { code := r.code, cause := r.cause.code, flags := r.flags, count := r.count, aux := r.aux, data := data,
                     poison := r.poison && (decide (r.rply = 0) || r.wide) }
    let finish (f : Fut) (c : Cause) (s : State) : State :=
      let s := endFuture r.view r.cmd r.seq f s
      if f.code = 5 ∧ r.trap then pendTrap r.view c r.seq f.aux s else s
    let gone (c : Cause) (va : Nat) : State :=
      finish { code := 5, cause := c.code, aux := BitVec.ofNat 64 va } c s0
    if r.code = 5 then finish f r.trapCause s0
    else if r.rply = 0 ∨ r.bytes.isEmpty then finish f .none_ s0
    else match ownPieces s0 r.view .none_ true (piecesOf r.rply r.bytes.length) with
      | .error (.fault c, va) => gone c va
      | .error (_, va) =>
        let b := r.stall.getD s.time
        if s.time ≥ b + Config.writeBlockLimit then gone .writeBlockTimeout va
        else { s with replies := s.replies.map fun q => if q.id = k then { q with taken := true, stall := some b } else q }
      | .ok l =>
        let s := tagged (fun e => { e with writer := .agent r.cmd r.tile r.src }) (writePieces l (bytesNat r.bytes) r.poison) s0
        let s := match r.arv with
          | some i =>
            let k := arrOf s r.view r.view.tile i
            let seen := l.filterMap fun p =>
              match chunkOf k (r.rply + p.2.1), commandWriteAt s r.cmd p.1 with
              | some ch, some n => some (ch, n)
              | _, _ => none
            putArr r.view r.view.tile i (noteMarks seen (markRange r.rply r.bytes.length k)) s
          | none => s
        finish f .none_ s

/-- R181: the step. -/
def execReplyArrival (k : Nat) (s : State) : Host.Outcome State Fault Refusal := .next (replyArrival k s)

end Sys2Proof.Machine
end

