-- ==== Sys2Proof/Machine/Service.lean ====
section
/-! DEFINITION. The vault agent: which request it serves next, the procedures of an RPC as indivisible steps, HOLD, and
cancel requests (R189, R203 to R205, R218, R411, R412). -/

namespace Sys2Proof.Machine

/-- R205: the pieces of a range in the vault of tile `u` as its agent translates them, or the first hindrance. -/
def vaultPieces (s : State) (v : View) (u : Nat) (write : Bool) :
    List (Nat × Nat × Nat) → Except (Hindrance × Nat) (List (Nat × Nat × Nat))
  | [] => .ok []
  | p :: r =>
    match resolve s v (.agent u) p.1 write with
    | .error _ => .error (.fault .rpcRemote, p.1)
    | .ok x =>
      if x.tgt ≠ .vault ∨ paTile x.pa ≠ u then .error (.fault .rpcRemote, p.1)
      else if write ∧ x.wb then .error (.writeBlock, p.1)
      else match vaultHindrance s u (paOff x.pa) .rpcRemote with
        | some h => .error (h, p.1)
        | none => match vaultPieces s v u write r with
          | .error e => .error e
          | .ok l => .ok ((x.pa, p.2.1, p.2.2) :: l)

/-- R341: the agent's TLB filled by the translation of an address. -/
def agentFill (v : View) (u va : Nat) (write : Bool) (s : State) : State :=
  match resolve s v (.agent u) va write with
  | .ok r => (match r.entry with | some e => fillTlb (.agent u) u e s | none => s)
  | .error _ => s

/-- R383: the segments of pieces as a read finds them. -/
def checkPieces (l : List (Nat × Nat × Nat)) (s : State) : State := l.foldl (fun s p => checkSegment p.1 s) s

/-- R129: the rows of pieces open. -/
def openPieces (u : Nat) (l : List (Nat × Nat × Nat)) (s : State) : State :=
  l.foldl (fun s p => touchBank u (paOff p.1) p.2.2 .keep s) s

/-- Whether a poisoned segment holds part of [off, off + n) of a range cut into pieces. -/
def poisonOver (s : State) (l : List (Nat × Nat × Nat)) (off n : Nat) : Bool :=
  l.any fun p => decide (p.2.1 < off + n) && decide (off < p.2.1 + p.2.2) && segPoison s p.1

/-- Element `i` of `w` bits of a number. -/
def nth (w v i : Nat) : Nat := v / 2 ^ (w * i) % 2 ^ w

/-- R98, R203: a float procedure on one element: the code and the flags. -/
def floatOp (f : Fmt) (op : Num → Num → Num × Nat) (a b : Nat) : Nat × Nat :=
  let v := op (f.decode a) (f.decode b)
  let r := f.round .ne v.1
  (r.1, r.2 ||| v.2)

/-- R182: events as the bits NV, OF, UF, NX of a status word. -/
def statusFlags (f : Nat) : Nat := f % 2 + f / 4 % 2 * 2 + f / 8 % 2 * 4 + f / 16 % 2 * 8

/-- R203: elements of 32 bits combined one by one, with the flags of all. -/
def combine32 (f : Nat → Nat → Nat × Nat) (n m b : Nat) : Nat × Nat :=
  let l := (List.range n).map fun i => f (nth 32 m i) (nth 32 b i)
  (packElems 32 (l.map fun x => x.1), l.foldl (fun a x => a ||| x.2) 0)

/-- R203, Table 8.6: the bytes written over `old`, none where nothing is written, and the flags. -/
def procedure (proc len old data : Nat) : Option Nat × Nat :=
  match proc with
  | 0 => (none, 0)
  | 1 => (some data, 0)
  | 2 => let v := combine32 (floatOp f32Fmt fun a b => sumNum .ne [a, b]) len old data; (some v.1, v.2)
  | 3 => let v := combine32 (fun a b => ((a + b) % 2 ^ 32, 0)) len old data; (some v.1, 0)
  | 4 => let v := combine32 (floatOp f32Fmt minNum) len old data; (some v.1, v.2)
  | 5 => let v := combine32 (floatOp f32Fmt maxNum) len old data; (some v.1, v.2)
  | 6 => (if old = nth 64 data 0 then some (nth 64 data 1) else none, 0)
  | 7 => (some (nth 64 data 0), 0)
  | 10 => (some (packElems 64 (List.replicate (len / 8) (nth 64 data 0))), 0)
  | _ => (some 0, 0)

/-- R203: the procedures whose written value depends on the old one, for the poison they write. -/
def usesOld (proc : Nat) : Bool := decide (2 ≤ proc) && decide (proc ≤ 6)

/-- R204, R403, R411: a request has been served: it is logged and counted, and it leaves the queue. -/
def servedBy (u : Nat) (q : AReq) (s : State) : State :=
  let s := logPut u 1 0 0 (tileOf s u).serves (q.view.tile + q.view.ctx * 2 ^ 11 + q.seq.toNat * 2 ^ 32) s
  let s := countCore u 0 16 1 (countCore u 1 16 1 s)
  modTile u (fun x => { x with serves := x.serves + 1, logWait := none,
                               agentq := x.agentq.filter fun r => decide (r.id ≠ q.id) }) s

/-- One request of a queue changed. -/
def modReq (u k : Nat) (f : AReq → AReq) (s : State) : State :=
  modTile u (fun x => { x with agentq := x.agentq.map fun q => if q.id = k then f q else q }) s

/-- R202, R205: a request ends in a fault: RPC_REMOTE with TGT for what its target end met, its own cause with the
address for an area of its requester. -/
def faultRpc (u : Nat) (q : AReq) (c : Cause) (va : Nat) (s : State) : State :=
  let aux := if c = .rpcRemote then blk q.block.toNat 8 8 else va
  servedBy u q (sendReply u (faultReply q c (BitVec.ofNat 64 aux)) s)

/-- R199, R205: a request fails: a command by its reply, the end of a copy by its copy's fault. -/
def failReq (u : Nat) (q : AReq) (c : Cause) (va : Nat) (s : State) : State :=
  match q.kind with
  | .copyEnd k _ _ => servedBy u q (faultCopy q.view.tile k c va s)
  | .rpc _ | .trav | .travRes | .gpool | .attn | .atomic => faultRpc u q c va s

/-- R112, R131, R205, R318: what hinders the head request of an agent, and with a repair every request behind it; a stall that has
ended is forgotten. -/
def hinderRpc (u : Nat) (q : AReq) (h : Hindrance) (va : Nat) (s : State) : State :=
  match h with
  | .fault c => failReq u q c va s
  | .hold _ =>
    modReq u q.id (fun q => { q with heldSince := some (q.heldSince.getD s.time), stall := none, heldRow := none }) s
  | .writeBlock =>
    (match q.stall with
     | none => modReq u q.id (fun q => { q with stall := some s.time, heldSince := none, heldRow := none }) s
     | some b => if s.time ≥ b + Config.writeBlockLimit then failReq u q .rpcRemote va s else s)
  | .repair t row =>
    reportRow t row (modReq u q.id (fun q => { q with heldSince := none, stall := none })
      (modTile u (fun x => { x with agentq := x.agentq.map fun q => { q with heldRow := some row } }) s))
  | .page _ | .later => s

/-- R203, R271: the procedures that read what they write. -/
def modifies (proc : Nat) : Bool := decide (2 ≤ proc) && decide (proc ≤ 7)

/-- The bytes of a reply with `n` of them, from `off` on, replaced by a number; an empty one stays. -/
def patchBytes (off n v : Nat) (l : List Byte) : List Byte :=
  if l.isEmpty then l else l.take off ++ natBytes v n ++ l.drop (off + n)

/-- R203, R204, R271: a procedure that reads what it writes does so on one segment, as one step: `x` holds its operand. The write
takes its place in home order, a CAS64 that fails writes what it read, and the reply gets the old bytes at `off`. -/
def modifyPart (u : Nat) (q : AReq) (p off : Nat) (x : Landed) (r : Reply) (s : State) : State × Reply :=
  let s := checkSegment x.1 s
  let m := readMem s x.1 x.2.1
  let bad := segPoison s x.1
  let v := procedure p (x.2.1 / 4) m x.2.2.1
  let w : Landed := (x.1, x.2.1, v.1.getD m, v.1.isSome && (x.2.2.2 || (usesOld p && bad)))
  let f := tagged (fun e => { e with writer := .agent q.id q.view.tile u }) (landUnits [w])
  (atomicWrite x.1 x.2.1 (q.view.known.join (atomicsBefore s x.1 x.2.1)) f s,
    { r with bytes := patchBytes off x.2.1 m r.bytes, flags := r.flags ||| statusFlags v.2, poison := r.poison || (bad && !r.bytes.isEmpty) })

/-- R204, R266: segment `k` of a procedure under way is written, by itself untorn. -/
def landPart (u : Nat) (q : AReq) (k : Nat) (r : Reply) (s : State) : State × Reply :=
  let w := q.writes.getD k []
  match w, q.kind with
  | [x], .rpc p =>
    if modifies p then
      modifyPart u q p ((q.writes.take k).flatMap id |>.foldl (fun n y => n + y.2.1) 0) x r s
    else (tagged (fun e => { e with writer := .agent q.id q.view.tile u }) (landUnits w) s, r)
  | _, _ => (tagged (fun e => { e with writer := .agent q.id q.view.tile u }) (landUnits w) s, r)

/-- R131, R318: what keeps the next segment of a procedure under way from its bank; HOLD is not entered before it is done. -/
def partHindrance (s : State) (u : Nat) (w : List Landed) : Option Hindrance :=
  match w with
  | x :: _ =>
    if paRegion x.1 ≠ 0 then none
    else if flaggedRow s u (paOff x.1) then some (.repair u (rowNumber (paOff x.1)))
    else if refreshing s u (bankOf (rowNumber (paOff x.1))) then some .later
    else none
  | [] => none

/-- R204, R266: a segment of a procedure under way is written, the one that the turn picks; after the last one the reply leaves. -/
def writePart (u : Nat) (q : AReq) (r : Reply) (s : State) : State :=
  let done (r : Reply) (s : State) : State :=
    servedBy u q (sendReply u r (match q.box with | some (c, read) => markBoxes q c read s | none => s))
  match pickOne s q.left with
  | none => done r s
  | some (k, rest) =>
    match partHindrance s u (q.writes.getD k []) with
    | some h => hinderRpc u q h 0 s
    | none =>
      let a := landPart u q k r s
      if rest = [] then done a.2 a.1
      else modReq u q.id (fun _ => { q with left := rest, answer := some a.2, stall := none, heldSince := none, heldRow := none }) a.1

/-- R204, R266: a procedure begins to write; no other request of its agent comes between its segments. -/
def beginWrites (u : Nat) (q : AReq) (l : List (List Landed)) (r : Reply) (s : State) : State :=
  writePart u { q with writes := l, left := List.range l.length } r s

/-- R203, R204: a procedure carried out on pieces of the vault, with the data it uses: it reads them, or writes them segment by
segment, or reads and writes each segment as one step. -/
def performRpc (u : Nat) (q : AReq) (proc : Nat) (l data : List (Nat × Nat × Nat)) (value : Nat) (s : State) : State :=
  let b := q.block.toNat
  let len := blk b 24 4
  let n := ((rpcShape proc len (blk b 28 1) (blk b 8 8)).getD (0, 0)).2
  let s := openPieces u l (checkPieces l (agentFill q.view u (blk b 8 8) (rpcWrites proc) s))
  let old := readPieces s (if rpcWrites proc then fun _ => true else agentKnows q.view u) l
  let spoiled := l.map fun p => poisonOver s data p.2.1 p.2.2
  let slice (w : Nat) (p : Nat × Nat × Nat) : Nat := w / 2 ^ (8 * p.2.1) % 2 ^ (8 * p.2.2)
  let writes : List (List Landed) :=
    if modifies proc then (l.zip spoiled).map fun pb => [(pb.1.1, pb.1.2.2, if proc ≥ 6 then value else slice value pb.1, pb.2)]
    else match (procedure proc len old.1 value).1 with
      | none => []
      | some w => (l.zip spoiled).map fun pb => [(pb.1.1, pb.1.2.2, slice w pb.1, pb.2)]
  let back := proc = 0 ∨ (2 ≤ proc ∧ proc ≤ 5 ∧ blk b 28 1 % 2 = 1) ∨ proc = 6 ∨ proc = 7
  let bytes := if back then natBytes (if proc = 0 then old.1 else 0) n else []
  let r := { replyOf q 1 .none_ 0 n 0 bytes (decide (proc = 0) && old.2) with
    rply := blk b 16 8, arv := if q.nf then some (blk b 29 1 % 64) else none }
  beginWrites u q writes r s

/-- R202 to R205: the procedures but READ-BOX and WRITE-BOX. -/
def serveRpc (u : Nat) (q : AReq) (proc : Nat) (s : State) : State :=
  let b := q.block.toNat
  let len := blk b 24 4
  let tgt := if proc = 11 then blk b 8 8 / 65536 * 65536 else blk b 8 8
  let n := ((rpcShape proc len (blk b 28 1) (blk b 8 8)).getD (0, 0)).2
  match vaultPieces s q.view u (rpcWrites proc) (piecesOf tgt n) with
  | .error (h, va) => hinderRpc u q h va s
  | .ok l =>
    if blk b 28 1 / 2 % 2 = 1 then
      match ownPieces s q.view (.agent u) false (piecesOf (blk b 32 8) (indBytes proc len)) with
      | .error (h, va) => hinderRpc u q h va s
      | .ok d => performRpc u q proc l d (readPieces s (agentKnows q.view u) d).1 s
    else performRpc u q proc l [] (blk b 32 32) s

/-- R203: the places of one element of a box: source, when it is read, and destination. -/
def boxElem (s : State) (q : AReq) (u : Nat) (read : Bool) (c : CopyDesc) (i : Nat) :
    Except (Hindrance × Nat) (Option Nat × Nat) :=
  let e := element c i
  let n := 2 ^ c.esz
  let one (l : List (Nat × Nat × Nat)) : Nat := (l.head?.map fun p => p.1).getD 0
  let vault (write : Bool) (va : Nat) := vaultPieces s q.view u write [(va, 0, n)]
  let own (write : Bool) (va : Nat) := ownPieces s q.view (.agent u) write [(va, 0, n)]
  match (if e.2.2 then ((if read then vault false e.1 else own false e.1).map fun l => some (one l)) else .ok none) with
  | .error x => .error x
  | .ok a => (if read then own true e.2.1 else vault true e.2.1).map fun l => (a, one l)

/-- All elements of a box placed, or the first hindrance. -/
def boxPlaces (s : State) (q : AReq) (u : Nat) (read : Bool) (c : CopyDesc) :
    List Nat → Except (Hindrance × Nat) (List (Option Nat × Nat))
  | [] => .ok []
  | i :: r =>
    match boxElem s q u read c i with
    | .error e => .error e
    | .ok p => match boxPlaces s q u read c r with
      | .error e => .error e
      | .ok l => .ok (p :: l)

/-- Units by the segments that they lie in. -/
def bySegment : Nat → List Landed → List (List Landed)
  | 0, _ => []
  | n + 1, l =>
    match l with
    | [] => []
    | x :: _ =>
      (l.filter fun y => decide (y.1 / 64 = x.1 / 64)) :: bySegment n (l.filter fun y => decide (y.1 / 64 ≠ x.1 / 64))

/-- R203: READ-BOX and WRITE-BOX, with the box that the descriptor in the requester's scratchpad describes. -/
def serveBox (u : Nat) (q : AReq) (read : Bool) (s : State) : State :=
  let b := q.block.toNat
  let ptr := blk b 32 8
  match ownPieces s q.view (.agent u) false (piecesOf ptr 128) with
  | .error (h, va) => hinderRpc u q h va s
  | .ok d =>
    let v := readPieces s (agentKnows q.view u) d
    if v.2 then faultRpc u q .poisonConsumed ptr s
    else match parseCopy (alloyFor s q.view) v.1 with
      | none => faultRpc u q .copyDescriptor ptr s
      | some c =>
        if (c.asv ∧ c.ast ≠ q.view.tile ∧ (read ∨ c.ast ≠ u)) ∨ !armingHolds s q.view c then
          faultRpc u q .copyDescriptor ptr s
        else
          let all := List.range (boxCount c)
          match boxPlaces s q u read c all with
          | .error (h, va) => hinderRpc u q h va s
          | .ok l =>
            let n := 2 ^ c.esz
            let s := l.foldl (fun s p => match p.1 with | some a => checkSegment a s | none => s) s
            let units : List Landed := l.map fun p =>
              match p.1 with
              | some a => let v := readAs s (agentKnows q.view u) a n; (p.2, n, v.1, v.2)
              | none => (p.2, n, c.fill, false)
            let r := replyOf q 1 .none_ 0 (all.length * n % 2 ^ 32) 0 [] false
            beginWrites u { q with box := some (c, read) } (bySegment units.length units) r s

/-- R218, R219: while its queue is empty, an agent takes the oldest request on its way to it. -/
def pullRequest (u : Nat) (s : State) : State :=
  if (tileOf s u).agentq.isEmpty then
    match s.agentReqs.find? fun r => decide (r.1 = u) && !heldByPair s r.2.view.tile r.2.view.ctx r.2.id with
    | some (_, q) => arriveRequest q.id s
    | none => s
  else s

/-- R412: from log position `n` on, the next entry of the agent: its position, requester, context and number. -/
def logServe (s : State) (u : Nat) : Nat → Nat → Option (Nat × Nat × Nat × Nat)
  | 0, _ => none
  | fuel + 1, n =>
    let w := readMem s (logPa s u n) 8
    if w % 16 = 1 then
      let v := readMem s (logPa s u n + 8) 8
      some (n, v % 2 ^ 11, v / 2 ^ 11 % 8, v / 2 ^ 32)
    else logServe s u fuel (n + 1)

/-- R204, R281, R318: whether a request must wait for a walk that the agent began for a command before it: one of the same
tile, or one that is held at a row under repair (log 64). -/
def behindWalk (x : Tile) (q : AReq) : Bool :=
  x.walks.any fun w => (w.held && decide (w.req.arrive ≤ q.arrive)) ||
    (!w.slot && q.isCommand && decide (w.req.view.tile = q.view.tile))

/-- R115, R205: whether an access of the owner waits for a bank of its vault. -/
def ownerWaits (s : State) (t bank : Nat) : Bool :=
  let x := tileOf s t
  let here (pa : Nat) : Bool := decide (paRegion pa = 0) && decide (bankOf (rowNumber (paOff pa)) = bank) && vaultServes s t (paOff pa)
  ((List.range 8).any fun c => (ctxIn x c).accs.any fun a => decide (a.home = .ownVault) && decide (a.kind ≠ .atomic) && here a.pa &&
    !touchedFirst x c a.id (accWrites a) a.pa a.size) ||
  (x.moves.any fun m => !moveBehind x m && (moveReach m).any here)

/-- R205: whether a request must let the owner's waiting accesses go first: it has not waited more than 64 beats. -/
def ownerFirst (s : State) (u : Nat) (q : AReq) : Bool := !longWaited s q.arrive && q.banks.any (ownerWaits s u)

/-- R204, R412, R413: the request that an agent serves next, with the state in which it does: the head of its queue, or, in a
replay, the logged one, for which it waits; past the end of its log it waits for ever. -/
def nextRequest (u : Nat) (s : State) : State × Option AReq :=
  if replaying s u then
    let x := tileOf s u
    let total := readMem s (logPa s u 0 - 64) 8
    match logServe s u (total - x.logPos) x.logPos with
    | none =>
      (if x.logWait.isSome || (x.agentq.isEmpty && !s.agentReqs.any fun r => decide (r.1 = u)) then s
        else modTile u (fun x => { x with logWait := some s.time }) s, none)
    | some (n, t, c, k) =>
      let here (q : AReq) : Bool := viewIs s t c q.view && decide (q.seq.toNat = k)
      let s := match s.agentReqs.find? fun r => decide (r.1 = u) && here r.2 with
        | some (_, q) => arriveRequest q.id s
        | none => s
      match (tileOf s u).agentq.find? here with
      | some q =>
        if behindWalk (tileOf s u) q || ownerFirst s u q then (s, none) else (modTile u (fun x => { x with logPos := n }) s, some q)
      | none => (if x.logWait.isSome then s else modTile u (fun x => { x with logWait := some s.time }) s, none)
  else
    let s := pullRequest u s
    (s, (tileOf s u).agentq.head?.filter fun q => !behindWalk (tileOf s u) q && !ownerFirst s u q)

/-- R412: in a replay the served entry is passed. -/
def passEntry (u : Nat) (s s' : State) : State :=
  if replaying s u ∧ (tileOf s' u).serves ≠ (tileOf s u).serves then
    modTile u (fun x => { x with logPos := x.logPos + 1 }) s'
  else s'

/-- R203: the RPC that an agent takes is served. -/
def serveHead (u : Nat) (q : AReq) (s : State) : State :=
  match q.answer, q.kind with
  | some r, _ => writePart u q r s
  | none, .rpc p => if p = 8 ∨ p = 9 then serveBox u q (decide (p = 8)) s else serveRpc u q p s
  | none, .trav | none, .travRes | none, .gpool | none, .attn | none, .atomic | none, .copyEnd _ _ _ => s

/-- R197: the address that the end of a copy names. -/
def copyEndVa (s : State) (t k : Nat) (l : List Nat) (write : Bool) : Nat :=
  match (tileOf s t).copies.find? fun q => decide (q.id = k) with
  | some q => leastOf q (fun e => if write then e.2.1 else e.1) l
  | none => 0

/-- R197, R199, R203, R205: an agent reads or writes its vault for a copy of another tile; one that a fault has stopped still
completes the accesses already made, a cancelled one asks for nothing. -/
def serveEnd (u : Nat) (q : AReq) (k : Nat) (l : List Nat) (write : Bool) (s : State) : State :=
  let t := q.view.tile
  match (tileOf s t).copies.find? fun c => decide (c.id = k) with
  | none => servedBy u q s
  | some c =>
    if c.cancelled then servedBy u q s
    else
      let n := 2 ^ c.desc.esz
      match vaultPieces s q.view u write (l.map fun i => (if write then (element c.desc i).2.1 else (element c.desc i).1, 0, n)) with
      | .error (h, va) => hinderRpc u q h va s
      | .ok ps =>
        let s := agentFill q.view u (copyEndVa s t k l write) write s
        let s := servedBy u q (openPieces u ps s)
        if write then
          elemsDone t c l (tagged (fun e => { e with writer := .copy k })
            (landUnits ((ps.zip q.units).map fun pv => (pv.1.1, n, pv.2.1, pv.2.2))) s)
        else
          let s := checkPieces ps s
          let got := ps.map fun p => readAs s (copyKnows q.view k) p.1 n
          modCopy t k (fun c => { c with got := c.got ++ [(l, got)] }) s

/-- R205: an agent request stalled in HOLD for 2 µs faults. -/
def agentHoldTimeout (u : Nat) (s : State) : State :=
  match (tileOf s u).agentq.find? fun q => q.heldSince.isSome with
  | none => s
  | some q =>
    if s.time ≥ (q.heldSince.getD 0) + Config.holdLimit ∧ (tileOf s u).vault.hold ≠ .active then
      match q.kind with
      | .copyEnd k l w => servedBy u q (faultCopy q.view.tile k .rpcRemote (copyEndVa s q.view.tile k l w) s)
      | .gpool => servedBy u q (sendReply u (faultReply q .rpcRemote (BitVec.ofNat 64 (blk q.block.toNat 16 8))) s)
      | .atomic => s
      | .rpc _ | .trav | .travRes | .attn =>
        servedBy u q (sendReply u (faultReply q .rpcRemote (BitVec.ofNat 64 (blk q.block.toNat 8 8))) s)
    else s

/-- R205: the step. -/
def execAgentHoldTimeout (t : Nat) (s : State) : Host.Outcome State Fault Refusal := .next (agentHoldTimeout t s)

/-- R189: a request that is still queued, or a walk, is dropped where it is found, and its cancellation sent. -/
def dropCommand (k : Nat) (s : State) : State :=
  match s.tiles.findSome? fun x => (x.2.agentq.find? fun q => decide (q.id = k) && q.answer.isNone).map fun q => (x.1, q) with
  | some (u, q) =>
    sendReply u (replyOf q 6 .none_ 0 0 0 [] false)
      (modTile u (fun x => { x with agentq := x.agentq.filter fun r => decide (r.id ≠ k) }) s)
  | none =>
    match s.tiles.findSome? fun x => (x.2.walks.find? fun w => decide (w.req.id = k)).map fun w => (x.1, w) with
    | some (u, w) =>
      sendReply u (replyOf w.req 6 .none_ 0 w.steps 0 [] false)
        (modTile u (fun x => { x with walks := x.walks.filter fun w => decide (w.req.id ≠ k) }) s)
    | none =>
      match s.conts.find? fun c => decide (c.2.2.req.id = k) with
      | some (_, u, w) =>
        sendReply u (replyOf w.req 6 .none_ 0 w.steps 0 [] false)
          { s with conts := s.conts.filter fun c => decide (c.2.2.req.id ≠ k) }
      | none => s

/-- R189: a cancel request reaches the engine, behind the command it names; Table 8.3 says when it is honoured. -/
def cancelArrival (k : Nat) (s : State) : State :=
  match s.cancels.find? fun r => decide (r.1 = k) with
  | none => s
  | some (_, t, cmd) =>
    if s.agentReqs.any fun r => decide (r.2.id = cmd) then s
    else if cancelHeld s t k cmd ∨ sentBefore s t (cancelTile s t cmd) k then s
    else
      let s := { s with cancels := s.cancels.filter fun r => decide (r.1 ≠ k) }
      match (tileOf s t).copies.find? fun q => decide (q.id = cmd) with
      | some q =>
        if q.next = 0 ∧ q.done = [] ∧ q.cause = .none_ ∧ boxCount q.desc ≠ 0 then
          modCopy t cmd (fun q => { q with cancelled := true }) s
        else s
      | none => dropCommand cmd s

/-- R189: the step. -/
def execCancelArrival (k : Nat) (s : State) : Host.Outcome State Fault Refusal := .next (cancelArrival k s)

end Sys2Proof.Machine
end

