-- ==== Sys2Proof/Machine/Atomics.lean ====
section
/-! DEFINITION. Atomics at their home, and those of a vault's owner in the queue of its agent (R123, R124). -/

namespace Sys2Proof.Machine

/-- R32, R123: the float format of an atomic. -/
def atomFmt (n : Nat) : Fmt := if n = 8 then f64Fmt else f32Fmt

/-- R123, Table 5.3: the new value of an atomic of `n` bytes, and the flags it raises. -/
def atomicNew (op n m b c : Nat) : Nat × Nat :=
  let w := 2 ^ (8 * n)
  match op with
  | 0 => ((m + b) % w, 0)
  | 1 => (if sext (8 * n) m ≤ sext (8 * n) b then m else b, 0)
  | 2 => (if sext (8 * n) m ≤ sext (8 * n) b then b else m, 0)
  | 3 => (min m b, 0)
  | 4 => (max m b, 0)
  | 5 => (m &&& b, 0)
  | 6 => (m ||| b, 0)
  | 7 => (m ^^^ b, 0)
  | 8 => (b, 0)
  | 9 => (if m = b then c % w else m, 0)
  | 10 => floatOp (atomFmt n) (fun x y => sumNum .ne [x, y]) m b
  | 11 => floatOp (atomFmt n) minNum m b
  | _ => floatOp (atomFmt n) maxNum m b

/-- R115: an access of a context gone. -/
def dropAcc (t c k : Nat) (s : State) : State :=
  landBoth t c k (fun y => { y with accs := y.accs.filter fun a => decide (a.id ≠ k) }) s

/-- One access of a context changed. -/
def putAcc (t c : Nat) (a : Acc) (s : State) : State :=
  landBoth t c a.id (fun y => { y with accs := y.accs.map fun b => if b.id = a.id then a else b }) s

/-- R387, R388: a write of a context lands at its home: its own memory, or another party's. -/
def landWrite (t c pa n v : Nat) (poison : Bool) (s : State) : State :=
  if paRegion pa ≤ 1 ∧ paTile pa = t then ctxStore t c pa n v poison s
  else mirrorWrite pa n v poison (homeStore pa n v poison s)

/-- R269, R275, R277, R284: a write of an access of a context is performed at its home. -/
def landAcc (t c : Nat) (a : Acc) (pa n v : Nat) (poison : Bool) (s : State) : State :=
  let v' := if a.ord = .scseq then a.sight.learn (scBefore s t a.scope) else a.sight
  let s := ctxWrites t c a.id v' (landWrite t c pa n v poison) s
  if a.ord = .scseq then scSync t c a.id a.scope s else s

/-- R387: the shadow of a tile performs a local atomic on its own copy: `s` is the state after the primary's, `old` the one
before it. -/
def shadowAtomic (t c : Nat) (a : Acc) (s old : State) : State :=
  match Sparse.get none (tileOf old t).pairs c, shadowOf old t with
  | some _, some u =>
    if inTile t a.pa then
      let q := shadowPa a.pa u
      let v := atomicNew a.aop a.size (readMem old q a.size) a.data.toNat a.data2.toNat
      storeMem q a.size v.1 (segPoison old q || a.poison) s
    else s
  | _, _ => s

/-- R124, R268: an atomic is performed indivisibly, and what is hb-before it is what its release offers; what it read waits to be
returned, with its flags. -/
def performAtomic (t c : Nat) (a : Acc) (s : State) : State :=
  let (n, s) := freshId (checkSegment a.pa s)
  let m := readMem s a.pa a.size
  let bad := segPoison s a.pa
  let v := atomicNew a.aop a.size m a.data.toNat a.data2.toNat
  let took := if acquires a.ord then takes s (fun _ => true) (.ctx t) a.scope a.pa a.size else {}
  let past := Known.all [a.sight.before s t c a.id, atomicsBefore s a.pa a.size, took]
  let w := { a with sight := a.sight.learn past }
  let s := shadowAtomic t c a (atomicWrite a.pa a.size past (landAcc t c w a.pa a.size v.1 (bad || a.poison))
    (atomicReads t c a.id a.ord a.scope a.pa a.size (noteRead t c a.pa a.size s))) s
  putAcc t c { a with served := true, sent := n, data := BitVec.ofNat 512 m, data2 := BitVec.ofNat 64 v.2, poison := bad } s

/-- R124, R204: an own-vault atomic whose turn has come at the vault's agent. -/
def serveAtomic (u : Nat) (q : AReq) (s : State) : State :=
  match (ctxOf s u q.view.ctx).accs.find? fun a => decide (a.id = q.id) with
  | none => servedBy u q s
  | some a =>
    match vaultHindrance s u (paOff a.pa) .vaultHold with
    | some h => hinderRpc u q h a.va s
    | none => servedBy u q (performAtomic u q.view.ctx a (useBank u q.view.ctx (paOff a.pa) a.size a.pol a.site a.seq s))

/-- R124, R218: a retired atomic on the own vault joins the queue of the vault's agent, while there is room. -/
def queueAtomic (t c : Nat) (a : Acc) (s : State) : State :=
  let l := (tileOf s t).agentq
  if l.length ≥ 64 ∨ l.any fun q => decide (q.id = a.id) then s
  else
    let q : AReq := { id := a.id, kind := .atomic, seq := a.seq, view := viewOf s t c, arrive := s.time,
                      banks := [bankOf (rowNumber (paOff a.pa))] }
    modTile t (fun x => { x with agentq := x.agentq ++ [heldBehind x q] }) s

end Sys2Proof.Machine
end

