-- ==== Sys2Proof/Machine/Crypto.lean ====
section
/-! DEFINITION. The digest and the signature check that R367 and R368 name: SHAKE256 as FIPS 202 defines it, and the verification of a
padded Falcon-1024 signature as its submission defines it. The manual names both and describes neither (PRESUMED, log 76). -/

namespace Sys2Proof.Machine

/-- The round constants of Keccak-f[1600]. -/
def keccakConstants : List Word :=
  [0x0000000000000001, 0x0000000000008082, 0x800000000000808A, 0x8000000080008000, 0x000000000000808B, 0x0000000080000001,
   0x8000000080008081, 0x8000000000008009, 0x000000000000008A, 0x0000000000000088, 0x0000000080008009, 0x000000008000000A] ++
  [0x000000008000808B, 0x800000000000008B, 0x8000000000008089, 0x8000000000008003, 0x8000000000008002, 0x8000000000000080,
   0x000000000000800A, 0x800000008000000A, 0x8000000080008081, 0x8000000000008080, 0x0000000080000001, 0x8000000080008008]

/-- The rotations of the lanes, lane x + 5 y. -/
def keccakRotations : List Nat :=
  [0, 1, 62, 28, 27, 36, 44, 6, 55, 20, 3, 10, 43, 25, 39, 41, 45, 15, 21, 8, 18, 2, 61, 56, 14]

/-- One round of Keccak-f[1600]: θ, ρ, π, χ, ι. -/
def keccakRound (a : List Word) (k : Word) : List Word :=
  let column := (List.range 5).map fun x => (List.range 5).foldl (fun w y => w ^^^ a.getD (x + 5 * y) 0) 0
  let parity := (List.range 5).map fun x => column.getD ((x + 4) % 5) 0 ^^^ (column.getD ((x + 1) % 5) 0).rotateLeft 1
  let turned := (List.range 25).map fun i => (a.getD i 0 ^^^ parity.getD (i % 5) 0).rotateLeft (keccakRotations.getD i 0)
  let moved := (List.range 25).map fun i => turned.getD ((i % 5 + 3 * (i / 5)) % 5 + 5 * (i % 5)) 0
  let at_ (x y : Nat) : Word := moved.getD (x % 5 + 5 * y) 0
  (List.range 25).map fun i =>
    let w := at_ i (i / 5) ^^^ (~~~ at_ (i % 5 + 1) (i / 5) &&& at_ (i % 5 + 2) (i / 5))
    if i = 0 then w ^^^ k else w

/-- Keccak-f[1600]. -/
def keccak (a : List Word) : List Word := keccakConstants.foldl keccakRound a

/-- The bytes of a lane, the lowest first. -/
def laneBytes (w : Word) : List Byte := (List.range 8).map fun i => BitVec.ofNat 8 (w.toNat / 2 ^ (8 * i))

/-- A lane from its bytes. -/
def laneOf (l : List Byte) : Word := BitVec.ofNat 64 (l.foldr (fun b n => b.toNat + 256 * n) 0)

/-- A block of 136 bytes absorbed. -/
def absorbBlock (a : List Word) (l : List Byte) : List Word :=
  keccak (a.zipIdx.map fun k => if k.2 < 17 then k.1 ^^^ laneOf ((l.drop (8 * k.2)).take 8) else k.1)

/-- A message with the padding of SHAKE: whole blocks of 136 bytes. -/
def shakePadded (l : List Byte) : List Byte :=
  let k := 136 - l.length % 136
  if k = 1 then l ++ [0x9F] else l ++ 0x1F :: (List.replicate (k - 2) 0 ++ [0x80])

/-- The blocks of a padded message absorbed. -/
def absorb : Nat → List Byte → List Word → List Word
  | 0, _, a => a
  | n + 1, l, a => absorb n (l.drop 136) (absorbBlock a (l.take 136))

/-- The output of `n` blocks from a state on. -/
def squeeze : Nat → List Word → List Byte
  | 0, _ => []
  | n + 1, a => (a.take 17).flatMap laneBytes ++ squeeze n (keccak a)

/-- SHAKE256: the first `n` blocks of 136 bytes of its output. -/
def shakeBlocks (n : Nat) (l : List Byte) : List Byte :=
  let m := shakePadded l
  squeeze n (absorb (m.length / 136) m (List.replicate 25 0))

/-- R367, R368: the SHAKE256 digest of 64 bytes, its first byte the lowest. -/
def shake256 (l : List Byte) : BitVec 512 :=
  BitVec.ofNat 512 (((shakeBlocks 1 l).take 64).foldr (fun b n => b.toNat + 256 * n) 0)

/-- The modulus of Falcon. -/
def falconQ : Nat := 12289

/-- The bits of bytes, the highest of the first byte first. -/
def bitsOf (l : List Byte) : List Bool := l.flatMap fun b => (List.range 8).map fun i => b.getLsbD (7 - i)

/-- A number from its bits, the highest first. -/
def bitsNat (l : List Bool) : Nat := l.foldl (fun n b => 2 * n + if b then 1 else 0) 0

/-- The `n` coefficients of 14 bits of a public key. -/
def keyCoeffs : Nat → List Bool → List Nat
  | 0, _ => []
  | n + 1, l => bitsNat (l.take 14) :: keyCoeffs n (l.drop 14)

/-- The unary part of a coefficient, up to its 1: its length, and what follows it. -/
def unaryPart : List Bool → Option (Nat × List Bool)
  | [] => none
  | true :: l => some (0, l)
  | false :: l => (unaryPart l).map fun r => (r.1 + 1, r.2)

/-- The `n` coefficients of a compressed signature: sign, low seven bits, the rest in unary; −0 is refused, and so is a 1 after the last
one. -/
def sigCoeffs : Nat → List Bool → Option (List Int)
  | 0, l => if l.any id then none else some []
  | n + 1, l =>
    match l with
    | [] => none
    | sign :: l =>
      match unaryPart (l.drop 7) with
      | none => none
      | some (k, rest) =>
        let m := bitsNat (l.take 7) + 128 * k
        if l.length < 7 ∨ (sign ∧ m = 0) then none
        else (sigCoeffs n rest).map fun r => (if sign then -(m : Int) else (m : Int)) :: r

/-- The `n` coefficients that a stream of bytes hashes to: 16-bit numbers below 5 q, modulo q. -/
def hashCoeffs : Nat → List Byte → List Nat
  | n, a :: b :: l =>
    let t := 256 * a.toNat + b.toNat
    match n with
    | 0 => []
    | m + 1 => if t < 5 * falconQ then t % falconQ :: hashCoeffs m l else hashCoeffs (m + 1) l
  | _, _ => []

/-- A polynomial times x modulo x^1024 + 1. -/
def timesX (l : List Int) : List Int := -(l.getLast?.getD 0) :: l.dropLast

/-- The product of two polynomials modulo x^1024 + 1 and q. -/
def polyMul (a b : List Int) : List Int :=
  (a.foldl (fun r k => ((r.1.zipWith (fun x y => (x + k * y) % (falconQ : Int)) r.2), timesX r.2)) (b.map fun _ => (0 : Int), b)).1

/-- A residue modulo q in the range −(q − 1) / 2 to (q − 1) / 2. -/
def centred (k : Int) : Int :=
  let r := k % (falconQ : Int)
  if r > 6144 then r - falconQ else r

/-- R367: whether a padded Falcon-1024 signature of a message verifies under a public key. -/
def falconVerify (key msg sig : List Byte) : Bool :=
  let h := keyCoeffs 1024 (bitsOf (key.drop 1))
  let c := hashCoeffs 1024 (shakeBlocks 64 ((sig.drop 1).take 40 ++ msg))
  match sigCoeffs 1024 (bitsOf (sig.drop 41)) with
  | none => false
  | some s2 =>
    let s1 := (c.map fun k => (k : Int)).zipWith (fun a b => centred (a - b)) (polyMul s2 (h.map fun k => (k : Int)))
    decide (key.length = 1793) && decide (key.headD 0 = 0x0A) && h.all (fun k => decide (k < falconQ)) &&
    decide (sig.length = 1280) && decide (sig.headD 0 = 0x3A) && decide (c.length = 1024) &&
    decide ((s1 ++ s2).foldl (fun n k => n + k * k) 0 ≤ 70265242)

end Sys2Proof.Machine
end

