-- ==== Sys2Proof/Machine/Queues.lean ====
section
/-! DEFINITION. The sixteen host queues: entries, dependence, completion, and every command but LAUNCH (R325 to R330,
R336, R419). -/

namespace Sys2Proof.Machine

/-- R284, R326: a write of the dispatcher to host memory, which publishes what is hb-before it; nothing arrives while the link is
down. -/
def hostWrite (k : Known) (pa n v : Nat) (s : State) : State :=
  if s.mgmt.link then publishes k (fun s => writeMem pa n v (noteWrite pa n s)) s else s

/-- R325: the partition of a queue. -/
def queuePart (q : Queue) : Nat := wfld q.cfg 16 3

/-- R325: the place of an entry in its ring. -/
def slotPa (q : Queue) (idx : Nat) : Nat :=
  hostPa (wfld q.base 6 46 * 64 + 64 * (idx % 2 ^ (wfld q.cfg 0 4 + 6)))

/-- R326: the physical address that an address operand names. -/
def operandPa (a : Nat) : Nat := if a / 2 ^ 63 = 1 then a % 2 ^ 48 else hostPa a

/-- R326: bits of an address operand that must be zero. -/
def operandBad (a : Nat) : Bool :=
  if a / 2 ^ 63 = 1 then decide (a / 2 ^ 48 % 2 ^ 15 ≠ 0) else decide (a / 2 ^ 40 ≠ 0)

/-- Table 18.6: whether the operands of an entry break their rules; `e` is the entry as a number. -/
def operandsBad (e : Nat) : Bool :=
  let a := blk e 8 8
  let b := blk e 16 8
  let c := blk e 24 8
  let rest (off : Nat) : Bool := decide (blk e off (56 - off) ≠ 0)
  match blk e 0 1 with
  | 1 => operandBad a || decide (a % 256 ≠ 0) || rest 16
  | 2 => operandBad a || operandBad b || decide (c = 0) || decide (c ≥ 2 ^ 32) || rest 32
  | 3 => rest 8
  | 4 | 5 => decide (a ≥ 64) || rest 24
  | 6 => operandBad a || decide (a % 4 ≠ 0) || decide (b ≥ 2 ^ 32) || decide (c % 256 > 2) ||
      decide (c / 256 = 0) || decide (c / 256 > 255) || rest 32
  | 7 => decide (a ≥ 2 ^ 40) || decide (a % 8 ≠ 0) || rest 24
  | _ => true

/-- R326, R330: whether an entry is malformed. -/
def entryBad (e : Nat) : Bool := operandsBad e || decide (blk e 1 1 ≥ 4) || decide (blk e 2 6 ≠ 0)

/-- R325, R375: whether the entry at the head of a queue can be read. -/
def headReady (s : State) (q : Nat) : Bool :=
  let k := queueOf s q
  wbit k.cfg 31 && k.resetTo.isNone && decide (k.head ≠ k.tail) && s.mgmt.link && s.mgmt.ready

/-- R326: the entry at the head of a queue: as it was read, or as it stands in the ring. -/
def rawEntry (s : State) (q : Nat) : Nat :=
  let k := queueOf s q
  match k.entry with
  | some (_, e) => e.toNat
  | none => readMem s (slotPa k k.head) 64

/-- R325, R326, R375, R377: the entry that a queue may dispatch now, as far as the queue goes. -/
def headEntry (s : State) (q : Nat) : Option Nat :=
  let k := queueOf s q
  if headReady s q ∧ (partOf s (queuePart k)).run then k.entry.map fun e => e.2.toNat else none

/-- R327: whether the dependence set of an entry is every earlier command. -/
def dependsAll (e : Nat) : Bool := decide (blk e 1 1 % 2 = 1) || [3, 4, 6, 7].contains (blk e 0 1)

/-- R327: whether the dependence set of a head entry has completed. A COND, a WAITVAL and a FENCE complete at dispatch, so
none is ever in flight. -/
def depsDone (k : Queue) (e : Nat) : Bool :=
  k.flight.isEmpty || !dependsAll e

/-- R326, R375: the entries that a queue reset removes complete ABORTED, with the interrupt that an entry asks for, and the
queue stands at the tail it read. -/
def abortEntries (q : Nat) : Nat → State → State
  | 0, s => s
  | n + 1, s =>
    let k := queueOf s q
    let irq := decide (blk (rawEntry s q) 1 1 / 2 % 2 = 1)
    let s := hostWrite {} (slotPa k k.head + 56) 8 (completionWord 7 0 0) s
    let s := if irq then raiseMsix q s else s
    abortEntries q n (modQueue q (fun k => { k with head := (k.head + 1) % 2 ^ 32, entry := none }) s)

/-- R375: a queue reset completes once every dispatched entry has. -/
def settleReset (q : Nat) (s : State) : State :=
  let k := queueOf s q
  match k.resetTo with
  | some tl =>
    if k.flight.isEmpty then
      let s := match k.entry with
        | some (n, _) => journalEnd n (completionWord 7 0 0) s
        | none => s
      let s := abortEntries q (min ((tl + 2 ^ 32 - k.head) % 2 ^ 32) (2 ^ (wfld k.cfg 0 4 + 6))) s
      let s := modQueue q (fun k =>
        { k with head := tl, doneN := tl, resetTo := none, resetJournal := [], entry := none, skip := 0, since := none,
                 pri := none, priFail := false }) s
      k.resetJournal.foldl (fun s n => journalEnd n (completionWord 1 0 0) s) s
    else s
  | none => s

/-- R325, R327, R336: whether a queue's head is a LAUNCH that lacks nothing but its partition. -/
def waitingLaunch (s : State) (q : Nat) : Bool :=
  match headEntry s q with
  | some e => decide (blk e 0 1 = 1) && decide ((queueOf s q).skip = 0) && depsDone (queueOf s q) e
  | none => false

/-- R336: the time from which the head waits under the arbitration rules. -/
def noteWaiting (q : Nat) (s : State) : State :=
  let w := waitingLaunch s q
  modQueue q (fun k => { k with since := if w then some (k.since.getD s.time) else none,
                                raised := if w then k.raised else 0 }) s

/-- R371: the head of a queue that can be read, and has not been, arrives at the firmware core. -/
def headArrives (q : Nat) (s : State) : State :=
  if headReady s q && (queueOf s q).entry.isNone && !s.toAccept.contains (some q) then
    { s with toAccept := s.toAccept ++ [some q] }
  else s

/-- R286, R327: a queue after a command that has completed. -/
def orderAfter (c : Cmd) (k : Queue) : Queue :=
  { k with completed := k.completed.join c.known, known := if [3, 5, 6].contains c.kind then k.known.join c.known else k.known }

/-- R325, R326: a dispatched command's completion word, QDONE and interrupt. -/
def finish (q : Nat) (c : Cmd) (w : Nat) (s : State) : State :=
  let s := hostWrite c.known (slotPa (queueOf s q) c.idx + 56) 8 w s
  let s := modQueue q (fun k => orderAfter c { k with doneN := (k.doneN + 1) % 2 ^ 32,
                                                      flight := k.flight.filter fun x => decide (x.idx ≠ c.idx) }) s
  let s := if c.irq then raiseMsix q s else s
  noteWaiting q (settleReset q s)

/-- R325, R326, R372: a dispatched command completes, in its journal entry too. -/
def complete (q : Nat) (c : Cmd) (status cause value : Nat) (s : State) : State :=
  let w := completionWord status cause value
  finish q c w (journalEnd c.journal w s)

/-- R286: what the host had written before the doorbell of the command with an index. -/
def bellKnown (k : Queue) (idx : Nat) : Known :=
  ((k.bells.find? fun b => decide (0 < (b.1 + 2 ^ 32 - idx) % 2 ^ 32) && decide ((b.1 + 2 ^ 32 - idx) % 2 ^ 32 ≤ 2 ^ 31)).map
    fun b => b.2).getD {}

/-- R286, R327: what is hb-before the command at the head of a queue. -/
def headKnows (k : Queue) (e : Nat) : Known := (bellKnown k k.head).join (if dependsAll e then k.completed else k.known)

/-- R326: the head entry is dispatched and QHEAD advances. -/
def takeEntry (q : Nat) (s : State) : Cmd × State :=
  let k := queueOf s q
  let e := rawEntry s q
  let c : Cmd := { idx := k.head, kind := blk e 0 1, irq := decide (blk e 1 1 / 2 % 2 = 1),
                   entry := BitVec.ofNat 512 e, journal := (k.entry.map fun e => e.1).getD 0, known := headKnows k e }
  (c, headArrives q (modQueue q (fun k =>
    { k with head := (k.head + 1) % 2 ^ 32, flight := k.flight ++ [c], entry := none, since := none, raised := 0, pri := none,
             priFail := false, bells := k.bells.filter fun b => decide (b.1 ≠ (k.head + 1) % 2 ^ 32) }) s))

/-- A command that completes in the step that dispatches it, `k` more hb-before it than before its dispatch. -/
def takeAndComplete (q status cause value : Nat) (s : State) (k : Known := {}) : State :=
  let (c, s) := takeEntry q s
  complete q { c with known := c.known.join k } status cause value s

/-- R326, R371, R372, R373: the entry at the head of a queue is read, once, and takes its journal number; a ring that the
host answers with an error ends the command with HOST_ABORT. -/
def readHead (q : Nat) (s : State) : State :=
  let k := queueOf s q
  if headReady s q ∧ k.entry.isNone then
    let lost := hostErrs s (slotPa k k.head) false
    let e := if lost then 0 else rawEntry s q
    let kind := blk e 0 1
    let (n, s) := journalBegin 0 q kind (queuePart k) k.head (if kind = 1 then blk e 8 8 else 0) 0 0 s
    let s := modQueue q (fun k => { k with entry := some (n, BitVec.ofNat 512 e) }) s
    if lost ∧ k.skip = 0 then takeAndComplete q 4 Cause.hostAbort.code 0 s else noteWaiting q s
  else s

/-- R371: the firmware core accepts the head of a queue, unless something that arrived earlier waits. -/
def acceptHead (q : Nat) (s : State) : State :=
  if s.toAccept.head?.getD (some q) = some q then readHead q { s with toAccept := s.toAccept.erase (some q) } else s

/-- R326 to R328, R330: the head of a queue, when it is an entry of the kind that a step dispatches (or, for a FENCE, of no
kind): read, and then skipped, refused, or carried out by `k` once its dependence set has completed. -/
def dispatchKind (q kind : Nat) (k : Nat → State → State) (s : State) : State :=
  if !headReady s q then s
  else
    let raw := blk (rawEntry s q) 0 1
    if raw ≠ kind ∧ ¬(kind = 3 ∧ (raw < 1 ∨ 7 < raw)) then s
    else
      let s := acceptHead q s
      match headEntry s q with
      | none => s
      | some e =>
        let x := queueOf s q
        if x.skip ≠ 0 then modQueue q (fun x => { x with skip := x.skip - 1 }) (takeAndComplete q 6 0 0 s)
        else if !depsDone x e then s
        else if entryBad e then takeAndComplete q 3 Cause.fieldReserved.code 0 s
        else k e s

/-- R327: FENCE completes at dispatch. -/
def fenceCommand (q : Nat) (s : State) : State := dispatchKind q 3 (fun _ s => takeAndComplete q 1 0 0 s) s

/-- R327: the step. -/
def execFenceCommand (q : Fin 16) (s : State) : Host.Outcome State Fault Refusal := .next (fenceCommand q.val s)

/-- R286, R326: SIGNAL raises a timeline to at least a value; a WAITVAL of it comes after what is hb-before the SIGNAL. -/
def signalCommand (q : Nat) (s : State) : State :=
  dispatchKind q 4 (fun e s =>
    let k := blk e 8 8
    let v := max (Sparse.get 0 s.tln k).toNat (blk e 16 8)
    let seen := Sparse.modify {} k (fun w => w.join (headKnows (queueOf s q) e)) s.tlnSeen
    takeAndComplete q 1 0 0 { s with tln := Sparse.set k (BitVec.ofNat 64 v) s.tln, tlnSeen := seen }) s

/-- R326: the step. -/
def execSignal (q : Fin 16) (s : State) : Host.Outcome State Fault Refusal := .next (signalCommand q.val s)

/-- R327: WAITVAL is dispatched once its timeline has reached its value. -/
def waitvalCommand (q : Nat) (s : State) : State :=
  dispatchKind q 5 (fun e s =>
    if blk e 16 8 ≤ (Sparse.get 0 s.tln (blk e 8 8)).toNat then takeAndComplete q 1 0 0 s (Sparse.get {} s.tlnSeen (blk e 8 8))
    else s) s

/-- R327: the step. -/
def execWaitval (q : Fin 16) (s : State) : Host.Outcome State Fault Refusal := .next (waitvalCommand q.val s)

/-- R104, R329, R342: `n` bytes within one segment at a physical address, as the dispatcher reaches them. -/
def commandEnd (s : State) (pa n : Nat) (write : Bool) : Option Hindrance :=
  match targetOf pa with
  | none =>
    if paRegion pa = 1 ∧ paTile pa < 2048 then some (.fault .scratchRange) else some (.fault .xlateAbsent)
  | some .control | some .peer => some (.fault .targetForbidden)
  | some .scratch => if paOff pa + n > Config.scratchBytes then some (.fault .scratchRange) else none
  | some .vault => vaultHindrance s (paTile pa) (paOff pa) .rpcRemote
  | some .host =>
    if !s.mgmt.link then some (.fault .hostAbort)
    else if !hostAllows s pa write then some (.page (hostPage pa))
    else if hostErrs s pa write then some (.fault .hostAbort)
    else none

/-- R318, R342: a dispatcher access that must wait: it reports a flagged row and asks for a page. -/
def commandWaits (h : Hindrance) (s : State) : State :=
  match h with
  | .repair t row => reportRow t row s
  | .page n => requestPage n s
  | .fault _ | .hold _ | .writeBlock | .later => s

/-- R342: the page that a hindered dispatcher access waits for. -/
def pageOf (h : Hindrance) (s : State) : Option Nat :=
  match h with
  | .page n => askedPage n s
  | .repair _ _ | .fault _ | .hold _ | .writeBlock | .later => none

/-- R328: whether a predicate holds. -/
def predicate (op p c : Nat) : Bool :=
  match op with
  | 0 => decide (p = c)
  | 1 => decide (p ≠ c)
  | _ => decide (c ≤ p)

/-- R328: a COND completes; when its predicate does not hold the next SKIP entries are skipped. -/
def finishCond (q e status cause : Nat) (holds : Bool) (s : State) (k : Known := {}) : State :=
  let s := takeAndComplete q status cause (if holds then 1 else 0) s k
  if holds then s else modQueue q (fun k => { k with skip := blk e 25 1 }) s

/-- R286, R328: COND; it acquires at DEVICE scope. -/
def condCommand (q : Nat) (s : State) : State :=
  dispatchKind q 6 (fun e s =>
    let pa := operandPa (blk e 8 8)
    if (queueOf s q).priFail then finishCond q e 4 Cause.xlateAbsent.code false s
    else match commandEnd s pa 4 false with
      | some (.fault c) => finishCond q e 4 (if c = .hostAbort then c else Cause.xlateAbsent).code false s
      | some h =>
        let s := commandWaits h s
        modQueue q (fun k => { k with pri := pageOf h s }) s
      | none =>
        let s := if paRegion pa = 0 then checkSegment pa s else s
        let mine (w : WriteEv) : Bool := (headKnows (queueOf s q) e).has w.n
        finishCond q e 1 0 (predicate (blk e 24 1) (readAs s mine pa 4).1 (blk e 16 4)) s
          (takes s mine .dispatcher .device pa 4)) s

/-- R328: the step. -/
def execCond (q : Fin 16) (s : State) : Host.Outcome State Fault Refusal := .next (condCommand q.val s)

/-- R419: PUBLISH writes a value to a host word. -/
def publishCommand (q : Nat) (s : State) : State :=
  dispatchKind q 7 (fun e s =>
    takeAndComplete q 1 0 0 (hostWrite (headKnows (queueOf s q) e) (hostPa (blk e 8 8)) 8 (blk e 16 8) s)) s

/-- R419: the step. -/
def execPublishCommand (q : Fin 16) (s : State) : Host.Outcome State Fault Refusal := .next (publishCommand q.val s)

/-- R329: a COPY command is dispatched and runs on. -/
def copyCommand (q : Nat) (s : State) : State :=
  dispatchKind q 2 (fun _ s => noteWaiting q (takeEntry q s).2) s

/-- R329: the step. -/
def execCopy (q : Fin 16) (s : State) : Host.Outcome State Fault Refusal := .next (copyCommand q.val s)

/-- R329: one unit of a COPY: bytes that share an aligned 8-byte unit at both ends. -/
def copyUnit (src dst left : Nat) : Nat := min left (min (8 - src % 8) (8 - dst % 8))

/-- R356: poisoned data bound for the host are consumed. -/
def consumed (s : State) (src dst : Nat) : Bool := decide (paRegion dst = 16) && segPoison s src

/-- R266, R329: `n` bytes of one unit of a COPY moved, with `k` hb-before the command: what hinders it, or its writes. -/
def copyUnits (k : Known) (src dst n : Nat) (s : State) : State × Option Hindrance :=
  match commandEnd s src n false, commandEnd s dst n true with
  | some h, _ => (s, some h)
  | none, some h => (s, some h)
  | none, none =>
    let s := checkSegment src s
    if consumed s src dst then (s, some (.fault .poisonConsumed))
    else
      let v := readAs s (fun e => k.has e.n) src n
      (landUnits [(dst, n, v.1, v.2)] s, none)

/-- R266: the offset of a unit of a COPY that is still to be moved: the one that the turn picks, of those that begin from offset
`o` on; the first one from there when there are no others. -/
def copyOffset (c : Cmd) (src dst n : Nat) : Nat → Nat → Nat → Nat
  | 0, _, o => o
  | fuel + 1, k, o =>
    let next := o + copyUnit (src + o) (dst + o) (n - o)
    if next ≥ n then (if c.ahead.contains o then c.done else o)
    else if c.ahead.contains o then copyOffset c src dst n fuel k next
    else if k = 0 then o
    else copyOffset c src dst n fuel (k - 1) next

/-- A COPY past the units that it has moved from its first one on. -/
def compactCmd (src dst n : Nat) : Nat → Cmd → Cmd
  | 0, c => c
  | fuel + 1, c =>
    if c.ahead.contains c.done then
      compactCmd src dst n fuel { c with done := c.done + copyUnit (src + c.done) (dst + c.done) (n - c.done),
                                         ahead := c.ahead.erase c.done }
    else c

/-- R329: a COPY command in flight moves a unit, and completes when it has written every byte or met a fault. -/
def copyCommandComplete (q k : Nat) (s : State) : State :=
  match (queueOf s q).flight.find? fun c => decide (c.kind = 2) && decide (c.idx = k) with
  | none => s
  | some c =>
    let e := c.entry.toNat
    let n := blk e 24 8
    let src := operandPa (blk e 8 8)
    let dst := operandPa (blk e 16 8)
    if c.priFail then complete q c 4 Cause.xlateAbsent.code 0 s
    else
      let o := copyOffset c src dst n (s.pick + c.ahead.length + 1) s.pick c.done
      let r := copyUnits c.known (src + o) (dst + o) (copyUnit (src + o) (dst + o) (n - o)) s
      let put (y : Cmd) (s : State) : State :=
        modQueue q (fun x => { x with flight := x.flight.map fun z => if z.idx = k then y else z }) s
      match r.2 with
      | none =>
        let wrote : Known := { also := (List.range (r.1.writes - s.writes)).map fun i => s.writes + i }
        let c' := compactCmd src dst n (c.ahead.length + 1) { c with ahead := c.ahead ++ [o], pri := none, known := c.known.join wrote }
        if c'.done ≥ n then complete q c' 1 0 0 r.1 else put c' r.1
      | some (.fault f) => complete q c 4 f.code 0 r.1
      | some h =>
        let s := commandWaits h r.1
        put { c with pri := pageOf h s } s

/-- R329: the step. -/
def execCopyCommandComplete (q : Fin 16) (k : Nat) (s : State) : Host.Outcome State Fault Refusal :=
  .next (copyCommandComplete q.val k s)

/-- R286, R325, R375: a doorbell; one that arrives during a reset of its queue is dropped. -/
def qtail (q : Nat) (v : Nat) (s : State) : State :=
  if (queueOf s q).resetTo.isSome then s
  else noteWaiting q (headArrives q (modQueue q (fun k => { k with tail := v % 2 ^ 32, bells := k.bells ++ [(v % 2 ^ 32, s.pub)] }) s))

/-- R321, R365: what the host sends arrives only while the link is up. -/
def fromHost (f : State → State) (s : State) : State := if s.mgmt.link then f s else s

/-- R325: the step. -/
def execQtail (q : Fin 16) (v : Word) (s : State) : Host.Outcome State Fault Refusal :=
  .next (fromHost (qtail q.val v.toNat) s)

/-- R336: a head that has waited 10 ms is raised by one priority for its launch. -/
def priorityAging (q : Nat) (s : State) : State :=
  match (queueOf s q).since with
  | some b =>
    if b + 10000 * Config.cyclesPerMicro ≤ s.time then modQueue q (fun k => { k with raised := 1 }) s else s
  | none => s

/-- R336: the step. -/
def execPriorityAging (q : Fin 16) (s : State) : Host.Outcome State Fault Refusal := .next (priorityAging q.val s)

end Sys2Proof.Machine
end

