-- ==== Sys2Proof/Machine/Matrix.lean ====
section
/-! DEFINITION. The matrix operations: their issue, the queue, their start and completion (R155 to R180). -/

namespace Sys2Proof.Machine

/-- R157: a slot that the issuing context must hold. -/
def withSlot (s : State) (j : Fin 4) (k : Eff) : Eff :=
  if holdsSlot (opTile s) s.focusCtx j.val then k else fail .slotNotHeld

/-- R268, R273: the acquiring accesses and moves of the acting context that are still to be performed. -/
def acquiring (s : State) : List Nat :=
  ((cur s).accs.filter fun a => unperformed a && acquires a.ord).map (fun a => a.id) ++
  ((curMoves s).filter fun m => m.acq).map fun m => m.id

/-- R159: an operation joins the queue with the next number of its core; a full queue makes the context wait. -/
def issueMat (s : State) (o : MatOp) (k : State → State) : Eff :=
  if 8 ≤ ((curTile s).matq.filter fun o => !o.started).length then .wait s .offcore
  else
    let (n, s) := takeSeqCur s
    let (id, s) := freshId s
    let s := monitor s.focusTile s.focusCtx 4 (match o.kind with
      | .mmul => 0x30 | .mdrain => 0x31 | .mldw => 0x32 | .mswap => 0x33 | .macz => 0x34 | .msave => 0x37
      | .mrest => 0x38) (cur s).pc 0 n s
    .done (k (modCurTile (fun x =>
      { x with matq := x.matq ++ [{ o with id := id, ctx := s.focusCtx, seq := n, after := acquiring s,
                                           sight := (cur s).sight, kindAt := (Sparse.get {} x.slots o.slot).kind,
                                           site := siteOf (cur s) }] }) s)) .next

/-- R163: an entry of the alloy table as the group reads it. -/
def alloyOf (s : State) (e : Fin 8) : Word := Sparse.get 0 (opTile s).alloy e.val

/-- R173: an MREST queued on a slot. -/
def restoring (x : Tile) (j : Nat) : Bool := x.matq.any fun o => decide (o.kind = .mrest) && decide (o.slot = j)

/-- R169: the scale array of an operand checked at issue: none with the record as source. -/
def scaleArray (s : State) (fmt scl : Word) : Except Trap (Option Nat) :=
  if wbit fmt 5 then
    match checkAccess s (curView s) (.core (coreIx s.focusCtx)) scl 32 32 false .dflt .block with
    | .error tr => .error tr
    | .ok r => .ok (some r.pa)
  else .ok none

/-- R173: MMUL; `n` and `c` are NROW − 1 and NCOL − 1. -/
def doMmul (j : Fin 4) (e : Fin 8) (a f n c : Fin 16) (s : State) : Eff :=
  static s (.mmul j e a f n c) <| withName s a fun pa => withSlot s j <|
    let w := alloyOf s e
    let y := opCtx s
    if !eValid w then fail .alloyEntry
    else if wfld y.fmta 0 4 ≠ wfld w 4 4 ∨ wfld y.fmtb 0 4 ≠ wfld w 4 4 then fail .alloyFormat
    else if restoring (curTile s) j.val then .wait s .scoreboard
    else if (Sparse.get {} (curTile s).slots j.val).kind ≠ some (eCat w, eAcc w) then fail .alloyFormat
    else
      let go (arrA arrB : Option Nat) : Eff :=
        issueMat s { slot := j.val, kind := .mmul, entry := w, reg := pa, first := f.val, nrow := n.val + 1,
                     ncol := c.val + 1, mck := mck y && decide (c.val < 8), arrA := arrA, arrB := arrB }
          (touchReg pa)
      if eScl w then
        match scaleArray s y.fmta y.scla with
        | .error tr => .trap tr
        | .ok arrA => match scaleArray s y.fmtb y.sclb with
          | .error tr => .trap tr
          | .ok arrB => acquired s (go arrA arrB)
      else go none none

/-- R173: the instruction. -/
def execMmul (j : Fin 4) (e : Fin 8) (a f n c : Fin 16) (s : State) : Host.Outcome State Fault Refusal :=
  settle s (doMmul j e a f n c s)

/-- R174: MDRAIN. Its rows are pending writes from its issue on, so earlier uses of them go first. -/
def doMdrain (j : Fin 4) (d : Fin 16) (t : Ty) (s : State) : Eff :=
  static s (.mdrain j d t) <| withName s d fun pd => withSlot s j <|
    match (Sparse.get {} (curTile s).slots j.val).kind with
    | none => if restoring (curTile s) j.val then .wait s .scoreboard else fail .drainFormat
    | some (cat, i32) =>
      if restoring (curTile s) j.val then .wait s .scoreboard
      else if !drainAllowed cat i32 t then fail .drainFormat
      else readyRows s [] (allRows pd) <| issueMat s { slot := j.val, kind := .mdrain, reg := pd, ty := t } id

/-- R174: the instruction. -/
def execMdrain (j : Fin 4) (d : Fin 16) (t : Ty) (s : State) : Host.Outcome State Fault Refusal :=
  settle s (doMdrain j d t s)

/-- R171: MLDW. -/
def doMldw (j : Fin 4) (a : Fin 16) (s : State) : Eff :=
  withName s a fun pa => withSlot s j <| fillReady s j.val <|
    issueMat s { slot := j.val, kind := .mldw, reg := pa } (touchReg pa)

/-- R171: the instruction. -/
def execMldw (j : Fin 4) (a : Fin 16) (s : State) : Host.Outcome State Fault Refusal := settle s (doMldw j a s)

/-- R172: MSWAP. -/
def doMswap (j : Fin 4) (s : State) : Eff :=
  static s (.mswap j) <| withSlot s j <| issueMat s { slot := j.val, kind := .mswap } id

/-- R172: the instruction. -/
def execMswap (j : Fin 4) (s : State) : Host.Outcome State Fault Refusal := settle s (doMswap j s)

/-- R170: MACZ; the kind takes its new value at issue. -/
def doMacz (j : Fin 4) (e : Fin 8) (s : State) : Eff :=
  static s (.macz j e) <| withSlot s j <|
    let w := alloyOf s e
    if !eValid w then fail .alloyEntry
    else issueMat s { slot := j.val, kind := .macz, entry := w } (modCurTile fun x =>
      { x with slots := Sparse.modify {} j.val (fun (z : MSlot) => { z with kind := some (eCat w, eAcc w) }) x.slots })

/-- R170: the instruction. -/
def execMacz (j : Fin 4) (e : Fin 8) (s : State) : Host.Outcome State Fault Refusal := settle s (doMacz j e s)

/-- R163: MOPW. -/
def doMopw (e : Fin 8) (a : Fin 16) (s : State) : Eff :=
  static s (.mopw e a) <| ready s [a] <|
    match if anyPoison s [a] then none else alloyEntry ((rdS s a).val.toNat % 1024) with
    | none => fail .alloyEntry
    | some w =>
      let old := Sparse.get 0 (curTile s).alloy e.val
      .done (modPair s.focusTile s.focusCtx (fun k => { k with alloy := (e.val, old) :: k.alloy })
        (modCurTile (fun x => { x with alloy := Sparse.set e.val w x.alloy }) s)) .next

/-- R163: the instruction. -/
def execMopw (e : Fin 8) (a : Fin 16) (s : State) : Host.Outcome State Fault Refusal := settle s (doMopw e a s)

/-- R163: MOPR. -/
def doMopr (e : Fin 8) (d : Fin 16) (s : State) : Eff :=
  ready s [d] <| .done (wrS d { val := alloyOf s e } s) .next

/-- R163: the instruction. -/
def execMopr (e : Fin 8) (d : Fin 16) (s : State) : Host.Outcome State Fault Refusal := settle s (doMopr e d s)

/-- R175: an image operation: its 50 segments checked as those of a tile move. -/
def doImage (s : State) (j : Fin 4) (a : Fin 16) (kind : MatKind) (write : Bool) : Eff :=
  ready s [a] <| withSlot s j <| fillReady s j.val <| unpoisoned s [a] <|
    let va := (rdS s a).val.toNat
    let l := List.range 50
    match checkSegs s (curView s) (.core (coreIx s.focusCtx)) write .dflt va 64 l none with
    | .error tr => .trap tr
    | .ok rs =>
      if write ∧ rs.any (fun r => r.wb) then .wait s (.writeBlock (segVa va 64 (rs.findIdx fun r => r.wb)))
      else if overlapsStopped (opCtx s) va 3200 then .wait s .scoreboard
      else if rs.any (fun r => moveMeets s write r.pa 64) then .wait s .scoreboard
      else acquired s <| issueMat s { slot := j.val, kind := kind, pas := rs.map (fun r => r.pa), left := l } fun s =>
        let s := fillAll (.core (coreIx s.focusCtx)) s.focusTile rs s
        { s with grp := { s.grp with touch := s.grp.touch ++ l.map fun k => (segVa va 64 k, 64, write) } }

/-- R175: MSAVE. -/
def doMsave (j : Fin 4) (a : Fin 16) (s : State) : Eff := doImage s j a .msave true

/-- R175: the instruction. -/
def execMsave (j : Fin 4) (a : Fin 16) (s : State) : Host.Outcome State Fault Refusal := settle s (doMsave j a s)

/-- R175: MREST. -/
def doMrest (j : Fin 4) (a : Fin 16) (s : State) : Eff := doImage s j a .mrest false

/-- R175: the instruction. -/
def execMrest (j : Fin 4) (a : Fin 16) (s : State) : Host.Outcome State Fault Refusal := settle s (doMrest j a s)

/-- R115: whether an access of the context before an operation must be performed first, where the operation
touches `n` bytes at `pa`. -/
def priorAccess (x : Tile) (o : MatOp) (write : Bool) (pa n : Nat) : Bool := touchedFirst x o.ctx o.id write pa n

/-- R135: whether an ERET of a context is completing a move. -/
def resuming (x : Tile) (c : Nat) : Bool := x.moves.any fun m => decide (m.ctx = c) && m.resumed

/-- R171, R172: whether a fill of a slot's shadow plane that issued before the operation is still incomplete. -/
def fillBefore (x : Tile) (o : MatOp) : Bool :=
  x.moves.any (fun m => decide (m.op = .wld) && decide (m.reg = o.slot) && decide (m.order < o.id)) ||
  (List.range 8).any fun c => decide (stoppedFill (ctxIn x c) = some o.slot) && !resuming x c

/-- R137, R160: whether a source row of an operation has a pending write by an earlier group of its context. -/
def rowOwed (x : Tile) (o : MatOp) (k : Nat) : Bool :=
  let y := ctxIn x o.ctx
  x.moves.any (fun m => decide (m.ctx = o.ctx) && decide (m.order < o.id) && moveOwes m o.reg k) ||
  y.accs.any (fun a => decide (a.kind = .rowLoad) && decide (a.dest = o.reg) && decide (a.row = k) && decide (a.id < o.id)) ||
  (stoppedOwes y o.reg k false && !resuming x o.ctx) ||
  x.matq.any fun p => p.started && decide (p.kind = .mdrain) && decide (p.reg = o.reg)

/-- R268, R273: whether an acquiring access that an operation follows is still to be performed. -/
def acquirePending (x : Tile) (o : MatOp) : Bool :=
  o.after.any fun k => (ctxIn x o.ctx).accs.any (fun a => decide (a.id = k) && unperformed a) ||
    x.moves.any fun m => decide (m.id = k)

/-- R175: the segments of an image that an operation has still to read or write. -/
def imagePending (o : MatOp) : List Nat := o.left.map fun k => o.pas.getD k 0

/-- R266: the segment of an image that the turn moves next, its address, and the segments left after it. -/
def imageNext (s : State) (o : MatOp) : Option (Nat × Nat × List Nat) := (pickOne s o.left).map fun k => (k.1, o.pas.getD k.1 0, k.2)

/-- R160: whether the operation at the head may leave it, but for the vault (R131, R132, R134). An MREST does not wait for
an earlier WLD into the shadow plane of its slot (log 58). -/
def matReady (x : Tile) (o : MatOp) : Bool :=
  (!(matLoads o || decide (o.kind = .msave)) || !acquirePending x o) &&
  x.matq.all (fun p => !(p.started && decide (p.slot = o.slot))) &&
  match o.kind with
  | .mmul => (List.range o.nrow).all (fun k => !rowOwed x o (o.first + k)) &&
      !(o.arrA.any fun p => priorAccess x o false p 32) && !(o.arrB.any fun p => priorAccess x o false p 32)
  | .mldw => (List.range 16).all (fun k => !rowOwed x o k) && !fillBefore x o
  | .mswap => !fillBefore x o
  | .mdrain | .macz => true
  | .msave => (imagePending o).all fun p => !priorAccess x o true p 64
  | .mrest => (imagePending o).all fun p => !priorAccess x o false p 64

/-- One operation of a matrix queue changed. -/
def modOp (t k : Nat) (f : MatOp → MatOp) (s : State) : State :=
  modTile t (fun x => { x with matq := x.matq.map fun p => if p.id = k then f p else p }) s

/-- R177: a deferred trap: the operation has no effect, the later ones of its context on its slot are discarded, and
the cause is pending. -/
def deferMat (t : Nat) (o : MatOp) (cause : Cause) (s : State) : State :=
  let keep (p : MatOp) : Bool := decide (p.id < o.id) || decide (p.ctx ≠ o.ctx) || decide (p.slot ≠ o.slot)
  let s := modTile t (fun x => { x with matq := x.matq.filter keep }) s
  modCtx t o.ctx (fun y =>
    if y.phase = .running ∨ y.phase = .halted then
      { y with pend := y.pend ++ [{ cause := cause, seq := o.seq, eval := BitVec.ofNat 64 o.slot }] }
    else y) s

/-- R169: the scales of an operand: a cause, or the 16 values and their poison. -/
def scalesOf (arr : Option (Nat × Bool)) (stamp : W32) (r : Option ScaleRec) : Except Cause (BitVec 256 × Bool) :=
  match arr with
  | some v => .ok (BitVec.ofNat 256 v.1, v.2)
  | none =>
    match r with
    | none => .error .scaleAbsent
    | some r => if r.stamp ≠ stamp ∨ stamp = 0xFFFFFFFF then .error .scaleSequence else .ok (r.bits, r.poison)

/-- R111, R175: poison of the image's segments moved to the rows that they hold. -/
def poisonRows (bad : List Nat) (off : Nat) (rows : Sparse Row) : Sparse Row :=
  rows.map fun kr => (kr.1, { kr.2 with poison := kr.2.poison || bad.contains (off / 64 + kr.1) })

/-- R268: what is hb-before the reads of a matrix operation; an acquire of its own group that it followed has come meanwhile. -/
def opSight (s : State) (t : Nat) (o : MatOp) : Sight := if o.after = [] then o.sight else (ctxOf s t o.ctx).sight

/-- R170, R175: the kind that an MREST has loaded is that of the operations behind it on its slot, up to a MACZ. -/
def passKind (o : MatOp) (k : Option (Nat × Bool)) (x : Tile) : Tile :=
  let macz := x.matq.find? fun p => decide (p.kind = .macz) && decide (p.slot = o.slot) && decide (o.id < p.id)
  { x with matq := x.matq.map fun p =>
      let first := match macz with
        | some z => decide (p.id < z.id)
        | none => true
      if decide (p.slot = o.slot) && decide (o.id < p.id) && first then { p with kindAt := k } else p }

/-- R175: an MREST whose image has been read loads its slot. A kind that a later MACZ has set stays (R170). -/
def restoreSlot (t : Nat) (o : MatOp) (s : State) : State :=
  if o.bad.contains 0 ∨ o.bad.contains 1 ∨ o.buf.readN 0 1 ≠ 3 then deferMat t o .accImage s
  else
    let later := (tileOf s t).matq.any fun p => decide (p.kind = .macz) && decide (p.slot = o.slot) && decide (o.id < p.id)
    modTile t (fun x =>
      let old := Sparse.get {} x.slots o.slot
      let z := slotFrom o.buf 0 old.owner
      let w := { z with kind := if later then old.kind else z.kind,
                        active := { z.active with rows := poisonRows o.bad 128 z.active.rows },
                        shadow := { z.shadow with rows := poisonRows o.bad 1152 z.shadow.rows },
                        acc := poisonRows o.bad 2176 z.acc }
      passKind o z.kind { x with slots := Sparse.set o.slot w x.slots }) (modOp t o.id (fun p => { p with started := true }) s)

/-- R126, R403: an access of a matrix operation takes its bank, when it is to the own vault. -/
def opBank (t : Nat) (o : MatOp) (pa n : Nat) (s : State) : State :=
  if paRegion pa = 0 ∧ paTile pa = t then useBank t o.ctx (paOff pa) n .keep o.site o.seq s else s

/-- R175, R266: MREST reads its image at the head of the queue, one segment at a time. -/
def readImage (t : Nat) (o : MatOp) (s : State) : State :=
  match imageNext s o with
  | none => restoreSlot t o s
  | some (k, pa, rest) =>
    let s := noteRead t o.ctx pa 64 (checkSegment pa (opBank t o pa 64 s))
    let (v, s) := ctxRead t o.ctx o.id (opSight s t o) .relaxed .device pa 64 s
    let o := { o with left := rest, since := 0, buf := Memory.writeN (64 * k) v.1 64 o.buf,
                      bad := if v.2 then insertNat k o.bad else o.bad }
    modOp t o.id (fun _ => o) s

/-- R169, R270: a scale array as an MMUL reads it. -/
def readScale (t : Nat) (o : MatOp) (arr : Option Nat) (s : State) : Option (Nat × Bool) × State :=
  match arr with
  | none => (none, s)
  | some pa =>
    let s := noteRead t o.ctx pa 32 (checkSegment pa (opBank t o pa 32 s))
    let (v, s) := ctxRead t o.ctx o.id (opSight s t o) .relaxed .device pa 32 s
    (some v, s)

/-- R160, R169: an operation leaves the head with what it reads. The scales of A are checked before those of B (log 58). -/
def startMat (t : Nat) (o : MatOp) (s : State) : State :=
  let (va, s) := readScale t o o.arrA s
  let (vb, s) := readScale t o o.arrB s
  let x := tileOf s t
  let begin_ (o : MatOp) (s : State) : State := modOp t o.id (fun _ => { o with started := true, since := 0 }) s
  match o.kind with
  | .mmul =>
    let g := Sparse.get {} x.xregs o.reg
    let w := (Sparse.get {} x.slots o.slot).active
    let o := { o with aRows := g.rows }
    if eScl o.entry then
      match scalesOf va g.stamp g.srec with
      | .error c => deferMat t o c s
      | .ok a => match scalesOf vb w.stamp w.srec with
        | .error c => deferMat t o c s
        | .ok b => begin_ { o with scA := a.1, scB := b.1, scPoison := a.2 || b.2 } s
    else begin_ o s
  | .mldw =>
    let g := Sparse.get {} x.xregs o.reg
    begin_ { o with aRows := g.rows, aStamp := g.stamp, aRec := g.srec } s
  | .mrest => readImage t o s
  | .mdrain | .mswap | .macz | .msave => begin_ o s

/-- R131, R132, R134, R319: how the own vault receives the next segment of an image operation: none when it serves it, otherwise
its offset. -/
def imageBlocked (s : State) (t : Nat) (o : MatOp) : Option Nat :=
  match imageNext s o with
  | some (_, p, _) => if paRegion p = 0 ∧ (vaultServes s t (paOff p) = false ∨ agentFirst s t (paOff p)) then some (paOff p) else none
  | none => none

/-- R133, R134, R415: an image operation that the own vault does not serve at an offset. -/
def waitImage (t : Nat) (o : MatOp) (off : Nat) (s : State) : State :=
  let v := (tileOf s t).vault
  if v.hold ≠ .active then (if o.since = 0 then modOp t o.id (fun p => { p with since := s.time + 1 }) s else s)
  else if v.flagged.contains (rowNumber off) ∧ ¬v.repairing.contains (rowNumber off) then
    beginRepair t (some (rowNumber off)) s
  else s

/-- R160: the head of the matrix queue leaves it when its operands are ready. An image operation at a flagged row
reports the row and waits, as a store does (R415; log 17). -/
def matrixOpStart (t : Nat) (s : State) : State :=
  let x := tileOf s t
  match x.matq.find? fun o => !o.started with
  | none => s
  | some o =>
    if !matReady x o then s
    else match imageBlocked s t o with
      | none => startMat t o s
      | some off => waitImage t o off s

/-- R160: the step. -/
def execMatrixOpStart (t : Nat) (s : State) : Host.Outcome State Fault Refusal := .next (matrixOpStart t s)

/-- R173: one accumulator row after its row pass, and the flags. -/
def mulRow (o : MatOp) (z : MSlot) (r : Nat) : Row × Nat :=
  let a := Sparse.get ({} : Row) o.aRows r
  let old := Sparse.get ({} : Row) z.acc r
  let sA := if eScl o.entry then scaleNum o.scA r else .fin false 1 0
  let l := (List.range 16).map fun n =>
    if n < o.ncol then
      rowPass o.entry (accElem old n) a.bits (Sparse.get ({} : Row) z.active.rows n).bits sA
        (if eScl o.entry then scaleNum o.scB n else .fin false 1 0)
    else (accElem old n, 0)
  let flags := l.foldl (fun f x => f ||| x.2) 0
  let p := a.poison || o.scPoison || (List.range o.ncol).any fun n => (Sparse.get ({} : Row) z.active.rows n).poison
  ({ bits := BitVec.ofNat 512 (packElems 32 (l.map fun x => x.1)),
     poison := old.poison || p || (eExc o.entry && decide (flags % 2 = 1)) }, flags)

/-- R173: a slot after an MMUL, and the flags. -/
def mulSlot (o : MatOp) (z : MSlot) : MSlot × Nat :=
  (List.range o.nrow).foldl (fun zf k =>
    let v := mulRow o z (o.first + k)
    ({ zf.1 with acc := Sparse.set (o.first + k) v.1 zf.1.acc }, zf.2 ||| v.2)) (z, 0)

/-- R174: a row of an accumulator drained. -/
def drainRow (cat : Nat) (i32 : Bool) (t : Ty) (r : Row) : Row × Nat :=
  let l := (List.range 16).map fun n => drainElem cat i32 t (accElem r n)
  ({ bits := BitVec.ofNat 512 (packElems (tyWidth t) (l.map fun x => x.1)), poison := r.poison },
   l.foldl (fun f x => f ||| x.2) 0)

/-- R174: the rows that a drain writes, and the flags. -/
def drainRows (cat : Nat) (i32 : Bool) (t : Ty) (acc : Sparse Row) : List Row × Nat :=
  let l := (List.range 16).map fun r => drainRow cat i32 t (Sparse.get ({} : Row) acc r)
  (l.map fun x => x.1, l.foldl (fun f x => f ||| x.2) 0)

/-- R175, R266: MSAVE writes segment `k` of its image, with the kind of its place in the queue (R170). -/
def saveSegment (t : Nat) (o : MatOp) (k pa : Nat) (rest : List Nat) (s : State) : State :=
  let m := slotImage { Sparse.get {} (tileOf s t).slots o.slot with kind := o.kindAt }
  modOp t o.id (fun p => { p with left := rest, since := 0 })
    (ctxWrites t o.ctx o.id o.sight (ctxStore t o.ctx pa 64 (m.readN (64 * k) 64) false) (opBank t o pa 64 s))

/-- R161: the effect of an operation at its completion. -/
def finishMat (t : Nat) (o : MatOp) (s : State) : State :=
  let z := Sparse.get {} (tileOf s t).slots o.slot
  let put (z : MSlot) (s : State) : State := modTile t (fun x => { x with slots := Sparse.set o.slot z x.slots }) s
  match o.kind with
  | .mmul =>
    let v := mulSlot o z
    let s := raiseMx t o.ctx v.2 (put v.1 s)
    let s := if o.mck then relAdd t 2 32 32 s else s
    let s := if o.retried then relAdd t 2 16 16 s else s
    countAt t o.ctx 13 o.nrow (prv (ctxOf s t o.ctx)) o.site o.seq s
  | .mdrain =>
    match o.kindAt with
    | none => s
    | some (cat, i32) =>
      let v := drainRows cat i32 o.ty z.acc
      let s := v.1.foldl (fun s r => notePrint t o.ctx 8 r.bits.toNat r.bits.toNat s) s
      raiseMx t o.ctx v.2 (modTile t (fun x =>
        v.1.zipIdx.foldl (fun x rk => putRow o.reg rk.2 rk.1 s.time x) x) s)
  | .mldw => put { z with shadow := { rows := o.aRows, stamp := o.aStamp, srec := o.aRec } } s
  | .mswap => put { z with active := z.shadow, shadow := z.active } s
  | .macz =>
    let r : Row := { bits := BitVec.ofNat 512 (packElems 32 (List.replicate 16 (eIdent o.entry))) }
    put { z with acc := (List.range 16).map fun k => (k, r) } s
  | .msave | .mrest => s

/-- R386: a suspect dimension of the engine, false for a row and true for a column, reported to firmware. -/
def reportSuspect (t : Nat) (col : Bool) (s : State) : State :=
  modTile t (fun x =>
    if x.spareUsed.contains col then { x with retire := true }
    else if x.suspect.contains col then x else { x with suspect := x.suspect ++ [col] }) s

/-- R161, R178: an operation that has left the head completes, or raises the MATRIX_LASTING that its second mismatch
found. -/
def matrixOpComplete (t k : Nat) (s : State) : State :=
  match (tileOf s t).matq.find? fun o => decide (o.id = k) && o.started with
  | none => s
  | some o =>
    if o.fail ≠ .none_ then deferMat t o o.fail (relAdd t 2 32 32 (relAdd t 2 0 16 s))
    else match (if o.kind = .msave then imageBlocked s t o else none) with
    | some off => waitImage t o off s
    | none =>
      match (if o.kind = .msave then imageNext s o else none) with
      | some (k, pa, rest) => saveSegment t o k pa rest s
      | none =>
        let s := finishMat t o s
        modTile t (fun x => { x with matq := x.matq.filter fun p => decide (p.id ≠ k) }) s

/-- R161: the step. -/
def execMatrixOpComplete (t k : Nat) (s : State) : Host.Outcome State Fault Refusal := .next (matrixOpComplete t k s)

/-- R403: a mirror-check retry counted for the group of its MMUL. -/
def countRetry (t : Nat) (o : MatOp) (s : State) : State := countAt t o.ctx 20 1 (prv (ctxOf s t o.ctx)) o.site o.seq s

/-- R178: the second mismatch of an MMUL, in its one retry: the suspect row or column is reported, and MATRIX_LASTING will be raised. -/
def lastingMismatch (t : Nat) (col : Bool) (o : MatOp) (s : State) : State :=
  modOp t o.id (fun p => { p with fail := .matrixLasting, retried := true }) ((if o.retried then id else countRetry t o) (reportSuspect t col s))

/-- R178, R386, R391: the mirror check of the MMUL in the array finds a mismatch in a row (false) or column (true): one that
the single retry clears, or one that the retry meets again; any mismatch of an MMUL already retried is its second. By
R53 a fault-free engine agrees, so a mismatch comes from outside, at a turn that the agenda names (log 56). -/
def mirrorMismatch (t : Nat) (col : Bool) (e : ErrKind) (s : State) : State :=
  match (tileOf s t).matq.find? fun o => o.started && o.mck && decide (o.kind = .mmul) && decide (o.fail = .none_) with
  | none => s
  | some o =>
    let s := if e = .corrected then s else toNominal t s
    match e with
    | .corrected => s
    | .transient =>
      if o.retried then lastingMismatch t col o s
      else modOp t o.id (fun p => { p with retried := true }) (countRetry t o s)
    | .lasting => lastingMismatch t col o s

end Sys2Proof.Machine
end

