-- ==== Sys2Proof/Machine/Pairs.lean ====
section
/-! DEFINITION. Paired tiles: checkpoints, the exchange at the end of an interval, and rollback (R387 to R390). -/

namespace Sys2Proof.Machine

/-- R243: the physical registers that a context has bound in its own right, with their contents. -/
def ownRegs (x : Tile) (c : Nat) : Sparse TileReg :=
  x.xregs.filter fun r => r.2.bound && (ctxIn x c).names.any fun n => decide (n.2.1 = r.1) && !n.2.2

/-- R157: the slots that a context acquired, with their contents. -/
def ownSlots (x : Tile) (c : Nat) : Sparse MSlot := x.slots.filter fun j => decide (j.2.owner = some c)

/-- R388: a checkpoint of a paired context. -/
def checkpoint (s : State) (t c : Nat) : PairCk :=
  let x := tileOf s t
  { ctx := ctxIn x c, xregs := ownRegs x c, slots := ownSlots x c, seqno := (coreOf s t (coreIx c)).seqno, firstId := s.nextId }

/-- R388: a new interval of a paired context begins. -/
def setCheckpoint (t c : Nat) (s : State) : State :=
  let k := checkpoint s t c
  modTile t (fun x => { x with pairs := Sparse.set c (some k) x.pairs }) s

/-- R387: the shadow's copy of a context and of the tile's arrays after an agreement: the same as the primary's. Its memory
has taken its own writes as they were made, and what the primary has still to send it sends alone. -/
def copyToShadow (t u c : Nat) (s : State) : State :=
  let x := tileOf s t
  let s := modTile u (fun y =>
    { y with ctxs := Sparse.set c { ctxIn x c with accs := [], wl := none, wait := .none_, stopOrder := none } y.ctxs, xregs := x.xregs, slots := x.slots, alloy := x.alloy,
             freeGranules := x.freeGranules }) s
  let n := (coreOf s t (coreIx c)).seqno
  modCore u (coreIx c) (fun k => { k with seqno := n }) s

/-- R389: local writes undone, the latest first. -/
def undoWrites (l : List (Nat × Byte × Bool)) (s : State) : State :=
  l.foldl (fun s b => setSegPoison b.1 b.2.2 { s with mem := Memory.write b.1 b.2.1 s.mem }) s

/-- R389: the writes of a context that were undone are no events. -/
def forgetInterval (t c firstId : Nat) (s : State) : State :=
  { s with hist := s.hist.filter fun e => !(match e.writer with
      | .ctx u d k => decide (u = t) && decide (d = c) && decide (firstId ≤ k) && decide (paRegion e.pa ≤ 1)
      | .other | .copy _ | .agent _ _ _ => false) }

/-- R389: effects of a context that have not left the pair are discarded, the requests to cancel a command among them. -/
def dropHeld (t c firstId : Nat) (s : State) : State :=
  let s := { s with cancels := s.cancels.filter fun r => !(decide (r.2.1 = t) && decide (firstId ≤ r.1) && holdsCommand s t c r.2.2) }
  let mine (v : View) (id : Nat) : Bool := decide (v.tile = t) && decide (v.ctx = c) && decide (firstId ≤ id)
  let s := modTile t (fun x =>
    { x with copies := x.copies.filter fun k => !mine k.view k.id,
             moves := x.moves.filter fun m => !(decide (m.ctx = c) && decide (firstId ≤ m.id)),
             agentq := x.agentq.filter fun q => !(decide (q.kind = .atomic) && mine q.view q.id),
             matq := x.matq.filter fun o => !(decide (o.ctx = c) && decide (firstId ≤ o.id)),
             acqq := x.acqq.filter fun q => decide (q.1 ≠ c),
             semq := x.semq.filter fun q => decide (q.1 ≠ c) }) s
  { s with agentReqs := s.agentReqs.filter (fun r => !mine r.2.view r.2.id),
           barArr := s.barArr.filter fun b => !(decide (b.tile = t) && decide (b.ctx = c) && decide (firstId ≤ b.id)) }

/-- R389: the registers and slots of a context as the checkpoint holds them; one that another context has been granted
meanwhile is left to it. -/
def restoreHoldings (t c : Nat) (k : PairCk) (s : State) : State :=
  let x := tileOf s t
  let now := ownRegs x c
  let free := x.xregs.map fun r => if now.any fun n => decide (n.1 = r.1) then (r.1, ({} : TileReg)) else r
  let regs := k.xregs.foldl (fun m r =>
    if (Sparse.get ({} : TileReg) m r.1).bound then m else Sparse.set r.1 r.2 m) free
  let bare := x.slots.map fun j => if j.2.owner = some c then (j.1, ({} : MSlot)) else j
  let slots := k.slots.foldl (fun m j =>
    if (Sparse.get ({} : MSlot) m j.1).owner.isSome then m else Sparse.set j.1 j.2 m) bare
  let ctxs := Sparse.set c k.ctx x.ctxs
  let used := (List.range 8).flatMap fun d => (Sparse.get ({} : Ctx) ctxs d).granules
  let granules := (List.range Config.granules).filter fun g => decide (x.firstGranule ≤ g) && !used.contains g
  setTile t { x with xregs := regs, slots := slots, ctxs := ctxs, freeGranules := granules } s

/-- R389, R390: the checkpoint restored, SEQNO with it unless another context of the core has taken numbers since; the interval will be executed once more, after the restore when a pre-emption has
stopped the context. -/
def rollback (t c : Nat) (k : PairCk) (s : State) : State :=
  let z := ctxOf s t c
  let s := dropHeld t c k.firstId s
  let s := forgetInterval t c k.firstId (undoWrites k.undo s)
  let s := restoreHoldings t c k s
  let s := modCtx t c (fun y => { y with stopped := z.stopped, debugHalt := z.debugHalt, haltReason := z.haltReason,
                                         resumeReq := z.resumeReq, stepReq := z.stepReq, dbg := z.dbg, endPend := none }) s
  let s := modTile t (fun x => { x with alloy := k.alloy.foldl (fun m e => Sparse.set e.1 e.2 m) x.alloy }) s
  let s := modCore t (coreIx c) (fun x =>
    if x.seqno = k.seqno + BitVec.ofNat 32 k.taken then { x with seqno := k.seqno } else x) s
  let k' : PairCk := { k with undo := [], writes := 0, crc := (0, 0), taken := 0, alloy := [],
                              seqno := (coreOf s t (coreIx c)).seqno, failed := true, firstId := s.nextId }
  modTile t (fun x => { x with pairs := Sparse.set c (some k') x.pairs }) (relAdd t 3 16 16 s)

/-- R389: a second disagreement ends the task in both copies. -/
def pairDiverges (t u c : Nat) (k : PairCk) (s : State) : State :=
  let pc := BitVec.ofNat 64 (ctxOf s t c).pc
  let s := relAdd u 3 0 16 (relAdd t 3 0 16 (dropHeld t c k.firstId s))
  let s := modTile t (fun x => { x with pairs := Sparse.set c none x.pairs }) s
  fatalEnd u c .pairDivergence pc 0 (fatalEnd t c .pairDivergence pc 0 s)

/-- R388: whether every result of a context's interval has landed, so that the fingerprints hold it. -/
def intervalLanded (s : State) (t c : Nat) : Bool :=
  let x := tileOf s t
  (ctxIn x c).accs.all accWrites && !x.moves.any (fun m => decide (m.ctx = c)) && !x.matq.any fun o => decide (o.ctx = c)

/-- R388, R390: whether an interval is at its end: a bound, HALT, a pre-emption or debug-halt request, a fatal cause; a context that
waits while effects of its own are held ends it too, since they may be what it waits for (log 20). -/
def intervalOver (s : State) (t c : Nat) : Bool :=
  let y := ctxOf s t c
  intervalFull s t c || decide (y.phase ≠ .running) || y.stopped || y.debugHalt || y.endPend.isSome ||
    (decide (y.wait ≠ .none_) && (match Sparse.get none (tileOf s t).pairs c with
      | some k => decide (heldEffects s t c k.firstId ≠ 0)
      | none => false))

/-- R389: what follows the agreement of an interval that a fatal cause ended: the task ends. -/
def endAgreed (t c : Nat) (s : State) : State :=
  match (ctxOf s t c).endPend with
  | some (cause, epc, seq) => fatalEnd t c cause epc seq s
  | none => s

/-- R388 to R390: the fingerprints of an interval that has ended are exchanged; `clean` says that no error struck either run,
and with it they agree when both runs computed the same. The last interval of a task, and one that a pre-emption ends, leave
no checkpoint when they agree. A task that the machine has ended meanwhile has no interval to execute once more: what it held goes
out when the two agree, and is given up when they do not (log 20). A failed interval that has not begun again is left as it is. -/
def pairIntervalEnd (t c : Nat) (clean : Bool) (s : State) : State :=
  match (tileOf s t).pairOf, Sparse.get none (tileOf s t).pairs c with
  | some u, some k =>
    let s' := copyToShadow t u c s
    let agree := clean && decide (k.crc.1 = k.crc.2)
    let shut (s : State) : State := modTile t (fun x => { x with pairs := Sparse.set c none x.pairs }) s
    let close : State := shut (endAgreed t c s')
    if (ctxOf s t c).phase = .ending then
      (if agree then close else shut (dropHeld t c k.firstId (modCtx t c (fun y => { y with wl := none }) s')))
    else if notBegun (tileOf s t) c then s
    else if !intervalOver s t c || !intervalLanded s t c then s
    else if !agree then (if k.failed then pairDiverges t u c k s else rollback t c k s)
    else if (ctxOf s t c).phase = .halted ∨ (ctxOf s t c).stopped ∨ (ctxOf s t c).endPend.isSome then close
    else setCheckpoint t c s'
  | _, _ => s

/-- R388: the step. -/
def execPairIntervalEnd (t : Nat) (c : Fin 8) (b : Bool) (s : State) : Host.Outcome State Fault Refusal :=
  .next (pairIntervalEnd t c.val b s)

end Sys2Proof.Machine
end

