-- ==== Sys2Proof/Machine/Sync.lean ====
section
/-! DEFINITION. Barriers, semaphores, arrival sets and work lists (R221 to R242, R418). -/

namespace Sys2Proof.Machine

/-- R224: the code of a barrier domain. -/
def domCode : BarDom → Nat
  | .tile => 2 | .cluster => 3 | .sector => 4 | .device => 5 | .fabric => 6

/-- R291, R295: the barriers that a launch declares for a domain and their timeout. -/
def barDecl (l : Launch) (dom : Nat) : Nat × Nat :=
  (List.range (recField l 2 1)).foldl (fun a i =>
    let w := recField l (104 + 8 * i) 8
    if w / 2 ^ 16 % 8 = dom ∧ a.1 = 0 then (w / 2 ^ 24 % 128, w / 2 ^ 32 % 2 ^ 16) else a) (0, 0)

/-- R324: the device barrier objects that a partition owns, ascending. -/
def ownObjects (s : State) (p : Nat) : List Nat :=
  (List.range 64).filter fun i => wbit (Sparse.get 0 s.regs (0xC0 + 8 * p)) i

/-- R15, R224: the instance of a domain below the device that contains a tile. -/
def barInst (dom t : Nat) : Nat :=
  match dom with
  | 2 => t
  | 3 => clusterOf t
  | 4 => sectorOf t
  | _ => 0

/-- R224, R324: the key of the object that a tile names; a DEVICE or FABRIC index names the partition's objects. -/
def barKeyOf (s : State) (dom t idx : Nat) : Option Nat :=
  if dom ≤ 4 then some (barKey dom (barInst dom t) idx)
  else (ownObjects s (tileOf s t).part)[idx]?.map fun i => barKey 5 0 i

/-- R295: the count of a barrier: the tasks that the launch places in the instance; of the whole launch for FABRIC. -/
def barTasks (l : Launch) (dom t : Nat) : Nat :=
  if dom = 6 then (List.range (recField l 2 1)).foldl (fun n i => n * (recField l (104 + 8 * i) 8 % 2 ^ 16)) 1
  else (l.placed.filter fun p => decide (barInst dom p.1 = barInst dom t)).length

/-- R224: the barrier that a group names: its key and its count. An object that a FABRIC level declares is bound to that
level, so code 5 does not name it, and code 6 names no other (log 62). -/
def withBar (s : State) (m : BarDom) (i : Fin 64) (k : Nat → Nat → Eff) : Eff :=
  match launchOf s (cur s).launch with
  | none => fail .barrierId
  | some l =>
    if m = .device ∧ i.val < (barDecl l 6).1 then fail .barrierId
    else match barKeyOf s (domCode m) s.focusTile i.val with
    | some key =>
      if i.val < (barDecl l (domCode m)).1 then k key (barTasks l (domCode m) s.focusTile) else fail .barrierId
    | none => fail .barrierId

/-- R225, R226: an arrival at an object, with what it releases: the phase joined. -/
def barArrive (key n : Nat) (k0 : Known) (s : State) : Nat × State :=
  let b := Sparse.get ({} : Bar) s.bars key
  let a := b.a + 1
  let (k, s) := freshId s
  let all := b.arrived.join k0
  let b' : Bar := if a % n = 0 then { a := a, c := a / n, sent := k, arrived := all, released := all } else { b with a := a, arrived := all }
  (b.a / n, { s with bars := Sparse.set key b' s.bars })

/-- R225: the phase that the next arrival joins. -/
def barNext (s : State) (key n : Nat) : Nat := (Sparse.get ({} : Bar) s.bars key).a / n

/-- R225, R226: whether a phase has completed. -/
def barDone (s : State) (key phase : Nat) : Bool := decide (phase < (Sparse.get ({} : Bar) s.bars key).c)

/-- R229: the access that returns the phase of a BAR.ARR from a home outside the tile. -/
def phaseAcc (d : Fin 16) (id key : Nat) (s : State) : State :=
  if d = 0 then s
  else modCur (fun y => { y with accs := y.accs ++
    [{ id := id, kind := .phase, home := .remScratch, pa := scratchPa (barHome key) 0, dest := d.val, since := s.time }] }) s

/-- R226, R411: BAR.ARR. In a recording or a replay the arrival is made at issue (log 19). -/
def doBarArr (d : Fin 16) (m : BarDom) (i : Fin 64) (s : State) : Eff :=
  ready s [d] <| withBar s m i fun key n => released s fun s =>
    let put (v : Word) (s : State) : Eff := .done (wrS d { val := v } s) .next
    let now (_ : Word) (s : State) : Eff :=
      let (p, s) := barArrive key n (knownNow s s.focusTile s.focusCtx) s
      put (BitVec.ofNat 64 p) s
    let rec_ := replaying s s.focusTile || (match launchOf s (cur s).launch with | some l => l.recording.isSome | none => false)
    if m = .tile ∨ rec_ then
      logged s 5 0x28 now (BitVec.ofNat 64 (barNext s key n))
        (fun v => if v.toNat = barNext s key n then none else some .offcore) now
    else
      let (id, s) := freshId s
      let b : BarArr := { id := id, key := key, count := n, tile := s.focusTile, ctx := s.focusCtx,
                          acc := if d = 0 then 0 else id, known := knownNow s s.focusTile s.focusCtx }
      .done (phaseAcc d id key { s with barArr := s.barArr ++ [b] }) .next

/-- R226: the instruction. -/
def execBarArr (d : Fin 16) (m : BarDom) (i : Fin 64) (s : State) : Host.Outcome State Fault Refusal := settle s (doBarArr d m i s)

/-- R226, R229: a group waits for a phase; one that has begun to wait goes on when the release reaches it. -/
def awaitPhase (s : State) (key phase : Nat) (k : State → Eff) : Eff :=
  if barDone s key phase ∧ (cur s).wait ≠ .barrier key phase then
    k (modCur (fun y => { y with sight := y.sight.know (Sparse.get ({} : Bar) s.bars key).released }) s)
  else .wait s (.barrier key phase)

/-- R226: BAR.WAIT. -/
def doBarWait (a : Fin 16) (m : BarDom) (i : Fin 64) (s : State) : Eff :=
  ready s [a] <| unpoisoned s [a] <| withBar s m i fun key _ =>
    awaitPhase s key (rdS s a).val.toNat fun s => .done s .next

/-- R226: the instruction. -/
def execBarWait (a : Fin 16) (m : BarDom) (i : Fin 64) (s : State) : Host.Outcome State Fault Refusal := settle s (doBarWait a m i s)

/-- R227: BAR.AW arrives when it first executes, and then waits; after an ERET with the bit set it only waits. -/
def doBarAw (m : BarDom) (i : Fin 64) (s : State) : Eff :=
  withBar s m i fun key n =>
    let y := cur s
    let wait (p : Nat) (s : State) : Eff :=
      awaitPhase (modCur (fun y => { y with barPhase := some p, afterEret := false }) s) key p fun s =>
        .done (modCur (fun y => { setPm false y with barPhase := none }) s) .next
    match y.barPhase with
    | some p => wait p s
    | none =>
      if s.barArr.any fun b => b.aw && decide (b.tile = s.focusTile) && decide (b.ctx = s.focusCtx) then .wait s .offcore
      else if y.afterEret then wait y.eval.toNat s
      else released s fun s =>
        if m = .tile then
          let (p, s) := barArrive key n (knownNow s s.focusTile s.focusCtx) s
          wait p s
        else
          let (id, s) := freshId s
          let b : BarArr := { id := id, key := key, count := n, tile := s.focusTile, ctx := s.focusCtx, acc := 0, aw := true, known := knownNow s s.focusTile s.focusCtx }
          .wait { s with barArr := s.barArr ++ [b] } .offcore

/-- R227: the instruction. -/
def execBarAw (m : BarDom) (i : Fin 64) (s : State) : Host.Outcome State Fault Refusal := settle s (doBarAw m i s)

/-- R225, R229: an arrival reaches its home; the phase goes back to the context. -/
def barrierArrival (k : Nat) (s : State) : State :=
  match s.barArr.find? fun b => decide (b.id = k) with
  | none => s
  | some b =>
    if heldByPair s b.tile b.ctx k ∨ sentBefore s b.tile (barHome b.key) k then s
    else
      let (p, s) := barArrive b.key b.count b.known { s with barArr := s.barArr.filter fun x => decide (x.id ≠ k) }
      let (n, s) := freshId s
      modCtx b.tile b.ctx (fun y =>
        if b.aw then { y with barPhase := some p }
        else { y with accs := y.accs.map fun a =>
          if a.id = b.acc ∧ a.kind = .phase then { a with served := true, sent := n, data := BitVec.ofNat 512 p } else a }) s

/-- R225: the step. -/
def execBarrierArrival (k : Nat) (s : State) : Host.Outcome State Fault Refusal := .next (barrierArrival k s)

/-- R229: a completed phase reaches a waiter. -/
def barrierRelease (t : Nat) (c : Fin 8) (s : State) : State :=
  match (ctxOf s t c).wait with
  | .barrier key p =>
    if barDone s key p ∧ (key / 2 ^ 20 = 2 ∨ ¬repliedBefore s (barHome key) t (Sparse.get ({} : Bar) s.bars key).sent) then
      modCtx t c (fun y => { y with wait := .none_ }) s
    else s
  | _ => s

/-- R229: the step. -/
def execBarrierRelease (t : Nat) (c : Fin 8) (s : State) : Host.Outcome State Fault Refusal := .next (barrierRelease t c s)

/-- R228: the timeout of the barrier with a key, in cycles; 0 for none. -/
def barLimit (s : State) (l : Launch) (key : Nat) : Nat :=
  let dom := key / 2 ^ 20
  let d := barDecl l dom
  let d := if dom = 5 ∧ (ownObjects s l.part).idxOf (key % 64) < (barDecl l 6).1 then barDecl l 6 else d
  d.2 * Config.cyclesPerMicro

/-- R228: a waiter still blocked after its barrier's timeout traps. -/
def barrierTimeout (t : Nat) (c : Fin 8) (s : State) : State :=
  let y := ctxOf s t c
  match y.wait, launchOf s y.launch with
  | .barrier key p, some l =>
    if barLimit s l key ≠ 0 ∧ s.time ≥ y.waitSince + barLimit s l key ∧ ¬barDone s key p ∧ ¬y.stopped ∧ ¬y.debugHalt then
      enterCause t c { cause := .barrierTimeout, eval := BitVec.ofNat 64 p } 0 s
    else s
  | _, _ => s

/-- R228: the step. -/
def execBarrierTimeout (t : Nat) (c : Fin 8) (s : State) : Host.Outcome State Fault Refusal := .next (barrierTimeout t c s)

/-- R224, R295, R346: a task of a peer device arrives at a FABRIC object of the launch that runs on a partition; an object that the launch
binds to no FABRIC level takes no such arrival. -/
def peerArrives (p idx : Nat) (s : State) : State :=
  match runningLaunch s p, (ownObjects s p)[idx]? with
  | some l, some i => if idx < (barDecl l 6).1 then (barArrive (barKey 5 0 i) (barTasks l 6 0) {} s).2 else s
  | _, _ => s

/-- R230: the amount of a semaphore operation. -/
def semAmount (s : State) (a : Fin 16) : Nat := if a = 0 then 1 else (rdS s a).val.toNat % 256

/-- R230: the value of a semaphore of the acting tile. -/
def semValue (s : State) (i : Nat) : Nat := Sparse.get 0 (curTile s).sems i

/-- A semaphore of the acting tile set. -/
def putSem (i v : Nat) (s : State) : State := modCurTile (fun x => { x with sems := Sparse.set i v x.sems }) s

/-- R231: a SIG's increment stands with what it and those before it have released. -/
def trailSig (i n : Nat) (s : State) : State :=
  let k := knownNow s s.focusTile s.focusCtx
  modCurTile (fun x =>
    let l := Sparse.get [] x.semTrail i
    let before := (l.getLast?.map fun e => e.2).getD {}
    { x with semTrail := Sparse.set i (l ++ [(n, before.join k)]) x.semTrail }) s

/-- R231: the oldest increments of a trail consumed: what they released, and the rest. -/
def takeTrail : List (Nat × Known) → Nat → Known × List (Nat × Known)
  | [], _ => ({}, [])
  | (m, k) :: l, n =>
    if n = 0 then ({}, (m, k) :: l)
    else if n < m then (k, (m - n, k) :: l)
    else let (r, l') := takeTrail l (n - m); (k.join r, l')

/-- R230, R231: a semaphore of value `v` gives the acting context `n`, which acquires what the increments released; those that no
SIG of this run made are the oldest. -/
def consumeSem (i v n : Nat) (s : State) : State :=
  let l := Sparse.get [] (curTile s).semTrail i
  let known := l.foldl (fun m e => m + e.1) 0
  let (k, l') := takeTrail l (n - (v - known))
  modCur (fun y => { y with sight := y.sight.know k })
    (modCurTile (fun x => { x with semTrail := Sparse.set i l' x.semTrail }) (putSem i (v - n) s))

/-- R230: SIG. -/
def doSig (a m : Fin 16) (s : State) : Eff :=
  ready s [a] <| unpoisoned s [a] <| released s fun s =>
    let v := semValue s m.val + semAmount s a
    if v > 255 then fail .semaphoreOverflow else .done (trailSig m.val (semAmount s a) (putSem m.val v s)) .next

/-- R230: the instruction. -/
def execSig (a m : Fin 16) (s : State) : Host.Outcome State Fault Refusal := settle s (doSig a m s)

/-- R231: the context at the head of a semaphore's waiters. -/
def semHead (s : State) (i : Nat) : Option Nat :=
  ((curTile s).semq.find? fun q => decide (q.2.1 = i)).map fun q => q.1

/-- R230, R231: WSEM. -/
def doWsem (a m : Fin 16) (s : State) : Eff :=
  ready s [a] <| unpoisoned s [a] <|
    let n := semAmount s a
    let c := s.focusCtx
    let v := semValue s m.val
    let head := semHead s m.val
    if n = 0 then .done s .next
    else if (head = none ∨ head = some c) ∧ n ≤ v then
      .done (modCurTile (fun x => { x with semq := x.semq.filter fun q => decide (q.1 ≠ c) }) (consumeSem m.val v n s)) .next
    else
      let queued := (curTile s).semq.any fun q => decide (q.1 = c)
      .wait (if queued then s else modCurTile (fun x => { x with semq := x.semq ++ [(c, m.val, n)] }) s) .offcore

/-- R230: the instruction. -/
def execWsem (a m : Fin 16) (s : State) : Host.Outcome State Fault Refusal := settle s (doWsem a m s)

/-- R230, R411, R412: TSEM. -/
def doTsem (d a m : Fin 16) (s : State) : Eff :=
  ready s [d, a] <| unpoisoned s [a] <|
    let n := semAmount s a
    let v := semValue s m.val
    let can := decide ((semHead s m.val) = none) && decide (n ≤ v)
    let put (w : Word) (s : State) : Eff :=
      .done (wrS d { val := w } (if w = 1 then consumeSem m.val v n s else s)) .next
    logged s 5 0x29 put (if can then 1 else 0) (fun w => if w = 1 ∧ ¬can then some .offcore else none) put

/-- R230: the instruction. -/
def execTsem (d a m : Fin 16) (s : State) : Host.Outcome State Fault Refusal := settle s (doTsem d a m s)

/-- R232: the first trap of the chunks of a region that must lie in the tile's own scratchpad or vault. -/
def regionTrap (s : State) (base n : Nat) : Option Trap :=
  (List.range n).findSome? fun i =>
    match checkAccess s (curView s) (.core (coreIx s.focusCtx)) (BitVec.ofNat 64 (base + 512 * i)) 512 1 true .dflt .tile with
    | .error tr => some tr
    | .ok _ => none

/-- R232: ASARM. -/
def doAsarm (a b : Fin 16) (i : Fin 64) (s : State) : Eff :=
  ready s [a, b] <| unpoisoned s [a, b] <|
    let base := (rdS s a).val.toNat
    let w := (rdS s b).val
    let nc := wfld w 32 8
    let e := wfld w 0 17
    if base % 512 ≠ 0 then .trap (addrTrap .align (rdS s a).val)
    else match regionTrap s base nc with
      | some tr => .trap tr
      | none =>
        if nc = 0 ∨ nc > 128 ∨ e > 512 * nc ∨ wfld w 17 15 ≠ 0 ∨ wfld w 40 24 ≠ 0 then fail .arrivalId
        else
          let k : ArrSet := { armed := true, base := base, nc := nc, e := e }
          .done (modCurTile (fun x => { x with arr := Sparse.set i.val k x.arr }) s) .next

/-- R232: the instruction. -/
def execAsarm (a b : Fin 16) (i : Fin 64) (s : State) : Host.Outcome State Fault Refusal := settle s (doAsarm a b i s)

/-- R234: the condition of a mask on an arrival set. -/
def arrHolds (k : ArrSet) (m : Nat) : Bool :=
  k.armed && (if m = 0 then decide (k.e ≤ k.count) else decide (k.bits.toNat &&& m = m))

/-- R234: the set and the mask of an ASWAIT or ASTEST. -/
def withMask (s : State) (a b : Fin 16) (i : Fin 64) (k : Bool → Known → Eff) : Eff :=
  unpoisoned s [a, b] <|
    let e := Sparse.get ({} : ArrSet) (curTile s).arr i.val
    let m := (rdS s a).val.toNat + (rdS s b).val.toNat * 2 ^ 64
    if !e.armed ∨ m ≥ 2 ^ e.nc then fail .arrivalId else k (arrHolds e m) (marksOf e m)

/-- R234, R282: ASWAIT. -/
def doAswait (a b : Fin 16) (i : Fin 64) (s : State) : Eff :=
  ready s [a, b] <| withMask s a b i fun h n =>
    if h then .done (modCur (fun y => { y with sight := y.sight.know n }) s) .next else .wait s .offcore

/-- R234: the instruction. -/
def execAswait (a b : Fin 16) (i : Fin 64) (s : State) : Host.Outcome State Fault Refusal := settle s (doAswait a b i s)

/-- R234, R411, R412: ASTEST. -/
def doAstest (d a b : Fin 16) (i : Fin 64) (s : State) : Eff :=
  ready s [d, a, b] <| withMask s a b i fun h _ =>
    let put (w : Word) (s : State) : Eff := .done (wrS d { val := w } s) .next
    logged s 5 0x2A put (if h then 1 else 0) (fun w => if w = 1 ∧ ¬h then some .offcore else none) put

/-- R234: the instruction. -/
def execAstest (d a b : Fin 16) (i : Fin 64) (s : State) : Host.Outcome State Fault Refusal := settle s (doAstest d a b i s)

/-- R418: the request of a group to the compaction unit: sent once, then awaited, then its answer taken; one that the unit has applied
for a group that then trapped is not sent again (log 73). -/
def askUnit (s : State) (r : WlReq) (k : WlReq → State → Eff) : Eff :=
  match (cur s).wl with
  | none =>
    match (cur s).wlKept.filter fun e => decide (e.1 = (cur s).pc) && decide (e.2.op = r.op) with
    | some (_, w) => k w (modCur (fun y => { y with wlKept := none }) s)
    | none =>
    let (n, s) := freshId s
    let k := knownNow s s.focusTile s.focusCtx
    .wait (modCur (fun y => { y with wl := some { r with id := n, known := k } }) s) .worklist
  | some w =>
    if w.answered then (if w.trap ≠ .none_ then fail w.trap else k w (modCur (fun y => { y with wl := none }) s))
    else .wait s .worklist

/-- R235: a list that the launch configured. -/
def withList (s : State) (i : Fin 64) (k : Eff) : Eff :=
  match launchOf s (cur s).launch with
  | none => fail .worklistId
  | some l => if (Sparse.get ({} : WorkList) l.lists i.val).cap = 0 then fail .worklistId else k

/-- R238: WLAPP; its data words may be poisoned. -/
def doWlapp (a b : Fin 16) (i : Fin 64) (s : State) : Eff :=
  ready s [a, b] <| withList s i <| released s fun s =>
    askUnit s { op := 0, list := i.val, a := (rdS s a).val, b := (rdS s b).val, poison := anyPoison s [a, b] }
      fun _ s => .done s .next

/-- R238: the instruction. -/
def execWlapp (a b : Fin 16) (i : Fin 64) (s : State) : Host.Outcome State Fault Refusal := settle s (doWlapp a b i s)

/-- R268, R269: whether an earlier access, move or matrix operation of the acting context has still to touch `n` bytes from a
virtual address on, which an engine is to write. -/
def touchedSoon (s : State) (va n : Nat) : Bool :=
  (piecesOf va n).any fun p =>
    match resolve s (curView s) (.core (coreIx s.focusCtx)) p.1 true with
    | .ok r => touchedFirst (curTile s) s.focusCtx s.nextId true r.pa p.2.2
    | .error _ => false

/-- R239: the check of a destination for `m` items; with none to take the address itself must still lie in the own scratchpad. -/
def takeArea (s : State) (va m : Nat) : Option Trap :=
  if m = 0 then (ownArea s va 1 true).filter fun tr => decide (tr.cause ≠ .scratchRange)
  else ownArea s va (16 * m) true

/-- R239, R412: WLTAKE. A request of kind 4 takes exactly the count that a log holds. -/
def doWltake (d a b : Fin 16) (i : Fin 64) (s : State) : Eff :=
  ready s [d, a, b] <| unpoisoned s [a, b] <| withList s i <|
    let va := (rdS s a).val
    let m := min (rdS s b).val.toNat 64
    if va.toNat % 16 ≠ 0 then .trap (addrTrap .align va)
    else match takeArea s va.toNat m with
      | some tr => .trap tr
      | none =>
        if touchedSoon s va.toNat (16 * m) then .wait s .offcore else
        let put (v : Word) (s : State) : Eff := .done (wrS d { val := v } s) .next
        let ask (op k : Nat) (fin : Word → State → Eff) : Eff :=
          askUnit s { op := op, list := i.val, a := va, b := BitVec.ofNat 64 m, result := k } fun w s =>
            fin (BitVec.ofNat 64 w.result) s
        if replaying s s.focusTile then
          match logPeek s s.focusTile s.focusCtx with
          | some (n, w, v) =>
            if w % 16 = 3 ∧ w / 2 ^ 16 = (cur s).retired + 1 then
              let pass (s : State) : State := modCur (fun y => { y with rplPos := n + 1 }) s
              if v = 0 then put 0 (pass s) else ask 4 v fun w s => put w (pass s)
            else fail .replayDivergence
          | none => fail .replayDivergence
        else ask 1 0 fun w s =>
          put w (logPut s.focusTile 3 s.focusCtx 0 ((cur s).retired + 1) w.toNat s)

/-- R239: the instruction. -/
def execWltake (d a b : Fin 16) (i : Fin 64) (s : State) : Host.Outcome State Fault Refusal := settle s (doWltake d a b i s)

/-- R240: WLDONE. -/
def doWldone (a : Fin 16) (i : Fin 64) (s : State) : Eff :=
  ready s [a] <| unpoisoned s [a] <| withList s i <| released s fun s =>
    askUnit s { op := 2, list := i.val, a := (rdS s a).val } fun _ s => .done s .next

/-- R240: the instruction. -/
def execWldone (a : Fin 16) (i : Fin 64) (s : State) : Host.Outcome State Fault Refusal := settle s (doWldone a i s)

/-- R241: QWAIT. -/
def doQwait (s : State) : Eff := askUnit s { op := 3 } fun _ s => .done s .next

/-- R241: the instruction. -/
def execQwait (s : State) : Host.Outcome State Fault Refusal := settle s (doQwait s)

/-- R237: whether a launch is quiescent: every list empty, no WLAPP in flight, Q = K. -/
def quiescent (s : State) (l : Launch) : Bool :=
  l.lists.all (fun kw => decide (kw.2.head = kw.2.tail)) && decide (l.q = l.k) &&
  !(s.tiles.any fun x => decide (x.2.launch = l.serial) && x.2.ctxs.any fun y =>
      match y.2.wl with
      | some w => decide (y.2.launch = l.serial) && decide (w.op = 0) && !w.applied
      | none => false)

/-- R235: the place of an item of a list. -/
def itemPa (w : WorkList) (i : Nat) : Nat := w.pa + 16 * (i % w.cap)

/-- R239: `k` items from the head of a list written to a destination of a context, each with its poison. -/
def takeItems (t c : Nat) (w : WorkList) (va k : Nat) (s : State) : State :=
  (List.range k).foldl (fun s i =>
    let from_ := itemPa w (w.head + i)
    let s := checkSegment from_ s
    match resolve s (viewOf s t c) .none_ (va + 16 * i) true with
    | .ok r => landUnits [(r.pa, 16, readMem s from_ 16, segPoison s from_)] s
    | .error _ => s) s

/-- R239: the requests to a list that reached the unit before one with an order number. -/
def earlierTaker (s : State) (l : Launch) (list order : Nat) : Bool :=
  s.tiles.any fun x => decide (x.2.launch = l.serial) && x.2.ctxs.any fun y =>
    match y.2.wl with
    | some w => decide (y.2.launch = l.serial) && (decide (w.op = 1) || decide (w.op = 4)) && decide (w.list = list) &&
        !w.applied && decide (w.order ≠ 0) && (decide (w.order < order) || decide (order = 0))
    | none => false

/-- The answer to a request recorded, with its place among the messages sent (R24). -/
def answer (t c : Nat) (r : WlReq) (res : Nat) (trap : Cause) (s : State) : State :=
  let (n, s) := freshId s
  modCtx t c (fun y => { y with wl := some { r with applied := true, result := res, trap := trap, sent := n } }) s

/-- R239: a take that the unit can carry out now, of `k` items. -/
def applyTake (t c : Nat) (r : WlReq) (l : Launch) (w : WorkList) (k : Nat) (s : State) : State :=
  let s := ctxWrites t c r.id (ctxOf s t c).sight (takeItems t c w r.a.toNat k) s
  let got := Known.all ((List.range k).map fun i => Sparse.get {} w.seen (w.head + i))
  let s := modSight t c r.id (Sight.know got) s
  answer t c r k .none_ (modLaunch l.serial (fun l =>
    { l with k := l.k + k, u := Sparse.modify 0 (t * 8 + c) (fun u => u + k) l.u,
             lists := Sparse.set r.list { w with head := w.head + k } l.lists }) s)

/-- R24, VC0: whether a context of tile `t` sent the unit a request before number `k` that has not arrived. -/
def askedBefore (s : State) (t k : Nat) : Bool :=
  (List.range 8).any fun c => match (ctxOf s t c).wl with
    | some w => !w.applied && decide (w.order = 0) && decide (w.id < k) && !heldByPair s t c w.id
    | none => false

/-- R24, VC1: whether the unit sent a context of tile `t` an answer before number `n` that has not arrived. -/
def answeredBefore (s : State) (t n : Nat) : Bool :=
  (List.range 8).any fun c => match (ctxOf s t c).wl with
    | some w => w.applied && !w.answered && decide (w.sent < n)
    | none => false

/-- R239, R241: a request that must wait at the unit keeps its place there. -/
def holdTaker (t c : Nat) (r : WlReq) (s : State) : State :=
  if r.order ≠ 0 then s
  else
    let (n, s) := freshId s
    modCtx t c (fun y => { y with wl := some { r with order := n } }) s

/-- R237 to R241: what the unit does with the request of a context. -/
def applyRequest (t : Nat) (c : Fin 8) (s : State) : State :=
  let y := ctxOf s t c
  match y.wl, launchOf s y.launch with
  | some r, some l =>
    if r.applied ∨ heldByPair s t c.val r.id ∨ (r.order = 0 ∧ askedBefore s t r.id) then s
    else
      let w := Sparse.get ({} : WorkList) l.lists r.list
      let u := Sparse.get 0 l.u (t * 8 + c.val)
      match r.op with
      | 0 =>
        if w.tail - w.head = w.cap then answer t c r 0 .worklistFull s
        else
          let s := homeStore (itemPa w w.tail) 16 (r.a.toNat + r.b.toNat * 2 ^ 64) r.poison s
          answer t c r 0 .none_ (modLaunch l.serial (fun l =>
            { l with p := l.p + 1, done := l.done.join r.known,
                     lists := Sparse.set r.list { w with tail := w.tail + 1, seen := Sparse.set w.tail r.known w.seen } l.lists }) s)
      | 1 =>
        let m := r.b.toNat
        let have_ := w.tail - w.head
        if m = 0 then answer t c r 0 .none_ s
        else if have_ ≠ 0 then
          (if earlierTaker s l r.list r.order then holdTaker t c r s else applyTake t c r l w (min m have_) s)
        else if u ≠ 0 ∨ quiescent s l then answer t c r 0 .none_ s
        else holdTaker t c r s
      | 4 =>
        if w.tail - w.head ≥ r.result ∧ ¬earlierTaker s l r.list r.order then applyTake t c r l w r.result s
        else holdTaker t c r s
      | 2 =>
        if r.a.toNat > u then answer t c r 0 .worklistId s
        else answer t c r 0 .none_ (modLaunch l.serial (fun l =>
          { l with q := l.q + r.a.toNat, done := l.done.join r.known, u := Sparse.set (t * 8 + c.val) (u - r.a.toNat) l.u }) s)
      | _ =>
        if u ≠ 0 then answer t c r 0 .worklistId s
        else if quiescent s l then answer t c r 0 .none_ (modSight t c r.id (Sight.know l.done) s)
        else holdTaker t c r s
  | _, _ => s

/-- R242, R418: the unit applies the request of a context, or leaves it waiting; one that a task sent before its fatal end
and that would have to wait at the unit is dropped there. -/
def wlRequestApply (t : Nat) (c : Fin 8) (s : State) : State :=
  let s := applyRequest t c s
  match (ctxOf s t c).wl with
  | some r =>
    if (ctxOf s t c).phase = .ending ∧ ¬heldByPair s t c.val r.id ∧ ¬(r.order = 0 ∧ askedBefore s t r.id) then modCtx t c (fun y => { y with wl := none }) s else s
  | none => s

/-- R418: the step. -/
def execWlRequestApply (t : Nat) (c : Fin 8) (s : State) : Host.Outcome State Fault Refusal := .next (wlRequestApply t c s)

/-- R418: the unit's answer reaches the waiting context. -/
def wlAnswer (t : Nat) (c : Fin 8) (s : State) : State :=
  match (ctxOf s t c).wl with
  | some r => if r.applied ∧ ¬r.answered ∧ ¬answeredBefore s t r.sent then modCtx t c (fun y => { y with wl := some { r with answered := true } }) s else s
  | none => s

/-- R418: the step. -/
def execWlAnswer (t : Nat) (c : Fin 8) (s : State) : Host.Outcome State Fault Refusal := .next (wlAnswer t c s)

/-- R242: the unit acknowledges what an ended context had taken. -/
def wlAbandon (t c n : Nat) (s : State) : State :=
  modLaunch n (fun l => { l with q := l.q + Sparse.get 0 l.u (t * 8 + c), u := Sparse.erase (t * 8 + c) l.u }) s

end Sys2Proof.Machine
end

