-- ==== Sys2Proof/Machine/Tasks.lean ====
section
/-! DEFINITION. Starting and ending tasks, and what happens to contexts between groups: timers, quanta, drowsy registers,
pending causes (R154, R254, R290, R298, R300, R349, R354, R413). -/

namespace Sys2Proof.Machine

/-- R349: the step: a boundary takes a pending cause. -/
def pendingCauseEntry (t c : Nat) (s : State) : State :=
  let y := ctxOf s t c
  if y.phase = .running ∧ ¬y.stopped ∧ ¬y.debugHalt then (takePending t c s).getD s else s

/-- R349: the step. -/
def execPendingCauseEntry (t : Nat) (c : Fin 8) (s : State) : Host.Outcome State Fault Refusal :=
  .next (pendingCauseEntry t c.val s)

/-- R354, R412: TCMP has come; in a replay it raises nothing. -/
def timerDue (t c : Nat) (s : State) : State :=
  let y := ctxOf s t c
  if y.tcmp ≠ 0 ∧ y.tcmp.toNat ≤ s.time then
    setCtx t c { y with tcmp := 0, timerPend := y.timerPend || (!replaying s t && decide (y.phase ≠ .free)) } s
  else s

/-- R354: the step. -/
def execTimer (t : Nat) (c : Fin 8) (s : State) : Host.Outcome State Fault Refusal := .next (timerDue t c.val s)

/-- R300: whether another context of a core might issue. -/
def othersMayIssue (s : State) (t k i : Nat) : Bool :=
  (List.range 4).any fun j => decide (j ≠ i) &&
    (let y := ctxOf s t (4 * k + j)
     decide (y.phase = .running) && !y.stopped && !y.debugHalt)

/-- R300: the quantum of the current context has passed: the next in the ring that is ready becomes current, and the
same one again where none is. -/
def quantumExpiry (t k : Nat) (s : State) : State :=
  let x := coreOf s t k
  match x.mode, x.cur with
  | false, some i =>
    if s.time < x.curSince + Config.quantum then s
    else if othersMayIssue s t k i then
      modCore t k (fun x => { x with cur := none, lastCur := i }) s
    else modCore t k (fun x => { x with curSince := s.time }) s
  | _, _ => s

/-- R300: the step. -/
def execQuantumExpiry (t : Nat) (k : Nat) (s : State) : Host.Outcome State Fault Refusal := .next (quantumExpiry t (k % 2) s)

/-- R154: a bound register that nothing has touched for 16,384 cycles becomes drowsy. -/
def drowsyEntry (t k : Nat) (s : State) : State :=
  let g := Sparse.get ({} : TileReg) (tileOf s t).xregs k
  if g.bound ∧ ¬g.drowsy ∧ g.lastUse + Config.drowsyAfter ≤ s.time then
    modTile t (fun x => { x with xregs := Sparse.set k { g with drowsy := true } x.xregs }) s
  else s

/-- R154: the step. -/
def execDrowsyEntry (t : Nat) (k : Nat) (s : State) : Host.Outcome State Fault Refusal := .next (drowsyEntry t k s)

/-- R290, R293: whether the dispatcher or the firmware core has stopped a partition's tile (R357, R377). -/
def partStopped (s : State) (p : Nat) : Bool :=
  let x := partOf s p
  x.preempt || x.halt || x.clearing || !x.reset.isEmpty

/-- R291: c(i) of a launch. -/
def levelCount (l : Launch) (i : Nat) : Nat := recField l (104 + 8 * i) 2

/-- R292: IDX(i) of the task with flat index F. -/
def levelIdx (l : Launch) (i flat : Nat) : Nat :=
  let below := (List.range i).foldl (fun n j => n * levelCount l j) 1
  flat / below % levelCount l i

/-- R292, Table 10.7: LVL0 to LVL7 of a task. -/
def levelRegs (l : Launch) (flat : Nat) : Sparse Word :=
  (List.range (recField l 2 1)).map fun i => (i, BitVec.ofNat 64 (levelCount l i * 2 ^ 32 + levelIdx l i flat))

/-- R290, R334: a context in the state in which a task starts. -/
def startCtx (l : Launch) (k : Task) (c : Nat) (y : Ctx) : Ctx :=
  let spill := recField l 52 4
  let lim := recField l 68 4
  let claim : Word := BitVec.ofNat 64 (recField l (if k.role then 236 else 232) 4)
  { phase := .running, launch := l.serial, flat := k.flat,
    sregs := [(1, { val := BitVec.ofNat 64 (recField l 72 8 + recField l 80 8 * k.flat) })],
    handler := BitVec.ofNat 64 (recField l 32 8),
    ctxid := BitVec.ofNat 64 (l.serial % 2 ^ 32 * 2 ^ 32 + l.queue * 2 ^ 4),
    lvl := levelRegs l k.flat, lvln := BitVec.ofNat 64 (recField l 2 1),
    spillb := BitVec.ofNat 64 (recField l 56 8 / 2 ^ 24 % 2 ^ 28 * 2 ^ 24 + spill % 2 ^ 20),
    spillov := BitVec.ofInt 64 ((recField l 64 4 : Int) + c * ((lim : Int) - spill)) &&& 0x0FFFFFC0,
    spilllim := BitVec.ofNat 64 lim,
    claim := if claim = 0 then none else some claim, retired := 0, pc := 0, haltReason := y.haltReason, rplPos := y.rplPos }

/-- R298: whether a context can take a task. -/
def ctxFree (s : State) (t c : Nat) : Bool := decide ((ctxOf s t c).phase = .free)

/-- R234, R298: the arrival conditions of a task. -/
def condsHold (x : Tile) (k : Task) : Bool :=
  k.conds.all fun c => arrHolds (Sparse.get {} x.arr c.1) c.2.toNat

/-- R298: the claim of a task against what the hamper has free. -/
def claimOpen (x : Tile) (l : Launch) (k : Task) : Bool :=
  Quant.le (claimQuant (BitVec.ofNat 64 (recField l (if k.role then 236 else 232) 4))) (avail x)

/-- R282, R283, R286: what is hb-before the start of a task: what is hb-before its LAUNCH, and the chunks that it waited for. -/
def startSight (s : State) (t : Nat) (l : Launch) (k : Task) : Sight :=
  { known := Known.all (l.known :: k.conds.map fun c => marksOf (Sparse.get {} (tileOf s t).arr c.1) c.2.toNat), born := s.writes }

/-- R290, R394, R406: a task begins on a context. -/
def startTask (t c : Nat) (l : Launch) (k : Task) (s : State) : State :=
  let s := setCtx t c { startCtx l k c (ctxOf s t c) with sight := startSight s t l k } s
  let b := seqAddr s t c 0
  let s := modCtx t c (fun y => { y with npc := b, nnpc := seqAddr s t c b }) s
  let s := modTile t (fun x => { x with tasks := x.tasks.filter fun q => decide (q.flat ≠ k.flat) }) s
  let s := monitor t c 6 0 0 k.flat 0 s
  if l.paired then setCheckpoint t c s else s

/-- R298: the pending tasks of a tile in ascending F; each that qualifies takes the lowest free context of its role. -/
def startAll (t : Nat) (l : Launch) : List Task → State → State
  | [], s => s
  | k :: r, s =>
    let base := if k.role then 4 else 0
    match [base, base + 1, base + 2, base + 3].find? fun c => ctxFree s t c with
    | none => startAll t l r s
    | some c =>
      if condsHold (tileOf s t) k && claimOpen (tileOf s t) l k then startAll t l r (startTask t c l k s)
      else startAll t l r s

/-- R298: one look of the task scheduler of a tile; it starts nothing while its partition is stopped, and a shadow tile
starts nothing of its own (R387). -/
def taskStart (t : Nat) (s : State) : State :=
  let x := tileOf s t
  if x.isShadow ∨ x.saved ∨ partStopped s x.part ∨ x.tasks = [] then s
  else match launchOf s x.launch with
    | some l => if l.saved.isSome then s else startAll t l x.tasks s
    | none => s

/-- R298: the step. -/
def execTaskStart (t : Nat) (s : State) : Host.Outcome State Fault Refusal := .next (taskStart t s)

/-- R191, R254, R355: whether everything that a context issued has come to its end. -/
def ctxQuiet (s : State) (t c : Nat) : Bool :=
  let x := tileOf s t
  let y := ctxIn x c
  y.accs.isEmpty && !x.moves.any (fun m => decide (m.ctx = c)) && !x.matq.any (fun o => decide (o.ctx = c)) &&
  !x.copies.any (fun k => decide (k.view.ctx = c) && decide (k.launch = y.launch)) && y.wl.isNone &&
  !x.reserves.any (fun r => decide (r.ctx = c)) &&
  (List.range 8).all (fun h => decide ((Sparse.get ({} : Fut) y.futs h).st ≠ .pending)) &&
  !s.barArr.any (fun b => decide (b.tile = t) && decide (b.ctx = c) && (b.aw || decide (b.acc ≠ 0))) &&
  decide (outstanding s t c = 0)

/-- R303: a core whose four contexts are free. -/
def coreIdle (t k : Nat) (s : State) : State :=
  if (List.range 4).all fun i => ctxFree s t (4 * k + i) then
    modCore t k (fun x => { x with cur := none, lastCur := 3, lastIssue := 3 }) s
  else s

/-- R242, R250, R254, R406: the end of a task: its writes are performed, its holdings return, its context is free. -/
def endTask (t c : Nat) (s : State) : State :=
  let y := ctxOf s t c
  let s := modTile t (removeClaimant s.time c) s
  let s := wlAbandon t c y.launch s
  let s := monitor t c 7 y.endCause.code y.lastPc 0 y.seqLast s
  let s := modLaunch y.launch (fun l => { l with left := l.left - 1 }) s
  let s := modTile t (fun x => { x with pairs := Sparse.set c none x.pairs }) s
  let s := setCtx t c { tcmp := y.tcmp, dbg := y.dbg, haltReason := y.haltReason, rplPos := y.rplPos } s
  let s := match (tileOf s t).pairOf with
    | some u => setCtx u c {} s
    | none => s
  coreIdle t (coreIx c) s

/-- R283, R284: HALT releases everything that the task did, toward the publication that completes its launch. -/
def haltReleases (t c : Nat) (s : State) : State :=
  let k := knownNow s t c
  modLaunch (ctxOf s t c).launch (fun l => { l with ended := l.ended.join k }) s

/-- R254, R311, R355: a task that has halted ends once nothing of it is outstanding and nothing that its partner has queued
uses what it holds. A task that has met its fatal end returns its holdings when its results are in, and frees its context
once nothing of it is outstanding. -/
def taskEnd (t c : Nat) (s : State) : State :=
  match (ctxOf s t c).phase with
  | .halted =>
    if ctxQuiet s t c ∧ ¬releaseBusy s t c everything ∧ (Sparse.get none (tileOf s t).pairs c).isNone ∧ ¬(tileOf s t).isShadow then
      endTask t c (haltReleases t c s)
    else s
  | .ending =>
    if (ctxOf s t c).closed then
      (if ctxQuiet s t c ∧ (Sparse.get none (tileOf s t).pairs c).isNone ∧ ¬(tileOf s t).isShadow then endTask t c s else s)
    else if resultsIn s t c then fatalClose t c s else s
  | .free | .running => s

/-- R254: the step. -/
def execTaskEnd (t : Nat) (c : Fin 8) (s : State) : Host.Outcome State Fault Refusal := .next (taskEnd t c.val s)

/-- R404, Table 23.5: whether an event code counts cycles, or what cycles decide: a bank taken after 64 beats (log 26). -/
def cycleEvent (e : Nat) : Bool := [1, 3, 4, 5, 10, 14, 17].contains e

/-- R403: whether a counter counts cycles: its event does, a context is selected, and a privilege, but for the idle cycles
of the core as a whole. -/
def countsCycles (sel : Word) : Bool :=
  cycleEvent (wfld sel 0 8) && decide (wfld sel 8 4 ≠ 0) && (decide (wfld sel 0 8 = 5) || decide (wfld sel 12 3 ≠ 0))

/-- R404: a counter of cycles of some kind wraps. -/
def eventCounterWrap (t k i : Nat) (s : State) : State :=
  let x := coreOf s t k
  let sel := Sparse.get 0 x.pmsel i
  if countsCycles sel then
    let c := sampled s t k
    pmcAdd t k i c (2 ^ 48 - (Sparse.get 0 x.pmc i).toNat) (siteOf (ctxOf s t c)) (ctxOf s t c).seqLast s
  else s

/-- R404: the step. -/
def execEventCounterWrap (t : Nat) (k : Nat) (i : Fin 4) (s : State) : Host.Outcome State Fault Refusal :=
  .next (eventCounterWrap t (k % 2) i.val s)

/-- R413: every task of a launch that a replay gives up ends with REPLAY_DIVERGENCE. -/
def endLaunch (n : Nat) (cause : Cause) (s : State) : State :=
  let tiles := s.tiles.filterMap fun x => if x.2.launch = n then some x.1 else none
  let s := modLaunch n (fun l => { l with cause := some (l.cause.getD cause) }) s
  tiles.foldl (fun s t =>
    let gone := (tileOf s t).tasks.length
    let s := modLaunch n (fun l => { l with left := l.left - gone }) s
    let s := modTile t (fun x => { x with tasks := [], logWait := none, bankWait := [] }) s
    (List.range 8).foldl (fun s c =>
      let y := ctxOf s t c
      if y.phase = .running ∧ y.launch = n then fatalEnd t c cause (BitVec.ofNat 64 y.pc) 0 s else s) s) s

/-- R413: an agent or a bank has waited 2^22 cycles for its logged request. -/
def replayWaitTimeout (t : Nat) (s : State) : State :=
  let x := tileOf s t
  let late (w : Option Nat) : Bool := w.any fun b => decide (b + Config.writeBlockLimit ≤ s.time)
  if replaying s t && (late x.logWait || x.bankWait.any fun w => late w.2) then
    endLaunch x.launch .replayDivergence
      { s with regs := Sparse.modify 0 (0xD80 + 8 * x.part) (fun w => w ||| 2) s.regs }
  else s

/-- R413: the step. -/
def execReplayWaitTimeout (t : Nat) (s : State) : Host.Outcome State Fault Refusal := .next (replayWaitTimeout t s)

end Sys2Proof.Machine
end

