-- ==== Sys2Proof/Machine/Launches.lean ====
section
/-! DEFINITION. LAUNCH: the record and its checks, the placement of tasks, what a launch sets up, and its completion (R12,
R290 to R297, R305, R331 to R337, R387, R410). -/

namespace Sys2Proof.Machine

/-- R330: why a record is refused: a status and a cause. -/
abbrev Refused := Nat × Cause

/-- R331: a breach without a cause of its own. -/
def badField : Refused := (3, .fieldReserved)

/-- A check of a record. -/
def require (b : Bool) (r : Refused) (k : Except Refused α) : Except Refused α := if b then k else .error r

/-- R331: whether an address of the record names memory that the dispatcher reads. -/
def arrayOk (a : Nat) : Bool :=
  !operandBad a && (decide (paRegion (operandPa a) = 16) || decide (paRegion (operandPa a) = 0) ||
    decide (paRegion (operandPa a) = 1))

/-- A record field, from the record as a number. -/
def lvl (r i lo n : Nat) : Nat := blk r (104 + 8 * i) 8 / 2 ^ lo % 2 ^ n

/-- R331: the levels of a record. -/
def recLevels (r : Nat) : Nat := blk r 2 1

/-- R107: the first granule that a launch leaves to the hamper. -/
def recGranule (r : Nat) : Nat := (blk r 48 4 + 4095) / 4096 + (8 * blk r 52 4 + 4095) / 4096

/-- R331, Table 18.8: the fields of a record whose breach gives FIELD_RESERVED. -/
def fieldsOk (r : Nat) (part : Nat) : Bool :=
  let n := recLevels r
  decide (1 ≤ n) && decide (n ≤ 8) && decide (blk r 3 1 < 4) && (decide (blk r 4 1 ≤ 3) || decide (blk r 4 1 = 255)) &&
  (decide (blk r 5 1 = 255) || decide (blk r 5 1 = part)) && decide (blk r 7 1 = 0) &&
  decide (blk r 8 8 < 2 ^ 40) && decide (blk r 16 8 < 2 ^ 40) &&
  decide (blk r 24 4 % 8 = 0) && decide (blk r 24 4 ≤ 2 ^ 24) && decide (blk r 28 4 % 8 = 0) && decide (blk r 28 4 ≤ 2 ^ 24) &&
  decide (blk r 32 8 % 4 = 0) && decide (blk r 32 8 < 2 ^ 52) &&
  decide (blk r 40 8 % 2 ^ 30 = 0) && decide (blk r 40 8 < 2 ^ 52) &&
  decide (blk r 52 4 < 2 ^ 20) && decide (recGranule r ≤ 96) &&
  decide (blk r 56 8 % 2 ^ 24 = 0) && decide (blk r 56 8 < 2 ^ 52) &&
  decide (blk r 64 4 % 64 = 0) && decide (blk r 64 4 < 2 ^ 28) && decide (blk r 68 4 % 64 = 0) &&
  decide (blk r 68 4 < 2 ^ 24) && decide (blk r 92 4 = 0) && decide (blk r 96 8 < 2 ^ 40) && decide (blk r 96 8 % 8 = 0) &&
  decide (blk r 240 16 = 0) && arrayOk (blk r 168 8) && arrayOk (blk r 176 8) && arrayOk (blk r 184 8) &&
  arrayOk (blk r 192 8) &&
  (List.range 8).all (fun i => decide (lvl r i 19 1 = 0) && decide (lvl r i 23 1 = 0) && decide (lvl r i 31 1 = 0) &&
    decide (lvl r i 48 16 = 0))

/-- Table 12.2: the barriers that a domain admits at most. -/
def barMax (d : Nat) : Nat := match d with | 2 => 16 | 3 | 4 => 32 | 5 | 6 => 64 | _ => 0

/-- Table 1.7: the narrowest scope that contains a domain. -/
def narrowest (d : Nat) : Nat := match d with | 0 | 1 | 2 => 1 | d => d - 1

/-- R291: the tasks below a level. -/
def tasksBelow (r i : Nat) : Nat := (List.range i).foldl (fun n j => n * lvl r j 0 16) 1

/-- R291, Table 12.2: one level of the table; a context holds one task and a core level tasks of one role. -/
def levelOk (r i : Nat) : Bool :=
  let d := lvl r i 16 3
  let s := lvl r i 20 3
  let c := lvl r i 0 16
  let c0 := lvl r 0 0 16
  let roles := blk r 6 1 % 2 ^ c0
  decide (1 ≤ c) && decide (d ≤ 6) && (decide (i ≠ 0) || (decide (c ≤ 8) && decide (d = 0))) &&
  (decide (i = 0) || decide (lvl r (i - 1) 16 3 ≤ d)) && decide (1 ≤ s) && decide (s ≤ 5) && decide (narrowest d ≤ s) &&
  decide (lvl r i 24 7 ≤ barMax d) &&
  (decide (lvl r i 24 7 = 0) || (List.range i).all fun j => decide (lvl r j 16 3 ≠ d)) &&
  (decide (d ≠ 0) || decide (tasksBelow r i = 1)) && (decide (d ≠ 1) || decide (roles = 0) || decide (roles = 2 ^ c0 - 1))

/-- R15: the number of the instance of a domain that holds a tile; a device is one instance. -/
def domInst (d t : Nat) : Nat := match d with | 2 => t | 3 => clusterOf t | 4 => sectorOf t | _ => 0

/-- R293: the instances of a domain inside some tiles, ascending. -/
def instances (d : Nat) (tiles : List Nat) : List (List Nat) :=
  let ns := (tiles.map (domInst d)).foldl (fun l n => insertNat n l) []
  ns.map fun n => tiles.filter fun t => decide (domInst d t = n)

/-- R293: where the instances of a level go inside a parent; an instance of another device of the fabric gets no tile. -/
def placeLevel (peer d : Nat) (parent : Option Nat) (tiles : List Nat) (count : Nat) : Option (List (List Nat)) :=
  if parent = some d then some (List.replicate count tiles)
  else if d ≤ 1 then some (List.replicate count (tiles.take 1))
  else if d = 6 then
    (if count ≤ 64 then some ((List.range count).map fun k => if k = peer then tiles else []) else none)
  else
    let l := instances d tiles
    if count ≤ l.length then some (l.take count) else none

/-- One level of every parent placed; each place keeps the indices of its ancestors, the innermost first. -/
def placeAll (peer d : Nat) (parent : Option Nat) (count : Nat) :
    List (List Nat × List Nat) → Option (List (List Nat × List Nat))
  | [] => some []
  | p :: r =>
    match placeLevel peer d parent p.2 count with
    | none => none
    | some l => (placeAll peer d parent count r).map fun m =>
        (l.zipIdx.map fun k => (k.2 :: p.1, k.1)).filter (fun k => decide (k.2 ≠ [])) ++ m

/-- R293: levels placed from the top down. -/
def placeLevels (peer r : Nat) (parent : Option Nat) :
    List Nat → List (List Nat × List Nat) → Option (List (List Nat × List Nat))
  | [], nodes => some nodes
  | i :: rest, nodes =>
    match placeAll peer (lvl r i 16 3) parent (lvl r i 0 16) nodes with
    | none => none
    | some m => placeLevels peer r (some (lvl r i 16 3)) rest m

/-- R292: the flat index of indices given from level 0 up. -/
def flatIndex (r : Nat) (path : List Nat) : Nat :=
  (path.zipIdx.map fun k => k.1 * tasksBelow r k.2).foldl (· + ·) 0

/-- R331, R332: one arrival condition of a task, or a breach. -/
def taskCond (e : Nat) : Except Refused (Option (Nat × BitVec 128)) :=
  if e / 2 ^ 6 % 2 = 1 ∨ e / 2 ^ 8 % 2 ^ 24 ≠ 0 then .error badField
  else if e / 2 ^ 7 % 2 = 0 then .ok none
  else .ok (some (e % 64, BitVec.ofNat 128 (e / 2 ^ 32)))

/-- R332: the conditions of the task with a flat index. -/
def taskConds (s : State) (r f : Nat) : Except Refused (List (Nat × BitVec 128)) :=
  if blk r 168 8 = 0 then .ok []
  else
    let e := readMem s (operandPa (blk r 168 8) + 40 * f) 40
    match taskCond (e % 2 ^ 160), taskCond (e / 2 ^ 160) with
    | .ok a, .ok b => .ok (a.toList ++ b.toList)
    | .error x, _ | _, .error x => .error x

/-- R292, R331: the placed tasks with their roles and conditions. -/
def makeTasks (s : State) (r : Nat) : List (List Nat × List Nat) → Except Refused (List (Nat × Task))
  | [] => .ok []
  | (path, tiles) :: rest =>
    let f := flatIndex r path
    let role := blk r 6 1 / 2 ^ (path.headD 0) % 2 = 1
    let img := if role then decide (blk r 16 8 ≠ 0) && decide (blk r 28 4 ≠ 0)
      else decide (blk r 8 8 ≠ 0) && decide (blk r 24 4 ≠ 0)
    require img badField <|
      match taskConds s r f, makeTasks s r rest with
      | .ok c, .ok l => .ok ((tiles.headD 0, { flat := f, role := decide role, conds := c }) :: l)
      | .error x, _ | _, .error x => .error x

/-- Tasks put into ascending F. -/
def insertTask (k : Nat × Task) : List (Nat × Task) → List (Nat × Task)
  | [] => [k]
  | x :: r => if k.2.flat < x.2.flat then k :: x :: r else x :: insertTask k r

/-- R387: a tile that a launch may use. -/
def launchTiles (s : State) (part : Nat) (pair : Bool) : List Nat :=
  (partTiles s part).filter fun t => !pair || decide (t % 2 = 0)

/-- R291 to R295: the tasks of a record, in ascending F. -/
def placeTasks (s : State) (r part : Nat) : Except Refused (List (Nat × Task)) :=
  let n := recLevels r
  let tiles := launchTiles s part (decide (blk r 3 1 / 2 = 1))
  let bad : Refused := (3, .hierarchyRange)
  require ((List.range n).all (levelOk r)) bad <|
  require (decide (tasksBelow r n ≤ 64 * 64 * Config.tiles)) bad <|
    match placeLevels (wfld (Sparse.get 0 s.regs 0x600) 0 6) r none (List.range n).reverse [([], tiles)] with
    | none => .error bad
    | some nodes =>
      let crowded := tiles.any fun t => decide ((nodes.filter fun k => decide (k.2.headD 0 = t)).length > 64)
      require (decide (tiles ≠ []) && !crowded) bad <|
      match makeTasks s r nodes with
      | .error x => .error x
      | .ok l =>
        let l := l.foldl (fun m k => insertTask k m) []
        let tooMany := (List.range n).any fun i => decide (lvl r i 24 7 ≠ 0) &&
          l.any fun k => decide ((l.filter fun j => decide (domInst (lvl r i 16 3) j.1 = domInst (lvl r i 16 3) k.1)).length > 65535)
        let tooWide := (List.range n).any fun i => decide (lvl r i 24 7 ≠ 0) && decide (lvl r i 16 3 = 6) &&
          decide (tasksBelow r n > 65535)
        require (!tooMany && !tooWide) bad (.ok l)

/-- R163, R331: the alloy table of a record, or a breach. A present entry with bits beyond [9:0] is illegal. -/
def recAlloy (r : Nat) : List Nat → Except Refused (Sparse Word)
  | [] => .ok []
  | i :: rest =>
    let w := blk r (200 + 2 * i) 2
    match (if w / 2 ^ 15 = 0 then some 0 else if w / 2 ^ 10 = 2 ^ 5 then alloyEntry (w % 2 ^ 10) else none), recAlloy r rest with
    | some e, .ok l => .ok ((i, e) :: l)
    | none, _ => .error (3, .alloyEntry)
    | _, .error x => .error x

/-- R235, R331: the work lists of a record, or a breach. -/
def recLists (s : State) (part base : Nat) : List Nat → Except Refused (Sparse WorkList)
  | [] => .ok []
  | i :: rest =>
    let e := readMem s (base + 16 * i) 16
    let cap := e % 2 ^ 32
    let t := e / 2 ^ 32 % 2 ^ 11
    let off := e / 2 ^ 64 % 2 ^ 28
    if e / 2 ^ 43 % 2 ^ 21 ≠ 0 ∨ e / 2 ^ 92 ≠ 0 then .error badField
    else if cap = 0 then recLists s part base rest
    else if cap < 64 ∨ cap > 2 ^ 20 ∨ cap % 64 ≠ 0 ∨ partOfTile s t ≠ some part ∨ off + 16 * cap > 2 ^ 28 then
      .error (3, .worklistId)
    else match recLists s part base rest with
      | .ok l => .ok ((i, { cap := cap, pa := vaultPa t off }) :: l)
      | .error x => .error x

/-- Table 18.8: the address and count of a directory entry of a placed tile. -/
def dirEntry (s : State) (dir k : Nat) : Except Refused (Nat × Nat) :=
  if dir = 0 then .ok (0, 0)
  else
    let e := readMem s (operandPa dir + 16 * k) 16
    if e / 2 ^ 77 ≠ 0 ∨ !arrayOk (e % 2 ^ 64) then .error badField
    else .ok (operandPa (e % 2 ^ 64), e / 2 ^ 64)

/-- R196, R200: the copy schedule of a placed tile, or a breach. -/
def recSchedule (s : State) (r k : Nat) (alloy : Sparse Word) : Except Refused (List (List Byte)) :=
  match dirEntry s (blk r 176 8) k with
  | .error x => .error x
  | .ok (a, n) =>
    require (decide (n ≤ 4096)) badField <|
      let l := (List.range n).map fun i => readMem s (a + 128 * i) 128
      if l.all fun d => (parseCopy alloy d).isSome then .ok (l.map fun d => natBytes d 128) else .error (3, .copyDescriptor)

/-- R232, R331, R334: whether a preset's region can be one that ASARM accepts on tile `t`: it ends within the address space,
and where it meets the launch's scratchpad window it lies in the tile's own scratchpad (log 22). -/
def presetRegion (r t base n : Nat) : Bool :=
  let spb := blk r 40 8
  let own := spb + t * 2 ^ 19
  decide (base + n ≤ 2 ^ 52) &&
  (decide (spb = 0) || decide (base + n ≤ spb) || decide (spb + 2 ^ 30 ≤ base) ||
    (decide (own ≤ base) && decide (base + n ≤ own + Config.scratchBytes)))

/-- R232, R331: the arrival presets of the `k`-th placed tile, `t`. A preset holds its base and set in bytes 0-7, E and NC in
bytes 8-15 (log 22). -/
def recPresets (s : State) (r k t : Nat) : Except Refused (Sparse ArrSet) :=
  match dirEntry s (blk r 184 8) k with
  | .error x => .error x
  | .ok (a, n) =>
    let l := (List.range n).map fun i => readMem s (a + 16 * i) 16
    let ok (e : Nat) : Bool :=
      let w := e / 2 ^ 64
      let nc := w / 2 ^ 32 % 2 ^ 8
      decide (e % 2 ^ 64 / 2 ^ 6 % 8 = 0) && decide (1 ≤ nc) && decide (nc ≤ 128) && decide (w % 2 ^ 17 ≤ 512 * nc) &&
      decide (w / 2 ^ 17 % 2 ^ 15 = 0) && decide (w / 2 ^ 40 = 0) && presetRegion r t (e % 2 ^ 64 / 512 * 512) (512 * nc)
    if l.all ok then
      .ok (l.map fun e => (e % 64, { armed := true, base := e % 2 ^ 64 / 512 * 512, nc := e / 2 ^ 96 % 2 ^ 8,
                                     e := e / 2 ^ 64 % 2 ^ 17 }))
    else .error badField

/-- What a record sets up on one placed tile. -/
structure TilePlan where
  tile : Nat := 0
  tasks : List Task := []
  sched : List (List Byte) := []
  presets : Sparse ArrSet := []

/-- R331: what a record asks for, once every check has passed. -/
structure Plan where
  tasks : List (Nat × Task) := []
  alloy : Sparse Word := []
  lists : Sparse WorkList := []
  tiles : List TilePlan := []

/-- The plans of the placed tiles, numbered in ascending order. -/
def tilePlans (s : State) (r : Nat) (alloy : Sparse Word) (tasks : List (Nat × Task)) :
    List (Nat × Nat) → Except Refused (List TilePlan)
  | [] => .ok []
  | (t, k) :: rest =>
    match recSchedule s r k alloy, recPresets s r k t, tilePlans s r alloy tasks rest with
    | .ok a, .ok b, .ok l =>
      .ok ({ tile := t, tasks := (tasks.filter fun x => decide (x.1 = t)).map fun x => x.2, sched := a, presets := b } :: l)
    | .error x, _, _ | _, .error x, _ | _, _, .error x => .error x

/-- R12, R331: every check of a record. -/
def checkRecord (s : State) (r part : Nat) : Except Refused Plan :=
  require (decide (blk r 0 2 = 2)) (2, .none_) <|
  require (fieldsOk r part) badField <|
  match placeTasks s r part with
  | .error x => .error x
  | .ok tasks =>
    let totals : Quant := (32, 96 - recGranule r, 4)
    let claim (off : Nat) : Bool :=
      claimShape (BitVec.ofNat 64 (blk r off 4)) && Quant.le (claimQuant (BitVec.ofNat 64 (blk r off 4))) totals
    require (claim 232 && claim 236) (3, .claimImpossible) <|
    match recAlloy r (List.range 8) with
    | .error x => .error x
    | .ok alloy =>
      match (if blk r 192 8 = 0 then .ok [] else recLists s part (operandPa (blk r 192 8)) (List.range 64)) with
      | .error x => .error x
      | .ok lists =>
        let used := (tasks.map fun k => k.1).foldl (fun l n => insertNat n l) []
        match tilePlans s r alloy tasks used.zipIdx with
        | .error x => .error x
        | .ok l => .ok { tasks := tasks, alloy := alloy, lists := lists, tiles := l }

/-- R293, R294: one image placed in the code region of a tile's vault and in what its core fetches. -/
def placeImage (t k addr len off : Nat) (s : State) : State :=
  let src := hostPa addr
  let s := placeFresh s.mem src len (vaultPa t off) s
  let img := Memory.slice src len 0 s.mem
  modCore t k (fun x => { x with image := img, imageLen := len }) s

/-- R293: the images that a tile's tasks use; the other core fetches nothing. -/
def placeImages (r t : Nat) (tasks : List Task) (s : State) : State :=
  let s := modCore t 0 (fun x => { x with image := [], imageLen := 0 }) s
  let s := modCore t 1 (fun x => { x with image := [], imageLen := 0 }) s
  let s := if tasks.any fun k => !k.role then placeImage t 0 (blk r 8 8) (blk r 24 4) Config.codeRegionS s else s
  if tasks.any fun k => k.role then placeImage t 1 (blk r 16 8) (blk r 28 4) Config.codeRegionC s else s

/-- R107, R243: the hamper's granules of a tile, from granule `first` on, zero. -/
def zeroGranules (t first : Nat) (s : State) : State :=
  let a := scratchPa t (4096 * first)
  let n := Config.scratchBytes - 4096 * first
  clearPoison a n (forgetWrites a n { s with mem := Memory.clear a n s.mem })

/-- R107, R155, R225, R230, R232, R243, R331: the tile as a launch finds it set up. -/
def setupTile (n part : Nat) (r : Nat) (p : TilePlan) (alloy : Sparse Word) (s : State) : State :=
  let first := recGranule r
  let s := modTile p.tile (fun x =>
    { x with launch := n, part := part, tasks := p.tasks, sched := p.sched, stage := 0, reserves := [],
             alloy := alloy, sems := (List.range 16).map fun i => (i, blk r (216 + i) 1), semTrail := [], semq := [], arr := p.presets,
             acqq := [], firstGranule := first, freeGranules := (List.range 96).filter fun g => decide (first ≤ g),
             statBytes := (blk r 48 4 + 4095) / 4096 * 4096, spill := blk r 52 4, handler := blk r 32 8,
             saved := false, logCount := 0, logPos := 0, serves := 0, bankPos := [], logFull := false, logWait := none, bankWait := [],
             pairOf := none, isShadow := false, pairs := [], ctxs := x.ctxs.map fun y => (y.1, { y.2 with rplPos := 0 }) }) s
  placeImages r p.tile p.tasks (zeroGranules p.tile first s)

/-- R387: a primary tile coupled to its shadow, which gets the code, the static region with its poison, and every array. -/
def couple (n part : Nat) (r : Nat) (p : TilePlan) (alloy : Sparse Word) (s : State) : State :=
  let u := p.tile + 1
  let s := setupTile n part r { p with tile := u } alloy s
  let n := (blk r 48 4 + 4095) / 4096 * 4096
  let s := forgetWrites (scratchPa u 0) n { s with mem := Memory.place s.mem (scratchPa p.tile 0) n (scratchPa u 0) s.mem }
  let s := copyPoison (scratchPa p.tile 0) (scratchPa u 0) n (clearPoison (scratchPa u 0) n s)
  modTile u (fun x => { x with isShadow := true, pairOf := some p.tile, tasks := [] })
    (modTile p.tile (fun x => { x with pairOf := some u }) s)

/-- R225, R324: the barrier objects of a launch's instances return to zero, and what a launch before it sent them is dropped. -/
def clearBars (part : Nat) (tiles : List Nat) (s : State) : State :=
  let mask := Sparse.get 0 s.regs (0xC0 + 8 * part)
  let other (key : Nat) : Bool :=
    let d := key / 2 ^ 20
    let inst := key / 2 ^ 6 % 2 ^ 14
    if d = 5 then !wbit mask (key % 64) else !tiles.any fun t => decide (domInst d t = inst)
  { s with bars := s.bars.filter fun b => other b.1, barArr := s.barArr.filter fun b => other b.key }

/-- R232: every arrival set of a partition's tiles is unarmed from launch start on. -/
def unarm (part : Nat) (s : State) : State :=
  { s with tiles := s.tiles.map fun x => if partOfTile s x.1 = some part then (x.1, { x.2 with arr := [] }) else x }

/-- R410: a log begins with a count of zero. -/
def clearLogs (tiles : List Nat) (s : State) : State :=
  tiles.foldl (fun s t => writeMem (logPa s t 0 - 64) 64 0 s) s

/-- R336: the priority of the launch at the head of a queue. -/
def launchPrio (s : State) (q : Nat) (e : Nat) : Nat :=
  let k := queueOf s q
  let own := readMem s (operandPa (blk e 8 8) + 4) 1
  min 3 ((if own ≤ 3 then own else wfld k.cfg 8 2) + k.raised)

/-- R331, R335, R338: an accepted record becomes the running launch of its partition. -/
def startLaunch (q part prio r : Nat) (c : Cmd) (p : Plan) (s : State) : State :=
  let n := s.nextSerial
  let paired := decide (blk r 3 1 / 2 % 2 = 1)
  let rec_ := if blk r 3 1 % 2 = 1 then some (wbit (rplCfg s part) 63) else none
  let l : Launch :=
    { serial := n, queue := q, part := part, prio := prio, qidx := c.idx, record := natBytes r 256,
      recAddr := BitVec.ofNat 64 (blk c.entry.toNat 8 8), placed := p.tasks, left := p.tasks.length,
      wdAt := s.time, paired := paired, recording := rec_, lists := p.lists, journal := c.journal, irq := c.irq,
      entry := c.entry, known := c.known }
  let s := { s with launches := s.launches ++ [l], nextSerial := (n + 1) % 2 ^ 32 }
  let s := modPart part (fun x => { x with live := true, queue := q, qidx := c.idx, lseq := c.journal, lastQ := q }) s
  let s := unarm part (clearBars part (p.tiles.map fun t => t.tile) s)
  let s := p.tiles.foldl (fun s t => (fun s => if paired then couple n part r t p.alloy s else s)
    (setupTile n part r t p.alloy s)) s
  if rec_ = some false then clearLogs (p.tiles.map fun t => t.tile) s else s

/-- R324, R337: whether a partition takes a new launch: none runs on it or is being saved, nothing holds it, and none of
at least the new one's priority is saved. -/
def partitionFree (s : State) (p prio : Nat) : Bool :=
  let x := partOf s p
  x.run && !x.halt && !x.preempt && !x.clearing && x.reset.isEmpty && !x.live &&
  !s.launches.any fun l => decide (l.part = p) && decide (prio ≤ l.prio)

/-- R336: the queues in round-robin order after one. -/
def queueOrder (q : Nat) : List Nat := (List.range 16).map fun i => (q + 1 + i) % 16

/-- R336: the queue whose head LAUNCH a partition takes next. -/
def chosenQueue (s : State) (p : Nat) : Option Nat :=
  let l := (queueOrder (partOf s p).lastQ).filter fun q => waitingLaunch s q && decide (queuePart (queueOf s q) = p)
  let prio (q : Nat) : Nat := launchPrio s q ((headEntry s q).getD 0)
  l.foldl (fun b q => match b with
    | none => some q
    | some c => if prio c < prio q then some q else some c) none

/-- R337, R359: the save slot of a running launch: one per priority below the highest; none while it is taken. -/
def lowerSlot (s : State) (l : Launch) : Option Nat :=
  if l.prio ≤ 2 ∧ ¬(s.launches.any fun k => decide (k.part = l.part) && decide (k.saved = some l.prio)) then some l.prio
  else none

/-- R337: the running launch that the chosen LAUNCH of queue `q` would pre-empt, with its save slot. -/
def victim (s : State) (p q : Nat) : Option (Launch × Nat) :=
  let x := partOf s p
  match runningLaunch s p with
  | none => none
  | some l =>
    match lowerSlot s l with
    | none => none
    | some j =>
      if x.run ∧ ¬x.preempt ∧ ¬x.halt ∧ ¬x.clearing ∧ x.reset = [] ∧ ¬l.expired ∧
          l.prio < launchPrio s q ((headEntry s q).getD 0) then some (l, j) else none

/-- R331, R332: the arrays that a record names and that every placed tile reads in part: address and bytes. -/
def recArrays (r n tiles : Nat) : List (Nat × Nat) :=
  [(blk r 168 8, 40 * n), (blk r 176 8, 16 * tiles), (blk r 184 8, 16 * tiles), (blk r 192 8, 1024)].filter fun a => decide (a.1 ≠ 0)

/-- R381, R383: what reading the launch-time arrays of a record does about the errors that their segments hold. -/
def checkArrays (r part : Nat) (s : State) : State :=
  match placeTasks s r part with
  | .error _ => s
  | .ok l =>
    let used := (l.map fun k => k.1).foldl (fun l n => insertNat n l) []
    let s := (recArrays r l.length used.length).foldl (fun s a => checkRange (operandPa a.1) a.2 s) s
    (List.range used.length).foldl (fun s k =>
      [(176, 128), (184, 16)].foldl (fun s d => match dirEntry s (blk r d.1 8) k with
        | .ok (a, n) => checkRange a (d.2 * min n 4096) s
        | .error _ => s) s) s

/-- R331: the record that a LAUNCH entry names. -/
def launchRecord (s : State) (e : Nat) : Nat := readMem s (operandPa (blk e 8 8)) 256

/-- R12, R331, R336: dispatch of the LAUNCH at the head of a queue. A record that would pre-empt a running launch is checked
first, and one that fails is refused with nothing changed. -/
def launchCommand (q : Nat) (s : State) : State :=
  dispatchKind q 1 (fun e s =>
    let p := queuePart (queueOf s q)
    let prio := launchPrio s q e
    if chosenQueue s p = some q ∧ (partitionFree s p prio ∨ (victim s p q).isSome) then
      let s := checkRange (operandPa (blk e 8 8)) 256 s
      let rec_ := launchRecord s e
      let s := checkArrays rec_ p s
      match checkRecord s rec_ p with
      | .error (st, k) =>
        let (c, s) := takeEntry q s
        complete q c st k.code 0 (modPart p (fun x => { x with lastQ := q }) s)
      | .ok plan =>
        if partitionFree s p prio then
          let (c, s) := takeEntry q s
          noteWaiting q (startLaunch q p prio rec_ c plan s)
        else s
    else s) s

/-- R331: the step. -/
def execLaunch (q : Fin 16) (s : State) : Host.Outcome State Fault Refusal := .next (launchCommand q.val s)

/-- R305, R379: the items left in the work lists of a launch, or discarded from them by a clear. -/
def itemsLeft (l : Launch) : Nat := l.lists.foldl (fun n w => n + (w.2.tail - w.2.head)) l.gone

/-- The command of a launch, as its completion needs it. -/
def launchCmd (l : Launch) : Cmd :=
  { idx := l.qidx, kind := 1, irq := l.irq, entry := l.entry, journal := l.journal, known := l.known.join l.ended }

/-- R305, R379: a launch leaves the machine. -/
def dropLaunch (l : Launch) (s : State) : State :=
  let s := { s with launches := s.launches.filter (fun k => decide (k.serial ≠ l.serial)),
                    overPend := s.overPend.filter fun e => decide (e.1 ≠ l.serial),
                    tiles := s.tiles.map fun x =>
                      if x.2.launch = l.serial then
                        (x.1, { x.2 with launch := 0, tasks := [], saved := false, pairOf := none, isShadow := false,
                                         pairs := [] })
                      else x }
  if l.saved.isNone then modPart l.part (fun x => { x with live := false }) s else s

/-- R305, R330, R335: every task has ended: the publication and the completion word in one step. A launch whose watchdog has
expired is the firmware core's to end (R338, R378). -/
def launchComplete (p : Nat) (s : State) : State :=
  match runningLaunch s p with
  | some l =>
    if l.left = 0 ∧ ¬l.expired ∧ ¬(partOf s p).halt ∧ (partOf s p).reset = [] then
      let cpa := recField l 96 8
      let s := if cpa = 0 then s else hostWrite (launchCmd l).known (hostPa cpa) 8 (l.serial % 2 ^ 32) s
      let s := dropLaunch l s
      match l.cause with
      | none => complete l.queue (launchCmd l) 1 0 (itemsLeft l) s
      | some c => complete l.queue (launchCmd l) 4 c.code (itemsLeft l) s
    else s
  | none => s

/-- R335: the step. -/
def execLaunchComplete (p : Fin 8) (s : State) : Host.Outcome State Fault Refusal := .next (launchComplete p.val s)

end Sys2Proof.Machine
end

