-- ==== Sys2Proof/Machine/Saves.lean ====
section
/-! DEFINITION. Pre-emption: the halt, the images of a saved launch, its restore, and the watchdog (R337, R338, R357 to R363,
R378, R390). -/

namespace Sys2Proof.Machine

/-- R12, R331, R337, R372: the dispatcher pre-empts a partition for a launch of higher priority whose record stands: the
request. -/
def preemption (p : Nat) (s : State) : State :=
  match chosenQueue s p with
  | none => s
  | some q =>
    match victim s p q, checkRecord s (launchRecord s ((headEntry s q).getD 0)) p with
    | some (l, j), .ok _ =>
      let (n, s) := journalBegin 2 l.queue 0x22 p l.qidx 0 0 0 s
      let s := modPart p (fun x => { x with preempt := true, saveJournal := n }) s
      let s := modLaunch l.serial (fun l => { l with saved := some j }) s
      (partTiles s p).foldl (fun s t => modTile t (fun x => { x with launch := l.serial, saved := false }) s) s
    | _, _ => s

/-- R357: the step. -/
def execPreemption (p : Fin 8) (s : State) : Host.Outcome State Fault Refusal := .next (preemption p.val s)

/-- R221, R227, R418: whether a context must wait for an answer before it can stop. -/
def mustAnswer (s : State) (t c : Nat) : Bool :=
  let y := ctxOf s t c
  decide (y.phase = .running) && !y.stopped &&
  (((answerHeld y || y.after.isSome) && !y.debugHalt) || s.barArr.any fun b => b.aw && decide (b.tile = t) && decide (b.ctx = c))

/-- R375, R388: what a paired context that a reset stops has held back is given up. -/
def dropInterval (t c : Nat) (s : State) : State :=
  match Sparse.get none (tileOf s t).pairs c with
  | some k => modTile t (fun x => { x with pairs := Sparse.set c none x.pairs }) (dropHeld t c k.firstId s)
  | none => s

/-- R357, R375: one context stops at a boundary: its merged stores go out, a request that the unit has not applied is
withdrawn, but for one that an ended task has sent (R242); a reset cancels its commands. -/
def stopCtx (t c : Nat) (s : State) : State :=
  let y := ctxOf s t c
  let p := partOf s (tileOf s t).part
  if y.phase = .free ∨ y.stopped then s
  else
    let s := modCtx t c (fun y => { issueMerged y with stopped := true, wl := if y.phase = .ending then y.wl else none }) s
    if p.preempt then monitor t c 8 0 y.pc 0 y.seqLast s
    else
      let s := dropInterval t c s
      if p.reset ≠ [] ∧ ¬p.halt then cancelCommands t c s else s

/-- R357: every context of a stopped partition stands at a boundary. -/
def contextsHalted (p : Nat) (s : State) : State :=
  let tiles := partTiles s p
  if partStopped s p ∧ ¬(tiles.any fun t => (List.range 8).any fun c => mustAnswer s t c) then
    tiles.foldl (fun s t => (List.range 8).foldl (fun s c => stopCtx t c s) s) s
  else s

/-- R357: the step. -/
def execContextsHalted (p : Fin 8) (s : State) : Host.Outcome State Fault Refusal := .next (contextsHalted p.val s)

/-- R357: whether every context of a tile has stopped, or has ended. -/
def tileHalted (x : Tile) : Bool :=
  x.ctxs.all fun y => decide (y.2.phase = .free) || (y.2.stopped && decide (y.2.phase ≠ .ending))

/-- R390: whether the interval of a paired context has ended since it stopped. -/
def intervalClosed (x : Tile) (c : Nat) : Bool :=
  (Sparse.get none x.pairs c).isNone || notBegun x c

/-- R357, R180: whether what a tile's contexts had under way has come to its end. A queued operation that needs a row or a plane of a
move that stands stopped (R135) keeps its tile from it (DESIGN CHOICE, log 78). -/
def tileDrained (s : State) (t : Nat) : Bool :=
  let x := tileOf s t
  tileHalted x && x.moves.isEmpty && x.matq.isEmpty && x.ctxs.all (fun y => y.2.accs.isEmpty) &&
  !s.barArr.any (fun b => decide (b.tile = t) || decide (barHome b.key = t)) && (List.range 8).all fun c => intervalClosed x c &&
    (match x.pairOf with | some u => intervalClosed (tileOf s u) c | none => true)

/-- R76, R227, R357, R417: a context as its image shows it: the loop that it runs in ELOOP, whose valid bit is clear where a task runs
none, and for a BAR.AW or a CPYS that the halt stopped, the partial-move bit and EVAL (log 38). -/
def imageCtx (s : State) (t c : Nat) : Ctx :=
  let y := ctxOf s t c
  let y1 := match y.loop with
    | some l => { y with eloop := eloopOf l y.pc }
    | none => if exl y then y else { y with eloop := putFld y.eloop 31 1 0 }
  match stoppedGroup s t c with
  | some v => { setPm true y1 with eval := v }
  | none => y1

/-- R357 to R361: the image of one context written at `b`; what is still to land in it is noted (R220). The context itself is kept as
it stands, with whether that is at a stopped BAR.AW or CPYS (R227, R417). -/
def saveCtx (n t c b : Nat) (s : State) : State :=
  let y := ctxOf s t c
  let img := ctxImage (setCtx t c (imageCtx s t c) s) t c
  let s := setCtx t c { y with afterEret := (stoppedGroup s t c).isSome, sight := y.sight.know (knownNow s t c) } s
  let s := placeFresh img 0 33280 b s
  let open_ := (List.range 8).filterMap fun h =>
    let f := Sparse.get ({} : Fut) y.futs h
    if f.st = .pending then some (f.cmd, b, h) else none
  { s with late := s.late ++ open_, overPend := s.overPend ++ ((imagePend y).drop 16).map fun p => (n, t, c, p) }

/-- R359, R361: the tile image written at `b`, with the scratchpad and its poison. -/
def saveTile (t b : Nat) (s : State) : State :=
  let img := tileImage s t (countVector (avail (tileOf s t))).toNat
  let s := placeFresh img 0 397312 b s
  copyPoison (scratchPa t 0) (b + 4096) Config.scratchBytes s

/-- Table 18.8: the watchdog limit of a launch in microseconds. -/
def watchdogLimit (l : Launch) : Nat := recField l 88 4

/-- R338: the microseconds that a running launch has counted. -/
def watchdogCount (s : State) (l : Launch) : Nat := l.wdUs + (s.time - l.wdAt) / Config.cyclesPerMicro

/-- R359: the parts of a slot header; the places within bytes 0-63 are the model's (log 23). -/
def headerParts (s : State) (l : Launch) : Parts :=
  [(0, 1, 3), (8, 8, l.serial), (16, 8, l.queue), (24, 8, l.recAddr.toNat), (32, 8, watchdogCount s l),
   (2112, 8, l.p), (2120, 8, l.k), (2128, 8, l.q)] ++
  (ownObjects s l.part).flatMap (fun i => barPart s (64 + 16 * i) (barKey 5 0 i)) ++
  l.lists.flatMap fun w => [(1088 + 16 * w.1, 8, w.2.head), (1096 + 16 * w.1, 8, w.2.tail)]

/-- R357, R359: the last tile's images are written: the header, the end of the pre-emption, a free partition. -/
def endSave (p : Nat) (l : Launch) (j : Nat) (s : State) : State :=
  let b := saveArea s p j
  let s := placeFresh (build (headerParts s l)) 0 65536 b s
  let us := watchdogCount s l
  let s := modLaunch l.serial (fun l => { l with wdUs := us, bars := s.bars }) s
  let s := (partTiles s p).foldl (fun s t => modTile t (fun x => { x with launch := 0, saved := false }) s) s
  let s := journalEnd (partOf s p).saveJournal (completionWord 1 0 0) s
  modPart p (fun x => { x with preempt := false, live := false }) s

/-- R357, R359: a drained tile's images are written; its contexts are free for the next launch. -/
def tileImageSave (t : Nat) (s : State) : State :=
  let x := tileOf s t
  match launchOf s x.launch with
  | some l =>
    match l.saved with
    | some j =>
      if (partOf s l.part).preempt ∧ partOfTile s t = some l.part ∧ ¬x.saved ∧ tileDrained s t then
        let b := tileBlock s l.part j t
        let s := saveTile t b s
        let s := (List.range 8).foldl (fun s c => saveCtx l.serial t c (ctxBlock b c) s) s
        let kept := tileOf s t
        let s := modLaunch l.serial (fun l => { l with kept := Sparse.set t kept l.kept }) s
        let s := modTile t (fun x =>
          { x with saved := true, ctxs := x.ctxs.map (fun y => (y.1, { dbg := y.2.dbg, haltReason := y.2.haltReason })),
                   xregs := [], slots := [], tasks := [], pairs := [], acqq := [], semq := [], reserves := [] }) s
        let s := coreIdle t 1 (coreIdle t 0 s)
        if (partTiles s l.part).all fun u => (tileOf s u).saved then
          (match launchOf s l.serial with
           | some l => endSave l.part l j s
           | none => s)
        else s
      else s
    | none => s
  | none => s

/-- R357: the step. -/
def execTileImageSave (t : Nat) (s : State) : Host.Outcome State Fault Refusal := .next (tileImageSave t s)

/-- Table 8.1: a future record of an image, whose state is free or terminal (R220), with the writes that its command made (R280). -/
def futFrom (s : State) (b h : Nat) (seen : Known) : Fut :=
  let w := readMem s (b + 896 + 48 * h) 8
  if readMem s (b + 2) 2 / 4 ^ h % 4 = 0 then {}
  else
    { st := .terminal, code := w % 2 ^ 8, cause := w / 2 ^ 8 % 2 ^ 8, flags := w / 2 ^ 16 % 2 ^ 4, count := w / 2 ^ 32,
      aux := BitVec.ofNat 64 (readMem s (b + 904 + 48 * h) 8), data := BitVec.ofNat 256 (readMem s (b + 912 + 48 * h) 32),
      poison := decide (readMem s (b + 6) 1 / 2 ^ h % 2 = 1), seen := seen }

/-- Table 19.4: the pending causes of an image; the one of a stopped tile move takes the image's MWORD. -/
def pendsFrom (s : State) (b : Nat) : List Pending :=
  let raw := (List.range 16).filterMap fun i =>
    let w := readMem s (b + 648 + 16 * i) 8
    if w / 2 ^ 39 % 2 = 1 then
      some ({ cause := Cause.ofCode (w / 2 ^ 32 % 64), seq := BitVec.ofNat 32 w,
              eval := BitVec.ofNat 64 (readMem s (b + 640 + 16 * i) 8) } : Pending)
    else none
  let mw := readMem s (b + 616) 8
  let stops (p : Pending) : Bool := [Cause.rowRepair, .thermalHold, .vaultHold].contains p.cause
  if mw / 2 ^ 32 % 2 = 1 then
    match raw.find? stops with
    | some q => raw.map fun p => if p = q then { p with mword := mw % 2 ^ 32 } else p
    | none => raw
  else raw

/-- R292: the flat index that the level registers of a task name. -/
def flatOf (y : Ctx) : Nat :=
  ((List.range y.lvln.toNat).foldl (fun (a : Nat × Nat) i =>
    let w := Sparse.get 0 y.lvl i
    (a.1 + wfld w 0 32 * a.2, a.2 * wfld w 32 32)) (0, 1)).1

/-- R362, Table 19.4: the context that an image at `b` describes, in launch `n`. What the image does not hold is as the
context of that number was saved, among it its place in a recording, its last sequence number, which granules it holds, the place of a
stopped fill (R172), an armed timer, and where a debugger stands; an image of another device brings none of these (R11; log 38). -/
def ctxFrom (s : State) (b n : Nat) (kept : Ctx) : Ctx :=
  let m off n := readMem s (b + off) n
  let bit n := decide (m 1 1 / 2 ^ n % 2 = 1)
  let y : Ctx :=
    { phase := if kept.phase = .halted then .halted else .running, launch := n,
      granules := if kept.granules.length = m 50 1 % 2 ^ 7 then kept.granules else [], acqRes := kept.acqRes,
      seqLast := kept.seqLast, retired := kept.retired, rplPos := kept.rplPos, endCause := kept.endCause,
      stopOrder := kept.stopOrder, wlKept := kept.wlKept, lastPc := kept.lastPc, tcmp := kept.tcmp, haltReason := kept.haltReason, suppress := kept.suppress,
      resumeReq := kept.resumeReq, stepReq := kept.stepReq,
      debugHalt := bit 1, timerPend := bit 3,
      claim := if bit 4 then some (BitVec.ofNat 64 (m 40 8)) else none, pc := m 8 8, npc := m 16 8, nnpc := m 24 8,
      n0 := decide (m 32 1 % 2 = 1), n1 := decide (m 32 1 / 2 % 2 = 1), dg0 := decide (m 32 1 / 4 % 2 = 1),
      dg1 := decide (m 32 1 / 8 % 2 = 1),
      sregs := (List.range 16).map fun i =>
        (i, { val := BitVec.ofNat 64 (m (64 + 8 * i) 8), poison := decide (m 4 2 / 2 ^ i % 2 = 1) }),
      futs := (List.range 8).map fun h => (h, futFrom s b h (Sparse.get ({} : Fut) kept.futs h).seen), pend := pendsFrom s b }
  let y := (List.range 35).foldl (fun y n => match CReg.ofCode n with
    | some r => cregPut r (BitVec.ofNat 64 (m (192 + 8 * n) 8)) y
    | none => y) y
  let y := { y with flat := flatOf y }
  if prv y = 2 then { y with shadow := (List.range 9).map fun i => BitVec.ofNat 64 (m (512 + 8 * i) 8) } else y

/-- R360, R362: the granules of the contexts whose images give a count that no kept context has: the lowest free ones. -/
def granulesFrom (s : State) (b : Nat) (x : Tile) : Tile :=
  (List.range 8).foldl (fun x c =>
    if (ctxIn x c).phase = .free then x
    else takeGranules c (readMem s (ctxBlock b c + 50) 1 % 2 ^ 7 - (ctxIn x c).granules.length) x) x

/-- R362: a name bound with the contents of an image. -/
def nameFrom (s : State) (b c n : Nat) (x : Tile) : Tile :=
  let a := b + 2048 + 1088 * n
  let f := readMem s (a + 2) 1
  if f % 2 = 0 ∨ f / 8 % 2 = 1 then x
  else
    let x := bindName c s.time n x
    match physOf (ctxIn x c) n with
    | none => x
    | some p =>
      let g : TileReg :=
        { bound := true, lastUse := s.time, rows := rowsFrom s.mem (a + 64) (readMem s a 2),
          stamp := BitVec.ofNat 32 (readMem s (a + 4) 4),
          srec := recFrom s.mem (decide (f / 2 % 2 = 1)) (decide (f / 4 % 2 = 1)) (a + 8) (a + 32) }
      { x with xregs := Sparse.set p g x.xregs }

/-- R362: the names, and with `sh` the shared names, and the slots of a context. -/
def holdingsFrom (s : State) (b c : Nat) (sh : Bool) (x : Tile) : Tile :=
  let bits := readMem s (b + 56) 8
  if sh then
    (List.range 16).foldl (fun x n => if bits / 2 ^ (16 + n) % 2 = 1 then bindShared c n x else x) x
  else
    let x := (List.range 16).foldl (fun x n => nameFrom s b c n x) x
    { x with slots := (List.range 4).foldl (fun m j =>
        if bits / 2 ^ (32 + j) % 2 = 1 then Sparse.set j (slotFrom s.mem (b + 20480 + 3200 * j) (some c)) m else m) x.slots }

/-- Table 19.5: the arrival sets of a tile image, with the writes that marked them (R282). -/
def setsFrom (s : State) (b : Nat) (kept : Sparse ArrSet) : Sparse ArrSet :=
  (List.range 64).map fun i => (i, setAt s (b + 1408 + 32 * i) (Sparse.get ({} : ArrSet) kept i).seen)

/-- R225, R361: a barrier object of an image, with what its arrivals released (R226) where the device has kept it. -/
def barFrom (a key : Nat) (kept : Sparse Bar) (s : State) : State :=
  let b : Bar := { Sparse.get ({} : Bar) kept key with a := readMem s a 8, c := readMem s (a + 8) 8 }
  { s with bars := Sparse.set key b s.bars }

/-- R225, R361: barrier objects of an image at an offset. -/
def barsFrom (a dom inst n : Nat) (kept : Sparse Bar) (s : State) : State :=
  (List.range n).foldl (fun s i => barFrom (a + 16 * i) (barKey dom inst i) kept s) s

/-- R361, R362: the tile that an image at `b` was saved from, as the launch keeps it; an image of another launch or device
brings nothing beside its bytes. -/
def keptOf (s : State) (l : Launch) (b : Nat) : Tile :=
  if readMem s (b + 8) 8 = l.serial then Sparse.get {} l.kept (readMem s (b + 2) 2) else {}

/-- R230, R362: the amount that the WSEM at which a restored context stands asks for. -/
def wsemAmount (s : State) (t c : Nat) (y : Ctx) : Nat :=
  match (fetchWord s t c y.pc).map wordInstr with
  | some (.wsem a _) => if a = 0 then 1 else (scalarIn y a.val).val.toNat % 256
  | _ => 1

/-- R196, R200, R362: the copy schedule that a restored tile goes on with: the one it was saved with, or the record's. -/
def schedFrom (s : State) (l : Launch) (b t : Nat) (kept : Tile) : List (List Byte) :=
  let n := readMem s (b + 3522) 2
  if kept.sched.length = n then kept.sched
  else
    let used := (l.placed.map fun k => k.1).foldl (fun l n => insertNat n l) []
    match recAlloy (bytesNat l.record) (List.range 8) with
    | .ok a => (match recSchedule s (bytesNat l.record) (used.idxOf t) a with | .ok d => d | .error _ => [])
    | .error _ => []

/-- R387: the tile coupled to tile `t` when the block of tile `src` of a paired launch is restored there, and whether `t` is the shadow. -/
def pairFrom (l : Launch) (src t : Nat) : Option Nat × Bool :=
  if !l.paired then (none, false)
  else if l.placed.any fun k => decide (k.1 = src) then (some (t + 1), false)
  else if l.placed.any fun k => decide (k.1 + 1 = src) then (some (t - 1), true)
  else (none, false)

/-- R362, Table 19.5: the record of tile `t` as the image at `b` describes it, without names and slots. The debug block
of a context that an image is restored onto is cleared (R394). -/
def tileFrom (s : State) (l : Launch) (b t : Nat) (kept x : Tile) : Tile :=
  let m off n := readMem s (b + off) n
  let src := m 2 2
  let first := recGranule (bytesNat l.record)
  let ctxs := (List.range 8).map (fun c =>
    if m (397312 + 33280 * c + 1) 1 % 2 = 1 then
      (c, ctxFrom s (ctxBlock b c) l.serial (ctxIn kept c))
    else (c, ({ dbg := (ctxIn x c).dbg, haltReason := (ctxIn x c).haltReason, rplPos := (ctxIn kept c).rplPos } : Ctx)))
  let x := (List.range 2).foldl (fun (x : Tile) k =>
    { x with cores := Sparse.modify {} k (fun core =>
        { core with mode := decide (m 1 1 / 2 ^ k % 2 = 1), cur := none, lastCur := 3, lastIssue := 3 }) x.cores }) x
  { x with
    launch := l.serial, part := l.part, saved := false, xregs := [], slots := [],
    ctxs := ctxs,
    tasks := (List.range 64).filterMap (fun i =>
      (l.placed.find? fun k => decide (k.2.flat = m (3584 + 4 * i) 4)).map fun k => k.2),
    acqq := (List.range 8).filterMap (fun i =>
      let w := m (32 + 8 * i) 8
      if w / 2 ^ 39 % 2 = 1 then some (w / 2 ^ 32 % 8, BitVec.ofNat 64 (w % 2 ^ 32)) else none),
    semq := (List.range 8).filterMap (fun i =>
      let w := m (112 + i) 1
      if w / 8 % 2 = 1 then
        some ((kept.semq.find? fun q => decide (q.1 = w % 8) && decide (q.2.1 = w / 16)).getD
          (w % 8, w / 16, wsemAmount s t (w % 8) (Sparse.get {} ctxs (w % 8))))
      else none),
    sems := (List.range 16).map (fun i => (i, m (96 + i) 1)), semTrail := kept.semTrail,
    arr := setsFrom s b kept.arr, alloy := (List.range 8).map (fun i => (i, BitVec.ofNat 64 (m (3456 + 8 * i) 8))),
    stage := m 3520 2, sched := schedFrom s l b src kept, reserves := kept.reserves, firstGranule := first,
    freeGranules := (List.range 96).filter (fun g => decide (first ≤ g) && !ctxs.any fun y => y.2.granules.contains g),
    statBytes := (recField l 48 4 + 4095) / 4096 * 4096, spill := recField l 52 4, handler := recField l 32 8,
    logCount := kept.logCount, logPos := kept.logPos, serves := kept.serves, bankPos := kept.bankPos,
    logFull := kept.logFull, logWait := kept.logWait, bankWait := kept.bankWait, pairOf := (pairFrom l src t).1,
    isShadow := (pairFrom l src t).2, pairs := [] }

/-- R227, R306, R417: whether a restored context stands at a BAR.AW or a CPYS that the halt stopped: as it was kept, or, of
an image from another device, when PM is set, no tile move is owed and the word at PC is one of these. -/
def resumesGroup (s : State) (t c : Nat) (own : Bool) (old : Ctx) : Bool :=
  let y := ctxOf s t c
  if own then old.afterEret
  else pm y && decide (wfld y.ecause 32 32 = 0) && resumable ((fetchWord s t c y.pc).getD 0)

/-- R200, R362, R417: the entries that a CPYS of an image from another device has still to release keep their place. -/
def reserveAgain (t c : Nat) (s : State) : State :=
  let y := ctxOf s t c
  let at_ := if exl y then y.epc.toNat else y.pc
  let w := (fetchWord s t c at_).getD 0
  if pm y ∧ wfld y.ecause 32 32 = 0 ∧ resumable w ∧ w / 2 ^ 24 % 64 = 0x21 ∧ wfld y.eval 16 16 ≠ 0 then
    modTile t (fun x => { x with reserves := insertReserve { ctx := c, next := wfld y.eval 0 16, left := wfld y.eval 16 16 } x.reserves }) s
  else s

/-- R76, R362: whether ELOOP of an image describes the loop that its context runs at PC: a LOOP word with the same fields stands right
before the body (log 38). -/
def loopsAt (s : State) (t c pc : Nat) (e : Word) : Bool :=
  let bs := pc - 4 * wfld e 16 6
  wbit e 31 && [bs - 4, bs - 8].any fun a => match (fetchWord s t c a).map wordInstr with
    | some (.loop _ n b w st) =>
      decide (n.val = wfld e 22 6) && decide (b.val = wfld e 12 4) && decide (w.val = wfld e 10 2) && decide (st.val = wfld e 6 4)
    | _ => false

/-- R360: what an image of another device with all its entries full leaves to be delivered from the future records: the
causes that no entry holds; the record does not hold the sequence number (log 38). -/
def futPending (y : Ctx) (seq : W32) : List Pending :=
  if y.pend.length < 16 then []
  else y.futs.filterMap fun e =>
    let f := e.2
    if f.code = 5 ∧ ¬y.pend.any (fun p => decide (p.cause.code = f.cause) && decide (p.eval = f.aux)) then
      some { cause := Cause.ofCode f.cause, seq := seq, eval := f.aux }
    else none

/-- R362, R388: a restored context goes on; a paired one begins an interval, the second of one that failed. `src` is the tile
that it was saved from, and `own` says whether the launch keeps that tile. -/
def resumeCtx (t c b src : Nat) (own : Bool) (kept : Tile) (paired : Bool) (s : State) : State :=
  let y := ctxOf s t c
  if y.phase = .free then s
  else
    let s := modCore t (coreIx c) (fun k => { k with seqno := BitVec.ofNat 32 (readMem s (b + 192 + 8 * 34) 8) }) s
    let old := ctxIn kept c
    let looping := if own then old.loop.isSome else loopsAt s t c y.pc y.eloop
    let s := if looping then modCtx t c (fun y => { y with loop := loopFrom s t c y.eloop (BitVec.ofNat 64 y.pc).toNat }) s
      else s
    let sight := if own then { old.sight with born := s.writes } else { known := { upTo := s.writes }, born := s.writes }
    let s := modCtx t c (fun y =>
      { y with afterEret := resumesGroup s t c own old, sight := sight, eloop := if own then old.eloop else y.eloop }) s
    let s := if own then s
      else
        let (v, s) := freshValue s
        modCtx t c (fun y => { y with pend := y.pend ++ futPending y (BitVec.ofNat 32 v.toNat) }) (reserveAgain t c s)
    let (mine, rest) := s.overPend.partition fun e => decide (e.1 = y.launch ∧ e.2.1 = src ∧ e.2.2.1 = c)
    let s := modCtx t c (fun y => { y with pend := y.pend ++ mine.map fun e => e.2.2.2 }) { s with overPend := rest }
    let u := readMem s (b + 1280) 8
    let s := modLaunch y.launch (fun l => { l with u := Sparse.set (t * 8 + c) u l.u }) s
    let s := monitor t c 8 1 y.pc 0 y.seqLast s
    if paired ∧ ¬(tileOf s t).isShadow then
      let failed := (Sparse.get none kept.pairs c).isSome
      let s := setCheckpoint t c s
      modTile t (fun x =>
        let k := (Sparse.get none x.pairs c).map fun k => { k with failed := failed }
        { x with pairs := Sparse.set c k x.pairs }) s
    else s

/-- R11, R362: a tile written back from its block, on whichever tile the block was saved. -/
def restoreTile (l : Launch) (j t : Nat) (s : State) : State :=
  let b := tileBlock s l.part j t
  let s := checkRange b 663552 s
  let kept := keptOf s l b
  let src := readMem s (b + 2) 2
  let own := decide (readMem s (b + 8) 8 = l.serial) && l.kept.any fun k => decide (k.1 = src)
  let mine := (l.placed.filter fun k => decide (k.1 = src)).map fun k => k.2
  let shadow := (pairFrom l src t).2
  let s := if mine = [] ∧ ¬shadow then s
    else placeImages (bytesNat l.record) t (if shadow then (l.placed.filter fun k => decide (k.1 + 1 = src)).map fun k => k.2
      else mine) s
  let s := forgetWrites (scratchPa t 0) Config.scratchBytes { s with mem := Memory.place s.mem (b + 4096) Config.scratchBytes (scratchPa t 0) s.mem }
  let s := copyPoison (b + 4096) (scratchPa t 0) Config.scratchBytes (clearPoison (scratchPa t 0) Config.scratchBytes s)
  let x := granulesFrom s b (tileFrom s l b t kept (tileOf s t))
  let x := (List.range 8).foldl (fun x c => holdingsFrom s (ctxBlock b c) c false x) x
  let x := (List.range 8).foldl (fun x c => holdingsFrom s (ctxBlock b c) c true x) x
  let s := setTile t x s
  let bars := if own && decide (t = src) then l.bars else []
  let s := barsFrom (b + 128) 2 t 16 bars s
  let s := if t = clusterHome (clusterOf t) then barsFrom (b + 384) 3 (clusterOf t) 32 bars s else s
  let s := if t = sectorHome (sectorOf t) then barsFrom (b + 896) 4 (sectorOf t) 32 bars s else s
  (List.range 8).foldl (fun s c => resumeCtx t c (ctxBlock b c) src own kept l.paired s) s

/-- R11, R358, R362: whether every image of a saved launch has the version that this device restores. A context without a
task has none (R360; log 66). A firmware-bound context that would resume on another tile makes the launch refused too
(log 38). -/
def imagesOk (s : State) (l : Launch) (j : Nat) : Bool :=
  decide (readMem s (saveArea s l.part j) 1 = 3) &&
  (partTiles s l.part).all fun t =>
    let b := tileBlock s l.part j t
    let home := decide (readMem s (b + 2) 2 = t) && decide (readMem s (b + 8) 8 = l.serial)
    decide (readMem s b 1 = 3) && (List.range 8).all fun c =>
      let f := readMem s (ctxBlock b c + 1) 1
      decide (f % 2 = 0) || (decide (readMem s (ctxBlock b c) 1 = 3) && (home || decide (f / 4 % 2 = 0)))

/-- R11, R362: the tasks of a launch where the blocks of its tiles are restored. -/
def movedTasks (s : State) (l : Launch) (j : Nat) : List (Nat × Task) :=
  let l' := (partTiles s l.part).map fun t => (readMem s (tileBlock s l.part j t + 2) 2, t)
  l.placed.map fun k => ((l'.find? fun m => decide (m.1 = k.1)).map (fun m => m.2) |>.getD k.1, k.2)

/-- R220: whether a future in the images of a saved launch is still pending. -/
def latePending (s : State) (l : Launch) (j : Nat) : Bool :=
  (partTiles s l.part).any fun t => (List.range 8).any fun c =>
    let st := readMem s (ctxBlock (tileBlock s l.part j t) c + 2) 2
    (List.range 8).any fun h => decide (st / 4 ^ h % 4 = 1)

/-- R337: the saved launch of a partition that resumes next: that of the highest priority. -/
def savedLaunch (s : State) (p : Nat) : Option Launch :=
  s.launches.foldl (fun b l =>
    if l.part = p ∧ l.saved.isSome then
      (match b with
       | none => some l
       | some k => if k.prio < l.prio then some l else b)
    else b) none

/-- R359, R362: the launch's own state back from the slot header. -/
def restoreHeader (l : Launch) (j : Nat) (s : State) : State :=
  let b := saveArea s l.part j
  let bars := if readMem s (b + 8) 8 = l.serial then l.bars else []
  let s := (ownObjects s l.part).foldl (fun s i => barFrom (b + 64 + 16 * i) (barKey 5 0 i) bars s) s
  let ends (w : Nat × WorkList) : Nat × WorkList :=
    (w.1, { w.2 with head := readMem s (b + 1088 + 16 * w.1) 8, tail := readMem s (b + 1096 + 16 * w.1) 8 })
  modLaunch l.serial (fun l =>
    { l with saved := none, kept := [], bars := [], wdUs := readMem s (b + 32) 8, wdAt := s.time, p := readMem s (b + 2112) 8,
             k := readMem s (b + 2120) 8, q := readMem s (b + 2128) 8, lists := l.lists.map ends }) s

/-- R337, R362: the dispatcher restores a saved launch, or refuses its images. -/
def launchRestore (p : Nat) (s : State) : State :=
  let x := partOf s p
  match savedLaunch s p with
  | none => s
  | some l =>
    match l.saved with
    | none => s
    | some j =>
      let higher := match chosenQueue s p with
        | some q => decide (l.prio < launchPrio s q ((headEntry s q).getD 0))
        | none => false
      let busy := x.live || x.preempt || x.halt || x.clearing || !x.reset.isEmpty || !x.run
      if busy || higher || latePending s l j then s
      else if imagesOk s l j then
        let placed := movedTasks s l j
        let s := (partTiles s p).foldl (fun s t => restoreTile l j t s) (modLaunch l.serial (fun l => { l with u := [] }) s)
        let s := modLaunch l.serial (fun l => { l with placed := placed }) s
        let s := modPart p (fun x => { x with live := true, queue := l.queue, qidx := l.qidx, lseq := l.journal }) s
        restoreHeader l j s
      else complete l.queue (launchCmd l) 4 Cause.accImage.code (itemsLeft l) (dropLaunch l s)

/-- R362: the step. -/
def execLaunchRestore (p : Fin 8) (s : State) : Host.Outcome State Fault Refusal := .next (launchRestore p.val s)

/-- R338, R378: the watchdog of a running launch has come: its count stops, the partition's queues stop, WDEXP tells. -/
def watchdogExpiry (p : Nat) (s : State) : State :=
  match runningLaunch s p with
  | some l =>
    if watchdogLimit l ≠ 0 ∧ watchdogLimit l ≤ watchdogCount s l ∧ ¬l.expired then
      let s := modLaunch l.serial (fun l => { l with expired := true }) s
      modPart p (fun x => { x with run := false }) { s with wdexp := s.wdexp ||| BitVec.ofNat 64 (2 ^ p) }
    else s
  | none => s

/-- R378: the step. -/
def execWatchdogExpiry (p : Fin 8) (s : State) : Host.Outcome State Fault Refusal := .next (watchdogExpiry p.val s)

/-- R363: whether the matrix operations and loads of a context issued before its halt have completed. -/
def loadsDone (s : State) (t c : Nat) : Bool :=
  let x := tileOf s t
  !x.matq.any (fun o => decide (o.ctx = c)) && !x.moves.any (fun m => decide (m.ctx = c) && decide (m.op ≠ .xst)) &&
  (ctxIn x c).accs.all fun a => decide (a.kind = .store) || decide (a.kind = .rowStore)

/-- R363: a resume takes effect. -/
def resumeTakesEffect (t c : Nat) (s : State) : State :=
  let y := ctxOf s t c
  if y.debugHalt ∧ y.resumeReq ∧ loadsDone s t c then
    setCtx t c { y with debugHalt := false, resumeReq := false, wait := .none_ } s
  else s

/-- R363: the step. -/
def execResumeTakesEffect (t : Nat) (c : Fin 8) (s : State) : Host.Outcome State Fault Refusal :=
  .next (resumeTakesEffect t c.val s)

end Sys2Proof.Machine
end

