-- ==== Sys2Proof/Machine/Resets.lean ====
section
/-! DEFINITION. Boot, the three resets, and the firmware control block (R365 to R367, R371, R372, R375 to R380). -/

namespace Sys2Proof.Machine

/-- R377: whether every context of a partition has stopped. -/
def isHalted (s : State) (p : Nat) : Bool :=
  partStopped s p && (partTiles s p).all fun t => (tileOf s t).ctxs.all fun y => decide (y.2.phase = .free) || y.2.stopped

/-- R377: whether an engine or agent command belongs to a partition; the firmware core's belong to none. -/
def ofPart (p : Nat) (v : View) : Bool := decide (v.part = p) && decide (v.tile < Config.tiles)

/-- R377: whether a partition has no PENDING command, nothing in the network and no request at any agent. -/
def isQuiet (s : State) (p : Nat) : Bool :=
  let tiles := partTiles s p
  !(s.tiles.any fun x => x.2.copies.any (fun k => ofPart p k.view) || x.2.agentq.any (fun r => ofPart p r.view) ||
      x.2.walks.any (fun w => ofPart p w.req.view)) &&
  !s.agentReqs.any (fun r => ofPart p r.2.view) && !s.conts.any (fun k => ofPart p k.2.2.req.view) &&
  !s.replies.any (fun r => ofPart p r.view) && !s.barArr.any (fun b => tiles.contains b.tile) &&
  !s.cancels.any (fun r => tiles.contains r.2.1) &&
  tiles.all fun t =>
    let x := tileOf s t
    x.moves.isEmpty && x.matq.isEmpty && x.ctxs.all fun y => y.2.accs.isEmpty && y.2.wl.isNone &&
      (match y.2.wait with | .barrier key ph => !barDone s key ph | _ => true) && y.2.futs.all fun f => decide (f.2.st ≠ .pending)

/-- R375, R377, step 2: cancel requests for every command of the partition's contexts; without HALT, of those that have
stopped. -/
def cancelContexts (p : Nat) (s : State) : State :=
  let all := (partOf s p).halt
  (partTiles s p).foldl (fun s t => (List.range 8).foldl (fun s c =>
    if all || (ctxOf s t c).stopped then cancelCommands t c s else s) s) s

/-- R375, step 4: one tile as after boot stage 6. Its vault, SEQNO, what R384 to R386 count, and what other partitions have
asked of its agent stay. -/
def clearTile (p t : Nat) (s : State) : State :=
  let s := clearPoison (scratchPa t 0) (2 ^ 19) (forgetWrites (scratchPa t 0) (2 ^ 19) { s with mem := Memory.clear (scratchPa t 0) (2 ^ 19) s.mem })
  let keep (l : List TlbEntry) : List TlbEntry := l.filter fun e => decide (e.part ≠ p)
  modTile t (fun x =>
    { part := x.part, vault := x.vault, agentq := x.agentq, walks := x.walks, relc := x.relc, sramErrs := x.sramErrs,
      suspect := x.suspect, spareUsed := x.spareUsed, retire := x.retire, tlb := keep x.tlb, agentTlb := keep x.agentTlb,
      cores := x.cores.map fun k => (k.1, { seqno := k.2.seqno, tlb := keep k.2.tlb }) }) s

/-- R375, R380: the running launch of a partition ends KILLED after its watchdog, with the journal entry of that event,
otherwise ABORTED. -/
def endRunning (l : Launch) (s : State) : State :=
  let v := itemsLeft l
  let s := dropLaunch { l with saved := none } s
  if l.expired then
    let (n, s) := journalBegin 2 l.queue 0x21 l.part l.qidx 0 0 0 s
    journalEnd n (completionWord 5 Cause.watchdogKill.code 0)
      (complete l.queue (launchCmd l) 5 Cause.watchdogKill.code v s)
  else complete l.queue (launchCmd l) 7 0 v s

/-- R375, step 3: the launches of a partition end. -/
def endLaunches (p : Nat) (s : State) : State :=
  let x := partOf s p
  let run := s.launches.find? fun l => decide (l.part = p) && (l.saved.isNone || x.preempt && decide (some l.prio = l.saved) &&
    decide (l.qidx = x.qidx) && decide (l.queue = x.queue))
  let s := match run with
    | some l => endRunning l s
    | none => s
  (s.launches.filter fun l => decide (l.part = p)).foldl (fun s l =>
    complete l.queue (launchCmd l) 7 0 (itemsLeft l) (dropLaunch l s)) s

/-- R375, step 4: the tiles, barrier objects and work lists of a partition cleared; the items discarded are counted for the
launch that the firmware core ends later (R379). -/
def clearTiles (p : Nat) (s : State) : State :=
  let tiles := partTiles s p
  let s := tiles.foldl (fun s t => clearTile p t s) (clearBars p tiles s)
  { s with launches := s.launches.map fun l => if l.part = p then { l with gone := itemsLeft l, lists := [] } else l }

/-- R375, steps 3 to 5: a halted and quiet partition is cleared, and the requests that asked for it complete. What the
firmware core drives (HALT or CLEAR written) is step 4 alone: it ends the launch itself, with QEND and RUN (R377, R379). -/
def clearPartition (p : Nat) (s : State) : State :=
  let x := partOf s p
  let driven := x.halt || x.clearing
  let s := clearTiles p (if driven then s else endLaunches p s)
  let s := (x.reset.filter fun n => decide (n ≠ 0)).foldl (fun s n => journalEnd n (completionWord 1 0 0) s) s
  let s := modPart p (fun x => { x with reset := [], clearing := false, preempt := false, cleared := true }) s
  if driven then
    { s with launches := s.launches.map fun l =>
        if l.part = p ∧ x.preempt ∧ l.queue = x.queue ∧ l.qidx = x.qidx then { l with saved := none } else l }
  else modPart p (fun x => { x with live := false, run := true })
    { s with wdexp := s.wdexp &&& ~~~(BitVec.ofNat 64 (2 ^ p)) }

/-- R375, R377: the clear of a partition completes, once it is halted and quiet. -/
def clearComplete (p : Nat) (s : State) : State :=
  let x := partOf s p
  if (x.clearing ∨ (x.reset ≠ [] ∧ ¬x.halt)) ∧ isHalted s p ∧ isQuiet s p then clearPartition p s else s

/-- R375: the step. -/
def execClearComplete (p : Fin 8) (s : State) : Host.Outcome State Fault Refusal := .next (clearComplete p.val s)

/-- R376: a partition reset begins, or joins the one in progress; `n` is its journal entry, 0 for none of its own. -/
def beginPartReset (p n : Nat) (s : State) : State :=
  let first := decide ((partOf s p).reset = [])
  let s := modPart p (fun x => { x with reset := x.reset ++ [n] }) s
  if first then cancelContexts p s else s

/-- R371, R376: an accepted partition reset of a master. -/
def partReset (master p : Nat) (s : State) : Nat × State :=
  let (n, s) := journalBegin master 0xFF 0x11 p 0 0 0 0 s
  (n, beginPartReset p n s)

/-- R376: the partition whose reset in progress covers a queue: it kills the queue's launch. The firmware core drives one from the
moment it writes HALT (R377). -/
def coveredBy (s : State) (q : Nat) : Option Nat :=
  (s.launches.find? fun l => decide (l.queue = q) &&
    (decide ((partOf s l.part).reset ≠ []) || (partOf s l.part).halt)).map fun l => l.part

/-- R371, R375, R376: an accepted queue reset of a master. -/
def queueResetBy (master q : Nat) (s : State) : Nat × State :=
  let (n, s) := journalBegin master q 0x10 0xFF 0 0 0 0 s
  match (queueOf s q).resetTo, coveredBy s q with
  | some _, _ => (n, modQueue q (fun k => { k with resetJournal := k.resetJournal ++ [n] }) s)
  | none, some p => (n, modPart p (fun x => { x with reset := x.reset ++ [n] }) s)
  | none, none =>
    let s := modQueue q (fun k => { k with cfg := putFld k.cfg 31 1 0, resetTo := some k.tail, resetJournal := [n] }) s
    let parts := (s.launches.filter fun l => decide (l.queue = q)).foldl (fun ps l => insertNat l.part ps) []
    (n, settleReset q (parts.foldl (fun s p => beginPartReset p 0 s) s))

/-- Table 20.3: a field of a slot header. -/
def fwHeader (m : Memory) (off n : Nat) : Nat := m.readN off n

/-- R367: whether a slot verifies: the digest of its body, the signature under the vendor's key, whose own digest is fused,
and its SVN. -/
def slotOk (s : State) (m : Memory) : Bool :=
  let len := fwHeader m 0 4
  decide (len ≤ 2 ^ 20) && decide (shake256 (m.readBytes 4096 len) = BitVec.ofNat 512 (m.readN 16 64)) &&
  decide (shake256 s.mgmt.vendorKey = s.mgmt.keyDigest) &&
  falconVerify s.mgmt.vendorKey (m.readBytes 0 80) (m.readBytes 80 1280) && decide (s.mgmt.minSvn ≤ fwHeader m 8 2)

/-- R367: the contents of a slot. -/
def slotOf (s : State) (b : Bool) : Memory := if b then s.mgmt.slotB else s.mgmt.slotA

/-- R367: the slot that a boot runs: the one named active in flash, or else the other. -/
def bootSlot (s : State) : Option Bool :=
  if slotOk s (slotOf s s.mgmt.activeB) then some s.mgmt.activeB
  else if slotOk s (slotOf s !s.mgmt.activeB) then some !s.mgmt.activeB
  else none

/-- R366: the listed columns of a physical row. -/
def listedCols (s : State) (y : Nat) : List Nat :=
  ((s.mgmt.defects ++ s.mgmt.fuses).filter fun d => decide (d.2 = y)).foldl (fun l d => insertNat d.1 l) []

/-- R13, R366: the remap table, none when a row lists two tiles. -/
def remapTable (s : State) : Option (Sparse Nat) :=
  (List.range 64).foldr (fun y r => match listedCols s y, r with
    | [], r => r
    | [p], some m => some ((y, p) :: m)
    | _, _ => none) (some [])

/-- R13: the tile that a logical tile of a new remap table was under the old one; none for a physical tile that was disabled or
a spare not in use. -/
def oldTile (old new : Sparse Nat) (t : Nat) : Option Nat :=
  let p := physColIn new t
  let d := Sparse.get 32 old (t / 32)
  if p < d then some (t / 32 * 32 + p) else if p = d then none else some (t / 32 * 32 + (p - 1))

/-- R13, R14, R375: the vaults, with what is kept of their tiles and dumps, answer to the tiles that a new remap table makes of
them; a disabled tile takes part no more, and a spare taken into use holds what nothing has written. The journal stays with
logical tile 0 (R372). -/
def relocate (new : Sparse Nat) (s : State) : State :=
  let moved := (List.range Config.tiles).filter fun t => decide (oldTile s.remap new t ≠ some t)
  let ofVault (t pa : Nat) : Bool := decide (paRegion pa = 0) && decide (paTile pa = t)
  let kept (t : Nat) : Tile := match oldTile s.remap new t with | some u => tileOf s u | none => {}
  let cells (t : Nat) (m : Memory) : Memory := match oldTile s.remap new t with
    | some u => Memory.place s.mem (vaultPa u 0) (2 ^ 28) (vaultPa t 0) m
    | none => Memory.clear (vaultPa t 0) (2 ^ 28) m
  let segs (t : Nat) : List Nat := match oldTile s.remap new t with
    | some u => (s.poison.filter fun k => ofVault u (64 * k)).map fun k => k - vaultPa u 0 / 64 + vaultPa t 0 / 64
    | none => []
  let stay := s.poison.filter fun k => !moved.any fun t => ofVault t (64 * k)
  let mem := moved.foldl (fun m t => cells t m) s.mem
  { s with
    remap := new,
    tiles := moved.foldl (fun l t => Sparse.set t (kept t) l) s.tiles,
    mem := if moved.contains 0 then
        Memory.place s.mem (vaultPa 0 Config.firmwareReserve) (2 ^ 21) (vaultPa 0 Config.firmwareReserve) mem else mem,
    poison := moved.foldl (fun l t => (segs t).foldl (fun l k => insertNat k l) l) stay,
    dumps := s.dumps.filterMap fun d =>
      ((List.range 32).find? fun x => decide (oldTile s.remap new (d.2.1 / 32 * 32 + x) = some d.2.1)).map fun x =>
        (d.1, d.2.1 / 32 * 32 + x, d.2.2) }

/-- R365: the boot stage that a state reaches. -/
def atStage (n : Nat) (s : State) : State := { s with mgmt := { s.mgmt with stage := n } }

/-- R365: a stage that fails stops the sequence. -/
def stageFails (s : State) : State := { s with mgmt := { s.mgmt with fail := true } }

/-- R365, stage 6: the handler code in every reserve, which is the firmware body (log 24); it is also what the firmware core
runs, from its start, at FIRM. -/
def loadFirmware (m : Memory) (s : State) : State :=
  let len := fwHeader m 0 4
  let s := (List.range Config.tiles).foldl (fun s t =>
    placeFresh m 4096 len (vaultPa t Config.firmwareVectorOffset) s) s
  let s := setTile Config.fwTile { cores := [(0, { image := Memory.slice 4096 len 0 m, imageLen := len })] } s
  let s := setCtx Config.fwTile 0 { phase := .running, status := 2 } s
  let b := seqAddr s Config.fwTile 0 0
  modCtx Config.fwTile 0 (fun y => { y with npc := b, nnpc := seqAddr s Config.fwTile 0 b }) s

/-- R367, R368, stage 3: the measurements of what a slot holds, and FWVER. -/
def measureSlot (b : Bool) (s : State) : State :=
  let m := slotOf s b
  { s with mgmt := { s.mgmt with
      m0 := Config.measureRom, m1 := BitVec.ofNat 512 (m.readN 16 64),
      fwver := BitVec.ofNat 64 (fwHeader m 4 4 + fwHeader m 8 2 * 2 ^ 32 + b2n b * 2 ^ 48) } }

/-- R372, stage 5: a power-on clears the journal and sets NEXT to 1. -/
def clearJournal (s : State) : State :=
  vaultStore (vaultPa 0 (Config.firmwareReserve + 8)) 8 s.mgmt.powerOns
    (vaultStore (vaultPa 0 Config.firmwareReserve) 8 1
      { s with jnext := 1, mem := Memory.clear (vaultPa 0 Config.firmwareReserve) (2 ^ 21) s.mem })

/-- R368, stage 6: the measurement of the configuration. -/
def measureConfig (s : State) : State :=
  { s with mgmt := { s.mgmt with
      m2 := Config.measureConfig s.remap (s.mgmt.defects ++ s.mgmt.fuses) s.mgmt.fwver s.mgmt.minSvn } }

/-- R365, R367, R376, stage 7: the link is enabled and the firmware serves; a minimum SVN that a commit raised is fused once the
slot that it named runs, and the reset requests complete. -/
def bootEnds (l : List Nat) (s : State) : State :=
  let g := s.mgmt
  let svn := match g.pendSvn with
    | some (b, v) => if b = wbit g.fwver 48 then max g.minSvn v else g.minSvn
    | none => g.minSvn
  l.foldl (fun s n => journalEnd n (completionWord 1 0 0) s)
    { s with mgmt := { g with link := true, ready := true, booting := none, minSvn := svn,
                              pendSvn := g.pendSvn.filter fun e => decide (e.1 ≠ wbit g.fwver 48) } }

/-- R365 to R368, Table 20.2: one boot stage; `cold` for a power-on, `l` the journal entries that the boot completes. -/
def bootStage (cold : Bool) (l : List Nat) (s : State) : State :=
  match s.mgmt.stage with
  | 0 | 1 => atStage 2 s
  | 2 => if s.mgmt.clockFail then stageFails s else atStage 3 s
  | 3 =>
    match bootSlot s with
    | none => stageFails s
    | some b => atStage 4 (measureSlot b s)
  | 4 =>
    match remapTable s with
    | none => stageFails s
    | some r => atStage 5 (relocate r s)
  | 5 => if s.mgmt.vaultFail then stageFails s else atStage 6 (if cold then clearJournal s else s)
  | 6 => atStage 7 (measureConfig (loadFirmware (slotOf s (wbit s.mgmt.fwver 48)) s))
  | _ => bootEnds l s

/-- R365: a boot under way goes on by one stage; one that has failed stands. -/
def bootGo (s : State) : State :=
  match s.mgmt.booting with
  | some (cold, l) => if s.mgmt.fail then s else bootStage cold l s
  | none => s

/-- R384, R385, R386: what of a tile a device reset keeps: its vault, its counters and its repairs. -/
def keptTile (x : Tile) : Tile :=
  { vault := { spares := x.vault.spares, flagged := x.vault.flagged, errs := x.vault.errs, scrub := x.vault.scrub,
               recent := x.vault.recent, temp := x.vault.temp, thermal := x.vault.thermal },
    relc := x.relc, sramErrs := x.sramErrs, suspect := x.suspect, spareUsed := x.spareUsed }

/-- R366: the retired tiles join the field defect list. -/
def appendDefects (s : State) : State :=
  let gone := s.tiles.filterMap fun x => if x.2.retire then some (physCol s x.1, x.1 / 32) else none
  { s with mgmt := { s.mgmt with defects := s.mgmt.defects ++ gone } }

/-- R376: the journal entries of the queue and partition resets in progress, those that the firmware core drives among them:
what still stands PENDING in the ring. -/
def openResets (s : State) : List Nat :=
  (List.range (min (s.jnext - 1) 32767)).filterMap fun i =>
    let n := s.jnext - 1 - i
    let pa := journalPa n
    let kind := readMem s (pa + 10) 1
    if readMem s pa 8 = n ∧ (kind = 0x10 ∨ kind = 0x11) ∧ readMem s (pa + 56) 1 = 0 then some n else none

/-- R365: what a boot finds of the management domain, at a stage. -/
def bootMgmt (stage : Nat) (b : Bool × List Nat) (g : Mgmt) : Mgmt :=
  { g with stage := stage, booting := some b, link := false, ready := false, fail := false, session := false,
           activeB := g.nextB }

/-- R365, R375: a device reset begins stages 2 to 7: host memory, vaults, the journal's numbering, the dumps and the management
domain stay. -/
def deviceResetBy (master : Nat) (s : State) : Nat × State :=
  let pending := openResets s
  let (n, s) := journalBegin master 0xFF 0x12 0xFF 0 0 0 0 s
  let s := pending.foldl (fun s k => journalEnd k (completionWord 7 0 0) s) s
  let s := appendDefects s
  let tiles := s.tiles.filter fun x => decide (x.1 < Config.tiles)
  (n, { epoch := s.epoch + s.time, remap := s.remap, mem := s.mem.filter (fun c => decide (paRegion c.1 ≠ 1)), poison := s.poison.filter (fun k => decide (paRegion (64 * k) ≠ 1)),
        tiles := tiles.map (fun x => (x.1, keptTile x.2)), jnext := s.jnext, dumps := s.dumps, nextId := s.nextId,
        nextSerial := s.nextSerial, msix := s.msix, agenda := s.agenda, focusTile := s.focusTile, focusCtx := s.focusCtx,
        freeCount := s.freeCount, hostRO := s.hostRO, hostFails := s.hostFails,
        mgmt := bootMgmt 2 (false, [n]) s.mgmt })

/-- R376: a side-port reset request during a device reset joins it: it completes with the device reset. -/
def joinReset (master queue kind part : Nat) (s : State) : Nat × State :=
  let (n, s) := journalBegin master queue kind part 0 0 0 0 s
  (n, { s with mgmt := { s.mgmt with booting := s.mgmt.booting.map fun b => (b.1, b.2 ++ [n]) } })

/-- R376: whether a device reset is under way. -/
def resetting (s : State) : Bool := !s.mgmt.fail && s.mgmt.booting.any fun b => !b.1

/-- R365, R372: a power-on begins stages 1 to 7: nothing of the main domain is kept; a vault reads as memory that nothing has
written (log 1). -/
def powerOn (s : State) : State :=
  let s := appendDefects s
  { mem := s.mem.filter (fun c => decide (paRegion c.1 = 16)), agenda := s.agenda, focusTile := s.focusTile,
    focusCtx := s.focusCtx, freeCount := s.freeCount, hostRO := s.hostRO, hostFails := s.hostFails,
    mgmt := { bootMgmt 1 (true, []) s.mgmt with powerOns := s.mgmt.powerOns + 1 } }

/-- R365: the step. -/
def execPowerOn (s : State) : Host.Outcome State Fault Refusal := .next (powerOn s)

/-- R369: FWSEQ after an accepted host command. -/
def fwAccepted (r : Nat × State) : State := { r.2 with regs := Sparse.set 0x808 (BitVec.ofNat 64 r.1) r.2.regs }

/-- R365, R369: a host firmware command, while the firmware core runs. -/
def hostFw (f : State → Nat × State) (s : State) : State := if s.mgmt.ready then fwAccepted (f s) else s

/-- R369, R375: the step. -/
def execFwcmdQueueReset (q : Fin 16) (s : State) : Host.Outcome State Fault Refusal := .next (hostFw (queueResetBy 0 q.val) s)

/-- R369, R375: the step. -/
def execFwcmdPartitionReset (p : Fin 8) (s : State) : Host.Outcome State Fault Refusal := .next (hostFw (partReset 0 p.val) s)

/-- R369, R375: the step. -/
def execFwcmdDeviceReset (s : State) : Host.Outcome State Fault Refusal := .next (hostFw (deviceResetBy 0) s)

/-- R370: a side-port response: result, journal sequence number, data. -/
def respond (code seq : Nat) (data : List Byte) (s : State) : State :=
  { s with mgmt := { s.mgmt with resp := natBytes code 4 ++ natBytes seq 8 ++ natBytes 0 4 ++ data } }

/-- R377: contexts that were stopped and not cleared go on. -/
def releaseHalt (p : Nat) (s : State) : State :=
  (partTiles s p).foldl (fun s t => modTile t (fun x =>
    { x with ctxs := x.ctxs.map fun y => (y.1, { y.2 with stopped := false }) }) s) s

/-- R377: PCTL.HALT written. -/
def pctlSetHalt (p : Nat) (b : Bool) (s : State) : State :=
  if b then modPart p (fun x => { x with halt := true, cleared := false }) s
  else
    let s := modPart p (fun x => { x with halt := false }) s
    if partStopped s p then s else releaseHalt p s

/-- R377: the step. -/
def execPctlHalt (p : Fin 8) (s : State) : Host.Outcome State Fault Refusal := .next (pctlSetHalt p.val true s)

/-- R377: PCTL.CANCEL; without HALT it is ignored. -/
def pctlCancel (p : Nat) (s : State) : State := if (partOf s p).halt then cancelContexts p s else s

/-- R377: the step. -/
def execPctlCancel (p : Fin 8) (s : State) : Host.Outcome State Fault Refusal := .next (pctlCancel p.val s)

/-- R377: PCTL.CLEAR; unless the partition is halted and quiet it is ignored. -/
def pctlClear (p : Nat) (s : State) : State :=
  if (partOf s p).halt ∧ isHalted s p ∧ isQuiet s p then modPart p (fun x => { x with clearing := true }) s else s

/-- R377: the step. -/
def execPctlClear (p : Fin 8) (s : State) : Host.Outcome State Fault Refusal := .next (pctlClear p.val s)

/-- R377: PCTL.RUN written. -/
def pctlRun (p : Nat) (b : Bool) (s : State) : State := modPart p (fun x => { x with run := b }) s

/-- R377: the step. -/
def execPctlRun (p : Fin 8) (b : Bool) (s : State) : Host.Outcome State Fault Refusal := .next (pctlRun p.val b s)

/-- R377: a write of a whole PCTL register. -/
def pctlWrite (p : Nat) (v : Word) (s : State) : State :=
  let s := pctlRun p (wbit v 3) (pctlSetHalt p (wbit v 0) s)
  let s := if wbit v 1 then pctlCancel p s else s
  if wbit v 2 then pctlClear p s else s

/-- R377: PSTAT of a partition. -/
def pstat (s : State) (p : Nat) : Word :=
  let x := partOf s p
  BitVec.ofNat 64 (b2n (isHalted s p) + b2n (isQuiet s p) * 2 + b2n x.cleared * 4 + b2n x.live * 8 + x.queue * 2 ^ 8 +
    x.qidx * 2 ^ 32)

/-- R379: QEND ends the running launch of a queue, when it is halted and quiet. -/
def qend (v : Nat) (s : State) : State :=
  match s.launches.find? fun l => decide (l.queue = v % 2 ^ 4) && l.saved.isNone with
  | some l =>
    if isHalted s l.part ∧ isQuiet s l.part then
      let st := v / 2 ^ 8 % 2 ^ 8
      let cpa := recField l 96 8
      let s := if cpa = 0 ∨ st = 5 ∨ st = 7 then s else hostWrite (launchCmd l).known (hostPa cpa) 8 (l.serial % 2 ^ 32) s
      finish l.queue (launchCmd l) (completionWord st (v / 2 ^ 16 % 2 ^ 8) (itemsLeft l)) (dropLaunch l s)
    else s
  | none => s

/-- R379: the step. -/
def execQend (v : Word) (s : State) : Host.Outcome State Fault Refusal := .next (qend v.toNat s)

/-- R377: a scalar register of the firmware core written. -/
def fwReg (d : Fin 16) (v : Word) (s : State) : State := modCtx Config.fwTile 0 (putScalar d.val { val := v }) s

/-- R377: EVWAIT answers once a watchdog has expired. -/
def evwait (d : Fin 16) (s : State) : State := if s.wdexp = 0 then s else fwReg d s.wdexp s

/-- R377: the step. -/
def execEvwait (d : Fin 16) (s : State) : Host.Outcome State Fault Refusal := .next (evwait d s)

/-- R377: the step: a load of JALLOC. -/
def execJalloc (d : Fin 16) (s : State) : Host.Outcome State Fault Refusal :=
  .next (let (n, s) := journalAlloc s; fwReg d (BitVec.ofNat 64 n) s)

/-- R377: one 8-byte write to the journal entry that JSEL names. -/
def writeJw (k : Nat) (v : Word) (s : State) : State :=
  if s.jsel = 0 then s else vaultStore (journalPa s.jsel.toNat + 8 * k) 8 v.toNat s

/-- R377: the step. -/
def execJw (k : Fin 8) (v : Word) (s : State) : Host.Outcome State Fault Refusal := .next (writeJw k.val v s)

end Sys2Proof.Machine
end

