-- ==== Sys2Proof/Machine/Upset.lean ====
section
/-! DEFINITION. Errors that arrays take from outside: where one strikes and what the model does at once (R381 to R383,
R386). -/

namespace Sys2Proof.Machine

/-- R381: an error that its code can correct strikes array `a` of a tile, and stands there until a read or the scrub meets it:
0 scratchpad, 1 tile registers, 2 planes, 3 accumulators, 4 agent buffers, 11 queues, 12 scheduler, 13 hamper, 14 router
buffers. -/
def sramCorrected (t a : Nat) (s : State) : State :=
  modTile t (fun x => { x with sramErrs := Sparse.modify 0 a (fun n => n + 1) x.sramErrs }) s

/-- R381: a read meets an error of an array: it is corrected, written back and counted. -/
def correctsNow (t a : Nat) (s : State) : State :=
  let n := Sparse.get 0 (tileOf s t).sramErrs a
  if n = 0 then s else countCorrected t a 1 (modTile t (fun x => { x with sramErrs := Sparse.modify 0 a (fun n => n - 1) x.sramErrs }) s)

/-- R341: a TLB drops one of its entries: 0 and 1 the cores', 2 the tile's, 3 the agent's. -/
def evictEntry (t which k : Nat) (s : State) : State :=
  modTile t (fun x =>
    match which with
    | 2 => { x with tlb := x.tlb.eraseIdx k }
    | 3 => { x with agentTlb := x.agentTlb.eraseIdx k }
    | w => { x with cores := Sparse.modify {} (w % 2) (fun c => { c with tlb := c.tlb.eraseIdx k }) x.cores }) s

/-- R355, R383, R391: an error that no checkpoint covers: it is counted, and the tile takes MACHINE_CHECK. -/
def hardError (t : Nat) (s : State) : State := machineCheckTile t none (relAdd t 1 0 16 (toNominal t s))

/-- R381, R383: an error of an array beside the register files: 4 and 11 to 14 as for `sramCorrected`; 5 and 6 the instruction
caches, 7 to 10 entry `k` of a TLB, whose parity error drops the entry and counts as corrected. -/
def otherError (t a k : Nat) (e : ErrKind) (s : State) : State :=
  if 5 ≤ a ∧ a ≤ 6 then countCorrected t a 1 s
  else if 7 ≤ a ∧ a ≤ 10 then countCorrected t a 1 (evictEntry t (a - 7) k s)
  else match e with
    | .corrected => sramCorrected t a s
    | .transient | .lasting => hardError t s

/-- R383, Table 22.2: an error of one row of an SRAM array: transient it is counted, lasting it poisons the row. -/
def sramError (t a : Nat) (k : ErrKind) (poison : State → State) (s : State) : State :=
  match k with
  | .corrected => sramCorrected t a s
  | .transient => relAdd t 1 16 16 (toNominal t s)
  | .lasting => relAdd t 3 32 32 (relAdd t 1 0 16 (poison (toNominal t s)))

/-- One row of a table of rows poisoned. -/
def poisonRow (k : Nat) (l : Sparse Row) : Sparse Row :=
  Sparse.modify {} k (fun r => { r with poison := true }) l

/-- A row of a slot poisoned: of plane 0 or 1, or of the accumulator. -/
def poisonSlotRow (part k : Nat) (z : MSlot) : MSlot :=
  match part with
  | 0 => { z with active := { z.active with rows := poisonRow k z.active.rows } }
  | 1 => { z with shadow := { z.shadow with rows := poisonRow k z.shadow.rows } }
  | _ => { z with acc := poisonRow k z.acc }

/-- R383: an array of tile `t` takes an error. Places: below 2^28 a vault offset; 2^28 and a scratchpad offset; 2^29
and 16 × register + row; 2^30 and 64 × slot + 16 × part + row; 2^31 and 0 for a row or 1 for a column of the matrix
engine; 2^32 and 16 × entry + array for the others. No kind is an error of an agent buffer that its code corrects. -/
def upset (t off : Nat) (e : Option ErrKind) (s : State) : State :=
  match e with
  | none => sramCorrected t 4 s
  | some k =>
    if off < 2 ^ 28 then
      modTile t (fun x => { x with vault := { x.vault with errs := Sparse.set (off / 64) (some k) x.vault.errs } }) s
    else if off < 2 ^ 29 then
      if off % 2 ^ 28 < Config.scratchBytes then
        sramError t 0 k (fun s => setSegPoison (scratchPa t (off % 2 ^ 28)) true s) s
      else s
    else if off < 2 ^ 30 then
      let n := off % 2 ^ 29
      let hit (g : TileReg) : TileReg := { g with rows := poisonRow (n % 16) g.rows }
      sramError t 1 k (modTile t fun x => { x with xregs := Sparse.modify {} (n / 16 % 32) hit x.xregs }) s
    else if off < 2 ^ 31 then
      let n := off % 2 ^ 30
      let hit := poisonSlotRow (n / 16 % 4) (n % 16)
      sramError t (if n / 16 % 4 < 2 then 2 else 3) k (modTile t fun x => { x with slots := Sparse.modify {} (n / 64 % 4) hit x.slots }) s
    else if off < 2 ^ 32 then mirrorMismatch t (decide (off % 2 = 1)) k s
    else otherError t (off % 16) (off / 16 % 2 ^ 16) k s

end Sys2Proof.Machine
end

