-- ==== Sys2Proof/Machine/Vaults.lean ====
section
/-! DEFINITION. What a vault and its tile's arrays do by themselves: refresh, heat, HOLD, repair, scrubbing, spares,
undervolting (R130 to R132, R318, R320, R355, R385, R386, R391, R392). -/

namespace Sys2Proof.Machine


/-- R205, R211: with HOLD at its end the stalls of what the agent has waiting are over. -/
def endStalls (x : Tile) : Tile :=
  if x.vault.hold = .active then
    { x with agentq := x.agentq.map (fun q => { q with heldSince := none }),
             walks := x.walks.map (fun w => { w with stall := none }),
             copies := x.copies.map fun q => { q with heldSince := none } }
  else x

/-- One vault changed. -/
def modVault (t : Nat) (f : Vault → Vault) (s : State) : State :=
  modTile t (fun x => endStalls { x with vault := f x.vault }) s

/-- R131: 180 ns in cycles. -/
def refreshCycles : Nat := 594

/-- R131: the refresh of a bank begins; the bank is precharged at its end. -/
def refresh (t k : Nat) (s : State) : State :=
  let v := (tileOf s t).vault
  if k < 24 ∧ v.hold = .active ∧ ¬refreshing s t k then
    modVault t (fun v => { v with refresh := Sparse.set k (some (s.time + refreshCycles)) v.refresh,
                                  openRow := Sparse.set k none v.openRow }) s
  else s

/-- R131: the step. -/
def execRefresh (t : Nat) (k : Nat) (s : State) : Host.Outcome State Fault Refusal := .next (refresh t k s)

/-- R122: the rows of the ROWACTs that came while their banks were not available are opened where they are. -/
def reopen (t : Nat) (s : State) : State :=
  if (tileOf s t).vault.hold ≠ .active then s
  else (tileOf s t).vault.opening.foldl (fun s e => match e.2 with
    | some (off, pol) =>
      if refreshing s t e.1 then s
      else touchBank t off 1 pol (modVault t (fun v => { v with opening := Sparse.erase e.1 v.opening }) s)
    | none => s) s

/-- R122, R131: the refresh of a bank ends and leaves it precharged; the row of a ROWACT that came meanwhile is opened. -/
def refreshEnd (t k : Nat) (s : State) : State :=
  match Sparse.get none (tileOf s t).vault.refresh k with
  | some b =>
    if b ≤ s.time then
      let shut (v : Vault) : Vault := { v with refresh := Sparse.erase k v.refresh, openRow := Sparse.set k none v.openRow }
      reopen t (modVault t shut s)
    else s
  | none => s

/-- R131: the step. -/
def execRefreshEnd (t : Nat) (k : Nat) (s : State) : Host.Outcome State Fault Refusal := .next (refreshEnd t k s)

/-- R132: a vault without a reason to hold returns to ACTIVE from HOLD, never from ENTERING. -/
def leaveHold (v : Vault) : Vault :=
  if v.hold = .hold ∧ ¬v.critical ∧ ¬v.maint then { v with hold := .active } else v

/-- R132: a vault with a reason to hold begins to enter HOLD. -/
def enterHold (thermal : Bool) (v : Vault) : Vault :=
  if v.hold = .active then { v with hold := .entering, holdThermal := thermal } else v

/-- R204, Table 5.7: whether a read that reached the own vault before ENTERING, or a procedure that its agent has begun, is
still to complete. -/
def readsAtBank (x : Tile) : Bool :=
  (x.agentq.any fun q => q.answer.isSome) || (List.range 8).any fun c => (ctxIn x c).accs.any fun a => decide (a.home = .ownVault) && !accWrites a

/-- R132: every bank is precharged and the handshake done: the vault is in HOLD, and leaves it at once when its release
has come meanwhile. -/
def holdEntered (t : Nat) (s : State) : State :=
  if (tileOf s t).vault.hold = .entering ∧ ¬readsAtBank (tileOf s t) then
    reopen t (modVault t (fun v => leaveHold { v with hold := .hold, openRow := [] }) s)
  else s

/-- R132: the step. -/
def execHoldEntered (t : Nat) (s : State) : Host.Outcome State Fault Refusal := .next (holdEntered t s)

/-- Table 5.6: the thermal state after a sample: a hotter one when its entry temperature is exceeded, otherwise the next
lower one when the temperature is 3 degrees below the entry temperature. -/
def nextThermal (now : Thermal) (temp : Int) : Thermal :=
  if temp > 105 then .critical
  else match now with
    | .critical => if temp < 102 then .hot else .critical
    | .hot => if temp < 92 then .warm else .hot
    | .warm => if temp > 95 then .hot else if temp < 82 then .normal else .warm
    | .normal => if temp > 95 then .hot else if temp > 85 then .warm else .normal

/-- R391: a vault at HOT or above holds its sector at nominal. -/
def isHot : Thermal → Bool
  | .hot | .critical => true
  | .normal | .warm => false

/-- R130, R132, R391: the temperature sample of a vault. -/
def thermalSample (t : Nat) (temp : Int) (s : State) : State :=
  let st := nextThermal (tileOf s t).vault.thermal temp
  let s := if isHot st then toNominal t s else s
  reopen t (modVault t (fun v =>
    let v := { v with temp := temp, thermal := st, critical := decide (st = .critical) }
    if st = .critical then enterHold true v else leaveHold v) s)

/-- R130: the step. -/
def execThermalSample (t : Nat) (temp : Int) (s : State) : Host.Outcome State Fault Refusal := .next (thermalSample t temp s)

/-- R132: firmware holds a vault. -/
def maintenanceHold (t : Nat) (s : State) : State := modVault t (fun v => enterHold false { v with maint := true }) s

/-- R132: the step. -/
def execMaintenanceHold (t : Nat) (s : State) : Host.Outcome State Fault Refusal := .next (maintenanceHold t s)

/-- R132: firmware releases a vault. -/
def maintenanceRelease (t : Nat) (s : State) : State := reopen t (modVault t (fun v => leaveHold { v with maint := false }) s)

/-- R132: the step. -/
def execMaintenanceRelease (t : Nat) (s : State) : Host.Outcome State Fault Refusal := .next (maintenanceRelease t s)

/-- R383, R320: the segments of a row as the copy to the spare reads them. -/
def readRow (t row : Nat) (s : State) : State :=
  let held := (tileOf s t).vault.errs.filter fun e => decide (e.1 / 32 = row)
  held.foldl (fun s e => checkSegment (vaultPa t (64 * e.1)) s) s

/-- R318, R320, R385: a row's repair is done: its data stand in a spare, its flag clears, the bank is precharged. -/
def rowRepairDone (t bank r : Nat) (s : State) : State :=
  let n := bank + 24 * r
  let v := (tileOf s t).vault
  if v.flagged.contains n ∧ v.repairing.contains n ∧ v.hold = .active ∧ ¬refreshing s t bank ∧
      Sparse.get 0 v.spares bank < 32 then
    let s := relAdd t 4 0 16 (readRow t n s)
    let s := modVault t (fun v =>
      { v with flagged := v.flagged.filter (fun k => decide (k ≠ n)),
               repairing := v.repairing.filter (fun k => decide (k ≠ n)),
               spares := Sparse.modify 0 bank (fun k => k + 1) v.spares,
               openRow := Sparse.set bank none v.openRow }) s
    let (k, s) := journalBegin 2 0xFF 0x23 0xFF 0 (2048 * n) 0 0 s
    journalEnd k (completionWord 1 0 0) s
  else s

/-- R318: the step. -/
def execRowRepairDone (t : Nat) (k : Nat) (m : Nat) (s : State) : Host.Outcome State Fault Refusal :=
  .next (rowRepairDone t k m s)

/-- R385: one step of the patrol scrub; a flagged row is reported and waited for, as an agent access is. -/
def patrolScrub (t : Nat) (s : State) : State :=
  let v := (tileOf s t).vault
  let off := 64 * v.scrub
  match vaultHindrance s t off .rpcRemote with
  | some (.repair u row) => reportRow u row s
  | some _ => s
  | none =>
    let s := touchBank t off 64 .keep (checkSegment (vaultPa t off) s)
    modVault t (fun v => { v with scrub := (v.scrub + 1) % 4194304 }) s

/-- R385: the step. -/
def execPatrolScrub (t : Nat) (s : State) : Host.Outcome State Fault Refusal := .next (patrolScrub t s)

/-- R381, R385, R391: the scrub of a tile's SRAM arrays corrects and counts what no read has met. -/
def sramScrub (t : Nat) (s : State) : State :=
  (tileOf s t).sramErrs.foldl (fun s e => countCorrected t e.1 e.2 s) (modTile t (fun x => { x with sramErrs := [] }) s)

/-- R385: the step. -/
def execSramScrub (t : Nat) (s : State) : Host.Outcome State Fault Refusal := .next (sramScrub t s)

/-- R386: the spare of a suspect row or column takes its place while the engine is idle. -/
def matrixSpareSwitch (t : Nat) (s : State) : State :=
  let x := tileOf s t
  if x.suspect ≠ [] ∧ x.matq = [] ∧ x.slots.all (fun j => j.2.owner.isNone) then
    setTile t { x with spareUsed := x.spareUsed ++ x.suspect, suspect := [] } s
  else s

/-- R386: every switch that is due. -/
def spareSwitches (s : State) : State := s.tiles.foldl (fun s x => matrixSpareSwitch x.1 s) s

/-- R386: the step. -/
def execMatrixSpareSwitch (t : Nat) (s : State) : Host.Outcome State Fault Refusal := .next (matrixSpareSwitch t s)

/-- R355, R383, R391: the step: an error without a checkpoint in a tile's queues, scheduler, hamper or router buffers. -/
def execMachineCheck (t : Nat) (s : State) : Host.Outcome State Fault Refusal := .next (hardError t s)

/-- R391: whether a sector has a vault at HOT or above. -/
def sectorHot (s : State) (n : Nat) : Bool :=
  s.tiles.any fun x => decide (sectorOf x.1 = n) && isHot x.2.vault.thermal

/-- R391: the voltage of a sector after a window that no array has exceeded GUARD in: one step down, or none. -/
def adjust (s : State) (n : Nat) (v : Volt) : Volt :=
  if sectorHot s n then v
  else if v.off < wfld (uvCfg s n) 8 4 ∧ (v.floorUntil ≤ s.time ∨ v.off < v.floor) then { v with off := v.off + 1 }
  else v

/-- R391: whether an array of a sector has had more than GUARD corrected errors in its window. -/
def overGuard (s : State) (n : Nat) (v : Volt) : Bool := v.counts.any fun k => decide (wfld (uvCfg s n) 0 8 < k.2)

/-- R391: a 1 ms window of a controller ends; one in which an array has exceeded GUARD, counted before EN was set or against a higher
GUARD, raises the voltage and lowers it not. -/
def uvWindow (n : Nat) (s : State) : State :=
  let v := voltOf s n
  if v.start + 1000 * Config.cyclesPerMicro ≤ s.time ∧ ¬v.window then
    let v := if !wbit (uvCfg s n) 31 then v else if overGuard s n v then raiseVolt s.time v else adjust s n v
    { s with volts := Sparse.set n { v with start := s.time, counts := [] } s.volts }
  else s

/-- R391: the step. -/
def execUvWindow (s_ : Fin 8) (s : State) : Host.Outcome State Fault Refusal := .next (uvWindow s_.val s)

/-- R392: a verification window begins at nominal, 60 s after the last one, once a raise in progress is complete. What the
arrays of the sector took before it is corrected first, and is no count of the window. -/
def verificationWindow (n : Nat) (s : State) : State :=
  let v := voltOf s n
  if v.window ∨ s.time < v.raising ∨ s.time < v.verAt + 60000000 * Config.cyclesPerMicro then s
  else
    let s := s.tiles.foldl (fun s x => if sectorOf x.1 = n then sramScrub x.1 s else s) s
    if s.time < (voltOf s n).raising then s else
    { s with volts := Sparse.set n { voltOf s n with window := true, off := 0, start := s.time, verAt := s.time, counts := [] } s.volts }

/-- R392: the step. -/
def execVerificationWindow (s_ : Fin 8) (s : State) : Host.Outcome State Fault Refusal := .next (verificationWindow s_.val s)

/-- R392: the window of 10 ms ends: tiles whose arrays exceeded the threshold are retired and the sector declared. -/
def verificationWindowEnd (n : Nat) (s : State) : State :=
  let v := voltOf s n
  if v.window ∧ v.start + 10000 * Config.cyclesPerMicro ≤ s.time then
    let pft := wfld (Sparse.get 16 s.regs 0xAC0) 0 8
    let bad := (v.counts.filter fun k => decide (pft < k.2)).map fun k => k.1 / 16
    let s := { s with volts := Sparse.set n { v with window := false, start := s.time, counts := [] } s.volts }
    let s := bad.foldl (fun s t => modTile t (fun x => { x with retire := true }) s) s
    if bad = [] then s
    else raiseMsix 17 { s with regs := Sparse.modify 0 0xAC8 (fun w => w ||| BitVec.ofNat 64 (2 ^ n)) s.regs }
  else s

/-- R392: the step. -/
def execVerificationWindowEnd (s_ : Fin 8) (s : State) : Host.Outcome State Fault Refusal :=
  .next (verificationWindowEnd s_.val s)

end Sys2Proof.Machine
end

