-- ==== Sys2Proof/Machine/Device.lean ====
section
/-! DEFINITION. The registers of the device: BAR0 and the device control region, the tile control regions, the firmware
control block, and what a write to each begins (R7, R10, R105, R322 to R325, R339, R341 to R345, R354, R377, R384, R391,
R394, R403, R405, R408, R410). -/

namespace Sys2Proof.Machine

/-- R10: the identity word. -/
def devid : Word := 0x4A021032

/-- R7, Tables 18.3, 20.4, 22.4, 23.2, 23.9: the reset value of a register that is not zero. -/
def regDefault (off : Nat) : Word :=
  if off = 0x108 then 256
  else if 0xA80 ≤ off ∧ off < 0xAC0 then 4
  else if off = 0xAC0 then 16
  else if off = 0xD00 then 0x000003E800000001
  else 0

/-- A register that stands in the state under its offset. -/
def rawReg (s : State) (off : Nat) : Word := Sparse.get (regDefault off) s.regs off

/-- R369: BOOTST. -/
def bootst (s : State) : Word :=
  BitVec.ofNat 64 (s.mgmt.stage % 16 + b2n s.mgmt.ready * 2 ^ 8 + b2n s.mgmt.fail * 2 ^ 9)

/-- Table 22.3: RELC0 to RELC4 of a tile. -/
def relcReg (x : Tile) (k : Nat) : Word :=
  if k = 4 then
    BitVec.ofNat 64 (wfld (Sparse.get 0 x.relc 4) 0 16 + b2n (x.spareUsed.contains false) * 2 ^ 16 +
      b2n (x.spareUsed.contains true) * 2 ^ 17 + b2n x.retire * 2 ^ 24)
  else Sparse.get 0 x.relc k

/-- R400: the tile and the context that DBGSEL names. -/
def dbgTile (s : State) : Nat := wfld (rawReg s 0xC00) 0 11
/-- R400: the context that DBGSEL names. -/
def dbgCtx (s : State) : Nat := wfld (rawReg s 0xC00) 16 3

/-- Table 23.2: DBGST. -/
def dbgst (s : State) : Word :=
  let y := ctxOf s (dbgTile s) (dbgCtx s)
  rawReg s 0xC20 ||| BitVec.ofNat 64 (b2n s.dbgSince.isSome + b2n y.debugHalt * 2 ^ 6 + y.haltReason * 2 ^ 16)

/-- Table 18.4: QSTAT. -/
def qstat (k : Queue) : Nat :=
  if k.resetTo.isSome then 3 else if k.flight ≠ [] then 1 else if k.head ≠ k.tail then 2 else 0

/-- Table 18.4: a register of a queue window. -/
def queueReg (s : State) (q off : Nat) : Word :=
  let k := queueOf s q
  match off with
  | 0x00 => k.base
  | 0x08 => k.cfg
  | 0x10 => BitVec.ofNat 64 k.tail
  | 0x18 => BitVec.ofNat 64 k.head
  | 0x20 => BitVec.ofNat 64 k.doneN
  | 0x28 => BitVec.ofNat 64 (qstat k)
  | _ => 0

/-- R322: 8 bytes of BAR0 at an 8-aligned offset; what is not assigned reads zero. -/
def readBar0 (s : State) (off : Nat) : Word :=
  if off ≥ 0x10000 then
    (if off < 0x20000 then queueReg s ((off - 0x10000) / 0x1000) (off % 0x1000) else 0)
  else if 0x400 ≤ off ∧ off < 0x600 then Sparse.get 0 s.tln ((off - 0x400) / 8)
  else if 0xC40 ≤ off ∧ off < 0xC80 then BitVec.ofNat 64 (s.dbgRow.toNat / 2 ^ (8 * (off - 0xC40)))
  else match off with
    | 0x000 => devid
    | 0x100 => putFld (rawReg s 0x100) 63 1 (b2n s.shoot.isSome)
    | 0x828 => BitVec.ofNat 64 s.jnext
    | 0x830 => s.mgmt.fwver
    | 0x838 => bootst s
    | 0xA08 => relcReg (tileOf s (wfld (rawReg s 0xA00) 0 11)) 0
    | 0xA10 => relcReg (tileOf s (wfld (rawReg s 0xA00) 0 11)) 1
    | 0xA18 => relcReg (tileOf s (wfld (rawReg s 0xA00) 0 11)) 2
    | 0xA20 => relcReg (tileOf s (wfld (rawReg s 0xA00) 0 11)) 3
    | 0xA28 => relcReg (tileOf s (wfld (rawReg s 0xA00) 0 11)) 4
    | 0xC18 => s.dbgDat
    | 0xC20 => dbgst s
    | 0x110 | 0x1000 | 0x1008 | 0xA30 => 0
    | off =>
      if 0xA80 ≤ off ∧ off < 0xAC0 then putFld (rawReg s off) 16 8 (voltOf s ((off - 0xA80) / 8)).off else rawReg s off

/-- Tables 18.3, 20.4, 22.3, 22.4, 23.2, 23.9, 23.10: the bits of a register that a write sets. -/
def rwMask (off : Nat) : Nat :=
  if 0x40 ≤ off ∧ off < 0x80 then 0xFFFFFFFFF000
  else if 0x80 ≤ off ∧ off < 0xC0 then 0xFFFFFFFF0000
  else if 0xC0 ≤ off ∧ off < 0x100 then 2 ^ 64 - 1
  else if 0x200 ≤ off ∧ off < 0x280 then 0xFFFFC0000001
  else if 0xA80 ≤ off ∧ off < 0xAC0 then 0x80000FFF
  else if 0xD40 ≤ off ∧ off < 0xD80 then 0x8000FFFF0FFF0000
  else match off with
    | 0x010 => 0xFFFFFFFF
    | 0x100 => 0x07FFFFFFFFFF0000
    | 0x108 => 0xFFFF
    | 0x118 => 0x000FFFFFFFFFFFE0
    | 0x120 => 0xF
    | 0x128 => 0xFFFFFFFF
    | 0x600 => 0x3F
    | 0x800 => 0x030000000000000F
    | 0x810 => 0x000FFFFFFFFFF001
    | 0x818 => 0xFFFFFFFF
    | 0xA00 => 0x7FF
    | 0xAC0 => 0xFF
    | 0xC00 => 0x707FF
    | 0xC08 => 0xFFF0F
    | 0xC10 => 2 ^ 64 - 1
    | 0xD00 => 0x8000FFFF0000FFFF
    | 0xD08 => 0xFFFFFFFFF000
    | _ => 0

/-- The bits of a register that a written 1 clears. -/
def w1cMask (off : Nat) : Nat :=
  if 0xD80 ≤ off ∧ off < 0xDC0 then 3
  else match off with
    | 0x120 => 0x80000000
    | 0x608 => 1
    | 0xAC8 => 0xFF
    | _ => 0

/-- R7, R322: the value of a register after a write of `v` on the bits of `cover`. -/
def merged (rw w1c : Nat) (old v cover : Word) : Word :=
  let m := BitVec.ofNat 64 rw &&& cover
  (((old &&& ~~~m) ||| (v &&& m)) &&& ~~~(v &&& BitVec.ofNat 64 w1c &&& cover))

/-- R324: whether a partition holds a running or saved launch. -/
def holdsLaunch (s : State) (p : Nat) : Bool := s.launches.any fun l => decide (l.part = p)

/-- Table 18.3: whether a write of PARTCFG changes a partition that holds a launch. -/
def partsChange (s : State) (old new : Word) : Bool :=
  (List.range 8).any fun n =>
    decide (wfld old (4 * n) 4 ≠ wfld new (4 * n) 4) &&
    ((wbit old (4 * n + 3) && holdsLaunch s (wfld old (4 * n) 3)) || (wbit new (4 * n + 3) && holdsLaunch s (wfld new (4 * n) 3)))

/-- R391: the GUARD of a sector. -/
def guardOf (s : State) (n : Nat) : Nat := wfld (rawReg s (0xA80 + 8 * n)) 0 8

/-- Table 18.3, R391, R408: whether a register keeps its value although it is written. -/
def writeIgnored (s : State) (off : Nat) (old new : Word) : Bool :=
  if off = 0x10 then partsChange s old new
  else if 0x40 ≤ off ∧ off < 0x100 then decide (old ≠ new) && holdsLaunch s (off / 8 % 8)
  else if 0xA80 ≤ off ∧ off < 0xAC0 then decide (wfld (rawReg s 0xAC0) 0 8 ≤ wfld new 0 8)
  else if off = 0xAC0 then (List.range 8).any fun n => decide (wfld new 0 8 ≤ guardOf s n)
  else false

/-- R408: a zero written to INT or NSLOT leaves the field. -/
def keepZero (off : Nat) (old new : Word) : Word :=
  if off = 0xD00 then
    let a := if wfld new 32 16 = 0 then putFld new 32 16 (wfld old 32 16) else new
    if wfld a 0 16 = 0 then putFld a 0 16 (wfld old 0 16) else a
  else new

/-- A write to a register that begins nothing. -/
def plainWrite (off : Nat) (v cover : Word) (s : State) : State :=
  if rwMask off = 0 ∧ w1cMask off = 0 then s
  else
    let old := rawReg s off
    let new := keepZero off old (merged (rwMask off) (w1cMask off) old v cover)
    if writeIgnored s off old new then s else { s with regs := Sparse.set off new s.regs }

/-- Table 18.4: a write to a register of a queue window. -/
def queueWrite (q off : Nat) (v cover : Word) (s : State) : State :=
  let k := queueOf s q
  let idle := !wbit k.cfg 31 && decide (k.head = k.tail)
  match off with
  | 0x00 => if idle then modQueue q (fun k => { k with base := merged 0x000FFFFFFFFFFFC0 0 k.base v cover }) s else s
  | 0x08 =>
    let new := merged 0x8007030F 0 k.cfg v cover
    if wfld new 0 4 > 10 then s
    else if idle then noteWaiting q (modQueue q (fun k => { k with cfg := new }) s)
    else s
  | 0x10 => qtail q (merged 0xFFFFFFFF 0 (BitVec.ofNat 64 k.tail) v cover).toNat s
  | _ => s

/-- R341: the part of the address space that a SHOOT names. -/
def shootRange (v : Word) : Bool × Nat × Nat :=
  let bits := match wfld v 52 4 with | 0 => 16 | 1 => 25 | _ => 34
  (decide (wfld v 52 4 = 3), wfld v 16 36 * 2 ^ 16 / 2 ^ bits * 2 ^ bits, 2 ^ bits)

/-- R341: whether a SHOOT removes an entry: that of the page and size it names, or every one. -/
def shot (part : Nat) (r : Bool × Nat × Nat) (e : TlbEntry) : Bool :=
  decide (e.part = part) && (r.1 || (decide (e.base = r.2.1) && decide (e.size = r.2.2)))

/-- R341: the accesses under way whose translation a SHOOT may have removed, by tile, context and number: those in the page
that it names, those that read scales or an image translated at their issue, and what an agent has still to write. -/
def shotAccs (s : State) (part : Nat) (r : Bool × Nat × Nat) : List (Nat × Nat × Nat) :=
  let hit (va n : Nat) : Bool := r.1 || (decide (va < r.2.1 + r.2.2) && decide (r.2.1 < va + n))
  s.tiles.flatMap fun x =>
    if x.2.part ≠ part then []
    else
      (x.2.ctxs.flatMap fun y => (y.2.accs.filter fun a => unperformed a && hit a.va a.size).map fun a => (x.1, y.1, a.id)) ++
      ((x.2.moves.filter fun m => hit m.va (16 * m.pitch) || m.scl.isSome).map fun m => (x.1, m.ctx, m.id)) ++
      ((x.2.matq.filter fun o => !o.pas.isEmpty || (!o.started && (o.arrA.isSome || o.arrB.isSome))).map fun o => (x.1, o.ctx, o.id)) ++
      (x.2.agentq.filter fun q => !q.writes.isEmpty).map fun q => (x.1, q.view.ctx, q.id)

/-- R341: a shootdown starts: the entries go from every TLB; one that is in progress keeps on. -/
def startShoot (v : Word) (s : State) : State :=
  let part := wfld v 56 3
  let r := shootRange v
  if s.shoot.isSome ∨ wfld v 52 4 > 3 then s
  else
    let keep (l : List TlbEntry) : List TlbEntry := l.filter fun e => !shot part r e
    let s := { s with shoot := some { part := part, all := r.1, base := r.2.1, size := r.2.2, accs := shotAccs s part r } }
    { s with tiles := s.tiles.map fun x =>
        (x.1, { x.2 with tlb := keep x.2.tlb, agentTlb := keep x.2.agentTlb,
                         cores := x.2.cores.map fun k => (k.1, { k.2 with tlb := keep k.2.tlb }) }) }

/-- R341: a write of SHOOT, with GO. -/
def shootWrite (v : Word) (s : State) : State :=
  if s.shoot.isSome then s else startShoot v (plainWrite 0x100 v (BitVec.allOnes 64) s)

/-- R341: the step. -/
def execShoot (v : Word) (s : State) : Host.Outcome State Fault Refusal := .next (fromHost (shootWrite v) s)

/-- R341: whether an access that a shootdown waits for is still to be performed. -/
def stillRuns (s : State) (e : Nat × Nat × Nat) : Bool :=
  let x := tileOf s e.1
  (ctxIn x e.2.1).accs.any (fun a => decide (a.id = e.2.2) && unperformed a) ||
  x.moves.any (fun m => decide (m.id = e.2.2)) || x.matq.any (fun o => decide (o.id = e.2.2) && (!o.pas.isEmpty || !o.started)) ||
  x.agentq.any fun q => decide (q.id = e.2.2) && !q.writes.isEmpty

/-- R341: every tile and agent has acknowledged. -/
def shootdownComplete (s : State) : State :=
  match s.shoot with
  | some k => if k.accs.any (stillRuns s) then s else { s with shoot := none }
  | none => s

/-- R341: the step. -/
def execShootdownComplete (s : State) : Host.Outcome State Fault Refusal := .next (shootdownComplete s)

/-- R343: CRST clears a counter, its tile record and MULTI. -/
def crst (v : Word) (s : State) : State := { s with counters := Sparse.erase (wfld v 0 16) s.counters }

/-- R343: the step. -/
def execCrst (v : Word) (s : State) : Host.Outcome State Fault Refusal := .next (fromHost (crst v) s)

/-- R323, R339, R364: whether the host may reach `n` bytes at a device address; into a reserve it may only read. -/
def hostReaches (pa : Nat) (write : Bool) : Bool :=
  match targetOf pa with
  | some .vault => !(write && decide (paOff pa ≥ Config.firmwareReserve))
  | some .scratch => decide (paOff pa < Config.scratchBytes)
  | some .host | some .peer | some .control | none => false

/-- R111, R285, R387: the covered bytes of an aligned host write of 8 bytes land at their home (log 25). -/
def hostStore8 (pa : Nat) (v cover : Word) (s : State) : State :=
  (List.range 8).foldl (fun s i =>
    if wbit cover (8 * i) then
      let b := wfld v (8 * i) 8
      mirrorWrite (pa + i) 1 b false (homeStore (pa + i) 1 b false s)
    else s) s

/-- R131, R132, R318: what keeps a host access from its home. -/
def hostHindered (s : State) (pa : Nat) : Option Hindrance :=
  if paRegion pa = 0 then vaultHindrance s (paTile pa) (paOff pa) .vaultHold else none

/-- R285: whether a host access may be performed before the ones that arrived earlier and are not: a mailbox write follows
every write, and accesses of one 8-byte unit keep their order. -/
def hostInTurn (before : List HostAcc) (h : HostAcc) : Bool :=
  !before.any fun b => (h.mailbox && b.write) || (decide (b.pa / 8 = h.pa / 8) && (b.write || h.write))

/-- R285: the writes that a host access makes: those of the mailbox are releases at DEVICE scope, each after everything that the
host wrote to the device before, and offers itself. -/
def hostWrites (h : HostAcc) (s : State) : State :=
  let s' := hostStore8 h.pa h.v h.cover s
  let k := s'.mailSeen.join { also := (List.range (s'.writes - s.writes)).map fun i => s.writes + i }
  let m : Msg := { party := .mailbox, scope := .device, known := k }
  { s' with mailSeen := k, hist := retag s.writes (fun e => if h.mailbox then { e with msgs := [m] } else e) s'.hist }

/-- R111, R270, R323, R339, R383: a host access at its home. -/
def hostPerform (h : HostAcc) (s : State) : State :=
  let s := if paRegion h.pa = 0 then touchBank (paTile h.pa) (paOff h.pa) 8 .keep s else s
  if h.write then hostWrites h s
  else
    let s := checkSegment h.pa s
    { s with hostData := BitVec.ofNat 64 (readAs s (fun e => s.mailSeen.has e.n || s.pub.has e.n) h.pa 8).1 }

/-- R318: a host access that meets a flagged row reports it. -/
def hostReports (h : HostAcc) (s : State) : State :=
  match hostHindered s h.pa with
  | some (.repair t row) => reportRow t row s
  | _ => s

/-- R132, R285, R318: a host access arrives: it is performed, or stalls behind its vault or an earlier access. -/
def hostArrives (h : HostAcc) (s : State) : State :=
  if (hostHindered s h.pa).isNone && hostInTurn s.hostAccs h then hostPerform h s
  else hostReports h { s with hostAccs := s.hostAccs ++ [h] }

/-- The first waiting host access that can be performed now, and the others. -/
def hostNext (s : State) : List HostAcc → List HostAcc → Option (HostAcc × List HostAcc)
  | _, [] => none
  | before, h :: r =>
    if (hostHindered s h.pa).isNone && hostInTurn before h then some (h, before ++ r) else hostNext s (before ++ [h]) r

/-- R132, R285: a stalled host access goes on once its vault serves it. -/
def hostGo (s : State) : State :=
  match hostNext s [] s.hostAccs with
  | some (h, r) => hostPerform h { s with hostAccs := r }
  | none => s.hostAccs.foldl (fun s h => hostReports h s) s

/-- R285, R339: a mailbox write; one that is dropped sets MBERR and leaves MBADDR. -/
def mbdata (v cover : Word) (s : State) : State :=
  let a := s.mbAddr.toNat
  if a % 8 = 0 ∧ hostReaches a true then
    { hostArrives { pa := a, v := v, cover := cover, write := true, mailbox := true } s with mbAddr := s.mbAddr + 8 }
  else { s with regs := Sparse.modify 0 0x608 (fun w => w ||| 1) s.regs }

/-- R339: the step. -/
def execMbdata (v : Word) (s : State) : Host.Outcome State Fault Refusal := .next (fromHost (mbdata v (BitVec.allOnes 64)) s)

/-- R384: every counter of the selected tile cleared; MSP and RETIRE are no counters. -/
def relclr (v : Word) (s : State) : State :=
  if wbit v 0 then
    modTile (wfld (rawReg s 0xA00) 0 11) (fun x => { x with relc := [] }) s
  else s

/-- R384: the step. -/
def execRelclr (v : Word) (s : State) : Host.Outcome State Fault Refusal := .next (fromHost (relclr v) s)

/-- R369: the firmware core accepts the command in FWCMD, and GO reads 0 again. -/
def fwcmd (s : State) : State :=
  let v := rawReg s 0x800
  let s := { s with regs := Sparse.set 0x800 (putFld v 63 1 0) s.regs }
  match wfld v 56 2 with
  | 1 => hostFw (queueResetBy 0 (wfld v 0 4)) s
  | 2 => if wfld v 0 4 < 8 then hostFw (partReset 0 (wfld v 0 4)) s else s
  | 3 => hostFw (deviceResetBy 0) s
  | _ => s

/-- R371: the firmware core accepts what has waited longest: the command in FWCMD, or the head of a queue. -/
def acceptNext (s : State) : State :=
  match s.toAccept with
  | [] => s
  | none :: r => fwcmd { s with toAccept := r }
  | some q :: r => readHead q { s with toAccept := r }

/-- R371: everything of the host that waits is accepted, before what arrives now. -/
def acceptAll (s : State) : State := (List.range s.toAccept.length).foldl (fun s _ => acceptNext s) s

/-- R370, R371: a reset asked for at the side port, while the firmware core runs (R365): what the host asked for is accepted
first. During a device reset it joins that (R376). -/
def sideReset (queue kind part : Nat) (f : State → Nat × State) (s : State) : State :=
  let s := acceptAll s
  let run (r : Nat × State) : State := respond 0 r.1 [] r.2
  if resetting s then run (joinReset 1 queue kind part s) else if s.mgmt.ready then run (f s) else s

/-- R375: QUEUE_RESET. -/
def sideQueueReset (q : Nat) (s : State) : State := sideReset q 0x10 0xFF (queueResetBy 1 q) s

/-- R375: the step. -/
def execQueueReset (q : Fin 16) (s : State) : Host.Outcome State Fault Refusal := .next (sideQueueReset q.val s)

/-- R375: PARTITION_RESET. -/
def sidePartitionReset (p : Nat) (s : State) : State := sideReset 0xFF 0x11 p (partReset 1 p) s

/-- R375: the step. -/
def execPartitionReset (p : Fin 8) (s : State) : Host.Outcome State Fault Refusal := .next (sidePartitionReset p.val s)

/-- R375: DEVICE_RESET. -/
def sideDeviceReset (s : State) : State := sideReset 0xFF 0x12 0xFF (deviceResetBy 1) s

/-- R375: the step. -/
def execDeviceReset (s : State) : Host.Outcome State Fault Refusal := .next (sideDeviceReset s)

/-- R369: FWCMD written with GO: it waits for the firmware core, and until then GO reads 1 and a further GO is ignored. -/
def fwcmdWrite (v cover : Word) (s : State) : State :=
  if wbit (rawReg s 0x800) 63 then s
  else
    let s := plainWrite 0x800 v cover s
    { s with regs := Sparse.set 0x800 (putFld (rawReg s 0x800) 63 1 1) s.regs, toAccept := s.toAccept ++ [none] }

/-- R322: 8 bytes of BAR0 written on the bits of `cover`, except the start of a debug command. -/
def writeBar0 (off : Nat) (v cover : Word) (s : State) : State :=
  if off ≥ 0x10000 then
    (if off < 0x20000 then queueWrite ((off - 0x10000) / 0x1000) (off % 0x1000) v cover s else s)
  else if 0xC40 ≤ off ∧ off < 0xC80 then
    let sh := 8 * (off - 0xC40)
    let old := s.dbgRow.toNat / 2 ^ sh % 2 ^ 64
    let new := (merged (2 ^ 64 - 1) 0 (BitVec.ofNat 64 old) v cover).toNat
    { s with dbgRow := BitVec.ofNat 512 (s.dbgRow.toNat - old * 2 ^ sh + new * 2 ^ sh) }
  else match off with
    | 0x100 =>
      if wbit (v &&& cover) 63 then
        shootWrite (merged (rwMask 0x100) 0 (rawReg s 0x100) v cover) s
      else plainWrite off v cover s
    | 0x110 => if wbit cover 0 then crst v s else s
    | 0x800 => if wbit (v &&& cover) 63 then fwcmdWrite v cover s else plainWrite off v cover s
    | 0x1000 => { s with mbAddr := merged (2 ^ 64 - 1) 0 s.mbAddr v cover }
    | 0x1008 => mbdata v cover s
    | 0xA30 => if wbit cover 0 then relclr v s else s
    | 0xC18 => { s with dbgDat := merged (2 ^ 64 - 1) 0 s.dbgDat v cover }
    | 0xD00 => { plainWrite off v cover s with netLast := s.time }
    | off => plainWrite off v cover s

/-- R377: a load from the firmware control block; none while it blocks. -/
def readFcb (off : Nat) (s : State) : Option Word × State :=
  if 0x100 ≤ off ∧ off < 0x140 then
    let x := partOf s ((off - 0x100) / 8)
    (some (BitVec.ofNat 64 (b2n x.halt + b2n x.run * 8)), s)
  else if 0x200 ≤ off ∧ off < 0x240 then (some (pstat s ((off - 0x200) / 8)), s)
  else if 0x280 ≤ off ∧ off < 0x2C0 then (some (BitVec.ofNat 64 (partOf s ((off - 0x280) / 8)).lseq), s)
  else match off with
    | 0x000 => (some s.wdexp, s)
    | 0x008 => (if s.wdexp = 0 then none else some s.wdexp, s)
    | 0x400 => let (n, s) := journalAlloc s; (some (BitVec.ofNat 64 n), s)
    | 0x408 => (some s.jsel, s)
    | _ => (some 0, s)

/-- R377: a store to the firmware control block. -/
def writeFcb (off : Nat) (v : Word) (s : State) : State :=
  if 0x100 ≤ off ∧ off < 0x140 then pctlWrite ((off - 0x100) / 8) v s
  else if 0x410 ≤ off ∧ off < 0x450 then writeJw ((off - 0x410) / 8) v s
  else match off with
    | 0x000 => { s with wdexp := s.wdexp &&& ~~~v }
    | 0x300 => qend v.toNat s
    | 0x408 => { s with jsel := v }
    | _ => s

/-- R105, R404: 8 bytes of the tile control region; the value of a counter of cycles is unstated and free (log 26). -/
def readTileReg (t off : Nat) (s : State) : Word × State :=
  let x := tileOf s t
  if 0x100 ≤ off ∧ off < 0x140 then ((ctxIn x ((off - 0x100) / 8)).tcmp, s)
  else if 0x400 ≤ off ∧ off < 0x600 then (Sparse.get 0 (ctxIn x ((off - 0x400) / 64)).dbg (off % 64), s)
  else if 0x800 ≤ off ∧ off < 0xA00 then
    let k := (off - 0x800) / 0x100
    let i := off % 0x100 / 8
    let core := coreOf s t k
    if i < 4 then
      (if countsCycles (Sparse.get 0 core.pmsel i) then
        let (v, s) := freshValue s
        (v &&& 0xFFFFFFFFFFFF, s)
      else (Sparse.get 0 core.pmc i, s))
    else if i < 8 then (Sparse.get 0 core.pmsel (i - 4), s)
    else (0, s)
  else if 0xA00 ≤ off ∧ off < 0xA28 then (Sparse.get 0 x.mon (off - 0xA00), s)
  else (0, s)

/-- Table 23.1: the bits of a word of a debug block that a write sets, and those that a written 1 clears. -/
def dbgMask (off : Nat) : Nat × Nat :=
  match off with
  | 0x00 | 0x08 => (0x000FFFFFFFFFFFFD, 0)
  | 0x10 | 0x20 => (0x000FFFFFFFFFFFFF, 0)
  | 0x18 | 0x28 => (0x3FFFFFFFF, 0)
  | 0x30 => (1, 0)
  | _ => (0, 0x3F)

/-- Table 23.6: the bits of a monitor register that a write sets. -/
def monMask (off : Nat) : Nat :=
  match off with
  | 0x00 => 0x800000000FFFFFC0
  | 0x08 => 0x0FFFFFC0
  | 0x10 => 0x0FFFFFE0
  | 0x18 => 0xFFFFFFFF
  | _ => 0xFF03FE

/-- R403: a counter that has counted cycles holds an unstated value, which stays in it when it is given another event (log 26). -/
def unselect (t k i : Nat) (s : State) : State :=
  if countsCycles (Sparse.get 0 (coreOf s t k).pmsel i) then
    let (v, s) := freshValue s
    modCore t k (fun x => { x with pmc := Sparse.set i (v &&& 0xFFFFFFFFFFFF) x.pmc }) s
  else s

/-- R105, R354, R394, R403, R405: 8 bytes of the tile control region written. -/
def writeTileReg (t off : Nat) (v : Word) (s : State) : State :=
  let all := BitVec.allOnes 64
  if 0x100 ≤ off ∧ off < 0x140 then modCtx t ((off - 0x100) / 8) (fun y => { y with tcmp := v }) s
  else if 0x400 ≤ off ∧ off < 0x600 then
    let m := dbgMask (off % 64)
    modCtx t ((off - 0x400) / 64) (fun y => { y with dbg := Sparse.modify 0 (off % 64) (fun w => merged m.1 m.2 w v all) y.dbg }) s
  else if 0x800 ≤ off ∧ off < 0xA00 then
    let i := off % 0x100 / 8
    let f (x : CoreSt) : CoreSt :=
      if i < 4 then { x with pmc := Sparse.modify 0 i (fun w => merged 0xFFFFFFFFFFFF 0 w v all) x.pmc }
      else if i < 8 then { x with pmsel := Sparse.modify 0 (i - 4) (fun w => merged 0x17FFF 0x20000 w v all) x.pmsel }
      else x
    let k := (off - 0x800) / 0x100
    modCore t k f (if 4 ≤ i ∧ i < 8 then unselect t k (i - 4) s else s)
  else if 0xA00 ≤ off ∧ off < 0xA28 then
    modTile t (fun x => { x with mon := Sparse.modify 0 (off - 0xA00) (fun w => merged (monMask (off - 0xA00)) 0 w v all) x.mon }) s
  else s

/-- R105, R377: 8 bytes of a CONTROL address read for tile `t`; none while the read blocks. -/
def readControl (t pa : Nat) (s : State) : Option Word × State :=
  if paRegion pa = 2 then
    let (v, s) := readTileReg (paTile pa) (pa % 2 ^ 12) s
    (some v, s)
  else
    let off := pa % 2 ^ 21
    if off < 0x20000 then (some (readBar0 s off), s)
    else if 0x100000 ≤ off ∧ off < 0x101000 ∧ t = Config.fwTile then readFcb (off - 0x100000) s
    else (some 0, s)

/-- R105, R377: 8 bytes of a CONTROL address written for tile `t`, except the start of a debug command. -/
def writeControl0 (t pa : Nat) (v : Word) (s : State) : State :=
  if paRegion pa = 2 then writeTileReg (paTile pa) (pa % 2 ^ 12) v s
  else
    let off := pa % 2 ^ 21
    if off < 0x20000 then writeBar0 off v (BitVec.allOnes 64) s
    else if 0x100000 ≤ off ∧ off < 0x101000 ∧ t = Config.fwTile then writeFcb (off - 0x100000) v s
    else s

end Sys2Proof.Machine
end

