-- ==== Sys2Proof/Machine/Port.lean ====
section
/-! DEFINITION. The debug port of BAR0 (R363, R398 to R402). -/

namespace Sys2Proof.Machine

/-- What a debug command reports in DBGST. -/
structure DbgReport where
  err : Nat := 0
  unbound : Bool := false
  poison : Bool := false
  woke : Bool := false

/-- R400: what the command under way was started with, or what one would be started with now: DBGSEL, DBGCMD, DBGADR. -/
def dbgOperands (s : State) : Word × Word × Word :=
  if s.dbgSince.isSome then s.dbgRun else (rawReg s 0xC00, rawReg s 0xC08, rawReg s 0xC10)

/-- R400: the tile of a debug command. -/
def cmdTile (s : State) : Nat := wfld (dbgOperands s).1 0 11
/-- R400: the context of a debug command. -/
def cmdCtx (s : State) : Nat := wfld (dbgOperands s).1 16 3
/-- R402: the address of a debug command. -/
def cmdAddr (s : State) : Nat := (dbgOperands s).2.2.toNat

/-- R400: a command ends: DBGST bits [5:1] and ERRC set afresh. WAITED tells that its access has waited for refresh or
repair. -/
def dbgEnd (r : DbgReport) (s : State) : State :=
  let w := BitVec.ofNat 64 (b2n (decide (r.err ≠ 0)) * 2 + b2n r.unbound * 4 + b2n r.poison * 8 + b2n r.woke * 16 +
    b2n s.dbgWaited * 32 + r.err * 2 ^ 8)
  { s with regs := Sparse.set 0xC20 w s.regs, dbgSince := none, dbgWaited := false, dbgPri := none, dbgPriFail := false }

/-- R400, R402: a command that must wait stays busy from now on, with the operands that it was started with; `op` is its
operation, with IDX and ROW as DBGCMD holds them. -/
def dbgWait (op : Nat) (s : State) : State :=
  let (a, _, b) := dbgOperands s
  { s with dbgSince := some (s.dbgSince.getD s.time), dbgRun := (a, BitVec.ofNat 64 op, b) }

/-- R401: a command that needs a debug-halted context. -/
def whenHalted (s : State) (k : State → State) : State :=
  if (ctxOf s (cmdTile s) (cmdCtx s)).debugHalt then k s else dbgEnd { err := 1 } s

/-- R363, R399: a halt request stops the selected context at a boundary and cancels a resume that waits; a blocked group
whose answer is there completes first. -/
def dbgHalt (s : State) : State :=
  let t := cmdTile s
  let c := cmdCtx s
  let y := ctxOf s t c
  if y.debugHalt then dbgEnd {} (setCtx t c { y with resumeReq := false, stepReq := false } s)
  else if y.phase ≠ .running then dbgEnd {} s
  else if mustAnswer s t c then dbgWait 1 s
  else dbgEnd {} (debugStop t c 1 (modCtx t c issueMerged s))

/-- R363: the step. -/
def execDbgHalt (s : State) : Host.Outcome State Fault Refusal := .next (dbgHalt s)

/-- R363, R397, R398: a resume request, for one step when `one`; it takes effect once earlier work has completed. -/
def requestResume (one : Bool) (s : State) : State :=
  whenHalted s fun s =>
    dbgEnd {} (modCtx (cmdTile s) (cmdCtx s) (fun y => { y with resumeReq := true, stepReq := one }) s)

/-- R363: a resume. -/
def dbgResume (s : State) : State := requestResume false s

/-- R363: the step. -/
def execDbgResume (s : State) : Host.Outcome State Fault Refusal := .next (dbgResume s)

/-- R400: one step. -/
def dbgStep (s : State) : State := requestResume true s

/-- R400: the step. -/
def execDbgStep (s : State) : Host.Outcome State Fault Refusal := .next (dbgStep s)

/-- R401: RDREG. -/
def rdreg (i : Nat) (s : State) : State :=
  whenHalted s fun s =>
    let t := cmdTile s
    let c := cmdCtx s
    let y := ctxOf s t c
    if i < 16 then
      let r := scalarIn y i
      dbgEnd { poison := r.poison } { s with dbgDat := r.val }
    else if 16 ≤ i ∧ i < 51 then
      match CReg.ofCode (i - 16) with
      | some r => dbgEnd {} { s with dbgDat := cregIn s t c y (coreOf s t (coreIx c)) r }
      | none => dbgEnd { err := 2 } s
    else if 64 ≤ i ∧ i < 128 ∧ i % 8 < 6 then
      let f := Sparse.get ({} : Fut) y.futs ((i - 64) / 8)
      dbgEnd { poison := f.poison && decide (2 ≤ i % 8) } { s with dbgDat := futWord f (i % 8) }
    else dbgEnd { err := 2 } s

/-- R401: the step. -/
def execRdreg (idx : Fin 256) (s : State) : Host.Outcome State Fault Refusal := .next (rdreg idx.val s)

/-- R401: WRREG, under the rules of R261 at FIRM. -/
def wrreg (i : Nat) (s : State) : State :=
  whenHalted s fun s =>
    let t := cmdTile s
    let c := cmdCtx s
    if i < 16 then dbgEnd {} (modCtx t c (putScalar i { val := s.dbgDat }) s)
    else if 16 ≤ i ∧ i < 51 then
      match CReg.ofCode (i - 16) with
      | some r =>
        if cregBits r = (0, 0) ∨ cregRefuses r s.dbgDat ∨ (r = .status ∧ wfld s.dbgDat 2 2 > 2) then dbgEnd { err := 2 } s
        else dbgEnd {} (putCreg t c r s.dbgDat s)
      | none => dbgEnd { err := 2 } s
    else dbgEnd { err := 2 } s

/-- R401: the step. -/
def execWrreg (idx : Fin 256) (s : State) : Host.Outcome State Fault Refusal := .next (wrreg idx.val s)

/-- R137, R154: whether a write to a row of a physical register is in flight, by the selected context or its partner. What a
stopped move has still to write is not. -/
def rowInFlight (s : State) (p k : Nat) : Bool :=
  let x := tileOf s (cmdTile s)
  x.moves.any (fun m => moveOwes m p k) || x.matq.any (fun o => decide (o.kind = .mdrain) && decide (o.reg = p)) ||
  x.ctxs.any fun y => y.2.accs.any fun a => decide (a.kind = .rowLoad) && decide (a.dest = p) && decide (a.row = k)

/-- R154, R401: RDROW. -/
def rdrow (i k : Nat) (s : State) : State :=
  whenHalted s fun s =>
    let t := cmdTile s
    if i ≥ 16 then dbgEnd { err := 2 } s
    else match physOf (ctxOf s t (cmdCtx s)) i with
      | none => dbgEnd { unbound := true } { s with dbgRow := 0 }
      | some p =>
        if rowInFlight s p k then dbgWait (6 + i * 2 ^ 8 + k * 2 ^ 16) s
        else
          let g := Sparse.get ({} : TileReg) (tileOf s t).xregs p
          let r := rowIn (tileOf s t) p k
          let s := modTile t (fun x => { x with xregs := Sparse.set p { g with drowsy := false, lastUse := s.time } x.xregs }) s
          dbgEnd { poison := r.poison, woke := g.drowsy } { s with dbgRow := r.bits }

/-- R401: the step. -/
def execRdrow (idx : Fin 256) (row : Fin 16) (s : State) : Host.Outcome State Fault Refusal := .next (rdrow idx.val row.val s)

/-- R401: WRROW. -/
def wrrow (i k : Nat) (s : State) : State :=
  whenHalted s fun s =>
    let t := cmdTile s
    if i ≥ 16 then dbgEnd { err := 2 } s
    else match physOf (ctxOf s t (cmdCtx s)) i with
      | none => dbgEnd { unbound := true } s
      | some p =>
        if rowInFlight s p k then dbgWait (7 + i * 2 ^ 8 + k * 2 ^ 16) s
        else
          let g := Sparse.get ({} : TileReg) (tileOf s t).xregs p
          dbgEnd { woke := g.drowsy } (modTile t (putRow p k { bits := s.dbgRow } s.time) s)

/-- R401: the step. -/
def execWrrow (idx : Fin 256) (row : Fin 16) (s : State) : Host.Outcome State Fault Refusal := .next (wrrow idx.val row.val s)

/-- R401: RDSLOT: one segment of the slot image. -/
def rdslot (i j : Nat) (s : State) : State :=
  whenHalted s fun s =>
    let x := tileOf s (cmdTile s)
    if i ≥ 50 then dbgEnd { err := 2 } s
    else if holdsSlot x (cmdCtx s) j then
      let img := slotImage (Sparse.get {} x.slots j)
      dbgEnd {} { s with dbgRow := BitVec.ofNat 512 (img.readN (64 * i) 64) }
    else dbgEnd { unbound := true } { s with dbgRow := 0 }

/-- R401: the step. -/
def execRdslot (idx : Fin 256) (slot : Fin 4) (s : State) : Host.Outcome State Fault Refusal :=
  .next (rdslot idx.val slot.val s)

/-- R402: how the port resolves addresses: through the table of the selected tile's partition, at FIRM. -/
def portView (s : State) : View :=
  { part := (tileOf s (cmdTile s)).part, tile := cmdTile s, firm := true, sup := true, ctx := cmdCtx s }

/-- R402: where a memory command of the port goes: an error code, a wait, or a physical address. -/
def portReach (s : State) (write : Bool) : Except (Option Nat) Resolved :=
  let va := cmdAddr s
  if va % 64 ≠ 0 then .error (some 2)
  else if va ≥ 2 ^ 52 then .error (some 3)
  else match resolvePage s (portView s) .tile va write with
    | .error _ => .error (some 3)
    | .ok r =>
      if r.tgt = .peer ∨ (r.tgt = .scratch ∧ paOff r.pa + 64 > Config.scratchBytes) then .error (some 2)
      else if r.tgt = .vault ∧ paOff r.pa ≥ Config.firmwareReserve then .error (some 5)
      else if write ∧ r.wb then .error none
      else match r.tgt with
        | .vault =>
          (match vaultHindrance s (paTile r.pa) (paOff r.pa) .vaultHold with
           | none => .ok r
           | some (.hold _) =>
             (match s.dbgSince with
              | some b => if b + Config.holdLimit ≤ s.time then .error (some 4) else .error none
              | none => .error none)
           | some _ => .error none)
        | .host =>
          if s.dbgPriFail ∨ ¬s.mgmt.link then .error (some 3)
          else if !hostAllows s r.pa write then .error none
          else if hostErrs s r.pa write then .error (some 3)
          else .ok r
        | .scratch | .peer | .control => .ok r

/-- R318, R400, R402: a memory command that waits reports a flagged row and asks for a page. -/
def portWaits (write : Bool) (s : State) : State :=
  match resolvePage s (portView s) .tile (cmdAddr s) write with
  | .error _ => dbgWait (if write then 9 else 8) s
  | .ok r =>
    let s := dbgWait (if write then 9 else 8) s
    if r.tgt = .host then
      let s := requestPage (hostPage r.pa) s
      { s with dbgPri := askedPage (hostPage r.pa) s }
    else match vaultHindrance s (paTile r.pa) (paOff r.pa) .vaultHold with
      | some (.repair t row) => if r.tgt = .vault then reportRow t row { s with dbgWaited := true } else s
      | some .later => if r.tgt = .vault then { s with dbgWaited := true } else s
      | _ => s

/-- R402: the eight units of a CONTROL segment read one by one. -/
def readUnits (t pa : Nat) : Nat → State → Nat × State
  | 0, s => (0, s)
  | n + 1, s =>
    let (v, s) := readControl t pa s
    let (r, s) := readUnits t (pa + 8) n s
    ((v.getD 0).toNat + 2 ^ 64 * r, s)

/-- R402: RDMEM. -/
def rdmem (s : State) : State :=
  match portReach s false with
  | .error (some e) => dbgEnd { err := e } s
  | .error none => portWaits false s
  | .ok r =>
    let s := match r.entry with
      | some e => fillTlb .tile (cmdTile s) e s
      | none => s
    if r.tgt = .control then
      let (v, s) := readUnits (cmdTile s) r.pa 8 s
      dbgEnd {} { s with dbgRow := BitVec.ofNat 512 v }
    else
      let (w, s) := homeRead r.pa s
      let s := if r.tgt = .vault then touchBank (paTile r.pa) (paOff r.pa) 64 .keep s else s
      dbgEnd { poison := w.poison } { s with dbgRow := w.bits }

/-- R402: the step. -/
def execRdmem (s : State) : Host.Outcome State Fault Refusal := .next (rdmem s)

/-- R402: WRMEM: a full segment, unpoisoned. A debug command that it would start is ignored, since one runs. -/
def wrmem (s : State) : State :=
  match portReach s true with
  | .error (some e) => dbgEnd { err := e } s
  | .error none => portWaits true s
  | .ok r =>
    let s := match r.entry with
      | some e => fillTlb .tile (cmdTile s) e s
      | none => s
    if r.tgt = .control then
      let row := s.dbgRow.toNat
      dbgEnd {} ((List.range 8).foldl (fun s i =>
        writeControl0 (cmdTile s) (r.pa + 8 * i) (BitVec.ofNat 64 (row / 2 ^ (64 * i))) s) s)
    else
      let v := s.dbgRow.toNat
      let s := mirrorWrite r.pa 64 v false (homeStore r.pa 64 v false s)
      let s := if r.tgt = .vault then touchBank (paTile r.pa) (paOff r.pa) 64 .keep s else s
      dbgEnd {} s

/-- R402: the step. -/
def execWrmem (s : State) : Host.Outcome State Fault Refusal := .next (wrmem s)

/-- R400, Table 23.3: the command that DBGCMD names. -/
def dbgCommand (s : State) : State :=
  let w := (dbgOperands s).2.1
  let i := wfld w 8 8
  let k := wfld w 16 4
  match wfld w 0 4 with
  | 1 => dbgHalt s
  | 2 => dbgResume s
  | 3 => dbgStep s
  | 4 => rdreg i s
  | 5 => wrreg i s
  | 6 => rdrow i k s
  | 7 => wrrow i k s
  | 8 => rdmem s
  | 9 => wrmem s
  | 10 => rdslot i (k % 4) s
  | _ => dbgEnd { err := 2 } s

/-- R400: a command that waits goes on. -/
def dbgContinue (s : State) : State := if s.dbgSince.isSome then dbgCommand s else s

/-- R400: a write of DBGCMD; GO while a command runs is ignored, and a write without GO changes no command under way. -/
def dbgcmdWrite (v cover : Word) (s : State) : State :=
  if wbit (v &&& cover) 63 then
    (if s.dbgSince.isSome then s else dbgCommand (plainWrite 0xC08 v cover s))
  else plainWrite 0xC08 v cover s

/-- R322, R400: any register of BAR0 written. -/
def writeBar (off : Nat) (v cover : Word) (s : State) : State :=
  if off = 0xC08 then dbgcmdWrite v cover s else writeBar0 off v cover s

/-- R105: 8 bytes of a CONTROL address written for tile `t`. -/
def writeControl (t pa : Nat) (v : Word) (s : State) : State :=
  if paRegion pa = 3 ∧ pa % 2 ^ 21 = 0xC08 then dbgcmdWrite v (BitVec.allOnes 64) s else writeControl0 t pa v s

/-- R322: an aligned write of 4 or 8 bytes by the driver; one that is not aligned is dropped (log 25). -/
def registerWrite (a : Nat) (wide : Bool) (v : Word) (s : State) : State :=
  if a % (if wide then 8 else 4) ≠ 0 then s
  else if wide then writeBar a v (BitVec.allOnes 64) s
  else
    let sh := 8 * (a % 8)
    writeBar (a / 8 * 8) (v <<< sh) (BitVec.ofNat 64 (0xFFFFFFFF * 2 ^ sh)) s

/-- R322: the step. -/
def execRegisterWrite (a : Nat) (wide : Bool) (v : Word) (s : State) : Host.Outcome State Fault Refusal :=
  .next (fromHost (registerWrite a wide v) s)

/-- R323: the device address that a BAR2 offset reaches; none through a disabled window. -/
def bar2Pa (s : State) (a : Nat) : Option Nat :=
  let w := rawReg s (0x200 + 8 * (a / 2 ^ 30 % 16))
  if wbit w 0 then some (wfld w 30 18 * 2 ^ 30 + a % 2 ^ 30) else none

/-- R111, R132, R323, R383: the host reads 8 bytes through BAR2; what it cannot reach reads all ones (log 25). -/
def bar2Read (a : Nat) (s : State) : State :=
  match bar2Pa s (a / 8 * 8) with
  | some pa =>
    if hostReaches pa false then hostArrives { pa := pa } s
    else { s with hostData := BitVec.allOnes 64 }
  | none => { s with hostData := BitVec.allOnes 64 }

/-- R323: the step. -/
def execBar2Read (a : Nat) (s : State) : Host.Outcome State Fault Refusal := .next (fromHost (bar2Read a) s)

/-- R323, R364: the host writes 8 bytes through BAR2. -/
def bar2Write (a : Nat) (v : Word) (s : State) : State :=
  match bar2Pa s (a / 8 * 8) with
  | some pa =>
    if hostReaches pa true then hostArrives { pa := pa, v := v, cover := BitVec.allOnes 64, write := true } s else s
  | none => s

/-- R323: the step. -/
def execBar2Write (a : Nat) (v : Word) (s : State) : Host.Outcome State Fault Refusal := .next (fromHost (bar2Write a v) s)

/-- R342: every wait for a page ends; with `fail` each waiting access takes XLATE_ABSENT. -/
def pageAnswered (n : Nat) (failed : Bool) (s : State) : State :=
  let ctx (y : Ctx) : Ctx := if failed ∧ y.wait = .pri n then { y with priFail := true } else y
  let copy (k : Copy) : Copy := if k.pri = some n then { k with pri := none, priFail := failed } else k
  let cmd (c : Cmd) : Cmd := if c.pri = some n then { c with pri := none, priFail := failed } else c
  let queue (q : Queue) : Queue :=
    let q := { q with flight := q.flight.map cmd }
    if q.pri = some n then { q with pri := none, priFail := failed } else q
  { s with dbgPri := if s.dbgPri = some n then none else s.dbgPri,
           dbgPriFail := s.dbgPriFail || (failed && decide (s.dbgPri = some n)),
           tiles := s.tiles.map (fun x =>
             (x.1, { x.2 with ctxs := x.2.ctxs.map (fun y => (y.1, ctx y.2)), copies := x.2.copies.map copy })),
           queues := s.queues.map fun q => (q.1, queue q.2) }

/-- R342: a page of the host translated anew, with the permission that the host gives it. A translation that a full cache
drops is the oldest (log 15). -/
def translated (n : Nat) (s : State) : State :=
  let l := (s.ats.filter fun k => decide (k ≠ n)) ++ [n]
  let l := l.drop (l.length - 4096)
  let ro := (s.atsRO.filter fun k => decide (k ≠ n)) ++ (if s.hostRO.contains n then [n] else [])
  { s with ats := l, atsRO := ro.filter fun k => l.contains k }

/-- R342: the host answers a page request; after a good answer the waiting accesses are retried. -/
def priResponse (n : Nat) (ok : Bool) (s : State) : State :=
  if s.priReqs.contains n then
    let s := { s with priReqs := s.priReqs.filter fun k => decide (k ≠ n) }
    pageAnswered n (!ok) (if ok then translated n s else s)
  else s

/-- R342: the step. -/
def execPriResponse (a : Nat) (b : Bool) (s : State) : Host.Outcome State Fault Refusal := .next (priResponse a b s)

/-- R342: the accesses under way that use the translation of a host page. -/
def pageUsers (s : State) (n : Nat) : List (Nat × Nat × Nat) :=
  s.tiles.flatMap fun x => x.2.ctxs.flatMap fun y =>
    (y.2.accs.filter fun a => decide (a.home = .host) && unperformed a && decide (hostPage a.pa = n)).map fun a =>
      (x.1, y.1, a.id)

/-- R342: the invalidations whose accesses are all performed complete. -/
def invsDone (s : State) : State := { s with invs := s.invs.filter fun v => v.accs.any (stillRuns s) }

/-- R321, R342: an invalidation from the host removes the translation, and completes after every access that used it; at
most 32 are in progress, and a further one waits at the host. -/
def atsInvalidation (n : Nat) (s : State) : State :=
  match s.invs.find? fun v => decide (v.page = n) with
  | some _ => invsDone s
  | none =>
    if s.invs.length ≥ 32 then s
    else { s with ats := s.ats.filter (fun k => decide (k ≠ n)), atsRO := s.atsRO.filter (fun k => decide (k ≠ n)),
                  invs := s.invs ++ [{ page := n, accs := pageUsers s n }] }

/-- R342: the host changes what it allows on one of its pages, and how it answers reads of it. -/
def hostChanges (n : Nat) (ro fails : Bool) (s : State) : State :=
  let put (b : Bool) (l : List Nat) : List Nat := (l.filter fun k => decide (k ≠ n)) ++ (if b then [n] else [])
  { s with hostRO := put ro s.hostRO, hostFails := put fails s.hostFails }

/-- R342: the step. -/
def execAtsInvalidation (a : Nat) (s : State) : Host.Outcome State Fault Refusal := .next (atsInvalidation a s)

/-- R365, R373, R374: the PCI Express link goes down or comes back up, and the heads of the queues can then be read. The device
enables its link at boot stage 7 alone. -/
def pcieLinkStateChange (b : Bool) (s : State) : State :=
  if s.mgmt.booting.isSome then s
  else (List.range 16).foldl (fun s q => headArrives q s) { s with mgmt := { s.mgmt with link := b } }

/-- R374: the step. -/
def execPcieLinkStateChange (b : Bool) (s : State) : Host.Outcome State Fault Refusal := .next (pcieLinkStateChange b s)

/-- R13, R23: the physical router of a tile. -/
def routerOf (s : State) (t : Nat) : Nat := t / 32 * 33 + physCol s t

/-- R235: the router of the device control block and of the compaction unit, (16,32). -/
def controlRouter : Nat := 32 * 33 + 16

/-- R23, R24, Table 1.5: the messages between routers that have been sent and are still on their way or under way. -/
def netSent (s : State) : List NetMsg :=
  let at_ := routerOf s
  (s.agentReqs.filter fun r => !heldByPair s r.2.view.tile r.2.view.ctx r.2.id).map (fun r =>
    (at_ r.2.view.tile, at_ r.1, (match r.2.kind with | .copyEnd _ _ _ => 3 | _ => 0), r.2.id)) ++
  s.replies.map (fun r => (at_ r.src, at_ r.tile, 1, r.id)) ++
  (s.barArr.filter fun b => !heldByPair s b.tile b.ctx b.id).map (fun b => (at_ b.tile, at_ (barHome b.key), 0, b.id)) ++
  s.conts.map (fun k => (at_ k.2.2.src, at_ k.2.1, 2, k.1)) ++
  (s.cancels.filter fun r => !cancelHeld s r.2.1 r.1 r.2.2).map (fun r => (at_ r.2.1, at_ (cancelTile s r.2.1 r.2.2), 0, r.1)) ++
  s.tiles.flatMap fun x => x.2.ctxs.flatMap fun y =>
    ((y.2.accs.filter fun a => decide (a.home = .remScratch) && !heldByPair s x.1 y.1 a.id).flatMap fun a =>
      (at_ x.1, at_ (paTile a.pa), 0, a.id) :: (if a.served then [(at_ (paTile a.pa), at_ x.1, 1, a.id)] else [])) ++
    (match y.2.wl with
     | some w => if heldByPair s x.1 y.1 w.id then []
       else (at_ x.1, controlRouter, 0, w.id) :: (if w.applied then [(controlRouter, at_ x.1, 1, w.id)] else [])
     | none => [])

/-- R197: the tiles whose scratchpads the ends of a copy lie in. -/
def copyTiles (s : State) (q : Copy) : List Nat :=
  (List.range (boxCount q.desc)).flatMap fun i =>
    let e := element q.desc i
    ((if e.2.2 then [(e.1, false)] else []) ++ [(e.2.1, true)]).filterMap fun a =>
      match resolve s q.view .tile a.1 a.2 with
      | .ok r => if r.tgt = .scratch then some (paTile r.pa) else none
      | .error _ => none

/-- R23, R24: the routers and channels between which messages may be going that are not counted one by one: a barrier's releases, the
ends of copies, accesses of the device control region, a shootdown, and what a pair exchanges (R387, R388). -/
def netAround (s : State) : List (Nat × Nat × Nat) :=
  let at_ := routerOf s
  let both (a b : Nat) (l : List Nat) : List (Nat × Nat × Nat) := l.flatMap fun v => [(a, b, v), (b, a, v)]
  let ends (q : AReq) (u : Nat) : List (Nat × Nat × Nat) :=
    match q.kind with
    | .copyEnd _ _ _ => [(at_ u, at_ q.view.tile, 3)]
    | _ => []
  s.agentReqs.flatMap (fun r => ends r.2 r.1) ++
  (match s.shoot with
   | some k => (s.tiles.filter fun x => decide (x.2.part = k.part)).flatMap fun x => [(controlRouter, at_ x.1, 0), (at_ x.1, controlRouter, 1)]
   | none => []) ++
  s.tiles.flatMap fun x =>
    x.2.agentq.flatMap (fun q => ends q x.1) ++
    x.2.copies.flatMap (fun q => (copyTiles s q).flatMap fun u => both (at_ x.1) (at_ u) [3]) ++
    (match x.2.pairOf with
     | some u => if x.2.isShadow then [] else both (at_ x.1) (at_ u) [0, 1, 2, 3]
     | none => []) ++
    x.2.ctxs.flatMap fun y =>
      (match y.2.wait with | .barrier key _ => [(at_ (barHome key), at_ x.1, 1)] | _ => []) ++
      (if y.2.accs.any fun a => decide (a.home = .device) || decide (a.home = .control) then both (at_ x.1) controlRouter [0, 1, 2, 3] else [])

/-- R23, R408: whether a step may have sent a message of a party for which the manual gives no router: the host, a peer, a table walk, the
dispatcher. -/
def otherTraffic (s s' : State) : Bool :=
  let tlbs (s : State) : List (List TlbEntry) := s.tiles.map fun x => x.2.tlb ++ x.2.agentTlb ++ x.2.cores.flatMap fun k => k.2.tlb
  let outside (q : Copy) : Bool := (List.range (boxCount q.desc)).any fun i =>
    [((element q.desc i).1, false), ((element q.desc i).2.1, true)].any fun a =>
      match resolve s' q.view .tile a.1 a.2 with
      | .ok r => decide (r.tgt = .host) || decide (r.tgt = .peer)
      | .error _ => false
  !s'.hostAccs.isEmpty || decide (s.launches.length ≠ s'.launches.length) || decide (tlbs s ≠ tlbs s') ||
  s'.queues.any (fun q => q.2.flight.any fun c => decide (c.kind = 2)) || s'.agentReqs.any (fun r => decide (Config.tiles ≤ r.1)) ||
  s'.tiles.any fun x => x.2.copies.any outside || x.2.ctxs.any fun y => y.2.accs.any fun a => decide (a.home = .host)

/-- R408: what a step from `s` to `s'` has sent is noted for the next snapshot, while snapshots are enabled. -/
def noteTraffic (s s' : State) : State :=
  if wbit (rawReg s' 0xD00) 63 then
    let old := netSent s
    { s' with netUsed := s'.netUsed ++ (netSent s').filter fun m => !old.contains m,
              netMaybe := (netAround s').foldl (fun l p => if l.contains p then l else p :: l) s'.netMaybe,
              netOpen := s'.netOpen || otherTraffic s s' }
  else { s' with netUsed := [], netMaybe := [], netOpen := true }

/-- R23: whether the path of a message from router `a` to router `b` crosses link `l` of the router at physical column `p` of row
`y`: along its row to the destination's column, and then along that column. -/
def onPath (a b p y l : Nat) : Bool :=
  match l with
  | 0 => decide (y = a / 33) && decide (a % 33 ≤ p) && decide (p < b % 33)
  | 1 => decide (y = a / 33) && decide (b % 33 < p) && decide (p ≤ a % 33)
  | 2 => decide (p = b % 33) && decide (a / 33 ≤ y) && decide (y < b / 33)
  | _ => decide (p = b % 33) && decide (b / 33 < y) && decide (y ≤ a / 33)

/-- R408: FLITS and STALL of a link and channel: the flits of the messages sent over it since the last snapshot, and a free part where
others may have crossed it; a link that nothing may have crossed has neither (log 10). -/
def linkCounts (s : State) (n p y l v : Nat) : Nat :=
  let sent := s.netUsed.filter fun m => decide (m.2.2.1 = v) && onPath m.1 m.2.1 p y l
  let more := s.netOpen || s.netMaybe.any fun m => decide (m.2.2 = v) && onPath m.1 m.2.1 p y l
  let w := (Config.linkCounts n (16 * (33 * y + p) + 4 * l + v)).toNat
  let flits := sent.foldl (fun k m => k + 1 + Config.messageFlits m.2.2.2) (if more then w % 2 ^ 32 else 0)
  if sent.isEmpty && !more then 0 else flits % 2 ^ 32 + w / 2 ^ 32 * 2 ^ 32

/-- R409: the counts of one router's block; a link that leaves the grid reads zero. -/
def routerParts (s : State) (n : Nat) (at_ : Nat) : Parts :=
  let p := at_ % 33
  let y := at_ / 33
  let edge (l : Nat) : Bool :=
    match l with
    | 0 => decide (p = 32)
    | 1 => decide (p = 0)
    | 2 => decide (y = 63)
    | _ => decide (y = 0)
  (List.range 4).flatMap fun l => (List.range 4).map fun v =>
    (128 + 128 * at_ + 32 * l + 8 * v, 8, if edge l then 0 else linkCounts s n p y l v)

/-- R409: a snapshot. -/
def snapshotParts (s : State) (n : Nat) : Parts :=
  [(0, 8, n), (8, 8, s.time), (16, 8, s.netPrev)] ++ (List.range 64).map (fun y => (24 + y, 1, Sparse.get 32 s.remap y)) ++
  (List.range (33 * 64)).flatMap (routerParts s n)

/-- R408: an interval of the network grid ends: a snapshot is written. The intervals that have fallen due besides, while the
previous one was written, are skipped. -/
def networkSnapshot (s : State) : State :=
  let cfg := rawReg s 0xD00
  let base := wfld (rawReg s 0xD08) 12 36 * 2 ^ 12
  let n := wfld (rawReg s 0xD10) 0 32
  if wbit cfg 63 ∧ s.netLast + wfld cfg 32 16 * Config.cyclesPerMicro ≤ s.time ∧ (paRegion base = 0 ∨ paRegion base = 16) then
    let pa := base + 274432 * (n % wfld cfg 0 16)
    let skip := (s.time - s.netLast) / (wfld cfg 32 16 * Config.cyclesPerMicro) - 1
    let s := { s with regs := Sparse.modify 0 0xD18 (fun w => BitVec.ofNat 64 ((w.toNat + skip) % 2 ^ 32)) s.regs }
    let u := placeFresh (build (snapshotParts s n)) 0 274432 pa s
    let s := { u with netPrev := s.time, netLast := s.time, netUsed := [], netMaybe := [], netOpen := false }
    { s with regs := Sparse.set 0xD10 (BitVec.ofNat 64 ((n + 1) % 2 ^ 32)) s.regs }
  else s

/-- R408: the step. -/
def execNetworkSnapshot (s : State) : Host.Outcome State Fault Refusal := .next (networkSnapshot s)

end Sys2Proof.Machine
end

