-- ==== Sys2Proof/Machine/Accesses.lean ====
section
/-! DEFINITION. Accesses that have left their group: stores and atomics performed at their home, load data on its way
back, and what stalls too long (R24, R112, R115, R124, R133, R412, R415). -/

namespace Sys2Proof.Machine

/-- R411: the bank of a scratchpad address. -/
def bankOfScratch (pa : Nat) : Nat := pa / 16 % 32

/-- R412: from log position `n` on, the next atomic of a bank: its position and its requester. -/
def logBank (s : State) (u bank : Nat) : Nat → Nat → Option (Nat × Nat)
  | 0, _ => none
  | fuel + 1, n =>
    let w := readMem s (logPa s u n) 8
    if w % 16 = 2 ∧ w / 2 ^ 8 % 256 = bank then some (n, readMem s (logPa s u n + 8) 8) else logBank s u bank fuel (n + 1)

/-- R411: how a log names the requester of an atomic. -/
def requesterWord (t c : Nat) (a : Acc) : Nat := t + c * 2 ^ 11 + a.cnt % 2 ^ 16 * 2 ^ 16 + a.seq.toNat * 2 ^ 32

/-- R411, R412: an atomic takes its place at a scratchpad bank of tile `u`: logged while recording; while replaying, in
the logged order alone, and otherwise the bank waits. -/
def bankTurn (u t c : Nat) (a : Acc) (s : State) : Bool × State :=
  let b := bankOfScratch a.pa
  let pos := Sparse.get 0 (tileOf s u).bankPos b
  let passed (n : Nat) (s : State) : State :=
    modTile u (fun x => { x with bankPos := Sparse.set b n x.bankPos, bankWait := Sparse.erase b x.bankWait }) s
  if replaying s u then
    match logBank s u b (readMem s (logPa s u 0 - 64) 8 - pos) pos with
    | some (n, v) =>
      if v = requesterWord t c a then (true, passed (n + 1) s)
      else if (Sparse.get none (tileOf s u).bankWait b).isSome then (false, s)
      else (false, modTile u (fun x => { x with bankWait := Sparse.set b (some s.time) x.bankWait }) s)
    | none =>
      if (Sparse.get none (tileOf s u).bankWait b).isSome then (false, s)
      else (false, modTile u (fun x => { x with bankWait := Sparse.set b (some s.time) x.bankWait }) s)
  else (true, passed (pos + 1) (logPut u 2 0 b pos (requesterWord t c a) s))

/-- R105, R111: a store or an atomic is performed at its home. -/
def performWrite (t c : Nat) (a : Acc) (s : State) : State :=
  if a.kind = .atomic then
    if paRegion a.pa = 1 then
      let (go, s) := bankTurn (paTile a.pa) t c a s
      if go then performAtomic t c a s else s
    else performAtomic t c a s
  else
    let s := dropAcc t c a.id s
    match a.home with
    | .control | .device => writeControl t a.pa (BitVec.ofNat 64 a.data.toNat) s
    | .ownScratch | .remScratch | .ownVault | .host => landAcc t c a a.pa a.size a.data.toNat a.poison s

/-- R377: whether an access is one of the firmware core to its control block. -/
def isFcb (t : Nat) (a : Acc) : Bool :=
  let off := a.pa % 2 ^ 21
  decide (t = Config.fwTile) && decide (paRegion a.pa ≠ 2) && (decide (a.home = .control) || decide (a.home = .device)) &&
  decide (0x100000 ≤ off) && decide (off < 0x101000)

/-- R377: whether an access to the control block must wait for an earlier one. -/
def behindFcb (s : State) (t c : Nat) (a : Acc) : Bool :=
  isFcb t a && (ctxOf s t c).accs.any fun b => decide (b.id < a.id) && isFcb t b

/-- R115, R377: the access of a context with a number, when everything the context did before it in its bytes is done. -/
def readyAcc (s : State) (t c k : Nat) : Option Acc :=
  match (ctxOf s t c).accs.find? fun a => decide (a.id = k) with
  | none => none
  | some a => if touchedFirst (tileOf s t) c k (accWrites a) a.pa a.size || behindFcb s t c a then none else some a

/-- R115, R126: the access with a number, when what must come before it is done; what a merged write waits for is asked of the
whole of it. -/
def writeAcc (s : State) (t c k : Nat) : Option Acc :=
  match (ctxOf s t c).accs.find? fun a => decide (a.id = k) with
  | none => none
  | some a => if a.mrg ≠ 0 ∨ a.held then some a else readyAcc s t c k

/-- R266: the 8-byte units of a row that have still to be moved. -/
def hostLeft (a : Acc) : List Nat := (List.range 8).filter fun k => !a.moved.contains k

/-- R266: a row stored at the host is written in aligned 8-byte units, in the order that the turns pick. -/
def hostUnits (t c : Nat) (a : Acc) (s : State) : State :=
  if a.size ≤ 8 then performWrite t c a s
  else
    let left := hostLeft a
    let k := left.getD (pickOf s left.length) 0
    let s := landAcc t c a (a.pa + 8 * k) 8 (a.data.toNat / 2 ^ (64 * k) % 2 ^ 64) a.poison s
    if left.length ≤ 1 then dropAcc t c a.id s else putAcc t c { a with moved := k :: a.moved } s

/-- R126: a merged write is one write: the stores that it merges are performed together, in their order, once what the context
did before any of them is done. -/
def mergedWrite (t c : Nat) (a : Acc) (s : State) : State :=
  if a.mrg = 0 then hostUnits t c a s
  else
    let x := tileOf s t
    let l := (ctxIn x c).accs.filter fun b => decide (b.mrg = a.mrg)
    let others := { x with ctxs := Sparse.modify {} c (fun y => { y with accs := y.accs.filter fun b => decide (b.mrg ≠ a.mrg) }) x.ctxs }
    if l.any fun b => touchedFirst others c b.id true b.pa b.size || heldByPair s t c b.id then s
    else l.foldl (fun s b => performWrite t c b s) s

/-- R111, R112, R126, R272, R415: a retired store or atomic is performed at its home; the own vault may keep it waiting; a
merged host write that has waited long enough is issued. -/
def storePerform (t c k : Nat) (s : State) : State :=
  match writeAcc s t c k with
  | none => s
  | some a =>
    if a.held then (if s.time ≥ a.since + Config.mergeLimit then modCtx t c issueMerged s else s)
    else if !accWrites a || a.served then s
    else match a.home with
      | .remScratch => s
      | .ownScratch => performWrite t c a s
      | .ownVault =>
        if a.kind = .atomic then queueAtomic t c a s
        else
        (match vaultHindrance s t (paOff a.pa) .vaultHold with
         | some (.repair u row) => reportRow u row s
         | some _ => s
         | none =>
           if agentFirst s t (paOff a.pa) then s
           else performWrite t c a (useBank t c (paOff a.pa) a.size a.pol a.site a.seq s))
      | .host => if heldByPair s t c k ∨ ¬s.mgmt.link then s else mergedWrite t c a s
      | .control | .device => if heldByPair s t c k then s else performWrite t c a s

/-- R415: the step. -/
def execStorePerform (t : Nat) (c : Fin 8) (k : Nat) (s : State) : Host.Outcome State Fault Refusal :=
  .next (storePerform t c.val k s)

/-- R24, R124: a request reaches another tile's scratchpad and is served there. -/
def remoteAccessArrival (t c k : Nat) (s : State) : State :=
  match readyAcc s t c k with
  | none => s
  | some a =>
    if a.home ≠ .remScratch ∨ a.kind = .phase ∨ a.served ∨ sentBefore s t (paTile a.pa) k then s
    else if accWrites a then (if heldByPair s t c k then s else performWrite t c a s)
    else
      let (n, s) := freshId s
      let (v, s) := ctxRead t c a.id a.sight a.ord a.scope a.pa a.size s
      putAcc t c { a with served := true, sent := n, data := BitVec.ofNat 512 v.1, poison := v.2 } s

/-- R124: the step. -/
def execRemoteAccessArrival (t : Nat) (c : Fin 8) (k : Nat) (s : State) : Host.Outcome State Fault Refusal :=
  .next (remoteAccessArrival t c.val k s)

/-- R115, R126: the bytes that a load reads, those of the context's merged host stores before it among them. -/
def withHeld (y : Ctx) (a : Acc) (v : Nat) : Nat :=
  let l := y.accs.filter fun b => b.held && decide (b.id < a.id)
  (List.range a.size).foldr (fun i n =>
    let x := a.pa + i
    let byte := match l.reverse.find? fun b => decide (b.pa ≤ x) && decide (x < b.pa + b.size) with
      | some b => b.data.toNat / 2 ^ (8 * (x - b.pa)) % 256
      | none => v / 2 ^ (8 * i) % 256
    byte + 256 * n) 0

/-- R113: a scalar result of a load. -/
def loadValue (a : Acc) (v : Nat) : Word := if a.sext then sextBytes a.size v else BitVec.ofNat 64 v

/-- R113, R116, R168: the data of a load written to its destination. -/
def writeLoad (t c : Nat) (a : Acc) (v : Nat) (poison : Bool) (s : State) : State :=
  let s := notePrint t c 9 v v (dropAcc t c a.id s)
  if a.kind = .rowLoad then modTile t (putRow a.dest a.row { bits := BitVec.ofNat 512 v, poison := poison } s.time) s
  else modCtx t c (putScalar a.dest { val := loadValue a v, poison := poison }) s

/-- R34, R124: the old value of an atomic written, with its flags. -/
def writeAtomic (t c : Nat) (a : Acc) (s : State) : State :=
  landBoth t c a.id (fun y => putScalar a.dest { val := BitVec.ofNat 64 a.data.toNat, poison := a.poison }
    { y with fpflags := y.fpflags ||| a.data2 }) (dropAcc t c a.id s)

/-- R111, R383: a load reads its home and writes its destination at once. -/
def readHome (t c : Nat) (a : Acc) (s : State) : State :=
  let s := noteRead t c a.pa a.size (checkSegment a.pa s)
  let (v, s) := ctxRead t c a.id a.sight a.ord a.scope a.pa a.size s
  writeLoad t c a (withHeld (ctxOf s t c) a v.1) v.2 s

/-- R266: a row at the host is read in aligned 8-byte units, in the order that the turns pick. -/
def hostRead (t c : Nat) (a : Acc) (s : State) : State :=
  if a.size ≤ 8 then readHome t c a s
  else
    let left := hostLeft a
    let k := left.getD (pickOf s left.length) 0
    let (v, s) := ctxRead t c a.id a.sight a.ord a.scope (a.pa + 8 * k) 8 s
    let a := { a with data := a.data ||| BitVec.ofNat 512 (v.1 * 2 ^ (64 * k)), poison := a.poison || v.2 }
    if left.length ≤ 1 then writeLoad t c a (withHeld (ctxOf s t c) a a.data.toNat) a.poison s
    else putAcc t c { a with moved := k :: a.moved } s

/-- R113, R115, R229: load data arrives and is written. A read of EVWAIT may have to wait (R377). -/
def loadDataReturn (t c k : Nat) (s : State) : State :=
  match (ctxOf s t c).accs.find? fun a => decide (a.id = k) with
  | none => s
  | some a =>
    match a.kind with
    | .store | .rowStore => s
    | .atomic => if a.served ∧ ¬(a.home = .remScratch ∧ repliedBefore s (paTile a.pa) t a.sent) then writeAtomic t c a s else s
    | .phase =>
      if a.served ∧ ¬repliedBefore s (paTile a.pa) t a.sent then
        landBoth t c k (putScalar a.dest { val := BitVec.ofNat 64 a.data.toNat }) (dropAcc t c k s)
      else s
    | .load | .rowLoad =>
      if a.home = .remScratch then (if a.served ∧ ¬repliedBefore s (paTile a.pa) t a.sent then writeLoad t c a a.data.toNat a.poison s else s)
      else match readyAcc s t c k with
        | none => s
        | some _ =>
          match a.home with
          | .ownScratch | .remScratch => readHome t c a s
          | .ownVault =>
            if refreshing s t (bankOf (rowNumber (paOff a.pa))) ∨ agentFirst s t (paOff a.pa) then s
            else readHome t c a (useBank t c (paOff a.pa) a.size a.pol a.site a.seq s)
          | .host => if s.mgmt.link then hostRead t c a s else s
          | .control | .device =>
            (match readControl t a.pa s with
             | (some v, s') => writeLoad t c a v.toNat false s'
             | (none, _) => s)

/-- R115: the step. -/
def execLoadDataReturn (t : Nat) (c : Fin 8) (k : Nat) (s : State) : Host.Outcome State Fault Refusal :=
  .next (loadDataReturn t c.val k s)

/-- R133: a group stalled by HOLD for 2 µs traps. -/
def holdGroup (t c : Nat) (s : State) : State :=
  let y := ctxOf s t c
  match y.wait with
  | .hold va | .holdHere va =>
    if y.waitSince + Config.holdLimit ≤ s.time ∧ y.phase = .running ∧ ¬y.stopped ∧ ¬y.debugHalt then
      enterCause t c { cause := holdCause (tileOf s t).vault, eval := BitVec.ofNat 64 va } 0 s
    else s
  | _ => s

/-- R133, R135: a tile move stalled by HOLD for 2 µs stops. -/
def holdMoves (t c : Nat) (s : State) : State :=
  let l := (tileOf s t).moves.filter fun m =>
    decide (m.ctx = c) && decide (m.since ≠ 0) && decide (m.since - 1 + Config.holdLimit ≤ s.time)
  l.foldl (fun s m => stopMove t m (holdCause (tileOf s t).vault) s) s

/-- R133, R175: an image operation stalled by HOLD for 2 µs traps under R177 (log 17). -/
def holdImages (t c : Nat) (s : State) : State :=
  match (tileOf s t).matq.find? fun o =>
      decide (o.ctx = c) && decide (o.since ≠ 0) && decide (o.since - 1 + Config.holdLimit ≤ s.time) with
  | some o => deferMat t o (holdCause (tileOf s t).vault) s
  | none => s

/-- R133: what HOLD has stalled for 2 µs, if the vault is not ACTIVE at that instant. -/
def holdTimeout (t c : Nat) (s : State) : State :=
  if (tileOf s t).vault.hold = .active then s else holdGroup t c (holdImages t c (holdMoves t c s))

/-- R133: the step. -/
def execHoldTimeout (t : Nat) (c : Fin 8) (s : State) : Host.Outcome State Fault Refusal := .next (holdTimeout t c.val s)

/-- R112: a store stalled on write-block for 2^22 cycles traps, if the bit is still set. -/
def writeBlockTimeout (t c : Nat) (s : State) : State :=
  let y := ctxOf s t c
  match y.wait with
  | .writeBlock va =>
    let set_ := match resolve s (viewOf s t c) (.core (coreIx c)) va true with
      | .ok r => r.wb
      | .error _ => true
    if set_ && decide (y.waitSince + Config.writeBlockLimit ≤ s.time) && decide (y.phase = .running) && !y.stopped &&
        !y.debugHalt then
      enterCause t c { cause := .writeBlockTimeout, eval := BitVec.ofNat 64 va } 0 s
    else s
  | _ => s

/-- R112: the step. -/
def execWriteBlockTimeout (t : Nat) (c : Fin 8) (s : State) : Host.Outcome State Fault Refusal :=
  .next (writeBlockTimeout t c.val s)

end Sys2Proof.Machine
end

