-- ==== Sys2Proof/Machine/Control.lean ====
section
/-! DEFINITION. Branches, jumps and LOOP (R66 to R68, R73 to R75, R84 to R91). -/

namespace Sys2Proof.Machine

/-- R86: the address of the branch word plus 4 × DISP14. -/
def branchTarget (s : State) (d : Fin 16384) : Nat := (BitVec.ofNat 64 (opCtx s).pc + wordOf (sext 14 d.val * 4)).toNat

/-- R87, R88: the address of the jump word plus 4 × DISP24. -/
def jumpTarget (s : State) (d : Fin 16777216) : Nat := (BitVec.ofNat 64 (opCtx s).pc + wordOf (sext 24 d.val * 4)).toNat

/-- R66, R68: whether a branch nullifies its delay groups. -/
def kills (n : NullCode) (taken : Bool) : Bool :=
  match n with
  | .none => false
  | .nt => !taken
  | .tk => taken

/-- R84, R85: a branch on two scalars. -/
def branch2 (s : State) (n : NullCode) (a b : Fin 16) (d : Fin 16384) (c : Word → Word → Bool) : Eff :=
  ready s [a, b] <| unpoisoned s [a, b] <|
    let taken := c (rdS s a).val (rdS s b).val
    .done s (.branch taken (branchTarget s d) (kills n taken))

/-- R89: the link, Seq(nnPC). -/
def linkOf (s : State) : Word := BitVec.ofNat 64 (seqAddr s s.focusTile s.focusCtx (opCtx s).nnpc)

/-- R67, R84, R88: a jump through a scalar. A target both poisoned and misaligned raises POISON_CONSUMED, an order that R65 does
not give (log 58). -/
def jumpReg (s : State) (a : Fin 16) (k : Nat → Eff) : Eff :=
  ready s [a] <| unpoisoned s [a] <|
    let v := (rdS s a).val
    if wfld v 0 2 ≠ 0 then .trap (addrTrap .align v) else k v.toNat

/-- R91: the words of a loop body, none where the image has none. -/
def bodyWords (s : State) (bs len : Nat) : List (Option Nat) :=
  (List.range len).map fun i => fetchWord s s.focusTile s.focusCtx (bs + 4 * i)

/-- R74: a word that a body may not hold. A LOOP counts by its major code, an ERET only when it decodes; of a malformed one the manual
says nothing (DESIGN CHOICE, log 77). -/
def bodyForbids (w : Nat) : Bool :=
  decide (w / 2 ^ 30 % 2 = 0) &&
  ((decide (4 ≤ w / 2 ^ 24 % 64) && decide (w / 2 ^ 24 % 64 ≤ 15)) || decide (w / 2 ^ 24 % 64 = 2) ||
    decide (wordInstr w = .eret))

/-- R56, R74: whether the last word of a body that continues at address `a` is the first word of a pair. -/
def endsInPair : Nat → List (Option Nat) → Bool
  | _, [] => false
  | a, some w :: r =>
    if w / 2 ^ 31 % 2 = 1 ∨ a % 8 ≠ 0 then endsInPair (a + 4) r
    else match r with
      | [] => true
      | _ :: r => endsInPair (a + 8) r
  | a, none :: r => endsInPair (a + 4) r

/-- R91: the first word of a body that cannot be fetched. -/
def bodyFault (bs : Nat) (l : List (Option Nat)) : Option Nat :=
  (l.zipIdx.find? fun wi => wi.1.isNone).map fun wi => bs + 4 * wi.2

/-- R85: BEQ. -/
def doBeq (n : NullCode) (a b : Fin 16) (d : Fin 16384) (s : State) : Eff :=
  branch2 s n a b d (fun x y => decide (x = y))

/-- R85: the instruction. -/
def execBeq (n : NullCode) (a b : Fin 16) (d : Fin 16384) (s : State) : Host.Outcome State Fault Refusal := settle s (doBeq n a b d s)

/-- R85: BNE. -/
def doBne (n : NullCode) (a b : Fin 16) (d : Fin 16384) (s : State) : Eff :=
  branch2 s n a b d (fun x y => decide (x ≠ y))

/-- R85: the instruction. -/
def execBne (n : NullCode) (a b : Fin 16) (d : Fin 16384) (s : State) : Host.Outcome State Fault Refusal := settle s (doBne n a b d s)

/-- R85: BLT. -/
def doBlt (n : NullCode) (a b : Fin 16) (d : Fin 16384) (s : State) : Eff :=
  branch2 s n a b d (fun x y => x.slt y)

/-- R85: the instruction. -/
def execBlt (n : NullCode) (a b : Fin 16) (d : Fin 16384) (s : State) : Host.Outcome State Fault Refusal := settle s (doBlt n a b d s)

/-- R85: BGE. -/
def doBge (n : NullCode) (a b : Fin 16) (d : Fin 16384) (s : State) : Eff :=
  branch2 s n a b d (fun x y => !x.slt y)

/-- R85: the instruction. -/
def execBge (n : NullCode) (a b : Fin 16) (d : Fin 16384) (s : State) : Host.Outcome State Fault Refusal := settle s (doBge n a b d s)

/-- R85: BLTN. -/
def doBltn (n : NullCode) (a b : Fin 16) (d : Fin 16384) (s : State) : Eff :=
  branch2 s n a b d (fun x y => x.ult y)

/-- R85: the instruction. -/
def execBltn (n : NullCode) (a b : Fin 16) (d : Fin 16384) (s : State) : Host.Outcome State Fault Refusal := settle s (doBltn n a b d s)

/-- R85: BGEN. -/
def doBgen (n : NullCode) (a b : Fin 16) (d : Fin 16384) (s : State) : Eff :=
  branch2 s n a b d (fun x y => !x.ult y)

/-- R85: the instruction. -/
def execBgen (n : NullCode) (a b : Fin 16) (d : Fin 16384) (s : State) : Host.Outcome State Fault Refusal := settle s (doBgen n a b d s)

/-- R85: BZ. -/
def doBz (n : NullCode) (a : Fin 16) (d : Fin 16384) (s : State) : Eff :=
  branch2 s n a 0 d (fun x _ => decide (x = 0))

/-- R85: the instruction. -/
def execBz (n : NullCode) (a : Fin 16) (d : Fin 16384) (s : State) : Host.Outcome State Fault Refusal := settle s (doBz n a d s)

/-- R85: BNZ. -/
def doBnz (n : NullCode) (a : Fin 16) (d : Fin 16384) (s : State) : Eff :=
  branch2 s n a 0 d (fun x _ => decide (x ≠ 0))

/-- R85: the instruction. -/
def execBnz (n : NullCode) (a : Fin 16) (d : Fin 16384) (s : State) : Host.Outcome State Fault Refusal := settle s (doBnz n a d s)

/-- R88: J. -/
def doJ (d : Fin 16777216) (s : State) : Eff :=
  .done s (.branch true (jumpTarget s d) false)

/-- R88: the instruction. -/
def execJ (d : Fin 16777216) (s : State) : Host.Outcome State Fault Refusal := settle s (doJ d s)

/-- R88, R89: JL writes the link to s15. -/
def doJl (d : Fin 16777216) (s : State) : Eff :=
  ready s [15] <| .done (wrS 15 { val := linkOf s } s) (.branch true (jumpTarget s d) false)

/-- R88: the instruction. -/
def execJl (d : Fin 16777216) (s : State) : Host.Outcome State Fault Refusal := settle s (doJl d s)

/-- R88: JR. -/
def doJr (a : Fin 16) (s : State) : Eff :=
  jumpReg s a fun t => .done s (.branch true t false)

/-- R88: the instruction. -/
def execJr (a : Fin 16) (s : State) : Host.Outcome State Fault Refusal := settle s (doJr a s)

/-- R88, R89: JLR jumps to the old value, then writes the link to s15. -/
def doJlr (a : Fin 16) (s : State) : Eff :=
  ready s [15] <| jumpReg s a fun t => .done (wrS 15 { val := linkOf s } s) (.branch true t false)

/-- R88: the instruction. -/
def execJlr (a : Fin 16) (s : State) : Host.Outcome State Fault Refusal := settle s (doJlr a s)

/-- R73, R74, R90, R91: LOOP. -/
def doLoop (c : Fin 16) (n : Fin 64) (b : Fin 16) (w : Fin 4) (st : Fin 16) (s : State) : Eff :=
  static s (.loop c n b w st) <| ready s [c] <|
    let bs := seqAddr s s.focusTile s.focusCtx (opCtx s).pc
    let body := bodyWords s bs (n.val + 1)
    if body.any (fun x => bodyForbids (x.getD 0xC0000000)) || endsInPair bs body then fail .loopBodyForbidden
    else unpoisoned s [c] <|
      match bodyFault bs body with
      | some a => .trap (fetchTrap a)
      | none =>
        let count := (rdS s c).val.toNat % 2 ^ 32
        let l : LoopSt :=
          { bs := bs, len := n.val + 1, rem := count - 1, pass := 0, rotb := b.val, rotw := w.val, stride := st.val,
            words := body.map fun x => x.getD 0 }
        .done s (.loopStart l count)

/-- R73: the instruction. -/
def execLoop (c : Fin 16) (n : Fin 64) (b : Fin 16) (w : Fin 4) (st : Fin 16) (s : State) : Host.Outcome State Fault Refusal := settle s (doLoop c n b w st s)

end Sys2Proof.Machine
end

