-- ==== Sys2Proof/Machine/Hamper.lean ====
section
/-! DEFINITION. The RES group: claims, requests, releases (R243 to R250). -/

namespace Sys2Proof.Machine

/-- R245: CLAIM. Of two causes CLAIM_REPEATED comes first (DESIGN CHOICE, log 80). -/
def doClaim (a : Fin 16) (s : State) : Eff :=
  ready s [a] <| unpoisoned s [a] <|
    let w := (rdS s a).val
    if (cur s).claim.isSome then fail .claimRepeated
    else if !claimFits (curTile s) w then fail .claimImpossible
    else .done (modCur (fun y => { y with claim := some w }) s) .next

/-- R245: the instruction. -/
def execClaim (a : Fin 16) (s : State) : Host.Outcome State Fault Refusal := settle s (doClaim a s)

/-- R246: a request granted to the acting context. -/
def grantCur (w : Word) (s : State) : Word × State :=
  let g := grant s.time s.focusCtx w (curTile s)
  (g.1, setTile s.focusTile g.2 s)

/-- R247: a blocked request joins the tile's queue once. -/
def joinQueue (w : Word) (s : State) : State :=
  let c := s.focusCtx
  if (curTile s).acqq.any fun q => decide (q.1 = c) then s
  else countEvent s.focusTile c 18 1 (modCurTile (fun x => { x with acqq := x.acqq ++ [(c, w)] }) s)

/-- R246, R247: ACQ. -/
def doAcq (d a : Fin 16) (s : State) : Eff :=
  ready s [d, a] <| unpoisoned s [a] <|
    match (cur s).acqRes with
    | some v => .done (wrS d { val := v } (modCur (fun y => { y with acqRes := none }) s)) .next
    | none =>
      match hamperCheck (curTile s) s.focusCtx (rdS s a).val with
      | .error c => fail c
      | .ok r =>
        if r = 0 ∧ ¬(curTile s).acqq.any (fun q => decide (q.1 = s.focusCtx)) then
          let (v, s) := grantCur (rdS s a).val s
          .done (wrS d { val := v } s) .next
        else .wait (joinQueue (rdS s a).val s) .offcore

/-- R246: the instruction. -/
def execAcq (d a : Fin 16) (s : State) : Host.Outcome State Fault Refusal := settle s (doAcq d a s)

/-- R246, R250, R411, R412: ACQT; a logged 0 waits until the request can be granted. -/
def doAcqt (d a : Fin 16) (s : State) : Eff :=
  ready s [d, a] <| unpoisoned s [a] <|
    let w := (rdS s a).val
    match hamperCheck (curTile s) s.focusCtx w with
    | .error c => fail c
    | .ok r =>
      let g := grantCur w s
      let put (v : Word) (s : State) : Eff :=
        if wfld v 0 2 = 0 then
          let (v, s) := grantCur w s
          .done (wrS d { val := v } s) .next
        else .done (wrS d { val := v } (countEvent s.focusTile s.focusCtx 18 1 s)) .next
      logged s 4 0 put (if r = 0 then g.1 else BitVec.ofNat 64 r)
        (fun v => if wfld v 0 2 = 0 ∧ r ≠ 0 then some .offcore else none) put

/-- R246: the instruction. -/
def execAcqt (d a : Fin 16) (s : State) : Host.Outcome State Fault Refusal := settle s (doAcqt d a s)

/-- R249: a release goes on once nothing that still runs uses what it names. -/
def releaseWith (w : Word) (s : State) : Eff :=
  if releaseBusy s s.focusTile s.focusCtx w then .wait s .scoreboard
  else .done (modCurTile (releaseVector s.time s.focusCtx w) s) .next

/-- R249: REL. -/
def doRel (a : Fin 16) (s : State) : Eff :=
  ready s [a] <| unpoisoned s [a] <|
    let w := (rdS s a).val
    if wbit w 23 ∨ wfld w 28 36 ≠ 0 then fail .claimExceeded else releaseWith w s

/-- R249: the instruction. -/
def execRel (a : Fin 16) (s : State) : Host.Outcome State Fault Refusal := settle s (doRel a s)

/-- R249: RELALL: every name, every granule and every slot named. -/
def doRelall (s : State) : Eff := releaseWith everything s

/-- R249: the instruction. -/
def execRelall (s : State) : Host.Outcome State Fault Refusal := settle s (doRelall s)

/-- R248, R334: the virtual address of a granule through the launch's scratchpad window. -/
def granuleVa (s : State) (g : Nat) : Word :=
  match launchOf s (cur s).launch with
  | some l => BitVec.ofNat 64 (recField l 40 8 + s.focusTile * 2 ^ 19 + g * 4096)
  | none => 0

/-- R248: the quantity that a selector names. -/
def resqValue (s : State) (sel : Nat) : Word :=
  let x := curTile s
  let y := cur s
  if sel = 0 then countVector (holdings x s.focusCtx)
  else if sel = 1 then y.claim.getD 0
  else if sel = 2 then countVector (avail x)
  else if sel = 3 then BitVec.ofNat 64 (boundBits y)
  else if sel = 4 then
    BitVec.ofNat 64 ((List.range 4).foldl (fun m j => m + if holdsSlot x s.focusCtx j then 2 ^ j else 0) 0 +
      slotBits x s.focusCtx * 2 ^ 4)
  else if 64 ≤ sel then
    match y.granules[sel - 64]? with
    | some g => granuleVa s g
    | none => 0
  else 0

/-- R248: RESQ. -/
def doResq (d a : Fin 16) (s : State) : Eff :=
  ready s [d, a] <| unpoisoned s [a] <| .done (wrS d { val := resqValue s (rdS s a).val.toNat } s) .next

/-- R248: the instruction. -/
def execResq (d a : Fin 16) (s : State) : Host.Outcome State Fault Refusal := settle s (doResq d a s)

end Sys2Proof.Machine
end

