-- ==== Sys2Proof/Machine/Memory.lean ====
section
/-! DEFINITION. Scalar and row accesses, ROWACT and the atomics, as they issue (R113 to R116, R122 to R124). -/

namespace Sys2Proof.Machine

/-- R123: an atomic as it issues; `op` is the minor code of Table 5.3, `data2` the new value of ACAS. -/
def doAtomic (s : State) (i : Instr) (op : Nat) (d a b : Fin 16) (c : Option (Fin 16)) (z : ASize) : Eff :=
  let srcs := b :: c.toList
  static s i <| ready s (d :: a :: srcs) <|
    doAccess s (anyPoison s [a])
      { kind := .atomic, va := (rdS s a).val.toNat, size := asizeBytes z, dest := d.val, aop := op,
        data := BitVec.ofNat 512 ((rdS s b).val.toNat % 2 ^ (8 * asizeBytes z)),
        data2 := match c with | some r => (rdS s r).val | none => 0, poison := anyPoison s srcs }

/-- R113: LD, sign-extended. -/
def doLd (d a : Fin 16) (z : Size) (j : Fin 16384) (s : State) : Eff :=
  doLoad s (.ld d a z j) d [a] (dispAddr s a z j) (sizeBytes z) true

/-- R113: the instruction. -/
def execLd (d a : Fin 16) (z : Size) (j : Fin 16384) (s : State) : Host.Outcome State Fault Refusal := settle s (doLd d a z j s)

/-- R113: LDN, zero-extended. -/
def doLdn (d a : Fin 16) (z : Size) (j : Fin 16384) (s : State) : Eff :=
  doLoad s (.ldn d a z j) d [a] (dispAddr s a z j) (sizeBytes z) false

/-- R113: the instruction. -/
def execLdn (d a : Fin 16) (z : Size) (j : Fin 16384) (s : State) : Host.Outcome State Fault Refusal := settle s (doLdn d a z j s)

/-- R113: ST. -/
def doSt (d a : Fin 16) (z : Size) (j : Fin 16384) (s : State) : Eff :=
  doStore s (.st d a z j) d [a] (dispAddr s a z j) (sizeBytes z)

/-- R113: the instruction. -/
def execSt (d a : Fin 16) (z : Size) (j : Fin 16384) (s : State) : Host.Outcome State Fault Refusal := settle s (doSt d a z j s)

/-- R114: LDX. -/
def doLdx (d a b : Fin 16) (x n : Bool) (z : Size) (s : State) : Eff :=
  doLoad s (.ldx d a b x n z) d [a, b] (indexAddr s a b x z) (sizeBytes z) (!n)

/-- R114: the instruction. -/
def execLdx (d a b : Fin 16) (x n : Bool) (z : Size) (s : State) : Host.Outcome State Fault Refusal := settle s (doLdx d a b x n z s)

/-- R114: STX. -/
def doStx (d a b : Fin 16) (x : Bool) (z : Size) (s : State) : Eff :=
  doStore s (.stx d a b x z) d [a, b] (indexAddr s a b x z) (sizeBytes z)

/-- R114: the instruction. -/
def execStx (d a b : Fin 16) (x : Bool) (z : Size) (s : State) : Host.Outcome State Fault Refusal := settle s (doStx d a b x z s)

/-- R116: VLD. -/
def doVld (x b r : Fin 16) (d : Fin 4096) (s : State) : Eff :=
  static s (.vld x b r d) <| ready s [b] <| withName s x fun p => readyRows s [] [(p, r.val)] <|
    doAccess s (anyPoison s [b])
      { kind := .rowLoad, va := (rowAddr s b d).toNat, size := 64, dest := p, row := r.val }

/-- R116: the instruction. -/
def execVld (x b r : Fin 16) (d : Fin 4096) (s : State) : Host.Outcome State Fault Refusal := settle s (doVld x b r d s)

/-- R116: VST. -/
def doVst (x b r : Fin 16) (d : Fin 4096) (s : State) : Eff :=
  static s (.vst x b r d) <| ready s [b] <| withName s x fun p => readyRows s [(p, r.val)] [] <|
    let v := rdRow s p r.val
    doAccess (touchReg p s) (anyPoison s [b])
      { kind := .rowStore, va := (rowAddr s b d).toNat, size := 64, data := v.bits, poison := v.poison }

/-- R116: the instruction. -/
def execVst (x b r : Fin 16) (d : Fin 4096) (s : State) : Host.Outcome State Fault Refusal := settle s (doVst x b r d s)

/-- R122, R126: the row of an offset opened under a policy; a bank under refresh or in HOLD opens it when it is next available. -/
def openRowAt (t off : Nat) (pol : Pol) (s : State) : State :=
  let b := bankOf (rowNumber off)
  if refreshing s t b ∨ (tileOf s t).vault.hold ≠ .active then
    modTile t (fun x => { x with vault := { x.vault with opening := Sparse.set b (some (off, pol)) x.vault.opening } }) s
  else touchBank t off 1 pol s

/-- R122: ROWACT opens the row of an own-vault address, in HOLD only after it (R132; log 60); it has no effect on any other target, or
where any check of R109 but that of the base fails. -/
def doRowact (b : Fin 16) (d : Fin 4096) (s : State) : Eff :=
  static s (.rowact b d) <| ready s [b] <| unpoisoned s [b] <|
    let va := rowAddr s b d
    match checkAccess s (curView s) (.core (coreIx s.focusCtx)) va 1 1 false (prefixOf s).spc .row with
    | .ok r =>
      if r.tgt = .vault then
        .done (openRowAt s.focusTile (paOff r.pa) (prefixOf s).pol s) .next
      else .done s .next
    | .error _ => .done s .next

/-- R122: the instruction. -/
def execRowact (b : Fin 16) (d : Fin 4096) (s : State) : Host.Outcome State Fault Refusal := settle s (doRowact b d s)

/-- R123: AADD. -/
def doAadd (d a b : Fin 16) (z : ASize) (s : State) : Eff :=
  doAtomic s (.aadd d a b z) 0 d a b none z

/-- R123: the instruction. -/
def execAadd (d a b : Fin 16) (z : ASize) (s : State) : Host.Outcome State Fault Refusal := settle s (doAadd d a b z s)

/-- R123: AMIN. -/
def doAmin (d a b : Fin 16) (z : ASize) (s : State) : Eff :=
  doAtomic s (.amin d a b z) 1 d a b none z

/-- R123: the instruction. -/
def execAmin (d a b : Fin 16) (z : ASize) (s : State) : Host.Outcome State Fault Refusal := settle s (doAmin d a b z s)

/-- R123: AMAX. -/
def doAmax (d a b : Fin 16) (z : ASize) (s : State) : Eff :=
  doAtomic s (.amax d a b z) 2 d a b none z

/-- R123: the instruction. -/
def execAmax (d a b : Fin 16) (z : ASize) (s : State) : Host.Outcome State Fault Refusal := settle s (doAmax d a b z s)

/-- R123: AMINN. -/
def doAminn (d a b : Fin 16) (z : ASize) (s : State) : Eff :=
  doAtomic s (.aminn d a b z) 3 d a b none z

/-- R123: the instruction. -/
def execAminn (d a b : Fin 16) (z : ASize) (s : State) : Host.Outcome State Fault Refusal := settle s (doAminn d a b z s)

/-- R123: AMAXN. -/
def doAmaxn (d a b : Fin 16) (z : ASize) (s : State) : Eff :=
  doAtomic s (.amaxn d a b z) 4 d a b none z

/-- R123: the instruction. -/
def execAmaxn (d a b : Fin 16) (z : ASize) (s : State) : Host.Outcome State Fault Refusal := settle s (doAmaxn d a b z s)

/-- R123: AAND. -/
def doAand (d a b : Fin 16) (z : ASize) (s : State) : Eff :=
  doAtomic s (.aand d a b z) 5 d a b none z

/-- R123: the instruction. -/
def execAand (d a b : Fin 16) (z : ASize) (s : State) : Host.Outcome State Fault Refusal := settle s (doAand d a b z s)

/-- R123: AOR. -/
def doAor (d a b : Fin 16) (z : ASize) (s : State) : Eff :=
  doAtomic s (.aor d a b z) 6 d a b none z

/-- R123: the instruction. -/
def execAor (d a b : Fin 16) (z : ASize) (s : State) : Host.Outcome State Fault Refusal := settle s (doAor d a b z s)

/-- R123: AXOR. -/
def doAxor (d a b : Fin 16) (z : ASize) (s : State) : Eff :=
  doAtomic s (.axor d a b z) 7 d a b none z

/-- R123: the instruction. -/
def execAxor (d a b : Fin 16) (z : ASize) (s : State) : Host.Outcome State Fault Refusal := settle s (doAxor d a b z s)

/-- R123: ASWP. -/
def doAswp (d a b : Fin 16) (z : ASize) (s : State) : Eff :=
  doAtomic s (.aswp d a b z) 8 d a b none z

/-- R123: the instruction. -/
def execAswp (d a b : Fin 16) (z : ASize) (s : State) : Host.Outcome State Fault Refusal := settle s (doAswp d a b z s)

/-- R123: ACAS. -/
def doAcas (d a b c : Fin 16) (z : ASize) (s : State) : Eff :=
  doAtomic s (.acas d a b c z) 9 d a b (some c) z

/-- R123: the instruction. -/
def execAcas (d a b c : Fin 16) (z : ASize) (s : State) : Host.Outcome State Fault Refusal := settle s (doAcas d a b c z s)

/-- R123: AFADD. -/
def doAfadd (d a b : Fin 16) (z : ASize) (s : State) : Eff :=
  doAtomic s (.afadd d a b z) 10 d a b none z

/-- R123: the instruction. -/
def execAfadd (d a b : Fin 16) (z : ASize) (s : State) : Host.Outcome State Fault Refusal := settle s (doAfadd d a b z s)

/-- R123: AFMIN. -/
def doAfmin (d a b : Fin 16) (z : ASize) (s : State) : Eff :=
  doAtomic s (.afmin d a b z) 11 d a b none z

/-- R123: the instruction. -/
def execAfmin (d a b : Fin 16) (z : ASize) (s : State) : Host.Outcome State Fault Refusal := settle s (doAfmin d a b z s)

/-- R123: AFMAX. -/
def doAfmax (d a b : Fin 16) (z : ASize) (s : State) : Eff :=
  doAtomic s (.afmax d a b z) 12 d a b none z

/-- R123: the instruction. -/
def execAfmax (d a b : Fin 16) (z : ASize) (s : State) : Host.Outcome State Fault Refusal := settle s (doAfmax d a b z s)

end Sys2Proof.Machine
end

