-- ==== Sys2Proof/Machine/Rambler.lean ====
section
/-! DEFINITION. Rambler walks: taking up a walk, one rule step, continuations, and the agent's turn (R204, R206 to
R213). -/

namespace Sys2Proof.Machine

/-- R209: CRC-32C of one more byte. -/
def crcByte (c : Nat) (b : Nat) : Nat :=
  (List.range 8).foldl (fun c _ => if c % 2 = 1 then (c / 2) ^^^ 0x82F63B78 else c / 2) (c ^^^ b)

/-- R209: CRC-32C. -/
def crc32c (l : List Byte) : Nat := (l.foldl (fun c b => crcByte c b.toNat) 0xFFFFFFFF) ^^^ 0xFFFFFFFF

/-- R206: the record size of a walk block. -/
def walkSize (b : Nat) : Nat := 16 * (blk b 34 1 % 16 + 1)
/-- R206: the key length of a walk block. -/
def walkKl (b : Nat) : Nat := blk b 36 1 % 16 + 1
/-- R206: the key of a walk block as a number. -/
def walkKey (b : Nat) : Nat := blk b 16 (walkKl b)

/-- R212: a walk leaves the agent of tile `u`. -/
def dropWalk (u k : Nat) (s : State) : State :=
  modTile u (fun x => { x with walks := x.walks.filter fun w => decide (w.req.id ≠ k) }) s

/-- R208, R210: a walk ends with a reply. -/
def endWalk (u : Nat) (w : Walk) (r : Reply) (s : State) : State := dropWalk u w.req.id (sendReply u r s)

/-- The reply of a walk without data: its status, cause and aux, and the fetches made. -/
def walkReply (w : Walk) (code : Nat) (c : Cause) (aux : Word) : Reply := replyOf w.req code c 0 w.steps aux [] false

/-- R208: a walk returns bytes. -/
def walkOk (w : Walk) (bytes : List Byte) : Reply :=
  { replyOf w.req 1 .none_ 0 w.steps 0 bytes false with rply := blk w.req.block.toNat 56 8, wide := true }

/-- R210: what the policy of a fault class does with a cause. -/
def policyReply (w : Walk) (cls : Nat) (c : Cause) : Reply :=
  match blk w.req.block.toNat 35 1 / 4 ^ cls % 4 with
  | 2 => walkReply w 2 .none_ w.p
  | 1 => { walkReply w 5 c w.p with trap := true, trapCause := .traversal }
  | _ => walkReply w 5 c w.p

/-- R212: the 64 bytes of a continuation. -/
def contBlock (w : Walk) : Nat :=
  let q := w.req
  let v (i : Nat) : Nat := (Sparse.get 0 w.v i).toNat
  (q.view.tile + q.view.ctx * 2 ^ 11 + q.handle * 2 ^ 14 + w.rule * 2 ^ 17 + w.steps % 2 ^ 16 * 2 ^ 32 +
    q.seq.toNat % 2 ^ 16 * 2 ^ 48) + q.blockVa * 2 ^ 64 + w.p.toNat * 2 ^ 128 + v 0 * 2 ^ 192 + v 1 * 2 ^ 256 + v 2 * 2 ^ 320 +
    v 3 * 2 ^ 384

/-- R206, R208, R213: the walk that a request starts, from its block or its token. -/
def startOf (q : AReq) (b : Nat) : Walk :=
  match q.kind with
  | .travRes =>
    let k := q.token.toNat
    { req := q, rule := k / 2 ^ 17 % 16, p := BitVec.ofNat 64 (blk k 16 8), steps := k / 2 ^ 32 % 2 ^ 16,
      v := (List.range 4).map fun i => (i, BitVec.ofNat 64 (blk k (24 + 8 * i) 8)) }
  | .rpc _ | .trav | .gpool | .attn | .atomic | .copyEnd _ _ _ =>
    { req := q, rule := blk b 36 1 / 16, p := BitVec.ofNat 64 (blk b 8 8), v := [(0, BitVec.ofNat 64 (blk b 48 8))] }

/-- R212: an agent takes up a walk: it reads the walk block and the rule program afresh; a fault of them ends it. -/
def takeUp (u : Nat) (q : AReq) (mk : Nat → Walk) (s : State) : State :=
  let bad (c : Cause) (va : Nat) : State := sendReply u (faultReply q c (BitVec.ofNat 64 va)) s
  match ownPieces s q.view (.agent u) false (piecesOf q.blockVa 64) with
  | .error (.fault c, va) => bad c va
  | .error (_, va) => bad .xlateAbsent va
  | .ok l =>
    let b := readPieces s (agentKnows q.view u) l
    let ra := blk b.1 0 8
    match ownPieces s q.view (.agent u) false (piecesOf ra 128) with
    | .error (.fault c, va) => bad c va
    | .error (_, va) => bad .xlateAbsent va
    | .ok lr =>
      let r := readPieces s (agentKnows q.view u) lr
      if b.2 then bad .poisonConsumed q.blockVa
      else if r.2 then bad .poisonConsumed ra
      else
        let w := mk b.1
        let w := { w with req := { w.req with block := BitVec.ofNat 512 b.1 },
                          rules := (List.range 16).map fun i => BitVec.ofNat 64 (nth 64 r.1 i) }
        modTile u (fun x => { x with walks := x.walks ++ [w] }) s

/-- R204: the agent takes its next request: it performs an RPC as one step, and it takes up a walk. Lookups and
attention have steps of their own. -/
def agentServe (u : Nat) (s : State) : State :=
  match nextRequest u s with
  | (s1, none) => s1
  | (s1, some q) =>
    passEntry u s1 (match q.kind with
      | .rpc _ => serveHead u q s1
      | .trav | .travRes => servedBy u q (takeUp u q (startOf q) s1)
      | .atomic => serveAtomic u q s1
      | .copyEnd k l write => serveEnd u q k l write s1
      | .gpool | .attn => s1)

/-- R204: the step. -/
def execAgentServe (t : Nat) (s : State) : Host.Outcome State Fault Refusal := .next (agentServe t s)

/-- R24, VC2: whether an agent sent another a continuation before the one at the head of a list. -/
def contBefore (k u src : Nat) : List (Nat × Nat × Walk) → Bool
  | [] => false
  | c :: l => if c.1 = k then false else (decide (c.2.1 = u) && decide (c.2.2.src = src)) || contBefore k u src l

/-- R24, R212, R213: a continuation reaches the agent that owns its pointer, behind those sent there before it: the agent
takes up the walk, or, with its 32 slots full, answers PARTIAL with the token. -/
def continuationArrival (k : Nat) (s : State) : State :=
  match s.conts.find? fun c => decide (c.1 = k) with
  | none => s
  | some (_, u, w) =>
    if contBefore k u w.src s.conts then s else
    let s := { s with conts := s.conts.filter fun c => decide (c.1 ≠ k) }
    if ((tileOf s u).walks.filter fun w => w.slot).length ≥ 32 then
      sendReply u { replyOf w.req 4 .none_ 0 w.steps 0 (natBytes (contBlock w) 64) false with
        rply := blk w.req.block.toNat 56 8 } s
    else
      let q := { w.req with arrive := s.time }
      takeUp u q (fun _ => { w with req := q, slot := true, stall := none, kept := none, held := false, bank := none }) s

/-- R212: the step. -/
def execContinuationArrival (k : Nat) (s : State) : Host.Outcome State Fault Refusal := .next (continuationArrival k s)

/-- R207: whether a rule has a reserved value or a field past the record. -/
def ruleBad (r : Word) (size kl : Nat) : Bool :=
  decide (wfld r 60 4 ≥ 7) || decide (wfld r 48 4 ≠ 0) || decide (wfld r 0 8 ≠ 0) ||
  (decide (wfld r 60 4 ≠ 6) &&
    (decide (wfld r 52 5 * 8 + (if wbit r 59 then 8 else kl) > size) || (wbit r 15 && decide (wfld r 8 5 * 8 + 8 > size)))) ||
  (decide (wfld r 60 4 = 6) && decide (wfld r 45 3 ≠ 2) && decide (wfld r 45 3 ≠ 5))

/-- R207: whether an action has a reserved value or a field past the record. -/
def actBad (a size : Nat) : Bool :=
  decide (a / 2 ^ 13 ≥ 6) || decide (a % 4 ≠ 0) ||
  ((decide (a / 2 ^ 13 ≤ 1) || decide (a / 2 ^ 13 = 4)) && decide (a / 2 ^ 4 % 32 * 8 + 8 > size))

/-- Bytes [off, off + n) of a record as a number. -/
def recNat (l : List Byte) (off n : Nat) : Nat := bytesNat ((l.drop off).take n)

/-- R208: the action of a walk carried out: the walk that goes on, or its reply. -/
def walkAct (w : Walk) (a size : Nat) : Walk ⊕ Reply :=
  let l := w.kept.getD []
  let off := a / 2 ^ 4 % 32 * 8
  let f : Word := BitVec.ofNat 64 (recNat l off 8)
  let w' := { w with rule := a / 2 ^ 9 % 16 }
  if actBad a size then .inr (walkReply w 5 .traversal w.p)
  else match a / 2 ^ 13 with
    | 0 => .inl { w' with p := f, kept := none }
    | 1 => .inl { w' with p := f + Sparse.get 0 w.v (a / 2 ^ 2 % 4), kept := none }
    | 2 => .inl w'
    | 3 => .inr (walkOk w l)
    | 4 => .inr (walkOk w ((l.drop off).take 8))
    | _ => .inr (walkReply w 2 .none_ w.p)

/-- R208: the comparison of a rule on a kept record. -/
def ruleTrue (w : Walk) (r : Word) (b : Nat) : Bool :=
  let l := w.kept.getD []
  let ks := wbit r 59
  let f := recNat l (wfld r 52 5 * 8) (if ks then 8 else walkKl b)
  let k := if ks then (Sparse.get 0 w.v (wfld r 57 2)).toNat else walkKey b
  let m := (Sparse.get 0 w.v 3).toNat
  match wfld r 60 4 with
  | 0 => decide (f = k)
  | 1 => decide (f ≠ k)
  | 2 => decide (f < k)
  | 3 => decide (f > k)
  | 4 => decide (f &&& m = k &&& m)
  | _ => true

/-- What a fetch of a walk comes to. -/
inductive Fetched where
  | record (bytes : List Byte) (s : State)
  | ends (r : Reply)
  | other (u : Nat)
  | stays (s : State)

/-- R210: the fault class of a cause of translation. -/
def faultClass (c : Cause) : Nat := if c = .xlateAbsent then 1 else 0

/-- R208, R210, R211, R212: FetchRecord, with the bytes of one record in this agent's vault. -/
def fetchRecord (u : Nat) (w : Walk) (size : Nat) (s : State) : Fetched :=
  let v := w.req.view
  let p := w.p.toNat
  if p % 16 ≠ 0 then .ends (policyReply w 0 .align)
  else match resolve s v (.agent u) p false with
    | .error c => .ends (policyReply w (faultClass c) c)
    | .ok r =>
      match r.tgt with
      | .host | .peer => .ends (policyReply w 3 .targetForbidden)
      | .scratch | .control => .ends (policyReply w 0 .targetForbidden)
      | .vault =>
        if paTile r.pa ≠ u then .other (paTile r.pa)
        else match vaultPieces s v u false (piecesOf p size) with
          | .error (.fault _, va) =>
            (match resolve s v (.agent u) va false with
             | .error c => .ends (policyReply w (faultClass c) c)
             | .ok _ => .ends (policyReply w 0 .targetForbidden))
          | .error (.hold _, _) =>
            (match w.stall with
             | none => .stays (modTile u (fun x => { x with walks := x.walks.map fun y =>
                 if y.req.id = w.req.id then { y with stall := some s.time } else y }) s)
             | some b => if s.time ≥ b + Config.holdLimit then .ends (walkReply w 5 .rpcRemote w.p) else .stays s)
          | .error (.repair t row, _) =>
            .stays (reportRow t row (modTile u (fun x => { x with walks := x.walks.map fun y =>
              if y.req.id = w.req.id then { y with held := true, bank := some (bankOf row), stall := none } else y }) s))
          | .error (_, _) => .stays s
          | .ok l =>
            if !longWaited s w.req.arrive && l.any fun p => ownerWaits s u (bankOf (rowNumber (paOff p.1))) then .stays s else
            let s := openPieces u l (checkPieces l (agentFill v u p false s))
            let d := readPieces s (agentKnows v u) l
            if d.2 then .ends (policyReply w 2 .poisonConsumed) else .record (natBytes d.1 size) s

/-- R208: the walk after a step, or its end. -/
def settleWalk (u : Nat) (w : Walk) (o : Walk ⊕ Reply) (s : State) : State :=
  match o with
  | .inr r => endWalk u w r s
  | .inl w' => modTile u (fun x => { x with walks := x.walks.map fun y => if y.req.id = w.req.id then w' else y }) s

/-- R208: one rule of a walk. -/
def walkStep (u : Nat) (w : Walk) (s : State) : State :=
  let b := w.req.block.toNat
  let r := w.rules.getD w.rule 0
  let size := walkSize b
  if ruleBad r size (walkKl b) then endWalk u w (walkReply w 5 .traversal w.p) s
  else if wfld r 60 4 = 6 then
    let h := crc32c (natBytes (walkKey b) (walkKl b)) % blk b 40 4 * blk b 44 4
    let w' := { w with p := Sparse.get 0 w.v 0 + BitVec.ofNat 64 h, kept := none }
    settleWalk u w (walkAct w' (wfld r 32 16) size) s
  else
    let go (w' : Walk) (s : State) : State :=
      settleWalk u w (walkAct w' (if ruleTrue w' r b then wfld r 32 16 else wfld r 16 16) size) s
    match w.kept with
    | some _ => go w s
    | none =>
      if w.p = 0 then endWalk u w (walkReply w 2 .none_ 0) s
      else if w.steps ≥ blk b 32 2 then endWalk u w (walkReply w 3 .none_ w.p) s
      else match fetchRecord u w size s with
        | .ends rp => endWalk u w rp s
        | .stays s => s
        | .other t =>
          let (n, s) := freshId (dropWalk u w.req.id s)
          { s with conts := s.conts ++ [(n, t, { w with slot := false, stall := none, held := false, bank := none, src := u })] }
        | .record l s =>
          let v := if wbit r 15 then
              Sparse.set (wfld r 13 2) (BitVec.ofNat 64 (recNat l (wfld r 8 5 * 8) 8)) w.v else w.v
          go { w with kept := some l, steps := w.steps + 1, v := v, stall := none, held := false, bank := none } s

/-- R318: whether a walk must wait for a request or another walk that arrived before it and is held at a row under repair. -/
def behindHeld (x : Tile) (w : Walk) : Bool :=
  (heldNow x && x.agentq.head?.any fun q => decide (q.arrive < w.req.arrive)) ||
  x.walks.any fun y => y.held && decide (y.req.arrive < w.req.arrive)

/-- R208: walk `k` of an agent makes one step. -/
def ramblerStep (t k : Nat) (s : State) : State :=
  match (tileOf s t).walks[k]? with
  | none => s
  | some w => if behindHeld (tileOf s t) w then s else walkStep t w s

/-- R208: the step. -/
def execRamblerStep (t k : Nat) (s : State) : Host.Outcome State Fault Refusal := .next (ramblerStep t k s)

end Sys2Proof.Machine
end

