-- ==== Sys2Proof/Machine/Pool.lean ====
section
/-! DEFINITION. Gather-and-pool lookups and attention decode at the vault agent (R214 to R217). -/

namespace Sys2Proof.Machine

/-- R215, R210: a lookup or an attention command ends in a fault. -/
def endPool (u : Nat) (q : AReq) (r : Reply) (s : State) : State := servedBy u q (sendReply u r s)

/-- R215: the element `e` of a row at an address, as a number, with its flags. -/
def rowElem (t : Ty) (row e : Nat) : Num := (tyFmt t).decode (nth (tyWidth t) row e)

/-- R215: an f32 code as a number. -/
def f32Num (c : Nat) : Num := f32Fmt.decode c

/-- R215: one row pooled into the accumulator: codes and flags. -/
def poolRow (pool : Nat) (t : Ty) (rl : Nat) (w row : Nat) (acc : List Nat) : List Nat × Nat :=
  let l := acc.zipIdx.map fun ai =>
    let x := rowElem t row ai.2
    let p := mulNum (f32Num w) x
    if pool = 2 then
      let y := f32Fmt.round .ne p.1
      let m := maxNum (f32Num ai.1) (f32Num y.1)
      let z := f32Fmt.round .ne m.1
      (z.1, y.2 ||| p.2 ||| m.2 ||| z.2)
    else
      let v := sumNum .ne [f32Num ai.1, p.1]
      let z := f32Fmt.round .ne v.1
      (z.1, v.2 ||| p.2 ||| z.2)
  ((l.take rl).map fun x => x.1, (l.take rl).foldl (fun f x => f ||| x.2) 0)

/-- What the rows of a lookup come to. -/
structure Pooled where
  acc : List Nat := []
  flags : Nat := 0
  n : Nat := 0
  poison : Bool := false
  pas : List (Nat × Nat × Nat) := []

/-- R215: the result row, after the division of a mean, and its flags. -/
def poolEnd (pool : Nat) (r : Pooled) : List Nat × Nat :=
  if pool = 1 ∧ r.n ≠ 0 then
    let l := r.acc.map fun a =>
      let v := divNum (f32Num a) (Num.ofInt r.n)
      let z := f32Fmt.round .ne v.1
      (z.1, v.2 ||| z.2)
    (l.map fun x => x.1, l.foldl (fun f x => f ||| x.2) r.flags)
  else (r.acc, r.flags)

/-- R215: the indices in list order: the pooled rows, a reply that ends the command, or a hindrance. An index out of range is under
POL[1:0] (DESIGN CHOICE, log 79). -/
def poolAll (s : State) (q : AReq) (u : Nat) (idx wgt : Nat → Nat × Bool) :
    List Nat → Pooled → Except (Reply ⊕ (Hindrance × Nat)) Pooled
  | [], r => .ok r
  | i :: rest, r =>
    let b := q.block.toNat
    let t := (poolTy (blk b 34 1 % 16)).getD .f32
    let rl := blk b 32 2
    let pol := blk b 35 1
    let j := idx i
    let w := wgt i
    let skip (cls : Nat) (c : Cause) (aux : Word) : Except (Reply ⊕ (Hindrance × Nat)) Pooled :=
      match pol / 4 ^ cls % 4 with
      | 2 => .error (.inl (replyOf q 2 .none_ 0 r.n aux [] false))
      | 1 => .error (.inl { replyOf q 5 c 0 r.n aux [] false with trap := true, trapCause := .gather })
      | _ => .error (.inl (replyOf q 5 c 0 r.n aux [] false))
    if j.1 ≥ blk b 28 4 then
      if pol % 4 = 2 then poolAll s q u idx wgt rest r
      else skip 0 .gather (BitVec.ofNat 64 j.1)
    else
      let va := blk b 16 8 + j.1 * blk b 36 4
      let bytes := rl * (tyWidth t / 8)
      match vaultPieces s q.view u false (piecesOf va bytes) with
      | .error (.fault _, a) =>
        (match resolve s q.view (.agent u) a false with
         | .error c => skip (faultClass c) c (BitVec.ofNat 64 a)
         | .ok _ => skip 0 .targetForbidden (BitVec.ofNat 64 a))
      | .error (h, a) => .error (.inr (h, a))
      | .ok l =>
        let d := readPieces s (agentKnows q.view u) l
        if d.2 then skip 2 .poisonConsumed (BitVec.ofNat 64 va)
        else
          let v := poolRow (blk b 34 1 / 16 % 4) t rl w.1 d.1 r.acc
          poolAll s q u idx wgt rest
            { acc := v.1, flags := r.flags ||| v.2, n := r.n + 1, poison := r.poison || j.2 || w.2, pas := r.pas ++ l }

/-- A list of f32 codes as bytes. -/
def f32Bytes (l : List Nat) : List Byte := natBytes (packElems 32 l) (4 * l.length)

/-- Words of 32 bits read through pieces, with the poison of their segment. -/
def word32 (s : State) (l : List (Nat × Nat × Nat)) (v : Nat) (i : Nat) : Nat × Bool := (nth 32 v i, poisonOver s l (4 * i) 4)

/-- R215: a lookup carried out whole. -/
def servePool (u : Nat) (q : AReq) (s : State) : State :=
  let b := q.block.toNat
  let ni := blk b 24 4
  let pool := blk b 34 1 / 16 % 4
  match ownPieces s q.view (.agent u) false (piecesOf (blk b 0 8) (4 * ni)) with
  | .error (.fault c, va) => endPool u q (faultReply q c (BitVec.ofNat 64 va)) s
  | .error (_, _) => s
  | .ok li =>
    match (if blk b 8 8 = 0 then .ok [] else ownPieces s q.view (.agent u) false (piecesOf (blk b 8 8) (4 * ni))) with
    | .error (.fault c, va) => endPool u q (faultReply q c (BitVec.ofNat 64 va)) s
    | .error (_, _) => s
    | .ok lw =>
      let vi := (readPieces s (agentKnows q.view u) li).1
      let vw := (readPieces s (agentKnows q.view u) lw).1
      let one : Nat × Bool := (0x3F800000, false)
      let start : Pooled := { acc := List.replicate (blk b 32 2) (if pool = 2 then 0xFF800000 else 0) }
      match poolAll s q u (word32 s li vi) (if blk b 8 8 = 0 then fun _ => one else word32 s lw vw) (List.range ni) start with
      | .error (.inl r) => endPool u q r s
      | .error (.inr (h, va)) => hinderRpc u q h va s
      | .ok r =>
        let v := poolEnd pool r
        let s := openPieces u r.pas (checkPieces r.pas (agentFill q.view u (blk b 16 8) false s))
        endPool u q { replyOf q 1 .none_ (statusFlags v.2) r.n 0 (f32Bytes v.1) r.poison with rply := blk b 40 8, wide := true } s

/-- R215: the agent's next request, when it is a lookup, is carried out. -/
def gatherPool (u : Nat) (s : State) : State :=
  match nextRequest u s with
  | (s1, some q) => if q.kind = .gpool then passEntry u s1 (servePool u q s1) else s1
  | (s1, none) => s1

/-- R215: the step. -/
def execGatherPool (t : Nat) (s : State) : Host.Outcome State Fault Refusal := .next (gatherPool t s)

/-- An attention descriptor taken apart (R216). -/
structure Attn where
  d : Nat := 0
  qty : Ty := .f16
  kty : Ty := .f16
  hq : Nat := 1
  g : Nat := 1
  np : Nat := 0
  n : Nat := 0
  scale : Nat := 0
  ps : Nat := 0
  kb : Nat := 0
  vb : Nat := 0
  sc : Nat := 0

/-- R216: the fields of a descriptor. -/
def attnOf (b : Nat) : Attn :=
  let t := (attnTys (blk b 34 1)).getD (.f16, .f16)
  { d := blk b 32 2, qty := t.1, kty := t.2, hq := blk b 35 1 % 16 + 1, g := blk b 35 1 / 16 + 1, np := blk b 36 4,
    n := min (blk b 40 4) (blk b 44 4), scale := blk b 48 4, ps := blk b 52 4, kb := blk b 8 8, vb := blk b 16 8,
    sc := blk b 24 8 }

/-- R47: elements of one K-block; the whole head where no scale applies. -/
def Attn.blkLen (a : Attn) : Nat := match a.kty with | .fe8 => 64 | .q4 => 128 | _ => a.d

/-- R216: bytes of one key or value of a head. -/
def Attn.posBytes (a : Attn) : Nat := a.d * tyWidth a.kty / 8

/-- R47, R216: scales of one position. -/
def Attn.blocks (a : Attn) : Nat := (a.d + a.blkLen - 1) / a.blkLen

/-- R36, R216: element `d` of a key or value. -/
def Attn.elem (a : Attn) (row d : Nat) : Num :=
  if a.kty = .q4 then
    let p := decodeQ4 (nth 8 row (d / 2))
    Num.ofInt (if d % 2 = 0 then p.1 else p.2)
  else (tyFmt a.kty).decode (nth (tyWidth a.kty) row d)

/-- R216: the index of the scale of a block of a position of a KV head; values stand after the keys. -/
def Attn.scaleIx (a : Attn) (value : Bool) (g j k : Nat) : Nat :=
  (if value then ((a.hq + a.g - 1) / a.g) * a.np * a.blocks else 0) + (g * a.np + j) * a.d / a.blkLen + k

/-- R217: an exact number rounded to f32; a NaN comes with NV. -/
def rnd32 (v : Num × Nat) : Nat × Nat :=
  let r := f32Fmt.round .ne v.1
  (r.1, r.2 ||| v.2 ||| (if v.1.isNan then fNV else 0))

/-- The exact sum of products, with the flags of all. -/
def sumProducts (l : List (Num × Nat)) : Num × Nat :=
  let v := sumNum .ne (l.map fun x => x.1)
  (v.1, l.foldl (fun f x => f ||| x.2) v.2)

/-- An exact product of two results. -/
def timesNum (a b : Num × Nat) : Num × Nat := let v := mulNum a.1 b.1; (v.1, v.2 ||| a.2 ||| b.2)

/-- R217: E(t). -/
def expE (t : Num × Nat) : Nat × Nat :=
  let u := rnd32 (timesNum t (f32Num 0x3FB8AA3B, 0))
  let v := exp2Num (f32Num u.1)
  let r := rnd32 v
  (r.1, r.2 ||| u.2)

/-- R217: the state of one query head. -/
structure Head where
  m : Num := .inf true
  l : Nat := 0
  o : List Nat := []
  flags : Nat := 0

/-- R217: the score of a position. -/
def score (a : Attn) (q k : Nat) (sk : Nat → Num) : Nat × Nat :=
  let parts := (List.range a.blocks).map fun blk =>
    let ds := (List.range a.blkLen).map fun i => blk * a.blkLen + i
    let v := sumProducts (ds.map fun d => timesNum ((tyFmt a.qty).decode (nth 16 q d), 0) (a.elem k d, 0))
    timesNum (sk blk, 0) v
  rnd32 (timesNum (f32Num a.scale, 0) (sumProducts parts))

/-- R217: one block of up to 64 positions: `ks`, `vs` are their keys and values with the scales of their blocks. -/
def attnBlock (a : Attn) (q : Nat) (ks vs : List (Nat × (Nat → Num))) (h : Head) : Head :=
  let sc := ks.map fun k => score a q k.1 k.2
  let fl := sc.foldl (fun f x => f ||| x.2) h.flags
  let m' := sc.foldl (fun (m : Num × Nat) x => let v := maxNum m.1 (f32Num x.1); (v.1, m.2 ||| v.2)) (h.m, 0)
  if m'.1 = .inf true then { h with flags := fl ||| m'.2 }
  else
    let c := if h.m = .inf true then (0, 0) else expE (sumNum .ne [h.m, m'.1.negate])
    let p := sc.map fun x => expE (sumNum .ne [f32Num x.1, m'.1.negate])
    let fl := p.foldl (fun f x => f ||| x.2) (fl ||| m'.2 ||| c.2)
    let l := rnd32 (sumProducts (timesNum (f32Num h.l, 0) (f32Num c.1, 0) :: p.map fun x => (f32Num x.1, 0)))
    let o := h.o.zipIdx.map fun od =>
      rnd32 (sumProducts (timesNum (f32Num od.1, 0) (f32Num c.1, 0) ::
        (p.zip vs).map fun pv => timesNum (timesNum (f32Num pv.1.1, 0) (pv.2.2 (od.2 / a.blkLen), 0)) (a.elem pv.2.1 od.2, 0)))
    { m := m'.1, l := l.1, o := o.map fun x => x.1, flags := o.foldl (fun f x => f ||| x.2) (fl ||| l.2) }

/-- R217: all blocks of a head, `k` of them, from block `i` on. -/
def attnBlocks (a : Attn) (q : Nat) (key value : Nat → Nat × (Nat → Num)) : Nat → Nat → Head → Head
  | 0, _, h => h
  | k + 1, i, h =>
    let js := (List.range (min 64 (a.n - 64 * i))).map fun j => 64 * i + j
    attnBlocks a q key value k (i + 1) (attnBlock a q (js.map key) (js.map value) h)

/-- R217: the result of one query head. -/
def attnHead (a : Attn) (q : Nat) (key value : Nat → Nat × (Nat → Num)) : List Nat × Nat :=
  if a.n = 0 then (List.replicate a.d 0, 0)
  else
    let h := attnBlocks a q key value ((a.n + 63) / 64) 0 { o := List.replicate a.d 0 }
    let l := h.o.map fun o => rnd32 (divNum (f32Num o) (f32Num h.l))
    (l.map fun x => x.1, l.foldl (fun f x => f ||| x.2) h.flags)

/-- R216: the keys or the values of one KV head, by position: their pieces in the vault. -/
def cachePieces (s : State) (q : AReq) (u : Nat) (a : Attn) (base g : Nat) :
    List Nat → Except (Hindrance × Nat) (List (List (Nat × Nat × Nat)))
  | [] => .ok []
  | j :: r =>
    match vaultPieces s q.view u false (piecesOf (base + (g * a.np + j) * a.ps) a.posBytes) with
    | .error e => .error e
    | .ok l => match cachePieces s q u a base g r with
      | .error e => .error e
      | .ok m => .ok (l :: m)

/-- R216: the keys and the values of every KV head. -/
def allCaches (s : State) (q : AReq) (u : Nat) (a : Attn) :
    List Nat → Except (Hindrance × Nat) (List (List (List (Nat × Nat × Nat)) × List (List (Nat × Nat × Nat))))
  | [] => .ok []
  | g :: r =>
    match cachePieces s q u a a.kb g (List.range a.n), cachePieces s q u a a.vb g (List.range a.n), allCaches s q u a r with
    | .ok k, .ok v, .ok m => .ok ((k, v) :: m)
    | .error e, _, _ => .error e
    | _, .error e, _ => .error e
    | _, _, .error e => .error e

/-- R216, R217: the scales of the positions attended, in the agent's vault; none for f16. -/
def scalePieces (s : State) (q : AReq) (u : Nat) (a : Attn) : Except (Hindrance × Nat) (List (Nat × Nat × Nat)) :=
  if a.kty = .f16 ∨ a.n = 0 then .ok []
  else
    let runs := [false, true].flatMap fun value => (List.range ((a.hq + a.g - 1) / a.g)).flatMap fun g =>
      let off := 2 * a.scaleIx value g 0 0
      (piecesOf (a.sc + off) (2 * a.n * a.blocks)).map fun p => (p.1, off + p.2.1, p.2.2)
    vaultPieces s q.view u false runs

/-- R216, R217: an attention command carried out whole. -/
def serveAttn (u : Nat) (q : AReq) (s : State) : State :=
  let b := q.block.toNat
  let a := attnOf b
  let kv := (a.hq + a.g - 1) / a.g
  match ownPieces s q.view (.agent u) false (piecesOf (blk b 0 8) (2 * a.hq * a.d)) with
  | .error (.fault c, va) => endPool u q (faultReply q c (BitVec.ofNat 64 va)) s
  | .error (_, _) => s
  | .ok lq =>
    match scalePieces s q u a, allCaches s q u a (List.range kv) with
    | .error (h, va), _ => hinderRpc u q h va s
    | _, .error (h, va) => hinderRpc u q h va s
    | .ok ls, .ok caches =>
      let pas := ls ++ caches.flatMap fun kv => (kv.1 ++ kv.2).flatMap id
      let s := openPieces u pas (checkPieces pas (agentFill q.view u a.kb false s))
      let vq := (readPieces s (agentKnows q.view u) lq).1
      let sv := (readPieces s (agentKnows q.view u) ls).1
      let scale (value : Bool) (g j k : Nat) : Num :=
        if a.kty = .f16 then .fin false 1 0 else bf16Fmt.decode (nth 16 sv (a.scaleIx value g j k))
      let rows (l : List (List (Nat × Nat × Nat))) : List Nat := l.map fun p => (readPieces s (agentKnows q.view u) p).1
      let heads := (List.range a.hq).map fun h =>
        let g := h / a.g
        let c := caches.getD g ([], [])
        let ks := rows c.1
        let vs := rows c.2
        attnHead a (vq / 2 ^ (16 * a.d * h) % 2 ^ (16 * a.d)) (fun j => (ks.getD j 0, scale false g j))
          (fun j => (vs.getD j 0, scale true g j))
      let out := heads.flatMap fun h => h.1
      let poison := (readPieces s (agentKnows q.view u) lq).2 || pas.any fun p => segPoison s p.1
      endPool u q { replyOf q 1 .none_ (statusFlags (heads.foldl (fun f h => f ||| h.2) 0)) a.n 0 (f32Bytes out) poison with
        rply := blk b 56 8, wide := true } s

/-- R217: the agent's next request, when it is an attention command, is carried out. -/
def attentionDecode (u : Nat) (s : State) : State :=
  match nextRequest u s with
  | (s1, some q) => if q.kind = .attn then passEntry u s1 (serveAttn u q s1) else s1
  | (s1, none) => s1

/-- R217: the step. -/
def execAttentionDecode (t : Nat) (s : State) : Host.Outcome State Fault Refusal := .next (attentionDecode t s)

end Sys2Proof.Machine
end

