-- ==== Sys2Proof/Machine/Scalar.lean ====
section
/-! DEFINITION. The scalar integer and floating-point instructions (R81 to R83, R93 to R101). -/

namespace Sys2Proof.Machine

/-- R83: a result of two scalars, poisoned when either is. -/
def scalar2 (s : State) (d a b : Fin 16) (f : Word → Word → Word) : Eff :=
  ready s [d, a, b] <|
    .done (wrS d { val := f (rdS s a).val (rdS s b).val, poison := anyPoison s [a, b] } s) .next

/-- R83: a result of one scalar. -/
def scalar1 (s : State) (d a : Fin 16) (f : Word → Word) : Eff :=
  ready s [d, a] <| .done (wrS d { val := f (rdS s a).val, poison := (rdS s a).poison } s) .next

/-- The value 1 or 0. -/
def word01 (b : Bool) : Word := if b then 1 else 0

/-- Table 4.6: the shift amount b[5:0]. -/
def shiftOf (b : Word) : Nat := b.toNat % 64

/-- Table 4.6: leading zero bits, from bit `n - 1` down. -/
def leadZeros (w : Word) : Nat → Nat
  | 0 => 0
  | n + 1 => if wbit w n then 0 else 1 + leadZeros w n

/-- Table 4.6: trailing zero bits, `n` of them at most, from bit `i` up. -/
def trailZeros (w : Word) : Nat → Nat → Nat
  | 0, _ => 0
  | n + 1, i => if wbit w i then 0 else 1 + trailZeros w n (i + 1)

/-- Table 4.7: the quotient truncated toward zero; −1 for a zero divisor. -/
def divWord (a b : Word) : Word := if b = 0 then -1 else wordOf (Int.tdiv a.toInt b.toInt)

/-- Table 4.7: the unsigned quotient; all ones for a zero divisor. -/
def divnWord (a b : Word) : Word := if b = 0 then -1 else BitVec.ofNat 64 (a.toNat / b.toNat)

/-- R95: IMM16 extended as two's complement. -/
def immS (i : Fin 65536) : Word := wordOf (sext 16 i.val)

/-- R95: IMM16 extended with zeros. -/
def immZ (i : Fin 65536) : Word := BitVec.ofNat 64 i.val

/-- R96: the format of a precision. -/
def precFmt : Prec → Fmt
  | .f32 => f32Fmt
  | .f64 => f64Fmt

/-- R31: the operand of a precision that a scalar holds. -/
def precNum (p : Prec) (w : Word) : Num :=
  match p with
  | .f32 => f32Fmt.decode (w.toNat % 2 ^ 32)
  | .f64 => f64Fmt.decode w.toNat

/-- R43, Table 2.6: the rounding mode in FPMODE. -/
def fpMode (s : State) : Mode :=
  match wfld (opCtx s).fpmode 0 3 with
  | 1 => .tz
  | 2 => .up
  | 3 => .dn
  | _ => .ne

/-- R31, R45, R46, R96: a float result with its flags. -/
def putFloat (s : State) (d : Fin 16) (code flags : Nat) (poison : Bool) : Eff :=
  .done (raiseFp flags (wrS d { val := BitVec.ofNat 64 code, poison := poison } s)) .next

/-- R96: a result of two floats, rounded once. -/
def float2 (s : State) (d a b : Fin 16) (p : Prec) (f : Num → Num → Num × Nat) : Eff :=
  ready s [d, a, b] <|
    let v := f (precNum p (rdS s a).val) (precNum p (rdS s b).val)
    let r := (precFmt p).round (fpMode s) v.1
    putFloat s d r.1 (r.2 ||| v.2) (anyPoison s [a, b])

/-- R97, Table 4.10: an FCMP predicate and its flags. -/
def fcmpHolds (c : FcmpPred) (a b : Num) : Bool × Nat :=
  let un := a.isNan || b.isNan
  let sig := sigFlags a ||| sigFlags b
  match c with
  | .eq => (eqNum a b, sig)
  | .lt => (ltValue a b, flagIf un fNV)
  | .le => (ltValue a b || eqNum a b, flagIf un fNV)
  | .un => (un, sig)
  | .ne => (!eqNum a b, sig)

/-- R40, R99: a float converted to an integer of a range. -/
def cvtToInt (mode : Mode) (lo hi : Int) (x : Num) : Nat × Nat :=
  let r := toInteger mode lo hi x
  (codeOf 64 r.1, r.2)

/-- R99, Table 2.7: a number converted to a float format. -/
def cvtToFloat (f : Fmt) (mode : Mode) (x : Num) : Nat × Nat :=
  let r := f.round mode x
  (r.1, r.2 ||| sigFlags x)

/-- R99, Table 4.11: a conversion. -/
def cvtScalar (c : FcvtOp) (mode : Mode) (w : Word) : Nat × Nat :=
  let a := f32Fmt.decode (w.toNat % 2 ^ 32)
  let b := f64Fmt.decode w.toNat
  match c with
  | .f64f32 => cvtToFloat f64Fmt mode a
  | .f32f64 => cvtToFloat f32Fmt mode b
  | .i64f32 => cvtToInt mode (-(2 ^ 63)) (2 ^ 63 - 1) a
  | .i64f64 => cvtToInt mode (-(2 ^ 63)) (2 ^ 63 - 1) b
  | .n64f32 => cvtToInt mode 0 (2 ^ 64 - 1) a
  | .n64f64 => cvtToInt mode 0 (2 ^ 64 - 1) b
  | .i32f32 => cvtToInt mode (-(2 ^ 31)) (2 ^ 31 - 1) a
  | .i32f64 => cvtToInt mode (-(2 ^ 31)) (2 ^ 31 - 1) b
  | .f32i64 => cvtToFloat f32Fmt mode (Num.ofInt w.toInt)
  | .f64i64 => cvtToFloat f64Fmt mode (Num.ofInt w.toInt)
  | .f32n64 => cvtToFloat f32Fmt mode (Num.ofInt w.toNat)
  | .f64n64 => cvtToFloat f64Fmt mode (Num.ofInt w.toNat)

/-- R100: the bit of the class of a code. -/
def classBit (f : Fmt) (c : Nat) : Nat :=
  let sub := decide (c / 2 ^ f.fb % 2 ^ f.eb = 0)
  match f.decode c with
  | .nan sig => if sig then 8 else 9
  | .inf neg => if neg then 0 else 7
  | .fin neg m _ =>
    if m = 0 then (if neg then 3 else 4)
    else if neg then (if sub then 2 else 1)
    else (if sub then 5 else 6)

/-- R101: the exact product, negated with NP, plus c. -/
def fmaNum (mode : Mode) (neg : Bool) (a b c : Num) : Num × Nat :=
  let p := mulNum a b
  let x := if neg then p.1.negate else p.1
  let r := sumNum mode [x, c]
  (r.1, r.2 ||| p.2)

/-- R93, Table 4.6: ADD. -/
def doAdd (d a b : Fin 16) (s : State) : Eff :=
  scalar2 s d a b (fun a b => a + b)

/-- R93, Table 4.6: the instruction. -/
def execAdd (d a b : Fin 16) (s : State) : Host.Outcome State Fault Refusal := settle s (doAdd d a b s)

/-- R93, Table 4.6: SUB. -/
def doSub (d a b : Fin 16) (s : State) : Eff :=
  scalar2 s d a b (fun a b => a - b)

/-- R93, Table 4.6: the instruction. -/
def execSub (d a b : Fin 16) (s : State) : Host.Outcome State Fault Refusal := settle s (doSub d a b s)

/-- R93, Table 4.6: AND. -/
def doAnd (d a b : Fin 16) (s : State) : Eff :=
  scalar2 s d a b (fun a b => a &&& b)

/-- R93, Table 4.6: the instruction. -/
def execAnd (d a b : Fin 16) (s : State) : Host.Outcome State Fault Refusal := settle s (doAnd d a b s)

/-- R93, Table 4.6: OR. -/
def doOr (d a b : Fin 16) (s : State) : Eff :=
  scalar2 s d a b (fun a b => a ||| b)

/-- R93, Table 4.6: the instruction. -/
def execOr (d a b : Fin 16) (s : State) : Host.Outcome State Fault Refusal := settle s (doOr d a b s)

/-- R93, Table 4.6: XOR. -/
def doXor (d a b : Fin 16) (s : State) : Eff :=
  scalar2 s d a b (fun a b => a ^^^ b)

/-- R93, Table 4.6: the instruction. -/
def execXor (d a b : Fin 16) (s : State) : Host.Outcome State Fault Refusal := settle s (doXor d a b s)

/-- R93, Table 4.6: ANDN. -/
def doAndn (d a b : Fin 16) (s : State) : Eff :=
  scalar2 s d a b (fun a b => a &&& ~~~b)

/-- R93, Table 4.6: the instruction. -/
def execAndn (d a b : Fin 16) (s : State) : Host.Outcome State Fault Refusal := settle s (doAndn d a b s)

/-- R93, Table 4.6: SHL. -/
def doShl (d a b : Fin 16) (s : State) : Eff :=
  scalar2 s d a b (fun a b => a <<< shiftOf b)

/-- R93, Table 4.6: the instruction. -/
def execShl (d a b : Fin 16) (s : State) : Host.Outcome State Fault Refusal := settle s (doShl d a b s)

/-- R93, Table 4.6: SHR. -/
def doShr (d a b : Fin 16) (s : State) : Eff :=
  scalar2 s d a b (fun a b => a >>> shiftOf b)

/-- R93, Table 4.6: the instruction. -/
def execShr (d a b : Fin 16) (s : State) : Host.Outcome State Fault Refusal := settle s (doShr d a b s)

/-- R93, Table 4.6: SHRA. -/
def doShra (d a b : Fin 16) (s : State) : Eff :=
  scalar2 s d a b (fun a b => a.sshiftRight (shiftOf b))

/-- R93, Table 4.6: the instruction. -/
def execShra (d a b : Fin 16) (s : State) : Host.Outcome State Fault Refusal := settle s (doShra d a b s)

/-- R93, Table 4.6: ROTL. -/
def doRotl (d a b : Fin 16) (s : State) : Eff :=
  scalar2 s d a b (fun a b => a.rotateLeft (shiftOf b))

/-- R93, Table 4.6: the instruction. -/
def execRotl (d a b : Fin 16) (s : State) : Host.Outcome State Fault Refusal := settle s (doRotl d a b s)

/-- R93, Table 4.6: MIN. -/
def doMin (d a b : Fin 16) (s : State) : Eff :=
  scalar2 s d a b (fun a b => if a.slt b then a else b)

/-- R93, Table 4.6: the instruction. -/
def execMin (d a b : Fin 16) (s : State) : Host.Outcome State Fault Refusal := settle s (doMin d a b s)

/-- R93, Table 4.6: MAX. -/
def doMax (d a b : Fin 16) (s : State) : Eff :=
  scalar2 s d a b (fun a b => if a.slt b then b else a)

/-- R93, Table 4.6: the instruction. -/
def execMax (d a b : Fin 16) (s : State) : Host.Outcome State Fault Refusal := settle s (doMax d a b s)

/-- R93, Table 4.6: MINN. -/
def doMinn (d a b : Fin 16) (s : State) : Eff :=
  scalar2 s d a b (fun a b => if a.ult b then a else b)

/-- R93, Table 4.6: the instruction. -/
def execMinn (d a b : Fin 16) (s : State) : Host.Outcome State Fault Refusal := settle s (doMinn d a b s)

/-- R93, Table 4.6: MAXN. -/
def doMaxn (d a b : Fin 16) (s : State) : Eff :=
  scalar2 s d a b (fun a b => if a.ult b then b else a)

/-- R93, Table 4.6: the instruction. -/
def execMaxn (d a b : Fin 16) (s : State) : Host.Outcome State Fault Refusal := settle s (doMaxn d a b s)

/-- R93, Table 4.6: SEQ. -/
def doSeq (d a b : Fin 16) (s : State) : Eff :=
  scalar2 s d a b (fun a b => word01 (decide (a = b)))

/-- R93, Table 4.6: the instruction. -/
def execSeq (d a b : Fin 16) (s : State) : Host.Outcome State Fault Refusal := settle s (doSeq d a b s)

/-- R93, Table 4.6: SNE. -/
def doSne (d a b : Fin 16) (s : State) : Eff :=
  scalar2 s d a b (fun a b => word01 (decide (a ≠ b)))

/-- R93, Table 4.6: the instruction. -/
def execSne (d a b : Fin 16) (s : State) : Host.Outcome State Fault Refusal := settle s (doSne d a b s)

/-- R93, Table 4.6: SLT. -/
def doSlt (d a b : Fin 16) (s : State) : Eff :=
  scalar2 s d a b (fun a b => word01 (a.slt b))

/-- R93, Table 4.6: the instruction. -/
def execSlt (d a b : Fin 16) (s : State) : Host.Outcome State Fault Refusal := settle s (doSlt d a b s)

/-- R93, Table 4.6: SLTN. -/
def doSltn (d a b : Fin 16) (s : State) : Eff :=
  scalar2 s d a b (fun a b => word01 (a.ult b))

/-- R93, Table 4.6: the instruction. -/
def execSltn (d a b : Fin 16) (s : State) : Host.Outcome State Fault Refusal := settle s (doSltn d a b s)

/-- R93, Table 4.6: SEL, poisoned by the selector and by the chosen operand. -/
def doSel (d a b c : Fin 16) (s : State) : Eff :=
  ready s [d, a, b, c] <|
    let x := if (rdS s c).val ≠ 0 then rdS s a else rdS s b
    .done (wrS d { val := x.val, poison := (rdS s c).poison || x.poison } s) .next

/-- R93, Table 4.6: the instruction. -/
def execSel (d a b c : Fin 16) (s : State) : Host.Outcome State Fault Refusal := settle s (doSel d a b c s)

/-- R93, Table 4.6: CLZ. -/
def doClz (d a : Fin 16) (s : State) : Eff :=
  scalar1 s d a (fun a => BitVec.ofNat 64 (leadZeros a 64))

/-- R93, Table 4.6: the instruction. -/
def execClz (d a : Fin 16) (s : State) : Host.Outcome State Fault Refusal := settle s (doClz d a s)

/-- R93, Table 4.6: CTZ. -/
def doCtz (d a : Fin 16) (s : State) : Eff :=
  scalar1 s d a (fun a => BitVec.ofNat 64 (trailZeros a 64 0))

/-- R93, Table 4.6: the instruction. -/
def execCtz (d a : Fin 16) (s : State) : Host.Outcome State Fault Refusal := settle s (doCtz d a s)

/-- R93, Table 4.6: POPC. -/
def doPopc (d a : Fin 16) (s : State) : Eff :=
  scalar1 s d a (fun a => BitVec.ofNat 64 (popBits a.toNat 64))

/-- R93, Table 4.6: the instruction. -/
def execPopc (d a : Fin 16) (s : State) : Host.Outcome State Fault Refusal := settle s (doPopc d a s)

/-- R93, Table 4.6: MOV. -/
def doMov (d a : Fin 16) (s : State) : Eff :=
  scalar1 s d a (fun a => a)

/-- R93, Table 4.6: the instruction. -/
def execMov (d a : Fin 16) (s : State) : Host.Outcome State Fault Refusal := settle s (doMov d a s)

/-- R94, Table 4.7: MUL. -/
def doMul (d a b : Fin 16) (s : State) : Eff :=
  scalar2 s d a b (fun a b => a * b)

/-- R94, Table 4.7: the instruction. -/
def execMul (d a b : Fin 16) (s : State) : Host.Outcome State Fault Refusal := settle s (doMul d a b s)

/-- R94, Table 4.7: MULH. -/
def doMulh (d a b : Fin 16) (s : State) : Eff :=
  scalar2 s d a b (fun a b => wordOf (a.toInt * b.toInt / 2 ^ 64))

/-- R94, Table 4.7: the instruction. -/
def execMulh (d a b : Fin 16) (s : State) : Host.Outcome State Fault Refusal := settle s (doMulh d a b s)

/-- R94, Table 4.7: MULHN. -/
def doMulhn (d a b : Fin 16) (s : State) : Eff :=
  scalar2 s d a b (fun a b => BitVec.ofNat 64 (a.toNat * b.toNat / 2 ^ 64))

/-- R94, Table 4.7: the instruction. -/
def execMulhn (d a b : Fin 16) (s : State) : Host.Outcome State Fault Refusal := settle s (doMulhn d a b s)

/-- R94, Table 4.7: DIV. -/
def doDiv (d a b : Fin 16) (s : State) : Eff :=
  scalar2 s d a b divWord

/-- R94, Table 4.7: the instruction. -/
def execDiv (d a b : Fin 16) (s : State) : Host.Outcome State Fault Refusal := settle s (doDiv d a b s)

/-- R94, Table 4.7: DIVN. -/
def doDivn (d a b : Fin 16) (s : State) : Eff :=
  scalar2 s d a b divnWord

/-- R94, Table 4.7: the instruction. -/
def execDivn (d a b : Fin 16) (s : State) : Host.Outcome State Fault Refusal := settle s (doDivn d a b s)

/-- R94, Table 4.7: REM. -/
def doRem (d a b : Fin 16) (s : State) : Eff :=
  scalar2 s d a b (fun a b => a - b * divWord a b)

/-- R94, Table 4.7: the instruction. -/
def execRem (d a b : Fin 16) (s : State) : Host.Outcome State Fault Refusal := settle s (doRem d a b s)

/-- R94, Table 4.7: REMN. -/
def doRemn (d a b : Fin 16) (s : State) : Eff :=
  scalar2 s d a b (fun a b => a - b * divnWord a b)

/-- R94, Table 4.7: the instruction. -/
def execRemn (d a b : Fin 16) (s : State) : Host.Outcome State Fault Refusal := settle s (doRemn d a b s)

/-- R95, Table 4.8: ADDI. -/
def doAddi (d a : Fin 16) (i : Fin 65536) (s : State) : Eff :=
  scalar1 s d a (fun a => a + immS i)

/-- R95, Table 4.8: the instruction. -/
def execAddi (d a : Fin 16) (i : Fin 65536) (s : State) : Host.Outcome State Fault Refusal := settle s (doAddi d a i s)

/-- R95, Table 4.8: ANDI. -/
def doAndi (d a : Fin 16) (i : Fin 65536) (s : State) : Eff :=
  scalar1 s d a (fun a => a &&& immS i)

/-- R95, Table 4.8: the instruction. -/
def execAndi (d a : Fin 16) (i : Fin 65536) (s : State) : Host.Outcome State Fault Refusal := settle s (doAndi d a i s)

/-- R95, Table 4.8: ORI. -/
def doOri (d a : Fin 16) (i : Fin 65536) (s : State) : Eff :=
  scalar1 s d a (fun a => a ||| immZ i)

/-- R95, Table 4.8: the instruction. -/
def execOri (d a : Fin 16) (i : Fin 65536) (s : State) : Host.Outcome State Fault Refusal := settle s (doOri d a i s)

/-- R95, Table 4.8: XORI. -/
def doXori (d a : Fin 16) (i : Fin 65536) (s : State) : Eff :=
  scalar1 s d a (fun a => a ^^^ immZ i)

/-- R95, Table 4.8: the instruction. -/
def execXori (d a : Fin 16) (i : Fin 65536) (s : State) : Host.Outcome State Fault Refusal := settle s (doXori d a i s)

/-- R95, Table 4.8: SLTI. -/
def doSlti (d a : Fin 16) (i : Fin 65536) (s : State) : Eff :=
  scalar1 s d a (fun a => word01 (a.slt (immS i)))

/-- R95, Table 4.8: the instruction. -/
def execSlti (d a : Fin 16) (i : Fin 65536) (s : State) : Host.Outcome State Fault Refusal := settle s (doSlti d a i s)

/-- R95, Table 4.8: LIH. -/
def doLih (d a : Fin 16) (i : Fin 65536) (s : State) : Eff :=
  scalar1 s d a (fun a => a * 65536 + immZ i)

/-- R95, Table 4.8: the instruction. -/
def execLih (d a : Fin 16) (i : Fin 65536) (s : State) : Host.Outcome State Fault Refusal := settle s (doLih d a i s)

/-- R95, Table 4.8: SHLI. -/
def doShli (d a : Fin 16) (i : Fin 64) (s : State) : Eff :=
  scalar1 s d a (fun a => a <<< i.val)

/-- R95, Table 4.8: the instruction. -/
def execShli (d a : Fin 16) (i : Fin 64) (s : State) : Host.Outcome State Fault Refusal := settle s (doShli d a i s)

/-- R95, Table 4.8: SHRI. -/
def doShri (d a : Fin 16) (i : Fin 64) (s : State) : Eff :=
  scalar1 s d a (fun a => a >>> i.val)

/-- R95, Table 4.8: the instruction. -/
def execShri (d a : Fin 16) (i : Fin 64) (s : State) : Host.Outcome State Fault Refusal := settle s (doShri d a i s)

/-- R95, Table 4.8: SHRAI. -/
def doShrai (d a : Fin 16) (i : Fin 64) (s : State) : Eff :=
  scalar1 s d a (fun a => a.sshiftRight i.val)

/-- R95, Table 4.8: the instruction. -/
def execShrai (d a : Fin 16) (i : Fin 64) (s : State) : Host.Outcome State Fault Refusal := settle s (doShrai d a i s)

/-- R95, Table 4.8: LI, never poisoned. -/
def doLi (d : Fin 16) (i : Fin 65536) (s : State) : Eff :=
  ready s [d] <| .done (wrS d { val := immS i } s) .next

/-- R95, Table 4.8: the instruction. -/
def execLi (d : Fin 16) (i : Fin 65536) (s : State) : Host.Outcome State Fault Refusal := settle s (doLi d i s)

/-- R96, Table 4.9: FADD. -/
def doFadd (d a b : Fin 16) (p : Prec) (s : State) : Eff :=
  float2 s d a b p (fun x y => sumNum (fpMode s) [x, y])

/-- R96, Table 4.9: the instruction. -/
def execFadd (d a b : Fin 16) (p : Prec) (s : State) : Host.Outcome State Fault Refusal := settle s (doFadd d a b p s)

/-- R96, Table 4.9: FSUB. -/
def doFsub (d a b : Fin 16) (p : Prec) (s : State) : Eff :=
  float2 s d a b p (fun x y => sumNum (fpMode s) [x, y.negate])

/-- R96, Table 4.9: the instruction. -/
def execFsub (d a b : Fin 16) (p : Prec) (s : State) : Host.Outcome State Fault Refusal := settle s (doFsub d a b p s)

/-- R96, Table 4.9: FMUL. -/
def doFmul (d a b : Fin 16) (p : Prec) (s : State) : Eff :=
  float2 s d a b p mulNum

/-- R96, Table 4.9: the instruction. -/
def execFmul (d a b : Fin 16) (p : Prec) (s : State) : Host.Outcome State Fault Refusal := settle s (doFmul d a b p s)

/-- R96, Table 4.9: FDIV. -/
def doFdiv (d a b : Fin 16) (p : Prec) (s : State) : Eff :=
  float2 s d a b p divNum

/-- R96, Table 4.9: the instruction. -/
def execFdiv (d a b : Fin 16) (p : Prec) (s : State) : Host.Outcome State Fault Refusal := settle s (doFdiv d a b p s)

/-- R98, Table 4.9: FMIN. -/
def doFmin (d a b : Fin 16) (p : Prec) (s : State) : Eff :=
  float2 s d a b p minNum

/-- R98, Table 4.9: the instruction. -/
def execFmin (d a b : Fin 16) (p : Prec) (s : State) : Host.Outcome State Fault Refusal := settle s (doFmin d a b p s)

/-- R98, Table 4.9: FMAX. -/
def doFmax (d a b : Fin 16) (p : Prec) (s : State) : Eff :=
  float2 s d a b p maxNum

/-- R98, Table 4.9: the instruction. -/
def execFmax (d a b : Fin 16) (p : Prec) (s : State) : Host.Outcome State Fault Refusal := settle s (doFmax d a b p s)

/-- R96, Table 4.9: FSQRT. -/
def doFsqrt (d a : Fin 16) (p : Prec) (s : State) : Eff :=
  float2 s d a a p (fun x _ => sqrtNum x)

/-- R96, Table 4.9: the instruction. -/
def execFsqrt (d a : Fin 16) (p : Prec) (s : State) : Host.Outcome State Fault Refusal := settle s (doFsqrt d a p s)

/-- R97: FCMP. -/
def doFcmp (d a b : Fin 16) (c : FcmpPred) (p : Prec) (s : State) : Eff :=
  ready s [d, a, b] <|
    let r := fcmpHolds c (precNum p (rdS s a).val) (precNum p (rdS s b).val)
    putFloat s d (b2n r.1) r.2 (anyPoison s [a, b])

/-- R97: the instruction. -/
def execFcmp (d a b : Fin 16) (c : FcmpPred) (p : Prec) (s : State) : Host.Outcome State Fault Refusal := settle s (doFcmp d a b c p s)

/-- R99: FCVT. -/
def doFcvt (d a : Fin 16) (c : FcvtOp) (s : State) : Eff :=
  ready s [d, a] <|
    let r := cvtScalar c (fpMode s) (rdS s a).val
    putFloat s d r.1 r.2 (rdS s a).poison

/-- R99: the instruction. -/
def execFcvt (d a : Fin 16) (c : FcvtOp) (s : State) : Host.Outcome State Fault Refusal := settle s (doFcvt d a c s)

/-- R100: FCLASS. -/
def doFclass (d a : Fin 16) (p : Prec) (s : State) : Eff :=
  ready s [d, a] <|
    putFloat s d (2 ^ classBit (precFmt p) ((rdS s a).val.toNat % 2 ^ (1 + (precFmt p).eb + (precFmt p).fb))) 0
      (rdS s a).poison

/-- R100: the instruction. -/
def execFclass (d a : Fin 16) (p : Prec) (s : State) : Host.Outcome State Fault Refusal := settle s (doFclass d a p s)

/-- R101: FMA. -/
def doFma (d a b : Fin 16) (n : Bool) (p : Prec) (c : Fin 16) (s : State) : Eff :=
  ready s [d, a, b, c] <|
    let v := fmaNum (fpMode s) n (precNum p (rdS s a).val) (precNum p (rdS s b).val) (precNum p (rdS s c).val)
    let r := (precFmt p).round (fpMode s) v.1
    putFloat s d r.1 (r.2 ||| v.2) (anyPoison s [a, b, c])

/-- R101: the instruction. -/
def execFma (d a b : Fin 16) (n : Bool) (p : Prec) (c : Fin 16) (s : State) : Host.Outcome State Fault Refusal := settle s (doFma d a b n p c s)

end Sys2Proof.Machine
end

