-- ==== Sys2Proof/Machine/Rows.lean ====
section
/-! DEFINITION. The row instructions and the whole-tile instructions (R136 to R153). -/

namespace Sys2Proof.Machine

/-- R138: whether several rows are poisoned. -/
def rowsPoison (l : List Row) : Bool := l.any fun r => r.poison

/-- R140: the element codes of a result, from element 0 on, with the OR of their flags (R46). -/
def rowOf (w : Nat) (l : List (Nat × Nat)) : BitVec 512 × Nat :=
  (BitVec.ofNat 512 (packElems w (l.map fun x => x.1)), l.foldl (fun f x => f ||| x.2) 0)

/-- R141: an element-wise result of a type: the integer form on codes, or the float form rounded by RoundNE (R142). -/
def elementwise (t : Ty) (fi : Int → Int → Int → Int) (ff : Num → Num → Num → Num × Nat)
    (a b d : BitVec 512) : BitVec 512 × Nat :=
  let w := tyWidth t
  rowOf w ((List.range (tyCount t)).map fun i =>
    if t.isFloat then
      let v := ff (elemNum t a i) (elemNum t b i) (elemNum t d i)
      let r := (tyFmt t).round .ne v.1
      (r.1, r.2 ||| v.2)
    else (codeOf w (fi (intOf t (elem w a i)) (intOf t (elem w b i)) (intOf t (elem w d i))), 0))

/-- R136 to R139: a row instruction of two source rows: names in the order XA, XB, XD, then the rows ready. -/
def row2 (s : State) (d a b r k : Fin 16) (readsD : Bool) (f : BitVec 512 → BitVec 512 → BitVec 512 → BitVec 512 × Nat) :
    Eff :=
  withName s a fun pa => withName s b fun pb => withName s d fun pd =>
    readyRows s [(pa, k.val), (pb, k.val)] [(pd, r.val)] <|
      let x := rdRow s pa k.val
      let y := rdRow s pb k.val
      let z := rdRow s pd r.val
      let v := f x.bits y.bits z.bits
      .done (raiseFp v.2 (wrRow pd r.val { bits := v.1, poison := rowsPoison (if readsD then [x, y, z] else [x, y]) }
        (touchReg pb (touchReg pa s)))) .next

/-- R136 to R139: a row instruction of one source row. -/
def row1 (s : State) (d a r k : Fin 16) (f : BitVec 512 → BitVec 512 × Nat) : Eff :=
  withName s a fun pa => withName s d fun pd =>
    readyRows s [(pa, k.val)] [(pd, r.val)] <|
      let x := rdRow s pa k.val
      let v := f x.bits
      .done (raiseFp v.2 (wrRow pd r.val { bits := v.1, poison := x.poison } (touchReg pa s))) .next

/-- R138: a scalar taken from a row, poisoned with the row or a scalar operand. -/
def rowScalar (s : State) (d a k : Fin 16) (idx : List (Fin 16)) (f : BitVec 512 → Nat × Nat) : Eff :=
  withName s a fun pa => ready s (d :: idx) <| readyRows s [(pa, k.val)] [] <|
    let x := rdRow s pa k.val
    let v := f x.bits
    .done (raiseFp v.2 (wrS d { val := BitVec.ofNat 64 v.1, poison := x.poison || anyPoison s idx } (touchReg pa s))) .next

/-- R141: a bitwise row operation. -/
def bitRow (f : BitVec 512 → BitVec 512 → BitVec 512 → BitVec 512) (a b d : BitVec 512) : BitVec 512 × Nat :=
  (f a b d, 0)

/-- R141: a shift of each element by b mod w. -/
def shiftRow (t : Ty) (f : Nat → Nat → Nat → Nat) (a b _d : BitVec 512) : BitVec 512 × Nat :=
  let w := tyWidth t
  rowOf w ((List.range (tyCount t)).map fun i => (f w (elem w a i) (elem w b i % w), 0))

/-- R141: an arithmetic shift right of a code of width w. -/
def sraCode (w c n : Nat) : Nat :=
  let i : Int := if c ≥ 2 ^ (w - 1) then (c : Int) - 2 ^ w else c
  codeOf w (i / 2 ^ n)

/-- R141, R142: a comparison mask. -/
def maskRow (t : Ty) (fi : Int → Int → Bool) (ff : Num → Num → Bool × Nat) (a b _d : BitVec 512) : BitVec 512 × Nat :=
  let w := tyWidth t
  rowOf w ((List.range (tyCount t)).map fun i =>
    let v := if t.isFloat then ff (elemNum t a i) (elemNum t b i) else (fi (intOf t (elem w a i)) (intOf t (elem w b i)), 0)
    (if v.1 then 2 ^ w - 1 else 0, v.2))

/-- R143: VCVT of a row. -/
def convertRow (src dst : Ty) (a : BitVec 512) : BitVec 512 × Nat :=
  if src = dst then (a, 0)
  else
    let m := min (tyCount src) (tyCount dst)
    if dst = .q4 then
      rowOf 8 ((List.range (m / 2)).map fun k => encodeQ4 (elemNum src a (2 * k)) (elemNum src a (2 * k + 1)))
    else rowOf (tyWidth dst) ((List.range m).map fun i => toCode dst .ne (elemNum src a i))

/-- A list of integers reduced from its first. -/
def reduceInt (f : Int → Int → Int) : List Int → Int
  | [] => 0
  | x :: r => r.foldl f x

/-- R98: floats reduced to an extreme, with the flags of every step. -/
def reduceNum (f : Num → Num → Num × Nat) : List Num → Num × Nat
  | [] => (.nan false, 0)
  | x :: r => r.foldl (fun acc y => let v := f acc.1 y; (v.1, acc.2 ||| v.2)) (x, 0)

/-- R144, Table 6.5: the reduction of a row to a 64-bit value. -/
def reduceRow (o : RedOp) (t : Ty) (a : BitVec 512) : Nat × Nat :=
  let n := tyCount t
  let w := tyWidth t
  if t.isFloat then
    let l := (List.range n).map fun i => elemNum t a i
    let v := match o with
      | .min => reduceNum minNum l
      | .max => reduceNum maxNum l
      | .add | .and | .or | .xor => sumNum .ne l
    let r := f32Fmt.round .ne v.1
    (r.1, r.2 ||| v.2)
  else if t = .q4 then
    let l := (List.range 64).flatMap fun k => let p := decodeQ4 (elem 8 a k); [p.1, p.2]
    (codeOf 64 (match o with
      | .min => reduceInt min l
      | .max => reduceInt max l
      | .add | .and | .or | .xor => reduceInt (fun x y => x + y) l), 0)
  else if t = .bit then
    let ones := popBits a.toNat 512
    (match o with
      | .add => ones
      | .min | .and => if ones = 512 then 1 else 0
      | .max | .or => if ones = 0 then 0 else 1
      | .xor => ones % 2, 0)
  else
    let codes := (List.range n).map fun i => elem w a i
    let ints := codes.map fun c => intOf t c
    let bits (f : Nat → Nat → Nat) : Int := intOf t (match codes with | [] => 0 | x :: r => r.foldl f x)
    (codeOf 64 (match o with
      | .add => reduceInt (fun x y => x + y) ints
      | .min => reduceInt min ints
      | .max => reduceInt max ints
      | .and => bits (fun x y => x &&& y)
      | .or => bits (fun x y => x ||| y)
      | .xor => bits (fun x y => x ^^^ y)), 0)

/-- R145: the elements of a row that are not zero by value. -/
def nonZero (t : Ty) (a : BitVec 512) : List Bool := (List.range (tyCount t)).map fun i => !(elemNum t a i).isZero

/-- R145: VVOTE. -/
def voteRow (o : VoteOp) (t : Ty) (a : BitVec 512) : Nat × Nat :=
  let l := nonZero t a
  (match o with
    | .any => b2n (l.any id)
    | .all => b2n (l.all id)
    | .ballot => (packElems 1 (l.map b2n)) % 2 ^ 64
    | .count => (l.filter id).length, 0)

/-- R146: VMATCH. -/
def matchRow (t : Ty) (a : BitVec 512) : BitVec 512 × Nat :=
  let w := tyWidth t
  let l := (List.range (tyCount t)).map fun i => elem w a i
  rowOf w (l.map fun c => (l.findIdx fun d => decide (d = c), 0))

/-- R147: VSHUF. -/
def shufRow (t : Ty) (a b _d : BitVec 512) : BitVec 512 × Nat :=
  let w := tyWidth t
  rowOf w ((List.range (tyCount t)).map fun i =>
    let x := elem w b i
    (if x / 2 ^ (w - 1) % 2 = 1 then 0 else elem w a (x % tyCount t), 0))

/-- R148: the element code that a scalar gives. -/
def scalarElem (t : Ty) (v : Word) : Nat × Nat :=
  match t with
  | .fe8 | .f16 | .bf16 => toCode t .ne (f32Fmt.decode (v.toNat % 2 ^ 32))
  | .i8 | .i16 | .i32 | .i64 | .n8 | .n16 | .n32 | .n64 | .f32 | .q4 | .bit => (v.toNat % 2 ^ tyWidth t, 0)

/-- R149: the scalar that an element gives. -/
def extractElem (t : Ty) (a : BitVec 512) (i : Nat) : Nat :=
  match t with
  | .fe8 | .f16 | .bf16 => (f32Fmt.round .ne (elemNum t a i)).1
  | .f32 | .bit => elem (tyWidth t) a i
  | .q4 => let p := decodeQ4 (elem 8 a (i / 2)); codeOf 64 (if i % 2 = 0 then p.1 else p.2)
  | .i8 | .i16 | .i32 | .i64 | .n8 | .n16 | .n32 | .n64 => codeOf 64 (intOf t (elem (tyWidth t) a i))

/-- R148: one element of a row replaced. -/
def insertElem (w i c : Nat) (d : BitVec 512) : BitVec 512 :=
  BitVec.ofNat 512 (d.toNat - elem w d i * 2 ^ (w * i) + c % 2 ^ w * 2 ^ (w * i))

/-- R151: a function of one float, correctly rounded. -/
def mapRow (t : Ty) (f : Num → Num × Nat) (a : BitVec 512) : BitVec 512 × Nat :=
  rowOf (tyWidth t) ((List.range (tyCount t)).map fun i =>
    let v := f (elemNum t a i)
    let r := (tyFmt t).round .ne v.1
    (r.1, r.2 ||| v.2))

/-- All rows of a physical register, as a group reads them. -/
def rdAll (s : State) (p : Nat) : List Row := (List.range 16).map fun k => rdRow s p k

/-- The rows of a physical register replaced. -/
def wrAll (p : Nat) (l : List Row) (s : State) : State := l.zipIdx.foldl (fun s rk => wrRow p rk.2 rk.1 s) s

/-- All 16 rows of a register, for the waits of R137. -/
def rowsOf (p : Nat) : List (Nat × Nat) := (List.range 16).map fun k => (p, k)

/-- R152: an XOP of one source register. -/
def tile1 (s : State) (d a : Fin 16) (f : List Row → List Row) : Eff :=
  withName s a fun pa => withName s d fun pd => readyRows s (rowsOf pa) (rowsOf pd) <|
    .done (wrAll pd (f (rdAll s pa)) (touchReg pa s)) .next

/-- R152: the transpose of a register of 32-bit elements. -/
def transpose32 (l : List Row) : List Row :=
  (List.range 16).map fun i =>
    { bits := BitVec.ofNat 512 (packElems 32 (l.map fun r => elem 32 r.bits i)), poison := rowsPoison l }

/-- R141, R142: VADD. -/
def doVadd (d a b r k : Fin 16) (t : Ty) (s : State) : Eff :=
  row2 s d a b r k false (elementwise t (fun a b _ => a + b) (fun a b _ => sumNum .ne [a, b]))

/-- R141, R142: the instruction. -/
def execVadd (d a b r k : Fin 16) (t : Ty) (s : State) : Host.Outcome State Fault Refusal :=
  settle s (doVadd d a b r k t s)

/-- R141, R142: VSUB. -/
def doVsub (d a b r k : Fin 16) (t : Ty) (s : State) : Eff :=
  row2 s d a b r k false (elementwise t (fun a b _ => a - b) (fun a b _ => sumNum .ne [a, b.negate]))

/-- R141, R142: the instruction. -/
def execVsub (d a b r k : Fin 16) (t : Ty) (s : State) : Host.Outcome State Fault Refusal :=
  settle s (doVsub d a b r k t s)

/-- R141, R142: VMUL. -/
def doVmul (d a b r k : Fin 16) (t : Ty) (s : State) : Eff :=
  row2 s d a b r k false (elementwise t (fun a b _ => a * b) (fun a b _ => mulNum a b))

/-- R141, R142: the instruction. -/
def execVmul (d a b r k : Fin 16) (t : Ty) (s : State) : Host.Outcome State Fault Refusal :=
  settle s (doVmul d a b r k t s)

/-- R141, R142: VFMA. -/
def doVfma (d a b r k : Fin 16) (t : Ty) (s : State) : Eff :=
  row2 s d a b r k true (elementwise t (fun a b d => a * b + d) (fun a b d => fmaNum .ne false a b d))

/-- R141, R142: the instruction. -/
def execVfma (d a b r k : Fin 16) (t : Ty) (s : State) : Host.Outcome State Fault Refusal :=
  settle s (doVfma d a b r k t s)

/-- R141, R142: VMIN. -/
def doVmin (d a b r k : Fin 16) (t : Ty) (s : State) : Eff :=
  row2 s d a b r k false (elementwise t (fun a b _ => min a b) (fun a b _ => minNum a b))

/-- R141, R142: the instruction. -/
def execVmin (d a b r k : Fin 16) (t : Ty) (s : State) : Host.Outcome State Fault Refusal :=
  settle s (doVmin d a b r k t s)

/-- R141, R142: VMAX. -/
def doVmax (d a b r k : Fin 16) (t : Ty) (s : State) : Eff :=
  row2 s d a b r k false (elementwise t (fun a b _ => max a b) (fun a b _ => maxNum a b))

/-- R141, R142: the instruction. -/
def execVmax (d a b r k : Fin 16) (t : Ty) (s : State) : Host.Outcome State Fault Refusal :=
  settle s (doVmax d a b r k t s)

/-- R141, R142: VABSD. -/
def doVabsd (d a b r k : Fin 16) (t : Ty) (s : State) : Eff :=
  row2 s d a b r k false (elementwise t (fun a b _ => (a - b).natAbs) (fun a b _ => let v := sumNum .ne [a, b.negate]; (v.1.abs, v.2)))

/-- R141, R142: the instruction. -/
def execVabsd (d a b r k : Fin 16) (t : Ty) (s : State) : Host.Outcome State Fault Refusal :=
  settle s (doVabsd d a b r k t s)

/-- R141: VAND. -/
def doVand (d a b r k : Fin 16) (_t : Ty) (s : State) : Eff :=
  row2 s d a b r k false (bitRow fun a b _ => a &&& b)

/-- R141: the instruction. -/
def execVand (d a b r k : Fin 16) (_t : Ty) (s : State) : Host.Outcome State Fault Refusal :=
  settle s (doVand d a b r k _t s)

/-- R141: VOR. -/
def doVor (d a b r k : Fin 16) (_t : Ty) (s : State) : Eff :=
  row2 s d a b r k false (bitRow fun a b _ => a ||| b)

/-- R141: the instruction. -/
def execVor (d a b r k : Fin 16) (_t : Ty) (s : State) : Host.Outcome State Fault Refusal :=
  settle s (doVor d a b r k _t s)

/-- R141: VXOR. -/
def doVxor (d a b r k : Fin 16) (_t : Ty) (s : State) : Eff :=
  row2 s d a b r k false (bitRow fun a b _ => a ^^^ b)

/-- R141: the instruction. -/
def execVxor (d a b r k : Fin 16) (_t : Ty) (s : State) : Host.Outcome State Fault Refusal :=
  settle s (doVxor d a b r k _t s)

/-- R141: VSHL. -/
def doVshl (d a b r k : Fin 16) (t : Ty) (s : State) : Eff :=
  row2 s d a b r k false (shiftRow t (fun w a n => a * 2 ^ n % 2 ^ w))

/-- R141: the instruction. -/
def execVshl (d a b r k : Fin 16) (t : Ty) (s : State) : Host.Outcome State Fault Refusal :=
  settle s (doVshl d a b r k t s)

/-- R141: VSHR. -/
def doVshr (d a b r k : Fin 16) (t : Ty) (s : State) : Eff :=
  row2 s d a b r k false (shiftRow t (fun _ a n => a / 2 ^ n))

/-- R141: the instruction. -/
def execVshr (d a b r k : Fin 16) (t : Ty) (s : State) : Host.Outcome State Fault Refusal :=
  settle s (doVshr d a b r k t s)

/-- R141: VSHRA. -/
def doVshra (d a b r k : Fin 16) (t : Ty) (s : State) : Eff :=
  row2 s d a b r k false (shiftRow t sraCode)

/-- R141: the instruction. -/
def execVshra (d a b r k : Fin 16) (t : Ty) (s : State) : Host.Outcome State Fault Refusal :=
  settle s (doVshra d a b r k t s)

/-- R141, R142: VCEQ. -/
def doVceq (d a b r k : Fin 16) (t : Ty) (s : State) : Eff :=
  row2 s d a b r k false (maskRow t (fun a b => decide (a = b)) (fcmpHolds .eq))

/-- R141, R142: the instruction. -/
def execVceq (d a b r k : Fin 16) (t : Ty) (s : State) : Host.Outcome State Fault Refusal :=
  settle s (doVceq d a b r k t s)

/-- R141, R142: VCLT. -/
def doVclt (d a b r k : Fin 16) (t : Ty) (s : State) : Eff :=
  row2 s d a b r k false (maskRow t (fun a b => decide (a < b)) (fcmpHolds .lt))

/-- R141, R142: the instruction. -/
def execVclt (d a b r k : Fin 16) (t : Ty) (s : State) : Host.Outcome State Fault Refusal :=
  settle s (doVclt d a b r k t s)

/-- R141: VSEL. -/
def doVsel (d a b r k : Fin 16) (_t : Ty) (s : State) : Eff :=
  row2 s d a b r k true (bitRow fun a b d => (d &&& a) ||| (~~~d &&& b))

/-- R141: the instruction. -/
def execVsel (d a b r k : Fin 16) (_t : Ty) (s : State) : Host.Outcome State Fault Refusal :=
  settle s (doVsel d a b r k _t s)

/-- R143: VCVT. -/
def doVcvt (d a : Fin 16) (y : Ty) (r k : Fin 16) (t : Ty) (s : State) : Eff :=
  row1 s d a r k (convertRow t y)

/-- R143: the instruction. -/
def execVcvt (d a : Fin 16) (y : Ty) (r k : Fin 16) (t : Ty) (s : State) : Host.Outcome State Fault Refusal :=
  settle s (doVcvt d a y r k t s)

/-- R144: VRED. -/
def doVred (d a : Fin 16) (o : RedOp) (k : Fin 16) (t : Ty) (s : State) : Eff :=
  rowScalar s d a k [] (reduceRow o t)

/-- R144: the instruction. -/
def execVred (d a : Fin 16) (o : RedOp) (k : Fin 16) (t : Ty) (s : State) : Host.Outcome State Fault Refusal :=
  settle s (doVred d a o k t s)

/-- R148: VBCST. -/
def doVbcst (d a r : Fin 16) (t : Ty) (s : State) : Eff :=
  withName s d fun pd => ready s [a] <| readyRows s [] [(pd, r.val)] <|
    let v := scalarElem t (rdS s a).val
    .done (raiseFp v.2 (wrRow pd r.val
      { bits := (rowOf (tyWidth t) ((List.range (tyCount t)).map fun _ => v)).1, poison := (rdS s a).poison } s)) .next

/-- R148: the instruction. -/
def execVbcst (d a r : Fin 16) (t : Ty) (s : State) : Host.Outcome State Fault Refusal :=
  settle s (doVbcst d a r t s)

/-- R147: VSHUF. -/
def doVshuf (d a b r k : Fin 16) (t : Ty) (s : State) : Eff :=
  row2 s d a b r k false (shufRow t)

/-- R147: the instruction. -/
def execVshuf (d a b r k : Fin 16) (t : Ty) (s : State) : Host.Outcome State Fault Refusal :=
  settle s (doVshuf d a b r k t s)

/-- R145: VVOTE. -/
def doVvote (d a : Fin 16) (o : VoteOp) (k : Fin 16) (t : Ty) (s : State) : Eff :=
  rowScalar s d a k [] (voteRow o t)

/-- R145: the instruction. -/
def execVvote (d a : Fin 16) (o : VoteOp) (k : Fin 16) (t : Ty) (s : State) : Host.Outcome State Fault Refusal :=
  settle s (doVvote d a o k t s)

/-- R146: VMATCH. -/
def doVmatch (d a r k : Fin 16) (t : Ty) (s : State) : Eff :=
  row1 s d a r k (matchRow t)

/-- R146: the instruction. -/
def execVmatch (d a r k : Fin 16) (t : Ty) (s : State) : Host.Outcome State Fault Refusal :=
  settle s (doVmatch d a r k t s)

/-- R149: VEXT. -/
def doVext (d a b k : Fin 16) (t : Ty) (s : State) : Eff :=
  rowScalar s d a k [b] fun x => (extractElem t x ((rdS s b).val.toNat % tyCount t), 0)

/-- R149: the instruction. -/
def execVext (d a b k : Fin 16) (t : Ty) (s : State) : Host.Outcome State Fault Refusal :=
  settle s (doVext d a b k t s)

/-- R148: VINS. -/
def doVins (d a b r : Fin 16) (t : Ty) (s : State) : Eff :=
  withName s d fun pd => ready s [a, b] <| readyRows s [(pd, r.val)] [(pd, r.val)] <|
    let v := scalarElem t (rdS s a).val
    let z := rdRow s pd r.val
    .done (raiseFp v.2 (wrRow pd r.val
      { bits := insertElem (tyWidth t) ((rdS s b).val.toNat % tyCount t) v.1 z.bits,
        poison := z.poison || anyPoison s [a, b] } s)) .next

/-- R148: the instruction. -/
def execVins (d a b r : Fin 16) (t : Ty) (s : State) : Host.Outcome State Fault Refusal :=
  settle s (doVins d a b r t s)

/-- R151: VEXP2. -/
def doVexp2 (d a r k : Fin 16) (t : Ty) (s : State) : Eff :=
  row1 s d a r k (mapRow t exp2Num)

/-- R151: the instruction. -/
def execVexp2 (d a r k : Fin 16) (t : Ty) (s : State) : Host.Outcome State Fault Refusal :=
  settle s (doVexp2 d a r k t s)

/-- R151: VRCP. -/
def doVrcp (d a r k : Fin 16) (t : Ty) (s : State) : Eff :=
  row1 s d a r k (mapRow t (divNum (.fin false 1 0)))

/-- R151: the instruction. -/
def execVrcp (d a r k : Fin 16) (t : Ty) (s : State) : Host.Outcome State Fault Refusal :=
  settle s (doVrcp d a r k t s)

/-- R151: VRSQ. -/
def doVrsq (d a r k : Fin 16) (t : Ty) (s : State) : Eff :=
  row1 s d a r k (mapRow t rsqrtNum)

/-- R151: the instruction. -/
def execVrsq (d a r k : Fin 16) (t : Ty) (s : State) : Host.Outcome State Fault Refusal :=
  settle s (doVrsq d a r k t s)

/-- R150: VCPY. -/
def doVcpy (d a r k : Fin 16) (s : State) : Eff :=
  row1 s d a r k fun x => (x, 0)

/-- R150: the instruction. -/
def execVcpy (d a r k : Fin 16) (s : State) : Host.Outcome State Fault Refusal :=
  settle s (doVcpy d a r k s)

/-- R152: XZERO. -/
def doXzero (d : Fin 16) (s : State) : Eff :=
  withName s d fun pd => readyRows s [] (rowsOf pd) <| .done (wrAll pd (List.replicate 16 {}) s) .next

/-- R152: the instruction. -/
def execXzero (d : Fin 16) (s : State) : Host.Outcome State Fault Refusal :=
  settle s (doXzero d s)

/-- R152: XFILL. -/
def doXfill (d a : Fin 16) (s : State) : Eff :=
  withName s d fun pd => ready s [a] <| readyRows s [] (rowsOf pd) <|
    .done (wrAll pd (List.replicate 16
      { bits := BitVec.ofNat 512 (packElems 64 (List.replicate 8 (rdS s a).val.toNat)), poison := (rdS s a).poison }) s) .next

/-- R152: the instruction. -/
def execXfill (d a : Fin 16) (s : State) : Host.Outcome State Fault Refusal :=
  settle s (doXfill d a s)

/-- R152: XCPY. -/
def doXcpy (d a : Fin 16) (s : State) : Eff :=
  tile1 s d a id

/-- R152: the instruction. -/
def execXcpy (d a : Fin 16) (s : State) : Host.Outcome State Fault Refusal :=
  settle s (doXcpy d a s)

/-- R152: XTRN. -/
def doXtrn (d a : Fin 16) (s : State) : Eff :=
  tile1 s d a transpose32

/-- R152: the instruction. -/
def execXtrn (d a : Fin 16) (s : State) : Host.Outcome State Fault Refusal :=
  settle s (doXtrn d a s)

end Sys2Proof.Machine
end

