-- ==== Sys2Proof/Machine/Side.lean ====
section
/-! DEFINITION. The side port, firmware update, and the failure of a peer link (R346, R367, R368, R370 to R374). -/

namespace Sys2Proof.Machine

/-- R370: MCTP control messages belong to the transport and change nothing of the machine. -/
def mctpControl (s : State) : State := s

/-- R370: the step. -/
def execMctpControl (s : State) : Host.Outcome State Fault Refusal := .next (mctpControl s)

/-- R370: a message of another type is dropped. -/
def unservedMctpMessage (s : State) : State := s

/-- R370: the step. -/
def execUnservedMctpMessage (_k : Nat) (s : State) : Host.Outcome State Fault Refusal := .next (unservedMctpMessage s)

/-- R368: the device identity key pair, that the digest of the fused device secret gives at each boot: public and private key. -/
def identityKey (s : State) : List Byte × List Byte := Config.falconKeyGen (shake256 s.mgmt.secret)

/-- R370: GET_ID: DEVID, FWVER, BOOTST and a chunk of the certificate of the identity key (log 28). -/
def getId (k : Nat) (s : State) : State :=
  respond 0 0 (natBytes devid.toNat 4 ++ natBytes s.mgmt.fwver.toNat 8 ++ natBytes (bootst s).toNat 8 ++
    (List.range 1024).map fun i => Config.certificate (identityKey s).1 (1024 * k + i)) s

/-- R370: the step. -/
def execGetId (k : Nat) (s : State) : Host.Outcome State Fault Refusal := .next (getId k s)

/-- R365, R375: a side-port command that is not served from a failed boot stage on; otherwise the side port runs on, through a
boot as well. -/
def booted (s : State) (k : State) : State := if s.mgmt.fail then s else k

/-- R368: bytes 0 to 2,047 of an attestation. -/
def attestBody (s : State) (nonce : BitVec 256) : List Byte :=
  natBytes nonce.toNat 32 ++ natBytes devid.toNat 4 ++ natBytes s.mgmt.fwver.toNat 8 ++ natBytes s.mgmt.m0.toNat 64 ++
  natBytes s.mgmt.m1.toNat 64 ++ natBytes s.mgmt.m2.toNat 64 ++ natBytes 0 1812

/-- R368: ATTEST, signed under the identity key. -/
def attest (nonce : BitVec 256) (s : State) : State :=
  booted s (respond 0 0 (attestBody s nonce ++ (List.range 1280).map (Config.falconSign (identityKey s).2 (attestBody s nonce))) s)

/-- R368: the step. -/
def execAttest (nonce : BitVec 256) (s : State) : Host.Outcome State Fault Refusal := .next (attest nonce s)

/-- R372: whether the journal still holds the entry with a sequence number. -/
def entryHeld (s : State) (n : Nat) : Bool := decide (1 ≤ n) && decide (n < s.jnext) && decide (readMem s (journalPa n) 8 = n)

/-- R132, R370: a read of the side port waits while the vault that it reads is in HOLD. -/
def whenServed (t : Nat) (ask : Bool × Nat × Nat × Nat) (s : State) (k : State) : State :=
  if (tileOf s t).vault.hold = .active then k else { s with mgmt := { s.mgmt with asked := s.mgmt.asked ++ [ask] } }

/-- R370, R372: JOURNAL_READ (log 28). -/
def journalRead (v : Nat) (k : Nat) (s : State) : State :=
  booted s <|
    if k = 0 ∨ k > 16 then respond 2 0 [] s
    else whenServed 0 (false, v, k, 0) s <|
    if (List.range k).all fun i => entryHeld s (v + i) then
      let s := (List.range k).foldl (fun s i => checkSegment (journalPa (v + i)) s) s
      respond 0 0 ((List.range k).flatMap fun i => s.mem.readBytes (journalPa (v + i)) 64) s
    else respond 4 0 [] s

/-- R370: the step. -/
def execJournalRead (v : Word) (k : Nat) (s : State) : Host.Outcome State Fault Refusal := .next (journalRead v.toNat k s)

/-- R370: what the device holds of the quantity that a selector names: vault temperatures, sector voltages, or what the module's
power depends on. -/
def telemetryHeld (s : State) (k : Nat) : List Int :=
  match k with
  | 0 => s.tiles.flatMap fun x => [(x.1 : Int), x.2.vault.temp, (x.2.vault.thermal.ctorIdx : Int)]
  | 1 => s.volts.flatMap fun v => [(v.1 : Int), (v.2.off : Int)]
  | _ => [(s.time : Int), (s.mgmt.stage : Int)]

/-- R370, R384: one page of TELEMETRY; the manual gives the layout of the error counters alone (log 10, 28). -/
def telemetryPage (s : State) (k m : Nat) : List Byte :=
  if k = 3 then (List.range 5).flatMap (fun i => natBytes (relcReg (tileOf s m) i).toNat 8) ++ natBytes 0 24
  else (List.range 64).map fun i => Config.telemetryByte k m (telemetryHeld s k) i

/-- R370: TELEMETRY. -/
def telemetry (k m : Nat) (s : State) : State :=
  if k > 3 then respond 2 0 [] s
  else if m ≥ Config.tiles then respond 4 0 [] s
  else respond 0 0 (telemetryPage s k m) s

/-- R370: the step. -/
def execTelemetry (k : Nat) (m : Nat) (s : State) : Host.Outcome State Fault Refusal := .next (telemetry k m s)

/-- R374: where the dump with an identifier stands, and its length; none when it is overwritten. -/
def dumpAt (s : State) (n : Nat) : Option (Nat × Nat) :=
  match s.dumps.find? fun d => decide (d.1 = n) with
  | none => none
  | some (_, t, k) =>
    if k < 8 then some (vaultPa t (0x0FFA2000 + 33280 * k), 33280) else some (vaultPa t 0x0FF00000, 663552)

/-- R374: DUMP_READ. -/
def dumpRead (v k m : Nat) (s : State) : State :=
  booted s <|
    if m > 1024 then respond 2 0 [] s
    else match dumpAt s v with
      | some (pa, n) =>
        if k + m ≤ n then whenServed (paTile pa) (true, v, k, m) s <|
          let s := checkRange (pa + k) m s
          respond 0 0 (s.mem.readBytes (pa + k) m) s
        else respond 4 0 [] s
      | none => respond 4 0 [] s

/-- R132, R370: the first read of the side port that waits for a vault goes on when the vault leaves HOLD. -/
def sideGo (s : State) : State :=
  match s.mgmt.asked with
  | [] => s
  | (dump, v, k, m) :: r =>
    let t := if dump then (match dumpAt s v with | some (pa, _) => paTile pa | none => 0) else 0
    if (tileOf s t).vault.hold ≠ .active then s
    else
      let s := { s with mgmt := { s.mgmt with asked := r } }
      if dump then dumpRead v k m s else journalRead v k s

/-- R374: the step. -/
def execDumpRead (v : Word) (k : Nat) (m : Nat) (s : State) : Host.Outcome State Fault Refusal := .next (dumpRead v.toNat k m s)

/-- R365, R372: whether the device has a journal: not from a power-on until its boot has cleared it. -/
def hasJournal (s : State) : Bool := !s.mgmt.booting.any fun b => b.1 && decide (s.mgmt.stage < 6)

/-- R371: the journal number of an accepted update command that Table 20.6 gives no entry (log 69). -/
def updateNumber (s : State) : Nat × State := if hasJournal s then journalAlloc s else (0, s)

/-- R371: FW_BEGIN opens a session on the inactive slot, or is answered BUSY. -/
def fwBegin (s : State) : State :=
  let s := acceptAll s
  if s.mgmt.session then respond 1 0 [] s
  else
    let (n, s) := updateNumber s
    respond 0 n [] { s with mgmt := { s.mgmt with session := true } }

/-- R371: the step. -/
def execFwBegin (s : State) : Host.Outcome State Fault Refusal := .next (fwBegin s)

/-- R371: FW_DATA writes the inactive slot. -/
def fwData (k : Nat) (data : List Byte) (s : State) : State :=
  let s := acceptAll s
  if !s.mgmt.session || decide (data.length > 1024) then respond 2 0 [] s
  else if k + data.length > 4096 + 2 ^ 20 then respond 4 0 [] s
  else
    let (n, s) := updateNumber s
    if s.mgmt.activeB then
      respond 0 n [] { s with mgmt := { s.mgmt with slotA := Memory.writeBytes k data s.mgmt.slotA } }
    else respond 0 n [] { s with mgmt := { s.mgmt with slotB := Memory.writeBytes k data s.mgmt.slotB } }

/-- R371: the step. -/
def execFwData (k : Nat) (data : List Byte) (s : State) : Host.Outcome State Fault Refusal := .next (fwData k data s)

/-- R371, R372: the journal entry of a commit, while the device has a journal. -/
def commitEntry (s : State) : Nat × State :=
  if hasJournal s then
    let (n, s) := journalBegin 1 0xFF 0x13 0xFF 0 0 0 0 s
    (n, journalEnd n (completionWord 1 0 0) s)
  else (0, s)

/-- R367, R371: FW_COMMIT verifies the slot and marks it active for the next device reset, or is denied. -/
def fwCommit (s : State) : State :=
  let s := acceptAll s
  if !s.mgmt.session then respond 2 0 [] s
  else
    let s := { s with mgmt := { s.mgmt with session := false } }
    let b := !s.mgmt.activeB
    if slotOk s (slotOf s b) then
      let (n, s) := commitEntry s
      respond 0 n [] { s with mgmt := { s.mgmt with nextB := b, pendSvn := some (b, fwHeader (slotOf s b) 8 2) } }
    else respond 3 0 [] s

/-- R371: the step. -/
def execFwCommit (s : State) : Host.Outcome State Fault Refusal := .next (fwCommit s)

/-- R370: a number among the bytes of a request. -/
def operand (m : List Byte) (i n : Nat) : Nat := bytesNat ((m.drop i).take n)

/-- R370, Table 20.5: a request at the side port: the command code, three zero bytes, and operands from byte 4 (log 28 for
their widths). -/
def sideMessage (m : List Byte) (s : State) : State :=
  let a := operand m 4 4
  if operand m 1 3 ≠ 0 then respond 2 0 [] s
  else match operand m 0 1 with
    | 0x01 => getId a s
    | 0x02 => attest (BitVec.ofNat 256 (operand m 4 32)) s
    | 0x03 => journalRead (operand m 4 8) (operand m 12 4) s
    | 0x04 => telemetry a (operand m 8 4) s
    | 0x05 => dumpRead (operand m 4 8) (operand m 12 4) (operand m 16 4) s
    | 0x06 => if a ≥ 16 then respond 4 0 [] s else sideQueueReset a s
    | 0x07 => if a ≥ 8 then respond 4 0 [] s else sidePartitionReset a s
    | 0x08 => sideDeviceReset s
    | 0x09 => fwBegin s
    | 0x0A => fwData a (m.drop 8) s
    | 0x0B => fwCommit s
    | _ => respond 2 0 [] s

/-- R287, R346: whether a copy under way has an end at a peer device. -/
def endAtPeer (s : State) (k : Nat) (q : Copy) : Bool :=
  let e := element q.desc q.next
  let at_ (va : Nat) (write : Bool) : Bool :=
    match resolve s q.view .tile va write with
    | .ok r => decide (paRegion r.pa = 32 + k)
    | .error _ => false
  (e.2.2 && at_ e.1 false) || at_ e.2.1 true

/-- R346: the link to peer device `k` fails: commands in flight to it end FAULT with PEER_ABORT. -/
def peerLinkFailure (k : Nat) (s : State) : State :=
  let gone := s.agentReqs.filter fun r => decide (r.1 = peerDest ((32 + k) * 2 ^ 40))
  let s := { s with agentReqs := s.agentReqs.filter fun r => decide (r.1 ≠ peerDest ((32 + k) * 2 ^ 40)) }
  let s := gone.foldl (fun s r => sendReply r.1 (faultReply r.2 .peerAbort (BitVec.ofNat 64 (blk r.2.block.toNat 8 8))) s) s
  s.tiles.foldl (fun s x => x.2.copies.foldl (fun s q =>
    if endAtPeer s k q ∧ q.cause = .none_ then faultCopy x.1 q.id .peerAbort (element q.desc q.next).2.1 s else s) s) s

/-- R346: the step. -/
def execPeerLinkFailure (k : Nat) (s : State) : Host.Outcome State Fault Refusal := .next (peerLinkFailure k s)

end Sys2Proof.Machine
end

