-- ==== Sys2Proof/Machine/Dispatch.lean ====
section
/-! DEFINITION. One arm for each instruction and event: one direct call of its meaning. -/

namespace Sys2Proof.Machine

def exec (i : Instr) (s : State) : Host.Outcome State Fault Refusal :=
  match i with
  | .nop => Sys2Proof.Machine.execNop s
  | .halt => Sys2Proof.Machine.execHalt s
  | .trap n => Sys2Proof.Machine.execTrap n s
  | .eret => Sys2Proof.Machine.execEret s
  | .brk n => Sys2Proof.Machine.execBrk n s
  | .yield => Sys2Proof.Machine.execYield s
  | .fence s_ o => Sys2Proof.Machine.execFence s_ o s
  | .publish a b => Sys2Proof.Machine.execPublish a b s
  | .tlbinv a g => Sys2Proof.Machine.execTlbinv a g s
  | .mfc d c => Sys2Proof.Machine.execMfc d c s
  | .mtc a c => Sys2Proof.Machine.execMtc a c s
  | .pfx o s_ p q => Sys2Proof.Machine.execPfx o s_ p q s
  | .loop c n b w s_ => Sys2Proof.Machine.execLoop c n b w s_ s
  | .wait a b c d => Sys2Proof.Machine.execWait a b c d s
  | .beq n a b d => Sys2Proof.Machine.execBeq n a b d s
  | .bne n a b d => Sys2Proof.Machine.execBne n a b d s
  | .blt n a b d => Sys2Proof.Machine.execBlt n a b d s
  | .bge n a b d => Sys2Proof.Machine.execBge n a b d s
  | .bltn n a b d => Sys2Proof.Machine.execBltn n a b d s
  | .bgen n a b d => Sys2Proof.Machine.execBgen n a b d s
  | .bz n a d => Sys2Proof.Machine.execBz n a d s
  | .bnz n a d => Sys2Proof.Machine.execBnz n a d s
  | .j d => Sys2Proof.Machine.execJ d s
  | .jl d => Sys2Proof.Machine.execJl d s
  | .jr a => Sys2Proof.Machine.execJr a s
  | .jlr a => Sys2Proof.Machine.execJlr a s
  | .ld d a z i_ => Sys2Proof.Machine.execLd d a z i_ s
  | .ldn d a z i_ => Sys2Proof.Machine.execLdn d a z i_ s
  | .st d a z i_ => Sys2Proof.Machine.execSt d a z i_ s
  | .ldx d a b x n z => Sys2Proof.Machine.execLdx d a b x n z s
  | .stx d a b x z => Sys2Proof.Machine.execStx d a b x z s
  | .vld x b r d => Sys2Proof.Machine.execVld x b r d s
  | .vst x b r d => Sys2Proof.Machine.execVst x b r d s
  | .xld x b c p d => Sys2Proof.Machine.execXld x b c p d s
  | .xst x b p d => Sys2Proof.Machine.execXst x b p d s
  | .xldt x b w d => Sys2Proof.Machine.execXldt x b w d s
  | .wld s_ b c p d => Sys2Proof.Machine.execWld s_ b c p d s
  | .rowact b d => Sys2Proof.Machine.execRowact b d s
  | .aadd d a b z => Sys2Proof.Machine.execAadd d a b z s
  | .amin d a b z => Sys2Proof.Machine.execAmin d a b z s
  | .amax d a b z => Sys2Proof.Machine.execAmax d a b z s
  | .aminn d a b z => Sys2Proof.Machine.execAminn d a b z s
  | .amaxn d a b z => Sys2Proof.Machine.execAmaxn d a b z s
  | .aand d a b z => Sys2Proof.Machine.execAand d a b z s
  | .aor d a b z => Sys2Proof.Machine.execAor d a b z s
  | .axor d a b z => Sys2Proof.Machine.execAxor d a b z s
  | .aswp d a b z => Sys2Proof.Machine.execAswp d a b z s
  | .acas d a b c z => Sys2Proof.Machine.execAcas d a b c z s
  | .afadd d a b z => Sys2Proof.Machine.execAfadd d a b z s
  | .afmin d a b z => Sys2Proof.Machine.execAfmin d a b z s
  | .afmax d a b z => Sys2Proof.Machine.execAfmax d a b z s
  | .cpy h a n t => Sys2Proof.Machine.execCpy h a n t s
  | .cpys i_ => Sys2Proof.Machine.execCpys i_ s
  | .rpcRead h a n t => Sys2Proof.Machine.execRpcRead h a n t s
  | .rpcWrite h a n t => Sys2Proof.Machine.execRpcWrite h a n t s
  | .vaddF32 h a n t => Sys2Proof.Machine.execVaddF32 h a n t s
  | .vaddI32 h a n t => Sys2Proof.Machine.execVaddI32 h a n t s
  | .vminF32 h a n t => Sys2Proof.Machine.execVminF32 h a n t s
  | .vmaxF32 h a n t => Sys2Proof.Machine.execVmaxF32 h a n t s
  | .cas64 h a n t => Sys2Proof.Machine.execCas64 h a n t s
  | .swap64 h a n t => Sys2Proof.Machine.execSwap64 h a n t s
  | .readBox h a n t => Sys2Proof.Machine.execReadBox h a n t s
  | .writeBox h a n t => Sys2Proof.Machine.execWriteBox h a n t s
  | .rpcFill h a n t => Sys2Proof.Machine.execRpcFill h a n t s
  | .zeroPage h a n t => Sys2Proof.Machine.execZeroPage h a n t s
  | .trav h a t => Sys2Proof.Machine.execTrav h a t s
  | .travRes h a t => Sys2Proof.Machine.execTravRes h a t s
  | .gpool h a t => Sys2Proof.Machine.execGpool h a t s
  | .attn h a t => Sys2Proof.Machine.execAttn h a t s
  | .fwait h r => Sys2Proof.Machine.execFwait h r s
  | .fget h d w r => Sys2Proof.Machine.execFget h d w r s
  | .ftest h d => Sys2Proof.Machine.execFtest h d s
  | .fcancel h => Sys2Proof.Machine.execFcancel h s
  | .fxfer h a g => Sys2Proof.Machine.execFxfer h a g s
  | .barArr d m i_ => Sys2Proof.Machine.execBarArr d m i_ s
  | .barWait a m i_ => Sys2Proof.Machine.execBarWait a m i_ s
  | .barAw m i_ => Sys2Proof.Machine.execBarAw m i_ s
  | .sig a s_ => Sys2Proof.Machine.execSig a s_ s
  | .wsem a s_ => Sys2Proof.Machine.execWsem a s_ s
  | .tsem d a s_ => Sys2Proof.Machine.execTsem d a s_ s
  | .asarm a b s_ => Sys2Proof.Machine.execAsarm a b s_ s
  | .aswait a b s_ => Sys2Proof.Machine.execAswait a b s_ s
  | .astest d a b s_ => Sys2Proof.Machine.execAstest d a b s_ s
  | .wlapp a b i_ => Sys2Proof.Machine.execWlapp a b i_ s
  | .wltake d a b i_ => Sys2Proof.Machine.execWltake d a b i_ s
  | .wldone a i_ => Sys2Proof.Machine.execWldone a i_ s
  | .qwait => Sys2Proof.Machine.execQwait s
  | .claim a => Sys2Proof.Machine.execClaim a s
  | .acq d a => Sys2Proof.Machine.execAcq d a s
  | .acqt d a => Sys2Proof.Machine.execAcqt d a s
  | .rel a => Sys2Proof.Machine.execRel a s
  | .relall => Sys2Proof.Machine.execRelall s
  | .resq d a => Sys2Proof.Machine.execResq d a s
  | .add d a b => Sys2Proof.Machine.execAdd d a b s
  | .sub d a b => Sys2Proof.Machine.execSub d a b s
  | .and_ d a b => Sys2Proof.Machine.execAnd d a b s
  | .or_ d a b => Sys2Proof.Machine.execOr d a b s
  | .xor d a b => Sys2Proof.Machine.execXor d a b s
  | .andn d a b => Sys2Proof.Machine.execAndn d a b s
  | .shl d a b => Sys2Proof.Machine.execShl d a b s
  | .shr d a b => Sys2Proof.Machine.execShr d a b s
  | .shra d a b => Sys2Proof.Machine.execShra d a b s
  | .rotl d a b => Sys2Proof.Machine.execRotl d a b s
  | .min d a b => Sys2Proof.Machine.execMin d a b s
  | .max d a b => Sys2Proof.Machine.execMax d a b s
  | .minn d a b => Sys2Proof.Machine.execMinn d a b s
  | .maxn d a b => Sys2Proof.Machine.execMaxn d a b s
  | .seq d a b => Sys2Proof.Machine.execSeq d a b s
  | .sne d a b => Sys2Proof.Machine.execSne d a b s
  | .slt d a b => Sys2Proof.Machine.execSlt d a b s
  | .sltn d a b => Sys2Proof.Machine.execSltn d a b s
  | .sel d a b c => Sys2Proof.Machine.execSel d a b c s
  | .clz d a => Sys2Proof.Machine.execClz d a s
  | .ctz d a => Sys2Proof.Machine.execCtz d a s
  | .popc d a => Sys2Proof.Machine.execPopc d a s
  | .mov d a => Sys2Proof.Machine.execMov d a s
  | .mul d a b => Sys2Proof.Machine.execMul d a b s
  | .mulh d a b => Sys2Proof.Machine.execMulh d a b s
  | .mulhn d a b => Sys2Proof.Machine.execMulhn d a b s
  | .div d a b => Sys2Proof.Machine.execDiv d a b s
  | .divn d a b => Sys2Proof.Machine.execDivn d a b s
  | .rem d a b => Sys2Proof.Machine.execRem d a b s
  | .remn d a b => Sys2Proof.Machine.execRemn d a b s
  | .addi d a i_ => Sys2Proof.Machine.execAddi d a i_ s
  | .andi d a i_ => Sys2Proof.Machine.execAndi d a i_ s
  | .ori d a i_ => Sys2Proof.Machine.execOri d a i_ s
  | .xori d a i_ => Sys2Proof.Machine.execXori d a i_ s
  | .shli d a i_ => Sys2Proof.Machine.execShli d a i_ s
  | .shri d a i_ => Sys2Proof.Machine.execShri d a i_ s
  | .shrai d a i_ => Sys2Proof.Machine.execShrai d a i_ s
  | .slti d a i_ => Sys2Proof.Machine.execSlti d a i_ s
  | .li d i_ => Sys2Proof.Machine.execLi d i_ s
  | .lih d a i_ => Sys2Proof.Machine.execLih d a i_ s
  | .fadd d a b p => Sys2Proof.Machine.execFadd d a b p s
  | .fsub d a b p => Sys2Proof.Machine.execFsub d a b p s
  | .fmul d a b p => Sys2Proof.Machine.execFmul d a b p s
  | .fdiv d a b p => Sys2Proof.Machine.execFdiv d a b p s
  | .fsqrt d a p => Sys2Proof.Machine.execFsqrt d a p s
  | .fmin d a b p => Sys2Proof.Machine.execFmin d a b p s
  | .fmax d a b p => Sys2Proof.Machine.execFmax d a b p s
  | .fcmp d a b c p => Sys2Proof.Machine.execFcmp d a b c p s
  | .fcvt d a c => Sys2Proof.Machine.execFcvt d a c s
  | .fclass d a p => Sys2Proof.Machine.execFclass d a p s
  | .fma d a b n p c => Sys2Proof.Machine.execFma d a b n p c s
  | .vadd d a b r s_ t => Sys2Proof.Machine.execVadd d a b r s_ t s
  | .vsub d a b r s_ t => Sys2Proof.Machine.execVsub d a b r s_ t s
  | .vmul d a b r s_ t => Sys2Proof.Machine.execVmul d a b r s_ t s
  | .vfma d a b r s_ t => Sys2Proof.Machine.execVfma d a b r s_ t s
  | .vmin d a b r s_ t => Sys2Proof.Machine.execVmin d a b r s_ t s
  | .vmax d a b r s_ t => Sys2Proof.Machine.execVmax d a b r s_ t s
  | .vabsd d a b r s_ t => Sys2Proof.Machine.execVabsd d a b r s_ t s
  | .vand d a b r s_ t => Sys2Proof.Machine.execVand d a b r s_ t s
  | .vor d a b r s_ t => Sys2Proof.Machine.execVor d a b r s_ t s
  | .vxor d a b r s_ t => Sys2Proof.Machine.execVxor d a b r s_ t s
  | .vshl d a b r s_ t => Sys2Proof.Machine.execVshl d a b r s_ t s
  | .vshr d a b r s_ t => Sys2Proof.Machine.execVshr d a b r s_ t s
  | .vshra d a b r s_ t => Sys2Proof.Machine.execVshra d a b r s_ t s
  | .vceq d a b r s_ t => Sys2Proof.Machine.execVceq d a b r s_ t s
  | .vclt d a b r s_ t => Sys2Proof.Machine.execVclt d a b r s_ t s
  | .vsel d a b r s_ t => Sys2Proof.Machine.execVsel d a b r s_ t s
  | .vcvt d a y r s_ t => Sys2Proof.Machine.execVcvt d a y r s_ t s
  | .vred d a o s_ t => Sys2Proof.Machine.execVred d a o s_ t s
  | .vbcst d a r t => Sys2Proof.Machine.execVbcst d a r t s
  | .vshuf d a b r s_ t => Sys2Proof.Machine.execVshuf d a b r s_ t s
  | .vvote d a o s_ t => Sys2Proof.Machine.execVvote d a o s_ t s
  | .vmatch d a r s_ t => Sys2Proof.Machine.execVmatch d a r s_ t s
  | .vext d a b s_ t => Sys2Proof.Machine.execVext d a b s_ t s
  | .vins d a b r t => Sys2Proof.Machine.execVins d a b r t s
  | .vexp2 d a r s_ t => Sys2Proof.Machine.execVexp2 d a r s_ t s
  | .vrcp d a r s_ t => Sys2Proof.Machine.execVrcp d a r s_ t s
  | .vrsq d a r s_ t => Sys2Proof.Machine.execVrsq d a r s_ t s
  | .vcpy d a r s_ => Sys2Proof.Machine.execVcpy d a r s_ s
  | .xzero d => Sys2Proof.Machine.execXzero d s
  | .xfill d a => Sys2Proof.Machine.execXfill d a s
  | .xcpy d a => Sys2Proof.Machine.execXcpy d a s
  | .xtrn d a => Sys2Proof.Machine.execXtrn d a s
  | .mmul s_ e a f n c => Sys2Proof.Machine.execMmul s_ e a f n c s
  | .mdrain s_ d t => Sys2Proof.Machine.execMdrain s_ d t s
  | .mldw s_ a => Sys2Proof.Machine.execMldw s_ a s
  | .mswap s_ => Sys2Proof.Machine.execMswap s_ s
  | .macz s_ e => Sys2Proof.Machine.execMacz s_ e s
  | .mopw e a => Sys2Proof.Machine.execMopw e a s
  | .mopr e d => Sys2Proof.Machine.execMopr e d s
  | .msave s_ a => Sys2Proof.Machine.execMsave s_ a s
  | .mrest s_ a => Sys2Proof.Machine.execMrest s_ a s
  | .reservedPattern w => Sys2Proof.Machine.execReservedPattern w s
  | .pendingCauseEntry t c => Sys2Proof.Machine.execPendingCauseEntry t c s
  | .timer t c => Sys2Proof.Machine.execTimer t c s
  | .quantumExpiry t k => Sys2Proof.Machine.execQuantumExpiry t k s
  | .drowsyEntry t k => Sys2Proof.Machine.execDrowsyEntry t k s
  | .taskStart t => Sys2Proof.Machine.execTaskStart t s
  | .taskEnd t c => Sys2Proof.Machine.execTaskEnd t c s
  | .loadDataReturn t c k => Sys2Proof.Machine.execLoadDataReturn t c k s
  | .storePerform t c k => Sys2Proof.Machine.execStorePerform t c k s
  | .remoteAccessArrival t c k => Sys2Proof.Machine.execRemoteAccessArrival t c k s
  | .tileSegmentLand t k => Sys2Proof.Machine.execTileSegmentLand t k s
  | .writeBlockTimeout t c => Sys2Proof.Machine.execWriteBlockTimeout t c s
  | .refresh t k => Sys2Proof.Machine.execRefresh t k s
  | .refreshEnd t k => Sys2Proof.Machine.execRefreshEnd t k s
  | .holdEntered t => Sys2Proof.Machine.execHoldEntered t s
  | .holdTimeout t c => Sys2Proof.Machine.execHoldTimeout t c s
  | .rowRepairDone t k m => Sys2Proof.Machine.execRowRepairDone t k m s
  | .matrixOpStart t => Sys2Proof.Machine.execMatrixOpStart t s
  | .matrixOpComplete t k => Sys2Proof.Machine.execMatrixOpComplete t k s
  | .copyAccess t k elems => Sys2Proof.Machine.execCopyAccess t k elems s
  | .copyComplete t k => Sys2Proof.Machine.execCopyComplete t k s
  | .scheduleEntryRelease t => Sys2Proof.Machine.execScheduleEntryRelease t s
  | .cancelArrival k => Sys2Proof.Machine.execCancelArrival k s
  | .agentServe t => Sys2Proof.Machine.execAgentServe t s
  | .agentHoldTimeout t => Sys2Proof.Machine.execAgentHoldTimeout t s
  | .ramblerStep t k => Sys2Proof.Machine.execRamblerStep t k s
  | .continuationArrival k => Sys2Proof.Machine.execContinuationArrival k s
  | .gatherPool t => Sys2Proof.Machine.execGatherPool t s
  | .attentionDecode t => Sys2Proof.Machine.execAttentionDecode t s
  | .replyArrival k => Sys2Proof.Machine.execReplyArrival k s
  | .barrierArrival k => Sys2Proof.Machine.execBarrierArrival k s
  | .barrierRelease t c => Sys2Proof.Machine.execBarrierRelease t c s
  | .barrierTimeout t c => Sys2Proof.Machine.execBarrierTimeout t c s
  | .wlRequestApply t c => Sys2Proof.Machine.execWlRequestApply t c s
  | .wlAnswer t c => Sys2Proof.Machine.execWlAnswer t c s
  | .preemption p => Sys2Proof.Machine.execPreemption p s
  | .contextsHalted p => Sys2Proof.Machine.execContextsHalted p s
  | .tileImageSave t => Sys2Proof.Machine.execTileImageSave t s
  | .launchRestore p => Sys2Proof.Machine.execLaunchRestore p s
  | .watchdogExpiry p => Sys2Proof.Machine.execWatchdogExpiry p s
  | .priorityAging q => Sys2Proof.Machine.execPriorityAging q s
  | .launch q => Sys2Proof.Machine.execLaunch q s
  | .copy q => Sys2Proof.Machine.execCopy q s
  | .copyCommandComplete q k => Sys2Proof.Machine.execCopyCommandComplete q k s
  | .fenceCommand q => Sys2Proof.Machine.execFenceCommand q s
  | .signal q => Sys2Proof.Machine.execSignal q s
  | .waitval q => Sys2Proof.Machine.execWaitval q s
  | .cond q => Sys2Proof.Machine.execCond q s
  | .publishCommand q => Sys2Proof.Machine.execPublishCommand q s
  | .launchComplete p => Sys2Proof.Machine.execLaunchComplete p s
  | .resumeTakesEffect t c => Sys2Proof.Machine.execResumeTakesEffect t c s
  | .clearComplete p => Sys2Proof.Machine.execClearComplete p s
  | .pairIntervalEnd t c b => Sys2Proof.Machine.execPairIntervalEnd t c b s
  | .replayWaitTimeout t => Sys2Proof.Machine.execReplayWaitTimeout t s
  | .eventCounterWrap t k i_ => Sys2Proof.Machine.execEventCounterWrap t k i_ s
  | .thermalSample t temp => Sys2Proof.Machine.execThermalSample t temp s
  | .maintenanceHold t => Sys2Proof.Machine.execMaintenanceHold t s
  | .maintenanceRelease t => Sys2Proof.Machine.execMaintenanceRelease t s
  | .qtail q v => Sys2Proof.Machine.execQtail q v s
  | .shoot v => Sys2Proof.Machine.execShoot v s
  | .shootdownComplete => Sys2Proof.Machine.execShootdownComplete s
  | .crst v => Sys2Proof.Machine.execCrst v s
  | .mbdata v => Sys2Proof.Machine.execMbdata v s
  | .bar2Read a => Sys2Proof.Machine.execBar2Read a s
  | .bar2Write a v => Sys2Proof.Machine.execBar2Write a v s
  | .priResponse a b => Sys2Proof.Machine.execPriResponse a b s
  | .atsInvalidation a => Sys2Proof.Machine.execAtsInvalidation a s
  | .registerWrite a wide v => Sys2Proof.Machine.execRegisterWrite a wide v s
  | .fwcmdQueueReset q => Sys2Proof.Machine.execFwcmdQueueReset q s
  | .fwcmdPartitionReset p => Sys2Proof.Machine.execFwcmdPartitionReset p s
  | .fwcmdDeviceReset => Sys2Proof.Machine.execFwcmdDeviceReset s
  | .relclr v => Sys2Proof.Machine.execRelclr v s
  | .dbgHalt => Sys2Proof.Machine.execDbgHalt s
  | .dbgResume => Sys2Proof.Machine.execDbgResume s
  | .dbgStep => Sys2Proof.Machine.execDbgStep s
  | .rdreg idx => Sys2Proof.Machine.execRdreg idx s
  | .wrreg idx => Sys2Proof.Machine.execWrreg idx s
  | .rdrow idx row => Sys2Proof.Machine.execRdrow idx row s
  | .wrrow idx row => Sys2Proof.Machine.execWrrow idx row s
  | .rdmem => Sys2Proof.Machine.execRdmem s
  | .wrmem => Sys2Proof.Machine.execWrmem s
  | .rdslot idx slot => Sys2Proof.Machine.execRdslot idx slot s
  | .evwait d => Sys2Proof.Machine.execEvwait d s
  | .pctlHalt p => Sys2Proof.Machine.execPctlHalt p s
  | .pctlCancel p => Sys2Proof.Machine.execPctlCancel p s
  | .pctlClear p => Sys2Proof.Machine.execPctlClear p s
  | .pctlRun p b => Sys2Proof.Machine.execPctlRun p b s
  | .qend v => Sys2Proof.Machine.execQend v s
  | .jalloc d => Sys2Proof.Machine.execJalloc d s
  | .jw k v => Sys2Proof.Machine.execJw k v s
  | .powerOn => Sys2Proof.Machine.execPowerOn s
  | .mctpControl => Sys2Proof.Machine.execMctpControl s
  | .getId k => Sys2Proof.Machine.execGetId k s
  | .attest nonce => Sys2Proof.Machine.execAttest nonce s
  | .journalRead v k => Sys2Proof.Machine.execJournalRead v k s
  | .telemetry k m => Sys2Proof.Machine.execTelemetry k m s
  | .dumpRead v k m => Sys2Proof.Machine.execDumpRead v k m s
  | .queueReset q => Sys2Proof.Machine.execQueueReset q s
  | .partitionReset p => Sys2Proof.Machine.execPartitionReset p s
  | .deviceReset => Sys2Proof.Machine.execDeviceReset s
  | .fwBegin => Sys2Proof.Machine.execFwBegin s
  | .fwData k data => Sys2Proof.Machine.execFwData k data s
  | .fwCommit => Sys2Proof.Machine.execFwCommit s
  | .machineCheck t => Sys2Proof.Machine.execMachineCheck t s
  | .peerLinkFailure k => Sys2Proof.Machine.execPeerLinkFailure k s
  | .patrolScrub t => Sys2Proof.Machine.execPatrolScrub t s
  | .sramScrub t => Sys2Proof.Machine.execSramScrub t s
  | .matrixSpareSwitch t => Sys2Proof.Machine.execMatrixSpareSwitch t s
  | .uvWindow s_ => Sys2Proof.Machine.execUvWindow s_ s
  | .verificationWindow s_ => Sys2Proof.Machine.execVerificationWindow s_ s
  | .verificationWindowEnd s_ => Sys2Proof.Machine.execVerificationWindowEnd s_ s
  | .networkSnapshot => Sys2Proof.Machine.execNetworkSnapshot s
  | .pcieLinkStateChange b => Sys2Proof.Machine.execPcieLinkStateChange b s
  | .unservedMctpMessage k => Sys2Proof.Machine.execUnservedMctpMessage k s

end Sys2Proof.Machine
end

