-- ==== Sys2Proof/Machine/Issue.lean ====
section
/-! DEFINITION. Whose turn a step is, how a core chooses a context and issues one group (R66, R71, R72, R299 to R303).
Everything here takes the meaning of an instruction as the argument `run`, which `Step` sets to `exec`. -/

namespace Sys2Proof.Machine

/-- The meaning of an instruction. -/
abbrev Run := Instr → State → Host.Outcome State Fault Refusal

/-- What follows a step that gave a next state. -/
def andThen (o : Host.Outcome State Fault Refusal) (k : State → Host.Outcome State Fault Refusal) :
    Host.Outcome State Fault Refusal :=
  match o with
  | .next s => k s
  | .fault f => .fault f
  | .refused r => .refused r

/-- R57, R72: a group that must wait leaves no effect; the page requests it made stand (R342), and a merged host write
that it has issued stays issued (R126). -/
def holdFrom (t c : Nat) (base s : State) : State :=
  let y := ctxOf s t c
  let base := { base with priReqs := s.priReqs }
  waitGroup t c y.wait (if y.wcBlock.isNone then modCtx t c issueMerged base else base)

/-- R57, R221: whether the group of a context has asked for something that others see: it stands in a queue of the hamper
or of a semaphore, has arrived at a barrier, has sent a request to the compaction unit, or has reserved copies. -/
def queuedUp (t c : Nat) (s : State) : Bool :=
  let x := tileOf s t
  let y := ctxIn x c
  x.acqq.any (fun q => decide (q.1 = c)) || x.semq.any (fun q => decide (q.1 = c)) || y.wl.isSome || y.barPhase.isSome ||
    decide (y.cpysLeft ≠ 0) || s.barArr.any fun b => b.aw && decide (b.tile = t) && decide (b.ctx = c)

/-- R57: a pair whose first word waits in a queue keeps the names of its context as they stood before the group. -/
def keepNames (t c : Nat) (s : State) : State :=
  modCtx t c (fun y => { y with heldNames := some (y.heldNames.getD y.names) }) s

/-- R57: the words of a group, from the state `s`; a cause or a wait falls back to `base`, as it stood before the
whole group. A first word that waits outside a prefix keeps what its waiting has done, such as joining a queue; it
begins to wait there only when its second word raises no trap and could go on, so that a group that traps has asked
for nothing. -/
def runHalves (run : Run) (t c : Nat) (base : State) (prefixed : Bool) (i : Instr) (j : Option Instr) (s : State)
    (k : State → Host.Outcome State Fault Refusal) : Host.Outcome State Fault Refusal :=
  andThen (run i s) fun s1 =>
    match s1.grp.trap with
    | some tr => .next (trapGroup t c tr base)
    | none =>
      if s1.grp.blocked then
        match j with
        | some j =>
          if !prefixed && queuedUp t c s1 && !queuedUp t c s then
            andThen (run j { s with grp := { s.grp with half := .second } }) fun s2 =>
              match s2.grp.trap with
              | some tr => .next (trapGroup t c tr base)
              | none => .next (if s2.grp.blocked then holdFrom t c base s2 else keepNames t c (clearFrame (flushSamples t c s1)))
          else .next (if prefixed then holdFrom t c base s1 else clearFrame (flushSamples t c s1))
        | none => .next (if prefixed then holdFrom t c base s1 else clearFrame (flushSamples t c s1))
      else match j with
        | none => k s1
        | some j =>
          andThen (run j { s1 with grp := { s1.grp with half := .second } }) fun s2 =>
            match s2.grp.trap with
            | some tr => .next (trapGroup t c tr base)
            | none => if s2.grp.blocked then .next (holdFrom t c base s2) else k s2

/-- The frame in which the first word, `w`, of a group starts: its operands are those before the group, also of a group
that has waited (R57). -/
def startFrame (t w : Nat) (pfx : Option Pfx) (touch : List (Nat × Nat × Bool)) (s : State) : State :=
  let x := tileOf s t
  let c := s.focusCtx
  let x := match (ctxIn x c).heldNames with
    | some l => { x with ctxs := Sparse.modify {} c (fun y => { y with names := l }) x.ctxs }
    | none => x
  { s with grp := { half := .first, snap := some x, pfx := pfx, touch := touch, word := w } }

/-- R71, R72: a PFX group and the group it prefixes, carried out together. -/
def runPrefixed (run : Run) (t c : Nat) (p : Pfx) (g h : Group) (s : State) : Host.Outcome State Fault Refusal :=
  runHalves run t c s true (wordInstr g.head) (g.tail.map wordInstr) (startFrame t g.head none [] s) fun s1 =>
    let s1 := advance t c .next (flushSamples t c (countEvent t c 2 1 s1))
    let s1 := startFrame t h.head (some p) s1.grp.touch (modCtx t c (fun y => { y with retired := y.retired + 1 }) s1)
    runHalves run t c s true (wordInstr h.head) (h.tail.map wordInstr) s1 fun s2 =>
      .next (retireGroup t c s2.grp.flow s2)

/-- R67, R71: a PFX group whose prefixed group is nullified: it has no group to apply to, and its A-class word takes
effect (log 58). -/
def runBare (run : Run) (t c : Nat) (g : Group) (s : State) : Host.Outcome State Fault Refusal :=
  let hits := breakHits (ctxOf s t c)
  if hits ≠ 0 then .next (stopAtBreak t c hits s)
  else runHalves run t c s false (wordInstr g.head) (g.tail.map wordInstr) (startFrame t g.head none [] s) fun s1 =>
    .next (retireGroup t c .next s1)

/-- R57: a group that no PFX prefixes. -/
def runGroup (run : Run) (t c : Nat) (g : Group) (s : State) : Host.Outcome State Fault Refusal :=
  match g with
  | .lone w => run (wordInstr w) s
  | .pair w v =>
    runHalves run t c s false (wordInstr w) (some (wordInstr v)) (startFrame t w none [] s) fun s2 =>
      .next (retireGroup t c s2.grp.flow s2)

/-- R65: the rank of a trap of group decoding. -/
def decodeRank : Except Trap Group → Option (Nat × Cause)
  | .ok _ => none
  | .error tr => some (if tr.cause = .pairAlign then 1 else 2, tr.cause)

/-- Whether decoding ended in a fetch fault. -/
def fetchFault : Except Trap Group → Option Trap
  | .ok _ => none
  | .error tr => if tr.cause = .xlateAbsent then some tr else none

/-- R65: the causes of the words of a group, none when it does not decode. -/
def causesOf (s : State) : Except Trap Group → List (Option (Nat × Cause))
  | .ok g => groupCause s g
  | .error _ => []

/-- R70, R71: whether a word is a PFX by its class and major code, whatever its fields. -/
def isPfx (w : Nat) : Bool := decide (w / 2 ^ 30 % 2 = 0) && decide (w / 2 ^ 24 % 64 = 1)

/-- R70, R71: the prefix of a word that is a PFX; one whose fields are reserved traps by them, at its place in R65. -/
def pfxAt (s : State) (t c a : Nat) : Option Pfx :=
  match fetchWord s t c a with
  | some w => if isPfx w then some ((Group.lone w).prefixes.getD {}) else none
  | none => none

/-- R71: what a PFX group raises of itself: it stands in a delay group, where sequencing goes elsewhere, or last in a
body. -/
def pfxStray (s : State) (t c : Nat) : Bool :=
  let y := ctxOf s t c
  y.dg0 || decide (y.npc ≠ seqAddr s t c y.pc) ||
  (match y.loop with | some l => decide (seqAddr s t c y.pc = l.bs + 4 * l.len) | none => false)

/-- The state in which the group after a PFX is checked: with its prefix, and its own delay bit. -/
def prefixedView (t c : Nat) (p : Pfx) (s : State) : State :=
  modCtx t c (fun y => { y with dg0 := y.dg1 }) { s with grp := { s.grp with pfx := some p } }

/-- R381, R383: what fetching the firmware handler's code from the own vault does about the errors that its segments hold. -/
def firmFetch (t c : Nat) (s : State) : State :=
  let y := ctxOf s t c
  if prv y = 2 ∧ t ≠ Config.fwTile ∧ y.loop = none ∧ Config.firmwareVectorOffset ≤ y.pc ∧ y.pc < Config.firmwareVectorOffset + 2 ^ 20 then
    checkRange (vaultPa t y.pc) 16 s
  else s

/-- R65, R71, R395: the group at PC is fetched, decoded and carried out, or its first cause is taken. -/
def issueGroup (run : Run) (t c : Nat) (s : State) : Host.Outcome State Fault Refusal :=
  let y := ctxOf s t c
  let g := decodeGroup s t c y.pc
  match fetchFault g with
  | some tr => .next (trapGroup t c tr s)
  | none =>
    match pfxAt s t c y.pc with
    | none =>
      match firstCause (decodeRank g :: causesOf s g) with
      | some (_, k) => .next (trapGroup t c { cause := k } s)
      | none =>
        let hits := breakHits y
        if hits ≠ 0 then .next (stopAtBreak t c hits s)
        else match g with
          | .ok g => runGroup run t c g s
          | .error tr => .next (trapGroup t c tr s)
    | some p =>
      if y.n1 ∧ y.npc = seqAddr s t c y.pc then
        match firstCause (decodeRank g :: causesOf s g) with
        | some (_, k) => .next (trapGroup t c { cause := k } s)
        | none =>
          if pfxStray s t c then .next (trapGroup t c { cause := .prefixMisuse } s)
          else match g with
            | .ok g => runBare run t c g s
            | .error tr => .next (trapGroup t c tr s)
      else
      let h := decodeGroup s t c (seqAddr s t c y.pc)
      match fetchFault h with
      | some tr => .next (trapGroup t c tr s)
      | none =>
        match firstCause (decodeRank g :: decodeRank h :: causesOf s g ++ causesOf (prefixedView t c p s) h) with
        | some (_, k) => .next (trapGroup t c { cause := k } s)
        | none =>
          match g, h with
          | .ok g, .ok h =>
            if prefixMisused s t c h then .next (trapGroup t c { cause := .prefixMisuse } s)
            else
              let hits := breakHits y ||| breakHits { y with pc := seqAddr s t c y.pc }
              if hits ≠ 0 then .next (stopAtBreak t c hits s) else runPrefixed run t c p g h s
          | .error tr, _ | _, .error tr => .next (trapGroup t c tr s)

/-- The words of a group that decodes. -/
def wordsOf : Except Trap Group → List Nat
  | .ok g => g.head :: g.tail.toList
  | .error _ => []

/-- R413: whether the group at PC, or the one that it prefixes, is not of the kind that the log names for its count. -/
def straysHere (t c : Nat) (s : State) : Bool :=
  let y := ctxOf s t c
  strays t c (y.retired + 1) (wordsOf (decodeGroup s t c y.pc)) s ||
  ((pfxAt s t c y.pc).isSome && strays t c (y.retired + 2) (wordsOf (decodeGroup s t c (seqAddr s t c y.pc))) s)

/-- R396, R399: the boundary after a group whose own-vault tile load may match a watched range: it waits until the load has ended or
stopped, and then raises what the group raises. -/
def finishAfter (t c : Nat) (a : AfterLoad) (s : State) : State :=
  if (tileOf s t).moves.any fun m => decide (m.id = a.move) then waitGroup t c .scoreboard s
  else afterGroup t c a.wasTask a.raised a.touch (modCtx t c (fun y => { y with after := none, wait := .none_ }) s)

/-- R66, R349: one boundary of a context: a pending cause, a nullified group, or the group at PC. -/
def attempt (run : Run) (t c : Nat) (s : State) : Host.Outcome State Fault Refusal :=
  let s := { s with focusTile := t, focusCtx := c, grp := {} }
  match (ctxOf s t c).after with
  | some a => .next (finishAfter t c a s)
  | none =>
  match replayBoundary t c s with
  | some s' => .next s'
  | none =>
    match takePending t c s with
    | some s' => .next s'
    | none =>
      if (ctxOf s t c).n0 then .next (advance t c .next s)
      else if straysHere t c s then .next (diverge t c s)
      else issueGroup run t c (firmFetch t c s)

/-- R299, R388: whether a context holds a task and may issue. A shadow tile follows its primary (R387; log 20), and an interval
that is full must end first. -/
def mayIssue (s : State) (t c : Nat) : Bool :=
  let y := ctxOf s t c
  decide (y.phase = .running) && !y.stopped && !y.debugHalt && y.endPend.isNone && !(tileOf s t).isShadow && !intervalFull s t c

/-- R299: whether a wait is an off-core wait. -/
def offCore : Wait → Bool
  | .none_ | .scoreboard | .writeBlock _ | .holdHere _ => false
  | .offcore | .hold _ | .pri _ | .barrier _ _ | .worklist => true

/-- R300: ring order after context `i` of a core. -/
def ringAfter (i : Nat) : List Nat := [(i + 1) % 4, (i + 2) % 4, (i + 3) % 4, i % 4]

/-- R300: a context that has blocked, halted or stopped is current no longer. -/
def afterRing (t k i : Nat) (s : State) : State :=
  if mayIssue s t (4 * k + i) && !offCore (ctxOf s t (4 * k + i)).wait then s
  else modCore t k (fun x => { x with cur := none, lastCur := i }) s

/-- R300, R403: the first ready context in ring order becomes current and issues; a blocked one is ready when its group
completes now. A context other than the last current one makes a context switch (log 65). -/
def pickRing (run : Run) (t k : Nat) : List Nat → State → Host.Outcome State Fault Refusal
  | [], s => .next s
  | i :: r, s =>
    if mayIssue s t (4 * k + i) then
      let blocked := offCore (ctxOf s t (4 * k + i)).wait
      andThen (attempt run t (4 * k + i)
        (modCore t k (fun x => { x with cur := some i, lastCur := i, curSince := s.time }) s)) fun s' =>
          if blocked && offCore (ctxOf s' t (4 * k + i)).wait then
            pickRing run t k r (modCore t k (fun x =>
              { x with cur := none, lastCur := (coreOf s t k).lastCur, curSince := (coreOf s t k).curSince }) s')
          else .next (afterRing t k i (if i = (coreOf s t k).lastCur then s'
            else countCoreAt t k 6 1 (4 * k + i) (siteOf (ctxOf s t (4 * k + i))) (ctxOf s' t (4 * k + i)).seqLast s'))
    else pickRing run t k r s

/-- R301: the next group of the first context, in ring order after the last to issue, that nothing holds. -/
def pickInterleave (run : Run) (t k : Nat) : List Nat → State → Host.Outcome State Fault Refusal
  | [], s => .next s
  | i :: r, s =>
    if mayIssue s t (4 * k + i) then
      andThen (attempt run t (4 * k + i) s) fun s' =>
        if (ctxOf s' t (4 * k + i)).wait ≠ .none_ then pickInterleave run t k r s'
        else .next (modCore t k (fun x => { x with lastIssue := i }) s')
    else pickInterleave run t k r s

/-- R299 to R303, R404: one issue cycle of a core. -/
def issueCore (run : Run) (t k : Nat) (s : State) : Host.Outcome State Fault Refusal :=
  let x := coreOf s t k
  if x.freeze then .next (modCore t k (fun x => { x with freeze := false }) s)
  else if x.mode then pickInterleave run t k (ringAfter x.lastIssue) s
  else match x.cur with
    | some i =>
      if mayIssue s t (4 * k + i) then
        andThen (attempt run t (4 * k + i) s) fun s' => .next (afterRing t k i s')
      else pickRing run t k (ringAfter i) (modCore t k (fun x => { x with cur := none, lastCur := i }) s)
    | none => pickRing run t k (ringAfter x.lastCur) s

/-- The events that may be due in one context of a tile. -/
def dueOfCtx (x : Tile) (t : Nat) (c : Fin 8) : List Instr :=
  ((ctxIn x c.val).accs.flatMap fun a =>
    [Instr.remoteAccessArrival t c a.id, .storePerform t c a.id, .loadDataReturn t c a.id]) ++
  [Instr.timer t c, .barrierRelease t c, .barrierTimeout t c, .holdTimeout t c, .writeBlockTimeout t c, .wlRequestApply t c,
   .wlAnswer t c, .resumeTakesEffect t c, .pairIntervalEnd t c true, .taskEnd t c]

/-- The events that may be due in one tile. -/
def dueOfTile (t : Nat) (x : Tile) : List Instr :=
  [Instr.taskStart t, .matrixOpStart t, .agentServe t, .gatherPool t, .attentionDecode t, .scheduleEntryRelease t,
   .agentHoldTimeout t, .holdEntered t, .tileImageSave t, .replayWaitTimeout t,
   .quantumExpiry t 0, .quantumExpiry t 1] ++
  x.matq.map (fun o => Instr.matrixOpComplete t o.id) ++
  x.moves.map (fun m => Instr.tileSegmentLand t m.id) ++
  x.walks.zipIdx.map (fun w => Instr.ramblerStep t w.2) ++
  x.xregs.map (fun g => Instr.drowsyEntry t g.1) ++
  x.copies.map (fun k => Instr.copyComplete t k.id) ++
  x.copies.map (fun k => Instr.copyAccess t k.id []) ++
  x.vault.refresh.map (fun b => Instr.refreshEnd t b.1) ++
  (List.finRange 8).flatMap (dueOfCtx x t)

/-- The events that may be due in the network and the dispatcher. -/
def dueOfDevice (s : State) : List Instr :=
  s.barArr.map (fun b => Instr.barrierArrival b.id) ++
  s.replies.map (fun r => Instr.replyArrival r.id) ++
  s.cancels.map (fun r => Instr.cancelArrival r.1) ++
  s.conts.map (fun r => Instr.continuationArrival r.1) ++
  (List.finRange 8).flatMap (fun p => [Instr.contextsHalted p, .clearComplete p, .launchComplete p, .watchdogExpiry p,
    .preemption p, .launchRestore p]) ++
  (List.finRange 16).flatMap (fun q =>
    (Sparse.get ({} : Queue) s.queues q.val).flight.map (fun k => Instr.copyCommandComplete q k.idx) ++
    [Instr.launch q, .copy q, .fenceCommand q, .signal q, .waitval q, .cond q, .publishCommand q, .priorityAging q]) ++
  [Instr.shootdownComplete]

/-- The events that may be due, in the order in which a step with an empty agenda tries them (log 3). -/
def dueEvents (s : State) : List Instr := s.tiles.flatMap (fun x => dueOfTile x.1 x.2) ++ dueOfDevice s

/-- The first of several changes of a state that does change it. -/
def firstChange (s : State) : List (State → State) → Option State
  | [] => none
  | f :: r => let s' := f s; if s' = s then firstChange s r else some s'

/-- The first request on its way that can reach its agent, or else what the firmware core accepts next, a boot stage, a debug
command that can go on, an invalidation that is complete, or a host access that its vault serves (R132, R204, R342, R365,
R371, R400). -/
def firstArrival (s : State) : List Nat → Option State
  | [] => firstChange s [acceptNext, bootGo, dbgContinue, invsDone, hostGo, spareSwitches, sideGo]
  | k :: r => let s' := arrive k s; if s' = s then firstArrival s r else some s'

/-- The first event that changes the state; none when nothing is due. -/
def firstDue (run : Run) (s : State) : List Instr → Option (Host.Outcome State Fault Refusal)
  | [] => none
  | i :: r =>
    match run i s with
    | .next s' => if s' = s then firstDue run s r else some (.next s')
    | .fault f => some (.fault f)
    | .refused e => some (.refused e)

/-- The cores that have a context to issue, numbered 2 × tile + core, beginning after the one that acted last. -/
def coreRing (s : State) : List Nat :=
  let l := s.tiles.flatMap fun x => [2 * x.1, 2 * x.1 + 1].filter fun k =>
    (List.range 4).any fun i => mayIssue s x.1 (4 * (k % 2) + i)
  let here := 2 * s.focusTile + coreIx s.focusCtx
  (l.filter fun k => decide (here < k)) ++ l.filter fun k => decide (k ≤ here)

/-- The first core whose issue cycle changes anything but whose turn it was; otherwise a cycle passes. -/
def firstCore (run : Run) (s : State) : List Nat → Host.Outcome State Fault Refusal
  | [] => .next { s with time := s.time + 1 }
  | k :: r =>
    match issueCore run (k / 2) (k % 2) s with
    | .next s' =>
      if { s' with focusTile := s.focusTile, focusCtx := s.focusCtx, grp := s.grp } = s then firstCore run s r
      else .next { s' with time := s'.time + 1 }
    | o => o

/-- Whether a row of the opcode table is an event, with no word of its own. -/
def isEvent (i : Instr) : Bool :=
  match i with
  | .reservedPattern _ => false
  | _ => (encode i).isNone

/-- R266, R270: the place in home order, and the unit, that the turns before asked for hold for one turn. -/
def endTurn (s s' : State) : State :=
  match s.agenda with
  | .asOf _ :: _ | .unit _ :: _ => s'
  | _ => { s' with asOf := none, pick := 0 }

/-- One turn of the machine, as the agenda says; with an empty agenda an event that is due happens, or else the next
core in turn issues and a cycle passes (log 3). -/
def turn (run : Run) (s : State) : Host.Outcome State Fault Refusal :=
  match s.agenda with
  | .issue t k :: r => issueCore run t (k % 2) { s with agenda := r }
  | .event i :: r => if isEvent i then run i { s with agenda := r } else .next { s with agenda := r }
  | .elapse n :: r => .next { s with agenda := r, time := s.time + n }
  | .evict t w k :: r => .next (evictEntry t w k { s with agenda := r })
  | .upset t off e :: r => .next (upset t off e { s with agenda := r })
  | .corrects t a :: r => .next (correctsNow t a { s with agenda := r })
  | .hostStore a n v rel :: r => .next (hostStored a n v rel { s with agenda := r })
  | .hostLoad a :: r => .next (hostLoaded a { s with agenda := r })
  | .asOf n :: r => .next { s with agenda := r, asOf := some n }
  | .unit n :: r => .next { s with agenda := r, pick := n }
  | .arrive k :: r => .next (arrive k { s with agenda := r })
  | .peerArrive p i :: r => .next (peerArrives p i { s with agenda := r })
  | .hostPage n ro bad :: r => .next (hostChanges n ro bad { s with agenda := r })
  | .side m :: r => .next (sideMessage m { s with agenda := r })
  | [] =>
    match firstArrival s (s.agentReqs.map fun r => r.2.id) with
    | some s' => .next s'
    | none =>
      match firstDue run s (dueEvents s) with
      | some o => o
      | none => firstCore run s (coreRing s)

end Sys2Proof.Machine
end

