-- ==== Sys2Proof/Machine/Place.lean ====
section
/-! DEFINITION. One instruction placed as the program of a running context, in place of the launch that a host
would make (R293, R333; log 6). -/

namespace Sys2Proof.Machine

/-- The words of the group that holds a word: a lone word stands alone; a C-class member of a pair is followed by
`MOV s0, s0`, an A-class member is preceded by NOP. The image begins with the first word. -/
def groupWords (w : Nat) : List Nat :=
  if w / 2 ^ 31 % 2 = 1 then [w]
  else if w / 2 ^ 30 % 2 = 0 then [w, 0x40000580]
  else [0, w]

/-- The bytes of a word list, little-endian (R2). -/
def wordsImage : Nat → List Nat → Memory
  | _, [] => []
  | a, w :: r => Memory.writeN a w 4 (wordsImage (a + 4) r)

/-- R18: the context that a placed word runs on: 0 on the S-core for CPY and CPYS, otherwise 4 on the C-core. -/
def placeCtx (w : Nat) : Nat := if wrongRole 4 (wordInstr w) then 0 else 4

/-- A state in which the next turn is the issue of one group at address 0 by a context of tile 0. -/
def placeWord (w : Nat) (s : State) : State :=
  let c := placeCtx w
  let l := groupWords w
  let s := modCore 0 (coreIx c) (fun k =>
    { k with image := wordsImage 0 l, imageLen := 4 * l.length, mode := false, cur := some (c % 4), freeze := false }) s
  let s := modCtx 0 c (fun y =>
    { y with phase := .running, pc := 0, n0 := false, n1 := false, dg0 := false, dg1 := false, loop := none,
             wait := .none_, stopped := false, debugHalt := false }) s
  let b := seqAddr s 0 c 0
  let s := modCtx 0 c (fun y => { y with npc := b, nnpc := seqAddr s 0 c b }) s
  { s with agenda := [.issue 0 (coreIx c)] }

end Sys2Proof.Machine
end

