-- ==== Sys2Proof/Machine/Step.lean ====
section
/-! DEFINITION. The step of the whole machine, and how one instruction is placed for the next step. -/

namespace Sys2Proof.Machine

/-- One step: the turn that the agenda names, with `exec` as the meaning of every instruction and event; what it has sent is
noted for the network's counts (R408), and the place in home order that its reads asked for is forgotten (R270). -/
def step (s : State) : Host.Outcome State Fault Refusal := andThen (turn exec s) fun s' => .next (endTurn s (noteTraffic s s'))

/-- The state with one instruction placed where the next step fetches (log 6). -/
def State.withFetchWord (s : State) (_nbits w : Nat) : State := placeWord (w % 2 ^ 32) s

end Sys2Proof.Machine
end

