-- ==== Sys2Proof/Safety.lean ====
section
/-! DEFINITION. What claims are stated in: a run that goes on, the conditions on a state under which an instruction
takes effect, and the invariants that every step is to keep. -/

namespace Sys2Proof.Machine

/-- A step that gives a next state. -/
def Continues (s t : State) : Prop := step s = .next t

/-- The memory of the device is in its canonical form. -/
def MemOk (s : State) : Prop := s.mem.wf = true

/-- R65: the instruction raises no cause before its execution: its prefix, privilege, core and place are accepted. -/
def Legal (s : State) (i : Instr) : Prop := staticCause s i = none

/-- R81: none of several scalars waits for an outstanding result. -/
def Ready (s : State) (l : List (Fin 16)) : Prop := scalarWait (opTile s) (opCtx s) l = none

/-- R83, R356: none of several scalars is poisoned. -/
def Clean (s : State) (l : List (Fin 16)) : Prop := anyPoison s l = false

/-- R137: the rows that a group reads and the rows that it writes are ready. -/
def RowsReady (s : State) (reads writes : List (Nat × Nat)) : Prop :=
  firstWait (reads.map (fun pk => rowWait (opTile s) s.focusCtx pk.1 pk.2 false) ++
    writes.map fun pk => rowWait (opTile s) s.focusCtx pk.1 pk.2 true) = none

/-- R273: the ordering `o` lets the group go on at once, from `s'`: a release first sends the merged host write of the
context on its way, and finds every earlier access performed. -/
def OrderMet (s : State) (o : Ord) (s' : State) : Prop :=
  accWait (curTile s) ((opCtx s).accs.filter fun a => unperformed a && acquires a.ord)
    ((opMoves s).filter fun m => m.acq) = none ∧
  if releases o then
    s' = modCur issueMerged s ∧ accWait (curTile s') ((cur s').accs.filter unperformed) (curMoves s') = none ∧
      imageBusy s' = false
  else s' = s

/-- R109, R133, R342, R415: one access passes its checks as `r` and finds nothing to wait for at its home. -/
def AccessMet (s : State) (a : Acc) (r : Resolved) : Prop :=
  checkAccess s (curView s) (.core (coreIx s.focusCtx)) (BitVec.ofNat 64 a.va) a.size a.size (accWrites a)
    (prefixOf s).spc (accClass a) = .ok r ∧
  (accWrites a = true → r.wb = false ∧ ¬(a.poison = true ∧ r.tgt = .host)) ∧
  overlapsStopped (opCtx s) a.va a.size = false ∧ moveMeets s (accWrites a) r.pa a.size = false ∧
  (r.tgt = .host → (cur s).priFail = false ∧ s.mgmt.link = true ∧ hostAllows s r.pa (accWrites a) = true ∧
    hostErrs s r.pa (accWrites a) = false) ∧
  (r.tgt = .vault → a.kind ≠ .store → a.kind ≠ .rowStore → (overlapped (cur s) r.pa a.size).isEmpty = true) ∧
  (r.tgt = .vault → accWrites a = false →
    (curTile s).vault.hold = .active ∧ (curTile s).vault.flagged.contains (rowNumber (paOff r.pa)) = false)

/-- R273, R276: a release of the acting context goes on at once, from `s'`: its merged host write is on its way, and every
earlier access, tile move and slot image is performed. -/
def ReleaseMet (s s' : State) : Prop :=
  s' = modCur issueMerged s ∧ accWait (curTile s') ((cur s').accs.filter unperformed) (curMoves s') = none ∧
  imageBusy s' = false

/-- R410: the launch of the acting tile neither records nor replays. -/
def Unlogged (s : State) : Prop := ∀ l, launchOf s (curTile s).launch = some l → l.recording = none

/-- R183, R222: a command of an engine passes its first checks, waits for nothing, and reads `b` as its block of `n`
segments, and `s'` is the state that it leaves. -/
def BlockMet (s : State) (h : Option (Fin 8)) (a : Fin 16) (n : Nat) (l : List Resolved) (s' : State) (b : Nat) : Prop :=
  Ready s [a] ∧ (∀ g, h = some g → (futOf s g).st = .free) ∧ Clean s [a] ∧
  blockSegs s (rdS s a).val (List.range n) = .ok l ∧
  let u := modCur issueMerged s
  ReleaseMet s u ∧ l.any (fun r => segPoison u r.pa) = false ∧ readBlock u l = b ∧
    s' = notePrint u.focusTile u.focusCtx (8 * n) b b u

/-- Nothing but the group itself happens at the end of a group: the context runs a task, is not single-stepped by
STATUS.SS or by the debugger, has no watchpoint armed, and the tile's monitor is off (R396, R397, R399, R405). -/
def Quiet (s : State) : Prop :=
  (cur s).phase = .running ∧ ss (cur s) = false ∧ (cur s).stepReq = false ∧ (cur s).dbg = [] ∧
  wbit (Sparse.get 0 (curTile s).mon 0) 63 = false

/-- R70: an access with the ordering, scope and policy that its prefix, or MDEF, gives it. -/
def withPrefix (s : State) (a : Acc) : Acc :=
  { a with ord := (prefixOf s).ord, scope := (prefixOf s).scope, pol := (prefixOf s).pol }

/-- A field of `n` bits read as two's complement (R59), written out. -/
def signed (n v : Nat) : Int := if v < 2 ^ (n - 1) then (v : Int) else (v : Int) - 2 ^ n

/-- What lies outside the tiles, and everything of every tile but its contexts and cores, and the fingerprints of its pairs
(R388), is as before. -/
def DeviceKept (s t : State) : Prop :=
  ({ t with tiles := [], grp := {} } : State) = { s with tiles := [], grp := {} } ∧
  ∀ a, ({ tileOf t a with ctxs := [], cores := [], pairs := [] } : Tile) = { tileOf s a with ctxs := [], cores := [], pairs := [] }

/-- Every context but the acting one, and every core but for its event counters, is as before. -/
def OthersKept (s t : State) : Prop :=
  (∀ a k, ({ coreOf t a k with pmc := [], pmsel := [], freeze := false } : CoreSt) =
    { coreOf s a k with pmc := [], pmsel := [], freeze := false }) ∧
  ∀ a c, ¬(a = s.focusTile ∧ c = s.focusCtx) → ctxOf t a c = ctxOf s a c

/-- A context without what every group may change: the sequencing state, the count of groups and the wait, with the names kept
while it waited, the address of the last group, and the sequence numbers that its accesses name (R393). -/
def unsequenced (y : Ctx) : Ctx :=
  { y with pc := 0, npc := 0, nnpc := 0, n0 := false, n1 := false, dg0 := false, dg1 := false, loop := none, retired := 0, wait := .none_, waitSince := 0, suppress := 0, afterEret := false,
           heldNames := none, lastPc := 0, accs := y.accs.map fun a => { a with seq := 0 } }

/-- The instructions that read scalars, write s[D], and neither trap nor touch anything else (R82 to R99): the ALU, the
multiplier and divider, and the immediates. -/
def scalarForms (d a b c : Fin 16) (i : Fin 65536) (j : Fin 64) : List Instr :=
  [.add d a b, .sub d a b, .and_ d a b, .or_ d a b, .xor d a b, .andn d a b, .shl d a b, .shr d a b, .shra d a b, .rotl d a b, .min d a b, .max d a b, .minn d a b, .maxn d a b, .seq d a b, .sne d a b, .slt d a b, .sltn d a b, .sel d a b c, .clz d a, .ctz d a, .popc d a, .mov d a, .mul d a b, .mulh d a b, .mulhn d a b, .div d a b, .divn d a b, .rem d a b, .remn d a b, .addi d a i, .andi d a i, .ori d a i, .xori d a i, .shli d a j, .shri d a j, .shrai d a j, .slti d a i, .li d i, .lih d a i]

/-- The instructions on floats in scalars (R93 to R99), which write s[D] and raise flags in FPFLAGS. -/
def floatForms (d a b c : Fin 16) (p : Prec) (o : FcmpPred) (v : FcvtOp) (n : Bool) : List Instr :=
  [.fadd d a b p, .fsub d a b p, .fmul d a b p, .fdiv d a b p, .fsqrt d a p, .fmin d a b p, .fmax d a b p, .fcmp d a b o p, .fcvt d a v, .fclass d a p, .fma d a b n p c]

/-- The row instructions of three rows (R141). -/
def rowForms (d a b r k : Fin 16) (t : Ty) : List Instr :=
  [.vadd d a b r k t, .vsub d a b r k t, .vmul d a b r k t, .vfma d a b r k t, .vmin d a b r k t, .vmax d a b r k t, .vabsd d a b r k t, .vand d a b r k t, .vor d a b r k t, .vxor d a b r k t, .vshl d a b r k t, .vshr d a b r k t, .vshra d a b r k t, .vceq d a b r k t, .vclt d a b r k t, .vsel d a b r k t, .vshuf d a b r k t]

end Sys2Proof.Machine
end

