-- ==== Sys2Proof/Certificates/Slice0/Obligations.lean ====
section
/-! DEFINITION. What the provers are asked to prove of this model. -/

namespace Sys2Proof

open Sys2Proof.Machine

end Sys2Proof

open Sys2Proof Sys2Proof.Machine in
/-- For every state in which the scalars that it reads and writes are ready, each of ADD, SUB, AND, OR, XOR, ANDN,
SHL, SHR, SHRA, ROTL, MIN, MAX, MINN, MAXN, SEQ, SNE, SLT and SLTN gives a next state: the one in which s[D]
holds the value of Table 4.6, poisoned if either operand is poisoned, and nothing else is written before the
group ends. -/
def Obligations.AluTwoOperandResults : Prop :=
  ∀ (d a b : Fin 16) (s : State), Ready s [d, a, b] →
  (exec (.add d a b) s = .next (settled s (.done (wrS d { val := (rdS s a).val + (rdS s b).val, poison := (rdS s a).poison || (rdS s b).poison } s) .next))) ∧
  (exec (.sub d a b) s = .next (settled s (.done (wrS d { val := (rdS s a).val - (rdS s b).val, poison := (rdS s a).poison || (rdS s b).poison } s) .next))) ∧
  (exec (.and_ d a b) s = .next (settled s (.done (wrS d { val := (rdS s a).val &&& (rdS s b).val, poison := (rdS s a).poison || (rdS s b).poison } s) .next))) ∧
  (exec (.or_ d a b) s = .next (settled s (.done (wrS d { val := (rdS s a).val ||| (rdS s b).val, poison := (rdS s a).poison || (rdS s b).poison } s) .next))) ∧
  (exec (.xor d a b) s = .next (settled s (.done (wrS d { val := (rdS s a).val ^^^ (rdS s b).val, poison := (rdS s a).poison || (rdS s b).poison } s) .next))) ∧
  (exec (.andn d a b) s = .next (settled s (.done (wrS d { val := (rdS s a).val &&& ~~~(rdS s b).val, poison := (rdS s a).poison || (rdS s b).poison } s) .next))) ∧
  (exec (.shl d a b) s = .next (settled s (.done (wrS d { val := (rdS s a).val <<< ((rdS s b).val.toNat % 64), poison := (rdS s a).poison || (rdS s b).poison } s) .next))) ∧
  (exec (.shr d a b) s = .next (settled s (.done (wrS d { val := (rdS s a).val >>> ((rdS s b).val.toNat % 64), poison := (rdS s a).poison || (rdS s b).poison } s) .next))) ∧
  (exec (.shra d a b) s = .next (settled s (.done (wrS d { val := (rdS s a).val.sshiftRight ((rdS s b).val.toNat % 64), poison := (rdS s a).poison || (rdS s b).poison } s) .next))) ∧
  (exec (.rotl d a b) s = .next (settled s (.done (wrS d { val := (rdS s a).val.rotateLeft ((rdS s b).val.toNat % 64), poison := (rdS s a).poison || (rdS s b).poison } s) .next))) ∧
  (exec (.min d a b) s = .next (settled s (.done (wrS d { val := if (rdS s a).val.toInt < (rdS s b).val.toInt then (rdS s a).val else (rdS s b).val, poison := (rdS s a).poison || (rdS s b).poison } s) .next))) ∧
  (exec (.max d a b) s = .next (settled s (.done (wrS d { val := if (rdS s a).val.toInt < (rdS s b).val.toInt then (rdS s b).val else (rdS s a).val, poison := (rdS s a).poison || (rdS s b).poison } s) .next))) ∧
  (exec (.minn d a b) s = .next (settled s (.done (wrS d { val := if (rdS s a).val.toNat < (rdS s b).val.toNat then (rdS s a).val else (rdS s b).val, poison := (rdS s a).poison || (rdS s b).poison } s) .next))) ∧
  (exec (.maxn d a b) s = .next (settled s (.done (wrS d { val := if (rdS s a).val.toNat < (rdS s b).val.toNat then (rdS s b).val else (rdS s a).val, poison := (rdS s a).poison || (rdS s b).poison } s) .next))) ∧
  (exec (.seq d a b) s = .next (settled s (.done (wrS d { val := if (rdS s a).val = (rdS s b).val then 1 else 0, poison := (rdS s a).poison || (rdS s b).poison } s) .next))) ∧
  (exec (.sne d a b) s = .next (settled s (.done (wrS d { val := if (rdS s a).val ≠ (rdS s b).val then 1 else 0, poison := (rdS s a).poison || (rdS s b).poison } s) .next))) ∧
  (exec (.slt d a b) s = .next (settled s (.done (wrS d { val := if (rdS s a).val.toInt < (rdS s b).val.toInt then 1 else 0, poison := (rdS s a).poison || (rdS s b).poison } s) .next))) ∧
  (exec (.sltn d a b) s = .next (settled s (.done (wrS d { val := if (rdS s a).val.toNat < (rdS s b).val.toNat then 1 else 0, poison := (rdS s a).poison || (rdS s b).poison } s) .next)))

open Sys2Proof Sys2Proof.Machine in
/-- For every state with ready scalars, SEL writes s[A] if s[C] is not 0 and s[B] otherwise, poisoned by the
selector and by the chosen operand; CLZ and CTZ write the number n of zero bits at the high or low end: n is at
most 64, the n end bits are zero, and the next bit is one if n is below 64; POPC writes the number of one bits;
MOV writes s[A]. -/
def Obligations.AluCountsAndMoves : Prop :=
  ∀ (d a b c : Fin 16) (s : State), Ready s [d, a, b, c] →
  exec (.sel d a b c) s = .next (settled s (.done (wrS d
    { val := if (rdS s c).val = 0 then (rdS s b).val else (rdS s a).val,
      poison := (rdS s c).poison || (if (rdS s c).val = 0 then (rdS s b).poison else (rdS s a).poison) } s) .next)) ∧
  exec (.mov d a) s = .next (settled s (.done (wrS d (rdS s a) s) .next)) ∧
  exec (.popc d a) s = .next (settled s (.done (wrS d
    { val := BitVec.ofNat 64 ((List.range 64).filter fun i => (rdS s a).val.getLsbD i).length, poison := (rdS s a).poison } s)
    .next)) ∧
  (∃ n : Nat, n ≤ 64 ∧ (∀ i, 64 - n ≤ i → i < 64 → (rdS s a).val.getLsbD i = false) ∧
    (n < 64 → (rdS s a).val.getLsbD (63 - n) = true) ∧
    exec (.clz d a) s = .next (settled s (.done (wrS d
      { val := BitVec.ofNat 64 n, poison := (rdS s a).poison } s) .next))) ∧
  (∃ n : Nat, n ≤ 64 ∧ (∀ i, i < n → (rdS s a).val.getLsbD i = false) ∧
    (n < 64 → (rdS s a).val.getLsbD n = true) ∧
    exec (.ctz d a) s = .next (settled s (.done (wrS d
      { val := BitVec.ofNat 64 n, poison := (rdS s a).poison } s) .next)))

open Sys2Proof Sys2Proof.Machine in
/-- For every state with ready scalars, MUL, MULH, MULHN, DIV, DIVN, REM and REMN give a next state in which s[D]
holds the value of Table 4.7: division truncates toward zero, a zero divisor gives all ones as the quotient and
the dividend as the remainder, and no value traps. For every state with ready scalars, ADDI, ANDI, ORI, XORI,
SLTI and LIH, the shifts SHLI, SHRI and SHRAI, and LI give a next state in which s[D] holds the value of Table
4.8 with the sign- or zero-extended immediate, poisoned as s[A] is; LI is never poisoned. -/
def Obligations.MultiplyDivideImmediateResults : Prop :=
  (∀ (d a b : Fin 16) (s : State), Ready s [d, a, b] →
  (exec (.mul d a b) s = .next (settled s (.done (wrS d { val := (rdS s a).val * (rdS s b).val, poison := (rdS s a).poison || (rdS s b).poison } s) .next))) ∧
  (exec (.mulh d a b) s = .next (settled s (.done (wrS d { val := BitVec.ofInt 64 ((rdS s a).val.toInt * (rdS s b).val.toInt / 2 ^ 64), poison := (rdS s a).poison || (rdS s b).poison } s) .next))) ∧
  (exec (.mulhn d a b) s = .next (settled s (.done (wrS d { val := BitVec.ofNat 64 ((rdS s a).val.toNat * (rdS s b).val.toNat / 2 ^ 64), poison := (rdS s a).poison || (rdS s b).poison } s) .next))) ∧
  (exec (.div d a b) s = .next (settled s (.done (wrS d { val := (if (rdS s b).val = 0 then -1 else BitVec.ofInt 64 (Int.tdiv (rdS s a).val.toInt (rdS s b).val.toInt)), poison := (rdS s a).poison || (rdS s b).poison } s) .next))) ∧
  (exec (.divn d a b) s = .next (settled s (.done (wrS d { val := (if (rdS s b).val = 0 then -1 else BitVec.ofNat 64 ((rdS s a).val.toNat / (rdS s b).val.toNat)), poison := (rdS s a).poison || (rdS s b).poison } s) .next))) ∧
  (exec (.rem d a b) s = .next (settled s (.done (wrS d { val := (rdS s a).val - (rdS s b).val * (if (rdS s b).val = 0 then -1 else BitVec.ofInt 64 (Int.tdiv (rdS s a).val.toInt (rdS s b).val.toInt)), poison := (rdS s a).poison || (rdS s b).poison } s) .next))) ∧
  (exec (.remn d a b) s = .next (settled s (.done (wrS d { val := (rdS s a).val - (rdS s b).val * (if (rdS s b).val = 0 then -1 else BitVec.ofNat 64 ((rdS s a).val.toNat / (rdS s b).val.toNat)), poison := (rdS s a).poison || (rdS s b).poison } s) .next))) ∧
  ((rdS s b).val = 0 → exec (.rem d a b) s = .next (settled s (.done (wrS d { val := (rdS s a).val, poison := (rdS s a).poison || (rdS s b).poison } s) .next)))) ∧
  (∀ (d a : Fin 16) (i : Fin 65536) (j : Fin 64) (s : State), Ready s [d, a] →
  (exec (.addi d a i) s = .next (settled s (.done (wrS d { val := (rdS s a).val + BitVec.ofInt 64 (if i.val < 32768 then (i.val : Int) else i.val - 65536), poison := (rdS s a).poison } s) .next))) ∧
  (exec (.andi d a i) s = .next (settled s (.done (wrS d { val := (rdS s a).val &&& BitVec.ofInt 64 (if i.val < 32768 then (i.val : Int) else i.val - 65536), poison := (rdS s a).poison } s) .next))) ∧
  (exec (.ori d a i) s = .next (settled s (.done (wrS d { val := (rdS s a).val ||| BitVec.ofNat 64 i.val, poison := (rdS s a).poison } s) .next))) ∧
  (exec (.xori d a i) s = .next (settled s (.done (wrS d { val := (rdS s a).val ^^^ BitVec.ofNat 64 i.val, poison := (rdS s a).poison } s) .next))) ∧
  (exec (.slti d a i) s = .next (settled s (.done (wrS d { val := if (rdS s a).val.toInt < (BitVec.ofInt 64 (if i.val < 32768 then (i.val : Int) else i.val - 65536)).toInt then 1 else 0, poison := (rdS s a).poison } s) .next))) ∧
  (exec (.lih d a i) s = .next (settled s (.done (wrS d { val := (rdS s a).val * 65536 + BitVec.ofNat 64 i.val, poison := (rdS s a).poison } s) .next))) ∧
  (exec (.shli d a j) s = .next (settled s (.done (wrS d { val := (rdS s a).val <<< j.val, poison := (rdS s a).poison } s) .next))) ∧
  (exec (.shri d a j) s = .next (settled s (.done (wrS d { val := (rdS s a).val >>> j.val, poison := (rdS s a).poison } s) .next))) ∧
  (exec (.shrai d a j) s = .next (settled s (.done (wrS d { val := (rdS s a).val.sshiftRight j.val, poison := (rdS s a).poison } s) .next))) ∧
  (exec (.li d i) s = .next (settled s (.done (wrS d { val := BitVec.ofInt 64 (if i.val < 32768 then (i.val : Int) else i.val - 65536), poison := false } s) .next))))

open Sys2Proof Sys2Proof.Machine in
/-- For every state with ready scalars and both precisions, FADD, FSUB, FMUL, FDIV, FSQRT, FMIN and FMAX write the
exact result rounded once in the mode of FPMODE, poisoned if an operand is; the flags of the operation and of
the rounding are added to FPFLAGS; every code rounded to f32 is below 2 to the 32, so that the result of
an f32 form has zeros above bit 31, and so is what FCVT makes of any operand in f32. For every state with ready
scalars, FCMP writes 1 when its predicate holds and 0 otherwise with the flags of Table 4.10; FCVT writes the
converted value with its flags; FMA rounds the exact value of the product, negated with neg, plus c once. Each
is poisoned if an operand is. -/
def Obligations.FloatResults : Prop :=
  (∀ (d a b : Fin 16) (p : Prec) (s : State), Ready s [d, a, b] →
  (exec (.fadd d a b p) s = .next (settled s (.done (raiseFp (((precFmt p).round (fpMode s) (sumNum (fpMode s) [precNum p (rdS s a).val, precNum p (rdS s b).val]).1).2 ||| (sumNum (fpMode s) [precNum p (rdS s a).val, precNum p (rdS s b).val]).2) (wrS d
      { val := BitVec.ofNat 64 ((precFmt p).round (fpMode s) (sumNum (fpMode s) [precNum p (rdS s a).val, precNum p (rdS s b).val]).1).1, poison := (rdS s a).poison || (rdS s b).poison } s)) .next))) ∧
  (exec (.fsub d a b p) s = .next (settled s (.done (raiseFp (((precFmt p).round (fpMode s) (sumNum (fpMode s) [precNum p (rdS s a).val, (precNum p (rdS s b).val).negate]).1).2 ||| (sumNum (fpMode s) [precNum p (rdS s a).val, (precNum p (rdS s b).val).negate]).2) (wrS d
      { val := BitVec.ofNat 64 ((precFmt p).round (fpMode s) (sumNum (fpMode s) [precNum p (rdS s a).val, (precNum p (rdS s b).val).negate]).1).1, poison := (rdS s a).poison || (rdS s b).poison } s)) .next))) ∧
  (exec (.fmul d a b p) s = .next (settled s (.done (raiseFp (((precFmt p).round (fpMode s) (mulNum (precNum p (rdS s a).val) (precNum p (rdS s b).val)).1).2 ||| (mulNum (precNum p (rdS s a).val) (precNum p (rdS s b).val)).2) (wrS d
      { val := BitVec.ofNat 64 ((precFmt p).round (fpMode s) (mulNum (precNum p (rdS s a).val) (precNum p (rdS s b).val)).1).1, poison := (rdS s a).poison || (rdS s b).poison } s)) .next))) ∧
  (exec (.fdiv d a b p) s = .next (settled s (.done (raiseFp (((precFmt p).round (fpMode s) (divNum (precNum p (rdS s a).val) (precNum p (rdS s b).val)).1).2 ||| (divNum (precNum p (rdS s a).val) (precNum p (rdS s b).val)).2) (wrS d
      { val := BitVec.ofNat 64 ((precFmt p).round (fpMode s) (divNum (precNum p (rdS s a).val) (precNum p (rdS s b).val)).1).1, poison := (rdS s a).poison || (rdS s b).poison } s)) .next))) ∧
  (exec (.fmin d a b p) s = .next (settled s (.done (raiseFp (((precFmt p).round (fpMode s) (minNum (precNum p (rdS s a).val) (precNum p (rdS s b).val)).1).2 ||| (minNum (precNum p (rdS s a).val) (precNum p (rdS s b).val)).2) (wrS d
      { val := BitVec.ofNat 64 ((precFmt p).round (fpMode s) (minNum (precNum p (rdS s a).val) (precNum p (rdS s b).val)).1).1, poison := (rdS s a).poison || (rdS s b).poison } s)) .next))) ∧
  (exec (.fmax d a b p) s = .next (settled s (.done (raiseFp (((precFmt p).round (fpMode s) (maxNum (precNum p (rdS s a).val) (precNum p (rdS s b).val)).1).2 ||| (maxNum (precNum p (rdS s a).val) (precNum p (rdS s b).val)).2) (wrS d
      { val := BitVec.ofNat 64 ((precFmt p).round (fpMode s) (maxNum (precNum p (rdS s a).val) (precNum p (rdS s b).val)).1).1, poison := (rdS s a).poison || (rdS s b).poison } s)) .next))) ∧
  (exec (.fsqrt d a p) s = .next (settled s (.done (raiseFp (((precFmt p).round (fpMode s) (sqrtNum (precNum p (rdS s a).val)).1).2 ||| (sqrtNum (precNum p (rdS s a).val)).2) (wrS d
      { val := BitVec.ofNat 64 ((precFmt p).round (fpMode s) (sqrtNum (precNum p (rdS s a).val)).1).1, poison := (rdS s a).poison } s)) .next)))) ∧
  (∀ (d a b c : Fin 16) (q : FcmpPred) (o : FcvtOp) (n : Bool) (p : Prec) (s : State), Ready s [d, a, b, c] →
  (let r := fcmpHolds q (precNum p (rdS s a).val) (precNum p (rdS s b).val)
   exec (.fcmp d a b q p) s = .next (settled s (.done (raiseFp r.2 (wrS d
     { val := if r.1 then 1 else 0, poison := (rdS s a).poison || (rdS s b).poison } s)) .next))) ∧
  (let r := cvtScalar o (fpMode s) (rdS s a).val
   exec (.fcvt d a o) s = .next (settled s (.done (raiseFp r.2 (wrS d
     { val := BitVec.ofNat 64 r.1, poison := (rdS s a).poison } s)) .next))) ∧
  (let v := fmaNum (fpMode s) n (precNum p (rdS s a).val) (precNum p (rdS s b).val) (precNum p (rdS s c).val)
   let r := (precFmt p).round (fpMode s) v.1
   exec (.fma d a b n p c) s = .next (settled s (.done (raiseFp (r.2 ||| v.2) (wrS d
     { val := BitVec.ofNat 64 r.1, poison := (rdS s a).poison || (rdS s b).poison || (rdS s c).poison } s)) .next)))) ∧
  (∀ (m : Mode) (v : Machine.Num) (w : Word), ((precFmt .f32).round m v).1 < 2 ^ 32 ∧
    ∀ o ∈ [FcvtOp.f32f64, .f32i64, .f32n64], (cvtScalar o m w).1 < 2 ^ 32)

open Sys2Proof Sys2Proof.Machine in
/-- For every state with ready, unpoisoned operands, each of the eight branches gives a next state that differs only
by its hand-over: taken by the condition of Table 4.2, to the address of the branch word plus 4 times DISP14,
and nullifying its delay groups for .nt when not taken and for .tk when taken. Either operand poisoned raises
POISON_CONSUMED instead, for each of the eight, and so does a poisoned target of JR or JLR, and a poisoned count of
a LOOP whose body it accepts. For every state with ready, unpoisoned operands, J and JL go to the address of the jump
word plus 4 times DISP24, JR and JLR to s[A] when its bits 1 to 0 are zero; JL and JLR write Seq(nnPC),
unpoisoned, to s15, JLR after reading s[A]. A JR or JLR target with bits 1 to 0 not zero raises ALIGN with the
target in EVAL. For every state in which LOOP is legal, its count register is ready and not poisoned, every word
of its body can be fetched and none is a branch, a jump, a LOOP or an ERET, nor a last word that opens a pair,
LOOP gives a next state: the loop starts at Seq(PC) with LEN words as fetched, the low 32 bits of s[CNT] as the
count, and the rotation fields. -/
def Obligations.BranchesJumpsAndLoops : Prop :=
  (∀ (n : NullCode) (a b : Fin 16) (d : Fin 16384) (s : State), Ready s [a, b] →
  let tgt := (BitVec.ofNat 64 (opCtx s).pc + BitVec.ofInt 64 ((if d.val < 8192 then (d.val : Int) else d.val - 16384) * 4)).toNat
  let kill := fun taken : Bool => match n with
    | .none => false
    | .nt => !taken
    | .tk => taken
  (Clean s [a, b] →
  (exec (.beq n a b d) s = .next (settled s (.done s (.branch (decide ((rdS s a).val = (rdS s b).val)) tgt (kill (decide ((rdS s a).val = (rdS s b).val))))))) ∧
  (exec (.bne n a b d) s = .next (settled s (.done s (.branch (decide ((rdS s a).val ≠ (rdS s b).val)) tgt (kill (decide ((rdS s a).val ≠ (rdS s b).val))))))) ∧
  (exec (.blt n a b d) s = .next (settled s (.done s (.branch (decide ((rdS s a).val.toInt < (rdS s b).val.toInt)) tgt (kill (decide ((rdS s a).val.toInt < (rdS s b).val.toInt))))))) ∧
  (exec (.bge n a b d) s = .next (settled s (.done s (.branch (decide ((rdS s b).val.toInt ≤ (rdS s a).val.toInt)) tgt (kill (decide ((rdS s b).val.toInt ≤ (rdS s a).val.toInt))))))) ∧
  (exec (.bltn n a b d) s = .next (settled s (.done s (.branch (decide ((rdS s a).val.toNat < (rdS s b).val.toNat)) tgt (kill (decide ((rdS s a).val.toNat < (rdS s b).val.toNat))))))) ∧
  (exec (.bgen n a b d) s = .next (settled s (.done s (.branch (decide ((rdS s b).val.toNat ≤ (rdS s a).val.toNat)) tgt (kill (decide ((rdS s b).val.toNat ≤ (rdS s a).val.toNat))))))) ∧
  (exec (.bz n a d) s = .next (settled s (.done s (.branch (decide ((rdS s a).val = 0)) tgt (kill (decide ((rdS s a).val = 0))))))) ∧
  (exec (.bnz n a d) s = .next (settled s (.done s (.branch (decide ((rdS s a).val ≠ 0)) tgt (kill (decide ((rdS s a).val ≠ 0)))))))) ∧
  ((rdS s a).poison = true ∨ (rdS s b).poison = true →
    ∀ i ∈ [Instr.beq n a b d, .bne n a b d, .blt n a b d, .bge n a b d, .bltn n a b d, .bgen n a b d],
      exec i s = .next (settled s (.trap { cause := .poisonConsumed }))) ∧
  ((rdS s a).poison = true → ∀ i ∈ [Instr.bz n a d, .bnz n a d],
    exec i s = .next (settled s (.trap { cause := .poisonConsumed })))) ∧
  (∀ (a : Fin 16) (s : State), Ready s [15] → Ready s [a] → (rdS s a).poison = true → ∀ i ∈ [Instr.jr a, .jlr a],
    exec i s = .next (settled s (.trap { cause := .poisonConsumed }))) ∧
  (∀ (a : Fin 16) (d : Fin 16777216) (s : State), Ready s [15] → Ready s [a] → Clean s [a] →
  let tgt := (BitVec.ofNat 64 (opCtx s).pc +
    BitVec.ofInt 64 ((if d.val < 8388608 then (d.val : Int) else d.val - 16777216) * 4)).toNat
  let link : Scalar := { val := BitVec.ofNat 64 (seqAddr s s.focusTile s.focusCtx (opCtx s).nnpc), poison := false }
  exec (.j d) s = .next (settled s (.done s (.branch true tgt false))) ∧
  exec (.jl d) s = .next (settled s (.done (wrS 15 link s) (.branch true tgt false))) ∧
  ((rdS s a).val.toNat % 4 = 0 →
    exec (.jr a) s = .next (settled s (.done s (.branch true (rdS s a).val.toNat false))) ∧
    exec (.jlr a) s = .next (settled s (.done (wrS 15 link s) (.branch true (rdS s a).val.toNat false)))) ∧
  ((rdS s a).val.toNat % 4 ≠ 0 →
    exec (.jr a) s = .next (settled s (.trap { cause := .align, eval := (rdS s a).val })) ∧
    exec (.jlr a) s = .next (settled s (.trap { cause := .align, eval := (rdS s a).val })))) ∧
  (∀ (c : Fin 16) (n : Fin 64) (b : Fin 16) (w : Fin 4) (st : Fin 16) (s : State),
  Legal s (.loop c n b w st) → Ready s [c] →
  let bs := seqAddr s s.focusTile s.focusCtx (opCtx s).pc
  ∀ words : List Nat, words.length = n.val + 1 →
  (∀ k, k < n.val + 1 → fetchWord s s.focusTile s.focusCtx (bs + 4 * k) = some (words.getD k 0) ∧
    bodyForbids (words.getD k 0) = false) →
  endsInPair bs (words.map some) = false →
  ((rdS s c).poison = true → exec (.loop c n b w st) s = .next (settled s (.trap { cause := .poisonConsumed }))) ∧
  (Clean s [c] → exec (.loop c n b w st) s = .next (settled s (.done s (.loopStart
    { bs := bs, len := n.val + 1, rem := (rdS s c).val.toNat % 2 ^ 32 - 1, pass := 0, rotb := b.val, rotw := w.val,
      stride := st.val, words := words } ((rdS s c).val.toNat % 2 ^ 32))))))

open Sys2Proof Sys2Proof.Machine in
/-- In every state NOP changes nothing before its group ends; TRAP n ends its group and then raises TRAP_INSTRUCTION
with ARG n; BRK n raises BREAKPOINT with ARG n before any effect; YIELD gives the core away in ring mode and
changes nothing in interleave mode; PFX notes its four fields for the group that follows; WAIT completes when
the four counts are within its limits. In every state in which no own-vault write of the context is held back by
HOLD and the context has no tile move and no matrix operation, HALT gives a next state: the merged host write is
sent on its way, any loop ends with its pending passes, and the context issues no further group (its phase is
halted). -/
def Obligations.SystemWordsComplete : Prop :=
  (∀ (n : Fin 64) (o : Ord) (c : Scope) (p : Spc) (q : Pol) (a b e f : Fin 64) (s : State),
  exec .nop s = .next (settled s (.done s .next)) ∧
  exec (.trap n) s = .next (settled s (.done s (.trapAfter .trapInstruction n.val))) ∧
  exec (.brk n) s = .next (settled s (.trap { cause := .breakpoint, arg := n.val, eval := 0 })) ∧
  ((coreOf s s.focusTile (coreIx s.focusCtx)).mode = true → exec .yield s = .next (settled s (.done s .next))) ∧
  ((coreOf s s.focusTile (coreIx s.focusCtx)).mode = false →
    exec .yield s = .next (settled s (.done (modCore s.focusTile (coreIx s.focusCtx)
      (fun k => { k with cur := none, lastCur := s.focusCtx % 4 }) s) .next))) ∧
  exec (.pfx o c p q) s = .next (settled s (.done
    { s with grp := { s.grp with pfx := some { ord := o, scope := c, spc := p, pol := q } } } .prefixed)) ∧
  (loadCount s ≤ a.val → storeCount s ≤ b.val → copyCount s ≤ e.val → matCount s ≤ f.val →
    exec (.wait a b e f) s = .next (settled s (.done s .next)))) ∧
  (∀ s : State, heldWrite s = none → matCount s = 0 → curMoves s = [] →
  exec .halt s = .next (settled s (.done
    (modCur (fun y => { issueMerged y with phase := .halted, loop := none }) s) .halted)))

open Sys2Proof Sys2Proof.Machine in
/-- A FENCE whose resolved ordering is relaxed has no effect in any state; an acquire FENCE completes when no load
of the context is unperformed, a release, acquire-release or scoped-sequential one when no access is, each after
sending the merged host write on its way; beyond what it makes hb-before what follows, at its own scope or that
of MDEF, it changes nothing. PUBLISH with ready, unpoisoned operands, at an 8-aligned word of a resident host
page that accepts writes, completes by one 8-byte release store at SYSTEM scope after the release. A context's
release or acquire at a scope covers the contexts of its tile, its cluster, its sector, of the device, or of
everything; the host is covered at SYSTEM scope alone. -/
def Obligations.FenceAndPublishComplete : Prop :=
  ∀ (c : Scope) (o : FOrd) (a b : Fin 16) (r : Resolved) (s : State),
  (fenceOrd s o = .relaxed → exec (.fence c o) s = .next (settled s (.done s .next))) ∧
  (fenceOrd s o = .acquire →
    (let s' := modCur issueMerged s
     accWait (curTile s') ((cur s').accs.filter fun a =>
      unperformed a && (decide (a.kind ≠ .store) && decide (a.kind ≠ .rowStore)))
      ((curMoves s').filter fun m => !m.op.writes) = none → imageLoads s' = false →
     exec (.fence c o) s = .next (settled s (.done (fenceSync .acquire (fenceScope s c) s') .next)))) ∧
  (releases (fenceOrd s o) = true → ∀ s', OrderMet s (fenceOrd s o) s' →
    exec (.fence c o) s = .next (settled s (.done (fenceSync (fenceOrd s o) (fenceScope s c) s') .next))) ∧
  (∀ (p : Ord) (t : Nat), let u := fenceSync p c s
    ({ u with tiles := [], scOrder := [] } : State) = { s with tiles := [], scOrder := [] } ∧
    { cur u with sight := {} } = { cur s with sight := {} } ∧
    (Sparse.get none (curTile s).pairs s.focusCtx = none → { tileOf u t with ctxs := [] } = { tileOf s t with ctxs := [] } ∧
      ∀ d, ¬(t = s.focusTile ∧ d = s.focusCtx) → ctxOf u t d = ctxOf s t d)) ∧
  (∀ t t' : Nat, t < 2048 → t' < 2048 →
    (covers (.ctx t) .tile (.ctx t') = true ↔ t = t') ∧ (covers (.ctx t) .cluster (.ctx t') = true ↔ clusterOf t = clusterOf t') ∧
    (covers (.ctx t) .sector (.ctx t') = true ↔ sectorOf t = sectorOf t') ∧ covers (.ctx t) .device (.ctx t') = true ∧
    covers (.ctx t) .system (.ctx t') = true ∧ covers (.ctx t) .system .host = true ∧
    ∀ sc, sc ≠ .system → covers (.ctx t) sc .host = false) ∧
  (Ready s [a, b] → Clean s [a, b] →
    checkAccess s (curView s) (.core (coreIx s.focusCtx)) (rdS s a).val 8 8 true .dflt .host = .ok r →
    r.wb = false → (cur s).priFail = false → s.mgmt.link = true → hostAllows s r.pa true = true →
    ∀ s', ReleaseMet s s' →
    exec (.publish a b) s = .next (settled s (.done (sendAcc
      { kind := .store, va := (rdS s a).val.toNat, size := 8, data := BitVec.ofNat 512 (rdS s b).val.toNat,
        ord := .release, scope := .system, pol := .keep } r s') .next)))

open Sys2Proof Sys2Proof.Machine in
/-- In every state in which it is legal, with a ready destination, MFC writes the whole register, unpoisoned, to
s[D], for each of the 35 registers (TIME outside a replay, after its value is logged if the launch records). MTC
with a ready, unpoisoned operand that sets no reserved bit or code writes the fields that are RW and leaves the
others; STATUS only with PPRV at most PRV. MTC of a reserved bit or code raises FIELD_RESERVED, and a PPRV above
PRV raises PRIVILEGE. In every state in which it is legal, with a ready, unpoisoned s[A], TLBINV gives a next
state in which both first-level TLBs, the tile TLB and the agent TLB of the tile hold exactly the entries that
do not map s[A], or none with ALL = 1; while the tile's agent has writes of a procedure under way and an entry of its
TLB or of the tile TLB would go, it waits for them first. -/
def Obligations.ControlRegistersMove : Prop :=
  (∀ (d a : Fin 16) (r : CReg) (s : State),
  (Legal s (.mfc d r) → Ready s [d] → r ≠ .time →
    exec (.mfc d r) s = .next (settled s (.done (wrS d { val := rdCreg s r, poison := false } s) .next))) ∧
  (Legal s (.mfc d .time) → Ready s [d] → replaying s s.focusTile = false →
    exec (.mfc d .time) s = .next (settled s (.done (wrS d { val := timeWord s, poison := false }
      (logPut s.focusTile 6 s.focusCtx 0 ((cur s).retired + 1) (timeWord s).toNat s)) .next))) ∧
  (Legal s (.mtc a r) → Ready s [a] → Clean s [a] →
    (cregRefuses r (rdS s a).val = true →
      exec (.mtc a r) s = .next (settled s (.trap { cause := .fieldReserved }))) ∧
    (cregRefuses r (rdS s a).val = false →
      (r = .status → wfld (rdS s a).val 2 2 > prv (opCtx s) →
        exec (.mtc a r) s = .next (settled s (.trap { cause := .privilege }))) ∧
      ((r = .status → wfld (rdS s a).val 2 2 ≤ prv (opCtx s)) →
        exec (.mtc a r) s = .next (settled s (.done (putCreg s.focusTile s.focusCtx r (rdS s a).val s) .next)))))) ∧
  (∀ (a : Fin 16) (g : Bool) (s : State), Legal s (.tlbinv a g) → Ready s [a] → Clean s [a] →
  let keep := fun e : TlbEntry => !g && !(decide (e.base ≤ (rdS s a).val.toNat) && decide ((rdS s a).val.toNat < e.base + e.size))
  ((∀ q ∈ (curTile s).agentq, q.writes = []) ∨ (∀ e ∈ (curTile s).agentTlb ++ (curTile s).tlb, keep e = true) →
    exec (.tlbinv a g) s = .next (settled s (.done (modCurTile (fun x =>
      { x with tlb := x.tlb.filter keep, agentTlb := x.agentTlb.filter keep,
               cores := x.cores.map fun kc => (kc.1, { kc.2 with tlb := kc.2.tlb.filter keep }) }) s) .next))) ∧
  ((∃ q ∈ (curTile s).agentq, q.writes ≠ []) → (∃ e ∈ (curTile s).agentTlb ++ (curTile s).tlb, keep e = false) →
    exec (.tlbinv a g) s = .next (settled s (.wait s .scoreboard))))

open Sys2Proof Sys2Proof.Machine in
/-- In every state of a context at SUPER or FIRM, legal for ERET, with no stopped move to resume, ERET gives the
next state of eretState, in which PC, nPC, nnPC and the four bits are those of EPC, ENPC, ENNPC and EANNUL, PRV
is PPRV, EXL is 0, every scalar and PM are as before, and each byte of memory is unchanged when the monitor is
off. With no valid bit in ELOOP no loop runs; with one the loop that ELOOP describes runs, its body beginning
4 × OFF before EPC, with its pass and its repetitions left. At FIRM, outside the firmware core, the eight trap
registers and STATUS, but for PM, come back from the shadow, and the shadow is empty. At SUPER, with PM set, MWORD not
zero and no such move there is, ERET raises FIELD_RESERVED and changes nothing; where MWORD is the word of an XLD, an
XST, an XLDT or a WLD whose register is bound or whose slot is held, and whose segments from EVAL[3:0] on (all 16 of an
XLDT), at the address that EVAL gives, pass their checks, ERET restores the same state and the move joins the tile with the
number in ESEQ. That an XLDT begins again is the model's reading (log 59). -/
def Obligations.EretRestores : Prop :=
  (∀ s : State, Legal s .eret → prv (cur s) = 1 → s.grp.snap = none → (pm (cur s) = false ∨ wfld (cur s).ecause 32 32 = 0) →
  s.focusTile ≠ Config.fwTile →
  exec .eret s = .next (settled s (.done (eretState s) .eret)) ∧
  (let y := cur s
   let z := ctxOf (eretState s) s.focusTile s.focusCtx
   z.pc = y.epc.toNat ∧ z.npc = y.enpc.toNat ∧ z.nnpc = y.ennpc.toNat ∧
   z.n0 = y.eannul.getLsbD 0 ∧ z.n1 = y.eannul.getLsbD 1 ∧ z.dg0 = y.eannul.getLsbD 2 ∧ z.dg1 = y.eannul.getLsbD 3 ∧
   prv z = pprv y ∧ exl z = false ∧ pm z = pm y ∧ z.sregs = y.sregs ∧
   (wbit y.eloop 31 = false → z.loop = none) ∧
   (wbit y.eloop 31 = true → ∃ l, z.loop = some l ∧ l.bs = y.epc.toNat - 4 * wfld y.eloop 16 6 ∧ l.len = wfld y.eloop 22 6 + 1 ∧
     l.pass = wfld y.eloop 28 3 ∧ l.rem = wfld y.eloop 32 32 ∧ l.rotb = wfld y.eloop 12 4 ∧ l.rotw = wfld y.eloop 10 2 ∧
     l.stride = wfld y.eloop 6 4)) ∧
  (wbit (Sparse.get 0 (curTile s).mon 0) 63 = false → (eretState s).mem = s.mem)) ∧
  (∀ (a b d e f g h i w : Word) (s : State), Legal s .eret → prv (cur s) = 2 → s.grp.snap = none →
    (pm (cur s) = false ∨ wfld (cur s).ecause 32 32 = 0) → s.focusTile ≠ Config.fwTile → (cur s).shadow = [a, b, d, e, f, g, h, i, w] →
    let y := cur s
    let z := ctxOf (eretState s) s.focusTile s.focusCtx
    exec .eret s = .next (settled s (.done (eretState s) .eret)) ∧ z.pc = y.epc.toNat ∧ z.npc = y.enpc.toNat ∧ z.nnpc = y.ennpc.toNat ∧
    z.n0 = y.eannul.getLsbD 0 ∧ z.n1 = y.eannul.getLsbD 1 ∧ z.dg0 = y.eannul.getLsbD 2 ∧ z.dg1 = y.eannul.getLsbD 3 ∧
    z.epc = a ∧ z.enpc = b ∧ z.ennpc = d ∧ z.eannul = e ∧ z.ecause = f ∧ z.eval = g ∧ z.eseq = h ∧ z.eloop = i ∧
    (∀ n, n < 64 → n ≠ 7 → z.status.getLsbD n = w.getLsbD n) ∧ pm z = pm y ∧ z.shadow = [] ∧ z.sregs = y.sregs) ∧
  (∀ (x b : Fin 16) (sl : Fin 4) (c : Bool) (pt : Fin 8) (xw : XldtW) (j : Fin 4096) (p : Nat) (l : List Resolved)
    (scl : Option Nat) (s s'' : State), Legal s .eret → prv (cur s) = 1 → s.grp.snap = none → s.focusTile ≠ Config.fwTile →
    pm (cur s) = true → wfld (cur s).ecause 32 32 ≠ 0 →
    let mw := wfld (cur s).ecause 32 32
    let ev := (cur s).eval.toNat
    (mw / 2 ^ 24 % 128 < 0x17 ∨ 0x1A < mw / 2 ^ 24 % 128 ∨ ev / 16 % 4 ≠ 0 →
      exec .eret s = .next (settled s (.trap { cause := .fieldReserved }))) ∧
    (0x17 ≤ mw / 2 ^ 24 % 128 → mw / 2 ^ 24 % 128 ≤ 0x1A → ev / 16 % 4 = 0 →
      let s' := eretState s
      let z := ctxOf s' s.focusTile s.focusCtx
      let v := { curView s with firm := decide (prv z = 2), sup := decide (prv z = 1) }
      let req : MoveOp → Nat → Nat → Bool → Bool → MoveReq := fun op reg pitch scl half =>
        { op := op, word := mw, va := (ev / 64 % 2 ^ 46 * 64 + 2 ^ 64 - ev % 16 * pitch) % 2 ^ 64, pitch := pitch,
          n0 := if op = .xldt then 0 else ev % 16, reg := reg, scl := scl, half := half,
          seq := some (BitVec.ofNat 32 (cur s).eseq.toNat) }
      OrderMet s' (prefixOf s').ord s'' →
      let joins := fun q : MoveReq =>
        checkSegs s' v (.core (coreIx s.focusCtx)) q.op.writes (prefixOf s').spc q.va q.pitch ((List.range 16).drop q.n0) none = .ok l →
        checkScale s' v (.core (coreIx s.focusCtx)) z q = .ok scl → (q.op.writes = true → l.any (fun r => r.wb) = false) →
        (l.any (fun r => decide (r.tgt = .vault)) = true → (curMoves s').any (fun m => m.vault) = false) →
        exec .eret s = .next (settled s (.done (addMove q l scl (prefixOf s').ord s'') .eret))
      (decodeWord mw = .ok (.xld x b c pt j) → physOf z x.val = some p → joins (req .xld p (64 * 2 ^ pt.val) c false)) ∧
      (decodeWord mw = .ok (.xldt x b xw j) → physOf z x.val = some p → joins (req .xldt p 64 false (decide (xw = .half)))) ∧
      (decodeWord mw = .ok (.xst x b pt j) → physOf z x.val = some p → joins (req .xst p (64 * 2 ^ pt.val) false false)) ∧
      (decodeWord mw = .ok (.wld sl b c pt j) → holdsSlot (curTile s') s.focusCtx sl.val = true →
        joins (req .wld sl.val (64 * 2 ^ pt.val) c false))))

open Sys2Proof Sys2Proof.Machine in
/-- In every state of a context at TASK privilege whose memory prefix does not matter to them, ERET, TLBINV, MOPW,
ZERO_PAGE, MFC of a register whose read privilege is above TASK and MTC of a register whose write privilege is
above TASK raise PRIVILEGE and change nothing else. -/
def Obligations.SystemPrivilege : Prop :=
  ∀ (d a : Fin 16) (g n t : Bool) (e h : Fin 8) (s : State), prv (opCtx s) = 0 →
  let refused := fun i : Instr => exec i s = .next (settled s (.trap { cause := .privilege }))
  refused .eret ∧ refused (.tlbinv a g) ∧ refused (.mopw e a) ∧ refused (.zeroPage h a n t) ∧
  (∀ r : CReg, r ∈ [CReg.epc, .enpc, .ennpc, .eannul, .ecause, .eval, .eseq, .eloop, .handler] →
    refused (.mfc d r) ∧ refused (.mtc a r)) ∧
  (∀ r : CReg, r ∈ [CReg.status, .spillb, .spillov, .spilllim, .sched, .tilexy, .ctxid, .lvl0, .lvl1, .lvl2, .lvl3,
    .lvl4, .lvl5, .lvl6, .lvl7, .lvln, .time, .seqno] → refused (.mtc a r))

open Sys2Proof Sys2Proof.Machine in
/-- In every state of a lone group whose context has a handler, is not in one, is not replaying and stands at no
resumable group, and is not the firmware core, a class S cause other than BREAKPOINT gives a state in which EPC, ENPC, ENNPC and EANNUL hold
the sequencing state before the group, ECAUSE the cause and ARG, EVAL and ESEQ their values, ELOOP.V is 0
outside a body, PPRV is the old PRV, PRV is SUPER, EXL is 1, PC is HANDLER and the four bits are 0; every
scalar, name, flag and number-mode register of the context is unchanged. With the monitor off and no recording,
every byte of memory is unchanged. ROW_REPAIR, taken below FIRM, saves the same at the firmware vector: PRV is FIRM, PC
the vector, and the shadow holds the eight trap registers and STATUS as they stood before; the repair of its row is in
progress. -/
def Obligations.TrapEntrySaves : Prop :=
  (∀ (tr : Trap) (s : State), s.grp.half = .lone → tr.cause.cls = .s → tr.cause ≠ .breakpoint →
  (cur s).handler ≠ 0 → exl (cur s) = false → replaying s s.focusTile = false →
  stoppedGroup (clearFrame s) s.focusTile s.focusCtx = none → (cur s).loop = none → s.focusTile ≠ Config.fwTile →
  let y := cur s
  let t := settled s (.trap tr)
  let z := ctxOf t s.focusTile s.focusCtx
  z.epc = BitVec.ofNat 64 y.pc ∧ z.enpc = BitVec.ofNat 64 y.npc ∧ z.ennpc = BitVec.ofNat 64 y.nnpc ∧
  z.eannul = BitVec.ofNat 64 (b2n y.n0 + b2n y.n1 * 2 + b2n y.dg0 * 4 + b2n y.dg1 * 8) ∧
  z.ecause = BitVec.ofNat 64 (tr.cause.code + 256 * tr.arg) ∧ z.eval = tr.eval ∧
  z.eseq = BitVec.ofNat 64 tr.seq.toNat ∧ wbit z.eloop 31 = false ∧
  prv z = 1 ∧ pprv z = prv y ∧ exl z = true ∧ ie z = ie y ∧ pm z = pm y ∧ ss z = ss y ∧ mck z = mck y ∧
  z.pc = y.handler.toNat ∧ z.n0 = false ∧ z.n1 = false ∧ z.dg0 = false ∧ z.dg1 = false ∧ z.loop = none ∧
  z.sregs = y.sregs ∧ z.names = y.names ∧ z.futs = y.futs ∧ z.accs = y.accs ∧ z.handler = y.handler ∧ z.mdef = y.mdef ∧
  z.fpmode = y.fpmode ∧ z.fpflags = y.fpflags ∧ z.mxflags = y.mxflags ∧ z.phase = y.phase ∧
  (wbit (Sparse.get 0 (curTile s).mon 0) 63 = false → launchOf s (curTile s).launch = none → t.mem = s.mem)) ∧
  (∀ (tr : Trap) (s : State), s.grp.half = .lone → tr.cause = .rowRepair → prv (cur s) ≠ 2 →
  stoppedGroup (clearFrame s) s.focusTile s.focusCtx = none → (cur s).loop = none → s.focusTile ≠ Config.fwTile →
  let y := cur s
  let t := settled s (.trap tr)
  let z := ctxOf t s.focusTile s.focusCtx
  z.shadow = [y.epc, y.enpc, y.ennpc, y.eannul, y.ecause, y.eval, y.eseq, y.eloop, y.status] ∧
  z.epc = BitVec.ofNat 64 y.pc ∧ z.enpc = BitVec.ofNat 64 y.npc ∧ z.ennpc = BitVec.ofNat 64 y.nnpc ∧
  z.eannul = BitVec.ofNat 64 (b2n y.n0 + b2n y.n1 * 2 + b2n y.dg0 * 4 + b2n y.dg1 * 8) ∧
  z.ecause = BitVec.ofNat 64 (tr.cause.code + 256 * tr.arg) ∧ z.eval = tr.eval ∧ z.eseq = BitVec.ofNat 64 tr.seq.toNat ∧
  wbit z.eloop 31 = false ∧ prv z = 2 ∧ pprv z = prv y ∧ exl z = true ∧ ie z = ie y ∧ pm z = pm y ∧ ss z = ss y ∧ mck z = mck y ∧
  z.pc = Config.firmwareVectorOffset ∧ z.n0 = false ∧ z.n1 = false ∧ z.dg0 = false ∧ z.dg1 = false ∧ z.loop = none ∧
  z.sregs = y.sregs ∧ z.names = y.names ∧ z.futs = y.futs ∧ z.accs = y.accs ∧ z.handler = y.handler ∧ z.phase = y.phase ∧
  (∀ n, tr.row = some n → (tileOf t s.focusTile).vault.repairing.contains n = true) ∧
  (wbit (Sparse.get 0 (curTile s).mon 0) 63 = false → t.mem = s.mem))

open Sys2Proof Sys2Proof.Machine in
/-- For every state s with a lone group and every state u that its effect gives, quiet, outside a loop and with the
monitor off: handing over to the next group makes PC the old nPC, nPC the old nnPC and nnPC its Seq, and shifts
the bits; a branch that is taken makes nnPC its target, marks both next groups as delay groups and nullifies
them when it kills. The context otherwise differs from u only in the count of groups, the wait fields, the address of
its last group and the number that the group's own accesses name, every other context is as in u, and memory is as in u. -/
def Obligations.SequencingAdvances : Prop :=
  ∀ (s u : State) (taken kill : Bool) (target : Nat), s.grp.half = .lone → u.focusTile = s.focusTile → u.focusCtx = s.focusCtx →
  Quiet u → (cur u).loop = none →
  let y := cur u
  let seq := seqAddr u s.focusTile s.focusCtx y.nnpc
  let book := fun z : Ctx =>
    { z with retired := y.retired + 1, wait := .none_, suppress := 0, heldNames := none, afterEret := false,
             lastPc := (u.grp.eret.getD (siteOf y)).pc, accs := y.accs.map (numbered u.grp.seq (y.retired + 1)) }
  let after := fun (t : State) (z : Ctx) => ctxOf t s.focusTile s.focusCtx = z ∧ t.mem = u.mem ∧
    (∀ t' c', ¬(t' = s.focusTile ∧ c' = s.focusCtx) → ctxOf t t' c' = ctxOf u t' c') ∧
    (∀ t' p k, rowIn (tileOf t t') p k = rowIn (tileOf u t') p k) ∧ (∀ t', (tileOf t t').slots = (tileOf u t').slots)
  after (settled s (.done u .next)) (book { y with
    pc := y.npc, npc := y.nnpc, nnpc := seq, n0 := y.n1, n1 := false, dg0 := y.dg1, dg1 := false }) ∧
  (wbit (Sparse.get 0 (tileOf u s.focusTile).mon 0x20) 1 = false →
    after (settled s (.done u (.branch taken target kill))) (book { y with
      pc := y.npc, npc := y.nnpc, nnpc := if taken then target else seq, n0 := y.n1 || kill, n1 := kill,
      dg0 := true, dg1 := true }))

open Sys2Proof Sys2Proof.Machine in
/-- In every state in which the instruction is legal, its scalars are ready, its address operands are not poisoned,
the access passes the checks of R109 and nothing holds it back, LD, LDN, ST, LDX and STX give a next state: one
access of the size, to s[A] plus the scaled displacement, or to s[A] plus the index, leaves the group with its
destination, extension or store data, under the prefix. An address that is not a multiple of the size raises
ALIGN with the address in EVAL. -/
def Obligations.ScalarAccessesIssue : Prop :=
  ∀ (d a b : Fin 16) (z : Size) (j : Fin 16384) (x n : Bool) (r : Resolved) (s s' : State),
  OrderMet s (prefixOf s).ord s' →
  let sent : Acc → Host.Outcome State Fault Refusal := fun acc => .next
    (settled s (.done (sendAcc (withPrefix s acc) r s') .next))
  (Legal s (.ld d a z j) → Ready s [d, a] → Clean s [a] →
    (AccessMet s (withPrefix s { kind := .load, va := ((rdS s a).val + BitVec.ofInt 64 (signed 14 j.val * sizeBytes z)).toNat, size := sizeBytes z, dest := d.val, sext := true }) r → exec (.ld d a z j) s = sent { kind := .load, va := ((rdS s a).val + BitVec.ofInt 64 (signed 14 j.val * sizeBytes z)).toNat, size := sizeBytes z, dest := d.val, sext := true }) ∧
    (((rdS s a).val + BitVec.ofInt 64 (signed 14 j.val * sizeBytes z)).toNat % sizeBytes z ≠ 0 → exec (.ld d a z j) s = .next (settled s (.trap { cause := .align, eval := ((rdS s a).val + BitVec.ofInt 64 (signed 14 j.val * sizeBytes z)) })))) ∧
  (Legal s (.ldn d a z j) → Ready s [d, a] → Clean s [a] →
    (AccessMet s (withPrefix s { kind := .load, va := ((rdS s a).val + BitVec.ofInt 64 (signed 14 j.val * sizeBytes z)).toNat, size := sizeBytes z, dest := d.val, sext := false }) r → exec (.ldn d a z j) s = sent { kind := .load, va := ((rdS s a).val + BitVec.ofInt 64 (signed 14 j.val * sizeBytes z)).toNat, size := sizeBytes z, dest := d.val, sext := false }) ∧
    (((rdS s a).val + BitVec.ofInt 64 (signed 14 j.val * sizeBytes z)).toNat % sizeBytes z ≠ 0 → exec (.ldn d a z j) s = .next (settled s (.trap { cause := .align, eval := ((rdS s a).val + BitVec.ofInt 64 (signed 14 j.val * sizeBytes z)) })))) ∧
  (Legal s (.st d a z j) → Ready s [d, a] → Clean s [a] →
    (AccessMet s (withPrefix s { kind := .store, va := ((rdS s a).val + BitVec.ofInt 64 (signed 14 j.val * sizeBytes z)).toNat, size := sizeBytes z, data := BitVec.ofNat 512 ((rdS s d).val.toNat % 2 ^ (8 * sizeBytes z)), poison := (rdS s d).poison }) r → exec (.st d a z j) s = sent { kind := .store, va := ((rdS s a).val + BitVec.ofInt 64 (signed 14 j.val * sizeBytes z)).toNat, size := sizeBytes z, data := BitVec.ofNat 512 ((rdS s d).val.toNat % 2 ^ (8 * sizeBytes z)), poison := (rdS s d).poison }) ∧
    (((rdS s a).val + BitVec.ofInt 64 (signed 14 j.val * sizeBytes z)).toNat % sizeBytes z ≠ 0 → exec (.st d a z j) s = .next (settled s (.trap { cause := .align, eval := ((rdS s a).val + BitVec.ofInt 64 (signed 14 j.val * sizeBytes z)) })))) ∧
  (Legal s (.ldx d a b x n z) → Ready s [d, a, b] → Clean s [a, b] →
    (AccessMet s (withPrefix s { kind := .load, va := ((rdS s a).val + (rdS s b).val * (if x then BitVec.ofNat 64 (sizeBytes z) else 1)).toNat, size := sizeBytes z, dest := d.val, sext := !n }) r → exec (.ldx d a b x n z) s = sent { kind := .load, va := ((rdS s a).val + (rdS s b).val * (if x then BitVec.ofNat 64 (sizeBytes z) else 1)).toNat, size := sizeBytes z, dest := d.val, sext := !n }) ∧
    (((rdS s a).val + (rdS s b).val * (if x then BitVec.ofNat 64 (sizeBytes z) else 1)).toNat % sizeBytes z ≠ 0 → exec (.ldx d a b x n z) s = .next (settled s (.trap { cause := .align, eval := ((rdS s a).val + (rdS s b).val * (if x then BitVec.ofNat 64 (sizeBytes z) else 1)) })))) ∧
  (Legal s (.stx d a b x z) → Ready s [d, a, b] → Clean s [a, b] →
    (AccessMet s (withPrefix s { kind := .store, va := ((rdS s a).val + (rdS s b).val * (if x then BitVec.ofNat 64 (sizeBytes z) else 1)).toNat, size := sizeBytes z, data := BitVec.ofNat 512 ((rdS s d).val.toNat % 2 ^ (8 * sizeBytes z)), poison := (rdS s d).poison }) r → exec (.stx d a b x z) s = sent { kind := .store, va := ((rdS s a).val + (rdS s b).val * (if x then BitVec.ofNat 64 (sizeBytes z) else 1)).toNat, size := sizeBytes z, data := BitVec.ofNat 512 ((rdS s d).val.toNat % 2 ^ (8 * sizeBytes z)), poison := (rdS s d).poison }) ∧
    (((rdS s a).val + (rdS s b).val * (if x then BitVec.ofNat 64 (sizeBytes z) else 1)).toNat % sizeBytes z ≠ 0 → exec (.stx d a b x z) s = .next (settled s (.trap { cause := .align, eval := ((rdS s a).val + (rdS s b).val * (if x then BitVec.ofNat 64 (sizeBytes z) else 1)) }))))

open Sys2Proof Sys2Proof.Machine in
/-- In every state in which they are legal, with a ready, unpoisoned base, a bound tile name, ready rows and an
access that passes its checks, VLD and VST give a next state in which one access of 64 bytes at s[BASE] + 64 ×
DISP12 has left the group, with the row and its poison as the data of VST. A name that is not bound raises
REG_UNBOUND. ROWACT opens the row of an address that resolves to the own vault, or notes it for its bank
while the bank is under refresh or the vault not ACTIVE (log 60), and completes with no effect where a check of R109 fails. -/
def Obligations.RowAccessesIssue : Prop :=
  ∀ (x b k : Fin 16) (j : Fin 4096) (r : Resolved) (p : Nat) (s s' : State),
  Ready s [b] → Clean s [b] →
  let va := ((rdS s b).val + BitVec.ofInt 64 (signed 12 j.val * 64))
  let sent : Acc → Host.Outcome State Fault Refusal := fun acc => .next
    (settled s (.done (sendAcc (withPrefix s acc) r s') .next))
  (Legal s (.vld x b k j) → nameOf s x = some p → RowsReady s [] [(p, k.val)] → OrderMet s (prefixOf s).ord s' →
    AccessMet s (withPrefix s { kind := .rowLoad, va := va.toNat, size := 64, dest := p, row := k.val }) r →
    exec (.vld x b k j) s = sent { kind := .rowLoad, va := va.toNat, size := 64, dest := p, row := k.val }) ∧
  (Legal s (.vst x b k j) → nameOf s x = some p → RowsReady s [(p, k.val)] [] →
    let u := touchReg p s
    let acc : Acc := { kind := .rowStore, va := va.toNat, size := 64, data := (rdRow s p k.val).bits, poison := (rdRow s p k.val).poison }
    OrderMet u (prefixOf u).ord s' → AccessMet u (withPrefix u acc) r →
    exec (.vst x b k j) s = .next (settled s (.done (sendAcc (withPrefix u acc) r s') .next))) ∧
  (Legal s (.vld x b k j) → nameOf s x = none → exec (.vld x b k j) s = .next (settled s (.trap { cause := .regUnbound }))) ∧
  (Legal s (.vst x b k j) → nameOf s x = none → exec (.vst x b k j) s = .next (settled s (.trap { cause := .regUnbound }))) ∧
  (Legal s (.rowact b j) →
    (checkAccess s (curView s) (.core (coreIx s.focusCtx)) va 1 1 false (prefixOf s).spc .row = .ok r →
      r.tgt = .vault →
      ∃ u, exec (.rowact b j) s = .next (settled s (.done u .next)) ∧
        (∀ t', t' ≠ s.focusTile → tileOf u t' = tileOf s t') ∧ ({ u with tiles := [] } : State) = { s with tiles := [] } ∧
        (let v := (curTile s).vault
         let row := rowNumber (paOff r.pa)
         (refreshing s s.focusTile (row % 24) = true ∨ v.hold ≠ .active →
           curTile u = { curTile s with vault := { v with opening := Sparse.set (row % 24) (some (paOff r.pa, (prefixOf s).pol)) v.opening } }) ∧
         (refreshing s s.focusTile (row % 24) = false → v.hold = .active → (prefixOf s).pol ≠ .close → (prefixOf s).pol ≠ .stream →
           curTile u = { curTile s with vault := { v with openRow := Sparse.set (row % 24) (some row) v.openRow } }))) ∧
    (∀ tr, checkAccess s (curView s) (.core (coreIx s.focusCtx)) va 1 1 false (prefixOf s).spc .row = .error tr →
      exec (.rowact b j) s = .next (settled s (.done s .next))))

open Sys2Proof Sys2Proof.Machine in
/-- In every state in which the atomic is legal, its scalars are ready, s[A] is not poisoned, the access passes its
checks and nothing holds it back, each of the thirteen atomics gives a next state in which one access of 4 or 8
bytes at exactly s[A] has left the group, with its operation code of Table 5.3, the low bytes of s[B], for ACAS
s[C] as the new value, and the poison of its data operands. -/
def Obligations.AtomicsIssue : Prop :=
  ∀ (d a b c : Fin 16) (z : ASize) (r : Resolved) (s s' : State), Clean s [a] → OrderMet s (prefixOf s).ord s' →
  let sent : Acc → Host.Outcome State Fault Refusal := fun acc => .next
    (settled s (.done (sendAcc (withPrefix s acc) r s') .next))
  let acc := fun (op : Nat) (new : Word) (bad : Bool) => ({ kind := .atomic, va := (rdS s a).val.toNat, size := asizeBytes z, dest := d.val, aop := op, data := BitVec.ofNat 512 ((rdS s b).val.toNat % 2 ^ (8 * asizeBytes z)), data2 := new, poison := bad } : Acc)
  (Legal s (.aadd d a b z) → Ready s [d, a, b] → AccessMet s (withPrefix s (acc 0 0 (rdS s b).poison)) r → exec (.aadd d a b z) s = sent (acc 0 0 (rdS s b).poison)) ∧
  (Legal s (.amin d a b z) → Ready s [d, a, b] → AccessMet s (withPrefix s (acc 1 0 (rdS s b).poison)) r → exec (.amin d a b z) s = sent (acc 1 0 (rdS s b).poison)) ∧
  (Legal s (.amax d a b z) → Ready s [d, a, b] → AccessMet s (withPrefix s (acc 2 0 (rdS s b).poison)) r → exec (.amax d a b z) s = sent (acc 2 0 (rdS s b).poison)) ∧
  (Legal s (.aminn d a b z) → Ready s [d, a, b] → AccessMet s (withPrefix s (acc 3 0 (rdS s b).poison)) r → exec (.aminn d a b z) s = sent (acc 3 0 (rdS s b).poison)) ∧
  (Legal s (.amaxn d a b z) → Ready s [d, a, b] → AccessMet s (withPrefix s (acc 4 0 (rdS s b).poison)) r → exec (.amaxn d a b z) s = sent (acc 4 0 (rdS s b).poison)) ∧
  (Legal s (.aand d a b z) → Ready s [d, a, b] → AccessMet s (withPrefix s (acc 5 0 (rdS s b).poison)) r → exec (.aand d a b z) s = sent (acc 5 0 (rdS s b).poison)) ∧
  (Legal s (.aor d a b z) → Ready s [d, a, b] → AccessMet s (withPrefix s (acc 6 0 (rdS s b).poison)) r → exec (.aor d a b z) s = sent (acc 6 0 (rdS s b).poison)) ∧
  (Legal s (.axor d a b z) → Ready s [d, a, b] → AccessMet s (withPrefix s (acc 7 0 (rdS s b).poison)) r → exec (.axor d a b z) s = sent (acc 7 0 (rdS s b).poison)) ∧
  (Legal s (.aswp d a b z) → Ready s [d, a, b] → AccessMet s (withPrefix s (acc 8 0 (rdS s b).poison)) r → exec (.aswp d a b z) s = sent (acc 8 0 (rdS s b).poison)) ∧
  (Legal s (.acas d a b c z) → Ready s [d, a, b, c] → AccessMet s (withPrefix s (acc 9 (rdS s c).val ((rdS s b).poison || (rdS s c).poison))) r → exec (.acas d a b c z) s = sent (acc 9 (rdS s c).val ((rdS s b).poison || (rdS s c).poison))) ∧
  (Legal s (.afadd d a b z) → Ready s [d, a, b] → AccessMet s (withPrefix s (acc 10 0 (rdS s b).poison)) r → exec (.afadd d a b z) s = sent (acc 10 0 (rdS s b).poison)) ∧
  (Legal s (.afmin d a b z) → Ready s [d, a, b] → AccessMet s (withPrefix s (acc 11 0 (rdS s b).poison)) r → exec (.afmin d a b z) s = sent (acc 11 0 (rdS s b).poison)) ∧
  (Legal s (.afmax d a b z) → Ready s [d, a, b] → AccessMet s (withPrefix s (acc 12 0 (rdS s b).poison)) r → exec (.afmax d a b z) s = sent (acc 12 0 (rdS s b).poison))

open Sys2Proof Sys2Proof.Machine in
/-- In every state in which the move is legal, its base is ready and not poisoned, its name is bound (for WLD, its
slot held), its rows are ready, every one of its 16 segments passes R109 with one target type, its scale array
passes when it names one, no segment is write-blocked, neither an earlier own-vault move nor a stopped move is
in its way, and its ordering is met, XLD, XST, XLDT and WLD give a next state in which the move has joined the
tile, with the address s[BASE] + 64 × DISP12, the pitch, the register or slot, and the 16 physical addresses. -/
def Obligations.TileMovesIssue : Prop :=
  ∀ (x b : Fin 16) (sl : Fin 4) (c : Bool) (pt : Fin 8) (w : XldtW) (j : Fin 4096) (p : Nat) (l : List Resolved)
    (scl : Option Nat) (s s' : State), Ready s [b] → Clean s [b] → OrderMet s (prefixOf s).ord s' →
  let va := ((rdS s b).val + BitVec.ofInt 64 (signed 12 j.val * 64)).toNat
  let fits := fun q : MoveReq =>
    checkSegs s (curView s) (.core (coreIx s.focusCtx)) q.op.writes (prefixOf s).spc q.va q.pitch (List.range 16) none = .ok l ∧
    checkScale s (curView s) (.core (coreIx s.focusCtx)) (opCtx s) q = .ok scl ∧
    (q.op.writes = true → l.any (fun r => r.wb) = false) ∧
    (l.any (fun r => decide (r.tgt = .vault)) = true → (curMoves s).any (fun m => m.vault) = false) ∧
    stoppedMove (opCtx s) = none
  let moved : MoveReq → Host.Outcome State Fault Refusal := fun q => .next
    (settled s (.done (addMove q l scl (prefixOf s).ord s') .next))
  (Legal s (.xld x b c pt j) → nameOf s x = some p → RowsReady s [] (allRows p) →
    let q : MoveReq := { op := .xld, word := moveWord s (.xld (rotated s x) b c pt j), va := va, pitch := 64 * 2 ^ pt.val, n0 := 0, reg := p, scl := c, half := false, seq := none }
    fits q → exec (.xld x b c pt j) s = moved q) ∧
  (Legal s (.xldt x b w j) → nameOf s x = some p → RowsReady s [] (allRows p) →
    let q : MoveReq := { op := .xldt, word := moveWord s (.xldt (rotated s x) b w j), va := va, pitch := 64, n0 := 0, reg := p, scl := false, half := decide (w = .half), seq := none }
    fits q → exec (.xldt x b w j) s = moved q) ∧
  (Legal s (.xst x b pt j) → nameOf s x = some p → RowsReady s (allRows p) [] →
    let q : MoveReq := { op := .xst, word := moveWord s (.xst (rotated s x) b pt j), va := va, pitch := 64 * 2 ^ pt.val, n0 := 0, reg := p, scl := false, half := false, seq := none }
    fits q → exec (.xst x b pt j) s = moved q) ∧
  (Legal s (.wld sl b c pt j) → holdsSlot (opTile s) s.focusCtx sl.val = true →
    let q : MoveReq := { op := .wld, word := moveWord s (.wld sl b c pt j), va := va, pitch := 64 * 2 ^ pt.val, n0 := 0, reg := sl.val, scl := c, half := false, seq := none }
    fits q → exec (.wld sl b c pt j) s = moved q)

open Sys2Proof Sys2Proof.Machine in
/-- For every outstanding scalar or row load of an unpaired context, of the own scratchpad, of the own vault when its bank is
not under refresh, the agent does not come first and the monitor is off, or, up to 8 bytes, of the host, whose bytes no
earlier access of the context has still to touch, whose segment holds no error, and whose context holds no merged host
store, LOAD_DATA_RETURN gives a next state when the turn asks for no earlier place in home order, or when the latest write
to its bytes is hb-before it: s[D] holds the 1 to 8 bytes at its address, sign- or zero-extended to 64 bits, or the row its
64 bytes, poisoned as their segment is; with D = 0 the value is discarded; the access is gone; every other scalar and row,
the rest of the context but what it knows of other parties' writes, every other context and every byte of memory are
unchanged; of the vault, an own-vault load alone changes the open rows and the event counters. When the load is an acquire,
everything hb-before a release that the latest write to its bytes carries, and whose scope and its own cover each other's
party, becomes hb-before what the context does next; when it is not, nothing does. A load of another tile's scratchpad
reads the same value when REMOTE_ACCESS_ARRIVAL finds no earlier request of its tile on its way there, and
LOAD_DATA_RETURN writes what it read when no earlier answer from there is on its way. A row at the host is read one 8-byte
unit at a time, the one that the turn picks. -/
def Obligations.LoadsReturn : Prop :=
  ∀ (t : Nat) (c : Fin 8) (k : Nat) (a : Acc) (s : State),
  (ctxOf s t c).accs.find? (fun b => decide (b.id = k)) = some a →
  (a.kind = .load ∧ 1 ≤ a.size ∧ a.size ≤ 8 ∨ a.kind = .rowLoad ∧ a.size = 64) →
  touchedFirst (tileOf s t) c k false a.pa a.size = false → Sparse.get none (tileOf s t).pairs c.val = none →
  let latest := (s.hist.filter fun e => decide (e.pa < a.pa + a.size) && decide (a.pa < e.pa + e.len)).head?
  let v := s.mem.readN a.pa a.size
  let written := fun (u : State) (n : Nat) (bad : Bool) =>
    (a.kind = .load → (a.dest ≠ 0 → scalarIn (ctxOf u t c) a.dest =
        { val := if a.sext then BitVec.ofInt 64 (signed (8 * a.size) n) else BitVec.ofNat 64 n, poison := bad }) ∧
      (∀ r, r ≠ a.dest → scalarIn (ctxOf u t c) r = scalarIn (ctxOf s t c) r) ∧ scalarIn (ctxOf u t c) 0 = {} ∧
      ∀ t' p j, rowIn (tileOf u t') p j = rowIn (tileOf s t') p j) ∧
    (a.kind = .rowLoad → rowIn (tileOf u t) a.dest a.row = { bits := BitVec.ofNat 512 n, poison := bad } ∧
      (∀ t' p j, ¬(t' = t ∧ p = a.dest ∧ j = a.row) → rowIn (tileOf u t') p j = rowIn (tileOf s t') p j) ∧
      (ctxOf u t c).sregs = (ctxOf s t c).sregs) ∧
    (ctxOf u t c).accs = (ctxOf s t c).accs.filter (fun b => decide (b.id ≠ k)) ∧
    { ctxOf u t c with sregs := [], accs := [], sight := {} } = { ctxOf s t c with sregs := [], accs := [], sight := {} } ∧
    (∀ t' c', ¬(t' = t ∧ c' = c.val) → ctxOf u t' c' = ctxOf s t' c') ∧
    (∀ t', { tileOf u t' with ctxs := [], xregs := [], cores := [], vault := {} } =
      { tileOf s t' with ctxs := [], xregs := [], cores := [], vault := {} }) ∧
    (a.home ≠ .ownVault → ∀ t', (tileOf u t').vault = (tileOf s t').vault ∧ (tileOf u t').cores = (tileOf s t').cores) ∧
    (∀ t', { (tileOf u t').vault with openRow := [] } = { (tileOf s t').vault with openRow := [] }) ∧
    (∀ b, u.mem.read b = s.mem.read b) ∧ ({ u with tiles := [], scOrder := [], grp := {} } : State) = { s with tiles := [], scOrder := [], grp := {} }
  (errAt s a.pa = none → (s.asOf = none ∨ ∃ e, latest = some e ∧ ctxKnows t c k a.sight e = true) →
    (a.home = .ownScratch ∨ (a.home = .host ∧ a.size ≤ 8 ∧ s.mgmt.link = true) ∨
      (a.home = .ownVault ∧ refreshing s t (bankOf (rowNumber (paOff a.pa))) = false ∧ agentFirst s t (paOff a.pa) = false ∧
        wbit (Sparse.get 0 (tileOf s t).mon 0) 63 = false)) →
    (ctxOf s t c).accs.all (fun b => !b.held) = true →
    ∃ u, exec (.loadDataReturn t c k) s = .next u ∧ written u v (segPoison s a.pa) ∧
      (acquires a.ord = true → ∀ e m, latest = some e → 0 < e.len → m ∈ e.msgs → covers m.party m.scope (.ctx t) = true →
        covers (.ctx t) a.scope m.party = true → ∀ n, m.known.has n = true → (ctxOf u t c).sight.known.has n = true) ∧
      (acquires a.ord = false → (ctxOf u t c).sight.known = (ctxOf s t c).sight.known)) ∧
  (a.home = .remScratch → a.served = false → s.asOf = none → sentBefore s t (paTile a.pa) k = false →
    ∃ u, exec (.remoteAccessArrival t c k) s = .next u ∧
      (ctxOf u t c).accs.find? (fun b => decide (b.id = k)) =
        some { a with served := true, sent := s.nextId, data := BitVec.ofNat 512 v, poison := segPoison s a.pa } ∧
      (∀ b, u.mem.read b = s.mem.read b) ∧ (∀ t' c', ¬(t' = t ∧ c' = c.val) → ctxOf u t' c' = ctxOf s t' c') ∧
      { ctxOf u t c with accs := [], sight := {} } = { ctxOf s t c with accs := [], sight := {} }) ∧
  (a.home = .remScratch → a.served = true → repliedBefore s (paTile a.pa) t a.sent = false →
    ∃ u, exec (.loadDataReturn t c k) s = .next u ∧ written u a.data.toNat a.poison) ∧
  (a.home = .host → a.kind = .rowLoad → s.mgmt.link = true → s.asOf = none →
    let left := (List.range 8).filter fun j => !a.moved.contains j
    let j := left.getD (s.pick % left.length) 0
    2 ≤ left.length → ∃ u, exec (.loadDataReturn t c k) s = .next u ∧
      (ctxOf u t c).accs.find? (fun b => decide (b.id = k)) = some { a with
        moved := j :: a.moved, data := a.data ||| BitVec.ofNat 512 (s.mem.readN (a.pa + 8 * j) 8 * 2 ^ (64 * j)),
        poison := a.poison || segPoison s (a.pa + 8 * j) } ∧ (∀ b, u.mem.read b = s.mem.read b) ∧
      ∀ t' p i, rowIn (tileOf u t') p i = rowIn (tileOf s t') p i)

open Sys2Proof Sys2Proof.Machine in
/-- For every retired store of an unpaired tile whose bytes no earlier access of the context has still to touch: to the own
scratchpad, to the own vault when the vault serves it before the agent, its segment holds no error and the monitor is off,
or, up to 8 bytes, to the host while the link is up, STORE_PERFORM gives a next state, and to another tile's scratchpad
REMOTE_ACCESS_ARRIVAL, when no earlier request of the tile is on its way there. In it byte i of the
data stands at the address plus i for each byte of the size, every other byte of memory is unchanged, the segment
is poisoned by poisoned data, cleared by a full unpoisoned segment and otherwise as before, every other segment
keeps its poison, and the access is gone; the write takes the next place in home order, as the context's own,
with what the access carries, a release itself among it, and for scoped-sequential ordering what precedes it in that order.
Every scalar, row and slot and every other context is unchanged, and of the vault only its open rows, of the cores only their
event counters. A row stored at the host is written one 8-byte unit at a time, the one that the turn picks. -/
def Obligations.StoresPerform : Prop :=
  ∀ (t : Nat) (c : Fin 8) (k : Nat) (a : Acc) (s : State),
  (ctxOf s t c).accs.find? (fun b => decide (b.id = k)) = some a → (a.kind = .store ∨ a.kind = .rowStore) →
  a.served = false → a.held = false → a.mrg = 0 → touchedFirst (tileOf s t) c k true a.pa a.size = false →
  Sparse.get none (tileOf s t).pairs c.val = none →
  (paRegion a.pa ≤ 1 → (tileOf s (paTile a.pa)).pairOf = none) →
  let carried := if a.ord = .scseq then a.sight.learn (scBefore s t a.scope) else a.sight
  let noted := fun (u : State) (pa n : Nat) => ∃ e, u.hist.head? = some e ∧ u.writes = s.writes + 1 ∧ e.n = s.writes ∧ e.pa = pa ∧
    e.len = n ∧ e.writer = .ctx t c k ∧ e.msgs = carried.msgs.map (Msg.at s.writes) ∧
    ((∀ h, s.hist.head? = some h → h.n < s.writes) → u.hist = e :: s.hist)
  let done := fun ev : Instr => ∃ u, exec ev s = .next u ∧ noted u a.pa a.size ∧
    (∀ i, i < a.size → u.mem.read (a.pa + i) = BitVec.ofNat 8 (a.data.toNat / 2 ^ (8 * i))) ∧
    (∀ b, b < a.pa ∨ a.pa + a.size ≤ b → u.mem.read b = s.mem.read b) ∧
    segPoison u a.pa = (if a.poison then true else if a.size = 64 ∧ a.pa % 64 = 0 then false else segPoison s a.pa) ∧
    (∀ b, b / 64 ≠ a.pa / 64 → segPoison u b = segPoison s b) ∧
    (ctxOf u t c).accs = (ctxOf s t c).accs.filter (fun b => decide (b.id ≠ k)) ∧
    { ctxOf u t c with accs := [], sight := {} } = { ctxOf s t c with accs := [], sight := {} } ∧
    (∀ t' c', ¬(t' = t ∧ c' = c.val) → ctxOf u t' c' = ctxOf s t' c') ∧
    (∀ t', t' ≠ t → { tileOf u t' with ctxs := [] } = { tileOf s t' with ctxs := [] }) ∧
    { tileOf u t with ctxs := [], cores := [], vault := {} } = { tileOf s t with ctxs := [], cores := [], vault := {} } ∧
    { (tileOf u t).vault with openRow := [] } = { (tileOf s t).vault with openRow := [] } ∧
    (a.home ≠ .ownVault → (tileOf u t).vault = (tileOf s t).vault ∧ (tileOf u t).cores = (tileOf s t).cores)
  (a.home = .ownScratch → paRegion a.pa = 1 → paTile a.pa = t → done (.storePerform t c k)) ∧
  (a.home = .ownVault → paRegion a.pa = 0 → paTile a.pa = t → vaultHindrance s t (paOff a.pa) .vaultHold = none →
    agentFirst s t (paOff a.pa) = false → errAt s a.pa = none → wbit (Sparse.get 0 (tileOf s t).mon 0) 63 = false →
    done (.storePerform t c k)) ∧
  (a.home = .host → paRegion a.pa = 16 → a.size ≤ 8 → s.mgmt.link = true → done (.storePerform t c k)) ∧
  (a.home = .remScratch → paRegion a.pa = 1 → paTile a.pa ≠ t → sentBefore s t (paTile a.pa) k = false →
    done (.remoteAccessArrival t c k)) ∧
  (a.home = .host → paRegion a.pa = 16 → a.size = 64 → s.mgmt.link = true →
    let left := (List.range 8).filter fun j => !a.moved.contains j
    let j := left.getD (s.pick % left.length) 0
    2 ≤ left.length → ∃ u, exec (.storePerform t c k) s = .next u ∧ noted u (a.pa + 8 * j) 8 ∧
      u.mem.readN (a.pa + 8 * j) 8 = a.data.toNat / 2 ^ (64 * j) % 2 ^ 64 ∧
      (∀ b, b < a.pa + 8 * j ∨ a.pa + 8 * j + 8 ≤ b → u.mem.read b = s.mem.read b) ∧
      (ctxOf u t c).accs.find? (fun b => decide (b.id = k)) = some { a with moved := j :: a.moved })

open Sys2Proof Sys2Proof.Machine in
/-- For every issued atomic, outside a recording and a replay, of an unpaired context: at the own scratchpad, when no
earlier access has still to touch its place, STORE_PERFORM writes the new value of Table 5.3 at its 4 or 8 bytes
and changes no other byte; LOAD_DATA_RETURN after it writes the old value, zero-extended, to s[D], poisoned if
the place was, or discards it with D = 0, and the access is gone; AFADD, AFMIN and AFMAX round once to nearest even in the
format of their width and add their flags to FPFLAGS. For a place in another tile, REMOTE_ACCESS_ARRIVAL does the write, when
no earlier request of the tile to that tile, nor an answer from it, is still on its way. For a place in the own vault,
STORE_PERFORM puts it in the queue of the vault's agent, while that has room, and AGENT_SERVE does the write when it stands
at the head, before the owner, at a bank that serves it. That the write and the return of the old value are two steps is the model's
reading (log 48). -/
def Obligations.AtomicsPerform : Prop :=
  ∀ (t : Nat) (c : Fin 8) (k : Nat) (a : Acc) (s : State),
  (ctxOf s t c).accs.find? (fun b => decide (b.id = k)) = some a → a.kind = .atomic → (a.size = 4 ∨ a.size = 8) →
  a.served = false → a.held = false → a.mrg = 0 →
  touchedFirst (tileOf s t) c k true a.pa a.size = false → Sparse.get none (tileOf s t).pairs c.val = none →
  (∀ l, launchOf s (tileOf s (paTile a.pa)).launch = some l → l.recording = none) →
  (tileOf s (paTile a.pa)).pairOf = none →
  let n := 8 * a.size
  let m := s.mem.readN a.pa a.size
  let b := a.data.toNat
  let f := if a.size = 8 then f64Fmt else f32Fmt
  let sum := sumNum .ne [f.decode m, f.decode b]
  let least := minNum (f.decode m) (f.decode b)
  let most := maxNum (f.decode m) (f.decode b)
  let done := fun ev : Instr => ∃ u w, exec ev s = .next u ∧ exec (.loadDataReturn t c k) u = .next w ∧
    (b < 2 ^ n →
      (a.aop = 0 → u.mem.readN a.pa a.size = (m + b) % 2 ^ n) ∧
      (a.aop = 1 → u.mem.readN a.pa a.size = if signed n m ≤ signed n b then m else b) ∧
      (a.aop = 2 → u.mem.readN a.pa a.size = if signed n m ≤ signed n b then b else m) ∧
      (a.aop = 3 → u.mem.readN a.pa a.size = min m b) ∧ (a.aop = 4 → u.mem.readN a.pa a.size = max m b) ∧
      (a.aop = 5 → u.mem.readN a.pa a.size = m &&& b) ∧ (a.aop = 6 → u.mem.readN a.pa a.size = m ||| b) ∧
      (a.aop = 7 → u.mem.readN a.pa a.size = m ^^^ b) ∧ (a.aop = 8 → u.mem.readN a.pa a.size = b) ∧
      (a.aop = 9 → u.mem.readN a.pa a.size = if m = b then a.data2.toNat % 2 ^ n else m)) ∧
    (∀ v ∈ [(10, sum), (11, least), (12, most)], a.aop = v.1 →
      u.mem.readN a.pa a.size = (f.round .ne v.2.1).1 % 2 ^ n ∧
      (ctxOf w t c).fpflags = (ctxOf s t c).fpflags ||| BitVec.ofNat 64 ((f.round .ne v.2.1).2 ||| v.2.2)) ∧
    (a.aop < 10 → (ctxOf w t c).fpflags = (ctxOf s t c).fpflags) ∧
    (∀ x, x < a.pa ∨ a.pa + a.size ≤ x → u.mem.read x = s.mem.read x) ∧ w.mem = u.mem ∧
    segPoison u a.pa = (segPoison s a.pa || a.poison) ∧
    (a.dest ≠ 0 → scalarIn (ctxOf w t c) a.dest = { val := BitVec.ofNat 64 m, poison := segPoison s a.pa }) ∧
    (∀ r, r ≠ a.dest → scalarIn (ctxOf w t c) r = scalarIn (ctxOf s t c) r) ∧ scalarIn (ctxOf w t c) 0 = {} ∧
    (ctxOf w t c).accs.any (fun x => decide (x.id = k)) = false
  (a.home = .ownScratch → paRegion a.pa = 1 → paTile a.pa = t → done (.storePerform t c k)) ∧
  (a.home = .remScratch → paRegion a.pa = 1 → paTile a.pa ≠ t → sentBefore s t (paTile a.pa) k = false →
    repliedBefore s (paTile a.pa) t s.nextId = false → done (.remoteAccessArrival t c k)) ∧
  (a.home = .ownVault → paRegion a.pa = 0 → paTile a.pa = t →
    ((tileOf s t).agentq.length < 64 → (∀ q ∈ (tileOf s t).agentq, q.id ≠ k) → ∃ u q, exec (.storePerform t c k) s = .next u ∧
      (tileOf u t).agentq = (tileOf s t).agentq ++ [q] ∧ q.id = k ∧ q.kind = .atomic ∧ q.view.tile = t ∧ q.view.ctx = c.val ∧
      (∀ x, u.mem.read x = s.mem.read x) ∧ ∀ t' c', ctxOf u t' c' = ctxOf s t' c') ∧
    (∀ q r, (tileOf s t).agentq = q :: r → q.id = k → q.kind = .atomic → q.view.tile = t → q.view.ctx = c.val →
      behindWalk (tileOf s t) q = false → ownerFirst s t q = false → vaultHindrance s t (paOff a.pa) .vaultHold = none →
      errAt s a.pa = none → wbit (Sparse.get 0 (tileOf s t).mon 0) 63 = false → done (.agentServe t)))

open Sys2Proof Sys2Proof.Machine in
/-- For every tile move of an unpaired tile to or from the own scratchpad, or the own vault with the monitor off, that nothing earlier
holds back and whose banks serve it before the agent, in a turn that asks for no earlier place in home order,
TILE_SEGMENT_LAND gives a next state: an XLD segment becomes its row of the register with the segment's poison,
a WLD segment its row of the shadow plane, and no byte of memory changes; an XST segment puts the 64 bytes of
the row as the move issued at the segment's address, and every other byte of memory is unchanged; an XLDT segment is kept with the
move. Before the last segment the move goes on with its next one; with the last, it is gone, a load leaves its number and core as the
data stamp of the register or plane, and, where it names a scale array, the 32 bytes there with that stamp as its record, and
an XLDT transposes its 16 segments: element j of row i is element 16 j + i of them. A resumed move clears PM and MWORD.
Every other row is unchanged, and every other tile. -/
def Obligations.TileSegmentsLand : Prop :=
  ∀ (t k : Nat) (m : Move) (s : State), (tileOf s t).moves.find? (fun x => decide (x.id = k)) = some m →
  moveBehind (tileOf s t) m = false → m.next ≤ 15 →
  let pa := m.pas.getD m.next 0
  paRegion pa = (if m.vault then 0 else 1) → paTile pa = t → pa % 64 = 0 → Sparse.get none (tileOf s t).pairs m.ctx = none →
  (tileOf s t).pairOf = none → s.asOf = none → errAt s pa = none → (∀ q, m.scl = some q → errAt s q = none) →
  (moveReach m).all (fun a => vaultServes s t (paOff a) && !agentFirst s t (paOff a)) = true →
  wbit (Sparse.get 0 (tileOf s t).mon 0) 63 = false → (m.op = .xst → m.scl = none) →
  let at_ := fun a : Nat => ({ bits := BitVec.ofNat 512 (s.mem.readN a 64), poison := segPoison s a } : Row)
  let seg := at_ pa
  let src := fun j : Nat => if j = 15 then seg else Sparse.get ({} : Row) m.src j
  let w := if m.half then 16 else 8
  ∃ u, exec (.tileSegmentLand t k) s = .next u ∧ (∀ t', t' ≠ t → tileOf u t' = tileOf s t') ∧
    (m.op = .xld → rowIn (tileOf u t) m.reg m.next = seg ∧
      (∀ p j, ¬(p = m.reg ∧ j = m.next) → rowIn (tileOf u t) p j = rowIn (tileOf s t) p j) ∧ u.mem = s.mem) ∧
    (m.op = .wld → Sparse.get {} (Sparse.get {} (tileOf u t).slots m.reg).shadow.rows m.next = seg ∧
      (∀ p j, rowIn (tileOf u t) p j = rowIn (tileOf s t) p j) ∧ u.mem = s.mem) ∧
    (m.op = .xst → u.mem.readN pa 64 = (Sparse.get ({} : Row) m.src m.next).bits.toNat ∧
      (∀ b, b < pa ∨ pa + 64 ≤ b → u.mem.read b = s.mem.read b) ∧
      segPoison u pa = (Sparse.get ({} : Row) m.src m.next).poison ∧
      ∀ p j, rowIn (tileOf u t) p j = rowIn (tileOf s t) p j) ∧
    (m.op = .xldt → u.mem = s.mem ∧ (∀ p j, p ≠ m.reg → rowIn (tileOf u t) p j = rowIn (tileOf s t) p j) ∧
      (m.next < 15 → ∀ j, rowIn (tileOf u t) m.reg j = rowIn (tileOf s t) m.reg j) ∧
      (m.next = 15 → ∀ i, i < 16 → (∀ j, j < 512 / w → elem w (rowIn (tileOf u t) m.reg i).bits j =
          elem w (src ((16 * j + i) / (512 / w))).bits ((16 * j + i) % (512 / w))) ∧
        (rowIn (tileOf u t) m.reg i).poison = (List.range 16).any fun j => (src j).poison)) ∧
    (m.next < 15 → (tileOf u t).moves = (tileOf s t).moves.map (fun x => if x.id = k then
      (if m.op = .xldt then { m with src := Sparse.set m.next seg m.src, next := m.next + 1, since := 0 }
       else { x with next := m.next + 1, since := 0 }) else x)) ∧
    (m.next = 15 → (tileOf u t).moves = (tileOf s t).moves.filter (fun x => decide (x.id ≠ k)) ∧
      (let stamp : W32 := BitVec.ofNat 32 (m.seq.toNat % 2 ^ 31 + m.ctx / 4 * 2 ^ 31)
       let rec_ := fun old : Option ScaleRec => match m.scl with
         | some q => some { bits := BitVec.ofNat 256 (s.mem.readN q 32), stamp := stamp, poison := segPoison s q }
         | none => old
       (m.op = .xld ∨ m.op = .xldt → (Sparse.get {} (tileOf u t).xregs m.reg).stamp = stamp ∧
         (Sparse.get {} (tileOf u t).xregs m.reg).srec = rec_ (Sparse.get {} (tileOf s t).xregs m.reg).srec) ∧
       (m.op = .wld → (Sparse.get {} (tileOf u t).slots m.reg).shadow.stamp = stamp ∧
         (Sparse.get {} (tileOf u t).slots m.reg).shadow.srec = rec_ (Sparse.get {} (tileOf s t).slots m.reg).shadow.srec)) ∧
      (m.resumed = true → pm (ctxOf u t m.ctx) = false ∧ wfld (ctxOf u t m.ctx).ecause 32 32 = 0))

open Sys2Proof Sys2Proof.Machine in
/-- For every state in which the three names are bound and the rows are ready, each of VADD, VSUB, VMUL, VFMA, VMIN,
VMAX, VABSD, VAND, VOR, VXOR, VSHL, VSHR, VSHRA, VCEQ, VCLT, VSEL and VSHUF gives a next state in which row RD
of XD holds, for every type the form admits, the element of Table 6.4 at each index: integers modulo 2 to the
width, floats rounded once to nearest even; FPFLAGS has gained the flags of all elements, and the row is
poisoned if a row that is read is. A name that is not bound raises REG_UNBOUND. -/
def Obligations.RowResults : Prop :=
  ∀ (d a b r k : Fin 16) (t : Ty) (s : State),
  (∀ pa pb pd : Nat, nameOf s a = some pa → nameOf s b = some pb → nameOf s d = some pd →
  RowsReady s [(pa, k.val), (pb, k.val)] [(pd, r.val)] →
  let ra := rdRow s pa k.val
  let rb := rdRow s pb k.val
  let rd := rdRow s pd r.val
  let x := fun j => elemNum t ra.bits j
  let y := fun j => elemNum t rb.bits j
  let z := fun j => elemNum t rd.bits j
  let ix := fun j => intOf t (elem (tyWidth t) ra.bits j)
  let iy := fun j => intOf t (elem (tyWidth t) rb.bits j)
  let iz := fun j => intOf t (elem (tyWidth t) rd.bits j)
  let cx := fun j => elem (tyWidth t) ra.bits j
  let cy := fun j => elem (tyWidth t) rb.bits j
  let cz := fun j => elem (tyWidth t) rd.bits j
  let sh := fun j => cy j % tyWidth t
  let rounded := fun v : Machine.Num × Nat => (((tyFmt t).round .ne v.1).1, ((tyFmt t).round .ne v.1).2 ||| v.2)
  let done := fun (i : Instr) (readsD : Bool) (ty : Ty) (v : Nat → Nat × Nat) => ∃ row : BitVec 512,
    exec i s = .next (settled s (.done (raiseFp ((List.range (tyCount ty)).foldl (fun f j => f ||| (v j).2) 0)
      (wrRow pd r.val { bits := row, poison := ra.poison || rb.poison || (readsD && rd.poison) }
        (touchReg pb (touchReg pa s)))) .next)) ∧
    ∀ j, j < tyCount ty → elem (tyWidth ty) row j = (v j).1 % 2 ^ tyWidth ty
  (done (.vadd d a b r k t) false t (fun j => if t.isFloat then rounded (sumNum .ne [x j, y j]) else (codeOf (tyWidth t) ((ix j) + (iy j)), 0))) ∧
  (done (.vsub d a b r k t) false t (fun j => if t.isFloat then rounded (sumNum .ne [x j, (y j).negate]) else (codeOf (tyWidth t) ((ix j) - (iy j)), 0))) ∧
  (done (.vmul d a b r k t) false t (fun j => if t.isFloat then rounded (mulNum (x j) (y j)) else (codeOf (tyWidth t) ((ix j) * (iy j)), 0))) ∧
  (done (.vfma d a b r k t) true t (fun j => if t.isFloat then rounded (fmaNum .ne false (x j) (y j) (z j)) else (codeOf (tyWidth t) ((ix j) * (iy j) + (iz j)), 0))) ∧
  (done (.vmin d a b r k t) false t (fun j => if t.isFloat then rounded (minNum (x j) (y j)) else (codeOf (tyWidth t) (if (ix j) ≤ (iy j) then (ix j) else (iy j)), 0))) ∧
  (done (.vmax d a b r k t) false t (fun j => if t.isFloat then rounded (maxNum (x j) (y j)) else (codeOf (tyWidth t) (if (ix j) ≤ (iy j) then (iy j) else (ix j)), 0))) ∧
  (done (.vabsd d a b r k t) false t (fun j => if t.isFloat then rounded (((sumNum .ne [x j, (y j).negate]).1.abs, (sumNum .ne [x j, (y j).negate]).2)) else (codeOf (tyWidth t) (if (ix j) ≤ (iy j) then (iy j) - (ix j) else (ix j) - (iy j)), 0))) ∧
  (done (.vand d a b r k t) false t (fun j => (cx j &&& cy j, 0))) ∧
  (done (.vor d a b r k t) false t (fun j => (cx j ||| cy j, 0))) ∧
  (done (.vxor d a b r k t) false t (fun j => (cx j ^^^ cy j, 0))) ∧
  (done (.vsel d a b r k t) true t (fun j => ((cz j &&& cx j) ||| ((2 ^ tyWidth t - 1 - cz j) &&& cy j), 0))) ∧
  (done (.vshl d a b r k t) false t (fun j => (cx j * 2 ^ sh j, 0))) ∧
  (done (.vshr d a b r k t) false t (fun j => (cx j / 2 ^ sh j, 0))) ∧
  (done (.vshra d a b r k t) false t (fun j => (codeOf (tyWidth t) (signed (tyWidth t) (cx j) / 2 ^ sh j), 0))) ∧
  (done (.vceq d a b r k t) false t (fun j => (fun q : Bool × Nat => (if q.1 then 2 ^ tyWidth t - 1 else 0, q.2)) (if t.isFloat then fcmpHolds .eq (x j) (y j) else (decide ((ix j) = (iy j)), 0)))) ∧
  (done (.vclt d a b r k t) false t (fun j => (fun q : Bool × Nat => (if q.1 then 2 ^ tyWidth t - 1 else 0, q.2)) (if t.isFloat then fcmpHolds .lt (x j) (y j) else (decide ((ix j) < (iy j)), 0)))) ∧
  (done (.vshuf d a b r k t) false t (fun j => (if cy j / 2 ^ (tyWidth t - 1) % 2 = 1 then 0 else cx (cy j % tyCount t), 0)))) ∧
  (nameOf s a = none → ∀ i ∈ rowForms d a b r k t, exec i s = .next (settled s (.trap { cause := .regUnbound }))) ∧
  (nameOf s a ≠ none → nameOf s b = none → ∀ i ∈ rowForms d a b r k t, exec i s = .next (settled s (.trap { cause := .regUnbound }))) ∧
  (nameOf s a ≠ none → nameOf s b ≠ none → nameOf s d = none →
    ∀ i ∈ rowForms d a b r k t, exec i s = .next (settled s (.trap { cause := .regUnbound })))

open Sys2Proof Sys2Proof.Machine in
/-- For every state in which the names are bound and the scalars and rows are ready: VCPY copies a row with its
poison; VMATCH gives each element the least index that holds its code; VEXP2, VRCP and VRSQ give each element
the float function of the source element rounded to nearest even, and FPFLAGS the flags of all elements (for VEXP2 the power is
carried to 256 bits and a sticky bit, the model's reading of R151: log 7); VBCST gives every element the code of the
scalar and VINS the element at s[B] modulo the count, leaving the others; VEXT writes the extended element at
s[B] modulo the count; VCVT converts element by element, or to q4 pair by pair, with the flags of all; VRED and VVOTE write the value of the row to s[D]. Each
result is poisoned if a source is. -/
def Obligations.RowMovesComplete : Prop :=
  ∀ (d a b r k : Fin 16) (t y : Ty) (o : RedOp) (p q : Nat) (s : State),
  let src := rdRow s p k.val
  let e := fun j => elem (tyWidth t) src.bits j
  let rowDone := fun (i : Instr) (fl : Nat) (bad : Bool) (u : State) (P : BitVec 512 → Prop) => ∃ row : BitVec 512,
    exec i s = .next (settled s (.done (raiseFp fl (wrRow q r.val { bits := row, poison := bad } u)) .next)) ∧ P row
  let each := fun (v : Nat → Nat) (row : BitVec 512) => ∀ j, j < tyCount t → elem (tyWidth t) row j = v j % 2 ^ tyWidth t
  let scalarDone := fun (i : Instr) (v : Nat × Nat) (bad : Bool) =>
    exec i s = .next (settled s (.done (raiseFp v.2 (wrS d { val := BitVec.ofNat 64 v.1, poison := bad } (touchReg p s))) .next))
  let ones := ((List.range (tyCount t)).filter fun j => !(elemNum t src.bits j).isZero).length
  let flags := fun (n : Nat) (f : Nat → Nat) => (List.range n).foldl (fun x j => x ||| f j) 0
  let func := fun (i : Instr) (f : Machine.Num → Machine.Num × Nat) =>
    let v := fun j => f (elemNum t src.bits j)
    rowDone i (flags (tyCount t) fun j => ((tyFmt t).round .ne (v j).1).2 ||| (v j).2) src.poison (touchReg p s)
      (each fun j => ((tyFmt t).round .ne (v j).1).1)
  (nameOf s a = some p → nameOf s d = some q → RowsReady s [(p, k.val)] [(q, r.val)] →
    exec (.vcpy d a r k) s = .next (settled s (.done (raiseFp 0 (wrRow q r.val src (touchReg p s))) .next)) ∧
    (Instr.wf (.vmatch d a r k t) = true → rowDone (.vmatch d a r k t) 0 src.poison (touchReg p s) (fun row => ∀ j, j < tyCount t →
      e (elem (tyWidth t) row j) = e j ∧ elem (tyWidth t) row j ≤ j ∧ ∀ i, i < elem (tyWidth t) row j → e i ≠ e j)) ∧
    (Instr.wf (.vexp2 d a r k t) = true → func (.vexp2 d a r k t) exp2Num) ∧
    (Instr.wf (.vrcp d a r k t) = true → func (.vrcp d a r k t) (divNum (.fin false 1 0))) ∧
    (Instr.wf (.vrsq d a r k t) = true → func (.vrsq d a r k t) rsqrtNum) ∧
    (t = y → exec (.vcvt d a y r k t) s = .next (settled s (.done (raiseFp 0 (wrRow q r.val src (touchReg p s))) .next))) ∧
    (t ≠ y → y ≠ .q4 → rowDone (.vcvt d a y r k t)
      (flags (min (tyCount t) (tyCount y)) fun j => (toCode y .ne (elemNum t src.bits j)).2) src.poison (touchReg p s) (fun row => ∀ j, j < tyCount y →
      elem (tyWidth y) row j = if j < tyCount t then (toCode y .ne (elemNum t src.bits j)).1 % 2 ^ tyWidth y else 0)) ∧
    (t ≠ .q4 → rowDone (.vcvt d a .q4 r k t) (flags (min (tyCount t) (tyCount .q4) / 2) fun j =>
        (encodeQ4 (elemNum t src.bits (2 * j)) (elemNum t src.bits (2 * j + 1))).2) src.poison (touchReg p s) (fun row => ∀ j, j < 64 →
      elem 8 row j = if j < tyCount t / 2 then
        (encodeQ4 (elemNum t src.bits (2 * j)) (elemNum t src.bits (2 * j + 1))).1 % 256 else 0))) ∧
  (nameOf s a = some p → RowsReady s [(p, k.val)] [] → Ready s [d] →
    scalarDone (.vred d a o k t) (reduceRow o t src.bits) src.poison ∧
    (t.isInt = true →
      let v := fun j => intOf t (e j)
      scalarDone (.vred d a .add k t) (codeOf 64 ((List.range (tyCount t)).foldl (fun n j => n + v j) 0), 0) src.poison ∧
      (∃ j, j < tyCount t ∧ (∀ i, i < tyCount t → v j ≤ v i) ∧ scalarDone (.vred d a .min k t) (codeOf 64 (v j), 0) src.poison) ∧
      ∃ j, j < tyCount t ∧ (∀ i, i < tyCount t → v i ≤ v j) ∧ scalarDone (.vred d a .max k t) (codeOf 64 (v j), 0) src.poison) ∧
    scalarDone (.vvote d a .any k t) (if ones = 0 then 0 else 1, 0) src.poison ∧
    scalarDone (.vvote d a .all k t) (if ones = tyCount t then 1 else 0, 0) src.poison ∧
    scalarDone (.vvote d a .count k t) (ones, 0) src.poison ∧
    (Instr.wf (.vvote d a .ballot k t) = true → ∃ m : Nat, scalarDone (.vvote d a .ballot k t) (m, 0) src.poison ∧ m < 2 ^ tyCount t ∧
      ∀ j, j < tyCount t → m.testBit j = !(elemNum t src.bits j).isZero)) ∧
  (nameOf s a = some p → RowsReady s [(p, k.val)] [] → Ready s [d, b] →
    scalarDone (.vext d a b k t) (extractElem t src.bits ((rdS s b).val.toNat % tyCount t), 0) (src.poison || (rdS s b).poison)) ∧
  (nameOf s d = some q → Ready s [a] → RowsReady s [] [(q, r.val)] → Instr.wf (.vbcst d a r t) = true →
    rowDone (.vbcst d a r t) (scalarElem t (rdS s a).val).2 (rdS s a).poison s (each fun _ => (scalarElem t (rdS s a).val).1)) ∧
  (nameOf s d = some q → Ready s [a, b] → RowsReady s [(q, r.val)] [(q, r.val)] → Instr.wf (.vins d a b r t) = true →
    let old := rdRow s q r.val
    rowDone (.vins d a b r t) (scalarElem t (rdS s a).val).2 (old.poison || (rdS s a).poison || (rdS s b).poison) s
      (each fun j => if j = (rdS s b).val.toNat % tyCount t then (scalarElem t (rdS s a).val).1 else elem (tyWidth t) old.bits j))

open Sys2Proof Sys2Proof.Machine in
/-- For every state in which the names are bound and the scalars and all rows are ready, XZERO gives a next state in
which every row of the register is zero and clean; XFILL one in which every 64-bit element of every row is the
scalar, poisoned as it is; XCPY one in which every row, with its poison, is that of the source as the group read
it; XTRN one in which 32-bit element j of row i is element i of row j of the source, every row poisoned if any
source row is. No other row of the tile changes. -/
def Obligations.TileInstructionsComplete : Prop :=
  ∀ (d a : Fin 16) (p q : Nat) (s : State), nameOf s d = some q →
  let done := fun (i : Instr) (P : Nat → Row → Prop) => ∃ u,
    exec i s = .next (settled s (.done u .next)) ∧ (∀ j, j < 16 → P j (rowIn (curTile u) q j)) ∧
    (∀ g j, g ≠ q → rowIn (curTile u) g j = rowIn (curTile s) g j) ∧
    ({ u with tiles := [] } : State) = { s with tiles := [] } ∧
    ({ curTile u with xregs := [] } : Tile) = { curTile s with xregs := [] } ∧
    ∀ t', t' ≠ s.focusTile → tileOf u t' = tileOf s t'
  (RowsReady s [] (allRows q) → done (.xzero d) fun _ w => w = {}) ∧
  (Ready s [a] → RowsReady s [] (allRows q) → done (.xfill d a) fun _ w =>
    w.poison = (rdS s a).poison ∧ ∀ j, j < 8 → elem 64 w.bits j = (rdS s a).val.toNat) ∧
  (nameOf s a = some p → RowsReady s (allRows p) (allRows q) →
    (done (.xcpy d a) fun i w => w = rdRow s p i) ∧
    (done (.xtrn d a) fun i w => w.poison = (List.range 16).any (fun j => (rdRow s p j).poison) ∧
      ∀ j, j < 16 → elem 32 w.bits j = elem 32 (rdRow s p j).bits i))

open Sys2Proof Sys2Proof.Machine in
/-- For each ALU, multiply, divide, immediate and scalar float instruction, in every state where nothing but the
group happens at its end (no single step, no watchpoint, no monitor): whenever it gives a next state, every
scalar but s[D] holds what it held, s0 reads zero, every other context is unchanged, the context is unchanged
but for its sequencing and, for the float instructions, FPFLAGS, every byte of memory reads as before, and
nothing outside the acting context changes but the event counters. -/
def Obligations.ScalarFrame : Prop :=
  ∀ (d a b c : Fin 16) (i : Fin 65536) (j : Fin 64) (p : Prec) (o : FcmpPred) (v : FcvtOp) (n : Bool) (s t : State),
  Quiet s → s.grp.half = .lone →
  let kept := (∀ r, r ≠ d.val → scalarIn (ctxOf t s.focusTile s.focusCtx) r = scalarIn (cur s) r) ∧
    scalarIn (ctxOf t s.focusTile s.focusCtx) 0 = {} ∧
    (∀ x, t.mem.read x = s.mem.read x) ∧ DeviceKept s t ∧ OthersKept s t
  (∀ w ∈ scalarForms d a b c i j, exec w s = .next t → kept ∧
    unsequenced { ctxOf t s.focusTile s.focusCtx with sregs := [] } = unsequenced { cur s with sregs := [] }) ∧
  (∀ w ∈ floatForms d a b c p o v n, exec w s = .next t → kept ∧
    unsequenced { ctxOf t s.focusTile s.focusCtx with sregs := [], fpflags := 0 } = unsequenced { cur s with sregs := [], fpflags := 0 })

open Sys2Proof Sys2Proof.Machine in
/-- For each of the 17 row instructions of two sources, in every state where its names are bound and nothing but the
group happens at its end: whenever it gives a next state, every row of the tile but row RD of the register that
XD names holds what it held, and every other register keeps its data stamp, scale record and binding; every
scalar, slot, other context and byte of memory is unchanged, and the context changes only in FPFLAGS and its
sequencing. -/
def Obligations.RowFrame : Prop :=
  ∀ (d a b r k : Fin 16) (ty : Ty) (s t : State), Quiet s → s.grp.half = .lone →
  nameOf s a ≠ none → nameOf s b ≠ none → nameOf s d ≠ none →
  ∀ w ∈ rowForms d a b r k ty, exec w s = .next t →
  let x := tileOf s s.focusTile
  let y := tileOf t s.focusTile
  (∀ p j, ¬(nameOf s d = some p ∧ j = r.val) → rowIn y p j = rowIn x p j) ∧
  (∀ p, nameOf s d ≠ some p → (Sparse.get {} y.xregs p).stamp = (Sparse.get {} x.xregs p).stamp) ∧
  (∀ p, (Sparse.get {} y.xregs p).srec = (Sparse.get {} x.xregs p).srec ∧
    (Sparse.get {} y.xregs p).bound = (Sparse.get {} x.xregs p).bound) ∧
  (∀ q, scalarIn (ctxOf t s.focusTile s.focusCtx) q = scalarIn (cur s) q) ∧
  unsequenced { ctxOf t s.focusTile s.focusCtx with fpflags := 0 } = unsequenced { cur s with fpflags := 0 } ∧
  OthersKept s t ∧ (∀ q, t.mem.read q = s.mem.read q) ∧
  ({ t with tiles := [], grp := {} } : State) = { s with tiles := [], grp := {} } ∧
  (∀ q, q ≠ s.focusTile → (tileOf t q).xregs = (tileOf s q).xregs) ∧
  ∀ q, ({ tileOf t q with ctxs := [], cores := [], xregs := [], pairs := [] } : Tile) = { tileOf s q with ctxs := [], cores := [], xregs := [], pairs := [] }

open Sys2Proof Sys2Proof.Machine in
/-- For every ALU, multiply, divide and immediate instruction with D = 0 and ready scalars, it gives a next state in
which every scalar of the context, s0 among them, reads as before: s0 reads zero, unpoisoned. -/
def Obligations.ZeroRegisterDiscards : Prop :=
  ∀ (a b c : Fin 16) (i : Fin 65536) (j : Fin 64) (s : State), Quiet s → s.grp.half = .lone → Ready s [a, b, c] →
  ∀ w ∈ scalarForms 0 a b c i j, ∃ t, exec w s = .next t ∧
    (∀ r, scalarIn (ctxOf t s.focusTile s.focusCtx) r = scalarIn (cur s) r) ∧
    scalarIn (ctxOf t s.focusTile s.focusCtx) 0 = { val := 0, poison := false }

open Sys2Proof Sys2Proof.Machine in
/-- In every state in which the operation is legal, its names are bound, its slot is held, its entry, kind and
formats are accepted, its rows are ready where it writes rows, the pages of its image pass, and the queue has
room (fewer than eight operations that have not left it), MMUL, MDRAIN, MLDW, MSWAP, MACZ, MSAVE and MREST give a
next state in which the operation, with its copied entry and operands, the kind of its slot, and the acquiring
accesses and the knowledge that stand before it, is the last of the matrix queue and has taken the next engine
sequence number; MACZ sets the kind at once. That the knowledge and the kind are kept with the operation is the model's reading
(logs 68 and 54). MOPW writes the legal entry that bits 9 to 0 of s[A] name, and MOPR reads one into s[D]. A slot
not held raises SLOT_NOT_HELD in each of the seven, an entry not valid ALLOY_ENTRY. -/
def Obligations.MatrixIssue : Prop :=
  ∀ (j : Fin 4) (e : Fin 8) (a f n c d : Fin 16) (t : Ty) (p : Nat) (ra rb : Option Nat) (l : List Resolved) (s : State),
  let queued := fun (i : Instr) (o : MatOp) => ∃ u, exec i s = .next (settled s (.done u .next)) ∧
    (curTile u).matq = (curTile s).matq ++ [{ o with id := s.nextId, ctx := s.focusCtx, seq := (coreOf s s.focusTile (coreIx s.focusCtx)).seqno, after := acquiring s, sight := (cur s).sight, kindAt := (Sparse.get ({} : MSlot) (curTile s).slots j.val).kind, site := siteOf (cur s) }] ∧
    (coreOf u s.focusTile (coreIx s.focusCtx)).seqno = (coreOf s s.focusTile (coreIx s.focusCtx)).seqno + 1 ∧
    (cur u).seqLast = (coreOf s s.focusTile (coreIx s.focusCtx)).seqno ∧ u.grp.half = s.grp.half ∧
    (∀ q, scalarIn (cur u) q = scalarIn (cur s) q) ∧ (curTile u).alloy = (curTile s).alloy ∧
    (∀ p r, rowIn (curTile u) p r = rowIn (curTile s) p r)
  let stops := fun (i : Instr) (c : Cause) => exec i s = .next (settled s (.trap { cause := c }))
  let w := Sparse.get 0 (opTile s).alloy e.val
  let y := opCtx s
  let z : MSlot := Sparse.get {} (curTile s).slots j.val
  let held := holdsSlot (opTile s) s.focusCtx j.val
  let room := ((curTile s).matq.filter fun o => !o.started).length < 8
  let filled := stoppedFill y ≠ some j.val
  let first := accWait (curTile s) (y.accs.filter fun a => unperformed a && acquires a.ord) ((opMoves s).filter fun m => m.acq) = none
  (Legal s (.mmul j e a f n c) → nameOf s a = some p → held = true → eValid w = true →
    wfld y.fmta 0 4 = wfld w 4 4 → wfld y.fmtb 0 4 = wfld w 4 4 → restoring (curTile s) j.val = false →
    z.kind = some (eCat w, eAcc w) → room →
    (if eScl w then scaleArray s y.fmta y.scla = .ok ra ∧ scaleArray s y.fmtb y.sclb = .ok rb ∧ first else ra = none ∧ rb = none) →
    queued (.mmul j e a f n c) { slot := j.val, kind := .mmul, entry := w, reg := p, first := f.val, nrow := n.val + 1, ncol := c.val + 1, mck := mck y && decide (c.val < 8), arrA := ra, arrB := rb }) ∧
  (Legal s (.mdrain j d t) → nameOf s d = some p → held = true → restoring (curTile s) j.val = false →
    RowsReady s [] (allRows p) → room →
    (∀ cat i32, z.kind = some (cat, i32) → drainAllowed cat i32 t = true →
      queued (.mdrain j d t) { slot := j.val, kind := .mdrain, reg := p, ty := t }) ∧
    (∀ cat i32, z.kind = some (cat, i32) → drainAllowed cat i32 t = false → stops (.mdrain j d t) .drainFormat) ∧
    (z.kind = none → stops (.mdrain j d t) .drainFormat)) ∧
  (nameOf s a = some p → held = true → filled → room → queued (.mldw j a) { slot := j.val, kind := .mldw, reg := p }) ∧
  (Legal s (.mswap j) → held = true → room → queued (.mswap j) { slot := j.val, kind := .mswap }) ∧
  (Legal s (.macz j e) → held = true → eValid w = true → room →
    queued (.macz j e) { slot := j.val, kind := .macz, entry := w } ∧
    ∃ u, exec (.macz j e) s = .next (settled s (.done u .next)) ∧
      (Sparse.get {} (curTile u).slots j.val : MSlot) = { z with kind := some (eCat w, eAcc w) }) ∧
  (∀ write : Bool, Ready s [a] → Clean s [a] → held = true → filled →
    checkSegs s (curView s) (.core (coreIx s.focusCtx)) write .dflt (rdS s a).val.toNat 64 (List.range 50) none = .ok l →
    (write = true → l.any (fun r => r.wb) = false) → overlapsStopped y (rdS s a).val.toNat 3200 = false →
    l.any (fun r => moveMeets s write r.pa 64) = false → first → room →
    (write = true → queued (.msave j a) { slot := j.val, kind := .msave, pas := l.map fun r => r.pa, left := List.range 50 }) ∧
    (write = false → queued (.mrest j a) { slot := j.val, kind := .mrest, pas := l.map fun r => r.pa, left := List.range 50 })) ∧
  (Legal s (.mopw e a) → Ready s [a] →
    (∀ v, Clean s [a] → alloyEntry ((rdS s a).val.toNat % 1024) = some v → exec (.mopw e a) s = .next (settled s
      (.done (modPair s.focusTile s.focusCtx (fun k => { k with alloy := (e.val, Sparse.get 0 (curTile s).alloy e.val) :: k.alloy })
        (modCurTile (fun x => { x with alloy := Sparse.set e.val v x.alloy }) s)) .next))) ∧
    ((rdS s a).poison = true ∨ alloyEntry ((rdS s a).val.toNat % 1024) = none → stops (.mopw e a) .alloyEntry)) ∧
  (Ready s [d] → exec (.mopr e d) s = .next (settled s (.done (wrS d { val := w, poison := false } s) .next))) ∧
  (Legal s (.macz j e) → held = false → stops (.macz j e) .slotNotHeld) ∧
  (held = false → nameOf s a = some p → stops (.mldw j a) .slotNotHeld) ∧
  (Legal s (.mswap j) → held = false → stops (.mswap j) .slotNotHeld) ∧
  (Legal s (.mmul j e a f n c) → nameOf s a = some p → held = false → stops (.mmul j e a f n c) .slotNotHeld) ∧
  (Legal s (.mdrain j d t) → nameOf s d = some p → held = false → stops (.mdrain j d t) .slotNotHeld) ∧
  (Ready s [a] → held = false → stops (.msave j a) .slotNotHeld ∧ stops (.mrest j a) .slotNotHeld) ∧
  (Legal s (.macz j e) → held = true → eValid w = false → stops (.macz j e) .alloyEntry) ∧
  (Legal s (.mmul j e a f n c) → nameOf s a = some p → held = true → eValid w = false → stops (.mmul j e a f n c) .alloyEntry)

open Sys2Proof Sys2Proof.Machine in
/-- In every state in which CPY is legal, its handle is free, its block passes, the descriptor obeys R195 and R196
and the queue has room, CPY gives a next state in which a copy with that descriptor is the last of the queue, it
has taken the next engine sequence number, and its future, unless NF is set, is PENDING; a handle in use raises
HANDLE_INVALID, and a malformed descriptor, or an arrival set that is not armed over the destination,
COPY_DESCRIPTOR. CPYS 0 does nothing; CPYS n, once the earlier accesses are performed, reserves n entries and
advances the counter, or raises COPY_SCHEDULE_END; once its last entry is released it completes. -/
def Obligations.CopiesIssue : Prop :=
  ∀ (h : Fin 8) (a : Fin 16) (n t : Bool) (i : Fin 65536) (l : List Resolved) (b : Nat) (d : CopyDesc) (r : Option Resolved) (s s' : State),
  (Legal s (.cpy h a n t) →
    let hd := if n then none else some h
    (BlockMet s hd a 2 l s' b →
      (parseCopy (opTile s').alloy b = some d → astCheck s' (commandView s') (.core (coreIx s'.focusCtx)) d = .ok r →
        armingHolds s' (commandView s') d = true → (curTile s').copies.length < 1024 →
        ∃ u, exec (.cpy h a n t) s = .next (settled s (.done u .next)) ∧
          (curTile u).copies = (curTile s).copies ++ [{ id := s.nextId, ctx := s.focusCtx, launch := (curView s').launch, seq := (coreOf s s.focusTile (coreIx s.focusCtx)).seqno, trap := t, nf := n, desc := d, view := commandView s' }] ∧
          (coreOf u s.focusTile (coreIx s.focusCtx)).seqno = (coreOf s s.focusTile (coreIx s.focusCtx)).seqno + 1 ∧
          (n = false → futOf u h = { st := .pending, cmd := s.nextId })) ∧
      ((parseCopy (opTile s').alloy b = none ∨ ∃ d, parseCopy (opTile s').alloy b = some d ∧ armingHolds s' (commandView s') d = false) →
        exec (.cpy h a n t) s = .next (settled s (.trap { cause := .copyDescriptor })))) ∧
    (n = false → Ready s [a] → (futOf s h).st ≠ .free →
      exec (.cpy h a n t) s = .next (settled s (.trap { cause := .handleInvalid })))) ∧
  (Legal s (.cpys i) →
    ((cur s).cpysDone = true → exec (.cpys i) s = .next (settled s
      (.done (modCur (fun y => { setPm false y with cpysDone := false }) s) .next))) ∧
    ((cur s).cpysDone = false → (cur s).cpysLeft = 0 → (cur s).afterEret = false →
      (i.val = 0 → exec (.cpys i) s = .next (settled s (.done s .next))) ∧
      (i.val ≠ 0 → (curTile s).sched.length < (curTile s).stage + i.val →
        exec (.cpys i) s = .next (settled s (.trap { cause := .copyScheduleEnd }))) ∧
      (i.val ≠ 0 → (curTile s).stage + i.val ≤ (curTile s).sched.length → ReleaseMet s s' →
        ∃ u, exec (.cpys i) s = .next (settled s (.wait u .offcore)) ∧ (curTile u).stage = (curTile s).stage + i.val ∧
          (cur u).cpysLeft = i.val ∧ (cur u).cpysNext = (curTile s).stage ∧
          ({ ctx := s.focusCtx, next := (curTile s).stage, left := i.val } : Reserve) ∈ (curTile u).reserves)))

open Sys2Proof Sys2Proof.Machine in
/-- For the first operation of a tile's queue that has not left it, with its operands ready and its image served,
MATRIX_OP_START gives a next state in which it has left: with its A rows as they stand for an MMUL without scales, and for one with
scales with the 16 scales of each operand, from its record when that has the stamp of the data or from its array, and their poison;
with rows, stamp and record for an MLDW; with no other effect for MDRAIN, MSWAP, MACZ and MSAVE. An MMUL with scales whose A record is
absent, or has another stamp, is a deferred trap, SCALE_ABSENT or SCALE_SEQUENCE, pending in its context with its sequence number, and
leaves the accumulators alone; that A is asked before B is the model's choice (log 58). MREST reads one segment of a scratchpad an
event, the one that the turn picks; with none left it loads the image's rows, poison, stamps and kind into the slot, whose owner stays
(the kind unless a MACZ stands behind it: log 54), and a poisoned header or another IMGV is a deferred ACC_IMAGE that leaves the slot
alone. For every operation that has left the head and found no fault, MATRIX_OP_COMPLETE gives a next state in which it is out of the
queue, and: MLDW has put the rows, stamp and record that it read into the shadow plane; MSWAP has exchanged the planes; MACZ has set
every accumulator element to IDENT without poison; MMUL has put the row pass of each element of its rows and columns into the
accumulator and left every other one, with poison from rows, columns and scales; MDRAIN has put each accumulator row, converted and
with zeros after element 15, into the register, whose stamp becomes NONE; MXFLAGS of the context gains the flags of every element that
MMUL or MDRAIN made. MSAVE writes one segment an event: 64 bytes of the slot's image, with the kind of its place in the queue (log 54),
stand at their segment of a scratchpad and no other byte changes; with none left it leaves the queue, as an MREST does that has
loaded its slot. -/
def Obligations.MatrixQueueEvents : Prop :=
  (∀ (t : Nat) (o : MatOp) (s : State), (tileOf s t).matq.find? (fun x => !x.started) = some o →
  matReady (tileOf s t) o = true → imageBlocked s t o = none →
  let g : TileReg := Sparse.get {} (tileOf s t).xregs o.reg
  let plane : Plane := (Sparse.get ({} : MSlot) (tileOf s t).slots o.slot).active
  let defers := fun k : Cause => ∃ u, exec (.matrixOpStart t) s = .next u ∧ o ∉ (tileOf u t).matq ∧ (tileOf u t).slots = (tileOf s t).slots ∧
      (ctxOf u t o.ctx).pend = (ctxOf s t o.ctx).pend ++ [{ cause := k, seq := o.seq, eval := BitVec.ofNat 64 o.slot }]
  let left := fun q : MatOp => exec (.matrixOpStart t) s = .next
    (modTile t (fun x => { x with matq := x.matq.map fun m => if m.id = o.id then { q with started := true, since := 0 } else m }) s)
  ((o.kind = .mdrain ∨ o.kind = .mswap ∨ o.kind = .macz ∨ o.kind = .msave) → o.arrA = none → o.arrB = none → left o) ∧
  (o.kind = .mldw → o.arrA = none → o.arrB = none → left { o with aRows := g.rows, aStamp := g.stamp, aRec := g.srec }) ∧
  (o.kind = .mmul → eScl o.entry = false → o.arrA = none → o.arrB = none → left { o with aRows := g.rows }) ∧
  (o.kind = .mmul → eScl o.entry = true → o.arrA = none → (∀ p, o.arrB = some p → errAt s p = none) → g.srec = none → (ctxOf s t o.ctx).phase = .running →
    defers .scaleAbsent) ∧
  (∀ ra, o.kind = .mmul → eScl o.entry = true → o.arrA = none → (∀ p, o.arrB = some p → errAt s p = none) → g.srec = some ra →
    (ra.stamp ≠ g.stamp ∨ g.stamp = 0xFFFFFFFF) → (ctxOf s t o.ctx).phase = .running → defers .scaleSequence) ∧
  (∀ ra rb, o.kind = .mmul → eScl o.entry = true → o.arrA = none → o.arrB = none → g.srec = some ra → ra.stamp = g.stamp →
    g.stamp ≠ 0xFFFFFFFF → plane.srec = some rb → rb.stamp = plane.stamp → plane.stamp ≠ 0xFFFFFFFF →
    left { o with aRows := g.rows, scA := ra.bits, scB := rb.bits, scPoison := ra.poison || rb.poison }) ∧
  (∀ pa pb, o.kind = .mmul → eScl o.entry = true → o.arrA = some pa → o.arrB = some pb → paRegion pa = 1 → paRegion pb = 1 →
    s.asOf = none → Sparse.get none (tileOf s t).pairs o.ctx = none →
    ∃ u, exec (.matrixOpStart t) s = .next u ∧ u.mem = s.mem ∧ (tileOf u t).matq = (tileOf s t).matq.map fun m => if m.id = o.id then
      { o with aRows := g.rows, scA := BitVec.ofNat 256 (s.mem.readN pa 32), scB := BitVec.ofNat 256 (s.mem.readN pb 32),
               scPoison := segPoison s pa || segPoison s pb, started := true, since := 0 } else m) ∧
  (o.kind = .mrest → o.arrA = none → o.arrB = none → o.left ≠ [] →
    let i := s.pick % o.left.length
    let n := o.left.getD i 0
    let pa := o.pas.getD n 0
    paRegion pa = 1 → s.asOf = none → Sparse.get none (tileOf s t).pairs o.ctx = none →
    ∃ u, exec (.matrixOpStart t) s = .next u ∧ u.mem = s.mem ∧ (tileOf u t).slots = (tileOf s t).slots ∧
      (tileOf u t).matq = (tileOf s t).matq.map fun m => if m.id = o.id then
        { o with left := o.left.eraseIdx i, since := 0, buf := Memory.writeN (64 * n) (s.mem.readN pa 64) 64 o.buf,
                 bad := if segPoison s pa then insertNat n o.bad else o.bad } else m) ∧
  (o.kind = .mrest → o.arrA = none → o.arrB = none → o.left = [] →
    (o.bad.contains 0 = true ∨ o.bad.contains 1 = true ∨ (o.buf.read 0).toNat ≠ 3 → (ctxOf s t o.ctx).phase = .running → defers .accImage) ∧
    (o.bad.contains 0 = false → o.bad.contains 1 = false → (o.buf.read 0).toNat = 3 →
      (tileOf s t).matq.any (fun p => decide (p.kind = .macz) && decide (p.slot = o.slot) && decide (o.id < p.id)) = false →
      ∃ u, exec (.matrixOpStart t) s = .next u ∧ u.mem = s.mem ∧
        (let v : MSlot := Sparse.get {} (tileOf u t).slots o.slot
         let row := fun (l : Sparse Row) (off bits : Nat) => ∀ r, r < 16 → Sparse.get ({} : Row) l r =
           { bits := BitVec.ofNat 512 (o.buf.readN (off + 64 * r) 64), poison := bits.testBit r || o.bad.contains (off / 64 + r) }
         let scale := fun (off st : Nat) (bad : Bool) =>
           ({ bits := BitVec.ofNat 256 (o.buf.readN off 32), stamp := BitVec.ofNat 32 (o.buf.readN st 4), poison := bad } : ScaleRec)
         v.owner = (Sparse.get ({} : MSlot) (tileOf s t).slots o.slot).owner ∧
         row v.active.rows 128 (o.buf.readN 4 2) ∧ row v.shadow.rows 1152 (o.buf.readN 6 2) ∧ row v.acc 2176 (o.buf.readN 8 2) ∧
         v.active.stamp = BitVec.ofNat 32 (o.buf.readN 16 4) ∧ v.shadow.stamp = BitVec.ofNat 32 (o.buf.readN 20 4) ∧
         v.kind = (if (o.buf.read 1).getLsbD 5 then some ((o.buf.read 1).toNat % 16, (o.buf.read 1).getLsbD 4) else none) ∧
         v.active.srec = (if (o.buf.read 2).getLsbD 0 then some (scale 32 24 ((o.buf.read 2).getLsbD 2)) else none) ∧
         v.shadow.srec = (if (o.buf.read 2).getLsbD 1 then some (scale 64 28 ((o.buf.read 2).getLsbD 3)) else none))))) ∧
  (∀ (t k : Nat) (o : MatOp) (s : State),
  (tileOf s t).matq.find? (fun x => decide (x.id = k) && x.started) = some o → o.fail = .none_ →
  let z : MSlot := Sparse.get {} (tileOf s t).slots o.slot
  let pass := fun r n => rowPass o.entry (accElem (Sparse.get ({} : Row) z.acc r) n) (Sparse.get ({} : Row) o.aRows r).bits
    (Sparse.get ({} : Row) z.active.rows n).bits (if eScl o.entry then scaleNum o.scA r else .fin false 1 0)
    (if eScl o.entry then scaleNum o.scB n else .fin false 1 0)
  let done := fun (P : MSlot → State → Prop) => ∃ u, exec (.matrixOpComplete t k) s = .next u ∧
    (tileOf u t).matq = (tileOf s t).matq.filter (fun x => decide (x.id ≠ k)) ∧ P (Sparse.get {} (tileOf u t).slots o.slot) u
  let gains := fun (u : State) (f : Nat → Bool) => ∀ i, i < 64 → (ctxOf u t o.ctx).mxflags.getLsbD i =
    ((ctxOf s t o.ctx).mxflags.getLsbD i || ((0x5D : Nat).testBit i && f i))
  (o.kind = .mldw → done fun v u => v = { z with shadow := { rows := o.aRows, stamp := o.aStamp, srec := o.aRec } } ∧ u.mem = s.mem) ∧
  (o.kind = .mswap → done fun v u => v = { z with active := z.shadow, shadow := z.active } ∧ u.mem = s.mem) ∧
  (o.kind = .macz → done fun v u => v.kind = z.kind ∧ v.active = z.active ∧ v.shadow = z.shadow ∧ u.mem = s.mem ∧
    ∀ r, r < 16 → (Sparse.get ({} : Row) v.acc r).poison = false ∧
      ∀ n, n < 16 → accElem (Sparse.get ({} : Row) v.acc r) n = eIdent o.entry) ∧
  (o.kind = .mmul → o.ncol ≤ 16 → o.first + o.nrow ≤ 16 → done fun v u => v.kind = z.kind ∧ v.active = z.active ∧ v.shadow = z.shadow ∧
    (∀ r, (r < o.first ∨ o.first + o.nrow ≤ r) → Sparse.get ({} : Row) v.acc r = Sparse.get {} z.acc r) ∧
    (∀ r n, o.first ≤ r → r < o.first + o.nrow → n < 16 → accElem (Sparse.get ({} : Row) v.acc r) n =
      if n < o.ncol then (pass r n).1 % 2 ^ 32 else accElem (Sparse.get ({} : Row) z.acc r) n) ∧
    (∀ r, o.first ≤ r → r < o.first + o.nrow → (Sparse.get ({} : Row) v.acc r).poison =
      ((Sparse.get ({} : Row) z.acc r).poison || (Sparse.get ({} : Row) o.aRows r).poison || o.scPoison ||
        (List.range o.ncol).any (fun n => (Sparse.get ({} : Row) z.active.rows n).poison) ||
        (eExc o.entry && (List.range o.ncol).any fun n => decide ((pass r n).2 % 2 = 1)))) ∧
    (ctxOf u t o.ctx).fpflags = (ctxOf s t o.ctx).fpflags ∧
    gains u fun i => (List.range o.nrow).any fun r => (List.range o.ncol).any fun n => (pass (o.first + r) n).2.testBit i) ∧
  (∀ cat i32, o.kind = .mdrain → o.kindAt = some (cat, i32) → done fun v u => v = z ∧ u.mem = s.mem ∧
    (Sparse.get {} (tileOf u t).xregs o.reg).stamp = 0xFFFFFFFF ∧
    (gains u fun i => (List.range 16).any fun r => (List.range 16).any fun n =>
      (drainElem cat i32 o.ty (accElem (Sparse.get ({} : Row) z.acc r) n)).2.testBit i) ∧
    ∀ r, r < 16 → (rowIn (tileOf u t) o.reg r).poison = (Sparse.get ({} : Row) z.acc r).poison ∧
      ∀ n, n < tyCount o.ty → elem (tyWidth o.ty) (rowIn (tileOf u t) o.reg r).bits n =
        if n < 16 then (drainElem cat i32 o.ty (accElem (Sparse.get ({} : Row) z.acc r) n)).1 % 2 ^ tyWidth o.ty else 0) ∧
  (o.kind = .msave → o.left ≠ [] →
    let j := s.pick % o.left.length
    let n := o.left.getD j 0
    let b := o.pas.getD n 0
    b % 64 = 0 → paRegion b = 1 → Sparse.get none (tileOf s t).pairs o.ctx = none → (tileOf s t).pairOf = none → errAt s b = none → ∃ u, exec (.matrixOpComplete t k) s = .next u ∧
      (∀ i, i < 64 → u.mem.read (b + i) = (slotImage { z with kind := o.kindAt }).read (64 * n + i)) ∧
      (∀ q, q < b ∨ b + 64 ≤ q → u.mem.read q = s.mem.read q) ∧ segPoison u b = false ∧
      (tileOf u t).slots = (tileOf s t).slots ∧
      (tileOf u t).matq = (tileOf s t).matq.map fun p => if p.id = o.id then { p with left := o.left.eraseIdx j, since := 0 } else p) ∧
  (o.kind = .msave ∧ o.left = [] ∨ o.kind = .mrest → done fun v u => v = z ∧ u.mem = s.mem))

open Sys2Proof Sys2Proof.Machine in
/-- In every state in which the RPC is legal, its handle is free, its block passes and obeys Tables 8.5 and 8.6, its
areas lie in the own scratchpad, its target resolves to a vault or a peer, and neither the agent's queue nor the
context's 32 commands are full, each of the twelve RPC procedures gives a next state in which the request, with
the block, is on its way to the agent of the target, has taken the next engine sequence number, and its future,
unless NF is set, is PENDING. A block outside the tables raises RPC_PROCEDURE, and a handle in use
HANDLE_INVALID. -/
def Obligations.RpcCommandsIssue : Prop :=
  ∀ (h : Fin 8) (a : Fin 16) (n t : Bool) (l : List Resolved) (b reply m u : Nat) (r : Resolved) (s s' : State),
  let hd := if n then none else some h
  let issues := fun (i : Instr) (proc : Nat) => Legal s i →
    (BlockMet s hd a 1 l s' b →
      (rpcParse s' proc b n = some (reply, m) → (blk b 16 8 ≠ 0 → reply ≠ 0 → ownArea s' (blk b 16 8) reply true = none) →
        (blk b 28 1 / 2 % 2 = 1 → ownArea s' (blk b 32 8) (indBytes proc (blk b 24 4)) false = none) →
        serving s' (blk b 8 8) (rpcWrites proc) true = .ok (u, r) → outstanding s' s'.focusTile s'.focusCtx < 32 →
        (tileOf s' u).agentq.length < 64 →
        ∃ w, exec i s = .next (settled s (.done w .next)) ∧
          w.agentReqs = s.agentReqs ++ [(u, { kind := .rpc proc, block := BitVec.ofNat 512 b, blockVa := (rdS s' a).val.toNat, trap := t, nf := n, id := s.nextId, seq := (coreOf s s.focusTile (coreIx s.focusCtx)).seqno, view := commandView s', handle := if n then 0 else h.val })] ∧
          (coreOf w s.focusTile (coreIx s.focusCtx)).seqno = (coreOf s s.focusTile (coreIx s.focusCtx)).seqno + 1 ∧
          (n = false → futOf w h = { st := .pending, cmd := s.nextId })) ∧
      (rpcParse s' proc b n = none → exec i s = .next (settled s (.trap { cause := .rpcProcedure })))) ∧
    (n = false → Ready s [a] → (futOf s h).st ≠ .free → exec i s = .next (settled s (.trap { cause := .handleInvalid })))
  issues (.rpcRead h a n t) 0 ∧
  issues (.rpcWrite h a n t) 1 ∧
  issues (.vaddF32 h a n t) 2 ∧
  issues (.vaddI32 h a n t) 3 ∧
  issues (.vminF32 h a n t) 4 ∧
  issues (.vmaxF32 h a n t) 5 ∧
  issues (.cas64 h a n t) 6 ∧
  issues (.swap64 h a n t) 7 ∧
  issues (.readBox h a n t) 8 ∧
  issues (.writeBox h a n t) 9 ∧
  issues (.rpcFill h a n t) 10 ∧
  issues (.zeroPage h a n t) 11

open Sys2Proof Sys2Proof.Machine in
/-- In every state in which the command is legal, its handle is free, its block passes and obeys its table, its
areas lie in the own scratchpad, its agent is found and has room, TRAV, TRAV.res, GPOOL and ATTN give a next
state in which the command, with its block, is on its way, and its future is PENDING. TRAV goes to the tile that
owns the first pointer, or to the issuing tile; TRAV.res goes on from a token that fits the tile and the block
address. A block outside its limits raises TRAVERSAL with the offset of the first bad field in EVAL, GATHER or
ATTENTION. -/
def Obligations.WalkCommandsIssue : Prop :=
  ∀ (h : Fin 8) (a : Fin 16) (t : Bool) (l : List Resolved) (b u : Nat) (r : Resolved) (s s' : State), BlockMet s (some h) a 1 l s' b →
  let sends := fun (i : Instr) (k : AgentKind) (dest : Nat) (token : Nat) => outstanding s' s'.focusTile s'.focusCtx < 32 →
    (tileOf s' dest).agentq.length < 64 → ∃ w, exec i s = .next (settled s (.done w .next)) ∧
      w.agentReqs = s.agentReqs ++ [(dest, { kind := k, block := BitVec.ofNat 512 b, blockVa := (rdS s' a).val.toNat, token := BitVec.ofNat 512 token, trap := t, id := s.nextId, seq := (coreOf s s.focusTile (coreIx s.focusCtx)).seqno, view := commandView s', handle := h.val })] ∧
      futOf w h = { st := .pending, cmd := s.nextId }
  let walkable := walkBad b = none ∧ ownArea s' (blk b 0 8) 128 false = none ∧ ownArea s' (blk b 56 8) 256 true = none
  (Legal s (.trav h a t) →
    (walkable → sends (.trav h a t) .trav (walkAgent s' (blk b 8 8)) 0) ∧
    ∀ off, walkBad b = some off →
      exec (.trav h a t) s = .next (settled s (.trap { cause := .traversal, eval := BitVec.ofNat 64 off }))) ∧
  (Legal s (.travRes h a t) → walkable → resolve s' (curView s') (.core (coreIx s'.focusCtx)) (blk b 56 8) false = .ok r →
    segPoison s' r.pa = false → tokenFits (readMem s' r.pa 64) s'.focusTile (rdS s' a).val.toNat = true →
    sends (.travRes h a t) .travRes (walkAgent s' (blk (readMem s' r.pa 64) 16 8)) (readMem s' r.pa 64)) ∧
  (Legal s (.gpool h a t) →
    (poolOk b = true → ownArea s' (blk b 0 8) (4 * blk b 24 4) false = none →
      (blk b 8 8 ≠ 0 → ownArea s' (blk b 8 8) (4 * blk b 24 4) false = none) →
      ownArea s' (blk b 40 8) (4 * blk b 32 2) true = none → serving s' (blk b 16 8) false false = .ok (u, r) →
      sends (.gpool h a t) .gpool u 0) ∧
    (poolOk b = false → exec (.gpool h a t) s = .next (settled s (.trap { cause := .gather })))) ∧
  (Legal s (.attn h a t) →
    (attnOk b = true → ownArea s' (blk b 0 8) (2 * ((blk b 35 1 % 16 + 1) * blk b 32 2)) false = none →
      ownArea s' (blk b 56 8) (4 * ((blk b 35 1 % 16 + 1) * blk b 32 2)) true = none →
      serving s' (blk b 8 8) false false = .ok (u, r) → sends (.attn h a t) .attn u 0) ∧
    (attnOk b = false → exec (.attn h a t) s = .next (settled s (.trap { cause := .attention }))))

open Sys2Proof Sys2Proof.Machine in
/-- For every state: FWAIT and FGET on a terminal handle complete, with the writes of its command hb-before what follows,
FGET with word w of the record in s[A], poisoned
only from word 2 on, and with REL the handle is free afterwards; on a pending handle they wait; FGET of a word
from 2 on of a cancelled future raises FUTURE_CANCELLED. FTEST, in a run without a log, writes 1 for a terminal
and 0 for a pending handle. FCANCEL does nothing on a terminal handle and sends a request for the command of a
pending one. FXFER moves the future, in whatever state, to a free handle of another context of the same launch.
Each raises HANDLE_INVALID on a free handle. -/
def Obligations.FuturesComplete : Prop :=
  ∀ (h g : Fin 8) (d : Fin 16) (w : Fin 6) (rel : Bool) (s : State),
  let f := futOf s h
  let after := fun u : State => if rel then putFut h {} u else u
  let acquire := modCur (fun y => { y with sight := y.sight.know f.seen }) s
  let invalid := fun i : Instr => exec i s = .next (settled s (.trap { cause := .handleInvalid }))
  (f.st = .free → invalid (.fwait h rel) ∧ invalid (.fcancel h) ∧
    (Ready s [d] → invalid (.fget h d w rel) ∧ invalid (.ftest h d) ∧ invalid (.fxfer h d g))) ∧
  (f.st = .terminal → exec (.fwait h rel) s = .next (settled s (.done (after acquire) .next)) ∧
    exec (.fcancel h) s = .next (settled s (.done s .next)) ∧
    (Ready s [d] → (w.val < 2 ∨ f.code ≠ 6) → exec (.fget h d w rel) s = .next (settled s
      (.done (after (wrS d { val := futWord f w.val, poison := f.poison && decide (2 ≤ w.val) } acquire)) .next))) ∧
    (Ready s [d] → 2 ≤ w.val → f.code = 6 → exec (.fget h d w rel) s = .next (settled s (.trap { cause := .futureCancelled })))) ∧
  (f.st = .pending → exec (.fwait h rel) s = .next (settled s (.wait s .offcore)) ∧
    (Ready s [d] → exec (.fget h d w rel) s = .next (settled s (.wait s .offcore))) ∧
    exec (.fcancel h) s = .next (settled s (.done
      { s with nextId := s.nextId + 1, cancels := s.cancels ++ [(s.nextId, s.focusTile, f.cmd)] } .next))) ∧
  (f.st ≠ .free → Ready s [d] → Unlogged s →
    exec (.ftest h d) s = .next (settled s (.done (wrS d { val := if f.st = .terminal then 1 else 0 } s) .next))) ∧
  (f.st ≠ .free → Ready s [d] → Clean s [d] →
    let c := (rdS s d).val.toNat
    c < 8 → c ≠ s.focusCtx → (Sparse.get ({} : Fut) (ctxOf s s.focusTile c).futs g.val).st = .free →
    ((ctxOf s s.focusTile c).phase = .running ∨ (ctxOf s s.focusTile c).phase = .halted) →
    (ctxOf s s.focusTile c).launch = (cur s).launch →
    exec (.fxfer h d g) s = .next (settled s (.done
      (modCtx s.focusTile c (fun y => { y with futs := Sparse.set g.val f y.futs }) (putFut h {} s)) .next)))

open Sys2Proof Sys2Proof.Machine in
/-- For every state in which the launch declares the barrier and neither records nor replays: BAR.ARR of the tile,
once its release is met, counts the arrival, makes C the quotient when the count reaches a multiple of N, and
gives the phase joined; BAR.ARR of a wider domain sends the arrival, with an access that returns the phase;
BAR.WAIT completes once C is above s[A], and waits before; BAR.AW arrives at once in the tile, or sends its
arrival, and completes when its phase has, with the partial-move bit clear; what the arrivals of the phase had
released is hb-before what follows either. A barrier that is not declared raises BARRIER_ID; that an object of a FABRIC
level named as a DEVICE one raises it too is the model's choice (log 62). For every state with ready, unpoisoned operands, outside a recording and a replay: SIG adds n
after its release, or raises SEMAPHORE_OVERFLOW above 255; WSEM takes n when it is first in the queue and the
value suffices, and otherwise, with a value below n or an earlier waiter, waits in the place of the queue that it
has or at its end; TSEM writes 1 and takes n when nobody waits and the value
suffices, and otherwise writes 0; ASARM arms the set with its region, an empty bitmap and counter; ASWAIT
completes, and ASTEST writes 1, when the masked chunks are marked or, with mask 0, the counter has reached E. An
unarmed set or a mask bit at or above NC raises ARRIVAL_ID. -/
def Obligations.SynchronisationGroups : Prop :=
  (∀ (d a : Fin 16) (m : BarDom) (i : Fin 64) (l : Launch) (key : Nat) (s s' : State),
  launchOf s (cur s).launch = some l → l.recording = none → Unlogged s → barKeyOf s (domCode m) s.focusTile i.val = some key →
  let n := barTasks l (domCode m) s.focusTile
  let o := Sparse.get ({} : Bar) s.bars key
  let arrived := fun u : State => (barArrive key n (knownNow u s.focusTile s.focusCtx) u).2
  let counted := fun u : State => (Sparse.get ({} : Bar) u.bars key).a = o.a + 1 ∧
    (Sparse.get ({} : Bar) u.bars key).c = if (o.a + 1) % n = 0 then (o.a + 1) / n else o.c
  let knows := fun u : State => modCur (fun y => { y with sight := y.sight.know (Sparse.get ({} : Bar) u.bars key).released }) u
  let sends := fun (b : BarArr) => ({ s' with nextId := s.nextId + 1, barArr := s.barArr ++ [{ b with id := s.nextId, key := key, count := n, tile := s.focusTile, ctx := s.focusCtx, known := knownNow { s' with nextId := s.nextId + 1 } s.focusTile s.focusCtx }] } : State)
  let waited := modCur (fun y => { setPm false y with barPhase := none })
  (i.val < (barDecl l (domCode m)).1 → ¬(m = .device ∧ i.val < (barDecl l 6).1) →
    (Ready s [d] → ReleaseMet s s' → m = .tile → counted (arrived s') ∧
      exec (.barArr d m i) s = .next (settled s (.done (wrS d { val := BitVec.ofNat 64 (o.a / n) } (arrived s')) .next))) ∧
    (Ready s [d] → ReleaseMet s s' → m ≠ .tile →
      exec (.barArr d m i) s = .next (settled s (.done (phaseAcc d s.nextId key
        (sends { acc := if d = 0 then 0 else s.nextId })) .next))) ∧
    (Ready s [a] → Clean s [a] → (cur s).wait = .none_ →
      ((rdS s a).val.toNat < o.c → exec (.barWait a m i) s = .next (settled s (.done (knows s) .next))) ∧
      (o.c ≤ (rdS s a).val.toNat →
        exec (.barWait a m i) s = .next (settled s (.wait s (.barrier key (rdS s a).val.toNat))))) ∧
    ((cur s).barPhase = none → (cur s).afterEret = false → (cur s).wait = .none_ → ReleaseMet s s' →
      (s.barArr.any fun b => b.aw && decide (b.tile = s.focusTile) && decide (b.ctx = s.focusCtx)) = false →
      (m = .tile →
        let u := modCur (fun y => { y with barPhase := some (o.a / n), afterEret := false }) (arrived s')
        counted u ∧ exec (.barAw m i) s = .next (settled s
          (if barDone u key (o.a / n) then .done (waited (knows u)) .next else .wait u (.barrier key (o.a / n))))) ∧
      (m ≠ .tile → exec (.barAw m i) s = .next (settled s (.wait (sends { acc := 0, aw := true }) .offcore)))) ∧
    (∀ p, (cur s).barPhase = some p → p < o.c → (cur s).wait = .none_ →
      exec (.barAw m i) s = .next (settled s (.done (waited
        (knows (modCur (fun y => { y with barPhase := some p, afterEret := false }) s))) .next)))) ∧
  ((barDecl l (domCode m)).1 ≤ i.val ∨ (m = .device ∧ i.val < (barDecl l 6).1) → exec (.barAw m i) s = .next (settled s (.trap { cause := .barrierId })) ∧
    (Ready s [d] → exec (.barArr d m i) s = .next (settled s (.trap { cause := .barrierId }))) ∧
    (Ready s [a] → Clean s [a] → exec (.barWait a m i) s = .next (settled s (.trap { cause := .barrierId }))))) ∧
  (∀ (d a b m : Fin 16) (i : Fin 64) (s s' : State), Unlogged s → Ready s [d, a, b] → Clean s [a, b] →
  let n := if a = 0 then 1 else (rdS s a).val.toNat % 256
  let v := Sparse.get 0 (curTile s).sems m.val
  let put := fun (w : Nat) => modCurTile (fun x => { x with sems := Sparse.set m.val w x.sems })
  let took := consumeSem m.val v n s
  let waits := (curTile s).semq.find? fun q => decide (q.2.1 = m.val)
  let e := Sparse.get ({} : ArrSet) (curTile s).arr i.val
  let mask := (rdS s a).val.toNat + (rdS s b).val.toNat * 2 ^ 64
  let w := (rdS s b).val
  let holds := if mask = 0 then e.e ≤ e.count else e.bits.toNat &&& mask = mask
  (ReleaseMet s s' → (v + n ≤ 255 → exec (.sig a m) s = .next (settled s (.done (trailSig m.val n (put (v + n) s')) .next))) ∧
    (255 < v + n → exec (.sig a m) s = .next (settled s (.trap { cause := .semaphoreOverflow })))) ∧
  (n = 0 → exec (.wsem a m) s = .next (settled s (.done s .next))) ∧
  (n ≠ 0 → (waits = none ∨ waits.map (fun q => q.1) = some s.focusCtx) → n ≤ v →
    Sparse.get 0 (curTile took).sems m.val = v - n ∧ exec (.wsem a m) s = .next (settled s (.done
      (modCurTile (fun x => { x with semq := x.semq.filter fun q => decide (q.1 ≠ s.focusCtx) }) took) .next))) ∧
  (n ≠ 0 → v < n ∨ (waits ≠ none ∧ waits.map (fun q => q.1) ≠ some s.focusCtx) →
    let queued := (curTile s).semq.any fun q => decide (q.1 = s.focusCtx)
    exec (.wsem a m) s = .next (settled s (.wait
      (if queued then s else modCurTile (fun x => { x with semq := x.semq ++ [(s.focusCtx, m.val, n)] }) s) .offcore))) ∧
  (waits = none → n ≤ v → exec (.tsem d a m) s = .next (settled s (.done (wrS d { val := 1 } took) .next))) ∧
  (waits ≠ none ∨ v < n → exec (.tsem d a m) s = .next (settled s (.done (wrS d { val := 0 } s) .next))) ∧
  ((rdS s a).val.toNat % 512 = 0 → regionTrap s (rdS s a).val.toNat (wfld w 32 8) = none → 1 ≤ wfld w 32 8 → wfld w 32 8 ≤ 128 →
    wfld w 0 17 ≤ 512 * wfld w 32 8 → wfld w 17 15 = 0 → wfld w 40 24 = 0 →
    exec (.asarm a b i) s = .next (settled s (.done (modCurTile (fun x => { x with arr := Sparse.set i.val { armed := true, base := (rdS s a).val.toNat, nc := wfld w 32 8, e := wfld w 0 17, count := 0, bits := 0 } x.arr }) s) .next))) ∧
  (e.armed = true → mask < 2 ^ e.nc →
    (holds → exec (.aswait a b i) s = .next (settled s (.done (modCur (fun y => { y with sight := y.sight.know (marksOf e mask) }) s) .next)) ∧
      exec (.astest d a b i) s = .next (settled s (.done (wrS d { val := 1 } s) .next))) ∧
    (¬holds → exec (.aswait a b i) s = .next (settled s (.wait s .offcore)) ∧
      exec (.astest d a b i) s = .next (settled s (.done (wrS d { val := 0 } s) .next)))) ∧
  (e.armed = false ∨ 2 ^ e.nc ≤ mask → exec (.aswait a b i) s = .next (settled s (.trap { cause := .arrivalId })) ∧
    exec (.astest d a b i) s = .next (settled s (.trap { cause := .arrivalId }))))

open Sys2Proof Sys2Proof.Machine in
/-- For every arrival on its way that no pair holds and that no earlier request of its tile to that home precedes,
BARRIER_ARRIVAL gives a next state in which the arrival count of its object has grown by one, C is the quotient when
the count reaches a multiple of N, what the arrival and those before it released stands with the object, and with the
phase when it completes, and the arrival is gone. BARRIER_RELEASE ends the wait of a context for a completed phase. BARRIER_TIMEOUT makes a context that has
waited longer than the declared timeout, and can issue, take BARRIER_TIMEOUT with the phase in EVAL. -/
def Obligations.BarrierEvents : Prop :=
  ∀ (k t key p : Nat) (c : Fin 8) (b : BarArr) (l : Launch) (s : State),
  (s.barArr.find? (fun x => decide (x.id = k)) = some b → heldByPair s b.tile b.ctx k = false →
    sentBefore s b.tile (barHome b.key) k = false →
    let o := Sparse.get ({} : Bar) s.bars b.key
    ∃ u, exec (.barrierArrival k) s = .next u ∧ u.barArr = s.barArr.filter (fun x => decide (x.id ≠ k)) ∧ u.mem = s.mem ∧
      (let w := Sparse.get ({} : Bar) u.bars b.key
       w.a = o.a + 1 ∧ w.c = (if (o.a + 1) % b.count = 0 then (o.a + 1) / b.count else o.c) ∧
       ∀ n, b.known.has n = true ∨ o.arrived.has n = true → w.arrived.has n = true ∧
         ((o.a + 1) % b.count = 0 → w.released.has n = true)) ∧
      (∀ q, q ≠ b.key → Sparse.get ({} : Bar) u.bars q = Sparse.get {} s.bars q) ∧
      (b.aw = true → (ctxOf u b.tile b.ctx).barPhase = some (o.a / b.count))) ∧
  ((ctxOf s t c).wait = .barrier key p → p < (Sparse.get ({} : Bar) s.bars key).c →
    (key / 2 ^ 20 = 2 ∨ repliedBefore s (barHome key) t (Sparse.get ({} : Bar) s.bars key).sent = false) →
    exec (.barrierRelease t c) s = .next (modCtx t c (fun y => { y with wait := .none_ }) s)) ∧
  ((ctxOf s t c).wait = .barrier key p → (Sparse.get ({} : Bar) s.bars key).c ≤ p → launchOf s (ctxOf s t c).launch = some l →
    barLimit s l key ≠ 0 → (ctxOf s t c).waitSince + barLimit s l key ≤ s.time → (ctxOf s t c).stopped = false →
    (ctxOf s t c).debugHalt = false →
    exec (.barrierTimeout t c) s = .next (enterCause t c { cause := .barrierTimeout, eval := BitVec.ofNat 64 p } 0 s))

open Sys2Proof Sys2Proof.Machine in
/-- For every state with ready operands, unpoisoned but for the data of WLAPP, whose launch configures the list and
neither records nor replays: each of WLAPP, WLTAKE, WLDONE and QWAIT that has not asked yet waits with its
request on its way, WLAPP and WLDONE after their release, WLTAKE once no earlier access touches its destination; it goes
on waiting while the answer has not come; once the answer has come it completes, WLTAKE with the number of items in s[D]; an
answer that names a cause raises it, in each of the four. A list that is not configured raises WORKLIST_ID. A misaligned
s[A] of WLTAKE raises ALIGN, and the first cause of its destination is raised whatever the number of items. That a group which executes again takes the answer kept
of a request that the unit has applied, and sends none, is the model's reading (log 73). -/
def Obligations.WorkListGroups : Prop :=
  ∀ (d a b : Fin 16) (i : Fin 64) (l : Launch) (w : WlReq) (s s' : State), Unlogged s → Ready s [d, a, b] →
  launchOf s (cur s).launch = some l → ReleaseMet s s' →
  let known := (Sparse.get ({} : WorkList) l.lists i.val).cap ≠ 0
  let m := min (rdS s b).val.toNat 64
  let area := (rdS s a).val.toNat % 16 = 0 ∧ takeArea s (rdS s a).val.toNat m = none ∧
    touchedSoon s (rdS s a).val.toNat (16 * m) = false
  let asked := fun (r : WlReq) (u : State) => Eff.wait
    (modCur (fun y => { y with wl := some { r with id := s.nextId, known := knownNow { u with nextId := s.nextId + 1 } s.focusTile s.focusCtx } }) { u with nextId := s.nextId + 1 }) .worklist
  let kept := fun op : Nat => (cur s).wlKept.filter fun e => decide (e.1 = (cur s).pc) && decide (e.2.op = op)
  let ends := fun (p : Nat → Prop) (f : State → State) =>
    (p 0 → known → exec (.wlapp a b i) s = .next (settled s (.done (f s') .next))) ∧
    (p 1 → known → Clean s [a, b] → area → exec (.wltake d a b i) s = .next (settled s
      (.done (wrS d { val := BitVec.ofNat 64 w.result } (f s)) .next))) ∧
    (p 2 → known → Clean s [a] → exec (.wldone a i) s = .next (settled s (.done (f s') .next))) ∧
    (p 3 → exec .qwait s = .next (settled s (.done (f s) .next)))
  let others := fun (e : State → Eff) =>
    (known → exec (.wlapp a b i) s = .next (settled s (e s'))) ∧
    (known → Clean s [a, b] → area → exec (.wltake d a b i) s = .next (settled s (e s))) ∧
    (known → Clean s [a] → exec (.wldone a i) s = .next (settled s (e s'))) ∧
    exec .qwait s = .next (settled s (e s))
  ((cur s).wl = none →
    (known → kept 0 = none → exec (.wlapp a b i) s = .next (settled s (asked { op := 0, list := i.val, a := (rdS s a).val, b := (rdS s b).val, poison := (rdS s a).poison || (rdS s b).poison } s'))) ∧
    (known → kept 1 = none → Clean s [a, b] → area → exec (.wltake d a b i) s = .next (settled s
      (asked { op := 1, list := i.val, a := (rdS s a).val, b := BitVec.ofNat 64 m } s))) ∧
    (known → kept 2 = none → Clean s [a] → exec (.wldone a i) s = .next (settled s (asked { op := 2, list := i.val, a := (rdS s a).val } s'))) ∧
    (kept 3 = none → exec .qwait s = .next (settled s (asked { op := 3 } s)))) ∧
  ((cur s).wl = some w → w.answered = true → w.trap = .none_ →
    ends (fun _ => True) (modCur fun y => { y with wl := none })) ∧
  ((cur s).wl = none → ends (fun op => ∃ p, kept op = some (p, w)) (modCur fun y => { y with wlKept := none })) ∧
  ((cur s).wl = some w → w.answered = false → others fun u => .wait u .worklist) ∧
  ((cur s).wl = some w → w.answered = true → w.trap ≠ .none_ → others fun _ => .trap { cause := w.trap }) ∧
  (known → Clean s [a, b] →
    ((rdS s a).val.toNat % 16 ≠ 0 → exec (.wltake d a b i) s = .next (settled s (.trap (addrTrap .align (rdS s a).val)))) ∧
    (∀ tr, (rdS s a).val.toNat % 16 = 0 → takeArea s (rdS s a).val.toNat m = some tr →
      exec (.wltake d a b i) s = .next (settled s (.trap tr)))) ∧
  (¬known → exec (.wlapp a b i) s = .next (settled s (.trap { cause := .worklistId })) ∧
    (Clean s [a] → exec (.wldone a i) s = .next (settled s (.trap { cause := .worklistId }))) ∧
    (Clean s [a, b] → exec (.wltake d a b i) s = .next (settled s (.trap { cause := .worklistId }))))

open Sys2Proof Sys2Proof.Machine in
/-- For every context, not at its fatal end, with a request that no pair holds, that no earlier request of its tile still has
to precede (R24), and that the unit has not applied, WL_REQUEST_APPLY gives a next state: an append to a list with room puts
its 16 bytes at the tail, which moves on, and counts P; a full list is answered with WORKLIST_FULL; a take from a list with
items, when no earlier request waits, takes the lesser of M and what is there, writes each item with its poison at 16 bytes
a piece from the destination on and nothing else, moves the head and counts K and the context's own U; a take of none, one
from an empty list by a context with U above 0, and one from an empty list of a quiescent launch are answered with 0; any
other take waits at the unit in its place; an acknowledgement within U counts Q and lowers U, and one beyond it is answered
with WORKLIST_ID; a QWAIT with U above 0 is answered with WORKLIST_ID, otherwise it is answered when the launch is quiescent
and waits before. WL_ANSWER brings the answer to the context, once the unit's earlier answers to its tile have arrived. -/
def Obligations.WorkListEvents : Prop :=
  ∀ (t : Nat) (c : Fin 8) (r : WlReq) (l : Launch) (s : State), (ctxOf s t c).wl = some r →
  launchOf s (ctxOf s t c).launch = some l → heldByPair s t c.val r.id = false → (ctxOf s t c).phase ≠ .ending →
  let w := Sparse.get ({} : WorkList) l.lists r.list
  let u := Sparse.get 0 l.u (t * 8 + c.val)
  let applied := fun (P : State → Launch → Prop) (res : Nat) (trap : Cause) => ∃ v k n, exec (.wlRequestApply t c) s = .next v ∧
    (ctxOf v t c).wl = some { r with applied := true, result := res, trap := trap, sent := n } ∧ launchOf v (ctxOf s t c).launch = some k ∧ P v k
  let still := fun (v : State) (k : Launch) => k = l ∧ v.mem = s.mem ∧ v.poison = s.poison
  let held := ∃ v, exec (.wlRequestApply t c) s = .next v ∧
    (ctxOf v t c).wl = some { r with order := if r.order = 0 then s.nextId else r.order } ∧
    v.launches = s.launches ∧ v.mem = s.mem ∧ v.poison = s.poison
  (r.applied = false → (r.order = 0 → askedBefore s t r.id = false) →
    (r.op = 0 → w.tail - w.head = w.cap → applied still 0 .worklistFull) ∧
    (r.op = 0 → w.tail - w.head ≠ w.cap →
      let pa := w.pa + 16 * (w.tail % w.cap)
      applied (fun v k => k = { l with p := l.p + 1, done := l.done.join r.known, lists := Sparse.set r.list { w with tail := w.tail + 1, seen := Sparse.set w.tail r.known w.seen } l.lists } ∧
        v.mem.readN pa 8 = r.a.toNat ∧ v.mem.readN (pa + 8) 8 = r.b.toNat ∧
        ∀ q, q < pa ∨ pa + 16 ≤ q → v.mem.read q = s.mem.read q) 0 .none_) ∧
    (r.op = 1 → r.b.toNat ≠ 0 → w.tail - w.head ≠ 0 → earlierTaker s l r.list r.order = false →
      let n := min r.b.toNat (w.tail - w.head)
      let item := fun i : Nat => w.pa + 16 * ((w.head + i) % w.cap)
      applied (fun v k => k.k = l.k + n ∧ Sparse.get 0 k.u (t * 8 + c.val) = u + n ∧ k.p = l.p ∧ k.q = l.q ∧
        Sparse.get {} k.lists r.list = { w with head := w.head + n } ∧
        ∀ (base : Nat) (x : Nat → Resolved), base % 16 = 0 → 2 ^ 40 ≤ base →
          (∀ i, i < n → (x i).pa = base + 16 * i ∧ mirrorOf s (base + 16 * i) = none ∧ paRegion (base + 16 * i) = 1 ∧
            item i + 16 ≤ 2 ^ 40 ∧ errAt s (item i) = none ∧
            ∀ m p h o, resolve { s with mem := m, poison := p, hist := h, writes := o } (viewOf s t c.val) .none_ (r.a.toNat + 16 * i) true = .ok (x i)) →
          (∀ i, i < n → v.mem.readN (base + 16 * i) 16 = s.mem.readN (item i) 16) ∧
          (∀ q, q < base ∨ base + 16 * n ≤ q → v.mem.read q = s.mem.read q) ∧
          ∀ q, segPoison v q = (segPoison s q ||
            (List.range n).any fun i => decide ((base + 16 * i) / 64 = q / 64) && segPoison s (item i))) n .none_) ∧
    (r.op = 1 → r.b.toNat = 0 → applied still 0 .none_) ∧
    (r.op = 1 → w.tail - w.head = 0 → u ≠ 0 ∨ quiescent s l = true → applied still 0 .none_) ∧
    (r.op = 1 → r.b.toNat ≠ 0 → w.tail - w.head ≠ 0 → earlierTaker s l r.list r.order = true → held) ∧
    (r.op = 1 → r.b.toNat ≠ 0 → w.tail - w.head = 0 → u = 0 → quiescent s l = false → held) ∧
    (r.op = 2 → r.a.toNat ≤ u →
      applied (fun v k => k.q = l.q + r.a.toNat ∧ Sparse.get 0 k.u (t * 8 + c.val) = u - r.a.toNat ∧ k.lists = l.lists ∧ v.mem = s.mem) 0 .none_) ∧
    (r.op = 2 → u < r.a.toNat → applied still 0 .worklistId) ∧
    (r.op = 3 → u ≠ 0 → applied still 0 .worklistId) ∧
    (r.op = 3 → u = 0 → quiescent s l = true → applied still 0 .none_) ∧
    (r.op = 3 → u = 0 → quiescent s l = false → held)) ∧
  (r.applied = true → r.answered = false → answeredBefore s t r.sent = false →
    exec (.wlAnswer t c) s = .next (modCtx t c (fun y => { y with wl := some { r with answered := true } }) s))

open Sys2Proof Sys2Proof.Machine in
/-- For every state with ready, unpoisoned operands: CLAIM sets a claim within the totals once, or raises
CLAIM_REPEATED or CLAIM_IMPOSSIBLE (that CLAIM_REPEATED comes first, and CLAIM_ABSENT before CLAIM_EXCEEDED, is the
model's choice, log 80); ACQ and ACQT whose check gives 0 grant at once and write the granted names
and slots, a single name being bound to the lowest-numbered unbound register, which reads as zero; ACQT whose
check gives 1 or 2 writes that code and changes no holding; ACQ then waits in the queue; without a claim they
raise CLAIM_ABSENT. REL with a proper vector and RELALL, when nothing named is still used, release; after
RELALL, with no request queued, the context holds nothing. RESQ writes the quantity selected. -/
def Obligations.HamperComplete : Prop :=
  ∀ (d a : Fin 16) (r : Nat) (s : State), Ready s [d, a] → Clean s [a] → Unlogged s →
  let w := (rdS s a).val
  let g := grant s.time s.focusCtx w (curTile s)
  let traps := fun (i : Instr) (c : Cause) => exec i s = .next (settled s (.trap { cause := c }))
  let queue := (curTile s).acqq.any fun q => decide (q.1 = s.focusCtx)
  ((cur s).claim = none → claimFits (curTile s) w = true →
    exec (.claim a) s = .next (settled s (.done (modCur (fun y => { y with claim := some w }) s) .next))) ∧
  ((cur s).claim ≠ none → traps (.claim a) .claimRepeated) ∧
  ((cur s).claim = none → claimFits (curTile s) w = false → traps (.claim a) .claimImpossible) ∧
  ((cur s).claim = none → traps (.acqt d a) .claimAbsent ∧ ((cur s).acqRes = none → traps (.acq d a) .claimAbsent)) ∧
  (hamperCheck (curTile s) s.focusCtx w = .ok 0 →
    exec (.acqt d a) s = .next (settled s (.done (wrS d { val := g.1 } (setTile s.focusTile g.2 s)) .next)) ∧
    ((cur s).acqRes = none → queue = false →
      exec (.acq d a) s = .next (settled s (.done (wrS d { val := g.1 } (setTile s.focusTile g.2 s)) .next)))) ∧
  (hamperCheck (curTile s) s.focusCtx w = .ok r → r ≠ 0 → r < 4 →
    exec (.acqt d a) s = .next (settled s (.done (wrS d { val := BitVec.ofNat 64 r } (countEvent s.focusTile s.focusCtx 18 1 s)) .next)) ∧
    ((cur s).acqRes = none → ∃ u, exec (.acq d a) s = .next (settled s (.wait u .offcore)) ∧
      ∃ v, (s.focusCtx, v) ∈ (curTile u).acqq)) ∧
  (∀ v, (cur s).acqRes = some v → exec (.acq d a) s = .next (settled s
    (.done (wrS d { val := v } (modCur (fun y => { y with acqRes := none }) s)) .next))) ∧
  (∀ k, k < 16 → w = BitVec.ofNat 64 (2 ^ k) → physOf (cur s) k = none →
    (∃ p, p < 32 ∧ (Sparse.get ({} : TileReg) (curTile s).xregs p).bound = false) →
    ∃ p, p < 32 ∧ (Sparse.get ({} : TileReg) (curTile s).xregs p).bound = false ∧
      (∀ q, q < p → (Sparse.get ({} : TileReg) (curTile s).xregs q).bound = true) ∧
      physOf (ctxIn g.2 s.focusCtx) k = some p ∧ (∀ j, rowIn g.2 p j = {}) ∧
      (Sparse.get ({} : TileReg) g.2.xregs p).bound = true ∧ (Sparse.get ({} : TileReg) g.2.xregs p).stamp = 0xFFFFFFFF ∧
      g.1 = BitVec.ofNat 64 (2 ^ (16 + k))) ∧
  (wbit w 23 = false → wfld w 28 36 = 0 → releaseBusy s s.focusTile s.focusCtx w = false →
    exec (.rel a) s = .next (settled s (.done (modCurTile (releaseVector s.time s.focusCtx w) s) .next))) ∧
  (wbit w 23 = true ∨ wfld w 28 36 ≠ 0 → traps (.rel a) .claimExceeded) ∧
  (releaseBusy s s.focusTile s.focusCtx everything = false → (curTile s).acqq = [] → (cur s).granules.length ≤ 96 →
    ((cur s).names.map fun n => n.1).Nodup →
    ∃ u, exec .relall s = .next (settled s (.done u .next)) ∧ (∀ k, k < 16 → physOf (cur u) k = none) ∧
      (cur u).granules = [] ∧ (∀ j, j < 4 → (Sparse.get ({} : MSlot) (curTile u).slots j).owner ≠ some s.focusCtx) ∧
      (cur u).claim = (cur s).claim) ∧
  exec (.resq d a) s = .next (settled s (.done (wrS d { val := resqValue s w.toNat } s) .next))

open Sys2Proof Sys2Proof.Machine in
/-- For every state: REFRESH of a bank of an ACTIVE vault makes the bank unavailable for 594 cycles and closes its
row, and REFRESH_END, once they are over, makes it available again and opens the rows that ROWACTs have asked for in the
meantime, which an ACTIVE vault opens in each bank that is available, under the policy of the ROWACT (R122); an ACTIVE vault ends the stalls of its agent's requests; MAINTENANCE_HOLD makes an ACTIVE vault enter
HOLD; HOLD_ENTERED, once no own-vault read is outstanding and a reason to hold is left, puts an entering vault
into HOLD with every bank precharged; a sample above 105 degrees makes an ACTIVE vault critical and enter HOLD,
and one below 102 with no maintenance lets it return to ACTIVE; MAINTENANCE_RELEASE lets a vault that is not
critical return. ROW_REPAIR_DONE ends a repair: the row is flagged no longer and uses one spare of its bank.
PATROL_SCRUB moves the scrub pointer to the next segment. That a thermal state is left one level a sample, that
refresh is of an ACTIVE vault alone, and that the journal entry of a repair is made as it ends, is the model's reading (log 49). -/
def Obligations.VaultEvents : Prop :=
  ∀ (t b r : Nat) (temp : Int) (s : State),
  let v := (tileOf s t).vault
  let to_ := fun w : Vault => modTile t (fun x => endStalls { x with vault := w }) s
  (b < 24 → v.hold = .active → Sparse.get none v.refresh b = none → exec (.refresh t b) s = .next
    (to_ { v with refresh := Sparse.set b (some (s.time + 594)) v.refresh, openRow := Sparse.set b none v.openRow })) ∧
  (∀ e, Sparse.get none v.refresh b = some e → e ≤ s.time → exec (.refreshEnd t b) s = .next
    (reopen t (to_ { v with refresh := Sparse.erase b v.refresh, openRow := Sparse.set b none v.openRow }))) ∧
  (v.hold ≠ .active ∨ v.opening = [] → reopen t s = s) ∧
  (∀ o, v.hold = .active → v.opening = [(b, some o)] → refreshing s t b = false →
    reopen t s = touchBank t o.1 1 o.2 (to_ { v with opening := [] })) ∧
  (v.hold = .active → exec (.maintenanceHold t) s = .next (to_ { v with maint := true, hold := .entering, holdThermal := false })) ∧
  (v.hold ≠ .active → exec (.maintenanceHold t) s = .next (to_ { v with maint := true })) ∧
  (v.hold = .entering → readsAtBank (tileOf s t) = false → (v.critical = true ∨ v.maint = true) →
    exec (.holdEntered t) s = .next (to_ { v with hold := .hold, openRow := [] })) ∧
  (v.hold = .entering → readsAtBank (tileOf s t) = false → v.critical = false → v.maint = false →
    exec (.holdEntered t) s = .next (reopen t (to_ { v with hold := .active, openRow := [] }))) ∧
  (105 < temp → v.hold = .active → ∃ u, exec (.thermalSample t temp) s = .next u ∧ (voltOf u (sectorOf t)).off = 0 ∧
    (tileOf u t).vault = { v with temp := temp, thermal := .critical, critical := true, hold := .entering, holdThermal := true }) ∧
  (temp < 102 → v.thermal = .critical → v.hold = .hold → v.maint = false → v.opening = [] → ∃ u, exec (.thermalSample t temp) s = .next u ∧
    (tileOf u t).vault = { v with temp := temp, thermal := .hot, critical := false, hold := .active }) ∧
  (v.hold = .hold → v.critical = false → exec (.maintenanceRelease t) s = .next (reopen t (to_ { v with maint := false, hold := .active }))) ∧
  (v.critical = true → exec (.maintenanceRelease t) s = .next (reopen t (to_ { v with maint := false }))) ∧
  (v.flagged.contains (b + 24 * r) = true → v.repairing.contains (b + 24 * r) = true → v.hold = .active →
    Sparse.get none v.refresh b = none → Sparse.get 0 v.spares b < 32 → ∃ u, exec (.rowRepairDone t b r) s = .next u ∧
      (tileOf u t).vault.flagged.contains (b + 24 * r) = false ∧ (tileOf u t).vault.repairing.contains (b + 24 * r) = false ∧
      Sparse.get 0 (tileOf u t).vault.spares b = Sparse.get 0 v.spares b + 1 ∧
      Sparse.get none (tileOf u t).vault.openRow b = none ∧ u.jnext = s.jnext + 1) ∧
  (vaultHindrance s t (64 * v.scrub) .rpcRemote = none → ∃ u, exec (.patrolScrub t) s = .next u ∧ u.mem = s.mem ∧
    (tileOf u t).vault.scrub = (v.scrub + 1) % 4194304)

open Sys2Proof Sys2Proof.Machine in
/-- For every state: SRAM_SCRUB adds the corrected errors of the tile's arrays to its counter, saturating, and
clears them, and outside a verification window an array whose count passes the threshold raises its sector, when its
controller is enabled, by two steps at once; MATRIX_SPARE_SWITCH of an idle engine puts the spares in place of the
suspect rows and columns; UV_WINDOW, 1 ms after the last, lowers by one step a sector below the limit, the floor and
HOT in which no array has exceeded GUARD, and raises one in which an array has by two; VERIFICATION_WINDOW, 60 s after the
last, begins at nominal with every array of the sector corrected, unless that begins a raise, which it waits for, and
VERIFICATION_WINDOW_END, 10 ms after it, retires the tiles over the test threshold and declares the sector;
MACHINE_CHECK ends every task of the tile, running or halted; RELCLR clears the selected counters; PEER_LINK_FAILURE ends
each command on its way to that peer with FAULT and PEER_ABORT. That a raise begins a new window, and that the arrays are
corrected before the verification window counts, is the model's reading (log 21), and so is that RELCLR leaves the spares
in use and the retire bit (log 42). -/
def Obligations.ReliabilityEvents : Prop :=
  ∀ (t a b : Nat) (n : Fin 8) (s : State),
  let x := tileOf s t
  let v := voltOf s n.val
  let cfg := Sparse.get (4 : Word) s.regs (0xA80 + 8 * n.val)
  (∃ u, exec (.sramScrub t) s = .next u ∧ (tileOf u t).sramErrs = [] ∧ u.mem = s.mem ∧
    wfld (Sparse.get 0 (tileOf u t).relc 1) 32 32 =
      min (2 ^ 32 - 1) (wfld (Sparse.get 0 x.relc 1) 32 32 + x.sramErrs.foldl (fun m e => m + e.2) 0)) ∧
  (x.suspect ≠ [] → x.matq = [] → x.slots.all (fun j => j.2.owner.isNone) = true →
    exec (.matrixSpareSwitch t) s = .next (setTile t { x with spareUsed := x.spareUsed ++ x.suspect, suspect := [] } s)) ∧
  (wbit cfg 31 = true → v.window = false → sectorOf t = n.val → x.sramErrs = [(a, b)] → wfld cfg 0 8 < Sparse.get 0 v.counts (16 * t + a) + b →
    ∃ u, exec (.sramScrub t) s = .next u ∧ (voltOf u n.val).off = v.off - 2 ∧ (voltOf u n.val).counts = [] ∧
      (voltOf u n.val).floor = v.off - 2 ∧ (voltOf u n.val).start = s.time) ∧
  (let over_ := v.start + 1000 * Config.cyclesPerMicro ≤ s.time
   wbit cfg 31 = true → v.window = false → over_ →
    ((∀ k ∈ v.counts, k.2 ≤ wfld cfg 0 8) → sectorHot s n.val = false → v.off < wfld cfg 8 4 → v.floorUntil ≤ s.time →
      exec (.uvWindow n) s = .next { s with volts := Sparse.set n.val { v with off := v.off + 1, start := s.time, counts := [] } s.volts }) ∧
    ((∃ k ∈ v.counts, wfld cfg 0 8 < k.2) →
      exec (.uvWindow n) s = .next { s with volts := Sparse.set n.val { raiseVolt s.time v with start := s.time, counts := [] } s.volts } ∧
      (raiseVolt s.time v).off = v.off - 2)) ∧
  (v.window = false → v.raising ≤ s.time → v.verAt + 60000000 * Config.cyclesPerMicro ≤ s.time → ∃ u, exec (.verificationWindow n) s = .next u ∧
    (let w := voltOf u n.val
     (wbit cfg 31 = false → w.window = true) ∧ (w.window = false → s.time < w.raising) ∧
     (w.window = true → w.off = 0 ∧ w.counts = [] ∧ w.start = s.time ∧ w.verAt = s.time)) ∧
    (sectorOf t = n.val → (tileOf u t).sramErrs = []) ∧ u.mem = s.mem) ∧
  (let over_ := v.start + 10000 * Config.cyclesPerMicro ≤ s.time
   v.window = true → over_ → (∀ k ∈ v.counts, k.2 ≤ wfld (Sparse.get 16 s.regs 0xAC0) 0 8) → exec (.verificationWindowEnd n) s = .next
    { s with volts := Sparse.set n.val { v with window := false, start := s.time, counts := [] } s.volts }) ∧
  (let over_ := v.start + 10000 * Config.cyclesPerMicro ≤ s.time
   v.window = true → over_ → v.counts = [(16 * t + a % 16, b)] → wfld (Sparse.get 16 s.regs 0xAC0) 0 8 < b →
    ∃ u, exec (.verificationWindowEnd n) s = .next u ∧ (tileOf u t).retire = true ∧
      wbit (Sparse.get 0 u.regs 0xAC8) n.val = true ∧ u.msix = s.msix ++ [17]) ∧
  (∃ u, exec (.machineCheck t) s = .next u ∧ ∀ c, c < 8 → (ctxOf u t c).phase ≠ .running ∧ (ctxOf u t c).phase ≠ .halted) ∧
  (∀ w : Word, s.mgmt.link = true → wbit w 0 = true → exec (.relclr w) s = .next
    (modTile (wfld (Sparse.get 0 s.regs 0xA00) 0 11) (fun y => { y with relc := [] }) s)) ∧
  (∃ u, exec (.peerLinkFailure a) s = .next u ∧ (∀ r ∈ u.agentReqs, r.1 ≠ 4128 + a) ∧
    ∀ r ∈ s.agentReqs, r.1 = 4128 + a → ∃ q ∈ u.replies, q.id = r.2.id ∧ q.code = 5 ∧ q.cause = .peerAbort)

open Sys2Proof Sys2Proof.Machine in
/-- For every state: PENDING_CAUSE_ENTRY takes the oldest cause that can be taken, and the timer when none is; TIMER
makes a due TCMP pending and clears it; QUANTUM_EXPIRY ends the turn of a context whose quantum is over when
another may issue, and gives it a new one otherwise; DROWSY_ENTRY makes an untouched bound register drowsy;
TASK_START starts a qualified task on the lowest free context of its role, at pc 0 with s1 computed from F;
TASK_END frees a context with nothing outstanding, a halted one once nothing uses what it holds, and counts the task;
before that it returns the holdings of a task at its fatal end once its results are in; RESUME_TAKES_EFFECT ends a debug halt;
EVENT_COUNTER_WRAP leaves 0 and sets OVF; HOLD_TIMEOUT and WRITE_BLOCK_TIMEOUT raise their cause with the
address in EVAL after their limit; REPLAY_WAIT_TIMEOUT ends the launch. That EVAL of a HOLD timeout is the whole address,
and that a cause of class X is taken with EXL = 1, is the model's reading (logs 17 and 51); that the cause of a stopped move waits
for a group that has still to take its own answer, and a boundary for the watched ranges of a tile load, is its choice
(logs 38 and 75). -/
def Obligations.ContextEvents : Prop :=
  ∀ (t k : Nat) (c : Fin 8) (i : Fin 4) (s : State),
  let x := tileOf s t
  let y := ctxOf s t c
  let o := coreOf s t k
  let free := y.phase = .running ∧ y.stopped = false ∧ y.debugHalt = false
  (free → answerHeld y = false → y.after = none → s.barArr.any (fun b => b.aw && decide (b.tile = t) && decide (b.ctx = c.val)) = false →
    let due := y.pend.filter (takeable (stoppedGroup s t c.val).isSome y)
    (∀ p, oldestPending due = some p →
      let left := modCtx t c (fun y => { y with pend := y.pend.erase p }) s
      exec (.pendingCauseEntry t c) s = .next
        (enterCause t c { cause := p.cause, eval := p.eval, seq := p.seq, late := true } p.mword left)) ∧
    (oldestPending due = none → y.timerPend = true → exl y = false → ie y = true →
      exec (.pendingCauseEntry t c) s = .next (enterCause t c { cause := .timer } 0 (modCtx t c (fun y => { y with timerPend := false }) s)))) ∧
  (y.tcmp ≠ 0 → y.tcmp.toNat ≤ s.time → y.phase ≠ .free → replaying s t = false →
    exec (.timer t c) s = .next (setCtx t c { y with tcmp := 0, timerPend := true } s)) ∧
  (∀ j, k < 2 → o.mode = false → o.cur = some j → o.curSince + Config.quantum ≤ s.time →
    (othersMayIssue s t k j = true → ∃ u, exec (.quantumExpiry t k) s = .next u ∧ (coreOf u t k).cur = none ∧ (coreOf u t k).lastCur = j) ∧
    (othersMayIssue s t k j = false → exec (.quantumExpiry t k) s = .next (modCore t k (fun x => { x with curSince := s.time }) s))) ∧
  (let g := Sparse.get ({} : TileReg) x.xregs k
   g.bound = true → g.drowsy = false → g.lastUse + Config.drowsyAfter ≤ s.time → exec (.drowsyEntry t k) s = .next
    (modTile t (fun x => { x with xregs := Sparse.set k { g with drowsy := true } x.xregs }) s)) ∧
  (∀ (q : Task) (l : Launch), x.tasks = [q] → x.isShadow = false → x.saved = false → partStopped s x.part = false →
    launchOf s x.launch = some l → l.saved = none → condsHold x q = true → claimOpen x l q = true →
    (if q.role then [4, 5, 6, 7] else [0, 1, 2, 3]).find? (fun d => decide ((ctxOf s t d).phase = .free)) = some c.val →
    ∃ u, exec (.taskStart t) s = .next u ∧ (tileOf u t).tasks = [] ∧ (ctxOf u t c).phase = .running ∧ (ctxOf u t c).pc = 0 ∧
      (ctxOf u t c).flat = q.flat ∧ (ctxOf u t c).launch = l.serial ∧
      scalarIn (ctxOf u t c) 1 = { val := BitVec.ofNat 64 (recField l 72 8 + recField l 80 8 * q.flat), poison := false } ∧
      ∀ r, r ≠ 1 → scalarIn (ctxOf u t c) r = {}) ∧
  (y.phase = .ending → y.closed = false → resultsIn s t c = true → exec (.taskEnd t c) s = .next (fatalClose t c s)) ∧
  ((y.phase = .halted ∧ releaseBusy s t c everything = false ∨ y.phase = .ending ∧ y.closed = true) → ctxQuiet s t c = true → Sparse.get none x.pairs c.val = none → x.isShadow = false →
    ∃ u, exec (.taskEnd t c) s = .next u ∧ (ctxOf u t c).phase = .free ∧
      ∀ l, launchOf s y.launch = some l → ∃ m, launchOf u y.launch = some m ∧ m.left = l.left - 1) ∧
  (y.debugHalt = true → y.resumeReq = true → loadsDone s t c = true → exec (.resumeTakesEffect t c) s = .next
    (setCtx t c { y with debugHalt := false, resumeReq := false, wait := .none_ } s)) ∧
  (k < 2 → countsCycles (Sparse.get 0 o.pmsel i) = true → (Sparse.get 0 o.pmc i).toNat < 2 ^ 48 →
    ∃ u, exec (.eventCounterWrap t k i) s = .next u ∧ Sparse.get 0 (coreOf u t k).pmc i = 0 ∧
      wbit (Sparse.get 0 (coreOf u t k).pmsel i) 17 = true) ∧
  (∀ va, free → x.vault.hold ≠ .active → x.moves = [] → x.matq = [] → y.wait = .hold va → y.waitSince + Config.holdLimit ≤ s.time →
    exec (.holdTimeout t c) s = .next (enterCause t c
      { cause := if x.vault.holdThermal then .thermalHold else .vaultHold, eval := BitVec.ofNat 64 va } 0 s)) ∧
  (∀ va r, free → y.wait = .writeBlock va → resolve s (viewOf s t c) (.core (coreIx c)) va true = .ok r → r.wb = true →
    y.waitSince + Config.writeBlockLimit ≤ s.time →
    exec (.writeBlockTimeout t c) s = .next (enterCause t c { cause := .writeBlockTimeout, eval := BitVec.ofNat 64 va } 0 s)) ∧
  (∀ b, replaying s t = true → x.logWait = some b → b + Config.writeBlockLimit ≤ s.time → ∃ u, exec (.replayWaitTimeout t) s = .next u ∧
    wbit (Sparse.get 0 u.regs (0xD80 + 8 * x.part)) 1 = true ∧
    ∀ d, d < 8 → (ctxOf u t d).phase = .running → (ctxOf u t d).launch ≠ x.launch)

open Sys2Proof Sys2Proof.Machine in
/-- For a context of a pair that the machine has not ended: while a failed interval has not begun again, or its interval is not
over, or a result of it has still to land, PAIR_INTERVAL_END changes nothing. Otherwise, when neither run met an error and the
fingerprints are equal, it gives a next state in which the shadow's context equals the primary's but for what the primary
alone has still to send and to wait for; where the task goes on a new checkpoint, of the context as it is and with no writes to
undo, is set, where a pre-emption has stopped it or it has halted none is left, and a fatal cause that waited for the agreement
ends the task. When the exchange disagrees for the first time, the context is that of the checkpoint but for what the
debugger holds of it, every local write of the interval is undone in reverse order, and the interval is marked as
failed; when it disagrees again, both copies end with PAIR_DIVERGENCE. That the exchange waits until the interval's own
results have landed, and what ends an interval beside the bounds and causes that R388 lists, is the model's reading (log 20). -/
def Obligations.PairIntervals : Prop :=
  ∀ (t u : Nat) (c : Fin 8) (k : PairCk) (s : State), (tileOf s t).pairOf = some u → u ≠ t →
  Sparse.get none (tileOf s t).pairs c.val = some k → (ctxOf s t c).phase ≠ .ending →
  let y := ctxOf s t c
  (notBegun (tileOf s t) c = true ∨ intervalOver s t c = false ∨ intervalLanded s t c = false →
    ∀ b, exec (.pairIntervalEnd t c b) s = .next s) ∧
  (notBegun (tileOf s t) c = false → intervalOver s t c = true → intervalLanded s t c = true →
  (k.crc.1 = k.crc.2 → ∃ v, exec (.pairIntervalEnd t c true) s = .next v ∧
    (y.endPend = none → ctxOf v u c = { y with accs := [], wl := none, wait := .none_, stopOrder := none } ∧ ctxOf v t c = y) ∧
    (y.phase ≠ .halted → y.stopped = false → y.endPend = none → ∃ ck, Sparse.get none (tileOf v t).pairs c.val = some ck ∧
      ck.ctx = y ∧ ck.undo = [] ∧ ck.failed = false) ∧
    (y.phase = .halted ∨ y.stopped = true ∨ y.endPend ≠ none → Sparse.get none (tileOf v t).pairs c.val = none) ∧
    (∀ e, y.endPend = some e → (ctxOf v t c).phase = .ending ∧ (ctxOf v t c).endCause = e.1)) ∧
  (∀ b : Bool, (b = false ∨ k.crc.1 ≠ k.crc.2) → k.failed = false → ∃ v ck, exec (.pairIntervalEnd t c b) s = .next v ∧
    ctxOf v t c = { k.ctx with stopped := y.stopped, debugHalt := y.debugHalt, haltReason := y.haltReason, resumeReq := y.resumeReq,
                               stepReq := y.stepReq, dbg := y.dbg, endPend := none } ∧
    (∀ b, (∀ w ∈ k.undo, w.1 ≠ b) → v.mem.read b = s.mem.read b) ∧
    (∀ a b p, k.undo = [(a, b, p)] → v.mem.read a = b ∧ segPoison v a = p) ∧
    Sparse.get none (tileOf v t).pairs c.val = some ck ∧ ck.undo = [] ∧ ck.failed = true) ∧
  (∀ b : Bool, (b = false ∨ k.crc.1 ≠ k.crc.2) → k.failed = true → ∃ v, exec (.pairIntervalEnd t c b) s = .next v ∧ (ctxOf v t c).phase = .ending ∧
    (ctxOf v t c).endCause = .pairDivergence ∧ (ctxOf v u c).phase = .ending ∧ (ctxOf v u c).endCause = .pairDivergence))

open Sys2Proof Sys2Proof.Machine in
/-- For every copy that no pair holds: COPY_ACCESS of one read element within the scratchpads, in a turn that asks for no
earlier place in home order, puts the bytes of its source at its destination and changes no other byte of memory, and the element has landed; COPY_COMPLETE, once
every element has landed, removes the copy and ends its future COMPLETE with the bytes landed; one that is
cancelled ends CANCELLED, and one that met a fault ends FAULT with the cause and the address, once no vault's agent has an access
of it. CANCEL_ARRIVAL before the first byte, in its place among the messages of its tile, cancels it. SCHEDULE_ENTRY_RELEASE makes the first reserved entry a copy with an S-core
number. -/
def Obligations.CopyEvents : Prop :=
  ∀ (t k c h i : Nat) (q : Copy) (s : State),
  let x := tileOf s t
  let n := 2 ^ q.desc.esz
  let ended := fun (P : Fut → Prop) => futHolder (tileOf s q.view.tile) k = some (c, h) → ∃ u, exec (.copyComplete t k) s = .next u ∧
    (tileOf u t).copies = x.copies.filter (fun r => decide (r.id ≠ k)) ∧ (Sparse.get ({} : Fut) (ctxOf u q.view.tile c).futs h).st = .terminal ∧
    P (Sparse.get {} (ctxOf u q.view.tile c).futs h)
  (x.copies.find? (fun r => decide (r.id = k)) = some q → heldByPair s t q.ctx k = false →
    (∀ r d : Resolved, q.cause = .none_ → q.cancelled = false → q.pri = none → q.desc.asv = false → i < boxCount q.desc →
      hasLanded q i = false → q.flying = [] → q.got = [] → s.asOf = none → (element q.desc i).2.2 = true →
      endCheck s q.view .tile (element q.desc i).1 n false = .ok r → endCheck s q.view .tile (element q.desc i).2.1 n true = .ok d →
      r.tgt = .scratch → d.tgt = .scratch → paRegion r.pa = 1 → paRegion d.pa = 1 → r.ace = none → d.ace = none →
      (∀ l, launchOf s q.view.launch = some l → l.saved = none) → (tileOf s (paTile d.pa)).pairOf = none →
      ∃ u, exec (.copyAccess t k [i]) s = .next u ∧ u.mem.readN d.pa n = s.mem.readN r.pa n ∧
        (∀ b, b < d.pa ∨ d.pa + n ≤ b → u.mem.read b = s.mem.read b) ∧
        ∃ q', (tileOf u t).copies.find? (fun r => decide (r.id = k)) = some q' ∧ hasLanded q' i = true) ∧
    (q.cause = .none_ → q.cancelled = false → boxCount q.desc ≤ q.next → ended fun f => f.code = 1 ∧ f.count = landedBytes q) ∧
    (q.cancelled = true → ended fun f => f.code = 6) ∧
    (q.cancelled = false → q.cause ≠ .none_ → q.sched = false → copyFlies s k = false → ended fun f => f.code = 5 ∧ f.cause = q.cause.code ∧ f.aux = q.aux) ∧
    (s.cancels.find? (fun r => decide (r.1 = i)) = some (i, t, k) → s.agentReqs.any (fun r => decide (r.2.id = k)) = false →
      cancelHeld s t i k = false → sentBefore s t (cancelTile s t k) i = false →
      q.next = 0 → q.done = [] → q.cause = .none_ → boxCount q.desc ≠ 0 →
      exec (.cancelArrival i) s = .next (modCopy t k (fun q => { q with cancelled := true })
        { s with cancels := s.cancels.filter fun r => decide (r.1 ≠ i) }))) ∧
  (∀ (r : Reserve) (rest : List Reserve), x.reserves = r :: rest → (ctxOf s t r.ctx).cpysLeft ≠ 0 → (ctxOf s t r.ctx).cpysNext = r.next → (ctxOf s t r.ctx).stopped = false →
    x.copies.length < 1024 → ∃ u e, exec (.scheduleEntryRelease t) s = .next u ∧ (tileOf u t).copies = x.copies ++ [e] ∧
      e.sched = true ∧ e.nf = true ∧ e.seq = (coreOf s t 0).seqno ∧ (coreOf u t 0).seqno = (coreOf s t 0).seqno + 1 ∧
      (ctxOf u t r.ctx).cpysLeft = r.left - 1 ∧ ((ctxOf u t r.ctx).cpysDone = true ↔ r.left = 1))

open Sys2Proof Sys2Proof.Machine in
/-- For the head request of an agent that neither records nor replays, on a tile without monitor or pair, which no walk
and no waiting access of the owner goes before, whose target is one unpoisoned piece of the vault without errors: AGENT_SERVE of RPC.READ changes no byte and replies
with the bytes; RPC.WRITE writes the data; RPC.SWAP64 writes the new value and replies with the old one;
RPC.CAS64 writes only when the old value equals the expected one, and replies with the old one; every other byte
of memory is unchanged and the request leaves the queue. A request stalled in HOLD for 2 microseconds ends with
RPC_REMOTE. REPLY_ARRIVAL of a fault, or of a reply with no area, behind the earlier ones of its agent's tile, ends the future of the command with its state,
cause, count and aux. -/
def Obligations.AgentEvents : Prop :=
  ∀ (u p pa k c h : Nat) (q : AReq) (rest : List AReq) (r : Reply) (s : State),
  let b := q.block.toNat
  let len := blk b 24 4
  let n := ((rpcShape p len (blk b 28 1) (blk b 8 8)).getD (0, 0)).2
  let old := s.mem.readN pa n
  let data := blk b 32 32
  ((tileOf s u).agentq = q :: rest → q.kind = .rpc p → q.answer = none → q.box = none → behindWalk (tileOf s u) q = false → ownerFirst s u q = false → (∀ l, launchOf s (tileOf s u).launch = some l → l.recording = none) →
    wbit (Sparse.get 0 (tileOf s u).mon 0) 63 = false → blk b 28 1 / 2 % 2 = 0 → p < 8 →
    vaultPieces s q.view u (rpcWrites p) (piecesOf (blk b 8 8) n) = .ok [(pa, 0, n)] → paRegion pa = 0 → paTile pa = u →
    errAt s pa = none → segPoison s pa = false → (tileOf s u).pairOf = none →
    ∃ v a, exec (.agentServe u) s = .next v ∧ v.replies = s.replies ++ [a] ∧ a.id = q.id ∧ a.code = 1 ∧
      (tileOf v u).agentq = (q :: rest).filter (fun r => decide (r.id ≠ q.id)) ∧
      (∀ x, x < pa ∨ pa + n ≤ x → v.mem.read x = s.mem.read x) ∧
      (p = 0 → v.mem.readN pa n = old ∧ (s.asOf = none → a.bytes = natBytes old n)) ∧
      (p = 1 → v.mem.readN pa n = data % 2 ^ (8 * n) ∧ a.bytes = []) ∧
      (p = 6 → n = 8 → v.mem.readN pa n = (if old = nth 64 data 0 then nth 64 data 1 else old) ∧ a.bytes = natBytes old 8) ∧
      (p = 7 → n = 8 → v.mem.readN pa n = nth 64 data 0 ∧ a.bytes = natBytes old 8)) ∧
  ((tileOf s u).agentq.find? (fun q => q.heldSince.isSome) = some q → (q.kind = .rpc p ∨ q.kind = .trav ∨ q.kind = .travRes ∨ q.kind = .attn) →
    (q.heldSince.getD 0) + Config.holdLimit ≤ s.time →
    (tileOf s u).vault.hold ≠ .active → ∃ v, exec (.agentHoldTimeout u) s = .next v ∧
      v.replies = s.replies ++ [{ faultReply q .rpcRemote (BitVec.ofNat 64 (blk b 8 8)) with src := u, sent := s.nextId }] ∧
      (tileOf v u).agentq = (tileOf s u).agentq.filter (fun r => decide (r.id ≠ q.id))) ∧
  (s.replies.find? (fun r => decide (r.id = k)) = some r → repliedBefore s r.src r.tile r.sent = false → (r.code = 5 ∨ r.rply = 0 ∨ r.bytes = []) →
    futHolder (tileOf s r.view.tile) r.cmd = some (c, h) → ∃ v, exec (.replyArrival k) s = .next v ∧
      v.replies = s.replies.filter (fun r => decide (r.id ≠ k)) ∧
      (let f := Sparse.get ({} : Fut) (ctxOf v r.view.tile c).futs h
       f.st = .terminal ∧ f.code = r.code ∧ f.cause = r.cause.code ∧ f.count = r.count ∧ f.aux = r.aux))

open Sys2Proof Sys2Proof.Machine in
/-- For every walk of an agent that waits behind no request or walk held at a row under repair: RAMBLER_STEP at a malformed rule ends it with FAULT and TRAVERSAL; at the null
pointer without a kept record with NOT_FOUND; at its step limit with status 3; and at a kept record whose rule
holds and whose action returns it, COMPLETE with the record; in each case the walk is gone and the reply is
sent. CONTINUATION_ARRIVAL, behind the continuations sent there before it, takes the walk up with a slot, its block and
its rules read afresh from the requester's scratchpad; at an agent with its 32 slots full it answers PARTIAL with the
64-byte token.
GATHER_POOL of a lookup whose rows are all found replies with the pooled row, and ATTENTION_DECODE over no
positions replies with zeros. That the 32 slots hold continuations alone is the model's reading (log 50), and so is what
stands in the reply block of a lookup and a walk beside the result (log 14). -/
def Obligations.WalkEvents : Prop :=
  ∀ (u k dest : Nat) (w : Walk) (q : AReq) (s s' : State),
  let b := w.req.block.toNat
  let r := w.rules.getD w.rule 0
  let size := walkSize b
  let ends := fun a : Reply => exec (.ramblerStep u k) s = .next (modTile u (fun x =>
    { x with walks := x.walks.filter fun y => decide (y.req.id ≠ w.req.id) }) { s with nextId := s.nextId + 1, replies := s.replies ++ [{ a with src := u, sent := s.nextId }] })
  ((tileOf s u).walks[k]? = some w → behindHeld (tileOf s u) w = false →
    (ruleBad r size (walkKl b) = true → ends (walkReply w 5 .traversal w.p)) ∧
    (ruleBad r size (walkKl b) = false → wfld r 60 4 ≠ 6 → w.kept = none → w.p = 0 → ends (walkReply w 2 .none_ 0)) ∧
    (ruleBad r size (walkKl b) = false → wfld r 60 4 ≠ 6 → w.kept = none → w.p ≠ 0 → blk b 32 2 ≤ w.steps →
      ends (walkReply w 3 .none_ w.p)) ∧
    (∀ l, ruleBad r size (walkKl b) = false → wfld r 60 4 ≠ 6 → w.kept = some l → ruleTrue w r b = true →
      wfld r 32 16 / 2 ^ 13 = 3 → wfld r 32 2 = 0 → ∃ a, ends a ∧ a.code = 1 ∧ a.bytes = l ∧ a.count = w.steps ∧ a.rply = blk b 56 8)) ∧
  (s.conts.find? (fun c => decide (c.1 = k)) = some (k, dest, w) → contBefore k dest w.src s.conts = false →
    let s1 : State := { s with conts := s.conts.filter fun c => decide (c.1 ≠ k) }
    let slots := ((tileOf s dest).walks.filter fun w => w.slot).length
    (32 ≤ slots → ∃ a : Reply, exec (.continuationArrival k) s = .next { s1 with nextId := s.nextId + 1, replies := s.replies ++ [{ a with src := dest, sent := s.nextId }] } ∧
      a.code = 4 ∧ a.bytes = natBytes (contBlock w) 64 ∧ a.rply = blk b 56 8 ∧ a.count = w.steps) ∧
    (∀ l lr, slots < 32 → ownPieces s1 w.req.view (.agent dest) false (piecesOf w.req.blockVa 64) = .ok l →
      let block := readPieces s1 (agentKnows w.req.view dest) l
      ownPieces s1 w.req.view (.agent dest) false (piecesOf (blk block.1 0 8) 128) = .ok lr →
      let rules := readPieces s1 (agentKnows w.req.view dest) lr
      block.2 = false → rules.2 = false → exec (.continuationArrival k) s = .next (modTile dest (fun x =>
        { x with walks := x.walks ++ [{ w with slot := true, stall := none, kept := none, held := false, bank := none,
                                               req := { w.req with arrive := s.time, block := BitVec.ofNat 512 block.1 },
                                               rules := (List.range 16).map fun i => BitVec.ofNat 64 (nth 64 rules.1 i) }] }) s1))) ∧
  (let d := q.block.toNat
   nextRequest u s = (s', some q) → replaying s' u = false →
   (∀ li lw pooled, q.kind = .gpool → ownPieces s' q.view (.agent u) false (piecesOf (blk d 0 8) (4 * blk d 24 4)) = .ok li →
     blk d 8 8 ≠ 0 → ownPieces s' q.view (.agent u) false (piecesOf (blk d 8 8) (4 * blk d 24 4)) = .ok lw →
     poolAll s' q u (word32 s' li (readPieces s' (agentKnows q.view u) li).1) (word32 s' lw (readPieces s' (agentKnows q.view u) lw).1) (List.range (blk d 24 4))
       { acc := List.replicate (blk d 32 2) (if blk d 34 1 / 16 % 4 = 2 then 0xFF800000 else 0) } = .ok pooled →
     ∃ v a, exec (.gatherPool u) s = .next v ∧ v.replies = s'.replies ++ [a] ∧ a.code = 1 ∧ a.count = pooled.n ∧
       a.bytes = f32Bytes (poolEnd (blk d 34 1 / 16 % 4) pooled).1 ∧ a.rply = blk d 40 8) ∧
   (∀ lq, q.kind = .attn → min (blk d 40 4) (blk d 44 4) = 0 →
     ownPieces s' q.view (.agent u) false (piecesOf (blk d 0 8) (2 * (blk d 35 1 % 16 + 1) * blk d 32 2)) = .ok lq →
     ∃ v a, exec (.attentionDecode u) s = .next v ∧ v.replies = s'.replies ++ [a] ∧ a.code = 1 ∧ a.count = 0 ∧
       a.bytes = List.replicate (4 * ((blk d 35 1 % 16 + 1) * blk d 32 2)) 0 ∧ a.rply = blk d 56 8))

open Sys2Proof Sys2Proof.Machine in
/-- For every queue whose head entry is ready, unskipped, well formed and free of its dependence set: FENCE, SIGNAL,
WAITVAL (once its timeline is reached), COND (of a readable word) and PUBLISH complete OK in the step that
dispatches them, with QHEAD and QDONE advanced by one, the completion word in the ring and the interrupt if
asked for; SIGNAL raises its timeline to at least v, PUBLISH writes its value, COND completes with the truth of
its predicate and skips SKIP entries when it does not hold, and a WAITVAL that is not reached stays. COPY is
dispatched and stays in flight; its last unit, when nothing hinders it, in a turn that asks for no earlier place in home
order, lands and completes it (that it moves one unit in each step is the model's reading, log 34, as is that the head entry is
read once, when it is accepted, log 36). A malformed
entry completes INVALID and a skipped one SKIPPED. A doorbell sets QTAIL unless the link is down or a reset of the queue runs; a
head that has waited 10 ms is raised by one priority. -/
def Obligations.QueueCommands : Prop :=
  ∀ (q : Fin 16) (v : Word) (k e : Nat) (c : Cmd) (i : Instr) (s : State),
  let z := acceptHead q.val s
  let x := queueOf z q.val
  let slot := slotPa x x.head + 56
  let a := blk e 8 8
  let b := blk e 16 8
  let pa := operandPa a
  let completes := fun (i : Instr) (word : Nat) (P : State → Prop) => ∃ u, exec i s = .next u ∧
    (queueOf u q.val).head = (x.head + 1) % 2 ^ 32 ∧ (queueOf u q.val).doneN = (x.doneN + 1) % 2 ^ 32 ∧
    (queueOf u q.val).entry = none ∧ u.mem.readN slot 8 = word ∧
    u.msix = s.msix ++ (if blk e 1 1 / 2 % 2 = 1 then [q.val] else []) ∧ P u
  (headReady s q.val = true → headEntry z q.val = some e →
    ((blk e 0 1, i) ∈ [(1, Instr.launch q), (2, .copy q), (3, .fenceCommand q), (4, .signal q), (5, .waitval q), (6, .cond q), (7, .publishCommand q)] →
      (0 < x.skip → completes i 6 fun u => (queueOf u q.val).skip = x.skip - 1) ∧
      (x.skip = 0 → depsDone x e = true → entryBad e = true → completes i (3 + 2 ^ 8 * Cause.fieldReserved.code) fun _ => True)) ∧
    (x.skip = 0 → depsDone x e = true → entryBad e = false →
      (blk e 0 1 = 3 → completes (.fenceCommand q) 1 fun _ => True) ∧
      (blk e 0 1 = 4 → completes (.signal q) 1 fun u => ∀ j, Sparse.get 0 u.tln j =
        if j = a then BitVec.ofNat 64 (max (Sparse.get 0 s.tln j).toNat b) else Sparse.get 0 s.tln j) ∧
      (blk e 0 1 = 5 → b ≤ (Sparse.get 0 s.tln a).toNat → completes (.waitval q) 1 fun u => u.tln = s.tln) ∧
      (blk e 0 1 = 5 → (Sparse.get 0 s.tln a).toNat < b → exec (.waitval q) s = .next z) ∧
      (blk e 0 1 = 6 → s.asOf = none → x.priFail = false → commandEnd z pa 4 false = none → errAt z pa = none →
        let p := readMem z pa 4
        let holds := (blk e 24 1 = 0 ∧ p = blk e 16 4) ∨ (blk e 24 1 = 1 ∧ p ≠ blk e 16 4) ∨ (blk e 24 1 = 2 ∧ blk e 16 4 ≤ p)
        (holds → completes (.cond q) (1 + 2 ^ 32) fun u => (queueOf u q.val).skip = 0) ∧
        (¬holds → completes (.cond q) 1 fun u => (queueOf u q.val).skip = blk e 25 1)) ∧
      (blk e 0 1 = 7 → completes (.publishCommand q) 1 fun u => hostPa a ≠ slot → u.mem.readN (hostPa a) 8 = b) ∧
      (blk e 0 1 = 2 → ∃ u d, exec (.copy q) s = .next u ∧ (queueOf u q.val).flight = x.flight ++ [d] ∧ d.idx = x.head ∧
        d.kind = 2 ∧ d.entry = BitVec.ofNat 512 e ∧ d.done = 0 ∧ (queueOf u q.val).head = (x.head + 1) % 2 ^ 32 ∧
        (queueOf u q.val).doneN = x.doneN))) ∧
  (let y := queueOf s q.val
   let f := c.entry.toNat
   let src := operandPa (blk f 8 8) + c.done
   let dst := operandPa (blk f 16 8) + c.done
   let n := blk f 24 8 - c.done
   y.flight.find? (fun d => decide (d.kind = 2) && decide (d.idx = k)) = some c → c.priFail = false → c.ahead = [] → y.resetTo = none →
   s.mgmt.link = true → s.asOf = none → 0 < n → n ≤ 8 - src % 8 → n ≤ 8 - dst % 8 → commandEnd s src n false = none → commandEnd s dst n true = none →
   errAt s src = none → errAt s dst = none → ¬(paRegion dst = 16 ∧ segPoison s src = true) →
   (paRegion dst ≤ 1 → (tileOf s (paTile dst)).pairOf = none) → dst / 8 * 8 ≠ slotPa y k + 56 →
   (paRegion dst = 0 → paTile dst = 0 → paOff dst < Config.firmwareReserve) →
   ∃ u, exec (.copyCommandComplete q k) s = .next u ∧ u.mem.readN dst n = s.mem.readN src n ∧
    u.mem.readN (slotPa y k + 56) 8 = 1 ∧ (queueOf u q.val).doneN = (y.doneN + 1) % 2 ^ 32 ∧
    (queueOf u q.val).flight = y.flight.filter fun d => decide (d.idx ≠ k)) ∧
  (∀ r, (queueOf s q.val).resetTo = some r → exec (.qtail q v) s = .next s) ∧
  (s.mgmt.link = false → exec (.qtail q v) s = .next s) ∧
  ((queueOf s q.val).resetTo = none → s.mgmt.link = true → ∃ u, exec (.qtail q v) s = .next u ∧ (queueOf u q.val).tail = v.toNat % 2 ^ 32 ∧
    (queueOf u q.val).head = (queueOf s q.val).head ∧ (queueOf u q.val).doneN = (queueOf s q.val).doneN ∧ u.mem = s.mem ∧
    ∀ j, j ≠ q.val → queueOf u j = queueOf s j) ∧
  (∀ t, (queueOf s q.val).since = some t → t + 10000 * Config.cyclesPerMicro ≤ s.time →
    exec (.priorityAging q) s = .next (modQueue q.val (fun y => { y with raised := 1 }) s))

open Sys2Proof Sys2Proof.Machine in
/-- For every queue and partition: LAUNCH at the head of the chosen queue of a partition that is free, or whose running
launch it would pre-empt, completes INVALID or refused when a check of its record fails, with no launch changed;
otherwise on a free partition it starts with the next serial number, its tasks on their tiles and a live
partition; LAUNCH_COMPLETE, once every task has ended, writes the publication and the completion word with the
items left and frees the partition, and does nothing for a launch whose watchdog has expired; PREEMPTION by a
launch of higher priority whose record stands reserves the slot of the running launch and asks every tile of the
partition to stop, and does nothing when its record is refused; CONTEXTS_HALTED stops every context
that has a task, with its sequencing state and scalars as they are; TILE_IMAGE_SAVE of a drained tile frees its
contexts; LAUNCH_RESTORE makes the partition live with the saved launch, or completes it FAULT with ACC_IMAGE. That a LAUNCH
which is not placed yet is the head entry as it was accepted is the model's reading (log 36), and so is what the images
of a slot must hold to be restored (log 38). -/
def Obligations.LaunchEvents : Prop :=
  ∀ (q : Fin 16) (p : Fin 8) (t e : Nat) (l : Launch) (s : State),
  let z := acceptHead q.val s
  let x := queueOf z q.val
  let w := checkRange (operandPa (blk e 8 8)) 256 z
  let rec_ := launchRecord w e
  let v := checkArrays rec_ p.val w
  let prio := launchPrio z q.val e
  let slot := slotPa (queueOf s l.queue) l.qidx + 56
  (headReady s q.val = true → headEntry z q.val = some e → blk e 0 1 = 1 → x.skip = 0 → depsDone x e = true →
    entryBad e = false → queuePart x = p.val → chosenQueue z p.val = some q.val →
    partitionFree z p.val prio = true ∨ (victim z p.val q.val).isSome = true →
    (∀ st c, checkRecord v rec_ p.val = .error (st, c) → ∃ u, exec (.launch q) s = .next u ∧
      u.mem.readN (slotPa x x.head + 56) 8 = (st + c.code * 2 ^ 8) % 2 ^ 64 ∧
      (queueOf u q.val).doneN = (x.doneN + 1) % 2 ^ 32 ∧ u.launches = s.launches) ∧
    (∀ plan, checkRecord v rec_ p.val = .ok plan → partitionFree z p.val prio = false → exec (.launch q) s = .next v) ∧
    (∀ plan, checkRecord v rec_ p.val = .ok plan → partitionFree z p.val prio = true → ∃ u m, exec (.launch q) s = .next u ∧ u.launches = s.launches ++ [m] ∧
      m.serial = s.nextSerial ∧ m.queue = q.val ∧ m.part = p.val ∧ m.prio = prio ∧ m.record = natBytes rec_ 256 ∧
      m.left = plan.tasks.length ∧ m.saved = none ∧ m.expired = false ∧ u.nextSerial = (s.nextSerial + 1) % 2 ^ 32 ∧
      (partOf u p.val).live = true ∧
      (blk rec_ 3 1 / 2 % 2 = 0 → (plan.tiles.map fun y => y.tile).Nodup → ∀ y ∈ plan.tiles,
        (tileOf u y.tile).tasks = y.tasks ∧ (tileOf u y.tile).launch = s.nextSerial ∧ (tileOf u y.tile).part = p.val ∧
        (tileOf u y.tile).arr = y.presets ∧ (tileOf u y.tile).sched = y.sched ∧ (tileOf u y.tile).alloy = plan.alloy))) ∧
  (runningLaunch s p.val = some l →
    (l.expired = true → exec (.launchComplete p) s = .next s) ∧
    (l.left = 0 → l.expired = false → (partOf s p.val).halt = false → (partOf s p.val).reset = [] → (queueOf s l.queue).resetTo = none →
      s.mgmt.link = true → ∃ u, exec (.launchComplete p) s = .next u ∧ u.launches = s.launches.filter (fun m => decide (m.serial ≠ l.serial)) ∧
        (partOf u p.val).live = false ∧ (queueOf u l.queue).doneN = ((queueOf s l.queue).doneN + 1) % 2 ^ 32 ∧
        u.mem.readN slot 8 = (match l.cause with | none => 1 | some c => 4 + 2 ^ 8 * c.code) + 2 ^ 32 * (itemsLeft l % 2 ^ 32) ∧
        (let cpa := hostPa (recField l 96 8)
         recField l 96 8 ≠ 0 → (cpa + 8 ≤ slot ∨ slot + 8 ≤ cpa) → u.mem.readN cpa 8 = l.serial % 2 ^ 32)) ∧
    (∀ q' j, chosenQueue s p.val = some q' → lowerSlot s l = some j → (partOf s p.val).run = true → partStopped s p.val = false →
      l.expired = false → l.prio < launchPrio s q' ((headEntry s q').getD 0) →
      (∀ r, checkRecord s (launchRecord s ((headEntry s q').getD 0)) p.val = .error r → exec (.preemption p) s = .next s) ∧
      ∀ plan, checkRecord s (launchRecord s ((headEntry s q').getD 0)) p.val = .ok plan → ∃ u, exec (.preemption p) s = .next u ∧ (partOf u p.val).preempt = true ∧ { l with saved := some j } ∈ u.launches ∧
        ∀ d ∈ partTiles s p.val, (tileOf u d).launch = l.serial ∧ (tileOf u d).saved = false)) ∧
  (partStopped s p.val = true → (∀ d ∈ partTiles s p.val, ∀ c, c < 8 → mustAnswer s d c = false) →
    ∃ u, exec (.contextsHalted p) s = .next u ∧ ∀ d ∈ partTiles s p.val, ∀ c, c < 8 → (ctxOf s d c).phase ≠ .free →
      (ctxOf u d c).stopped = true ∧ (ctxOf u d c).pc = (ctxOf s d c).pc ∧ (ctxOf u d c).npc = (ctxOf s d c).npc ∧
      (ctxOf u d c).nnpc = (ctxOf s d c).nnpc ∧ (ctxOf u d c).sregs = (ctxOf s d c).sregs ∧ (ctxOf u d c).status = (ctxOf s d c).status) ∧
  (∀ j, launchOf s (tileOf s t).launch = some l → l.saved = some j → (partOf s l.part).preempt = true →
    partOfTile s t = some l.part → (tileOf s t).saved = false → tileDrained s t = true →
    ∃ u, exec (.tileImageSave t) s = .next u ∧ (∀ c, (ctxOf u t c).phase = .free) ∧ (tileOf u t).xregs = [] ∧ (tileOf u t).slots = [] ∧
      ((tileOf u t).saved = true ∨ (partOf u l.part).preempt = false ∧ (partOf u l.part).live = false)) ∧
  (∀ j, savedLaunch s p.val = some l → l.saved = some j → (partOf s p.val).run = true → partStopped s p.val = false →
    (partOf s p.val).live = false → latePending s l j = false →
    (∀ q', chosenQueue s p.val = some q' → launchPrio s q' ((headEntry s q').getD 0) ≤ l.prio) →
    (imagesOk s l j = true → ∃ u, exec (.launchRestore p) s = .next u ∧ (partOf u p.val).live = true ∧
      (partOf u p.val).queue = l.queue ∧ (partOf u p.val).qidx = l.qidx ∧ ∃ m ∈ u.launches, m.serial = l.serial ∧ m.saved = none) ∧
    (imagesOk s l j = false → (queueOf s l.queue).resetTo = none → s.mgmt.link = true → ∃ u, exec (.launchRestore p) s = .next u ∧
      u.launches = s.launches.filter (fun m => decide (m.serial ≠ l.serial)) ∧
      u.mem.readN slot 8 = 4 + 2 ^ 8 * Cause.accImage.code + 2 ^ 32 * (itemsLeft l % 2 ^ 32)))

open Sys2Proof Sys2Proof.Machine in
/-- For every state: while the firmware core runs, a queue reset of either master disables its queue, asks for a
reset of the partition of each of its launches, and completes at once with QHEAD = QDONE = QTAIL when nothing is
in flight, or joins the reset in progress; a partition reset is noted under its journal number; CLEAR_COMPLETE
of a halted, quiet partition drops its launches, or where the firmware core drives it keeps them with their lists empty and
their items counted, frees its contexts, zeroes its scratchpads and leaves its vaults and SEQNO; a device reset takes the
machine to boot stage 2 with no launch, no queue and no context, scratchpads of zero, and the vaults below the
reserve, the host's memory and the journal's numbering as they were; a power-on begins at stage 1. Each stage of
a boot under way goes on to the next, or stops the boot with FAIL: stage 3 when no slot verifies, stage 4 when
two tiles of a row are listed, and otherwise the new remap table holds and the vaults of the tiles that it leaves in place
read as before; a cold boot begins the journal again at 1; after stage 7 the firmware runs and
the link is up. While the firmware core does not run, the six commands change nothing, but for a side-port
request during a device reset, which joins it. That requests before READY change nothing, that a side-port
reset joins a device reset under way, and who drives a partition reset, is the model's reading (log 39). -/
def Obligations.ResetEvents : Prop :=
  ∀ (q : Fin 16) (p : Fin 8) (s : State),
  let k := queueOf s q.val
  let x := partOf s p.val
  let body := fun a : Nat => decide (paRegion a = 0) && decide (paOff a < Config.firmwareReserve)
  let side := [Instr.queueReset q, .partitionReset p, .deviceReset]
  (s.mgmt.ready = false → ∀ i ∈ [Instr.fwcmdQueueReset q, .fwcmdPartitionReset p, .fwcmdDeviceReset], exec i s = .next s) ∧
  (s.mgmt.ready = false → resetting s = false → s.toAccept = [] → ∀ i ∈ side, exec i s = .next s) ∧
  (∀ c l, s.mgmt.booting = some (c, l) → resetting s = true → s.toAccept = [] → ∀ i ∈ side, ∃ u, exec i s = .next u ∧
    u.jnext = s.jnext + 1 ∧ u.queues = s.queues ∧ u.parts = s.parts ∧ u.launches = s.launches ∧
    u.mgmt.booting = some (c, l ++ [s.jnext])) ∧
  (s.mgmt.ready = true → resetting s = false → s.toAccept = [] → ∀ i ∈ [Instr.queueReset q, .fwcmdQueueReset q],
    (∀ r, k.resetTo = some r → ∃ u, exec i s = .next u ∧ queueOf u q.val = { k with resetJournal := k.resetJournal ++ [s.jnext] } ∧
      u.jnext = s.jnext + 1) ∧
    (k.resetTo = none → coveredBy s q.val = none → ∃ u, exec i s = .next u ∧ u.jnext = s.jnext + 1 ∧
      wbit (queueOf u q.val).cfg 31 = false ∧ (queueOf u q.val).tail = k.tail ∧
      (k.flight ≠ [] → (queueOf u q.val).resetTo = some k.tail ∧ (queueOf u q.val).flight = k.flight) ∧
      (k.flight = [] → (queueOf u q.val).resetTo = none ∧ (queueOf u q.val).head = k.tail ∧ (queueOf u q.val).doneN = k.tail) ∧
      ∀ l ∈ s.launches, l.queue = q.val → (partOf u l.part).reset ≠ []) ∧
    (∀ j, k.resetTo = none → coveredBy s q.val = some j → ∃ u, exec i s = .next u ∧ u.jnext = s.jnext + 1 ∧ u.queues = s.queues ∧
      (partOf u j).reset = (partOf s j).reset ++ [s.jnext])) ∧
  (s.mgmt.ready = true → resetting s = false → s.toAccept = [] → ∀ i ∈ [Instr.partitionReset p, .fwcmdPartitionReset p],
    ∃ u, exec i s = .next u ∧ partOf u p.val = { x with reset := x.reset ++ [s.jnext] } ∧ u.jnext = s.jnext + 1 ∧
    u.queues = s.queues ∧ u.launches = s.launches ∧ ∀ j, j ≠ p.val → partOf u j = partOf s j) ∧
  ((x.clearing = true ∨ x.reset ≠ [] ∧ x.halt = false) → isHalted s p.val = true → isQuiet s p.val = true →
    ∃ u, exec (.clearComplete p) s = .next u ∧ (partOf u p.val).reset = [] ∧
      (partOf u p.val).clearing = false ∧ (partOf u p.val).cleared = true ∧
      (x.halt = false → x.clearing = false → (∀ l ∈ u.launches, l.part ≠ p.val) ∧ (partOf u p.val).live = false ∧ (partOf u p.val).run = true) ∧
      (x.halt = true ∨ x.clearing = true → (partOf u p.val).live = x.live ∧ (∀ l ∈ u.launches, l.part = p.val → l.lists = []) ∧
        ∀ l ∈ s.launches, l.part = p.val → ∃ m ∈ u.launches, m.serial = l.serial ∧ itemsLeft m = itemsLeft l) ∧
      (∀ a, body a = true → u.mem.read a = s.mem.read a) ∧
      ∀ d ∈ partTiles s p.val, (∀ c, (ctxOf u d c).phase = .free) ∧ (tileOf u d).xregs = [] ∧ (tileOf u d).slots = [] ∧
        (tileOf u d).tasks = [] ∧ (∀ j, (coreOf u d j).seqno = (coreOf s d j).seqno) ∧
        ∀ j, j < 2 ^ 19 → u.mem.read (scratchPa d j) = 0 ∧ segPoison u (scratchPa d j) = false) ∧
  (s.mgmt.ready = true → resetting s = false → s.toAccept = [] → ∀ i ∈ [Instr.deviceReset, .fwcmdDeviceReset],
    ∃ u, exec i s = .next u ∧ u.mgmt.ready = false ∧ u.mgmt.link = false ∧ u.mgmt.fail = false ∧ u.mgmt.stage = 2 ∧
      u.mgmt.booting = some (false, [s.jnext]) ∧ u.jnext = s.jnext + 1 ∧ u.launches = [] ∧
      u.queues = [] ∧ u.parts = [] ∧ (∀ d c, d < 2048 → (ctxOf u d c).phase = .free) ∧
      (∀ a, body a = true ∨ paRegion a = 16 → u.mem.read a = s.mem.read a) ∧ ∀ a, paRegion a = 1 → u.mem.read a = 0) ∧
  (∃ u, exec .powerOn s = .next u ∧ u.mgmt.ready = false ∧ u.mgmt.link = false ∧ u.mgmt.fail = false ∧ u.mgmt.stage = 1 ∧
    u.mgmt.booting = some (true, []) ∧ u.launches = [] ∧ u.queues = [] ∧ (∀ d c, (ctxOf u d c).phase = .free) ∧
    (∀ a, paRegion a = 16 → u.mem.read a = s.mem.read a) ∧ ∀ a, paRegion a = 1 → u.mem.read a = 0) ∧
  (s.mgmt.fail = true → bootGo s = s) ∧ (s.mgmt.booting = none → bootGo s = s) ∧
  (∀ cold l, s.mgmt.booting = some (cold, l) → s.mgmt.fail = false →
    let u := bootGo s
    let fails := u = { s with mgmt := { s.mgmt with fail := true } }
    (s.mgmt.stage = 2 → s.mgmt.clockFail = true → fails) ∧
    (s.mgmt.stage = 2 → s.mgmt.clockFail = false → u = { s with mgmt := { s.mgmt with stage := 3 } }) ∧
    (s.mgmt.stage = 3 → slotOk s s.mgmt.slotA = false → slotOk s s.mgmt.slotB = false → fails) ∧
    (s.mgmt.stage = 3 → slotOk s (slotOf s s.mgmt.activeB) = true → u.mgmt.stage = 4 ∧ wbit u.mgmt.fwver 48 = s.mgmt.activeB) ∧
    (s.mgmt.stage = 3 → slotOk s (slotOf s s.mgmt.activeB) = false → slotOk s (slotOf s !s.mgmt.activeB) = true →
      u.mgmt.stage = 4 ∧ wbit u.mgmt.fwver 48 = !s.mgmt.activeB) ∧
    (s.mgmt.stage = 4 → remapTable s = none → fails) ∧
    (∀ r, s.mgmt.stage = 4 → remapTable s = some r → u.mgmt.stage = 5 ∧ u.remap = r ∧
      ∀ a, paRegion a = 0 → paTile a ≠ 0 → oldTile s.remap r (paTile a) = some (paTile a) → u.mem.read a = s.mem.read a) ∧
    (s.mgmt.stage = 5 → s.mgmt.vaultFail = true → fails) ∧
    (s.mgmt.stage = 5 → s.mgmt.vaultFail = false → u.mgmt.stage = 6 ∧
      (cold = true → u.jnext = 1 ∧ u.mem.readN (vaultPa 0 Config.firmwareReserve) 8 = 1) ∧
      (cold = false → u.jnext = s.jnext ∧ u.mem = s.mem)) ∧
    (s.mgmt.stage = 6 → u.mgmt.stage = 7 ∧ (ctxOf u Config.fwTile 0).phase = .running ∧ (ctxOf u Config.fwTile 0).status = 2) ∧
    (7 ≤ s.mgmt.stage → u.mgmt.ready = true ∧ u.mgmt.link = true ∧ u.mgmt.booting = none ∧ u.jnext = s.jnext))

open Sys2Proof Sys2Proof.Machine in
/-- For every state: PCTL.HALT halts the partition and clears CLEARED; PCTL.CANCEL sends a cancel request for every
copy and agent command of its contexts while HALT is set and is ignored otherwise; PCTL.CLEAR begins the clear of a
halted, quiet partition under HALT and is ignored otherwise; PCTL.RUN sets RUN; QEND ends the running launch of
its queue, when it is halted and quiet, with the given STATUS and CAUSE and the items left, publishing only for
a status that is neither KILLED nor ABORTED, and is ignored otherwise; EVWAIT answers WDEXP once it is not zero
and until then changes nothing; JALLOC answers JRNHEAD.NEXT and advances it by 1, in the header of the journal
too; JW writes 8 bytes of the entry that JSEL names. -/
def Obligations.FirmwareBlock : Prop :=
  ∀ (p : Fin 8) (d : Fin 16) (j : Fin 8) (v : Word) (b : Bool) (s : State),
  let x := partOf s p.val
  let st := wfld v 8 8
  (exec (.pctlHalt p) s = .next (modPart p.val (fun x => { x with halt := true, cleared := false }) s)) ∧
  (exec (.pctlRun p b) s = .next (modPart p.val (fun x => { x with run := b }) s)) ∧
  (x.halt = false → exec (.pctlCancel p) s = .next s) ∧
  (x.halt = true → ∃ u, exec (.pctlCancel p) s = .next u ∧ u.tiles = s.tiles ∧ u.mem = s.mem ∧
    ∀ t ∈ partTiles s p.val, ∀ c, c < 8 →
      (∀ k ∈ (tileOf s t).copies, viewIs s t c k.view = true → ∃ n, (n, t, k.id) ∈ u.cancels) ∧
      ∀ k ∈ agentCommands s t c, ∃ n, (n, t, k) ∈ u.cancels) ∧
  (x.halt = true → isHalted s p.val = true → isQuiet s p.val = true →
    exec (.pctlClear p) s = .next (modPart p.val (fun x => { x with clearing := true }) s)) ∧
  ((x.halt = false ∨ isHalted s p.val = false ∨ isQuiet s p.val = false) → exec (.pctlClear p) s = .next s) ∧
  (∀ l, s.launches.find? (fun l => decide (l.queue = wfld v 0 4) && l.saved.isNone) = some l →
    (¬(isHalted s l.part = true ∧ isQuiet s l.part = true) → exec (.qend v) s = .next s) ∧
    (isHalted s l.part = true → isQuiet s l.part = true → (queueOf s l.queue).resetTo = none → s.mgmt.link = true →
      let slot := slotPa (queueOf s l.queue) l.qidx + 56
      let cpa := hostPa (recField l 96 8)
      ∃ u, exec (.qend v) s = .next u ∧ u.launches = s.launches.filter (fun m => decide (m.serial ≠ l.serial)) ∧
        (partOf u l.part).live = false ∧ (queueOf u l.queue).doneN = ((queueOf s l.queue).doneN + 1) % 2 ^ 32 ∧
        u.mem.readN slot 8 = st + 2 ^ 8 * wfld v 16 8 + 2 ^ 32 * (itemsLeft l % 2 ^ 32) ∧
        u.msix = s.msix ++ (if l.irq then [l.queue] else []) ∧
        ((st = 5 ∨ st = 7) → ∀ a, a < slot ∨ slot + 8 ≤ a → u.mem.read a = s.mem.read a) ∧
        (st ≠ 5 → st ≠ 7 → recField l 96 8 ≠ 0 → (cpa + 8 ≤ slot ∨ slot + 8 ≤ cpa) → u.mem.readN cpa 8 = l.serial % 2 ^ 32))) ∧
  (s.launches.find? (fun l => decide (l.queue = wfld v 0 4) && l.saved.isNone) = none → exec (.qend v) s = .next s) ∧
  (s.wdexp = 0 → exec (.evwait d) s = .next s) ∧
  (s.wdexp ≠ 0 → exec (.evwait d) s = .next (modCtx Config.fwTile 0 (putScalar d.val { val := s.wdexp }) s)) ∧
  (∃ u, exec (.jalloc d) s = .next u ∧ u.jnext = s.jnext + 1 ∧ u.mem.readN (vaultPa 0 Config.firmwareReserve) 8 = (s.jnext + 1) % 2 ^ 64 ∧
    (d ≠ 0 → scalarIn (ctxOf u Config.fwTile 0) d.val = { val := BitVec.ofNat 64 s.jnext }) ∧
    ∀ a, a < vaultPa 0 Config.firmwareReserve ∨ vaultPa 0 Config.firmwareReserve + 8 ≤ a → u.mem.read a = s.mem.read a) ∧
  (s.jsel = 0 → exec (.jw j v) s = .next s) ∧
  (s.jsel ≠ 0 → let pa := journalPa s.jsel.toNat + 8 * j.val
    ∃ u, exec (.jw j v) s = .next u ∧ u.mem.readN pa 8 = v.toNat ∧ (errAt s pa = none → u.tiles = s.tiles) ∧
      ∀ a, a < pa ∨ pa + 8 ≤ a → u.mem.read a = s.mem.read a)

open Sys2Proof Sys2Proof.Machine in
/-- For every state: HALT stops a running context that waits for no answer, with reason bit 0 and its sequencing
state and scalars as they are, waits while an answer is due, and cancels a resume of a halted one; RESUME and
STEP ask for a resume. RDREG reads scalars, control registers and future words; WRREG writes scalars and what
R261 lets FIRM write; RDROW and WRROW read and write one row of a bound name; RDSLOT reads one segment of a held
slot; each of these fails with ERRC 1 on a context that is not halted and with ERRC 2 on a bad operand, and
reports UNBOUND. RDMEM reads, and WRMEM writes, one segment at its home and nothing else of memory. That HALT waits while
an answer of the context is due is the model's reading (log 41). -/
def Obligations.DebugPort : Prop :=
  ∀ (n : Fin 256) (k : Fin 16) (j : Fin 4) (s : State),
  let t := cmdTile s
  let c := cmdCtx s
  let y := ctxOf s t c
  let st := fun u : State => Sparse.get 0 u.regs 0xC20
  let ok := fun (i : Instr) (P : State → Prop) => ∃ u, exec i s = .next u ∧ u.dbgSince = none ∧ wbit (st u) 1 = false ∧ P u
  let fails := fun (i : Instr) (e : Nat) => ∃ u, exec i s = .next u ∧ u.dbgSince = none ∧ wbit (st u) 1 = true ∧
    wfld (st u) 8 8 = e ∧ u.tiles = s.tiles ∧ u.mem = s.mem
  (y.debugHalt = false → y.phase = .running → mustAnswer s t c = false → ok .dbgHalt fun u =>
    (ctxOf u t c).debugHalt = true ∧ (ctxOf u t c).haltReason = 1 ∧ (ctxOf u t c).pc = y.pc ∧ (ctxOf u t c).npc = y.npc ∧
    (ctxOf u t c).nnpc = y.nnpc ∧ (ctxOf u t c).sregs = y.sregs) ∧
  (y.debugHalt = false → y.phase = .running → mustAnswer s t c = true →
    exec .dbgHalt s = .next { s with
      dbgSince := some (s.dbgSince.getD s.time),
      dbgRun := ((dbgOperands s).1, BitVec.ofNat 64 1, (dbgOperands s).2.2) }) ∧
  (y.debugHalt = true → ok .dbgHalt fun u => ctxOf u t c = { y with resumeReq := false, stepReq := false }) ∧
  (y.debugHalt = false → ∀ i ∈ [Instr.dbgResume, .dbgStep, .rdreg n, .wrreg n, .rdrow n k, .wrrow n k, .rdslot n j], fails i 1) ∧
  (y.debugHalt = true →
    (ok .dbgResume fun u => ctxOf u t c = { y with resumeReq := true, stepReq := false }) ∧
    (ok .dbgStep fun u => ctxOf u t c = { y with resumeReq := true, stepReq := true }) ∧
    (n.val < 16 → (ok (.rdreg n) fun u => u.dbgDat = (scalarIn y n.val).val ∧ wbit (st u) 3 = (scalarIn y n.val).poison) ∧
      ok (.wrreg n) fun u => scalarIn (ctxOf u t c) n.val = (if n.val = 0 then {} else { val := s.dbgDat, poison := false })) ∧
    (∀ r, 16 ≤ n.val → n.val < 51 → CReg.ofCode (n.val - 16) = some r →
      (ok (.rdreg n) fun u => u.dbgDat = cregIn s t c y (coreOf s t (coreIx c)) r) ∧
      let refused := cregBits r = (0, 0) ∨ cregRefuses r s.dbgDat = true ∨ r = .status ∧ 2 < wfld s.dbgDat 2 2
      (refused → fails (.wrreg n) 2) ∧
      (¬refused → ok (.wrreg n) fun u => tileOf u t = tileOf (putCreg t c r s.dbgDat s) t)) ∧
    (64 ≤ n.val → n.val < 128 → n.val % 8 < 6 →
      (ok (.rdreg n) fun u => u.dbgDat = futWord (Sparse.get ({} : Fut) y.futs ((n.val - 64) / 8)) (n.val % 8)) ∧ fails (.wrreg n) 2) ∧
    (128 ≤ n.val → fails (.rdreg n) 2 ∧ fails (.wrreg n) 2) ∧
    (16 ≤ n.val → fails (.rdrow n k) 2 ∧ fails (.wrrow n k) 2) ∧
    (n.val < 16 → physOf y n.val = none → (ok (.rdrow n k) fun u => u.dbgRow = 0 ∧ wbit (st u) 2 = true) ∧
      ok (.wrrow n k) fun u => wbit (st u) 2 = true ∧ u.tiles = s.tiles) ∧
    (∀ p, n.val < 16 → physOf y n.val = some p → rowInFlight s p k.val = false →
      (ok (.rdrow n k) fun u => u.dbgRow = (rowIn (tileOf s t) p k.val).bits ∧ wbit (st u) 3 = (rowIn (tileOf s t) p k.val).poison) ∧
      ok (.wrrow n k) fun u => ∀ p' k', rowIn (tileOf u t) p' k' =
        if p' = p ∧ k' = k.val then { bits := s.dbgRow, poison := false } else rowIn (tileOf s t) p' k') ∧
    (n.val < 50 → holdsSlot (tileOf s t) c j.val = true → ok (.rdslot n j) fun u => u.dbgRow =
      BitVec.ofNat 512 ((slotImage (Sparse.get {} (tileOf s t).slots j.val)).readN (64 * n.val) 64)) ∧
    (n.val < 50 → holdsSlot (tileOf s t) c j.val = false → ok (.rdslot n j) fun u => u.dbgRow = 0 ∧ wbit (st u) 2 = true) ∧
    (50 ≤ n.val → fails (.rdslot n j) 2)) ∧
  (∀ e, portReach s false = .error (some e) → e ≠ 0 → e < 256 → fails .rdmem e) ∧
  (∀ e, portReach s true = .error (some e) → e ≠ 0 → e < 256 → fails .wrmem e) ∧
  (∀ r, portReach s false = .ok r → r.tgt ≠ .control → errAt s r.pa = none → ok .rdmem fun u =>
    u.dbgRow = BitVec.ofNat 512 (s.mem.readN (r.pa / 64 * 64) 64) ∧ wbit (st u) 3 = segPoison s (r.pa / 64 * 64) ∧ u.mem = s.mem) ∧
  (∀ r, portReach s true = .ok r → r.tgt ≠ .control → (paRegion r.pa ≤ 1 → (tileOf s (paTile r.pa)).pairOf = none) →
    r.pa % 64 = 0 → ok .wrmem fun u => u.mem.readN r.pa 64 = s.dbgRow.toNat ∧ segPoison u r.pa = false ∧
      ∀ a, a < r.pa ∨ r.pa + 64 ≤ a → u.mem.read a = s.mem.read a)

open Sys2Proof Sys2Proof.Machine in
/-- For every state: SHOOT removes from every TLB of its partition the entries of the page and size that it names,
or all of them, and is ignored while one runs, and ends once every access that it waits for is performed; CRST
clears one counter; MBDATA writes its 8 bytes at MBADDR and advances it, or sets MBERR; a read of BAR2 that nothing
hinders gives the 8 bytes of device memory, or all ones, and a write lands or is dropped; a write that its vault
hinders joins the accesses of the host that wait; a page response ends every wait for the page, and a failure marks
the waiting contexts; an ATS invalidation removes the translation, and is in progress, one of at most 32, while an
access that used it is; an aligned write of 8 or 4 bytes to a window register of BAR2 changes the fields that it
covers (no other register is spoken of), and an unaligned write of any register is dropped; RELCLR clears the
counters of the selected tile; while the link is down nothing of the host arrives; the link takes the state it is
given, but during a boot, and the heads that can then be read arrive; a snapshot that is due is written with its
number and TIME. The model's readings or choices: how ATS translations are kept (log 15); that an access waits at a
hindered bank, that an unaligned write is dropped, the all ones, and that MBADDR moves when the write is accepted
(log 25); when a SHOOT ends and that its entries go at once, and when a snapshot is skipped (log 40); that RELCLR
clears the counters alone (log 42). -/
def Obligations.HostAccess : Prop :=
  ∀ (v : Word) (a n : Nat) (b : Bool) (s : State),
  let ma := s.mbAddr.toNat
  let link := s.mgmt.link = true
  let lands := fun (pa : Nat) (i : Instr) (P : State → Prop) => link → hostHindered s pa = none → s.hostAccs = [] →
    errAt s pa = none → (tileOf s (paTile pa)).pairOf = none → ∃ u, exec i s = .next u ∧ u.mem.readN pa 8 = v.toNat ∧ (∀ x, x < pa ∨ pa + 8 ≤ x → u.mem.read x = s.mem.read x) ∧ P u
  let waits := fun (pa : Nat) (box : Bool) (i : Instr) (P : State → Prop) => link → hostHindered s pa ≠ none → ∃ u,
    exec i s = .next u ∧ u.mem = s.mem ∧ P u ∧
    u.hostAccs = s.hostAccs ++ [{ pa := pa, v := v, cover := BitVec.allOnes 64, write := true, mailbox := box }]
  (s.mgmt.link = false → ∀ i ∈ [Instr.shoot v, .crst v, .mbdata v, .bar2Write a v, .bar2Read a, .registerWrite a b v, .relclr v],
    exec i s = .next s) ∧
  (s.shoot ≠ none → exec (.shoot v) s = .next s) ∧
  (link → s.shoot = none → wfld v 52 4 ≤ 3 → ∃ u k, exec (.shoot v) s = .next u ∧ u.shoot = some k ∧ u.mem = s.mem ∧
    (let keep := fun e : TlbEntry => !(decide (e.part = wfld v 56 3) && (decide (wfld v 52 4 = 3) ||
        (let w := [2 ^ 16, 2 ^ 25, 2 ^ 34].getD (wfld v 52 4) 1
         decide (e.base = wfld v 16 36 * 2 ^ 16 / w * w) && decide (e.size = w))))
     ∀ t, (tileOf u t).tlb = (tileOf s t).tlb.filter keep ∧ (tileOf u t).agentTlb = (tileOf s t).agentTlb.filter keep ∧
      ∀ c, (coreOf u t c).tlb = (coreOf s t c).tlb.filter keep)) ∧
  (∀ k, s.shoot = some k → (k.accs.any (stillRuns s) = true → exec .shootdownComplete s = .next s) ∧
    (k.accs.any (stillRuns s) = false → exec .shootdownComplete s = .next { s with shoot := none })) ∧
  (link → ∃ u, exec (.crst v) s = .next u ∧ ∀ d i, Sparse.get d u.counters i = if i = wfld v 0 16 then d else Sparse.get d s.counters i) ∧
  (ma % 8 = 0 → hostReaches ma true = true → (lands ma (.mbdata v) fun u => u.mbAddr = s.mbAddr + 8) ∧
    waits ma true (.mbdata v) fun u => u.mbAddr = s.mbAddr + 8) ∧
  (link → ¬(ma % 8 = 0 ∧ hostReaches ma true = true) → ∃ u, exec (.mbdata v) s = .next u ∧ u.mem = s.mem ∧ u.mbAddr = s.mbAddr ∧
    wbit (Sparse.get 0 u.regs 0x608) 0 = true) ∧
  (∀ pa, bar2Pa s (a / 8 * 8) = some pa →
    (hostReaches pa true = true → (lands pa (.bar2Write a v) fun _ => True) ∧ waits pa false (.bar2Write a v) fun _ => True) ∧
    (hostReaches pa true = false → exec (.bar2Write a v) s = .next s) ∧
    (link → hostReaches pa false = true → hostHindered s pa = none → s.hostAccs = [] → errAt s pa = none → s.asOf = none →
      ∃ u, exec (.bar2Read a) s = .next u ∧ u.hostData = BitVec.ofNat 64 (s.mem.readN pa 8) ∧ u.mem = s.mem) ∧
    (link → hostReaches pa false = false → exec (.bar2Read a) s = .next { s with hostData := BitVec.allOnes 64 })) ∧
  (bar2Pa s (a / 8 * 8) = none → exec (.bar2Write a v) s = .next s ∧
    (link → exec (.bar2Read a) s = .next { s with hostData := BitVec.allOnes 64 })) ∧
  (s.priReqs.contains n = true → ∃ u, exec (.priResponse n b) s = .next u ∧ u.priReqs = s.priReqs.filter (fun k => decide (k ≠ n)) ∧
    (b = false → u.ats = s.ats ∧ ∀ t c, (ctxOf s t c).wait = .pri n → (ctxOf u t c).priFail = true) ∧
    (b = true → u.tiles.length = s.tiles.length ∧ (∀ t c, ctxOf u t c = ctxOf s t c) ∧ u.ats.contains n = true)) ∧
  (s.priReqs.contains n = false → exec (.priResponse n b) s = .next s) ∧
  ((∀ i ∈ s.invs, i.page ≠ n) → 32 ≤ s.invs.length → exec (.atsInvalidation n) s = .next s) ∧
  ((∀ i ∈ s.invs, i.page ≠ n) → s.invs.length < 32 → exec (.atsInvalidation n) s = .next { s with
    ats := s.ats.filter (fun k => decide (k ≠ n)), atsRO := s.atsRO.filter (fun k => decide (k ≠ n)),
    invs := s.invs ++ [{ page := n, accs := pageUsers s n }] }) ∧
  ((∃ i ∈ s.invs, i.page = n) → exec (.atsInvalidation n) s = .next { s with
    invs := s.invs.filter fun i => i.accs.any (stillRuns s) }) ∧
  (a % 4 ≠ 0 → exec (.registerWrite a b v) s = .next s) ∧ (a % 8 = 4 → exec (.registerWrite a true v) s = .next s) ∧
  (∀ k, k < 16 → link → (∃ u, exec (.registerWrite (0x200 + 8 * k) true v) s = .next u ∧ u.mem = s.mem ∧ u.tiles = s.tiles ∧
      readBar0 u (0x200 + 8 * k) &&& 0xFFFFC0000001 = v &&& 0xFFFFC0000001) ∧
    ∃ u, exec (.registerWrite (0x200 + 8 * k + 4) false v) s = .next u ∧
      readBar0 u (0x200 + 8 * k) = (readBar0 s (0x200 + 8 * k) &&& 0xFFFFFFFF) ||| (v <<< 32 &&& 0xFFFF00000000) ||| (readBar0 s (0x200 + 8 * k) &&& 0xFFFF000000000000)) ∧
  (link → exec (.relclr v) s = .next (if wbit v 0 then modTile (wfld (Sparse.get 0 s.regs 0xA00) 0 11) (fun x => { x with relc := [] }) s else s)) ∧
  (s.mgmt.booting ≠ none → exec (.pcieLinkStateChange b) s = .next s) ∧
  (s.mgmt.booting = none → ∃ u, exec (.pcieLinkStateChange b) s = .next u ∧ u.mgmt = { s.mgmt with link := b } ∧
    u.queues = s.queues ∧ u.mem = s.mem ∧ u.tiles = s.tiles ∧
    ∀ q, q < 16 → headReady u q = true → (queueOf u q).entry = none → u.toAccept.contains (some q) = true) ∧
  (let cfg := Sparse.get 0x000003E800000001 s.regs 0xD00
   let base := wfld (Sparse.get 0 s.regs 0xD08) 12 36 * 2 ^ 12
   let i := wfld (Sparse.get 0 s.regs 0xD10) 0 32
   let pa := base + 274432 * (i % wfld cfg 0 16)
   wbit cfg 63 = true → s.netLast + wfld cfg 32 16 * Config.cyclesPerMicro ≤ s.time → (paRegion base = 0 ∨ paRegion base = 16) →
   ∃ u, exec .networkSnapshot s = .next u ∧ u.mem.readN pa 8 = i ∧ u.mem.readN (pa + 8) 8 = s.time % 2 ^ 64 ∧
    u.mem.readN (pa + 16) 8 = s.netPrev % 2 ^ 64 ∧ Sparse.get 0 u.regs 0xD10 = BitVec.ofNat 64 ((i + 1) % 2 ^ 32) ∧ u.netLast = s.time ∧
    ∀ x, x < pa ∨ pa + 274432 ≤ x → u.mem.read x = s.mem.read x)

open Sys2Proof Sys2Proof.Machine in
/-- For every state: MCTP control messages and messages of an unserved type change nothing; GET_ID answers DEVID,
FWVER, BOOTST and a chunk of 1,024 bytes of the certificate of the identity key; ATTEST, JOURNAL_READ and DUMP_READ
are not served once a boot stage has failed, and are otherwise: ATTEST with the 3,328 bytes of R368, JOURNAL_READ with
64 bytes for each entry that the journal still holds and RANGE otherwise, DUMP_READ with RANGE for an overwritten
identifier, and a read waits while the vault that holds what it reads is in HOLD; TELEMETRY page 3
answers the error counters; FW_BEGIN opens a session or is answered BUSY; FW_DATA writes the inactive slot;
FW_COMMIT of a slot that verifies takes a journal number and marks it active for the next device reset, and is
answered DENIED otherwise; what the host asked for before is accepted first. The model's readings and choices: the
answers to bad operands, the size of a chunk and the layout of TELEMETRY (log 28); that a device whose power-on boot has
not cleared its journal has none and gives number 0 (log 39); that FW_BEGIN and FW_DATA take a journal number without
an entry (log 69). -/
def Obligations.SidePort : Prop :=
  ∀ (k m : Nat) (v : Word) (nonce : BitVec 256) (data : List Byte) (s : State),
  let answers := fun (i : Instr) (t : State) (code seq : Nat) (l : List Byte) => exec i s = .next
    { t with mgmt := { t.mgmt with resp := natBytes code 4 ++ natBytes seq 8 ++ natBytes 0 4 ++ l } }
  let reads := fun (i : Instr) (l : List Byte) => ∃ u, exec i s = .next u ∧ u.mem = s.mem ∧
    u.mgmt.resp = natBytes 0 4 ++ natBytes 0 8 ++ natBytes 0 4 ++ l
  let z := acceptAll s
  let number := if hasJournal z then z.jnext else 0
  let held := fun (t : Nat) => (tileOf s t).vault.hold ≠ .active
  let queued := fun (i : Instr) (e : Bool × Nat × Nat × Nat) =>
    exec i s = .next { s with mgmt := { s.mgmt with asked := s.mgmt.asked ++ [e] } }
  exec .mctpControl s = .next s ∧ exec (.unservedMctpMessage k) s = .next s ∧
  (answers (.getId k) s 0 0 (natBytes 0x4A021032 4 ++ natBytes s.mgmt.fwver.toNat 8 ++
    natBytes (s.mgmt.stage % 16 + (if s.mgmt.ready then 2 ^ 8 else 0) + if s.mgmt.fail then 2 ^ 9 else 0) 8 ++
    (List.range 1024).map fun i => Config.certificate (identityKey s).1 (1024 * k + i))) ∧
  (s.mgmt.fail = true → exec (.attest nonce) s = .next s ∧ exec (.journalRead v k) s = .next s ∧ exec (.dumpRead v k m) s = .next s) ∧
  (s.mgmt.fail = false →
    (∃ sig, sig.length = 1280 ∧ answers (.attest nonce) s 0 0 (natBytes nonce.toNat 32 ++ natBytes 0x4A021032 4 ++
      natBytes s.mgmt.fwver.toNat 8 ++ natBytes s.mgmt.m0.toNat 64 ++ natBytes s.mgmt.m1.toNat 64 ++ natBytes s.mgmt.m2.toNat 64 ++
      natBytes 0 1812 ++ sig)) ∧
    ((k = 0 ∨ 16 < k) → answers (.journalRead v k) s 2 0 []) ∧
    (1 ≤ k → k ≤ 16 → held 0 → queued (.journalRead v k) (false, v.toNat, k, 0)) ∧
    (1 ≤ k → k ≤ 16 → ¬held 0 → (∀ i, i < k → entryHeld s (v.toNat + i) = true) → reads (.journalRead v k)
      ((List.range k).flatMap fun i => s.mem.readBytes (journalPa (v.toNat + i)) 64)) ∧
    (1 ≤ k → k ≤ 16 → ¬held 0 → (∃ i, i < k ∧ entryHeld s (v.toNat + i) = false) → answers (.journalRead v k) s 4 0 []) ∧
    (1024 < m → answers (.dumpRead v k m) s 2 0 []) ∧
    (m ≤ 1024 → dumpAt s v.toNat = none → answers (.dumpRead v k m) s 4 0 []) ∧
    (∀ pa len, m ≤ 1024 → dumpAt s v.toNat = some (pa, len) →
      (k + m ≤ len → held (paTile pa) → queued (.dumpRead v k m) (true, v.toNat, k, m)) ∧
      (k + m ≤ len → ¬held (paTile pa) → reads (.dumpRead v k m) (s.mem.readBytes (pa + k) m)) ∧
      (len < k + m → answers (.dumpRead v k m) s 4 0 []))) ∧
  (3 < k → answers (.telemetry k m) s 2 0 []) ∧ (k ≤ 3 → 2048 ≤ m → answers (.telemetry k m) s 4 0 []) ∧
  (k < 3 → m < 2048 → ∃ l, l.length = 64 ∧ answers (.telemetry k m) s 0 0 l) ∧
  (m < 2048 → answers (.telemetry 3 m) s 0 0 ((List.range 5).flatMap (fun i => natBytes (relcReg (tileOf s m) i).toNat 8) ++ natBytes 0 24)) ∧
  (z.mgmt.session = true → answers .fwBegin z 1 0 []) ∧
  (z.mgmt.session = false → (∃ u, exec .fwBegin s = .next u ∧ u.mgmt.session = true ∧ u.mgmt.slotA = z.mgmt.slotA ∧
      u.mgmt.slotB = z.mgmt.slotB ∧ u.mgmt.resp = natBytes 0 4 ++ natBytes number 8 ++ natBytes 0 4) ∧
    answers (.fwData k data) z 2 0 [] ∧ answers .fwCommit z 2 0 []) ∧
  (z.mgmt.session = true →
    (1024 < data.length → answers (.fwData k data) z 2 0 []) ∧
    (data.length ≤ 1024 → 4096 + 2 ^ 20 < k + data.length → answers (.fwData k data) z 4 0 []) ∧
    (data.length ≤ 1024 → k + data.length ≤ 4096 + 2 ^ 20 → ∃ u, exec (.fwData k data) s = .next u ∧
      u.mgmt.resp = natBytes 0 4 ++ natBytes number 8 ++ natBytes 0 4 ∧
      (z.mgmt.activeB = true → u.mgmt.slotB = z.mgmt.slotB ∧ u.mgmt.slotA.readBytes k data.length = data) ∧
      (z.mgmt.activeB = false → u.mgmt.slotA = z.mgmt.slotA ∧ u.mgmt.slotB.readBytes k data.length = data)) ∧
    (let slot := if z.mgmt.activeB then z.mgmt.slotA else z.mgmt.slotB
     let ok := slotOk z slot
     ∃ u, exec .fwCommit s = .next u ∧ u.mgmt.session = false ∧ u.mgmt.activeB = z.mgmt.activeB ∧
      (ok = true → u.mgmt.nextB = !z.mgmt.activeB ∧ u.mgmt.pendSvn = some (!z.mgmt.activeB, slot.readN 8 2) ∧
        u.mgmt.resp = natBytes 0 4 ++ natBytes number 8 ++ natBytes 0 4 ∧
        (hasJournal z = true → u.jnext = z.jnext + 1 ∧ u.mem.readN (journalPa z.jnext) 8 = z.jnext % 2 ^ 64 ∧
          u.mem.readN (journalPa z.jnext + 56) 8 = 1)) ∧
      (ok = false → u.mgmt.nextB = z.mgmt.nextB ∧ u.jnext = z.jnext ∧ u.mem = z.mem ∧
        u.mgmt.resp = natBytes 3 4 ++ natBytes 0 8 ++ natBytes 0 4)))

open Sys2Proof Sys2Proof.Machine in
/-- For every state whose scalars are ready, FCLASS completes by writing to s[D] a mask with exactly one of bits 9
to 0 set and every other bit zero: bit 0 for minus infinity, 1 negative normal, 2 negative subnormal, 3 minus
zero, 4 plus zero, 5 positive subnormal, 6 positive normal, 7 plus infinity, 8 a signalling NaN and 9 a quiet
NaN; the result carries the poison of its operand. -/
def Obligations.FclassMask : Prop :=
  ∀ (d a : Fin 16) (p : Prec) (s : State), Ready s [d, a] →
  (let f := precFmt p
   let code := (rdS s a).val.toNat % 2 ^ (1 + f.eb + f.fb)
   let k : Nat := match f.decode code with
     | .nan sig => if sig then 8 else 9
     | .inf neg => if neg then 0 else 7
     | .fin neg m _ =>
       if m = 0 then (if neg then 3 else 4)
       else if code / 2 ^ f.fb % 2 ^ f.eb = 0 then (if neg then 2 else 5) else (if neg then 1 else 6)
   exec (.fclass d a p) s = .next (settled s (.done (raiseFp 0 (wrS d
     { val := BitVec.ofNat 64 (2 ^ k), poison := (rdS s a).poison } s)) .next)))

open Sys2Proof Sys2Proof.Machine in
/-- For every partition with a running launch whose watchdog limit is not zero, is reached by its count of
microseconds and has not been noted yet, WATCHDOG_EXPIRY completes: the launch is marked as expired, which stops
its count, PCTL.RUN of the partition becomes 0 and bit p of WDEXP is set; every other part of the machine, the
contexts of the partition and every other partition among them, is as before. -/
def Obligations.WatchdogExpiryStopsQueues : Prop :=
  ∀ (p : Fin 8) (l : Launch) (s : State), runningLaunch s p.val = some l → watchdogLimit l ≠ 0 →
  watchdogLimit l ≤ l.wdUs + (s.time - l.wdAt) / Config.cyclesPerMicro → l.expired = false →
  exec (.watchdogExpiry p) s = .next { s with
    launches := s.launches.map (fun k => if k.serial = l.serial then { k with expired := true } else k)
    parts := Sparse.set p.val { partOf s p.val with run := false } s.parts
    wdexp := s.wdexp ||| BitVec.ofNat 64 (2 ^ p.val) }

open Sys2Proof Sys2Proof.Machine in
/-- For every well-formed instruction and every word that has its encoding in bits 30 to 0, whatever its L bit, the
decoder reads that very instruction, with every operand. -/
def Obligations.EncodeRoundTrip : Prop :=
  ∀ (i : Instr) (v : Nat), i.wf = true → encode i = some (v % 2 ^ 31) → decodeWord v = .ok i

open Sys2Proof Sys2Proof.Machine in
/-- For every number v and instruction i: if the decoder reads i from v, then i is well formed and its word is v
without its L bit; so no two words of equal L bit decode to one instruction, and no word decodes with a reserved
bit or code set. -/
def Obligations.DecodeIsUnambiguous : Prop :=
  ∀ (i : Instr) (v : Nat), decodeWord v = .ok i → i.wf = true ∧ encode i = some (v % 2 ^ 31)

open Sys2Proof Sys2Proof.Machine in
/-- Each of twenty words that the manual writes out bit by bit decodes to the instruction that it stands for. A
pattern that the decoder reads as no instruction completes by raising OPCODE_UNDEFINED for a reserved opcode,
FIELD_RESERVED for a reserved field and LOOP_ROTATION for a rotation beyond the names. -/
def Obligations.DecodedWords : Prop :=
  (∀ p ∈ ([
    (0x80000000, Instr.nop),
    (0x80000040, Instr.halt),
    (0x81500000, Instr.pfx .acquire .device .dflt .dflt),
    (0x8242E210, Instr.loop 4 11 8 2 1),
    (0x9C345003, Instr.aadd 3 4 5 .d),
    (0x926EFFFE, Instr.st 6 14 .d 16382),
    (0x95347001, Instr.vld 3 4 7 1),
    (0xC0123484, Instr.sel 1 2 3 4),
    (0xC16780C0, Instr.div 6 7 8),
    (0xCC5671C2, Instr.fcmp 5 6 7 .lt .f32),
    (0xCC120207, Instr.fcvt 1 2 .i32f64),
    (0xEC5600C0, Instr.xtrn 5 6),
    (0xEC290040, Instr.xfill 2 9),
    (0xF15A8000, Instr.mdrain 1 6 .bf16),
    (0xF5720000, Instr.mopw 3 9),
    (0xA1000004, Instr.cpys 4),
    (0xA9010004, Instr.sig 1 4),
    (0xAC040000, Instr.claim 4),
    (0x90318000, Instr.ld 3 1 .w 0),
    (0x8A0C3FFE, Instr.bz .none 3 16382) ] : List (Nat × Instr)),
    decodeWord p.1 = .ok p.2) ∧
  (∀ (w : W32) (s : State),
    (decodeWord w.toNat = .error .opcodeUndefined → exec (.reservedPattern w) s = .next (settled s (.trap { cause := .opcodeUndefined }))) ∧
    (decodeWord w.toNat = .error .fieldReserved → exec (.reservedPattern w) s = .next (settled s (.trap { cause := .fieldReserved }))) ∧
    (decodeWord w.toNat = .error .loopRotation → exec (.reservedPattern w) s = .next (settled s (.trap { cause := .loopRotation }))))

open Sys2Proof Sys2Proof.Machine in
/-- For every state whose turn is the issue of a core that is not frozen, in ring mode, with a current context that
may issue, has no group behind it that still waits for its load, takes no pending cause and replays nothing due: a
nullified group is skipped; a fetched lone word
that decodes to an instruction other than PFX, is legal and meets no breakpoint, is carried out by exec of that
instruction, in the state with the turn taken off the agenda, an empty frame and the errors dealt with that a fetch
of firmware code meets in the vault (R381), after which the core keeps or gives up the context; one that is not legal, or decodes to nothing, traps with the cause of R65; the two words
of a pair are carried out by exec one after the other, the second in the frame that the first leaves, and the
group then retires once. A turn that names an event is exec of the event. -/
def Obligations.StepRunsDecoded : Prop :=
  ∀ (t c w v n : Nat) (i j : Instr) (rest : List Turn) (s : State),
  (s.agenda = .event i :: rest → isEvent i = true →
    step s = andThen (exec i { s with agenda := rest }) fun u => .next (endTurn s (noteTraffic s u))) ∧
  (let k := coreIx c
   let z0 : State := { s with agenda := rest, focusTile := t, focusCtx := c, grp := {} }
   let z := firmFetch t c z0
   let y := ctxOf s t c
   let ends := fun u : State => (Host.Outcome.next (endTurn s (noteTraffic s (afterRing t k (c % 4) u))) : Host.Outcome State Fault Refusal)
   c < 8 → s.agenda = .issue t k :: rest → (coreOf s t k).freeze = false → (coreOf s t k).mode = false →
   (coreOf s t k).cur = some (c % 4) → mayIssue s t c = true → y.after = none → replayBoundary t c z0 = none → takePending t c z0 = none →
   (y.n0 = true → step s = ends (advance t c .next z0)) ∧
   (y.n0 = false → straysHere t c z0 = false → fetchWord s t c y.pc = some w →
    (w / 2 ^ 31 % 2 = 1 → decodeWord w = .ok i → isPfx w = false →
      (∀ cause, staticCause z i = some (n, cause) → step s = ends (trapGroup t c { cause := cause } z)) ∧
      (Legal z i → breakHits y = 0 → ∀ u, exec i z = .next u → step s = ends u)) ∧
    (∀ cause, w / 2 ^ 31 % 2 = 1 → isPfx w = false → rejectCause w = some (n, cause) → step s = ends (trapGroup t c { cause := cause } z)) ∧
    (w / 2 ^ 30 % 4 = 0 → y.pc % 8 = 0 → fetchWord s t c (y.pc + 4) = some v → v / 2 ^ 30 % 4 = 1 →
      decodeWord w = .ok i → decodeWord v = .ok j → isPfx w = false → y.heldNames = none → Legal z i → Legal z j → pairClash i j = false →
      breakHits y = 0 → ∀ u1 u2 : State, exec i { z with grp := { half := .first, snap := some (tileOf z t), word := w } } = .next u1 →
      u1.grp.trap = none → u1.grp.blocked = false → exec j { u1 with grp := { u1.grp with half := .second } } = .next u2 →
      u2.grp.trap = none → u2.grp.blocked = false → step s = ends (retireGroup t c u2.grp.flow u2))))

open Sys2Proof Sys2Proof.Machine in
/-- In State.reset: no context holds a task, no tile register is bound and no slot held, every SEQNO is 0 and every
scratchpad byte reads 0; every queue is disabled and idle, every partition runs commands and is not halted;
DEVID, THRESH 256, NGCFG (interval 1,000, one slot), JRNHEAD 1 and BOOTST (stage 7, READY) read as their Reset
columns and R365 say, and every other register of the device control block that is named here reads 0; the
memory is in canonical form. That the state is the one after the seventh stage of a first boot, and the 0 of MBADDR and
DBGDAT, for which the manual gives no reset value, are the model's choice (log 2). -/
def Obligations.ResetState : Prop :=
  let s := State.reset
  MemOk s ∧ (∀ t c, (ctxOf s t c).phase = .free) ∧ (∀ t p, (Sparse.get ({} : TileReg) (tileOf s t).xregs p).bound = false) ∧
  (∀ t j, (Sparse.get ({} : MSlot) (tileOf s t).slots j).owner = none) ∧ (∀ t k, (coreOf s t k).seqno = 0) ∧
  (∀ t a, s.mem.read (scratchPa t a) = 0) ∧ (∀ q, wbit (queueOf s q).cfg 31 = false ∧ (queueOf s q).head = 0 ∧ (queueOf s q).tail = 0) ∧
  (∀ p, (partOf s p).run = true ∧ (partOf s p).halt = false) ∧ s.jnext = 1 ∧ s.wdexp = 0 ∧
  s.mem.readN (vaultPa 0 Config.firmwareReserve) 8 = 1 ∧
  readBar0 s 0 = 0x4A021032 ∧ readBar0 s 0x108 = 256 ∧ readBar0 s 0xD00 = BitVec.ofNat 64 (1000 * 2 ^ 32 + 1) ∧
  readBar0 s 0x828 = 1 ∧ readBar0 s 0x838 = BitVec.ofNat 64 (2 ^ 8 + 7) ∧
  ∀ off ∈ [0x10, 0x40, 0x80, 0xC0, 0x100, 0x118, 0x120, 0x128, 0x130, 0x200, 0x400, 0x600, 0x608, 0x800, 0x808, 0x810, 0x818, 0x820, 0xA00, 0xA08, 0xC00, 0xC08, 0xC10, 0xC18, 0xD08, 0xD10, 0xD18], readBar0 s off = 0

open Sys2Proof Sys2Proof.Machine in
/-- For every state whose memory is in canonical form (addresses strictly rising, no entry equal to what an unlisted
address reads as), and every step that gives a next state, the memory of that next state is in canonical form. -/
def Obligations.MemOkKept : Prop :=
  ∀ s t : State, MemOk s → Continues s t → MemOk t

open Sys2Proof Sys2Proof.Machine in
/-- For every state, whatever its agenda, the step of the machine gives a next state: no instruction, no event and
no ordinary datum ends a run (the manual names no behaviour that does). -/
def Obligations.StepAlwaysContinues : Prop :=
  ∀ s : State, ∃ t, Continues s t
end

