-- ==== Sys2Proof/Laws/Sparse.lean ====
section
/-! SUPPORT. Reading a table after a change of it, and the canonical form of the memory under every operation. -/

namespace Sys2Proof

@[simp] theorem Sparse.get_set_same {α : Type} (d x : α) (i : Nat) (m : Sparse α) :
    Sparse.get d (Sparse.set i x m) i = x := by
  induction m with
  | nil => simp [Sparse.set, Sparse.get]
  | cons kv r ih =>
    obtain ⟨k, v⟩ := kv
    unfold Sparse.set
    split
    · simp [Sparse.get]
    · split
      · simp [Sparse.get]
      · rename_i h; simp [Sparse.get, h, ih]

theorem Sparse.get_set_other {α : Type} (d x : α) {i j : Nat} (h : j ≠ i) (m : Sparse α) :
    Sparse.get d (Sparse.set i x m) j = Sparse.get d m j := by
  induction m with
  | nil => simp [Sparse.set, Sparse.get, Ne.symm h]
  | cons kv r ih =>
    obtain ⟨k, v⟩ := kv
    unfold Sparse.set
    split
    · simp [Sparse.get, Ne.symm h]
    · split
      · rename_i hk; subst hk; simp [Sparse.get, Ne.symm h]
      · simp only [Sparse.get, ih]

theorem Sparse.get_set {α : Type} (d x : α) (i j : Nat) (m : Sparse α) :
    Sparse.get d (Sparse.set i x m) j = if j = i then x else Sparse.get d m j := by
  split
  · rename_i h; subst h; simp
  · rename_i h; exact Sparse.get_set_other d x h m

@[simp] theorem Sparse.get_modify_same {α : Type} (d : α) (i : Nat) (f : α → α) (m : Sparse α) :
    Sparse.get d (Sparse.modify d i f m) i = f (Sparse.get d m i) := Sparse.get_set_same d _ i m

theorem Sparse.get_modify_other {α : Type} (d : α) {i j : Nat} (h : j ≠ i) (f : α → α) (m : Sparse α) :
    Sparse.get d (Sparse.modify d i f m) j = Sparse.get d m j := Sparse.get_set_other d _ h m

theorem Sparse.erase_cons {α : Type} (i k : Nat) (v : α) (r : Sparse α) :
    Sparse.erase i ((k, v) :: r) = if k = i then Sparse.erase i r else (k, v) :: Sparse.erase i r := by
  unfold Sparse.erase
  by_cases h : k = i
  · rw [List.filter_cons_of_neg (by simp [h]), if_pos h]
  · rw [List.filter_cons_of_pos (by simp [h]), if_neg h]

theorem Sparse.get_erase_same {α : Type} (d : α) (i : Nat) (m : Sparse α) : Sparse.get d (Sparse.erase i m) i = d := by
  induction m with
  | nil => rfl
  | cons kv r ih =>
    obtain ⟨k, v⟩ := kv
    rw [Sparse.erase_cons]
    split
    · exact ih
    · rename_i h; simp only [Sparse.get, h, if_false, ih]

theorem Sparse.get_erase_other {α : Type} (d : α) {i j : Nat} (h : j ≠ i) (m : Sparse α) :
    Sparse.get d (Sparse.erase i m) j = Sparse.get d m j := by
  induction m with
  | nil => rfl
  | cons kv r ih =>
    obtain ⟨k, v⟩ := kv
    rw [Sparse.erase_cons]
    split
    · rename_i hk; subst hk; rw [ih, Sparse.get, if_neg (Ne.symm h)]
    · simp only [Sparse.get, ih]

theorem Sparse.get_insert {α : Type} (d x : α) (i j : Nat) (m : Sparse α) (h : ∀ kv ∈ m, kv.1 ≠ i) :
    Sparse.get d (Sparse.insert i x m) j = if j = i then x else Sparse.get d m j := by
  induction m with
  | nil =>
    by_cases hj : j = i
    · simp [Sparse.insert, Sparse.get, hj]
    · simp [Sparse.insert, Sparse.get, hj, Ne.symm hj]
  | cons kv r ih =>
    obtain ⟨k, v⟩ := kv
    have hk : k ≠ i := h (k, v) List.mem_cons_self
    have hr : ∀ kv ∈ r, kv.1 ≠ i := fun kv hkv => h kv (List.mem_cons_of_mem _ hkv)
    unfold Sparse.insert
    split
    · by_cases hj : j = i
      · simp [Sparse.get, hj]
      · simp [Sparse.get, hj, Ne.symm hj]
    · simp only [Sparse.get, ih hr]
      by_cases hj : j = i
      · subst hj; simp [hk]
      · simp [hj]

theorem Sparse.mem_erase {α : Type} {i : Nat} {m : Sparse α} {kv : Nat × α} (h : kv ∈ Sparse.erase i m) :
    kv ∈ m ∧ kv.1 ≠ i := by
  unfold Sparse.erase at h
  simpa using List.mem_filter.1 h

/-- A byte read after a write: the byte written at its address, every other byte as before. -/
theorem Memory.read_write (m : Memory) (a b : Nat) (x : Byte) :
    Memory.read (Memory.write a x m) b = if b = a then x else Memory.read m b := by
  unfold Memory.read Memory.write
  split
  · rename_i hx
    by_cases h : b = a
    · subst h; simp [Sparse.get_erase_same, hx]
    · simp [Sparse.get_erase_other _ h, h]
  · rw [Sparse.get_insert _ _ _ _ _ fun kv h => (Sparse.mem_erase h).2]
    by_cases h : b = a
    · simp [h]
    · simp [h, Sparse.get_erase_other _ h]

/-- A byte read after several are written. -/
theorem Memory.read_writeN (m : Memory) (a v n b : Nat) :
    Memory.read (Memory.writeN a v n m) b =
      if a ≤ b ∧ b < a + n then BitVec.ofNat 8 (v / 2 ^ (8 * (b - a))) else Memory.read m b := by
  induction n generalizing a v m with
  | zero => rw [Memory.writeN, if_neg (by omega)]
  | succ n ih =>
    rw [Memory.writeN, ih, Memory.read_write]
    by_cases h : a + 1 ≤ b ∧ b < a + 1 + n
    · have h3 : 8 * (b - a) = 8 + 8 * (b - (a + 1)) := by omega
      rw [if_pos h, if_pos (by omega), h3, Nat.pow_add, Nat.div_div_eq_div_mul]
    · rw [if_neg h]
      by_cases hb : b = a
      · subst hb; simp
      · rw [if_neg hb, if_neg (by omega)]

/-- Rising keys and no listed zero, as a proposition. -/
theorem Memory.wf_iff (m : Memory) :
    Memory.wf m = true ↔ m.Pairwise (fun x y => x.1 < y.1) ∧ ∀ x ∈ m, x.2 ≠ 0 := by
  unfold Memory.wf
  simp

theorem Memory.wf_nil : Memory.wf [] = true := by decide

theorem Memory.wf_filter {m : Memory} (h : Memory.wf m = true) (p : Nat × Byte → Bool) :
    Memory.wf (m.filter p) = true := by
  rw [Memory.wf_iff] at *
  exact ⟨h.1.filter _, fun x hx => h.2 x (List.mem_filter.1 hx).1⟩

theorem Memory.wf_insert {m : Memory} {a : Nat} {b : Byte} (hb : b ≠ 0) (h : Memory.wf m = true)
    (ha : ∀ kv ∈ m, kv.1 ≠ a) : Memory.wf (Sparse.insert a b m) = true := by
  have key : ∀ (m : Memory), m.Pairwise (fun x y => x.1 < y.1) → (∀ kv ∈ m, kv.1 ≠ a) →
      (Sparse.insert a b m).Pairwise (fun x y => x.1 < y.1) ∧
      ∀ x ∈ Sparse.insert a b m, x = (a, b) ∨ x ∈ m := by
    intro m
    induction m with
    | nil => intro _ _; simp [Sparse.insert]
    | cons kv r ih =>
      obtain ⟨k, v⟩ := kv
      intro hp hn
      rw [List.pairwise_cons] at hp
      have hr := ih hp.2 fun kv hkv => hn kv (List.mem_cons_of_mem _ hkv)
      have hk : k ≠ a := hn (k, v) List.mem_cons_self
      unfold Sparse.insert
      split
      · rename_i hlt
        refine ⟨?_, fun x hx => by simpa using hx⟩
        rw [List.pairwise_cons]
        refine ⟨fun x hx => ?_, by rw [List.pairwise_cons]; exact hp⟩
        rcases List.mem_cons.1 hx with rfl | hx
        · exact hlt
        · exact Nat.lt_trans hlt (hp.1 x hx)
      · rename_i hlt
        refine ⟨?_, fun x hx => ?_⟩
        · rw [List.pairwise_cons]
          refine ⟨fun x hx => ?_, hr.1⟩
          rcases hr.2 x hx with rfl | hx
          · simp only; omega
          · exact hp.1 x hx
        · rcases List.mem_cons.1 hx with rfl | hx
          · exact Or.inr List.mem_cons_self
          · rcases hr.2 x hx with h | h
            · exact Or.inl h
            · exact Or.inr (List.mem_cons_of_mem _ h)
  rw [Memory.wf_iff] at *
  have hk := key m h.1 ha
  refine ⟨hk.1, fun x hx => ?_⟩
  rcases hk.2 x hx with rfl | hx
  · exact hb
  · exact h.2 x hx

theorem Memory.wf_write {m : Memory} (h : Memory.wf m = true) (a : Nat) (b : Byte) :
    Memory.wf (Memory.write a b m) = true := by
  unfold Memory.write
  split
  · exact Memory.wf_filter h _
  · rename_i hb
    exact Memory.wf_insert hb (Memory.wf_filter h _) fun kv hkv => (Sparse.mem_erase hkv).2

theorem Memory.wf_writeN {m : Memory} (h : Memory.wf m = true) (a v n : Nat) :
    Memory.wf (Memory.writeN a v n m) = true := by
  induction n generalizing a v m with
  | zero => exact h
  | succ n ih => exact ih (Memory.wf_write h _ _) _ _

theorem Memory.wf_writeBytes {m : Memory} (h : Memory.wf m = true) (a : Nat) (l : List Byte) :
    Memory.wf (Memory.writeBytes a l m) = true := by
  induction l generalizing a m with
  | nil => exact h
  | cons b r ih => exact ih (Memory.wf_write h _ _) _

theorem Memory.wf_clear {m : Memory} (h : Memory.wf m = true) (a n : Nat) : Memory.wf (Memory.clear a n m) = true :=
  Memory.wf_filter h _

theorem Memory.wf_overlay (m : Memory) {d : Memory} (h : Memory.wf d = true) : Memory.wf (Memory.overlay m d) = true := by
  induction m generalizing d with
  | nil => exact h
  | cons kv r ih => exact ih (Memory.wf_write h _ _)

theorem Memory.wf_place {d : Memory} (h : Memory.wf d = true) (m : Memory) (a n b : Nat) :
    Memory.wf (Memory.place m a n b d) = true :=
  Memory.wf_overlay _ (Memory.wf_clear h _ _)

end Sys2Proof
end

