-- ==== Sys2Proof/Laws/State.lean ====
section
/-! SUPPORT. What each update of the state leaves, field by field, and what reads of tiles, contexts, cores, partitions and
queues see after it. -/

namespace Sys2Proof.Machine

variable (s : State)

@[simp] theorem setTile_time (t : Nat) (x : Tile) : (setTile t x s).time = s.time := rfl
@[simp] theorem setTile_epoch (t : Nat) (x : Tile) : (setTile t x s).epoch = s.epoch := rfl
@[simp] theorem setTile_mem (t : Nat) (x : Tile) : (setTile t x s).mem = s.mem := rfl
@[simp] theorem setTile_poison (t : Nat) (x : Tile) : (setTile t x s).poison = s.poison := rfl
@[simp] theorem setTile_remap (t : Nat) (x : Tile) : (setTile t x s).remap = s.remap := rfl
@[simp] theorem setTile_bars (t : Nat) (x : Tile) : (setTile t x s).bars = s.bars := rfl
@[simp] theorem setTile_barArr (t : Nat) (x : Tile) : (setTile t x s).barArr = s.barArr := rfl
@[simp] theorem setTile_regs (t : Nat) (x : Tile) : (setTile t x s).regs = s.regs := rfl
@[simp] theorem setTile_tln (t : Nat) (x : Tile) : (setTile t x s).tln = s.tln := rfl
@[simp] theorem setTile_queues (t : Nat) (x : Tile) : (setTile t x s).queues = s.queues := rfl
@[simp] theorem setTile_parts (t : Nat) (x : Tile) : (setTile t x s).parts = s.parts := rfl
@[simp] theorem setTile_launches (t : Nat) (x : Tile) : (setTile t x s).launches = s.launches := rfl
@[simp] theorem setTile_nextSerial (t : Nat) (x : Tile) : (setTile t x s).nextSerial = s.nextSerial := rfl
@[simp] theorem setTile_counters (t : Nat) (x : Tile) : (setTile t x s).counters = s.counters := rfl
@[simp] theorem setTile_ats (t : Nat) (x : Tile) : (setTile t x s).ats = s.ats := rfl
@[simp] theorem setTile_atsRO (t : Nat) (x : Tile) : (setTile t x s).atsRO = s.atsRO := rfl
@[simp] theorem setTile_hostRO (t : Nat) (x : Tile) : (setTile t x s).hostRO = s.hostRO := rfl
@[simp] theorem setTile_hostFails (t : Nat) (x : Tile) : (setTile t x s).hostFails = s.hostFails := rfl
@[simp] theorem setTile_invs (t : Nat) (x : Tile) : (setTile t x s).invs = s.invs := rfl
@[simp] theorem setTile_priReqs (t : Nat) (x : Tile) : (setTile t x s).priReqs = s.priReqs := rfl
@[simp] theorem setTile_shoot (t : Nat) (x : Tile) : (setTile t x s).shoot = s.shoot := rfl
@[simp] theorem setTile_wdexp (t : Nat) (x : Tile) : (setTile t x s).wdexp = s.wdexp := rfl
@[simp] theorem setTile_jsel (t : Nat) (x : Tile) : (setTile t x s).jsel = s.jsel := rfl
@[simp] theorem setTile_jnext (t : Nat) (x : Tile) : (setTile t x s).jnext = s.jnext := rfl
@[simp] theorem setTile_dumps (t : Nat) (x : Tile) : (setTile t x s).dumps = s.dumps := rfl
@[simp] theorem setTile_toAccept (t : Nat) (x : Tile) : (setTile t x s).toAccept = s.toAccept := rfl
@[simp] theorem setTile_replies (t : Nat) (x : Tile) : (setTile t x s).replies = s.replies := rfl
@[simp] theorem setTile_cancels (t : Nat) (x : Tile) : (setTile t x s).cancels = s.cancels := rfl
@[simp] theorem setTile_conts (t : Nat) (x : Tile) : (setTile t x s).conts = s.conts := rfl
@[simp] theorem setTile_agentReqs (t : Nat) (x : Tile) : (setTile t x s).agentReqs = s.agentReqs := rfl
@[simp] theorem setTile_late (t : Nat) (x : Tile) : (setTile t x s).late = s.late := rfl
@[simp] theorem setTile_overPend (t : Nat) (x : Tile) : (setTile t x s).overPend = s.overPend := rfl
@[simp] theorem setTile_nextId (t : Nat) (x : Tile) : (setTile t x s).nextId = s.nextId := rfl
@[simp] theorem setTile_mbAddr (t : Nat) (x : Tile) : (setTile t x s).mbAddr = s.mbAddr := rfl
@[simp] theorem setTile_dbgDat (t : Nat) (x : Tile) : (setTile t x s).dbgDat = s.dbgDat := rfl
@[simp] theorem setTile_dbgSince (t : Nat) (x : Tile) : (setTile t x s).dbgSince = s.dbgSince := rfl
@[simp] theorem setTile_dbgRun (t : Nat) (x : Tile) : (setTile t x s).dbgRun = s.dbgRun := rfl
@[simp] theorem setTile_dbgWaited (t : Nat) (x : Tile) : (setTile t x s).dbgWaited = s.dbgWaited := rfl
@[simp] theorem setTile_dbgPri (t : Nat) (x : Tile) : (setTile t x s).dbgPri = s.dbgPri := rfl
@[simp] theorem setTile_dbgPriFail (t : Nat) (x : Tile) : (setTile t x s).dbgPriFail = s.dbgPriFail := rfl
@[simp] theorem setTile_dbgRow (t : Nat) (x : Tile) : (setTile t x s).dbgRow = s.dbgRow := rfl
@[simp] theorem setTile_msix (t : Nat) (x : Tile) : (setTile t x s).msix = s.msix := rfl
@[simp] theorem setTile_volts (t : Nat) (x : Tile) : (setTile t x s).volts = s.volts := rfl
@[simp] theorem setTile_netLast (t : Nat) (x : Tile) : (setTile t x s).netLast = s.netLast := rfl
@[simp] theorem setTile_netPrev (t : Nat) (x : Tile) : (setTile t x s).netPrev = s.netPrev := rfl
@[simp] theorem setTile_netUsed (t : Nat) (x : Tile) : (setTile t x s).netUsed = s.netUsed := rfl
@[simp] theorem setTile_netMaybe (t : Nat) (x : Tile) : (setTile t x s).netMaybe = s.netMaybe := rfl
@[simp] theorem setTile_netOpen (t : Nat) (x : Tile) : (setTile t x s).netOpen = s.netOpen := rfl
@[simp] theorem setTile_mgmt (t : Nat) (x : Tile) : (setTile t x s).mgmt = s.mgmt := rfl
@[simp] theorem setTile_hostData (t : Nat) (x : Tile) : (setTile t x s).hostData = s.hostData := rfl
@[simp] theorem setTile_hostAccs (t : Nat) (x : Tile) : (setTile t x s).hostAccs = s.hostAccs := rfl
@[simp] theorem setTile_hist (t : Nat) (x : Tile) : (setTile t x s).hist = s.hist := rfl
@[simp] theorem setTile_writes (t : Nat) (x : Tile) : (setTile t x s).writes = s.writes := rfl
@[simp] theorem setTile_asOf (t : Nat) (x : Tile) : (setTile t x s).asOf = s.asOf := rfl
@[simp] theorem setTile_pick (t : Nat) (x : Tile) : (setTile t x s).pick = s.pick := rfl
@[simp] theorem setTile_scOrder (t : Nat) (x : Tile) : (setTile t x s).scOrder = s.scOrder := rfl
@[simp] theorem setTile_pub (t : Nat) (x : Tile) : (setTile t x s).pub = s.pub := rfl
@[simp] theorem setTile_mailSeen (t : Nat) (x : Tile) : (setTile t x s).mailSeen = s.mailSeen := rfl
@[simp] theorem setTile_tlnSeen (t : Nat) (x : Tile) : (setTile t x s).tlnSeen = s.tlnSeen := rfl
@[simp] theorem setTile_agenda (t : Nat) (x : Tile) : (setTile t x s).agenda = s.agenda := rfl
@[simp] theorem setTile_focusTile (t : Nat) (x : Tile) : (setTile t x s).focusTile = s.focusTile := rfl
@[simp] theorem setTile_focusCtx (t : Nat) (x : Tile) : (setTile t x s).focusCtx = s.focusCtx := rfl
@[simp] theorem setTile_grp (t : Nat) (x : Tile) : (setTile t x s).grp = s.grp := rfl
@[simp] theorem setTile_freeCount (t : Nat) (x : Tile) : (setTile t x s).freeCount = s.freeCount := rfl

@[simp] theorem modTile_time (t : Nat) (f : Tile → Tile) : (modTile t f s).time = s.time := rfl
@[simp] theorem modTile_epoch (t : Nat) (f : Tile → Tile) : (modTile t f s).epoch = s.epoch := rfl
@[simp] theorem modTile_mem (t : Nat) (f : Tile → Tile) : (modTile t f s).mem = s.mem := rfl
@[simp] theorem modTile_poison (t : Nat) (f : Tile → Tile) : (modTile t f s).poison = s.poison := rfl
@[simp] theorem modTile_remap (t : Nat) (f : Tile → Tile) : (modTile t f s).remap = s.remap := rfl
@[simp] theorem modTile_bars (t : Nat) (f : Tile → Tile) : (modTile t f s).bars = s.bars := rfl
@[simp] theorem modTile_barArr (t : Nat) (f : Tile → Tile) : (modTile t f s).barArr = s.barArr := rfl
@[simp] theorem modTile_regs (t : Nat) (f : Tile → Tile) : (modTile t f s).regs = s.regs := rfl
@[simp] theorem modTile_tln (t : Nat) (f : Tile → Tile) : (modTile t f s).tln = s.tln := rfl
@[simp] theorem modTile_queues (t : Nat) (f : Tile → Tile) : (modTile t f s).queues = s.queues := rfl
@[simp] theorem modTile_parts (t : Nat) (f : Tile → Tile) : (modTile t f s).parts = s.parts := rfl
@[simp] theorem modTile_launches (t : Nat) (f : Tile → Tile) : (modTile t f s).launches = s.launches := rfl
@[simp] theorem modTile_nextSerial (t : Nat) (f : Tile → Tile) : (modTile t f s).nextSerial = s.nextSerial := rfl
@[simp] theorem modTile_counters (t : Nat) (f : Tile → Tile) : (modTile t f s).counters = s.counters := rfl
@[simp] theorem modTile_ats (t : Nat) (f : Tile → Tile) : (modTile t f s).ats = s.ats := rfl
@[simp] theorem modTile_atsRO (t : Nat) (f : Tile → Tile) : (modTile t f s).atsRO = s.atsRO := rfl
@[simp] theorem modTile_hostRO (t : Nat) (f : Tile → Tile) : (modTile t f s).hostRO = s.hostRO := rfl
@[simp] theorem modTile_hostFails (t : Nat) (f : Tile → Tile) : (modTile t f s).hostFails = s.hostFails := rfl
@[simp] theorem modTile_invs (t : Nat) (f : Tile → Tile) : (modTile t f s).invs = s.invs := rfl
@[simp] theorem modTile_priReqs (t : Nat) (f : Tile → Tile) : (modTile t f s).priReqs = s.priReqs := rfl
@[simp] theorem modTile_shoot (t : Nat) (f : Tile → Tile) : (modTile t f s).shoot = s.shoot := rfl
@[simp] theorem modTile_wdexp (t : Nat) (f : Tile → Tile) : (modTile t f s).wdexp = s.wdexp := rfl
@[simp] theorem modTile_jsel (t : Nat) (f : Tile → Tile) : (modTile t f s).jsel = s.jsel := rfl
@[simp] theorem modTile_jnext (t : Nat) (f : Tile → Tile) : (modTile t f s).jnext = s.jnext := rfl
@[simp] theorem modTile_dumps (t : Nat) (f : Tile → Tile) : (modTile t f s).dumps = s.dumps := rfl
@[simp] theorem modTile_toAccept (t : Nat) (f : Tile → Tile) : (modTile t f s).toAccept = s.toAccept := rfl
@[simp] theorem modTile_replies (t : Nat) (f : Tile → Tile) : (modTile t f s).replies = s.replies := rfl
@[simp] theorem modTile_cancels (t : Nat) (f : Tile → Tile) : (modTile t f s).cancels = s.cancels := rfl
@[simp] theorem modTile_conts (t : Nat) (f : Tile → Tile) : (modTile t f s).conts = s.conts := rfl
@[simp] theorem modTile_agentReqs (t : Nat) (f : Tile → Tile) : (modTile t f s).agentReqs = s.agentReqs := rfl
@[simp] theorem modTile_late (t : Nat) (f : Tile → Tile) : (modTile t f s).late = s.late := rfl
@[simp] theorem modTile_overPend (t : Nat) (f : Tile → Tile) : (modTile t f s).overPend = s.overPend := rfl
@[simp] theorem modTile_nextId (t : Nat) (f : Tile → Tile) : (modTile t f s).nextId = s.nextId := rfl
@[simp] theorem modTile_mbAddr (t : Nat) (f : Tile → Tile) : (modTile t f s).mbAddr = s.mbAddr := rfl
@[simp] theorem modTile_dbgDat (t : Nat) (f : Tile → Tile) : (modTile t f s).dbgDat = s.dbgDat := rfl
@[simp] theorem modTile_dbgSince (t : Nat) (f : Tile → Tile) : (modTile t f s).dbgSince = s.dbgSince := rfl
@[simp] theorem modTile_dbgRun (t : Nat) (f : Tile → Tile) : (modTile t f s).dbgRun = s.dbgRun := rfl
@[simp] theorem modTile_dbgWaited (t : Nat) (f : Tile → Tile) : (modTile t f s).dbgWaited = s.dbgWaited := rfl
@[simp] theorem modTile_dbgPri (t : Nat) (f : Tile → Tile) : (modTile t f s).dbgPri = s.dbgPri := rfl
@[simp] theorem modTile_dbgPriFail (t : Nat) (f : Tile → Tile) : (modTile t f s).dbgPriFail = s.dbgPriFail := rfl
@[simp] theorem modTile_dbgRow (t : Nat) (f : Tile → Tile) : (modTile t f s).dbgRow = s.dbgRow := rfl
@[simp] theorem modTile_msix (t : Nat) (f : Tile → Tile) : (modTile t f s).msix = s.msix := rfl
@[simp] theorem modTile_volts (t : Nat) (f : Tile → Tile) : (modTile t f s).volts = s.volts := rfl
@[simp] theorem modTile_netLast (t : Nat) (f : Tile → Tile) : (modTile t f s).netLast = s.netLast := rfl
@[simp] theorem modTile_netPrev (t : Nat) (f : Tile → Tile) : (modTile t f s).netPrev = s.netPrev := rfl
@[simp] theorem modTile_netUsed (t : Nat) (f : Tile → Tile) : (modTile t f s).netUsed = s.netUsed := rfl
@[simp] theorem modTile_netMaybe (t : Nat) (f : Tile → Tile) : (modTile t f s).netMaybe = s.netMaybe := rfl
@[simp] theorem modTile_netOpen (t : Nat) (f : Tile → Tile) : (modTile t f s).netOpen = s.netOpen := rfl
@[simp] theorem modTile_mgmt (t : Nat) (f : Tile → Tile) : (modTile t f s).mgmt = s.mgmt := rfl
@[simp] theorem modTile_hostData (t : Nat) (f : Tile → Tile) : (modTile t f s).hostData = s.hostData := rfl
@[simp] theorem modTile_hostAccs (t : Nat) (f : Tile → Tile) : (modTile t f s).hostAccs = s.hostAccs := rfl
@[simp] theorem modTile_hist (t : Nat) (f : Tile → Tile) : (modTile t f s).hist = s.hist := rfl
@[simp] theorem modTile_writes (t : Nat) (f : Tile → Tile) : (modTile t f s).writes = s.writes := rfl
@[simp] theorem modTile_asOf (t : Nat) (f : Tile → Tile) : (modTile t f s).asOf = s.asOf := rfl
@[simp] theorem modTile_pick (t : Nat) (f : Tile → Tile) : (modTile t f s).pick = s.pick := rfl
@[simp] theorem modTile_scOrder (t : Nat) (f : Tile → Tile) : (modTile t f s).scOrder = s.scOrder := rfl
@[simp] theorem modTile_pub (t : Nat) (f : Tile → Tile) : (modTile t f s).pub = s.pub := rfl
@[simp] theorem modTile_mailSeen (t : Nat) (f : Tile → Tile) : (modTile t f s).mailSeen = s.mailSeen := rfl
@[simp] theorem modTile_tlnSeen (t : Nat) (f : Tile → Tile) : (modTile t f s).tlnSeen = s.tlnSeen := rfl
@[simp] theorem modTile_agenda (t : Nat) (f : Tile → Tile) : (modTile t f s).agenda = s.agenda := rfl
@[simp] theorem modTile_focusTile (t : Nat) (f : Tile → Tile) : (modTile t f s).focusTile = s.focusTile := rfl
@[simp] theorem modTile_focusCtx (t : Nat) (f : Tile → Tile) : (modTile t f s).focusCtx = s.focusCtx := rfl
@[simp] theorem modTile_grp (t : Nat) (f : Tile → Tile) : (modTile t f s).grp = s.grp := rfl
@[simp] theorem modTile_freeCount (t : Nat) (f : Tile → Tile) : (modTile t f s).freeCount = s.freeCount := rfl

@[simp] theorem setCtx_time (t c : Nat) (y : Ctx) : (setCtx t c y s).time = s.time := rfl
@[simp] theorem setCtx_epoch (t c : Nat) (y : Ctx) : (setCtx t c y s).epoch = s.epoch := rfl
@[simp] theorem setCtx_mem (t c : Nat) (y : Ctx) : (setCtx t c y s).mem = s.mem := rfl
@[simp] theorem setCtx_poison (t c : Nat) (y : Ctx) : (setCtx t c y s).poison = s.poison := rfl
@[simp] theorem setCtx_remap (t c : Nat) (y : Ctx) : (setCtx t c y s).remap = s.remap := rfl
@[simp] theorem setCtx_bars (t c : Nat) (y : Ctx) : (setCtx t c y s).bars = s.bars := rfl
@[simp] theorem setCtx_barArr (t c : Nat) (y : Ctx) : (setCtx t c y s).barArr = s.barArr := rfl
@[simp] theorem setCtx_regs (t c : Nat) (y : Ctx) : (setCtx t c y s).regs = s.regs := rfl
@[simp] theorem setCtx_tln (t c : Nat) (y : Ctx) : (setCtx t c y s).tln = s.tln := rfl
@[simp] theorem setCtx_queues (t c : Nat) (y : Ctx) : (setCtx t c y s).queues = s.queues := rfl
@[simp] theorem setCtx_parts (t c : Nat) (y : Ctx) : (setCtx t c y s).parts = s.parts := rfl
@[simp] theorem setCtx_launches (t c : Nat) (y : Ctx) : (setCtx t c y s).launches = s.launches := rfl
@[simp] theorem setCtx_nextSerial (t c : Nat) (y : Ctx) : (setCtx t c y s).nextSerial = s.nextSerial := rfl
@[simp] theorem setCtx_counters (t c : Nat) (y : Ctx) : (setCtx t c y s).counters = s.counters := rfl
@[simp] theorem setCtx_ats (t c : Nat) (y : Ctx) : (setCtx t c y s).ats = s.ats := rfl
@[simp] theorem setCtx_atsRO (t c : Nat) (y : Ctx) : (setCtx t c y s).atsRO = s.atsRO := rfl
@[simp] theorem setCtx_hostRO (t c : Nat) (y : Ctx) : (setCtx t c y s).hostRO = s.hostRO := rfl
@[simp] theorem setCtx_hostFails (t c : Nat) (y : Ctx) : (setCtx t c y s).hostFails = s.hostFails := rfl
@[simp] theorem setCtx_invs (t c : Nat) (y : Ctx) : (setCtx t c y s).invs = s.invs := rfl
@[simp] theorem setCtx_priReqs (t c : Nat) (y : Ctx) : (setCtx t c y s).priReqs = s.priReqs := rfl
@[simp] theorem setCtx_shoot (t c : Nat) (y : Ctx) : (setCtx t c y s).shoot = s.shoot := rfl
@[simp] theorem setCtx_wdexp (t c : Nat) (y : Ctx) : (setCtx t c y s).wdexp = s.wdexp := rfl
@[simp] theorem setCtx_jsel (t c : Nat) (y : Ctx) : (setCtx t c y s).jsel = s.jsel := rfl
@[simp] theorem setCtx_jnext (t c : Nat) (y : Ctx) : (setCtx t c y s).jnext = s.jnext := rfl
@[simp] theorem setCtx_dumps (t c : Nat) (y : Ctx) : (setCtx t c y s).dumps = s.dumps := rfl
@[simp] theorem setCtx_toAccept (t c : Nat) (y : Ctx) : (setCtx t c y s).toAccept = s.toAccept := rfl
@[simp] theorem setCtx_replies (t c : Nat) (y : Ctx) : (setCtx t c y s).replies = s.replies := rfl
@[simp] theorem setCtx_cancels (t c : Nat) (y : Ctx) : (setCtx t c y s).cancels = s.cancels := rfl
@[simp] theorem setCtx_conts (t c : Nat) (y : Ctx) : (setCtx t c y s).conts = s.conts := rfl
@[simp] theorem setCtx_agentReqs (t c : Nat) (y : Ctx) : (setCtx t c y s).agentReqs = s.agentReqs := rfl
@[simp] theorem setCtx_late (t c : Nat) (y : Ctx) : (setCtx t c y s).late = s.late := rfl
@[simp] theorem setCtx_overPend (t c : Nat) (y : Ctx) : (setCtx t c y s).overPend = s.overPend := rfl
@[simp] theorem setCtx_nextId (t c : Nat) (y : Ctx) : (setCtx t c y s).nextId = s.nextId := rfl
@[simp] theorem setCtx_mbAddr (t c : Nat) (y : Ctx) : (setCtx t c y s).mbAddr = s.mbAddr := rfl
@[simp] theorem setCtx_dbgDat (t c : Nat) (y : Ctx) : (setCtx t c y s).dbgDat = s.dbgDat := rfl
@[simp] theorem setCtx_dbgSince (t c : Nat) (y : Ctx) : (setCtx t c y s).dbgSince = s.dbgSince := rfl
@[simp] theorem setCtx_dbgRun (t c : Nat) (y : Ctx) : (setCtx t c y s).dbgRun = s.dbgRun := rfl
@[simp] theorem setCtx_dbgWaited (t c : Nat) (y : Ctx) : (setCtx t c y s).dbgWaited = s.dbgWaited := rfl
@[simp] theorem setCtx_dbgPri (t c : Nat) (y : Ctx) : (setCtx t c y s).dbgPri = s.dbgPri := rfl
@[simp] theorem setCtx_dbgPriFail (t c : Nat) (y : Ctx) : (setCtx t c y s).dbgPriFail = s.dbgPriFail := rfl
@[simp] theorem setCtx_dbgRow (t c : Nat) (y : Ctx) : (setCtx t c y s).dbgRow = s.dbgRow := rfl
@[simp] theorem setCtx_msix (t c : Nat) (y : Ctx) : (setCtx t c y s).msix = s.msix := rfl
@[simp] theorem setCtx_volts (t c : Nat) (y : Ctx) : (setCtx t c y s).volts = s.volts := rfl
@[simp] theorem setCtx_netLast (t c : Nat) (y : Ctx) : (setCtx t c y s).netLast = s.netLast := rfl
@[simp] theorem setCtx_netPrev (t c : Nat) (y : Ctx) : (setCtx t c y s).netPrev = s.netPrev := rfl
@[simp] theorem setCtx_netUsed (t c : Nat) (y : Ctx) : (setCtx t c y s).netUsed = s.netUsed := rfl
@[simp] theorem setCtx_netMaybe (t c : Nat) (y : Ctx) : (setCtx t c y s).netMaybe = s.netMaybe := rfl
@[simp] theorem setCtx_netOpen (t c : Nat) (y : Ctx) : (setCtx t c y s).netOpen = s.netOpen := rfl
@[simp] theorem setCtx_mgmt (t c : Nat) (y : Ctx) : (setCtx t c y s).mgmt = s.mgmt := rfl
@[simp] theorem setCtx_hostData (t c : Nat) (y : Ctx) : (setCtx t c y s).hostData = s.hostData := rfl
@[simp] theorem setCtx_hostAccs (t c : Nat) (y : Ctx) : (setCtx t c y s).hostAccs = s.hostAccs := rfl
@[simp] theorem setCtx_hist (t c : Nat) (y : Ctx) : (setCtx t c y s).hist = s.hist := rfl
@[simp] theorem setCtx_writes (t c : Nat) (y : Ctx) : (setCtx t c y s).writes = s.writes := rfl
@[simp] theorem setCtx_asOf (t c : Nat) (y : Ctx) : (setCtx t c y s).asOf = s.asOf := rfl
@[simp] theorem setCtx_pick (t c : Nat) (y : Ctx) : (setCtx t c y s).pick = s.pick := rfl
@[simp] theorem setCtx_scOrder (t c : Nat) (y : Ctx) : (setCtx t c y s).scOrder = s.scOrder := rfl
@[simp] theorem setCtx_pub (t c : Nat) (y : Ctx) : (setCtx t c y s).pub = s.pub := rfl
@[simp] theorem setCtx_mailSeen (t c : Nat) (y : Ctx) : (setCtx t c y s).mailSeen = s.mailSeen := rfl
@[simp] theorem setCtx_tlnSeen (t c : Nat) (y : Ctx) : (setCtx t c y s).tlnSeen = s.tlnSeen := rfl
@[simp] theorem setCtx_agenda (t c : Nat) (y : Ctx) : (setCtx t c y s).agenda = s.agenda := rfl
@[simp] theorem setCtx_focusTile (t c : Nat) (y : Ctx) : (setCtx t c y s).focusTile = s.focusTile := rfl
@[simp] theorem setCtx_focusCtx (t c : Nat) (y : Ctx) : (setCtx t c y s).focusCtx = s.focusCtx := rfl
@[simp] theorem setCtx_grp (t c : Nat) (y : Ctx) : (setCtx t c y s).grp = s.grp := rfl
@[simp] theorem setCtx_freeCount (t c : Nat) (y : Ctx) : (setCtx t c y s).freeCount = s.freeCount := rfl

@[simp] theorem modCtx_time (t c : Nat) (f : Ctx → Ctx) : (modCtx t c f s).time = s.time := rfl
@[simp] theorem modCtx_epoch (t c : Nat) (f : Ctx → Ctx) : (modCtx t c f s).epoch = s.epoch := rfl
@[simp] theorem modCtx_mem (t c : Nat) (f : Ctx → Ctx) : (modCtx t c f s).mem = s.mem := rfl
@[simp] theorem modCtx_poison (t c : Nat) (f : Ctx → Ctx) : (modCtx t c f s).poison = s.poison := rfl
@[simp] theorem modCtx_remap (t c : Nat) (f : Ctx → Ctx) : (modCtx t c f s).remap = s.remap := rfl
@[simp] theorem modCtx_bars (t c : Nat) (f : Ctx → Ctx) : (modCtx t c f s).bars = s.bars := rfl
@[simp] theorem modCtx_barArr (t c : Nat) (f : Ctx → Ctx) : (modCtx t c f s).barArr = s.barArr := rfl
@[simp] theorem modCtx_regs (t c : Nat) (f : Ctx → Ctx) : (modCtx t c f s).regs = s.regs := rfl
@[simp] theorem modCtx_tln (t c : Nat) (f : Ctx → Ctx) : (modCtx t c f s).tln = s.tln := rfl
@[simp] theorem modCtx_queues (t c : Nat) (f : Ctx → Ctx) : (modCtx t c f s).queues = s.queues := rfl
@[simp] theorem modCtx_parts (t c : Nat) (f : Ctx → Ctx) : (modCtx t c f s).parts = s.parts := rfl
@[simp] theorem modCtx_launches (t c : Nat) (f : Ctx → Ctx) : (modCtx t c f s).launches = s.launches := rfl
@[simp] theorem modCtx_nextSerial (t c : Nat) (f : Ctx → Ctx) : (modCtx t c f s).nextSerial = s.nextSerial := rfl
@[simp] theorem modCtx_counters (t c : Nat) (f : Ctx → Ctx) : (modCtx t c f s).counters = s.counters := rfl
@[simp] theorem modCtx_ats (t c : Nat) (f : Ctx → Ctx) : (modCtx t c f s).ats = s.ats := rfl
@[simp] theorem modCtx_atsRO (t c : Nat) (f : Ctx → Ctx) : (modCtx t c f s).atsRO = s.atsRO := rfl
@[simp] theorem modCtx_hostRO (t c : Nat) (f : Ctx → Ctx) : (modCtx t c f s).hostRO = s.hostRO := rfl
@[simp] theorem modCtx_hostFails (t c : Nat) (f : Ctx → Ctx) : (modCtx t c f s).hostFails = s.hostFails := rfl
@[simp] theorem modCtx_invs (t c : Nat) (f : Ctx → Ctx) : (modCtx t c f s).invs = s.invs := rfl
@[simp] theorem modCtx_priReqs (t c : Nat) (f : Ctx → Ctx) : (modCtx t c f s).priReqs = s.priReqs := rfl
@[simp] theorem modCtx_shoot (t c : Nat) (f : Ctx → Ctx) : (modCtx t c f s).shoot = s.shoot := rfl
@[simp] theorem modCtx_wdexp (t c : Nat) (f : Ctx → Ctx) : (modCtx t c f s).wdexp = s.wdexp := rfl
@[simp] theorem modCtx_jsel (t c : Nat) (f : Ctx → Ctx) : (modCtx t c f s).jsel = s.jsel := rfl
@[simp] theorem modCtx_jnext (t c : Nat) (f : Ctx → Ctx) : (modCtx t c f s).jnext = s.jnext := rfl
@[simp] theorem modCtx_dumps (t c : Nat) (f : Ctx → Ctx) : (modCtx t c f s).dumps = s.dumps := rfl
@[simp] theorem modCtx_toAccept (t c : Nat) (f : Ctx → Ctx) : (modCtx t c f s).toAccept = s.toAccept := rfl
@[simp] theorem modCtx_replies (t c : Nat) (f : Ctx → Ctx) : (modCtx t c f s).replies = s.replies := rfl
@[simp] theorem modCtx_cancels (t c : Nat) (f : Ctx → Ctx) : (modCtx t c f s).cancels = s.cancels := rfl
@[simp] theorem modCtx_conts (t c : Nat) (f : Ctx → Ctx) : (modCtx t c f s).conts = s.conts := rfl
@[simp] theorem modCtx_agentReqs (t c : Nat) (f : Ctx → Ctx) : (modCtx t c f s).agentReqs = s.agentReqs := rfl
@[simp] theorem modCtx_late (t c : Nat) (f : Ctx → Ctx) : (modCtx t c f s).late = s.late := rfl
@[simp] theorem modCtx_overPend (t c : Nat) (f : Ctx → Ctx) : (modCtx t c f s).overPend = s.overPend := rfl
@[simp] theorem modCtx_nextId (t c : Nat) (f : Ctx → Ctx) : (modCtx t c f s).nextId = s.nextId := rfl
@[simp] theorem modCtx_mbAddr (t c : Nat) (f : Ctx → Ctx) : (modCtx t c f s).mbAddr = s.mbAddr := rfl
@[simp] theorem modCtx_dbgDat (t c : Nat) (f : Ctx → Ctx) : (modCtx t c f s).dbgDat = s.dbgDat := rfl
@[simp] theorem modCtx_dbgSince (t c : Nat) (f : Ctx → Ctx) : (modCtx t c f s).dbgSince = s.dbgSince := rfl
@[simp] theorem modCtx_dbgRun (t c : Nat) (f : Ctx → Ctx) : (modCtx t c f s).dbgRun = s.dbgRun := rfl
@[simp] theorem modCtx_dbgWaited (t c : Nat) (f : Ctx → Ctx) : (modCtx t c f s).dbgWaited = s.dbgWaited := rfl
@[simp] theorem modCtx_dbgPri (t c : Nat) (f : Ctx → Ctx) : (modCtx t c f s).dbgPri = s.dbgPri := rfl
@[simp] theorem modCtx_dbgPriFail (t c : Nat) (f : Ctx → Ctx) : (modCtx t c f s).dbgPriFail = s.dbgPriFail := rfl
@[simp] theorem modCtx_dbgRow (t c : Nat) (f : Ctx → Ctx) : (modCtx t c f s).dbgRow = s.dbgRow := rfl
@[simp] theorem modCtx_msix (t c : Nat) (f : Ctx → Ctx) : (modCtx t c f s).msix = s.msix := rfl
@[simp] theorem modCtx_volts (t c : Nat) (f : Ctx → Ctx) : (modCtx t c f s).volts = s.volts := rfl
@[simp] theorem modCtx_netLast (t c : Nat) (f : Ctx → Ctx) : (modCtx t c f s).netLast = s.netLast := rfl
@[simp] theorem modCtx_netPrev (t c : Nat) (f : Ctx → Ctx) : (modCtx t c f s).netPrev = s.netPrev := rfl
@[simp] theorem modCtx_netUsed (t c : Nat) (f : Ctx → Ctx) : (modCtx t c f s).netUsed = s.netUsed := rfl
@[simp] theorem modCtx_netMaybe (t c : Nat) (f : Ctx → Ctx) : (modCtx t c f s).netMaybe = s.netMaybe := rfl
@[simp] theorem modCtx_netOpen (t c : Nat) (f : Ctx → Ctx) : (modCtx t c f s).netOpen = s.netOpen := rfl
@[simp] theorem modCtx_mgmt (t c : Nat) (f : Ctx → Ctx) : (modCtx t c f s).mgmt = s.mgmt := rfl
@[simp] theorem modCtx_hostData (t c : Nat) (f : Ctx → Ctx) : (modCtx t c f s).hostData = s.hostData := rfl
@[simp] theorem modCtx_hostAccs (t c : Nat) (f : Ctx → Ctx) : (modCtx t c f s).hostAccs = s.hostAccs := rfl
@[simp] theorem modCtx_hist (t c : Nat) (f : Ctx → Ctx) : (modCtx t c f s).hist = s.hist := rfl
@[simp] theorem modCtx_writes (t c : Nat) (f : Ctx → Ctx) : (modCtx t c f s).writes = s.writes := rfl
@[simp] theorem modCtx_asOf (t c : Nat) (f : Ctx → Ctx) : (modCtx t c f s).asOf = s.asOf := rfl
@[simp] theorem modCtx_pick (t c : Nat) (f : Ctx → Ctx) : (modCtx t c f s).pick = s.pick := rfl
@[simp] theorem modCtx_scOrder (t c : Nat) (f : Ctx → Ctx) : (modCtx t c f s).scOrder = s.scOrder := rfl
@[simp] theorem modCtx_pub (t c : Nat) (f : Ctx → Ctx) : (modCtx t c f s).pub = s.pub := rfl
@[simp] theorem modCtx_mailSeen (t c : Nat) (f : Ctx → Ctx) : (modCtx t c f s).mailSeen = s.mailSeen := rfl
@[simp] theorem modCtx_tlnSeen (t c : Nat) (f : Ctx → Ctx) : (modCtx t c f s).tlnSeen = s.tlnSeen := rfl
@[simp] theorem modCtx_agenda (t c : Nat) (f : Ctx → Ctx) : (modCtx t c f s).agenda = s.agenda := rfl
@[simp] theorem modCtx_focusTile (t c : Nat) (f : Ctx → Ctx) : (modCtx t c f s).focusTile = s.focusTile := rfl
@[simp] theorem modCtx_focusCtx (t c : Nat) (f : Ctx → Ctx) : (modCtx t c f s).focusCtx = s.focusCtx := rfl
@[simp] theorem modCtx_grp (t c : Nat) (f : Ctx → Ctx) : (modCtx t c f s).grp = s.grp := rfl
@[simp] theorem modCtx_freeCount (t c : Nat) (f : Ctx → Ctx) : (modCtx t c f s).freeCount = s.freeCount := rfl

@[simp] theorem modCore_time (t k : Nat) (f : CoreSt → CoreSt) : (modCore t k f s).time = s.time := rfl
@[simp] theorem modCore_epoch (t k : Nat) (f : CoreSt → CoreSt) : (modCore t k f s).epoch = s.epoch := rfl
@[simp] theorem modCore_mem (t k : Nat) (f : CoreSt → CoreSt) : (modCore t k f s).mem = s.mem := rfl
@[simp] theorem modCore_poison (t k : Nat) (f : CoreSt → CoreSt) : (modCore t k f s).poison = s.poison := rfl
@[simp] theorem modCore_remap (t k : Nat) (f : CoreSt → CoreSt) : (modCore t k f s).remap = s.remap := rfl
@[simp] theorem modCore_bars (t k : Nat) (f : CoreSt → CoreSt) : (modCore t k f s).bars = s.bars := rfl
@[simp] theorem modCore_barArr (t k : Nat) (f : CoreSt → CoreSt) : (modCore t k f s).barArr = s.barArr := rfl
@[simp] theorem modCore_regs (t k : Nat) (f : CoreSt → CoreSt) : (modCore t k f s).regs = s.regs := rfl
@[simp] theorem modCore_tln (t k : Nat) (f : CoreSt → CoreSt) : (modCore t k f s).tln = s.tln := rfl
@[simp] theorem modCore_queues (t k : Nat) (f : CoreSt → CoreSt) : (modCore t k f s).queues = s.queues := rfl
@[simp] theorem modCore_parts (t k : Nat) (f : CoreSt → CoreSt) : (modCore t k f s).parts = s.parts := rfl
@[simp] theorem modCore_launches (t k : Nat) (f : CoreSt → CoreSt) : (modCore t k f s).launches = s.launches := rfl
@[simp] theorem modCore_nextSerial (t k : Nat) (f : CoreSt → CoreSt) : (modCore t k f s).nextSerial = s.nextSerial := rfl
@[simp] theorem modCore_counters (t k : Nat) (f : CoreSt → CoreSt) : (modCore t k f s).counters = s.counters := rfl
@[simp] theorem modCore_ats (t k : Nat) (f : CoreSt → CoreSt) : (modCore t k f s).ats = s.ats := rfl
@[simp] theorem modCore_atsRO (t k : Nat) (f : CoreSt → CoreSt) : (modCore t k f s).atsRO = s.atsRO := rfl
@[simp] theorem modCore_hostRO (t k : Nat) (f : CoreSt → CoreSt) : (modCore t k f s).hostRO = s.hostRO := rfl
@[simp] theorem modCore_hostFails (t k : Nat) (f : CoreSt → CoreSt) : (modCore t k f s).hostFails = s.hostFails := rfl
@[simp] theorem modCore_invs (t k : Nat) (f : CoreSt → CoreSt) : (modCore t k f s).invs = s.invs := rfl
@[simp] theorem modCore_priReqs (t k : Nat) (f : CoreSt → CoreSt) : (modCore t k f s).priReqs = s.priReqs := rfl
@[simp] theorem modCore_shoot (t k : Nat) (f : CoreSt → CoreSt) : (modCore t k f s).shoot = s.shoot := rfl
@[simp] theorem modCore_wdexp (t k : Nat) (f : CoreSt → CoreSt) : (modCore t k f s).wdexp = s.wdexp := rfl
@[simp] theorem modCore_jsel (t k : Nat) (f : CoreSt → CoreSt) : (modCore t k f s).jsel = s.jsel := rfl
@[simp] theorem modCore_jnext (t k : Nat) (f : CoreSt → CoreSt) : (modCore t k f s).jnext = s.jnext := rfl
@[simp] theorem modCore_dumps (t k : Nat) (f : CoreSt → CoreSt) : (modCore t k f s).dumps = s.dumps := rfl
@[simp] theorem modCore_toAccept (t k : Nat) (f : CoreSt → CoreSt) : (modCore t k f s).toAccept = s.toAccept := rfl
@[simp] theorem modCore_replies (t k : Nat) (f : CoreSt → CoreSt) : (modCore t k f s).replies = s.replies := rfl
@[simp] theorem modCore_cancels (t k : Nat) (f : CoreSt → CoreSt) : (modCore t k f s).cancels = s.cancels := rfl
@[simp] theorem modCore_conts (t k : Nat) (f : CoreSt → CoreSt) : (modCore t k f s).conts = s.conts := rfl
@[simp] theorem modCore_agentReqs (t k : Nat) (f : CoreSt → CoreSt) : (modCore t k f s).agentReqs = s.agentReqs := rfl
@[simp] theorem modCore_late (t k : Nat) (f : CoreSt → CoreSt) : (modCore t k f s).late = s.late := rfl
@[simp] theorem modCore_overPend (t k : Nat) (f : CoreSt → CoreSt) : (modCore t k f s).overPend = s.overPend := rfl
@[simp] theorem modCore_nextId (t k : Nat) (f : CoreSt → CoreSt) : (modCore t k f s).nextId = s.nextId := rfl
@[simp] theorem modCore_mbAddr (t k : Nat) (f : CoreSt → CoreSt) : (modCore t k f s).mbAddr = s.mbAddr := rfl
@[simp] theorem modCore_dbgDat (t k : Nat) (f : CoreSt → CoreSt) : (modCore t k f s).dbgDat = s.dbgDat := rfl
@[simp] theorem modCore_dbgSince (t k : Nat) (f : CoreSt → CoreSt) : (modCore t k f s).dbgSince = s.dbgSince := rfl
@[simp] theorem modCore_dbgRun (t k : Nat) (f : CoreSt → CoreSt) : (modCore t k f s).dbgRun = s.dbgRun := rfl
@[simp] theorem modCore_dbgWaited (t k : Nat) (f : CoreSt → CoreSt) : (modCore t k f s).dbgWaited = s.dbgWaited := rfl
@[simp] theorem modCore_dbgPri (t k : Nat) (f : CoreSt → CoreSt) : (modCore t k f s).dbgPri = s.dbgPri := rfl
@[simp] theorem modCore_dbgPriFail (t k : Nat) (f : CoreSt → CoreSt) : (modCore t k f s).dbgPriFail = s.dbgPriFail := rfl
@[simp] theorem modCore_dbgRow (t k : Nat) (f : CoreSt → CoreSt) : (modCore t k f s).dbgRow = s.dbgRow := rfl
@[simp] theorem modCore_msix (t k : Nat) (f : CoreSt → CoreSt) : (modCore t k f s).msix = s.msix := rfl
@[simp] theorem modCore_volts (t k : Nat) (f : CoreSt → CoreSt) : (modCore t k f s).volts = s.volts := rfl
@[simp] theorem modCore_netLast (t k : Nat) (f : CoreSt → CoreSt) : (modCore t k f s).netLast = s.netLast := rfl
@[simp] theorem modCore_netPrev (t k : Nat) (f : CoreSt → CoreSt) : (modCore t k f s).netPrev = s.netPrev := rfl
@[simp] theorem modCore_netUsed (t k : Nat) (f : CoreSt → CoreSt) : (modCore t k f s).netUsed = s.netUsed := rfl
@[simp] theorem modCore_netMaybe (t k : Nat) (f : CoreSt → CoreSt) : (modCore t k f s).netMaybe = s.netMaybe := rfl
@[simp] theorem modCore_netOpen (t k : Nat) (f : CoreSt → CoreSt) : (modCore t k f s).netOpen = s.netOpen := rfl
@[simp] theorem modCore_mgmt (t k : Nat) (f : CoreSt → CoreSt) : (modCore t k f s).mgmt = s.mgmt := rfl
@[simp] theorem modCore_hostData (t k : Nat) (f : CoreSt → CoreSt) : (modCore t k f s).hostData = s.hostData := rfl
@[simp] theorem modCore_hostAccs (t k : Nat) (f : CoreSt → CoreSt) : (modCore t k f s).hostAccs = s.hostAccs := rfl
@[simp] theorem modCore_hist (t k : Nat) (f : CoreSt → CoreSt) : (modCore t k f s).hist = s.hist := rfl
@[simp] theorem modCore_writes (t k : Nat) (f : CoreSt → CoreSt) : (modCore t k f s).writes = s.writes := rfl
@[simp] theorem modCore_asOf (t k : Nat) (f : CoreSt → CoreSt) : (modCore t k f s).asOf = s.asOf := rfl
@[simp] theorem modCore_pick (t k : Nat) (f : CoreSt → CoreSt) : (modCore t k f s).pick = s.pick := rfl
@[simp] theorem modCore_scOrder (t k : Nat) (f : CoreSt → CoreSt) : (modCore t k f s).scOrder = s.scOrder := rfl
@[simp] theorem modCore_pub (t k : Nat) (f : CoreSt → CoreSt) : (modCore t k f s).pub = s.pub := rfl
@[simp] theorem modCore_mailSeen (t k : Nat) (f : CoreSt → CoreSt) : (modCore t k f s).mailSeen = s.mailSeen := rfl
@[simp] theorem modCore_tlnSeen (t k : Nat) (f : CoreSt → CoreSt) : (modCore t k f s).tlnSeen = s.tlnSeen := rfl
@[simp] theorem modCore_agenda (t k : Nat) (f : CoreSt → CoreSt) : (modCore t k f s).agenda = s.agenda := rfl
@[simp] theorem modCore_focusTile (t k : Nat) (f : CoreSt → CoreSt) : (modCore t k f s).focusTile = s.focusTile := rfl
@[simp] theorem modCore_focusCtx (t k : Nat) (f : CoreSt → CoreSt) : (modCore t k f s).focusCtx = s.focusCtx := rfl
@[simp] theorem modCore_grp (t k : Nat) (f : CoreSt → CoreSt) : (modCore t k f s).grp = s.grp := rfl
@[simp] theorem modCore_freeCount (t k : Nat) (f : CoreSt → CoreSt) : (modCore t k f s).freeCount = s.freeCount := rfl

@[simp] theorem modCur_time (f : Ctx → Ctx) : (modCur f s).time = s.time := rfl
@[simp] theorem modCur_epoch (f : Ctx → Ctx) : (modCur f s).epoch = s.epoch := rfl
@[simp] theorem modCur_mem (f : Ctx → Ctx) : (modCur f s).mem = s.mem := rfl
@[simp] theorem modCur_poison (f : Ctx → Ctx) : (modCur f s).poison = s.poison := rfl
@[simp] theorem modCur_remap (f : Ctx → Ctx) : (modCur f s).remap = s.remap := rfl
@[simp] theorem modCur_bars (f : Ctx → Ctx) : (modCur f s).bars = s.bars := rfl
@[simp] theorem modCur_barArr (f : Ctx → Ctx) : (modCur f s).barArr = s.barArr := rfl
@[simp] theorem modCur_regs (f : Ctx → Ctx) : (modCur f s).regs = s.regs := rfl
@[simp] theorem modCur_tln (f : Ctx → Ctx) : (modCur f s).tln = s.tln := rfl
@[simp] theorem modCur_queues (f : Ctx → Ctx) : (modCur f s).queues = s.queues := rfl
@[simp] theorem modCur_parts (f : Ctx → Ctx) : (modCur f s).parts = s.parts := rfl
@[simp] theorem modCur_launches (f : Ctx → Ctx) : (modCur f s).launches = s.launches := rfl
@[simp] theorem modCur_nextSerial (f : Ctx → Ctx) : (modCur f s).nextSerial = s.nextSerial := rfl
@[simp] theorem modCur_counters (f : Ctx → Ctx) : (modCur f s).counters = s.counters := rfl
@[simp] theorem modCur_ats (f : Ctx → Ctx) : (modCur f s).ats = s.ats := rfl
@[simp] theorem modCur_atsRO (f : Ctx → Ctx) : (modCur f s).atsRO = s.atsRO := rfl
@[simp] theorem modCur_hostRO (f : Ctx → Ctx) : (modCur f s).hostRO = s.hostRO := rfl
@[simp] theorem modCur_hostFails (f : Ctx → Ctx) : (modCur f s).hostFails = s.hostFails := rfl
@[simp] theorem modCur_invs (f : Ctx → Ctx) : (modCur f s).invs = s.invs := rfl
@[simp] theorem modCur_priReqs (f : Ctx → Ctx) : (modCur f s).priReqs = s.priReqs := rfl
@[simp] theorem modCur_shoot (f : Ctx → Ctx) : (modCur f s).shoot = s.shoot := rfl
@[simp] theorem modCur_wdexp (f : Ctx → Ctx) : (modCur f s).wdexp = s.wdexp := rfl
@[simp] theorem modCur_jsel (f : Ctx → Ctx) : (modCur f s).jsel = s.jsel := rfl
@[simp] theorem modCur_jnext (f : Ctx → Ctx) : (modCur f s).jnext = s.jnext := rfl
@[simp] theorem modCur_dumps (f : Ctx → Ctx) : (modCur f s).dumps = s.dumps := rfl
@[simp] theorem modCur_toAccept (f : Ctx → Ctx) : (modCur f s).toAccept = s.toAccept := rfl
@[simp] theorem modCur_replies (f : Ctx → Ctx) : (modCur f s).replies = s.replies := rfl
@[simp] theorem modCur_cancels (f : Ctx → Ctx) : (modCur f s).cancels = s.cancels := rfl
@[simp] theorem modCur_conts (f : Ctx → Ctx) : (modCur f s).conts = s.conts := rfl
@[simp] theorem modCur_agentReqs (f : Ctx → Ctx) : (modCur f s).agentReqs = s.agentReqs := rfl
@[simp] theorem modCur_late (f : Ctx → Ctx) : (modCur f s).late = s.late := rfl
@[simp] theorem modCur_overPend (f : Ctx → Ctx) : (modCur f s).overPend = s.overPend := rfl
@[simp] theorem modCur_nextId (f : Ctx → Ctx) : (modCur f s).nextId = s.nextId := rfl
@[simp] theorem modCur_mbAddr (f : Ctx → Ctx) : (modCur f s).mbAddr = s.mbAddr := rfl
@[simp] theorem modCur_dbgDat (f : Ctx → Ctx) : (modCur f s).dbgDat = s.dbgDat := rfl
@[simp] theorem modCur_dbgSince (f : Ctx → Ctx) : (modCur f s).dbgSince = s.dbgSince := rfl
@[simp] theorem modCur_dbgRun (f : Ctx → Ctx) : (modCur f s).dbgRun = s.dbgRun := rfl
@[simp] theorem modCur_dbgWaited (f : Ctx → Ctx) : (modCur f s).dbgWaited = s.dbgWaited := rfl
@[simp] theorem modCur_dbgPri (f : Ctx → Ctx) : (modCur f s).dbgPri = s.dbgPri := rfl
@[simp] theorem modCur_dbgPriFail (f : Ctx → Ctx) : (modCur f s).dbgPriFail = s.dbgPriFail := rfl
@[simp] theorem modCur_dbgRow (f : Ctx → Ctx) : (modCur f s).dbgRow = s.dbgRow := rfl
@[simp] theorem modCur_msix (f : Ctx → Ctx) : (modCur f s).msix = s.msix := rfl
@[simp] theorem modCur_volts (f : Ctx → Ctx) : (modCur f s).volts = s.volts := rfl
@[simp] theorem modCur_netLast (f : Ctx → Ctx) : (modCur f s).netLast = s.netLast := rfl
@[simp] theorem modCur_netPrev (f : Ctx → Ctx) : (modCur f s).netPrev = s.netPrev := rfl
@[simp] theorem modCur_netUsed (f : Ctx → Ctx) : (modCur f s).netUsed = s.netUsed := rfl
@[simp] theorem modCur_netMaybe (f : Ctx → Ctx) : (modCur f s).netMaybe = s.netMaybe := rfl
@[simp] theorem modCur_netOpen (f : Ctx → Ctx) : (modCur f s).netOpen = s.netOpen := rfl
@[simp] theorem modCur_mgmt (f : Ctx → Ctx) : (modCur f s).mgmt = s.mgmt := rfl
@[simp] theorem modCur_hostData (f : Ctx → Ctx) : (modCur f s).hostData = s.hostData := rfl
@[simp] theorem modCur_hostAccs (f : Ctx → Ctx) : (modCur f s).hostAccs = s.hostAccs := rfl
@[simp] theorem modCur_hist (f : Ctx → Ctx) : (modCur f s).hist = s.hist := rfl
@[simp] theorem modCur_writes (f : Ctx → Ctx) : (modCur f s).writes = s.writes := rfl
@[simp] theorem modCur_asOf (f : Ctx → Ctx) : (modCur f s).asOf = s.asOf := rfl
@[simp] theorem modCur_pick (f : Ctx → Ctx) : (modCur f s).pick = s.pick := rfl
@[simp] theorem modCur_scOrder (f : Ctx → Ctx) : (modCur f s).scOrder = s.scOrder := rfl
@[simp] theorem modCur_pub (f : Ctx → Ctx) : (modCur f s).pub = s.pub := rfl
@[simp] theorem modCur_mailSeen (f : Ctx → Ctx) : (modCur f s).mailSeen = s.mailSeen := rfl
@[simp] theorem modCur_tlnSeen (f : Ctx → Ctx) : (modCur f s).tlnSeen = s.tlnSeen := rfl
@[simp] theorem modCur_agenda (f : Ctx → Ctx) : (modCur f s).agenda = s.agenda := rfl
@[simp] theorem modCur_focusTile (f : Ctx → Ctx) : (modCur f s).focusTile = s.focusTile := rfl
@[simp] theorem modCur_focusCtx (f : Ctx → Ctx) : (modCur f s).focusCtx = s.focusCtx := rfl
@[simp] theorem modCur_grp (f : Ctx → Ctx) : (modCur f s).grp = s.grp := rfl
@[simp] theorem modCur_freeCount (f : Ctx → Ctx) : (modCur f s).freeCount = s.freeCount := rfl

@[simp] theorem modCurTile_time (f : Tile → Tile) : (modCurTile f s).time = s.time := rfl
@[simp] theorem modCurTile_epoch (f : Tile → Tile) : (modCurTile f s).epoch = s.epoch := rfl
@[simp] theorem modCurTile_mem (f : Tile → Tile) : (modCurTile f s).mem = s.mem := rfl
@[simp] theorem modCurTile_poison (f : Tile → Tile) : (modCurTile f s).poison = s.poison := rfl
@[simp] theorem modCurTile_remap (f : Tile → Tile) : (modCurTile f s).remap = s.remap := rfl
@[simp] theorem modCurTile_bars (f : Tile → Tile) : (modCurTile f s).bars = s.bars := rfl
@[simp] theorem modCurTile_barArr (f : Tile → Tile) : (modCurTile f s).barArr = s.barArr := rfl
@[simp] theorem modCurTile_regs (f : Tile → Tile) : (modCurTile f s).regs = s.regs := rfl
@[simp] theorem modCurTile_tln (f : Tile → Tile) : (modCurTile f s).tln = s.tln := rfl
@[simp] theorem modCurTile_queues (f : Tile → Tile) : (modCurTile f s).queues = s.queues := rfl
@[simp] theorem modCurTile_parts (f : Tile → Tile) : (modCurTile f s).parts = s.parts := rfl
@[simp] theorem modCurTile_launches (f : Tile → Tile) : (modCurTile f s).launches = s.launches := rfl
@[simp] theorem modCurTile_nextSerial (f : Tile → Tile) : (modCurTile f s).nextSerial = s.nextSerial := rfl
@[simp] theorem modCurTile_counters (f : Tile → Tile) : (modCurTile f s).counters = s.counters := rfl
@[simp] theorem modCurTile_ats (f : Tile → Tile) : (modCurTile f s).ats = s.ats := rfl
@[simp] theorem modCurTile_atsRO (f : Tile → Tile) : (modCurTile f s).atsRO = s.atsRO := rfl
@[simp] theorem modCurTile_hostRO (f : Tile → Tile) : (modCurTile f s).hostRO = s.hostRO := rfl
@[simp] theorem modCurTile_hostFails (f : Tile → Tile) : (modCurTile f s).hostFails = s.hostFails := rfl
@[simp] theorem modCurTile_invs (f : Tile → Tile) : (modCurTile f s).invs = s.invs := rfl
@[simp] theorem modCurTile_priReqs (f : Tile → Tile) : (modCurTile f s).priReqs = s.priReqs := rfl
@[simp] theorem modCurTile_shoot (f : Tile → Tile) : (modCurTile f s).shoot = s.shoot := rfl
@[simp] theorem modCurTile_wdexp (f : Tile → Tile) : (modCurTile f s).wdexp = s.wdexp := rfl
@[simp] theorem modCurTile_jsel (f : Tile → Tile) : (modCurTile f s).jsel = s.jsel := rfl
@[simp] theorem modCurTile_jnext (f : Tile → Tile) : (modCurTile f s).jnext = s.jnext := rfl
@[simp] theorem modCurTile_dumps (f : Tile → Tile) : (modCurTile f s).dumps = s.dumps := rfl
@[simp] theorem modCurTile_toAccept (f : Tile → Tile) : (modCurTile f s).toAccept = s.toAccept := rfl
@[simp] theorem modCurTile_replies (f : Tile → Tile) : (modCurTile f s).replies = s.replies := rfl
@[simp] theorem modCurTile_cancels (f : Tile → Tile) : (modCurTile f s).cancels = s.cancels := rfl
@[simp] theorem modCurTile_conts (f : Tile → Tile) : (modCurTile f s).conts = s.conts := rfl
@[simp] theorem modCurTile_agentReqs (f : Tile → Tile) : (modCurTile f s).agentReqs = s.agentReqs := rfl
@[simp] theorem modCurTile_late (f : Tile → Tile) : (modCurTile f s).late = s.late := rfl
@[simp] theorem modCurTile_overPend (f : Tile → Tile) : (modCurTile f s).overPend = s.overPend := rfl
@[simp] theorem modCurTile_nextId (f : Tile → Tile) : (modCurTile f s).nextId = s.nextId := rfl
@[simp] theorem modCurTile_mbAddr (f : Tile → Tile) : (modCurTile f s).mbAddr = s.mbAddr := rfl
@[simp] theorem modCurTile_dbgDat (f : Tile → Tile) : (modCurTile f s).dbgDat = s.dbgDat := rfl
@[simp] theorem modCurTile_dbgSince (f : Tile → Tile) : (modCurTile f s).dbgSince = s.dbgSince := rfl
@[simp] theorem modCurTile_dbgRun (f : Tile → Tile) : (modCurTile f s).dbgRun = s.dbgRun := rfl
@[simp] theorem modCurTile_dbgWaited (f : Tile → Tile) : (modCurTile f s).dbgWaited = s.dbgWaited := rfl
@[simp] theorem modCurTile_dbgPri (f : Tile → Tile) : (modCurTile f s).dbgPri = s.dbgPri := rfl
@[simp] theorem modCurTile_dbgPriFail (f : Tile → Tile) : (modCurTile f s).dbgPriFail = s.dbgPriFail := rfl
@[simp] theorem modCurTile_dbgRow (f : Tile → Tile) : (modCurTile f s).dbgRow = s.dbgRow := rfl
@[simp] theorem modCurTile_msix (f : Tile → Tile) : (modCurTile f s).msix = s.msix := rfl
@[simp] theorem modCurTile_volts (f : Tile → Tile) : (modCurTile f s).volts = s.volts := rfl
@[simp] theorem modCurTile_netLast (f : Tile → Tile) : (modCurTile f s).netLast = s.netLast := rfl
@[simp] theorem modCurTile_netPrev (f : Tile → Tile) : (modCurTile f s).netPrev = s.netPrev := rfl
@[simp] theorem modCurTile_netUsed (f : Tile → Tile) : (modCurTile f s).netUsed = s.netUsed := rfl
@[simp] theorem modCurTile_netMaybe (f : Tile → Tile) : (modCurTile f s).netMaybe = s.netMaybe := rfl
@[simp] theorem modCurTile_netOpen (f : Tile → Tile) : (modCurTile f s).netOpen = s.netOpen := rfl
@[simp] theorem modCurTile_mgmt (f : Tile → Tile) : (modCurTile f s).mgmt = s.mgmt := rfl
@[simp] theorem modCurTile_hostData (f : Tile → Tile) : (modCurTile f s).hostData = s.hostData := rfl
@[simp] theorem modCurTile_hostAccs (f : Tile → Tile) : (modCurTile f s).hostAccs = s.hostAccs := rfl
@[simp] theorem modCurTile_hist (f : Tile → Tile) : (modCurTile f s).hist = s.hist := rfl
@[simp] theorem modCurTile_writes (f : Tile → Tile) : (modCurTile f s).writes = s.writes := rfl
@[simp] theorem modCurTile_asOf (f : Tile → Tile) : (modCurTile f s).asOf = s.asOf := rfl
@[simp] theorem modCurTile_pick (f : Tile → Tile) : (modCurTile f s).pick = s.pick := rfl
@[simp] theorem modCurTile_scOrder (f : Tile → Tile) : (modCurTile f s).scOrder = s.scOrder := rfl
@[simp] theorem modCurTile_pub (f : Tile → Tile) : (modCurTile f s).pub = s.pub := rfl
@[simp] theorem modCurTile_mailSeen (f : Tile → Tile) : (modCurTile f s).mailSeen = s.mailSeen := rfl
@[simp] theorem modCurTile_tlnSeen (f : Tile → Tile) : (modCurTile f s).tlnSeen = s.tlnSeen := rfl
@[simp] theorem modCurTile_agenda (f : Tile → Tile) : (modCurTile f s).agenda = s.agenda := rfl
@[simp] theorem modCurTile_focusTile (f : Tile → Tile) : (modCurTile f s).focusTile = s.focusTile := rfl
@[simp] theorem modCurTile_focusCtx (f : Tile → Tile) : (modCurTile f s).focusCtx = s.focusCtx := rfl
@[simp] theorem modCurTile_grp (f : Tile → Tile) : (modCurTile f s).grp = s.grp := rfl
@[simp] theorem modCurTile_freeCount (f : Tile → Tile) : (modCurTile f s).freeCount = s.freeCount := rfl

@[simp] theorem wrS_time (r : Fin 16) (v : Scalar) : (wrS r v s).time = s.time := rfl
@[simp] theorem wrS_epoch (r : Fin 16) (v : Scalar) : (wrS r v s).epoch = s.epoch := rfl
@[simp] theorem wrS_mem (r : Fin 16) (v : Scalar) : (wrS r v s).mem = s.mem := rfl
@[simp] theorem wrS_poison (r : Fin 16) (v : Scalar) : (wrS r v s).poison = s.poison := rfl
@[simp] theorem wrS_remap (r : Fin 16) (v : Scalar) : (wrS r v s).remap = s.remap := rfl
@[simp] theorem wrS_bars (r : Fin 16) (v : Scalar) : (wrS r v s).bars = s.bars := rfl
@[simp] theorem wrS_barArr (r : Fin 16) (v : Scalar) : (wrS r v s).barArr = s.barArr := rfl
@[simp] theorem wrS_regs (r : Fin 16) (v : Scalar) : (wrS r v s).regs = s.regs := rfl
@[simp] theorem wrS_tln (r : Fin 16) (v : Scalar) : (wrS r v s).tln = s.tln := rfl
@[simp] theorem wrS_queues (r : Fin 16) (v : Scalar) : (wrS r v s).queues = s.queues := rfl
@[simp] theorem wrS_parts (r : Fin 16) (v : Scalar) : (wrS r v s).parts = s.parts := rfl
@[simp] theorem wrS_launches (r : Fin 16) (v : Scalar) : (wrS r v s).launches = s.launches := rfl
@[simp] theorem wrS_nextSerial (r : Fin 16) (v : Scalar) : (wrS r v s).nextSerial = s.nextSerial := rfl
@[simp] theorem wrS_counters (r : Fin 16) (v : Scalar) : (wrS r v s).counters = s.counters := rfl
@[simp] theorem wrS_ats (r : Fin 16) (v : Scalar) : (wrS r v s).ats = s.ats := rfl
@[simp] theorem wrS_atsRO (r : Fin 16) (v : Scalar) : (wrS r v s).atsRO = s.atsRO := rfl
@[simp] theorem wrS_hostRO (r : Fin 16) (v : Scalar) : (wrS r v s).hostRO = s.hostRO := rfl
@[simp] theorem wrS_hostFails (r : Fin 16) (v : Scalar) : (wrS r v s).hostFails = s.hostFails := rfl
@[simp] theorem wrS_invs (r : Fin 16) (v : Scalar) : (wrS r v s).invs = s.invs := rfl
@[simp] theorem wrS_priReqs (r : Fin 16) (v : Scalar) : (wrS r v s).priReqs = s.priReqs := rfl
@[simp] theorem wrS_shoot (r : Fin 16) (v : Scalar) : (wrS r v s).shoot = s.shoot := rfl
@[simp] theorem wrS_wdexp (r : Fin 16) (v : Scalar) : (wrS r v s).wdexp = s.wdexp := rfl
@[simp] theorem wrS_jsel (r : Fin 16) (v : Scalar) : (wrS r v s).jsel = s.jsel := rfl
@[simp] theorem wrS_jnext (r : Fin 16) (v : Scalar) : (wrS r v s).jnext = s.jnext := rfl
@[simp] theorem wrS_dumps (r : Fin 16) (v : Scalar) : (wrS r v s).dumps = s.dumps := rfl
@[simp] theorem wrS_toAccept (r : Fin 16) (v : Scalar) : (wrS r v s).toAccept = s.toAccept := rfl
@[simp] theorem wrS_replies (r : Fin 16) (v : Scalar) : (wrS r v s).replies = s.replies := rfl
@[simp] theorem wrS_cancels (r : Fin 16) (v : Scalar) : (wrS r v s).cancels = s.cancels := rfl
@[simp] theorem wrS_conts (r : Fin 16) (v : Scalar) : (wrS r v s).conts = s.conts := rfl
@[simp] theorem wrS_agentReqs (r : Fin 16) (v : Scalar) : (wrS r v s).agentReqs = s.agentReqs := rfl
@[simp] theorem wrS_late (r : Fin 16) (v : Scalar) : (wrS r v s).late = s.late := rfl
@[simp] theorem wrS_overPend (r : Fin 16) (v : Scalar) : (wrS r v s).overPend = s.overPend := rfl
@[simp] theorem wrS_nextId (r : Fin 16) (v : Scalar) : (wrS r v s).nextId = s.nextId := rfl
@[simp] theorem wrS_mbAddr (r : Fin 16) (v : Scalar) : (wrS r v s).mbAddr = s.mbAddr := rfl
@[simp] theorem wrS_dbgDat (r : Fin 16) (v : Scalar) : (wrS r v s).dbgDat = s.dbgDat := rfl
@[simp] theorem wrS_dbgSince (r : Fin 16) (v : Scalar) : (wrS r v s).dbgSince = s.dbgSince := rfl
@[simp] theorem wrS_dbgRun (r : Fin 16) (v : Scalar) : (wrS r v s).dbgRun = s.dbgRun := rfl
@[simp] theorem wrS_dbgWaited (r : Fin 16) (v : Scalar) : (wrS r v s).dbgWaited = s.dbgWaited := rfl
@[simp] theorem wrS_dbgPri (r : Fin 16) (v : Scalar) : (wrS r v s).dbgPri = s.dbgPri := rfl
@[simp] theorem wrS_dbgPriFail (r : Fin 16) (v : Scalar) : (wrS r v s).dbgPriFail = s.dbgPriFail := rfl
@[simp] theorem wrS_dbgRow (r : Fin 16) (v : Scalar) : (wrS r v s).dbgRow = s.dbgRow := rfl
@[simp] theorem wrS_msix (r : Fin 16) (v : Scalar) : (wrS r v s).msix = s.msix := rfl
@[simp] theorem wrS_volts (r : Fin 16) (v : Scalar) : (wrS r v s).volts = s.volts := rfl
@[simp] theorem wrS_netLast (r : Fin 16) (v : Scalar) : (wrS r v s).netLast = s.netLast := rfl
@[simp] theorem wrS_netPrev (r : Fin 16) (v : Scalar) : (wrS r v s).netPrev = s.netPrev := rfl
@[simp] theorem wrS_netUsed (r : Fin 16) (v : Scalar) : (wrS r v s).netUsed = s.netUsed := rfl
@[simp] theorem wrS_netMaybe (r : Fin 16) (v : Scalar) : (wrS r v s).netMaybe = s.netMaybe := rfl
@[simp] theorem wrS_netOpen (r : Fin 16) (v : Scalar) : (wrS r v s).netOpen = s.netOpen := rfl
@[simp] theorem wrS_mgmt (r : Fin 16) (v : Scalar) : (wrS r v s).mgmt = s.mgmt := rfl
@[simp] theorem wrS_hostData (r : Fin 16) (v : Scalar) : (wrS r v s).hostData = s.hostData := rfl
@[simp] theorem wrS_hostAccs (r : Fin 16) (v : Scalar) : (wrS r v s).hostAccs = s.hostAccs := rfl
@[simp] theorem wrS_hist (r : Fin 16) (v : Scalar) : (wrS r v s).hist = s.hist := rfl
@[simp] theorem wrS_writes (r : Fin 16) (v : Scalar) : (wrS r v s).writes = s.writes := rfl
@[simp] theorem wrS_asOf (r : Fin 16) (v : Scalar) : (wrS r v s).asOf = s.asOf := rfl
@[simp] theorem wrS_pick (r : Fin 16) (v : Scalar) : (wrS r v s).pick = s.pick := rfl
@[simp] theorem wrS_scOrder (r : Fin 16) (v : Scalar) : (wrS r v s).scOrder = s.scOrder := rfl
@[simp] theorem wrS_pub (r : Fin 16) (v : Scalar) : (wrS r v s).pub = s.pub := rfl
@[simp] theorem wrS_mailSeen (r : Fin 16) (v : Scalar) : (wrS r v s).mailSeen = s.mailSeen := rfl
@[simp] theorem wrS_tlnSeen (r : Fin 16) (v : Scalar) : (wrS r v s).tlnSeen = s.tlnSeen := rfl
@[simp] theorem wrS_agenda (r : Fin 16) (v : Scalar) : (wrS r v s).agenda = s.agenda := rfl
@[simp] theorem wrS_focusTile (r : Fin 16) (v : Scalar) : (wrS r v s).focusTile = s.focusTile := rfl
@[simp] theorem wrS_focusCtx (r : Fin 16) (v : Scalar) : (wrS r v s).focusCtx = s.focusCtx := rfl
@[simp] theorem wrS_grp (r : Fin 16) (v : Scalar) : (wrS r v s).grp = s.grp := rfl
@[simp] theorem wrS_freeCount (r : Fin 16) (v : Scalar) : (wrS r v s).freeCount = s.freeCount := rfl

@[simp] theorem wrRow_time (p k : Nat) (v : Row) : (wrRow p k v s).time = s.time := rfl
@[simp] theorem wrRow_epoch (p k : Nat) (v : Row) : (wrRow p k v s).epoch = s.epoch := rfl
@[simp] theorem wrRow_mem (p k : Nat) (v : Row) : (wrRow p k v s).mem = s.mem := rfl
@[simp] theorem wrRow_poison (p k : Nat) (v : Row) : (wrRow p k v s).poison = s.poison := rfl
@[simp] theorem wrRow_remap (p k : Nat) (v : Row) : (wrRow p k v s).remap = s.remap := rfl
@[simp] theorem wrRow_bars (p k : Nat) (v : Row) : (wrRow p k v s).bars = s.bars := rfl
@[simp] theorem wrRow_barArr (p k : Nat) (v : Row) : (wrRow p k v s).barArr = s.barArr := rfl
@[simp] theorem wrRow_regs (p k : Nat) (v : Row) : (wrRow p k v s).regs = s.regs := rfl
@[simp] theorem wrRow_tln (p k : Nat) (v : Row) : (wrRow p k v s).tln = s.tln := rfl
@[simp] theorem wrRow_queues (p k : Nat) (v : Row) : (wrRow p k v s).queues = s.queues := rfl
@[simp] theorem wrRow_parts (p k : Nat) (v : Row) : (wrRow p k v s).parts = s.parts := rfl
@[simp] theorem wrRow_launches (p k : Nat) (v : Row) : (wrRow p k v s).launches = s.launches := rfl
@[simp] theorem wrRow_nextSerial (p k : Nat) (v : Row) : (wrRow p k v s).nextSerial = s.nextSerial := rfl
@[simp] theorem wrRow_counters (p k : Nat) (v : Row) : (wrRow p k v s).counters = s.counters := rfl
@[simp] theorem wrRow_ats (p k : Nat) (v : Row) : (wrRow p k v s).ats = s.ats := rfl
@[simp] theorem wrRow_atsRO (p k : Nat) (v : Row) : (wrRow p k v s).atsRO = s.atsRO := rfl
@[simp] theorem wrRow_hostRO (p k : Nat) (v : Row) : (wrRow p k v s).hostRO = s.hostRO := rfl
@[simp] theorem wrRow_hostFails (p k : Nat) (v : Row) : (wrRow p k v s).hostFails = s.hostFails := rfl
@[simp] theorem wrRow_invs (p k : Nat) (v : Row) : (wrRow p k v s).invs = s.invs := rfl
@[simp] theorem wrRow_priReqs (p k : Nat) (v : Row) : (wrRow p k v s).priReqs = s.priReqs := rfl
@[simp] theorem wrRow_shoot (p k : Nat) (v : Row) : (wrRow p k v s).shoot = s.shoot := rfl
@[simp] theorem wrRow_wdexp (p k : Nat) (v : Row) : (wrRow p k v s).wdexp = s.wdexp := rfl
@[simp] theorem wrRow_jsel (p k : Nat) (v : Row) : (wrRow p k v s).jsel = s.jsel := rfl
@[simp] theorem wrRow_jnext (p k : Nat) (v : Row) : (wrRow p k v s).jnext = s.jnext := rfl
@[simp] theorem wrRow_dumps (p k : Nat) (v : Row) : (wrRow p k v s).dumps = s.dumps := rfl
@[simp] theorem wrRow_toAccept (p k : Nat) (v : Row) : (wrRow p k v s).toAccept = s.toAccept := rfl
@[simp] theorem wrRow_replies (p k : Nat) (v : Row) : (wrRow p k v s).replies = s.replies := rfl
@[simp] theorem wrRow_cancels (p k : Nat) (v : Row) : (wrRow p k v s).cancels = s.cancels := rfl
@[simp] theorem wrRow_conts (p k : Nat) (v : Row) : (wrRow p k v s).conts = s.conts := rfl
@[simp] theorem wrRow_agentReqs (p k : Nat) (v : Row) : (wrRow p k v s).agentReqs = s.agentReqs := rfl
@[simp] theorem wrRow_late (p k : Nat) (v : Row) : (wrRow p k v s).late = s.late := rfl
@[simp] theorem wrRow_overPend (p k : Nat) (v : Row) : (wrRow p k v s).overPend = s.overPend := rfl
@[simp] theorem wrRow_nextId (p k : Nat) (v : Row) : (wrRow p k v s).nextId = s.nextId := rfl
@[simp] theorem wrRow_mbAddr (p k : Nat) (v : Row) : (wrRow p k v s).mbAddr = s.mbAddr := rfl
@[simp] theorem wrRow_dbgDat (p k : Nat) (v : Row) : (wrRow p k v s).dbgDat = s.dbgDat := rfl
@[simp] theorem wrRow_dbgSince (p k : Nat) (v : Row) : (wrRow p k v s).dbgSince = s.dbgSince := rfl
@[simp] theorem wrRow_dbgRun (p k : Nat) (v : Row) : (wrRow p k v s).dbgRun = s.dbgRun := rfl
@[simp] theorem wrRow_dbgWaited (p k : Nat) (v : Row) : (wrRow p k v s).dbgWaited = s.dbgWaited := rfl
@[simp] theorem wrRow_dbgPri (p k : Nat) (v : Row) : (wrRow p k v s).dbgPri = s.dbgPri := rfl
@[simp] theorem wrRow_dbgPriFail (p k : Nat) (v : Row) : (wrRow p k v s).dbgPriFail = s.dbgPriFail := rfl
@[simp] theorem wrRow_dbgRow (p k : Nat) (v : Row) : (wrRow p k v s).dbgRow = s.dbgRow := rfl
@[simp] theorem wrRow_msix (p k : Nat) (v : Row) : (wrRow p k v s).msix = s.msix := rfl
@[simp] theorem wrRow_volts (p k : Nat) (v : Row) : (wrRow p k v s).volts = s.volts := rfl
@[simp] theorem wrRow_netLast (p k : Nat) (v : Row) : (wrRow p k v s).netLast = s.netLast := rfl
@[simp] theorem wrRow_netPrev (p k : Nat) (v : Row) : (wrRow p k v s).netPrev = s.netPrev := rfl
@[simp] theorem wrRow_netUsed (p k : Nat) (v : Row) : (wrRow p k v s).netUsed = s.netUsed := rfl
@[simp] theorem wrRow_netMaybe (p k : Nat) (v : Row) : (wrRow p k v s).netMaybe = s.netMaybe := rfl
@[simp] theorem wrRow_netOpen (p k : Nat) (v : Row) : (wrRow p k v s).netOpen = s.netOpen := rfl
@[simp] theorem wrRow_mgmt (p k : Nat) (v : Row) : (wrRow p k v s).mgmt = s.mgmt := rfl
@[simp] theorem wrRow_hostData (p k : Nat) (v : Row) : (wrRow p k v s).hostData = s.hostData := rfl
@[simp] theorem wrRow_hostAccs (p k : Nat) (v : Row) : (wrRow p k v s).hostAccs = s.hostAccs := rfl
@[simp] theorem wrRow_hist (p k : Nat) (v : Row) : (wrRow p k v s).hist = s.hist := rfl
@[simp] theorem wrRow_writes (p k : Nat) (v : Row) : (wrRow p k v s).writes = s.writes := rfl
@[simp] theorem wrRow_asOf (p k : Nat) (v : Row) : (wrRow p k v s).asOf = s.asOf := rfl
@[simp] theorem wrRow_pick (p k : Nat) (v : Row) : (wrRow p k v s).pick = s.pick := rfl
@[simp] theorem wrRow_scOrder (p k : Nat) (v : Row) : (wrRow p k v s).scOrder = s.scOrder := rfl
@[simp] theorem wrRow_pub (p k : Nat) (v : Row) : (wrRow p k v s).pub = s.pub := rfl
@[simp] theorem wrRow_mailSeen (p k : Nat) (v : Row) : (wrRow p k v s).mailSeen = s.mailSeen := rfl
@[simp] theorem wrRow_tlnSeen (p k : Nat) (v : Row) : (wrRow p k v s).tlnSeen = s.tlnSeen := rfl
@[simp] theorem wrRow_agenda (p k : Nat) (v : Row) : (wrRow p k v s).agenda = s.agenda := rfl
@[simp] theorem wrRow_focusTile (p k : Nat) (v : Row) : (wrRow p k v s).focusTile = s.focusTile := rfl
@[simp] theorem wrRow_focusCtx (p k : Nat) (v : Row) : (wrRow p k v s).focusCtx = s.focusCtx := rfl
@[simp] theorem wrRow_grp (p k : Nat) (v : Row) : (wrRow p k v s).grp = s.grp := rfl
@[simp] theorem wrRow_freeCount (p k : Nat) (v : Row) : (wrRow p k v s).freeCount = s.freeCount := rfl

@[simp] theorem touchReg_time (p : Nat) : (touchReg p s).time = s.time := rfl
@[simp] theorem touchReg_epoch (p : Nat) : (touchReg p s).epoch = s.epoch := rfl
@[simp] theorem touchReg_mem (p : Nat) : (touchReg p s).mem = s.mem := rfl
@[simp] theorem touchReg_poison (p : Nat) : (touchReg p s).poison = s.poison := rfl
@[simp] theorem touchReg_remap (p : Nat) : (touchReg p s).remap = s.remap := rfl
@[simp] theorem touchReg_bars (p : Nat) : (touchReg p s).bars = s.bars := rfl
@[simp] theorem touchReg_barArr (p : Nat) : (touchReg p s).barArr = s.barArr := rfl
@[simp] theorem touchReg_regs (p : Nat) : (touchReg p s).regs = s.regs := rfl
@[simp] theorem touchReg_tln (p : Nat) : (touchReg p s).tln = s.tln := rfl
@[simp] theorem touchReg_queues (p : Nat) : (touchReg p s).queues = s.queues := rfl
@[simp] theorem touchReg_parts (p : Nat) : (touchReg p s).parts = s.parts := rfl
@[simp] theorem touchReg_launches (p : Nat) : (touchReg p s).launches = s.launches := rfl
@[simp] theorem touchReg_nextSerial (p : Nat) : (touchReg p s).nextSerial = s.nextSerial := rfl
@[simp] theorem touchReg_counters (p : Nat) : (touchReg p s).counters = s.counters := rfl
@[simp] theorem touchReg_ats (p : Nat) : (touchReg p s).ats = s.ats := rfl
@[simp] theorem touchReg_atsRO (p : Nat) : (touchReg p s).atsRO = s.atsRO := rfl
@[simp] theorem touchReg_hostRO (p : Nat) : (touchReg p s).hostRO = s.hostRO := rfl
@[simp] theorem touchReg_hostFails (p : Nat) : (touchReg p s).hostFails = s.hostFails := rfl
@[simp] theorem touchReg_invs (p : Nat) : (touchReg p s).invs = s.invs := rfl
@[simp] theorem touchReg_priReqs (p : Nat) : (touchReg p s).priReqs = s.priReqs := rfl
@[simp] theorem touchReg_shoot (p : Nat) : (touchReg p s).shoot = s.shoot := rfl
@[simp] theorem touchReg_wdexp (p : Nat) : (touchReg p s).wdexp = s.wdexp := rfl
@[simp] theorem touchReg_jsel (p : Nat) : (touchReg p s).jsel = s.jsel := rfl
@[simp] theorem touchReg_jnext (p : Nat) : (touchReg p s).jnext = s.jnext := rfl
@[simp] theorem touchReg_dumps (p : Nat) : (touchReg p s).dumps = s.dumps := rfl
@[simp] theorem touchReg_toAccept (p : Nat) : (touchReg p s).toAccept = s.toAccept := rfl
@[simp] theorem touchReg_replies (p : Nat) : (touchReg p s).replies = s.replies := rfl
@[simp] theorem touchReg_cancels (p : Nat) : (touchReg p s).cancels = s.cancels := rfl
@[simp] theorem touchReg_conts (p : Nat) : (touchReg p s).conts = s.conts := rfl
@[simp] theorem touchReg_agentReqs (p : Nat) : (touchReg p s).agentReqs = s.agentReqs := rfl
@[simp] theorem touchReg_late (p : Nat) : (touchReg p s).late = s.late := rfl
@[simp] theorem touchReg_overPend (p : Nat) : (touchReg p s).overPend = s.overPend := rfl
@[simp] theorem touchReg_nextId (p : Nat) : (touchReg p s).nextId = s.nextId := rfl
@[simp] theorem touchReg_mbAddr (p : Nat) : (touchReg p s).mbAddr = s.mbAddr := rfl
@[simp] theorem touchReg_dbgDat (p : Nat) : (touchReg p s).dbgDat = s.dbgDat := rfl
@[simp] theorem touchReg_dbgSince (p : Nat) : (touchReg p s).dbgSince = s.dbgSince := rfl
@[simp] theorem touchReg_dbgRun (p : Nat) : (touchReg p s).dbgRun = s.dbgRun := rfl
@[simp] theorem touchReg_dbgWaited (p : Nat) : (touchReg p s).dbgWaited = s.dbgWaited := rfl
@[simp] theorem touchReg_dbgPri (p : Nat) : (touchReg p s).dbgPri = s.dbgPri := rfl
@[simp] theorem touchReg_dbgPriFail (p : Nat) : (touchReg p s).dbgPriFail = s.dbgPriFail := rfl
@[simp] theorem touchReg_dbgRow (p : Nat) : (touchReg p s).dbgRow = s.dbgRow := rfl
@[simp] theorem touchReg_msix (p : Nat) : (touchReg p s).msix = s.msix := rfl
@[simp] theorem touchReg_volts (p : Nat) : (touchReg p s).volts = s.volts := rfl
@[simp] theorem touchReg_netLast (p : Nat) : (touchReg p s).netLast = s.netLast := rfl
@[simp] theorem touchReg_netPrev (p : Nat) : (touchReg p s).netPrev = s.netPrev := rfl
@[simp] theorem touchReg_netUsed (p : Nat) : (touchReg p s).netUsed = s.netUsed := rfl
@[simp] theorem touchReg_netMaybe (p : Nat) : (touchReg p s).netMaybe = s.netMaybe := rfl
@[simp] theorem touchReg_netOpen (p : Nat) : (touchReg p s).netOpen = s.netOpen := rfl
@[simp] theorem touchReg_mgmt (p : Nat) : (touchReg p s).mgmt = s.mgmt := rfl
@[simp] theorem touchReg_hostData (p : Nat) : (touchReg p s).hostData = s.hostData := rfl
@[simp] theorem touchReg_hostAccs (p : Nat) : (touchReg p s).hostAccs = s.hostAccs := rfl
@[simp] theorem touchReg_hist (p : Nat) : (touchReg p s).hist = s.hist := rfl
@[simp] theorem touchReg_writes (p : Nat) : (touchReg p s).writes = s.writes := rfl
@[simp] theorem touchReg_asOf (p : Nat) : (touchReg p s).asOf = s.asOf := rfl
@[simp] theorem touchReg_pick (p : Nat) : (touchReg p s).pick = s.pick := rfl
@[simp] theorem touchReg_scOrder (p : Nat) : (touchReg p s).scOrder = s.scOrder := rfl
@[simp] theorem touchReg_pub (p : Nat) : (touchReg p s).pub = s.pub := rfl
@[simp] theorem touchReg_mailSeen (p : Nat) : (touchReg p s).mailSeen = s.mailSeen := rfl
@[simp] theorem touchReg_tlnSeen (p : Nat) : (touchReg p s).tlnSeen = s.tlnSeen := rfl
@[simp] theorem touchReg_agenda (p : Nat) : (touchReg p s).agenda = s.agenda := rfl
@[simp] theorem touchReg_focusTile (p : Nat) : (touchReg p s).focusTile = s.focusTile := rfl
@[simp] theorem touchReg_focusCtx (p : Nat) : (touchReg p s).focusCtx = s.focusCtx := rfl
@[simp] theorem touchReg_grp (p : Nat) : (touchReg p s).grp = s.grp := rfl
@[simp] theorem touchReg_freeCount (p : Nat) : (touchReg p s).freeCount = s.freeCount := rfl

@[simp] theorem raiseFp_time (n : Nat) : (raiseFp n s).time = s.time := rfl
@[simp] theorem raiseFp_epoch (n : Nat) : (raiseFp n s).epoch = s.epoch := rfl
@[simp] theorem raiseFp_mem (n : Nat) : (raiseFp n s).mem = s.mem := rfl
@[simp] theorem raiseFp_poison (n : Nat) : (raiseFp n s).poison = s.poison := rfl
@[simp] theorem raiseFp_remap (n : Nat) : (raiseFp n s).remap = s.remap := rfl
@[simp] theorem raiseFp_bars (n : Nat) : (raiseFp n s).bars = s.bars := rfl
@[simp] theorem raiseFp_barArr (n : Nat) : (raiseFp n s).barArr = s.barArr := rfl
@[simp] theorem raiseFp_regs (n : Nat) : (raiseFp n s).regs = s.regs := rfl
@[simp] theorem raiseFp_tln (n : Nat) : (raiseFp n s).tln = s.tln := rfl
@[simp] theorem raiseFp_queues (n : Nat) : (raiseFp n s).queues = s.queues := rfl
@[simp] theorem raiseFp_parts (n : Nat) : (raiseFp n s).parts = s.parts := rfl
@[simp] theorem raiseFp_launches (n : Nat) : (raiseFp n s).launches = s.launches := rfl
@[simp] theorem raiseFp_nextSerial (n : Nat) : (raiseFp n s).nextSerial = s.nextSerial := rfl
@[simp] theorem raiseFp_counters (n : Nat) : (raiseFp n s).counters = s.counters := rfl
@[simp] theorem raiseFp_ats (n : Nat) : (raiseFp n s).ats = s.ats := rfl
@[simp] theorem raiseFp_atsRO (n : Nat) : (raiseFp n s).atsRO = s.atsRO := rfl
@[simp] theorem raiseFp_hostRO (n : Nat) : (raiseFp n s).hostRO = s.hostRO := rfl
@[simp] theorem raiseFp_hostFails (n : Nat) : (raiseFp n s).hostFails = s.hostFails := rfl
@[simp] theorem raiseFp_invs (n : Nat) : (raiseFp n s).invs = s.invs := rfl
@[simp] theorem raiseFp_priReqs (n : Nat) : (raiseFp n s).priReqs = s.priReqs := rfl
@[simp] theorem raiseFp_shoot (n : Nat) : (raiseFp n s).shoot = s.shoot := rfl
@[simp] theorem raiseFp_wdexp (n : Nat) : (raiseFp n s).wdexp = s.wdexp := rfl
@[simp] theorem raiseFp_jsel (n : Nat) : (raiseFp n s).jsel = s.jsel := rfl
@[simp] theorem raiseFp_jnext (n : Nat) : (raiseFp n s).jnext = s.jnext := rfl
@[simp] theorem raiseFp_dumps (n : Nat) : (raiseFp n s).dumps = s.dumps := rfl
@[simp] theorem raiseFp_toAccept (n : Nat) : (raiseFp n s).toAccept = s.toAccept := rfl
@[simp] theorem raiseFp_replies (n : Nat) : (raiseFp n s).replies = s.replies := rfl
@[simp] theorem raiseFp_cancels (n : Nat) : (raiseFp n s).cancels = s.cancels := rfl
@[simp] theorem raiseFp_conts (n : Nat) : (raiseFp n s).conts = s.conts := rfl
@[simp] theorem raiseFp_agentReqs (n : Nat) : (raiseFp n s).agentReqs = s.agentReqs := rfl
@[simp] theorem raiseFp_late (n : Nat) : (raiseFp n s).late = s.late := rfl
@[simp] theorem raiseFp_overPend (n : Nat) : (raiseFp n s).overPend = s.overPend := rfl
@[simp] theorem raiseFp_nextId (n : Nat) : (raiseFp n s).nextId = s.nextId := rfl
@[simp] theorem raiseFp_mbAddr (n : Nat) : (raiseFp n s).mbAddr = s.mbAddr := rfl
@[simp] theorem raiseFp_dbgDat (n : Nat) : (raiseFp n s).dbgDat = s.dbgDat := rfl
@[simp] theorem raiseFp_dbgSince (n : Nat) : (raiseFp n s).dbgSince = s.dbgSince := rfl
@[simp] theorem raiseFp_dbgRun (n : Nat) : (raiseFp n s).dbgRun = s.dbgRun := rfl
@[simp] theorem raiseFp_dbgWaited (n : Nat) : (raiseFp n s).dbgWaited = s.dbgWaited := rfl
@[simp] theorem raiseFp_dbgPri (n : Nat) : (raiseFp n s).dbgPri = s.dbgPri := rfl
@[simp] theorem raiseFp_dbgPriFail (n : Nat) : (raiseFp n s).dbgPriFail = s.dbgPriFail := rfl
@[simp] theorem raiseFp_dbgRow (n : Nat) : (raiseFp n s).dbgRow = s.dbgRow := rfl
@[simp] theorem raiseFp_msix (n : Nat) : (raiseFp n s).msix = s.msix := rfl
@[simp] theorem raiseFp_volts (n : Nat) : (raiseFp n s).volts = s.volts := rfl
@[simp] theorem raiseFp_netLast (n : Nat) : (raiseFp n s).netLast = s.netLast := rfl
@[simp] theorem raiseFp_netPrev (n : Nat) : (raiseFp n s).netPrev = s.netPrev := rfl
@[simp] theorem raiseFp_netUsed (n : Nat) : (raiseFp n s).netUsed = s.netUsed := rfl
@[simp] theorem raiseFp_netMaybe (n : Nat) : (raiseFp n s).netMaybe = s.netMaybe := rfl
@[simp] theorem raiseFp_netOpen (n : Nat) : (raiseFp n s).netOpen = s.netOpen := rfl
@[simp] theorem raiseFp_mgmt (n : Nat) : (raiseFp n s).mgmt = s.mgmt := rfl
@[simp] theorem raiseFp_hostData (n : Nat) : (raiseFp n s).hostData = s.hostData := rfl
@[simp] theorem raiseFp_hostAccs (n : Nat) : (raiseFp n s).hostAccs = s.hostAccs := rfl
@[simp] theorem raiseFp_hist (n : Nat) : (raiseFp n s).hist = s.hist := rfl
@[simp] theorem raiseFp_writes (n : Nat) : (raiseFp n s).writes = s.writes := rfl
@[simp] theorem raiseFp_asOf (n : Nat) : (raiseFp n s).asOf = s.asOf := rfl
@[simp] theorem raiseFp_pick (n : Nat) : (raiseFp n s).pick = s.pick := rfl
@[simp] theorem raiseFp_scOrder (n : Nat) : (raiseFp n s).scOrder = s.scOrder := rfl
@[simp] theorem raiseFp_pub (n : Nat) : (raiseFp n s).pub = s.pub := rfl
@[simp] theorem raiseFp_mailSeen (n : Nat) : (raiseFp n s).mailSeen = s.mailSeen := rfl
@[simp] theorem raiseFp_tlnSeen (n : Nat) : (raiseFp n s).tlnSeen = s.tlnSeen := rfl
@[simp] theorem raiseFp_agenda (n : Nat) : (raiseFp n s).agenda = s.agenda := rfl
@[simp] theorem raiseFp_focusTile (n : Nat) : (raiseFp n s).focusTile = s.focusTile := rfl
@[simp] theorem raiseFp_focusCtx (n : Nat) : (raiseFp n s).focusCtx = s.focusCtx := rfl
@[simp] theorem raiseFp_grp (n : Nat) : (raiseFp n s).grp = s.grp := rfl
@[simp] theorem raiseFp_freeCount (n : Nat) : (raiseFp n s).freeCount = s.freeCount := rfl

@[simp] theorem raiseMx_time (t c n : Nat) : (raiseMx t c n s).time = s.time := rfl
@[simp] theorem raiseMx_epoch (t c n : Nat) : (raiseMx t c n s).epoch = s.epoch := rfl
@[simp] theorem raiseMx_mem (t c n : Nat) : (raiseMx t c n s).mem = s.mem := rfl
@[simp] theorem raiseMx_poison (t c n : Nat) : (raiseMx t c n s).poison = s.poison := rfl
@[simp] theorem raiseMx_remap (t c n : Nat) : (raiseMx t c n s).remap = s.remap := rfl
@[simp] theorem raiseMx_bars (t c n : Nat) : (raiseMx t c n s).bars = s.bars := rfl
@[simp] theorem raiseMx_barArr (t c n : Nat) : (raiseMx t c n s).barArr = s.barArr := rfl
@[simp] theorem raiseMx_regs (t c n : Nat) : (raiseMx t c n s).regs = s.regs := rfl
@[simp] theorem raiseMx_tln (t c n : Nat) : (raiseMx t c n s).tln = s.tln := rfl
@[simp] theorem raiseMx_queues (t c n : Nat) : (raiseMx t c n s).queues = s.queues := rfl
@[simp] theorem raiseMx_parts (t c n : Nat) : (raiseMx t c n s).parts = s.parts := rfl
@[simp] theorem raiseMx_launches (t c n : Nat) : (raiseMx t c n s).launches = s.launches := rfl
@[simp] theorem raiseMx_nextSerial (t c n : Nat) : (raiseMx t c n s).nextSerial = s.nextSerial := rfl
@[simp] theorem raiseMx_counters (t c n : Nat) : (raiseMx t c n s).counters = s.counters := rfl
@[simp] theorem raiseMx_ats (t c n : Nat) : (raiseMx t c n s).ats = s.ats := rfl
@[simp] theorem raiseMx_atsRO (t c n : Nat) : (raiseMx t c n s).atsRO = s.atsRO := rfl
@[simp] theorem raiseMx_hostRO (t c n : Nat) : (raiseMx t c n s).hostRO = s.hostRO := rfl
@[simp] theorem raiseMx_hostFails (t c n : Nat) : (raiseMx t c n s).hostFails = s.hostFails := rfl
@[simp] theorem raiseMx_invs (t c n : Nat) : (raiseMx t c n s).invs = s.invs := rfl
@[simp] theorem raiseMx_priReqs (t c n : Nat) : (raiseMx t c n s).priReqs = s.priReqs := rfl
@[simp] theorem raiseMx_shoot (t c n : Nat) : (raiseMx t c n s).shoot = s.shoot := rfl
@[simp] theorem raiseMx_wdexp (t c n : Nat) : (raiseMx t c n s).wdexp = s.wdexp := rfl
@[simp] theorem raiseMx_jsel (t c n : Nat) : (raiseMx t c n s).jsel = s.jsel := rfl
@[simp] theorem raiseMx_jnext (t c n : Nat) : (raiseMx t c n s).jnext = s.jnext := rfl
@[simp] theorem raiseMx_dumps (t c n : Nat) : (raiseMx t c n s).dumps = s.dumps := rfl
@[simp] theorem raiseMx_toAccept (t c n : Nat) : (raiseMx t c n s).toAccept = s.toAccept := rfl
@[simp] theorem raiseMx_replies (t c n : Nat) : (raiseMx t c n s).replies = s.replies := rfl
@[simp] theorem raiseMx_cancels (t c n : Nat) : (raiseMx t c n s).cancels = s.cancels := rfl
@[simp] theorem raiseMx_conts (t c n : Nat) : (raiseMx t c n s).conts = s.conts := rfl
@[simp] theorem raiseMx_agentReqs (t c n : Nat) : (raiseMx t c n s).agentReqs = s.agentReqs := rfl
@[simp] theorem raiseMx_late (t c n : Nat) : (raiseMx t c n s).late = s.late := rfl
@[simp] theorem raiseMx_overPend (t c n : Nat) : (raiseMx t c n s).overPend = s.overPend := rfl
@[simp] theorem raiseMx_nextId (t c n : Nat) : (raiseMx t c n s).nextId = s.nextId := rfl
@[simp] theorem raiseMx_mbAddr (t c n : Nat) : (raiseMx t c n s).mbAddr = s.mbAddr := rfl
@[simp] theorem raiseMx_dbgDat (t c n : Nat) : (raiseMx t c n s).dbgDat = s.dbgDat := rfl
@[simp] theorem raiseMx_dbgSince (t c n : Nat) : (raiseMx t c n s).dbgSince = s.dbgSince := rfl
@[simp] theorem raiseMx_dbgRun (t c n : Nat) : (raiseMx t c n s).dbgRun = s.dbgRun := rfl
@[simp] theorem raiseMx_dbgWaited (t c n : Nat) : (raiseMx t c n s).dbgWaited = s.dbgWaited := rfl
@[simp] theorem raiseMx_dbgPri (t c n : Nat) : (raiseMx t c n s).dbgPri = s.dbgPri := rfl
@[simp] theorem raiseMx_dbgPriFail (t c n : Nat) : (raiseMx t c n s).dbgPriFail = s.dbgPriFail := rfl
@[simp] theorem raiseMx_dbgRow (t c n : Nat) : (raiseMx t c n s).dbgRow = s.dbgRow := rfl
@[simp] theorem raiseMx_msix (t c n : Nat) : (raiseMx t c n s).msix = s.msix := rfl
@[simp] theorem raiseMx_volts (t c n : Nat) : (raiseMx t c n s).volts = s.volts := rfl
@[simp] theorem raiseMx_netLast (t c n : Nat) : (raiseMx t c n s).netLast = s.netLast := rfl
@[simp] theorem raiseMx_netPrev (t c n : Nat) : (raiseMx t c n s).netPrev = s.netPrev := rfl
@[simp] theorem raiseMx_netUsed (t c n : Nat) : (raiseMx t c n s).netUsed = s.netUsed := rfl
@[simp] theorem raiseMx_netMaybe (t c n : Nat) : (raiseMx t c n s).netMaybe = s.netMaybe := rfl
@[simp] theorem raiseMx_netOpen (t c n : Nat) : (raiseMx t c n s).netOpen = s.netOpen := rfl
@[simp] theorem raiseMx_mgmt (t c n : Nat) : (raiseMx t c n s).mgmt = s.mgmt := rfl
@[simp] theorem raiseMx_hostData (t c n : Nat) : (raiseMx t c n s).hostData = s.hostData := rfl
@[simp] theorem raiseMx_hostAccs (t c n : Nat) : (raiseMx t c n s).hostAccs = s.hostAccs := rfl
@[simp] theorem raiseMx_hist (t c n : Nat) : (raiseMx t c n s).hist = s.hist := rfl
@[simp] theorem raiseMx_writes (t c n : Nat) : (raiseMx t c n s).writes = s.writes := rfl
@[simp] theorem raiseMx_asOf (t c n : Nat) : (raiseMx t c n s).asOf = s.asOf := rfl
@[simp] theorem raiseMx_pick (t c n : Nat) : (raiseMx t c n s).pick = s.pick := rfl
@[simp] theorem raiseMx_scOrder (t c n : Nat) : (raiseMx t c n s).scOrder = s.scOrder := rfl
@[simp] theorem raiseMx_pub (t c n : Nat) : (raiseMx t c n s).pub = s.pub := rfl
@[simp] theorem raiseMx_mailSeen (t c n : Nat) : (raiseMx t c n s).mailSeen = s.mailSeen := rfl
@[simp] theorem raiseMx_tlnSeen (t c n : Nat) : (raiseMx t c n s).tlnSeen = s.tlnSeen := rfl
@[simp] theorem raiseMx_agenda (t c n : Nat) : (raiseMx t c n s).agenda = s.agenda := rfl
@[simp] theorem raiseMx_focusTile (t c n : Nat) : (raiseMx t c n s).focusTile = s.focusTile := rfl
@[simp] theorem raiseMx_focusCtx (t c n : Nat) : (raiseMx t c n s).focusCtx = s.focusCtx := rfl
@[simp] theorem raiseMx_grp (t c n : Nat) : (raiseMx t c n s).grp = s.grp := rfl
@[simp] theorem raiseMx_freeCount (t c n : Nat) : (raiseMx t c n s).freeCount = s.freeCount := rfl

@[simp] theorem touchBank_time (t o n : Nat) (p : Pol) : (touchBank t o n p s).time = s.time := rfl
@[simp] theorem touchBank_epoch (t o n : Nat) (p : Pol) : (touchBank t o n p s).epoch = s.epoch := rfl
@[simp] theorem touchBank_mem (t o n : Nat) (p : Pol) : (touchBank t o n p s).mem = s.mem := rfl
@[simp] theorem touchBank_poison (t o n : Nat) (p : Pol) : (touchBank t o n p s).poison = s.poison := rfl
@[simp] theorem touchBank_remap (t o n : Nat) (p : Pol) : (touchBank t o n p s).remap = s.remap := rfl
@[simp] theorem touchBank_bars (t o n : Nat) (p : Pol) : (touchBank t o n p s).bars = s.bars := rfl
@[simp] theorem touchBank_barArr (t o n : Nat) (p : Pol) : (touchBank t o n p s).barArr = s.barArr := rfl
@[simp] theorem touchBank_regs (t o n : Nat) (p : Pol) : (touchBank t o n p s).regs = s.regs := rfl
@[simp] theorem touchBank_tln (t o n : Nat) (p : Pol) : (touchBank t o n p s).tln = s.tln := rfl
@[simp] theorem touchBank_queues (t o n : Nat) (p : Pol) : (touchBank t o n p s).queues = s.queues := rfl
@[simp] theorem touchBank_parts (t o n : Nat) (p : Pol) : (touchBank t o n p s).parts = s.parts := rfl
@[simp] theorem touchBank_launches (t o n : Nat) (p : Pol) : (touchBank t o n p s).launches = s.launches := rfl
@[simp] theorem touchBank_nextSerial (t o n : Nat) (p : Pol) : (touchBank t o n p s).nextSerial = s.nextSerial := rfl
@[simp] theorem touchBank_counters (t o n : Nat) (p : Pol) : (touchBank t o n p s).counters = s.counters := rfl
@[simp] theorem touchBank_ats (t o n : Nat) (p : Pol) : (touchBank t o n p s).ats = s.ats := rfl
@[simp] theorem touchBank_atsRO (t o n : Nat) (p : Pol) : (touchBank t o n p s).atsRO = s.atsRO := rfl
@[simp] theorem touchBank_hostRO (t o n : Nat) (p : Pol) : (touchBank t o n p s).hostRO = s.hostRO := rfl
@[simp] theorem touchBank_hostFails (t o n : Nat) (p : Pol) : (touchBank t o n p s).hostFails = s.hostFails := rfl
@[simp] theorem touchBank_invs (t o n : Nat) (p : Pol) : (touchBank t o n p s).invs = s.invs := rfl
@[simp] theorem touchBank_priReqs (t o n : Nat) (p : Pol) : (touchBank t o n p s).priReqs = s.priReqs := rfl
@[simp] theorem touchBank_shoot (t o n : Nat) (p : Pol) : (touchBank t o n p s).shoot = s.shoot := rfl
@[simp] theorem touchBank_wdexp (t o n : Nat) (p : Pol) : (touchBank t o n p s).wdexp = s.wdexp := rfl
@[simp] theorem touchBank_jsel (t o n : Nat) (p : Pol) : (touchBank t o n p s).jsel = s.jsel := rfl
@[simp] theorem touchBank_jnext (t o n : Nat) (p : Pol) : (touchBank t o n p s).jnext = s.jnext := rfl
@[simp] theorem touchBank_dumps (t o n : Nat) (p : Pol) : (touchBank t o n p s).dumps = s.dumps := rfl
@[simp] theorem touchBank_toAccept (t o n : Nat) (p : Pol) : (touchBank t o n p s).toAccept = s.toAccept := rfl
@[simp] theorem touchBank_replies (t o n : Nat) (p : Pol) : (touchBank t o n p s).replies = s.replies := rfl
@[simp] theorem touchBank_cancels (t o n : Nat) (p : Pol) : (touchBank t o n p s).cancels = s.cancels := rfl
@[simp] theorem touchBank_conts (t o n : Nat) (p : Pol) : (touchBank t o n p s).conts = s.conts := rfl
@[simp] theorem touchBank_agentReqs (t o n : Nat) (p : Pol) : (touchBank t o n p s).agentReqs = s.agentReqs := rfl
@[simp] theorem touchBank_late (t o n : Nat) (p : Pol) : (touchBank t o n p s).late = s.late := rfl
@[simp] theorem touchBank_overPend (t o n : Nat) (p : Pol) : (touchBank t o n p s).overPend = s.overPend := rfl
@[simp] theorem touchBank_nextId (t o n : Nat) (p : Pol) : (touchBank t o n p s).nextId = s.nextId := rfl
@[simp] theorem touchBank_mbAddr (t o n : Nat) (p : Pol) : (touchBank t o n p s).mbAddr = s.mbAddr := rfl
@[simp] theorem touchBank_dbgDat (t o n : Nat) (p : Pol) : (touchBank t o n p s).dbgDat = s.dbgDat := rfl
@[simp] theorem touchBank_dbgSince (t o n : Nat) (p : Pol) : (touchBank t o n p s).dbgSince = s.dbgSince := rfl
@[simp] theorem touchBank_dbgRun (t o n : Nat) (p : Pol) : (touchBank t o n p s).dbgRun = s.dbgRun := rfl
@[simp] theorem touchBank_dbgWaited (t o n : Nat) (p : Pol) : (touchBank t o n p s).dbgWaited = s.dbgWaited := rfl
@[simp] theorem touchBank_dbgPri (t o n : Nat) (p : Pol) : (touchBank t o n p s).dbgPri = s.dbgPri := rfl
@[simp] theorem touchBank_dbgPriFail (t o n : Nat) (p : Pol) : (touchBank t o n p s).dbgPriFail = s.dbgPriFail := rfl
@[simp] theorem touchBank_dbgRow (t o n : Nat) (p : Pol) : (touchBank t o n p s).dbgRow = s.dbgRow := rfl
@[simp] theorem touchBank_msix (t o n : Nat) (p : Pol) : (touchBank t o n p s).msix = s.msix := rfl
@[simp] theorem touchBank_volts (t o n : Nat) (p : Pol) : (touchBank t o n p s).volts = s.volts := rfl
@[simp] theorem touchBank_netLast (t o n : Nat) (p : Pol) : (touchBank t o n p s).netLast = s.netLast := rfl
@[simp] theorem touchBank_netPrev (t o n : Nat) (p : Pol) : (touchBank t o n p s).netPrev = s.netPrev := rfl
@[simp] theorem touchBank_netUsed (t o n : Nat) (p : Pol) : (touchBank t o n p s).netUsed = s.netUsed := rfl
@[simp] theorem touchBank_netMaybe (t o n : Nat) (p : Pol) : (touchBank t o n p s).netMaybe = s.netMaybe := rfl
@[simp] theorem touchBank_netOpen (t o n : Nat) (p : Pol) : (touchBank t o n p s).netOpen = s.netOpen := rfl
@[simp] theorem touchBank_mgmt (t o n : Nat) (p : Pol) : (touchBank t o n p s).mgmt = s.mgmt := rfl
@[simp] theorem touchBank_hostData (t o n : Nat) (p : Pol) : (touchBank t o n p s).hostData = s.hostData := rfl
@[simp] theorem touchBank_hostAccs (t o n : Nat) (p : Pol) : (touchBank t o n p s).hostAccs = s.hostAccs := rfl
@[simp] theorem touchBank_hist (t o n : Nat) (p : Pol) : (touchBank t o n p s).hist = s.hist := rfl
@[simp] theorem touchBank_writes (t o n : Nat) (p : Pol) : (touchBank t o n p s).writes = s.writes := rfl
@[simp] theorem touchBank_asOf (t o n : Nat) (p : Pol) : (touchBank t o n p s).asOf = s.asOf := rfl
@[simp] theorem touchBank_pick (t o n : Nat) (p : Pol) : (touchBank t o n p s).pick = s.pick := rfl
@[simp] theorem touchBank_scOrder (t o n : Nat) (p : Pol) : (touchBank t o n p s).scOrder = s.scOrder := rfl
@[simp] theorem touchBank_pub (t o n : Nat) (p : Pol) : (touchBank t o n p s).pub = s.pub := rfl
@[simp] theorem touchBank_mailSeen (t o n : Nat) (p : Pol) : (touchBank t o n p s).mailSeen = s.mailSeen := rfl
@[simp] theorem touchBank_tlnSeen (t o n : Nat) (p : Pol) : (touchBank t o n p s).tlnSeen = s.tlnSeen := rfl
@[simp] theorem touchBank_agenda (t o n : Nat) (p : Pol) : (touchBank t o n p s).agenda = s.agenda := rfl
@[simp] theorem touchBank_focusTile (t o n : Nat) (p : Pol) : (touchBank t o n p s).focusTile = s.focusTile := rfl
@[simp] theorem touchBank_focusCtx (t o n : Nat) (p : Pol) : (touchBank t o n p s).focusCtx = s.focusCtx := rfl
@[simp] theorem touchBank_grp (t o n : Nat) (p : Pol) : (touchBank t o n p s).grp = s.grp := rfl
@[simp] theorem touchBank_freeCount (t o n : Nat) (p : Pol) : (touchBank t o n p s).freeCount = s.freeCount := rfl

@[simp] theorem modPart_time (p : Nat) (f : Part → Part) : (modPart p f s).time = s.time := rfl
@[simp] theorem modPart_epoch (p : Nat) (f : Part → Part) : (modPart p f s).epoch = s.epoch := rfl
@[simp] theorem modPart_mem (p : Nat) (f : Part → Part) : (modPart p f s).mem = s.mem := rfl
@[simp] theorem modPart_poison (p : Nat) (f : Part → Part) : (modPart p f s).poison = s.poison := rfl
@[simp] theorem modPart_remap (p : Nat) (f : Part → Part) : (modPart p f s).remap = s.remap := rfl
@[simp] theorem modPart_tiles (p : Nat) (f : Part → Part) : (modPart p f s).tiles = s.tiles := rfl
@[simp] theorem modPart_bars (p : Nat) (f : Part → Part) : (modPart p f s).bars = s.bars := rfl
@[simp] theorem modPart_barArr (p : Nat) (f : Part → Part) : (modPart p f s).barArr = s.barArr := rfl
@[simp] theorem modPart_regs (p : Nat) (f : Part → Part) : (modPart p f s).regs = s.regs := rfl
@[simp] theorem modPart_tln (p : Nat) (f : Part → Part) : (modPart p f s).tln = s.tln := rfl
@[simp] theorem modPart_queues (p : Nat) (f : Part → Part) : (modPart p f s).queues = s.queues := rfl
@[simp] theorem modPart_launches (p : Nat) (f : Part → Part) : (modPart p f s).launches = s.launches := rfl
@[simp] theorem modPart_nextSerial (p : Nat) (f : Part → Part) : (modPart p f s).nextSerial = s.nextSerial := rfl
@[simp] theorem modPart_counters (p : Nat) (f : Part → Part) : (modPart p f s).counters = s.counters := rfl
@[simp] theorem modPart_ats (p : Nat) (f : Part → Part) : (modPart p f s).ats = s.ats := rfl
@[simp] theorem modPart_atsRO (p : Nat) (f : Part → Part) : (modPart p f s).atsRO = s.atsRO := rfl
@[simp] theorem modPart_hostRO (p : Nat) (f : Part → Part) : (modPart p f s).hostRO = s.hostRO := rfl
@[simp] theorem modPart_hostFails (p : Nat) (f : Part → Part) : (modPart p f s).hostFails = s.hostFails := rfl
@[simp] theorem modPart_invs (p : Nat) (f : Part → Part) : (modPart p f s).invs = s.invs := rfl
@[simp] theorem modPart_priReqs (p : Nat) (f : Part → Part) : (modPart p f s).priReqs = s.priReqs := rfl
@[simp] theorem modPart_shoot (p : Nat) (f : Part → Part) : (modPart p f s).shoot = s.shoot := rfl
@[simp] theorem modPart_wdexp (p : Nat) (f : Part → Part) : (modPart p f s).wdexp = s.wdexp := rfl
@[simp] theorem modPart_jsel (p : Nat) (f : Part → Part) : (modPart p f s).jsel = s.jsel := rfl
@[simp] theorem modPart_jnext (p : Nat) (f : Part → Part) : (modPart p f s).jnext = s.jnext := rfl
@[simp] theorem modPart_dumps (p : Nat) (f : Part → Part) : (modPart p f s).dumps = s.dumps := rfl
@[simp] theorem modPart_toAccept (p : Nat) (f : Part → Part) : (modPart p f s).toAccept = s.toAccept := rfl
@[simp] theorem modPart_replies (p : Nat) (f : Part → Part) : (modPart p f s).replies = s.replies := rfl
@[simp] theorem modPart_cancels (p : Nat) (f : Part → Part) : (modPart p f s).cancels = s.cancels := rfl
@[simp] theorem modPart_conts (p : Nat) (f : Part → Part) : (modPart p f s).conts = s.conts := rfl
@[simp] theorem modPart_agentReqs (p : Nat) (f : Part → Part) : (modPart p f s).agentReqs = s.agentReqs := rfl
@[simp] theorem modPart_late (p : Nat) (f : Part → Part) : (modPart p f s).late = s.late := rfl
@[simp] theorem modPart_overPend (p : Nat) (f : Part → Part) : (modPart p f s).overPend = s.overPend := rfl
@[simp] theorem modPart_nextId (p : Nat) (f : Part → Part) : (modPart p f s).nextId = s.nextId := rfl
@[simp] theorem modPart_mbAddr (p : Nat) (f : Part → Part) : (modPart p f s).mbAddr = s.mbAddr := rfl
@[simp] theorem modPart_dbgDat (p : Nat) (f : Part → Part) : (modPart p f s).dbgDat = s.dbgDat := rfl
@[simp] theorem modPart_dbgSince (p : Nat) (f : Part → Part) : (modPart p f s).dbgSince = s.dbgSince := rfl
@[simp] theorem modPart_dbgRun (p : Nat) (f : Part → Part) : (modPart p f s).dbgRun = s.dbgRun := rfl
@[simp] theorem modPart_dbgWaited (p : Nat) (f : Part → Part) : (modPart p f s).dbgWaited = s.dbgWaited := rfl
@[simp] theorem modPart_dbgPri (p : Nat) (f : Part → Part) : (modPart p f s).dbgPri = s.dbgPri := rfl
@[simp] theorem modPart_dbgPriFail (p : Nat) (f : Part → Part) : (modPart p f s).dbgPriFail = s.dbgPriFail := rfl
@[simp] theorem modPart_dbgRow (p : Nat) (f : Part → Part) : (modPart p f s).dbgRow = s.dbgRow := rfl
@[simp] theorem modPart_msix (p : Nat) (f : Part → Part) : (modPart p f s).msix = s.msix := rfl
@[simp] theorem modPart_volts (p : Nat) (f : Part → Part) : (modPart p f s).volts = s.volts := rfl
@[simp] theorem modPart_netLast (p : Nat) (f : Part → Part) : (modPart p f s).netLast = s.netLast := rfl
@[simp] theorem modPart_netPrev (p : Nat) (f : Part → Part) : (modPart p f s).netPrev = s.netPrev := rfl
@[simp] theorem modPart_netUsed (p : Nat) (f : Part → Part) : (modPart p f s).netUsed = s.netUsed := rfl
@[simp] theorem modPart_netMaybe (p : Nat) (f : Part → Part) : (modPart p f s).netMaybe = s.netMaybe := rfl
@[simp] theorem modPart_netOpen (p : Nat) (f : Part → Part) : (modPart p f s).netOpen = s.netOpen := rfl
@[simp] theorem modPart_mgmt (p : Nat) (f : Part → Part) : (modPart p f s).mgmt = s.mgmt := rfl
@[simp] theorem modPart_hostData (p : Nat) (f : Part → Part) : (modPart p f s).hostData = s.hostData := rfl
@[simp] theorem modPart_hostAccs (p : Nat) (f : Part → Part) : (modPart p f s).hostAccs = s.hostAccs := rfl
@[simp] theorem modPart_hist (p : Nat) (f : Part → Part) : (modPart p f s).hist = s.hist := rfl
@[simp] theorem modPart_writes (p : Nat) (f : Part → Part) : (modPart p f s).writes = s.writes := rfl
@[simp] theorem modPart_asOf (p : Nat) (f : Part → Part) : (modPart p f s).asOf = s.asOf := rfl
@[simp] theorem modPart_pick (p : Nat) (f : Part → Part) : (modPart p f s).pick = s.pick := rfl
@[simp] theorem modPart_scOrder (p : Nat) (f : Part → Part) : (modPart p f s).scOrder = s.scOrder := rfl
@[simp] theorem modPart_pub (p : Nat) (f : Part → Part) : (modPart p f s).pub = s.pub := rfl
@[simp] theorem modPart_mailSeen (p : Nat) (f : Part → Part) : (modPart p f s).mailSeen = s.mailSeen := rfl
@[simp] theorem modPart_tlnSeen (p : Nat) (f : Part → Part) : (modPart p f s).tlnSeen = s.tlnSeen := rfl
@[simp] theorem modPart_agenda (p : Nat) (f : Part → Part) : (modPart p f s).agenda = s.agenda := rfl
@[simp] theorem modPart_focusTile (p : Nat) (f : Part → Part) : (modPart p f s).focusTile = s.focusTile := rfl
@[simp] theorem modPart_focusCtx (p : Nat) (f : Part → Part) : (modPart p f s).focusCtx = s.focusCtx := rfl
@[simp] theorem modPart_grp (p : Nat) (f : Part → Part) : (modPart p f s).grp = s.grp := rfl
@[simp] theorem modPart_freeCount (p : Nat) (f : Part → Part) : (modPart p f s).freeCount = s.freeCount := rfl

@[simp] theorem modQueue_time (q : Nat) (f : Queue → Queue) : (modQueue q f s).time = s.time := rfl
@[simp] theorem modQueue_epoch (q : Nat) (f : Queue → Queue) : (modQueue q f s).epoch = s.epoch := rfl
@[simp] theorem modQueue_mem (q : Nat) (f : Queue → Queue) : (modQueue q f s).mem = s.mem := rfl
@[simp] theorem modQueue_poison (q : Nat) (f : Queue → Queue) : (modQueue q f s).poison = s.poison := rfl
@[simp] theorem modQueue_remap (q : Nat) (f : Queue → Queue) : (modQueue q f s).remap = s.remap := rfl
@[simp] theorem modQueue_tiles (q : Nat) (f : Queue → Queue) : (modQueue q f s).tiles = s.tiles := rfl
@[simp] theorem modQueue_bars (q : Nat) (f : Queue → Queue) : (modQueue q f s).bars = s.bars := rfl
@[simp] theorem modQueue_barArr (q : Nat) (f : Queue → Queue) : (modQueue q f s).barArr = s.barArr := rfl
@[simp] theorem modQueue_regs (q : Nat) (f : Queue → Queue) : (modQueue q f s).regs = s.regs := rfl
@[simp] theorem modQueue_tln (q : Nat) (f : Queue → Queue) : (modQueue q f s).tln = s.tln := rfl
@[simp] theorem modQueue_parts (q : Nat) (f : Queue → Queue) : (modQueue q f s).parts = s.parts := rfl
@[simp] theorem modQueue_launches (q : Nat) (f : Queue → Queue) : (modQueue q f s).launches = s.launches := rfl
@[simp] theorem modQueue_nextSerial (q : Nat) (f : Queue → Queue) : (modQueue q f s).nextSerial = s.nextSerial := rfl
@[simp] theorem modQueue_counters (q : Nat) (f : Queue → Queue) : (modQueue q f s).counters = s.counters := rfl
@[simp] theorem modQueue_ats (q : Nat) (f : Queue → Queue) : (modQueue q f s).ats = s.ats := rfl
@[simp] theorem modQueue_atsRO (q : Nat) (f : Queue → Queue) : (modQueue q f s).atsRO = s.atsRO := rfl
@[simp] theorem modQueue_hostRO (q : Nat) (f : Queue → Queue) : (modQueue q f s).hostRO = s.hostRO := rfl
@[simp] theorem modQueue_hostFails (q : Nat) (f : Queue → Queue) : (modQueue q f s).hostFails = s.hostFails := rfl
@[simp] theorem modQueue_invs (q : Nat) (f : Queue → Queue) : (modQueue q f s).invs = s.invs := rfl
@[simp] theorem modQueue_priReqs (q : Nat) (f : Queue → Queue) : (modQueue q f s).priReqs = s.priReqs := rfl
@[simp] theorem modQueue_shoot (q : Nat) (f : Queue → Queue) : (modQueue q f s).shoot = s.shoot := rfl
@[simp] theorem modQueue_wdexp (q : Nat) (f : Queue → Queue) : (modQueue q f s).wdexp = s.wdexp := rfl
@[simp] theorem modQueue_jsel (q : Nat) (f : Queue → Queue) : (modQueue q f s).jsel = s.jsel := rfl
@[simp] theorem modQueue_jnext (q : Nat) (f : Queue → Queue) : (modQueue q f s).jnext = s.jnext := rfl
@[simp] theorem modQueue_dumps (q : Nat) (f : Queue → Queue) : (modQueue q f s).dumps = s.dumps := rfl
@[simp] theorem modQueue_toAccept (q : Nat) (f : Queue → Queue) : (modQueue q f s).toAccept = s.toAccept := rfl
@[simp] theorem modQueue_replies (q : Nat) (f : Queue → Queue) : (modQueue q f s).replies = s.replies := rfl
@[simp] theorem modQueue_cancels (q : Nat) (f : Queue → Queue) : (modQueue q f s).cancels = s.cancels := rfl
@[simp] theorem modQueue_conts (q : Nat) (f : Queue → Queue) : (modQueue q f s).conts = s.conts := rfl
@[simp] theorem modQueue_agentReqs (q : Nat) (f : Queue → Queue) : (modQueue q f s).agentReqs = s.agentReqs := rfl
@[simp] theorem modQueue_late (q : Nat) (f : Queue → Queue) : (modQueue q f s).late = s.late := rfl
@[simp] theorem modQueue_overPend (q : Nat) (f : Queue → Queue) : (modQueue q f s).overPend = s.overPend := rfl
@[simp] theorem modQueue_nextId (q : Nat) (f : Queue → Queue) : (modQueue q f s).nextId = s.nextId := rfl
@[simp] theorem modQueue_mbAddr (q : Nat) (f : Queue → Queue) : (modQueue q f s).mbAddr = s.mbAddr := rfl
@[simp] theorem modQueue_dbgDat (q : Nat) (f : Queue → Queue) : (modQueue q f s).dbgDat = s.dbgDat := rfl
@[simp] theorem modQueue_dbgSince (q : Nat) (f : Queue → Queue) : (modQueue q f s).dbgSince = s.dbgSince := rfl
@[simp] theorem modQueue_dbgRun (q : Nat) (f : Queue → Queue) : (modQueue q f s).dbgRun = s.dbgRun := rfl
@[simp] theorem modQueue_dbgWaited (q : Nat) (f : Queue → Queue) : (modQueue q f s).dbgWaited = s.dbgWaited := rfl
@[simp] theorem modQueue_dbgPri (q : Nat) (f : Queue → Queue) : (modQueue q f s).dbgPri = s.dbgPri := rfl
@[simp] theorem modQueue_dbgPriFail (q : Nat) (f : Queue → Queue) : (modQueue q f s).dbgPriFail = s.dbgPriFail := rfl
@[simp] theorem modQueue_dbgRow (q : Nat) (f : Queue → Queue) : (modQueue q f s).dbgRow = s.dbgRow := rfl
@[simp] theorem modQueue_msix (q : Nat) (f : Queue → Queue) : (modQueue q f s).msix = s.msix := rfl
@[simp] theorem modQueue_volts (q : Nat) (f : Queue → Queue) : (modQueue q f s).volts = s.volts := rfl
@[simp] theorem modQueue_netLast (q : Nat) (f : Queue → Queue) : (modQueue q f s).netLast = s.netLast := rfl
@[simp] theorem modQueue_netPrev (q : Nat) (f : Queue → Queue) : (modQueue q f s).netPrev = s.netPrev := rfl
@[simp] theorem modQueue_netUsed (q : Nat) (f : Queue → Queue) : (modQueue q f s).netUsed = s.netUsed := rfl
@[simp] theorem modQueue_netMaybe (q : Nat) (f : Queue → Queue) : (modQueue q f s).netMaybe = s.netMaybe := rfl
@[simp] theorem modQueue_netOpen (q : Nat) (f : Queue → Queue) : (modQueue q f s).netOpen = s.netOpen := rfl
@[simp] theorem modQueue_mgmt (q : Nat) (f : Queue → Queue) : (modQueue q f s).mgmt = s.mgmt := rfl
@[simp] theorem modQueue_hostData (q : Nat) (f : Queue → Queue) : (modQueue q f s).hostData = s.hostData := rfl
@[simp] theorem modQueue_hostAccs (q : Nat) (f : Queue → Queue) : (modQueue q f s).hostAccs = s.hostAccs := rfl
@[simp] theorem modQueue_hist (q : Nat) (f : Queue → Queue) : (modQueue q f s).hist = s.hist := rfl
@[simp] theorem modQueue_writes (q : Nat) (f : Queue → Queue) : (modQueue q f s).writes = s.writes := rfl
@[simp] theorem modQueue_asOf (q : Nat) (f : Queue → Queue) : (modQueue q f s).asOf = s.asOf := rfl
@[simp] theorem modQueue_pick (q : Nat) (f : Queue → Queue) : (modQueue q f s).pick = s.pick := rfl
@[simp] theorem modQueue_scOrder (q : Nat) (f : Queue → Queue) : (modQueue q f s).scOrder = s.scOrder := rfl
@[simp] theorem modQueue_pub (q : Nat) (f : Queue → Queue) : (modQueue q f s).pub = s.pub := rfl
@[simp] theorem modQueue_mailSeen (q : Nat) (f : Queue → Queue) : (modQueue q f s).mailSeen = s.mailSeen := rfl
@[simp] theorem modQueue_tlnSeen (q : Nat) (f : Queue → Queue) : (modQueue q f s).tlnSeen = s.tlnSeen := rfl
@[simp] theorem modQueue_agenda (q : Nat) (f : Queue → Queue) : (modQueue q f s).agenda = s.agenda := rfl
@[simp] theorem modQueue_focusTile (q : Nat) (f : Queue → Queue) : (modQueue q f s).focusTile = s.focusTile := rfl
@[simp] theorem modQueue_focusCtx (q : Nat) (f : Queue → Queue) : (modQueue q f s).focusCtx = s.focusCtx := rfl
@[simp] theorem modQueue_grp (q : Nat) (f : Queue → Queue) : (modQueue q f s).grp = s.grp := rfl
@[simp] theorem modQueue_freeCount (q : Nat) (f : Queue → Queue) : (modQueue q f s).freeCount = s.freeCount := rfl

@[simp] theorem modLaunch_time (n : Nat) (f : Launch → Launch) : (modLaunch n f s).time = s.time := rfl
@[simp] theorem modLaunch_epoch (n : Nat) (f : Launch → Launch) : (modLaunch n f s).epoch = s.epoch := rfl
@[simp] theorem modLaunch_mem (n : Nat) (f : Launch → Launch) : (modLaunch n f s).mem = s.mem := rfl
@[simp] theorem modLaunch_poison (n : Nat) (f : Launch → Launch) : (modLaunch n f s).poison = s.poison := rfl
@[simp] theorem modLaunch_remap (n : Nat) (f : Launch → Launch) : (modLaunch n f s).remap = s.remap := rfl
@[simp] theorem modLaunch_tiles (n : Nat) (f : Launch → Launch) : (modLaunch n f s).tiles = s.tiles := rfl
@[simp] theorem modLaunch_bars (n : Nat) (f : Launch → Launch) : (modLaunch n f s).bars = s.bars := rfl
@[simp] theorem modLaunch_barArr (n : Nat) (f : Launch → Launch) : (modLaunch n f s).barArr = s.barArr := rfl
@[simp] theorem modLaunch_regs (n : Nat) (f : Launch → Launch) : (modLaunch n f s).regs = s.regs := rfl
@[simp] theorem modLaunch_tln (n : Nat) (f : Launch → Launch) : (modLaunch n f s).tln = s.tln := rfl
@[simp] theorem modLaunch_queues (n : Nat) (f : Launch → Launch) : (modLaunch n f s).queues = s.queues := rfl
@[simp] theorem modLaunch_parts (n : Nat) (f : Launch → Launch) : (modLaunch n f s).parts = s.parts := rfl
@[simp] theorem modLaunch_nextSerial (n : Nat) (f : Launch → Launch) : (modLaunch n f s).nextSerial = s.nextSerial := rfl
@[simp] theorem modLaunch_counters (n : Nat) (f : Launch → Launch) : (modLaunch n f s).counters = s.counters := rfl
@[simp] theorem modLaunch_ats (n : Nat) (f : Launch → Launch) : (modLaunch n f s).ats = s.ats := rfl
@[simp] theorem modLaunch_atsRO (n : Nat) (f : Launch → Launch) : (modLaunch n f s).atsRO = s.atsRO := rfl
@[simp] theorem modLaunch_hostRO (n : Nat) (f : Launch → Launch) : (modLaunch n f s).hostRO = s.hostRO := rfl
@[simp] theorem modLaunch_hostFails (n : Nat) (f : Launch → Launch) : (modLaunch n f s).hostFails = s.hostFails := rfl
@[simp] theorem modLaunch_invs (n : Nat) (f : Launch → Launch) : (modLaunch n f s).invs = s.invs := rfl
@[simp] theorem modLaunch_priReqs (n : Nat) (f : Launch → Launch) : (modLaunch n f s).priReqs = s.priReqs := rfl
@[simp] theorem modLaunch_shoot (n : Nat) (f : Launch → Launch) : (modLaunch n f s).shoot = s.shoot := rfl
@[simp] theorem modLaunch_wdexp (n : Nat) (f : Launch → Launch) : (modLaunch n f s).wdexp = s.wdexp := rfl
@[simp] theorem modLaunch_jsel (n : Nat) (f : Launch → Launch) : (modLaunch n f s).jsel = s.jsel := rfl
@[simp] theorem modLaunch_jnext (n : Nat) (f : Launch → Launch) : (modLaunch n f s).jnext = s.jnext := rfl
@[simp] theorem modLaunch_dumps (n : Nat) (f : Launch → Launch) : (modLaunch n f s).dumps = s.dumps := rfl
@[simp] theorem modLaunch_toAccept (n : Nat) (f : Launch → Launch) : (modLaunch n f s).toAccept = s.toAccept := rfl
@[simp] theorem modLaunch_replies (n : Nat) (f : Launch → Launch) : (modLaunch n f s).replies = s.replies := rfl
@[simp] theorem modLaunch_cancels (n : Nat) (f : Launch → Launch) : (modLaunch n f s).cancels = s.cancels := rfl
@[simp] theorem modLaunch_conts (n : Nat) (f : Launch → Launch) : (modLaunch n f s).conts = s.conts := rfl
@[simp] theorem modLaunch_agentReqs (n : Nat) (f : Launch → Launch) : (modLaunch n f s).agentReqs = s.agentReqs := rfl
@[simp] theorem modLaunch_late (n : Nat) (f : Launch → Launch) : (modLaunch n f s).late = s.late := rfl
@[simp] theorem modLaunch_overPend (n : Nat) (f : Launch → Launch) : (modLaunch n f s).overPend = s.overPend := rfl
@[simp] theorem modLaunch_nextId (n : Nat) (f : Launch → Launch) : (modLaunch n f s).nextId = s.nextId := rfl
@[simp] theorem modLaunch_mbAddr (n : Nat) (f : Launch → Launch) : (modLaunch n f s).mbAddr = s.mbAddr := rfl
@[simp] theorem modLaunch_dbgDat (n : Nat) (f : Launch → Launch) : (modLaunch n f s).dbgDat = s.dbgDat := rfl
@[simp] theorem modLaunch_dbgSince (n : Nat) (f : Launch → Launch) : (modLaunch n f s).dbgSince = s.dbgSince := rfl
@[simp] theorem modLaunch_dbgRun (n : Nat) (f : Launch → Launch) : (modLaunch n f s).dbgRun = s.dbgRun := rfl
@[simp] theorem modLaunch_dbgWaited (n : Nat) (f : Launch → Launch) : (modLaunch n f s).dbgWaited = s.dbgWaited := rfl
@[simp] theorem modLaunch_dbgPri (n : Nat) (f : Launch → Launch) : (modLaunch n f s).dbgPri = s.dbgPri := rfl
@[simp] theorem modLaunch_dbgPriFail (n : Nat) (f : Launch → Launch) : (modLaunch n f s).dbgPriFail = s.dbgPriFail := rfl
@[simp] theorem modLaunch_dbgRow (n : Nat) (f : Launch → Launch) : (modLaunch n f s).dbgRow = s.dbgRow := rfl
@[simp] theorem modLaunch_msix (n : Nat) (f : Launch → Launch) : (modLaunch n f s).msix = s.msix := rfl
@[simp] theorem modLaunch_volts (n : Nat) (f : Launch → Launch) : (modLaunch n f s).volts = s.volts := rfl
@[simp] theorem modLaunch_netLast (n : Nat) (f : Launch → Launch) : (modLaunch n f s).netLast = s.netLast := rfl
@[simp] theorem modLaunch_netPrev (n : Nat) (f : Launch → Launch) : (modLaunch n f s).netPrev = s.netPrev := rfl
@[simp] theorem modLaunch_netUsed (n : Nat) (f : Launch → Launch) : (modLaunch n f s).netUsed = s.netUsed := rfl
@[simp] theorem modLaunch_netMaybe (n : Nat) (f : Launch → Launch) : (modLaunch n f s).netMaybe = s.netMaybe := rfl
@[simp] theorem modLaunch_netOpen (n : Nat) (f : Launch → Launch) : (modLaunch n f s).netOpen = s.netOpen := rfl
@[simp] theorem modLaunch_mgmt (n : Nat) (f : Launch → Launch) : (modLaunch n f s).mgmt = s.mgmt := rfl
@[simp] theorem modLaunch_hostData (n : Nat) (f : Launch → Launch) : (modLaunch n f s).hostData = s.hostData := rfl
@[simp] theorem modLaunch_hostAccs (n : Nat) (f : Launch → Launch) : (modLaunch n f s).hostAccs = s.hostAccs := rfl
@[simp] theorem modLaunch_hist (n : Nat) (f : Launch → Launch) : (modLaunch n f s).hist = s.hist := rfl
@[simp] theorem modLaunch_writes (n : Nat) (f : Launch → Launch) : (modLaunch n f s).writes = s.writes := rfl
@[simp] theorem modLaunch_asOf (n : Nat) (f : Launch → Launch) : (modLaunch n f s).asOf = s.asOf := rfl
@[simp] theorem modLaunch_pick (n : Nat) (f : Launch → Launch) : (modLaunch n f s).pick = s.pick := rfl
@[simp] theorem modLaunch_scOrder (n : Nat) (f : Launch → Launch) : (modLaunch n f s).scOrder = s.scOrder := rfl
@[simp] theorem modLaunch_pub (n : Nat) (f : Launch → Launch) : (modLaunch n f s).pub = s.pub := rfl
@[simp] theorem modLaunch_mailSeen (n : Nat) (f : Launch → Launch) : (modLaunch n f s).mailSeen = s.mailSeen := rfl
@[simp] theorem modLaunch_tlnSeen (n : Nat) (f : Launch → Launch) : (modLaunch n f s).tlnSeen = s.tlnSeen := rfl
@[simp] theorem modLaunch_agenda (n : Nat) (f : Launch → Launch) : (modLaunch n f s).agenda = s.agenda := rfl
@[simp] theorem modLaunch_focusTile (n : Nat) (f : Launch → Launch) : (modLaunch n f s).focusTile = s.focusTile := rfl
@[simp] theorem modLaunch_focusCtx (n : Nat) (f : Launch → Launch) : (modLaunch n f s).focusCtx = s.focusCtx := rfl
@[simp] theorem modLaunch_grp (n : Nat) (f : Launch → Launch) : (modLaunch n f s).grp = s.grp := rfl
@[simp] theorem modLaunch_freeCount (n : Nat) (f : Launch → Launch) : (modLaunch n f s).freeCount = s.freeCount := rfl

@[simp] theorem raiseMsix_time (v : Nat) : (raiseMsix v s).time = s.time := rfl
@[simp] theorem raiseMsix_epoch (v : Nat) : (raiseMsix v s).epoch = s.epoch := rfl
@[simp] theorem raiseMsix_mem (v : Nat) : (raiseMsix v s).mem = s.mem := rfl
@[simp] theorem raiseMsix_poison (v : Nat) : (raiseMsix v s).poison = s.poison := rfl
@[simp] theorem raiseMsix_remap (v : Nat) : (raiseMsix v s).remap = s.remap := rfl
@[simp] theorem raiseMsix_tiles (v : Nat) : (raiseMsix v s).tiles = s.tiles := rfl
@[simp] theorem raiseMsix_bars (v : Nat) : (raiseMsix v s).bars = s.bars := rfl
@[simp] theorem raiseMsix_barArr (v : Nat) : (raiseMsix v s).barArr = s.barArr := rfl
@[simp] theorem raiseMsix_regs (v : Nat) : (raiseMsix v s).regs = s.regs := rfl
@[simp] theorem raiseMsix_tln (v : Nat) : (raiseMsix v s).tln = s.tln := rfl
@[simp] theorem raiseMsix_queues (v : Nat) : (raiseMsix v s).queues = s.queues := rfl
@[simp] theorem raiseMsix_parts (v : Nat) : (raiseMsix v s).parts = s.parts := rfl
@[simp] theorem raiseMsix_launches (v : Nat) : (raiseMsix v s).launches = s.launches := rfl
@[simp] theorem raiseMsix_nextSerial (v : Nat) : (raiseMsix v s).nextSerial = s.nextSerial := rfl
@[simp] theorem raiseMsix_counters (v : Nat) : (raiseMsix v s).counters = s.counters := rfl
@[simp] theorem raiseMsix_ats (v : Nat) : (raiseMsix v s).ats = s.ats := rfl
@[simp] theorem raiseMsix_atsRO (v : Nat) : (raiseMsix v s).atsRO = s.atsRO := rfl
@[simp] theorem raiseMsix_hostRO (v : Nat) : (raiseMsix v s).hostRO = s.hostRO := rfl
@[simp] theorem raiseMsix_hostFails (v : Nat) : (raiseMsix v s).hostFails = s.hostFails := rfl
@[simp] theorem raiseMsix_invs (v : Nat) : (raiseMsix v s).invs = s.invs := rfl
@[simp] theorem raiseMsix_priReqs (v : Nat) : (raiseMsix v s).priReqs = s.priReqs := rfl
@[simp] theorem raiseMsix_shoot (v : Nat) : (raiseMsix v s).shoot = s.shoot := rfl
@[simp] theorem raiseMsix_wdexp (v : Nat) : (raiseMsix v s).wdexp = s.wdexp := rfl
@[simp] theorem raiseMsix_jsel (v : Nat) : (raiseMsix v s).jsel = s.jsel := rfl
@[simp] theorem raiseMsix_jnext (v : Nat) : (raiseMsix v s).jnext = s.jnext := rfl
@[simp] theorem raiseMsix_dumps (v : Nat) : (raiseMsix v s).dumps = s.dumps := rfl
@[simp] theorem raiseMsix_toAccept (v : Nat) : (raiseMsix v s).toAccept = s.toAccept := rfl
@[simp] theorem raiseMsix_replies (v : Nat) : (raiseMsix v s).replies = s.replies := rfl
@[simp] theorem raiseMsix_cancels (v : Nat) : (raiseMsix v s).cancels = s.cancels := rfl
@[simp] theorem raiseMsix_conts (v : Nat) : (raiseMsix v s).conts = s.conts := rfl
@[simp] theorem raiseMsix_agentReqs (v : Nat) : (raiseMsix v s).agentReqs = s.agentReqs := rfl
@[simp] theorem raiseMsix_late (v : Nat) : (raiseMsix v s).late = s.late := rfl
@[simp] theorem raiseMsix_overPend (v : Nat) : (raiseMsix v s).overPend = s.overPend := rfl
@[simp] theorem raiseMsix_nextId (v : Nat) : (raiseMsix v s).nextId = s.nextId := rfl
@[simp] theorem raiseMsix_mbAddr (v : Nat) : (raiseMsix v s).mbAddr = s.mbAddr := rfl
@[simp] theorem raiseMsix_dbgDat (v : Nat) : (raiseMsix v s).dbgDat = s.dbgDat := rfl
@[simp] theorem raiseMsix_dbgSince (v : Nat) : (raiseMsix v s).dbgSince = s.dbgSince := rfl
@[simp] theorem raiseMsix_dbgRun (v : Nat) : (raiseMsix v s).dbgRun = s.dbgRun := rfl
@[simp] theorem raiseMsix_dbgWaited (v : Nat) : (raiseMsix v s).dbgWaited = s.dbgWaited := rfl
@[simp] theorem raiseMsix_dbgPri (v : Nat) : (raiseMsix v s).dbgPri = s.dbgPri := rfl
@[simp] theorem raiseMsix_dbgPriFail (v : Nat) : (raiseMsix v s).dbgPriFail = s.dbgPriFail := rfl
@[simp] theorem raiseMsix_dbgRow (v : Nat) : (raiseMsix v s).dbgRow = s.dbgRow := rfl
@[simp] theorem raiseMsix_volts (v : Nat) : (raiseMsix v s).volts = s.volts := rfl
@[simp] theorem raiseMsix_netLast (v : Nat) : (raiseMsix v s).netLast = s.netLast := rfl
@[simp] theorem raiseMsix_netPrev (v : Nat) : (raiseMsix v s).netPrev = s.netPrev := rfl
@[simp] theorem raiseMsix_netUsed (v : Nat) : (raiseMsix v s).netUsed = s.netUsed := rfl
@[simp] theorem raiseMsix_netMaybe (v : Nat) : (raiseMsix v s).netMaybe = s.netMaybe := rfl
@[simp] theorem raiseMsix_netOpen (v : Nat) : (raiseMsix v s).netOpen = s.netOpen := rfl
@[simp] theorem raiseMsix_mgmt (v : Nat) : (raiseMsix v s).mgmt = s.mgmt := rfl
@[simp] theorem raiseMsix_hostData (v : Nat) : (raiseMsix v s).hostData = s.hostData := rfl
@[simp] theorem raiseMsix_hostAccs (v : Nat) : (raiseMsix v s).hostAccs = s.hostAccs := rfl
@[simp] theorem raiseMsix_hist (v : Nat) : (raiseMsix v s).hist = s.hist := rfl
@[simp] theorem raiseMsix_writes (v : Nat) : (raiseMsix v s).writes = s.writes := rfl
@[simp] theorem raiseMsix_asOf (v : Nat) : (raiseMsix v s).asOf = s.asOf := rfl
@[simp] theorem raiseMsix_pick (v : Nat) : (raiseMsix v s).pick = s.pick := rfl
@[simp] theorem raiseMsix_scOrder (v : Nat) : (raiseMsix v s).scOrder = s.scOrder := rfl
@[simp] theorem raiseMsix_pub (v : Nat) : (raiseMsix v s).pub = s.pub := rfl
@[simp] theorem raiseMsix_mailSeen (v : Nat) : (raiseMsix v s).mailSeen = s.mailSeen := rfl
@[simp] theorem raiseMsix_tlnSeen (v : Nat) : (raiseMsix v s).tlnSeen = s.tlnSeen := rfl
@[simp] theorem raiseMsix_agenda (v : Nat) : (raiseMsix v s).agenda = s.agenda := rfl
@[simp] theorem raiseMsix_focusTile (v : Nat) : (raiseMsix v s).focusTile = s.focusTile := rfl
@[simp] theorem raiseMsix_focusCtx (v : Nat) : (raiseMsix v s).focusCtx = s.focusCtx := rfl
@[simp] theorem raiseMsix_grp (v : Nat) : (raiseMsix v s).grp = s.grp := rfl
@[simp] theorem raiseMsix_freeCount (v : Nat) : (raiseMsix v s).freeCount = s.freeCount := rfl

@[simp] theorem writeMem_time (a n v : Nat) : (writeMem a n v s).time = s.time := rfl
@[simp] theorem writeMem_epoch (a n v : Nat) : (writeMem a n v s).epoch = s.epoch := rfl
@[simp] theorem writeMem_poison (a n v : Nat) : (writeMem a n v s).poison = s.poison := rfl
@[simp] theorem writeMem_remap (a n v : Nat) : (writeMem a n v s).remap = s.remap := rfl
@[simp] theorem writeMem_tiles (a n v : Nat) : (writeMem a n v s).tiles = s.tiles := rfl
@[simp] theorem writeMem_bars (a n v : Nat) : (writeMem a n v s).bars = s.bars := rfl
@[simp] theorem writeMem_barArr (a n v : Nat) : (writeMem a n v s).barArr = s.barArr := rfl
@[simp] theorem writeMem_regs (a n v : Nat) : (writeMem a n v s).regs = s.regs := rfl
@[simp] theorem writeMem_tln (a n v : Nat) : (writeMem a n v s).tln = s.tln := rfl
@[simp] theorem writeMem_queues (a n v : Nat) : (writeMem a n v s).queues = s.queues := rfl
@[simp] theorem writeMem_parts (a n v : Nat) : (writeMem a n v s).parts = s.parts := rfl
@[simp] theorem writeMem_launches (a n v : Nat) : (writeMem a n v s).launches = s.launches := rfl
@[simp] theorem writeMem_nextSerial (a n v : Nat) : (writeMem a n v s).nextSerial = s.nextSerial := rfl
@[simp] theorem writeMem_counters (a n v : Nat) : (writeMem a n v s).counters = s.counters := rfl
@[simp] theorem writeMem_ats (a n v : Nat) : (writeMem a n v s).ats = s.ats := rfl
@[simp] theorem writeMem_atsRO (a n v : Nat) : (writeMem a n v s).atsRO = s.atsRO := rfl
@[simp] theorem writeMem_hostRO (a n v : Nat) : (writeMem a n v s).hostRO = s.hostRO := rfl
@[simp] theorem writeMem_hostFails (a n v : Nat) : (writeMem a n v s).hostFails = s.hostFails := rfl
@[simp] theorem writeMem_invs (a n v : Nat) : (writeMem a n v s).invs = s.invs := rfl
@[simp] theorem writeMem_priReqs (a n v : Nat) : (writeMem a n v s).priReqs = s.priReqs := rfl
@[simp] theorem writeMem_shoot (a n v : Nat) : (writeMem a n v s).shoot = s.shoot := rfl
@[simp] theorem writeMem_wdexp (a n v : Nat) : (writeMem a n v s).wdexp = s.wdexp := rfl
@[simp] theorem writeMem_jsel (a n v : Nat) : (writeMem a n v s).jsel = s.jsel := rfl
@[simp] theorem writeMem_jnext (a n v : Nat) : (writeMem a n v s).jnext = s.jnext := rfl
@[simp] theorem writeMem_dumps (a n v : Nat) : (writeMem a n v s).dumps = s.dumps := rfl
@[simp] theorem writeMem_toAccept (a n v : Nat) : (writeMem a n v s).toAccept = s.toAccept := rfl
@[simp] theorem writeMem_replies (a n v : Nat) : (writeMem a n v s).replies = s.replies := rfl
@[simp] theorem writeMem_cancels (a n v : Nat) : (writeMem a n v s).cancels = s.cancels := rfl
@[simp] theorem writeMem_conts (a n v : Nat) : (writeMem a n v s).conts = s.conts := rfl
@[simp] theorem writeMem_agentReqs (a n v : Nat) : (writeMem a n v s).agentReqs = s.agentReqs := rfl
@[simp] theorem writeMem_late (a n v : Nat) : (writeMem a n v s).late = s.late := rfl
@[simp] theorem writeMem_overPend (a n v : Nat) : (writeMem a n v s).overPend = s.overPend := rfl
@[simp] theorem writeMem_nextId (a n v : Nat) : (writeMem a n v s).nextId = s.nextId := rfl
@[simp] theorem writeMem_mbAddr (a n v : Nat) : (writeMem a n v s).mbAddr = s.mbAddr := rfl
@[simp] theorem writeMem_dbgDat (a n v : Nat) : (writeMem a n v s).dbgDat = s.dbgDat := rfl
@[simp] theorem writeMem_dbgSince (a n v : Nat) : (writeMem a n v s).dbgSince = s.dbgSince := rfl
@[simp] theorem writeMem_dbgRun (a n v : Nat) : (writeMem a n v s).dbgRun = s.dbgRun := rfl
@[simp] theorem writeMem_dbgWaited (a n v : Nat) : (writeMem a n v s).dbgWaited = s.dbgWaited := rfl
@[simp] theorem writeMem_dbgPri (a n v : Nat) : (writeMem a n v s).dbgPri = s.dbgPri := rfl
@[simp] theorem writeMem_dbgPriFail (a n v : Nat) : (writeMem a n v s).dbgPriFail = s.dbgPriFail := rfl
@[simp] theorem writeMem_dbgRow (a n v : Nat) : (writeMem a n v s).dbgRow = s.dbgRow := rfl
@[simp] theorem writeMem_msix (a n v : Nat) : (writeMem a n v s).msix = s.msix := rfl
@[simp] theorem writeMem_volts (a n v : Nat) : (writeMem a n v s).volts = s.volts := rfl
@[simp] theorem writeMem_netLast (a n v : Nat) : (writeMem a n v s).netLast = s.netLast := rfl
@[simp] theorem writeMem_netPrev (a n v : Nat) : (writeMem a n v s).netPrev = s.netPrev := rfl
@[simp] theorem writeMem_netUsed (a n v : Nat) : (writeMem a n v s).netUsed = s.netUsed := rfl
@[simp] theorem writeMem_netMaybe (a n v : Nat) : (writeMem a n v s).netMaybe = s.netMaybe := rfl
@[simp] theorem writeMem_netOpen (a n v : Nat) : (writeMem a n v s).netOpen = s.netOpen := rfl
@[simp] theorem writeMem_mgmt (a n v : Nat) : (writeMem a n v s).mgmt = s.mgmt := rfl
@[simp] theorem writeMem_hostData (a n v : Nat) : (writeMem a n v s).hostData = s.hostData := rfl
@[simp] theorem writeMem_hostAccs (a n v : Nat) : (writeMem a n v s).hostAccs = s.hostAccs := rfl
@[simp] theorem writeMem_hist (a n v : Nat) : (writeMem a n v s).hist = s.hist := rfl
@[simp] theorem writeMem_writes (a n v : Nat) : (writeMem a n v s).writes = s.writes := rfl
@[simp] theorem writeMem_asOf (a n v : Nat) : (writeMem a n v s).asOf = s.asOf := rfl
@[simp] theorem writeMem_pick (a n v : Nat) : (writeMem a n v s).pick = s.pick := rfl
@[simp] theorem writeMem_scOrder (a n v : Nat) : (writeMem a n v s).scOrder = s.scOrder := rfl
@[simp] theorem writeMem_pub (a n v : Nat) : (writeMem a n v s).pub = s.pub := rfl
@[simp] theorem writeMem_mailSeen (a n v : Nat) : (writeMem a n v s).mailSeen = s.mailSeen := rfl
@[simp] theorem writeMem_tlnSeen (a n v : Nat) : (writeMem a n v s).tlnSeen = s.tlnSeen := rfl
@[simp] theorem writeMem_agenda (a n v : Nat) : (writeMem a n v s).agenda = s.agenda := rfl
@[simp] theorem writeMem_focusTile (a n v : Nat) : (writeMem a n v s).focusTile = s.focusTile := rfl
@[simp] theorem writeMem_focusCtx (a n v : Nat) : (writeMem a n v s).focusCtx = s.focusCtx := rfl
@[simp] theorem writeMem_grp (a n v : Nat) : (writeMem a n v s).grp = s.grp := rfl
@[simp] theorem writeMem_freeCount (a n v : Nat) : (writeMem a n v s).freeCount = s.freeCount := rfl

@[simp] theorem setSegPoison_time (a : Nat) (b : Bool) : (setSegPoison a b s).time = s.time := rfl
@[simp] theorem setSegPoison_epoch (a : Nat) (b : Bool) : (setSegPoison a b s).epoch = s.epoch := rfl
@[simp] theorem setSegPoison_mem (a : Nat) (b : Bool) : (setSegPoison a b s).mem = s.mem := rfl
@[simp] theorem setSegPoison_remap (a : Nat) (b : Bool) : (setSegPoison a b s).remap = s.remap := rfl
@[simp] theorem setSegPoison_tiles (a : Nat) (b : Bool) : (setSegPoison a b s).tiles = s.tiles := rfl
@[simp] theorem setSegPoison_bars (a : Nat) (b : Bool) : (setSegPoison a b s).bars = s.bars := rfl
@[simp] theorem setSegPoison_barArr (a : Nat) (b : Bool) : (setSegPoison a b s).barArr = s.barArr := rfl
@[simp] theorem setSegPoison_regs (a : Nat) (b : Bool) : (setSegPoison a b s).regs = s.regs := rfl
@[simp] theorem setSegPoison_tln (a : Nat) (b : Bool) : (setSegPoison a b s).tln = s.tln := rfl
@[simp] theorem setSegPoison_queues (a : Nat) (b : Bool) : (setSegPoison a b s).queues = s.queues := rfl
@[simp] theorem setSegPoison_parts (a : Nat) (b : Bool) : (setSegPoison a b s).parts = s.parts := rfl
@[simp] theorem setSegPoison_launches (a : Nat) (b : Bool) : (setSegPoison a b s).launches = s.launches := rfl
@[simp] theorem setSegPoison_nextSerial (a : Nat) (b : Bool) : (setSegPoison a b s).nextSerial = s.nextSerial := rfl
@[simp] theorem setSegPoison_counters (a : Nat) (b : Bool) : (setSegPoison a b s).counters = s.counters := rfl
@[simp] theorem setSegPoison_ats (a : Nat) (b : Bool) : (setSegPoison a b s).ats = s.ats := rfl
@[simp] theorem setSegPoison_atsRO (a : Nat) (b : Bool) : (setSegPoison a b s).atsRO = s.atsRO := rfl
@[simp] theorem setSegPoison_hostRO (a : Nat) (b : Bool) : (setSegPoison a b s).hostRO = s.hostRO := rfl
@[simp] theorem setSegPoison_hostFails (a : Nat) (b : Bool) : (setSegPoison a b s).hostFails = s.hostFails := rfl
@[simp] theorem setSegPoison_invs (a : Nat) (b : Bool) : (setSegPoison a b s).invs = s.invs := rfl
@[simp] theorem setSegPoison_priReqs (a : Nat) (b : Bool) : (setSegPoison a b s).priReqs = s.priReqs := rfl
@[simp] theorem setSegPoison_shoot (a : Nat) (b : Bool) : (setSegPoison a b s).shoot = s.shoot := rfl
@[simp] theorem setSegPoison_wdexp (a : Nat) (b : Bool) : (setSegPoison a b s).wdexp = s.wdexp := rfl
@[simp] theorem setSegPoison_jsel (a : Nat) (b : Bool) : (setSegPoison a b s).jsel = s.jsel := rfl
@[simp] theorem setSegPoison_jnext (a : Nat) (b : Bool) : (setSegPoison a b s).jnext = s.jnext := rfl
@[simp] theorem setSegPoison_dumps (a : Nat) (b : Bool) : (setSegPoison a b s).dumps = s.dumps := rfl
@[simp] theorem setSegPoison_toAccept (a : Nat) (b : Bool) : (setSegPoison a b s).toAccept = s.toAccept := rfl
@[simp] theorem setSegPoison_replies (a : Nat) (b : Bool) : (setSegPoison a b s).replies = s.replies := rfl
@[simp] theorem setSegPoison_cancels (a : Nat) (b : Bool) : (setSegPoison a b s).cancels = s.cancels := rfl
@[simp] theorem setSegPoison_conts (a : Nat) (b : Bool) : (setSegPoison a b s).conts = s.conts := rfl
@[simp] theorem setSegPoison_agentReqs (a : Nat) (b : Bool) : (setSegPoison a b s).agentReqs = s.agentReqs := rfl
@[simp] theorem setSegPoison_late (a : Nat) (b : Bool) : (setSegPoison a b s).late = s.late := rfl
@[simp] theorem setSegPoison_overPend (a : Nat) (b : Bool) : (setSegPoison a b s).overPend = s.overPend := rfl
@[simp] theorem setSegPoison_nextId (a : Nat) (b : Bool) : (setSegPoison a b s).nextId = s.nextId := rfl
@[simp] theorem setSegPoison_mbAddr (a : Nat) (b : Bool) : (setSegPoison a b s).mbAddr = s.mbAddr := rfl
@[simp] theorem setSegPoison_dbgDat (a : Nat) (b : Bool) : (setSegPoison a b s).dbgDat = s.dbgDat := rfl
@[simp] theorem setSegPoison_dbgSince (a : Nat) (b : Bool) : (setSegPoison a b s).dbgSince = s.dbgSince := rfl
@[simp] theorem setSegPoison_dbgRun (a : Nat) (b : Bool) : (setSegPoison a b s).dbgRun = s.dbgRun := rfl
@[simp] theorem setSegPoison_dbgWaited (a : Nat) (b : Bool) : (setSegPoison a b s).dbgWaited = s.dbgWaited := rfl
@[simp] theorem setSegPoison_dbgPri (a : Nat) (b : Bool) : (setSegPoison a b s).dbgPri = s.dbgPri := rfl
@[simp] theorem setSegPoison_dbgPriFail (a : Nat) (b : Bool) : (setSegPoison a b s).dbgPriFail = s.dbgPriFail := rfl
@[simp] theorem setSegPoison_dbgRow (a : Nat) (b : Bool) : (setSegPoison a b s).dbgRow = s.dbgRow := rfl
@[simp] theorem setSegPoison_msix (a : Nat) (b : Bool) : (setSegPoison a b s).msix = s.msix := rfl
@[simp] theorem setSegPoison_volts (a : Nat) (b : Bool) : (setSegPoison a b s).volts = s.volts := rfl
@[simp] theorem setSegPoison_netLast (a : Nat) (b : Bool) : (setSegPoison a b s).netLast = s.netLast := rfl
@[simp] theorem setSegPoison_netPrev (a : Nat) (b : Bool) : (setSegPoison a b s).netPrev = s.netPrev := rfl
@[simp] theorem setSegPoison_netUsed (a : Nat) (b : Bool) : (setSegPoison a b s).netUsed = s.netUsed := rfl
@[simp] theorem setSegPoison_netMaybe (a : Nat) (b : Bool) : (setSegPoison a b s).netMaybe = s.netMaybe := rfl
@[simp] theorem setSegPoison_netOpen (a : Nat) (b : Bool) : (setSegPoison a b s).netOpen = s.netOpen := rfl
@[simp] theorem setSegPoison_mgmt (a : Nat) (b : Bool) : (setSegPoison a b s).mgmt = s.mgmt := rfl
@[simp] theorem setSegPoison_hostData (a : Nat) (b : Bool) : (setSegPoison a b s).hostData = s.hostData := rfl
@[simp] theorem setSegPoison_hostAccs (a : Nat) (b : Bool) : (setSegPoison a b s).hostAccs = s.hostAccs := rfl
@[simp] theorem setSegPoison_hist (a : Nat) (b : Bool) : (setSegPoison a b s).hist = s.hist := rfl
@[simp] theorem setSegPoison_writes (a : Nat) (b : Bool) : (setSegPoison a b s).writes = s.writes := rfl
@[simp] theorem setSegPoison_asOf (a : Nat) (b : Bool) : (setSegPoison a b s).asOf = s.asOf := rfl
@[simp] theorem setSegPoison_pick (a : Nat) (b : Bool) : (setSegPoison a b s).pick = s.pick := rfl
@[simp] theorem setSegPoison_scOrder (a : Nat) (b : Bool) : (setSegPoison a b s).scOrder = s.scOrder := rfl
@[simp] theorem setSegPoison_pub (a : Nat) (b : Bool) : (setSegPoison a b s).pub = s.pub := rfl
@[simp] theorem setSegPoison_mailSeen (a : Nat) (b : Bool) : (setSegPoison a b s).mailSeen = s.mailSeen := rfl
@[simp] theorem setSegPoison_tlnSeen (a : Nat) (b : Bool) : (setSegPoison a b s).tlnSeen = s.tlnSeen := rfl
@[simp] theorem setSegPoison_agenda (a : Nat) (b : Bool) : (setSegPoison a b s).agenda = s.agenda := rfl
@[simp] theorem setSegPoison_focusTile (a : Nat) (b : Bool) : (setSegPoison a b s).focusTile = s.focusTile := rfl
@[simp] theorem setSegPoison_focusCtx (a : Nat) (b : Bool) : (setSegPoison a b s).focusCtx = s.focusCtx := rfl
@[simp] theorem setSegPoison_grp (a : Nat) (b : Bool) : (setSegPoison a b s).grp = s.grp := rfl
@[simp] theorem setSegPoison_freeCount (a : Nat) (b : Bool) : (setSegPoison a b s).freeCount = s.freeCount := rfl

@[simp] theorem clearFrame_time : (clearFrame s).time = s.time := rfl
@[simp] theorem clearFrame_epoch : (clearFrame s).epoch = s.epoch := rfl
@[simp] theorem clearFrame_mem : (clearFrame s).mem = s.mem := rfl
@[simp] theorem clearFrame_poison : (clearFrame s).poison = s.poison := rfl
@[simp] theorem clearFrame_remap : (clearFrame s).remap = s.remap := rfl
@[simp] theorem clearFrame_tiles : (clearFrame s).tiles = s.tiles := rfl
@[simp] theorem clearFrame_bars : (clearFrame s).bars = s.bars := rfl
@[simp] theorem clearFrame_barArr : (clearFrame s).barArr = s.barArr := rfl
@[simp] theorem clearFrame_regs : (clearFrame s).regs = s.regs := rfl
@[simp] theorem clearFrame_tln : (clearFrame s).tln = s.tln := rfl
@[simp] theorem clearFrame_queues : (clearFrame s).queues = s.queues := rfl
@[simp] theorem clearFrame_parts : (clearFrame s).parts = s.parts := rfl
@[simp] theorem clearFrame_launches : (clearFrame s).launches = s.launches := rfl
@[simp] theorem clearFrame_nextSerial : (clearFrame s).nextSerial = s.nextSerial := rfl
@[simp] theorem clearFrame_counters : (clearFrame s).counters = s.counters := rfl
@[simp] theorem clearFrame_ats : (clearFrame s).ats = s.ats := rfl
@[simp] theorem clearFrame_atsRO : (clearFrame s).atsRO = s.atsRO := rfl
@[simp] theorem clearFrame_hostRO : (clearFrame s).hostRO = s.hostRO := rfl
@[simp] theorem clearFrame_hostFails : (clearFrame s).hostFails = s.hostFails := rfl
@[simp] theorem clearFrame_invs : (clearFrame s).invs = s.invs := rfl
@[simp] theorem clearFrame_priReqs : (clearFrame s).priReqs = s.priReqs := rfl
@[simp] theorem clearFrame_shoot : (clearFrame s).shoot = s.shoot := rfl
@[simp] theorem clearFrame_wdexp : (clearFrame s).wdexp = s.wdexp := rfl
@[simp] theorem clearFrame_jsel : (clearFrame s).jsel = s.jsel := rfl
@[simp] theorem clearFrame_jnext : (clearFrame s).jnext = s.jnext := rfl
@[simp] theorem clearFrame_dumps : (clearFrame s).dumps = s.dumps := rfl
@[simp] theorem clearFrame_toAccept : (clearFrame s).toAccept = s.toAccept := rfl
@[simp] theorem clearFrame_replies : (clearFrame s).replies = s.replies := rfl
@[simp] theorem clearFrame_cancels : (clearFrame s).cancels = s.cancels := rfl
@[simp] theorem clearFrame_conts : (clearFrame s).conts = s.conts := rfl
@[simp] theorem clearFrame_agentReqs : (clearFrame s).agentReqs = s.agentReqs := rfl
@[simp] theorem clearFrame_late : (clearFrame s).late = s.late := rfl
@[simp] theorem clearFrame_overPend : (clearFrame s).overPend = s.overPend := rfl
@[simp] theorem clearFrame_nextId : (clearFrame s).nextId = s.nextId := rfl
@[simp] theorem clearFrame_mbAddr : (clearFrame s).mbAddr = s.mbAddr := rfl
@[simp] theorem clearFrame_dbgDat : (clearFrame s).dbgDat = s.dbgDat := rfl
@[simp] theorem clearFrame_dbgSince : (clearFrame s).dbgSince = s.dbgSince := rfl
@[simp] theorem clearFrame_dbgRun : (clearFrame s).dbgRun = s.dbgRun := rfl
@[simp] theorem clearFrame_dbgWaited : (clearFrame s).dbgWaited = s.dbgWaited := rfl
@[simp] theorem clearFrame_dbgPri : (clearFrame s).dbgPri = s.dbgPri := rfl
@[simp] theorem clearFrame_dbgPriFail : (clearFrame s).dbgPriFail = s.dbgPriFail := rfl
@[simp] theorem clearFrame_dbgRow : (clearFrame s).dbgRow = s.dbgRow := rfl
@[simp] theorem clearFrame_msix : (clearFrame s).msix = s.msix := rfl
@[simp] theorem clearFrame_volts : (clearFrame s).volts = s.volts := rfl
@[simp] theorem clearFrame_netLast : (clearFrame s).netLast = s.netLast := rfl
@[simp] theorem clearFrame_netPrev : (clearFrame s).netPrev = s.netPrev := rfl
@[simp] theorem clearFrame_netUsed : (clearFrame s).netUsed = s.netUsed := rfl
@[simp] theorem clearFrame_netMaybe : (clearFrame s).netMaybe = s.netMaybe := rfl
@[simp] theorem clearFrame_netOpen : (clearFrame s).netOpen = s.netOpen := rfl
@[simp] theorem clearFrame_mgmt : (clearFrame s).mgmt = s.mgmt := rfl
@[simp] theorem clearFrame_hostData : (clearFrame s).hostData = s.hostData := rfl
@[simp] theorem clearFrame_hostAccs : (clearFrame s).hostAccs = s.hostAccs := rfl
@[simp] theorem clearFrame_hist : (clearFrame s).hist = s.hist := rfl
@[simp] theorem clearFrame_writes : (clearFrame s).writes = s.writes := rfl
@[simp] theorem clearFrame_asOf : (clearFrame s).asOf = s.asOf := rfl
@[simp] theorem clearFrame_pick : (clearFrame s).pick = s.pick := rfl
@[simp] theorem clearFrame_scOrder : (clearFrame s).scOrder = s.scOrder := rfl
@[simp] theorem clearFrame_pub : (clearFrame s).pub = s.pub := rfl
@[simp] theorem clearFrame_mailSeen : (clearFrame s).mailSeen = s.mailSeen := rfl
@[simp] theorem clearFrame_tlnSeen : (clearFrame s).tlnSeen = s.tlnSeen := rfl
@[simp] theorem clearFrame_agenda : (clearFrame s).agenda = s.agenda := rfl
@[simp] theorem clearFrame_focusTile : (clearFrame s).focusTile = s.focusTile := rfl
@[simp] theorem clearFrame_focusCtx : (clearFrame s).focusCtx = s.focusCtx := rfl
@[simp] theorem clearFrame_freeCount : (clearFrame s).freeCount = s.freeCount := rfl

@[simp] theorem noteWrite_time (a n : Nat) : (noteWrite a n s).time = s.time := rfl
@[simp] theorem noteWrite_epoch (a n : Nat) : (noteWrite a n s).epoch = s.epoch := rfl
@[simp] theorem noteWrite_mem (a n : Nat) : (noteWrite a n s).mem = s.mem := rfl
@[simp] theorem noteWrite_poison (a n : Nat) : (noteWrite a n s).poison = s.poison := rfl
@[simp] theorem noteWrite_remap (a n : Nat) : (noteWrite a n s).remap = s.remap := rfl
@[simp] theorem noteWrite_tiles (a n : Nat) : (noteWrite a n s).tiles = s.tiles := rfl
@[simp] theorem noteWrite_bars (a n : Nat) : (noteWrite a n s).bars = s.bars := rfl
@[simp] theorem noteWrite_barArr (a n : Nat) : (noteWrite a n s).barArr = s.barArr := rfl
@[simp] theorem noteWrite_regs (a n : Nat) : (noteWrite a n s).regs = s.regs := rfl
@[simp] theorem noteWrite_tln (a n : Nat) : (noteWrite a n s).tln = s.tln := rfl
@[simp] theorem noteWrite_queues (a n : Nat) : (noteWrite a n s).queues = s.queues := rfl
@[simp] theorem noteWrite_parts (a n : Nat) : (noteWrite a n s).parts = s.parts := rfl
@[simp] theorem noteWrite_launches (a n : Nat) : (noteWrite a n s).launches = s.launches := rfl
@[simp] theorem noteWrite_nextSerial (a n : Nat) : (noteWrite a n s).nextSerial = s.nextSerial := rfl
@[simp] theorem noteWrite_counters (a n : Nat) : (noteWrite a n s).counters = s.counters := rfl
@[simp] theorem noteWrite_ats (a n : Nat) : (noteWrite a n s).ats = s.ats := rfl
@[simp] theorem noteWrite_atsRO (a n : Nat) : (noteWrite a n s).atsRO = s.atsRO := rfl
@[simp] theorem noteWrite_hostRO (a n : Nat) : (noteWrite a n s).hostRO = s.hostRO := rfl
@[simp] theorem noteWrite_hostFails (a n : Nat) : (noteWrite a n s).hostFails = s.hostFails := rfl
@[simp] theorem noteWrite_invs (a n : Nat) : (noteWrite a n s).invs = s.invs := rfl
@[simp] theorem noteWrite_priReqs (a n : Nat) : (noteWrite a n s).priReqs = s.priReqs := rfl
@[simp] theorem noteWrite_shoot (a n : Nat) : (noteWrite a n s).shoot = s.shoot := rfl
@[simp] theorem noteWrite_wdexp (a n : Nat) : (noteWrite a n s).wdexp = s.wdexp := rfl
@[simp] theorem noteWrite_jsel (a n : Nat) : (noteWrite a n s).jsel = s.jsel := rfl
@[simp] theorem noteWrite_jnext (a n : Nat) : (noteWrite a n s).jnext = s.jnext := rfl
@[simp] theorem noteWrite_dumps (a n : Nat) : (noteWrite a n s).dumps = s.dumps := rfl
@[simp] theorem noteWrite_toAccept (a n : Nat) : (noteWrite a n s).toAccept = s.toAccept := rfl
@[simp] theorem noteWrite_replies (a n : Nat) : (noteWrite a n s).replies = s.replies := rfl
@[simp] theorem noteWrite_cancels (a n : Nat) : (noteWrite a n s).cancels = s.cancels := rfl
@[simp] theorem noteWrite_conts (a n : Nat) : (noteWrite a n s).conts = s.conts := rfl
@[simp] theorem noteWrite_agentReqs (a n : Nat) : (noteWrite a n s).agentReqs = s.agentReqs := rfl
@[simp] theorem noteWrite_late (a n : Nat) : (noteWrite a n s).late = s.late := rfl
@[simp] theorem noteWrite_overPend (a n : Nat) : (noteWrite a n s).overPend = s.overPend := rfl
@[simp] theorem noteWrite_nextId (a n : Nat) : (noteWrite a n s).nextId = s.nextId := rfl
@[simp] theorem noteWrite_mbAddr (a n : Nat) : (noteWrite a n s).mbAddr = s.mbAddr := rfl
@[simp] theorem noteWrite_dbgDat (a n : Nat) : (noteWrite a n s).dbgDat = s.dbgDat := rfl
@[simp] theorem noteWrite_dbgSince (a n : Nat) : (noteWrite a n s).dbgSince = s.dbgSince := rfl
@[simp] theorem noteWrite_dbgRun (a n : Nat) : (noteWrite a n s).dbgRun = s.dbgRun := rfl
@[simp] theorem noteWrite_dbgWaited (a n : Nat) : (noteWrite a n s).dbgWaited = s.dbgWaited := rfl
@[simp] theorem noteWrite_dbgPri (a n : Nat) : (noteWrite a n s).dbgPri = s.dbgPri := rfl
@[simp] theorem noteWrite_dbgPriFail (a n : Nat) : (noteWrite a n s).dbgPriFail = s.dbgPriFail := rfl
@[simp] theorem noteWrite_dbgRow (a n : Nat) : (noteWrite a n s).dbgRow = s.dbgRow := rfl
@[simp] theorem noteWrite_msix (a n : Nat) : (noteWrite a n s).msix = s.msix := rfl
@[simp] theorem noteWrite_volts (a n : Nat) : (noteWrite a n s).volts = s.volts := rfl
@[simp] theorem noteWrite_netLast (a n : Nat) : (noteWrite a n s).netLast = s.netLast := rfl
@[simp] theorem noteWrite_netPrev (a n : Nat) : (noteWrite a n s).netPrev = s.netPrev := rfl
@[simp] theorem noteWrite_netUsed (a n : Nat) : (noteWrite a n s).netUsed = s.netUsed := rfl
@[simp] theorem noteWrite_netMaybe (a n : Nat) : (noteWrite a n s).netMaybe = s.netMaybe := rfl
@[simp] theorem noteWrite_netOpen (a n : Nat) : (noteWrite a n s).netOpen = s.netOpen := rfl
@[simp] theorem noteWrite_mgmt (a n : Nat) : (noteWrite a n s).mgmt = s.mgmt := rfl
@[simp] theorem noteWrite_hostData (a n : Nat) : (noteWrite a n s).hostData = s.hostData := rfl
@[simp] theorem noteWrite_hostAccs (a n : Nat) : (noteWrite a n s).hostAccs = s.hostAccs := rfl
@[simp] theorem noteWrite_asOf (a n : Nat) : (noteWrite a n s).asOf = s.asOf := rfl
@[simp] theorem noteWrite_pick (a n : Nat) : (noteWrite a n s).pick = s.pick := rfl
@[simp] theorem noteWrite_scOrder (a n : Nat) : (noteWrite a n s).scOrder = s.scOrder := rfl
@[simp] theorem noteWrite_pub (a n : Nat) : (noteWrite a n s).pub = s.pub := rfl
@[simp] theorem noteWrite_mailSeen (a n : Nat) : (noteWrite a n s).mailSeen = s.mailSeen := rfl
@[simp] theorem noteWrite_tlnSeen (a n : Nat) : (noteWrite a n s).tlnSeen = s.tlnSeen := rfl
@[simp] theorem noteWrite_agenda (a n : Nat) : (noteWrite a n s).agenda = s.agenda := rfl
@[simp] theorem noteWrite_focusTile (a n : Nat) : (noteWrite a n s).focusTile = s.focusTile := rfl
@[simp] theorem noteWrite_focusCtx (a n : Nat) : (noteWrite a n s).focusCtx = s.focusCtx := rfl
@[simp] theorem noteWrite_grp (a n : Nat) : (noteWrite a n s).grp = s.grp := rfl
@[simp] theorem noteWrite_freeCount (a n : Nat) : (noteWrite a n s).freeCount = s.freeCount := rfl

@[simp] theorem forgetWrites_time (a n : Nat) : (forgetWrites a n s).time = s.time := rfl
@[simp] theorem forgetWrites_epoch (a n : Nat) : (forgetWrites a n s).epoch = s.epoch := rfl
@[simp] theorem forgetWrites_mem (a n : Nat) : (forgetWrites a n s).mem = s.mem := rfl
@[simp] theorem forgetWrites_poison (a n : Nat) : (forgetWrites a n s).poison = s.poison := rfl
@[simp] theorem forgetWrites_remap (a n : Nat) : (forgetWrites a n s).remap = s.remap := rfl
@[simp] theorem forgetWrites_tiles (a n : Nat) : (forgetWrites a n s).tiles = s.tiles := rfl
@[simp] theorem forgetWrites_bars (a n : Nat) : (forgetWrites a n s).bars = s.bars := rfl
@[simp] theorem forgetWrites_barArr (a n : Nat) : (forgetWrites a n s).barArr = s.barArr := rfl
@[simp] theorem forgetWrites_regs (a n : Nat) : (forgetWrites a n s).regs = s.regs := rfl
@[simp] theorem forgetWrites_tln (a n : Nat) : (forgetWrites a n s).tln = s.tln := rfl
@[simp] theorem forgetWrites_queues (a n : Nat) : (forgetWrites a n s).queues = s.queues := rfl
@[simp] theorem forgetWrites_parts (a n : Nat) : (forgetWrites a n s).parts = s.parts := rfl
@[simp] theorem forgetWrites_launches (a n : Nat) : (forgetWrites a n s).launches = s.launches := rfl
@[simp] theorem forgetWrites_nextSerial (a n : Nat) : (forgetWrites a n s).nextSerial = s.nextSerial := rfl
@[simp] theorem forgetWrites_counters (a n : Nat) : (forgetWrites a n s).counters = s.counters := rfl
@[simp] theorem forgetWrites_ats (a n : Nat) : (forgetWrites a n s).ats = s.ats := rfl
@[simp] theorem forgetWrites_atsRO (a n : Nat) : (forgetWrites a n s).atsRO = s.atsRO := rfl
@[simp] theorem forgetWrites_hostRO (a n : Nat) : (forgetWrites a n s).hostRO = s.hostRO := rfl
@[simp] theorem forgetWrites_hostFails (a n : Nat) : (forgetWrites a n s).hostFails = s.hostFails := rfl
@[simp] theorem forgetWrites_invs (a n : Nat) : (forgetWrites a n s).invs = s.invs := rfl
@[simp] theorem forgetWrites_priReqs (a n : Nat) : (forgetWrites a n s).priReqs = s.priReqs := rfl
@[simp] theorem forgetWrites_shoot (a n : Nat) : (forgetWrites a n s).shoot = s.shoot := rfl
@[simp] theorem forgetWrites_wdexp (a n : Nat) : (forgetWrites a n s).wdexp = s.wdexp := rfl
@[simp] theorem forgetWrites_jsel (a n : Nat) : (forgetWrites a n s).jsel = s.jsel := rfl
@[simp] theorem forgetWrites_jnext (a n : Nat) : (forgetWrites a n s).jnext = s.jnext := rfl
@[simp] theorem forgetWrites_dumps (a n : Nat) : (forgetWrites a n s).dumps = s.dumps := rfl
@[simp] theorem forgetWrites_toAccept (a n : Nat) : (forgetWrites a n s).toAccept = s.toAccept := rfl
@[simp] theorem forgetWrites_replies (a n : Nat) : (forgetWrites a n s).replies = s.replies := rfl
@[simp] theorem forgetWrites_cancels (a n : Nat) : (forgetWrites a n s).cancels = s.cancels := rfl
@[simp] theorem forgetWrites_conts (a n : Nat) : (forgetWrites a n s).conts = s.conts := rfl
@[simp] theorem forgetWrites_agentReqs (a n : Nat) : (forgetWrites a n s).agentReqs = s.agentReqs := rfl
@[simp] theorem forgetWrites_late (a n : Nat) : (forgetWrites a n s).late = s.late := rfl
@[simp] theorem forgetWrites_overPend (a n : Nat) : (forgetWrites a n s).overPend = s.overPend := rfl
@[simp] theorem forgetWrites_nextId (a n : Nat) : (forgetWrites a n s).nextId = s.nextId := rfl
@[simp] theorem forgetWrites_mbAddr (a n : Nat) : (forgetWrites a n s).mbAddr = s.mbAddr := rfl
@[simp] theorem forgetWrites_dbgDat (a n : Nat) : (forgetWrites a n s).dbgDat = s.dbgDat := rfl
@[simp] theorem forgetWrites_dbgSince (a n : Nat) : (forgetWrites a n s).dbgSince = s.dbgSince := rfl
@[simp] theorem forgetWrites_dbgRun (a n : Nat) : (forgetWrites a n s).dbgRun = s.dbgRun := rfl
@[simp] theorem forgetWrites_dbgWaited (a n : Nat) : (forgetWrites a n s).dbgWaited = s.dbgWaited := rfl
@[simp] theorem forgetWrites_dbgPri (a n : Nat) : (forgetWrites a n s).dbgPri = s.dbgPri := rfl
@[simp] theorem forgetWrites_dbgPriFail (a n : Nat) : (forgetWrites a n s).dbgPriFail = s.dbgPriFail := rfl
@[simp] theorem forgetWrites_dbgRow (a n : Nat) : (forgetWrites a n s).dbgRow = s.dbgRow := rfl
@[simp] theorem forgetWrites_msix (a n : Nat) : (forgetWrites a n s).msix = s.msix := rfl
@[simp] theorem forgetWrites_volts (a n : Nat) : (forgetWrites a n s).volts = s.volts := rfl
@[simp] theorem forgetWrites_netLast (a n : Nat) : (forgetWrites a n s).netLast = s.netLast := rfl
@[simp] theorem forgetWrites_netPrev (a n : Nat) : (forgetWrites a n s).netPrev = s.netPrev := rfl
@[simp] theorem forgetWrites_netUsed (a n : Nat) : (forgetWrites a n s).netUsed = s.netUsed := rfl
@[simp] theorem forgetWrites_netMaybe (a n : Nat) : (forgetWrites a n s).netMaybe = s.netMaybe := rfl
@[simp] theorem forgetWrites_netOpen (a n : Nat) : (forgetWrites a n s).netOpen = s.netOpen := rfl
@[simp] theorem forgetWrites_mgmt (a n : Nat) : (forgetWrites a n s).mgmt = s.mgmt := rfl
@[simp] theorem forgetWrites_hostData (a n : Nat) : (forgetWrites a n s).hostData = s.hostData := rfl
@[simp] theorem forgetWrites_hostAccs (a n : Nat) : (forgetWrites a n s).hostAccs = s.hostAccs := rfl
@[simp] theorem forgetWrites_writes (a n : Nat) : (forgetWrites a n s).writes = s.writes := rfl
@[simp] theorem forgetWrites_asOf (a n : Nat) : (forgetWrites a n s).asOf = s.asOf := rfl
@[simp] theorem forgetWrites_pick (a n : Nat) : (forgetWrites a n s).pick = s.pick := rfl
@[simp] theorem forgetWrites_scOrder (a n : Nat) : (forgetWrites a n s).scOrder = s.scOrder := rfl
@[simp] theorem forgetWrites_pub (a n : Nat) : (forgetWrites a n s).pub = s.pub := rfl
@[simp] theorem forgetWrites_mailSeen (a n : Nat) : (forgetWrites a n s).mailSeen = s.mailSeen := rfl
@[simp] theorem forgetWrites_tlnSeen (a n : Nat) : (forgetWrites a n s).tlnSeen = s.tlnSeen := rfl
@[simp] theorem forgetWrites_agenda (a n : Nat) : (forgetWrites a n s).agenda = s.agenda := rfl
@[simp] theorem forgetWrites_focusTile (a n : Nat) : (forgetWrites a n s).focusTile = s.focusTile := rfl
@[simp] theorem forgetWrites_focusCtx (a n : Nat) : (forgetWrites a n s).focusCtx = s.focusCtx := rfl
@[simp] theorem forgetWrites_grp (a n : Nat) : (forgetWrites a n s).grp = s.grp := rfl
@[simp] theorem forgetWrites_freeCount (a n : Nat) : (forgetWrites a n s).freeCount = s.freeCount := rfl

@[simp] theorem hostKnows_time : (hostKnows s).time = s.time := rfl
@[simp] theorem hostKnows_epoch : (hostKnows s).epoch = s.epoch := rfl
@[simp] theorem hostKnows_mem : (hostKnows s).mem = s.mem := rfl
@[simp] theorem hostKnows_poison : (hostKnows s).poison = s.poison := rfl
@[simp] theorem hostKnows_remap : (hostKnows s).remap = s.remap := rfl
@[simp] theorem hostKnows_tiles : (hostKnows s).tiles = s.tiles := rfl
@[simp] theorem hostKnows_bars : (hostKnows s).bars = s.bars := rfl
@[simp] theorem hostKnows_barArr : (hostKnows s).barArr = s.barArr := rfl
@[simp] theorem hostKnows_regs : (hostKnows s).regs = s.regs := rfl
@[simp] theorem hostKnows_tln : (hostKnows s).tln = s.tln := rfl
@[simp] theorem hostKnows_queues : (hostKnows s).queues = s.queues := rfl
@[simp] theorem hostKnows_parts : (hostKnows s).parts = s.parts := rfl
@[simp] theorem hostKnows_launches : (hostKnows s).launches = s.launches := rfl
@[simp] theorem hostKnows_nextSerial : (hostKnows s).nextSerial = s.nextSerial := rfl
@[simp] theorem hostKnows_counters : (hostKnows s).counters = s.counters := rfl
@[simp] theorem hostKnows_ats : (hostKnows s).ats = s.ats := rfl
@[simp] theorem hostKnows_atsRO : (hostKnows s).atsRO = s.atsRO := rfl
@[simp] theorem hostKnows_hostRO : (hostKnows s).hostRO = s.hostRO := rfl
@[simp] theorem hostKnows_hostFails : (hostKnows s).hostFails = s.hostFails := rfl
@[simp] theorem hostKnows_invs : (hostKnows s).invs = s.invs := rfl
@[simp] theorem hostKnows_priReqs : (hostKnows s).priReqs = s.priReqs := rfl
@[simp] theorem hostKnows_shoot : (hostKnows s).shoot = s.shoot := rfl
@[simp] theorem hostKnows_wdexp : (hostKnows s).wdexp = s.wdexp := rfl
@[simp] theorem hostKnows_jsel : (hostKnows s).jsel = s.jsel := rfl
@[simp] theorem hostKnows_jnext : (hostKnows s).jnext = s.jnext := rfl
@[simp] theorem hostKnows_dumps : (hostKnows s).dumps = s.dumps := rfl
@[simp] theorem hostKnows_toAccept : (hostKnows s).toAccept = s.toAccept := rfl
@[simp] theorem hostKnows_replies : (hostKnows s).replies = s.replies := rfl
@[simp] theorem hostKnows_cancels : (hostKnows s).cancels = s.cancels := rfl
@[simp] theorem hostKnows_conts : (hostKnows s).conts = s.conts := rfl
@[simp] theorem hostKnows_agentReqs : (hostKnows s).agentReqs = s.agentReqs := rfl
@[simp] theorem hostKnows_late : (hostKnows s).late = s.late := rfl
@[simp] theorem hostKnows_overPend : (hostKnows s).overPend = s.overPend := rfl
@[simp] theorem hostKnows_nextId : (hostKnows s).nextId = s.nextId := rfl
@[simp] theorem hostKnows_mbAddr : (hostKnows s).mbAddr = s.mbAddr := rfl
@[simp] theorem hostKnows_dbgDat : (hostKnows s).dbgDat = s.dbgDat := rfl
@[simp] theorem hostKnows_dbgSince : (hostKnows s).dbgSince = s.dbgSince := rfl
@[simp] theorem hostKnows_dbgRun : (hostKnows s).dbgRun = s.dbgRun := rfl
@[simp] theorem hostKnows_dbgWaited : (hostKnows s).dbgWaited = s.dbgWaited := rfl
@[simp] theorem hostKnows_dbgPri : (hostKnows s).dbgPri = s.dbgPri := rfl
@[simp] theorem hostKnows_dbgPriFail : (hostKnows s).dbgPriFail = s.dbgPriFail := rfl
@[simp] theorem hostKnows_dbgRow : (hostKnows s).dbgRow = s.dbgRow := rfl
@[simp] theorem hostKnows_msix : (hostKnows s).msix = s.msix := rfl
@[simp] theorem hostKnows_volts : (hostKnows s).volts = s.volts := rfl
@[simp] theorem hostKnows_netLast : (hostKnows s).netLast = s.netLast := rfl
@[simp] theorem hostKnows_netPrev : (hostKnows s).netPrev = s.netPrev := rfl
@[simp] theorem hostKnows_netUsed : (hostKnows s).netUsed = s.netUsed := rfl
@[simp] theorem hostKnows_netMaybe : (hostKnows s).netMaybe = s.netMaybe := rfl
@[simp] theorem hostKnows_netOpen : (hostKnows s).netOpen = s.netOpen := rfl
@[simp] theorem hostKnows_mgmt : (hostKnows s).mgmt = s.mgmt := rfl
@[simp] theorem hostKnows_hostData : (hostKnows s).hostData = s.hostData := rfl
@[simp] theorem hostKnows_hostAccs : (hostKnows s).hostAccs = s.hostAccs := rfl
@[simp] theorem hostKnows_hist : (hostKnows s).hist = s.hist := rfl
@[simp] theorem hostKnows_writes : (hostKnows s).writes = s.writes := rfl
@[simp] theorem hostKnows_asOf : (hostKnows s).asOf = s.asOf := rfl
@[simp] theorem hostKnows_pick : (hostKnows s).pick = s.pick := rfl
@[simp] theorem hostKnows_scOrder : (hostKnows s).scOrder = s.scOrder := rfl
@[simp] theorem hostKnows_mailSeen : (hostKnows s).mailSeen = s.mailSeen := rfl
@[simp] theorem hostKnows_tlnSeen : (hostKnows s).tlnSeen = s.tlnSeen := rfl
@[simp] theorem hostKnows_agenda : (hostKnows s).agenda = s.agenda := rfl
@[simp] theorem hostKnows_focusTile : (hostKnows s).focusTile = s.focusTile := rfl
@[simp] theorem hostKnows_focusCtx : (hostKnows s).focusCtx = s.focusCtx := rfl
@[simp] theorem hostKnows_grp : (hostKnows s).grp = s.grp := rfl
@[simp] theorem hostKnows_freeCount : (hostKnows s).freeCount = s.freeCount := rfl

/-! Reads after updates. -/

@[simp] theorem tileOf_setTile (t u : Nat) (x : Tile) : tileOf (setTile t x s) u = if u = t then x else tileOf s u := by
  unfold tileOf setTile; exact Sparse.get_set _ _ _ _ _

@[simp] theorem tileOf_modTile (t u : Nat) (f : Tile → Tile) :
    tileOf (modTile t f s) u = if u = t then f (tileOf s t) else tileOf s u := by
  unfold modTile; exact tileOf_setTile s t u _

theorem tileOf_modTile_same (t : Nat) (f : Tile → Tile) : tileOf (modTile t f s) t = f (tileOf s t) := by simp

theorem ctxOf_setCtx (t c u d : Nat) (y : Ctx) :
    ctxOf (setCtx t c y s) u d = if u = t ∧ d = c then y else ctxOf s u d := by
  unfold ctxOf setCtx ctxIn
  rw [tileOf_modTile]
  by_cases h : u = t
  · subst h; simp [Sparse.get_set]
  · simp [h]

theorem ctxOf_modCtx (t c u d : Nat) (f : Ctx → Ctx) :
    ctxOf (modCtx t c f s) u d = if u = t ∧ d = c then f (ctxOf s t c) else ctxOf s u d := by
  unfold modCtx; exact ctxOf_setCtx s t c u d _

@[simp] theorem ctxOf_setCtx_same (t c : Nat) (y : Ctx) : ctxOf (setCtx t c y s) t c = y := by simp [ctxOf_setCtx]

@[simp] theorem ctxOf_modCtx_same (t c : Nat) (f : Ctx → Ctx) : ctxOf (modCtx t c f s) t c = f (ctxOf s t c) := by
  simp [ctxOf_modCtx]

theorem coreOf_modCore (t k u j : Nat) (f : CoreSt → CoreSt) :
    coreOf (modCore t k f s) u j = if u = t ∧ j = k then f (coreOf s t k) else coreOf s u j := by
  unfold coreOf modCore
  rw [tileOf_modTile]
  by_cases h : u = t
  · subst h; simp [Sparse.modify, Sparse.get_set]
  · simp [h]

@[simp] theorem coreOf_modCore_same (t k : Nat) (f : CoreSt → CoreSt) : coreOf (modCore t k f s) t k = f (coreOf s t k) := by
  simp [coreOf_modCore]

@[simp] theorem ctxOf_modCore (t k u c : Nat) (f : CoreSt → CoreSt) : ctxOf (modCore t k f s) u c = ctxOf s u c := by
  unfold ctxOf modCore; rw [tileOf_modTile]; by_cases h : u = t <;> simp [h, ctxIn]

@[simp] theorem coreOf_setCtx (t c u j : Nat) (y : Ctx) : coreOf (setCtx t c y s) u j = coreOf s u j := by
  unfold coreOf setCtx; rw [tileOf_modTile]; by_cases h : u = t <;> simp [h]

@[simp] theorem coreOf_modCtx (t c u j : Nat) (f : Ctx → Ctx) : coreOf (modCtx t c f s) u j = coreOf s u j :=
  coreOf_setCtx s t c u j _

@[simp] theorem cur_modCur (f : Ctx → Ctx) : cur (modCur f s) = f (cur s) := by
  unfold cur modCur; simp

@[simp] theorem curTile_modCurTile (f : Tile → Tile) : curTile (modCurTile f s) = f (curTile s) := by
  unfold curTile modCurTile; simp

theorem partOf_modPart (p j : Nat) (f : Part → Part) :
    partOf (modPart p f s) j = if j = p then f (partOf s p) else partOf s j := by
  unfold partOf modPart Sparse.modify; exact Sparse.get_set _ _ _ _ _

@[simp] theorem partOf_modPart_same (p : Nat) (f : Part → Part) : partOf (modPart p f s) p = f (partOf s p) := by
  simp [partOf_modPart]

theorem queueOf_modQueue (q j : Nat) (f : Queue → Queue) :
    queueOf (modQueue q f s) j = if j = q then f (queueOf s q) else queueOf s j := by
  unfold queueOf modQueue Sparse.modify; exact Sparse.get_set _ _ _ _ _

@[simp] theorem queueOf_modQueue_same (q : Nat) (f : Queue → Queue) : queueOf (modQueue q f s) q = f (queueOf s q) := by
  simp [queueOf_modQueue]

/-- A row after a row of a physical register is written. -/
theorem rowIn_putRow (x : Tile) (p k now p' k' : Nat) (v : Row) :
    rowIn (putRow p k v now x) p' k' = if p' = p ∧ k' = k then v else rowIn x p' k' := by
  unfold rowIn putRow Sparse.modify
  simp only [Sparse.get_set]
  by_cases h : p' = p
  · subst h; simp [Sparse.get_set]
  · simp [h]

/-- A scalar of a context after one is written; s0 stays zero (R83). -/
theorem scalarIn_putScalar (y : Ctx) (r r' : Nat) (v : Scalar) :
    scalarIn (putScalar r v y) r' = if r' = r ∧ r ≠ 0 then v else scalarIn y r' := by
  unfold scalarIn putScalar
  by_cases h0 : r = 0
  · simp [h0]
  · by_cases h : r' = r
    · subst h; simp [h0]
    · simp [h, h0, Sparse.get_set]

/-! Bytes and poison. -/

theorem read_writeMem (a n v b : Nat) : (writeMem a n v s).mem.read b =
    if a ≤ b ∧ b < a + n then BitVec.ofNat 8 (v / 2 ^ (8 * (b - a))) else s.mem.read b := Memory.read_writeN s.mem a v n b

@[simp] theorem storeMem_tiles (a n v : Nat) (p : Bool) : (storeMem a n v p s).tiles = s.tiles := by
  unfold storeMem; split <;> (try split) <;> rfl

@[simp] theorem storeMem_mem (a n v : Nat) (p : Bool) : (storeMem a n v p s).mem = (writeMem a n v s).mem := by
  unfold storeMem; split <;> (try split) <;> rfl

/-! The accesses of the tile and context record that the numbers in a word address. -/

theorem wfld_zero (lo n : Nat) : wfld 0 lo n = 0 := by simp [wfld]

theorem wfld_lt (w : Word) (lo n : Nat) : wfld w lo n < 2 ^ n := Nat.mod_lt _ (Nat.two_pow_pos n)


end Sys2Proof.Machine
end

