-- ==== Sys2Proof/Laws/Effects.lean ====
section
/-! SUPPORT. How the shared guards of the meanings pass: each goes on with what it guards once its condition holds. -/

namespace Sys2Proof.Machine

theorem static_of_legal {s : State} {i : Instr} (h : Legal s i) (k : Eff) : static s i k = k := by
  unfold static; rw [h]

theorem ready_of {s : State} {l : List (Fin 16)} (h : Ready s l) (k : Eff) : ready s l k = k := by
  unfold ready; rw [h]

theorem unpoisoned_of_clean {s : State} {l : List (Fin 16)} (h : Clean s l) (k : Eff) : unpoisoned s l k = k := by
  unfold unpoisoned; rw [h]; rfl

theorem readyRows_of {s : State} {reads writes : List (Nat × Nat)} (h : RowsReady s reads writes) (k : Eff) :
    readyRows s reads writes k = k := by
  unfold readyRows; simp only; unfold RowsReady at h; rw [h]

theorem withName_of {s : State} {f : Fin 16} {p : Nat} (h : nameOf s f = some p) (k : Nat → Eff) :
    withName s f k = k p := by
  unfold withName; rw [h]

/-- Scalars that are ready together are ready one by one. -/
theorem scalarWait_cons {x : Tile} {y : Ctx} {r : Fin 16} {l : List (Fin 16)} :
    scalarWait x y (r :: l) = none ↔ awaited y r.val = none ∧ scalarWait x y l = none := by
  rw [scalarWait]
  cases h : awaited y r.val with
  | none => simp
  | some a => simp

theorem ready_cons {s : State} {r : Fin 16} {l : List (Fin 16)} :
    Ready s (r :: l) ↔ awaited (opCtx s) r.val = none ∧ Ready s l := scalarWait_cons

@[simp] theorem ready_nil {s : State} : Ready s [] := rfl

theorem clean_cons {s : State} {r : Fin 16} {l : List (Fin 16)} :
    Clean s (r :: l) ↔ (rdS s r).poison = false ∧ Clean s l := by
  unfold Clean anyPoison
  simp [List.any_cons]

@[simp] theorem clean_nil {s : State} : Clean s [] := rfl

theorem anyPoison_cons {s : State} {r : Fin 16} {l : List (Fin 16)} :
    anyPoison s (r :: l) = ((rdS s r).poison || anyPoison s l) := rfl

@[simp] theorem anyPoison_nil {s : State} : anyPoison s [] = false := rfl

theorem acquired_of {s : State} (h : accWait (curTile s) ((opCtx s).accs.filter fun a => unperformed a && acquires a.ord)
    ((opMoves s).filter fun m => m.acq) = none) (k : Eff) : acquired s k = k := by
  unfold acquired; rw [h]

theorem ordered_of {s s' : State} {o : Ord} (h : OrderMet s o s') (k : State → Eff) : ordered s o k = k s' := by
  unfold ordered
  rw [acquired_of h.1]
  have h2 := h.2
  cases ho : releases o
  · simp [ho] at h2; simp [h2]
  · simp [ho] at h2
    obtain ⟨rfl, h3, h4⟩ := h2
    simp only [released, h3, h4, Bool.false_eq_true, if_false, if_true]

/-- One access leaves its group once its checks pass and nothing holds it back. -/
theorem doAccess_of {s s' : State} {a : Acc} {r : Resolved}
    (h : AccessMet s { a with ord := (prefixOf s).ord, scope := (prefixOf s).scope, pol := (prefixOf s).pol } r)
    (o : OrderMet s (prefixOf s).ord s') :
    doAccess s false a = .done
      (sendAcc { a with ord := (prefixOf s).ord, scope := (prefixOf s).scope, pol := (prefixOf s).pol } r s') .next := by
  obtain ⟨h1, h2, h3, h4, h5, h6, h7⟩ := h
  unfold doAccess
  simp only [Bool.false_eq_true, if_false]
  rw [h1]
  simp only [accWrites] at *
  cases ht : r.tgt <;> simp_all [ordered_of o, hostReady, vaultRead] <;> (repeat' split) <;> simp_all

theorem released_of {s s' : State} (h : ReleaseMet s s') (k : State → Eff) : released s k = k s' := by
  obtain ⟨rfl, h1, h2⟩ := h
  simp only [released, h1, h2, Bool.false_eq_true, if_false]

/-- R183: a command whose block passes goes on with it. -/
theorem withBlock_of {s s' : State} {h : Option (Fin 8)} {a : Fin 16} {n b : Nat} {l : List Resolved}
    (m : BlockMet s h a n l s' b) (k : State → List Resolved → Nat → Eff) : withBlock s h a n k = k s' l b := by
  obtain ⟨h1, h2, h3, h4, h5, h7, rfl, rfl⟩ := m
  have hf : ∀ e : Eff, freeHandle s h e = e := by
    intro e
    unfold freeHandle
    cases h with
    | none => rfl
    | some g => simp [h2 g rfl]
  unfold withBlock
  rw [ready_of h1, hf, unpoisoned_of_clean h3, h4]
  simp only [released_of h5, h7, Bool.false_eq_true, if_false]

/-- A sign-extended field as the statements write it. -/
theorem sext_signed (n v : Nat) : sext n v = signed n v := by
  unfold sext signed
  by_cases h : v < 2 ^ (n - 1)
  · rw [if_pos h, if_neg (by omega)]
  · rw [if_neg h, if_pos (by omega)]

theorem clean_any {s : State} {l : List (Fin 16)} (h : Clean s l) : anyPoison s l = false := h

/-- R109: an address that is not aligned to its size raises ALIGN. -/
theorem doAccess_align {s : State} {a : Acc} (w : Word) (hw : a.va = w.toNat) (h : w.toNat % a.size ≠ 0) :
    doAccess s false a = .trap { cause := .align, eval := w } := by
  unfold doAccess
  simp only [Bool.false_eq_true, if_false, hw]
  rw [checkAccess]
  simp [h, addrTrap]

/-- An unlogged launch is none that replays. -/
theorem not_replaying {s t : State} (h : Unlogged s) (h1 : t.launches = s.launches)
    (h2 : (tileOf t t.focusTile).launch = (curTile s).launch) : replaying t t.focusTile = false := by
  unfold replaying launchOf
  rw [h1, h2]
  cases e : launchOf s (curTile s).launch with
  | none => unfold launchOf at e; rw [e]
  | some l => have := h l e; unfold launchOf at e; rw [e]; simp [this]

/-- R411: outside a recording and a replay a logged result is that of the run. -/
theorem logged_of {s : State} (h : Unlogged s) (kind code : Nat) (now : Word → State → Eff) (value : Word)
    (reach : Word → Option Wait) (take : Word → State → Eff) : logged s kind code now value reach take = now value s := by
  have e : logPut s.focusTile kind s.focusCtx code ((cur s).retired + 1) value.toNat s = s := by
    unfold logPut
    cases e : launchOf s (tileOf s s.focusTile).launch with
    | none => rfl
    | some l => have := h l e; simp [this]
  unfold logged
  rw [if_neg (by rw [not_replaying h rfl rfl]; simp), e]

theorem unlogged_keep {s t : State} (h : Unlogged s) (e1 : t.launches = s.launches)
    (e2 : (curTile t).launch = (curTile s).launch) : Unlogged t := by
  intro l hl
  rw [e2] at hl
  unfold launchOf at hl
  rw [e1] at hl
  exact h l hl

/-- A release that is met leaves everything but the merged host write of the context. -/
theorem releaseMet_keep {s t : State} (h : ReleaseMet s t) :
    t.launches = s.launches ∧ (curTile t).launch = (curTile s).launch ∧ (curTile t).sems = (curTile s).sems ∧ t.bars = s.bars ∧
      t.focusTile = s.focusTile ∧ t.focusCtx = s.focusCtx ∧ t.nextId = s.nextId ∧ t.barArr = s.barArr ∧
      cur t = issueMerged (cur s) := by
  obtain ⟨rfl, -, -⟩ := h
  have e : (modCur issueMerged s).focusTile = s.focusTile := rfl
  refine ⟨rfl, ?_, ?_, rfl, rfl, rfl, rfl, rfl, cur_modCur s _⟩ <;>
  · simp only [curTile, e]
    unfold modCur modCtx setCtx
    rw [tileOf_modTile]
    simp

end Sys2Proof.Machine
end

