-- ==== Sys2Proof/Laws/Memory.lean ====
section
/-! SUPPORT. The operations over memory that every meaning shares keep the canonical form of memory. -/

namespace Sys2Proof.Machine

variable {s : State}

/-- What leaves the memory leaves its form. -/
theorem memOk_of_mem {t : State} (h : MemOk s) (e : t.mem = s.mem) : MemOk t := by unfold MemOk; rw [e]; exact h

/-- An operation over a list that keeps the form in each turn keeps it. -/
theorem memOk_foldl {α : Type} (f : State → α → State) (hf : ∀ u x, MemOk u → MemOk (f u x)) (l : List α) (h : MemOk s) :
    MemOk (l.foldl f s) := by
  induction l generalizing s with
  | nil => exact h
  | cons x l ih => exact ih (hf s x h)

/-- A choice between two states that have the form has it. -/
theorem memOk_ite {c : Prop} [Decidable c] {a b : State} (ha : MemOk a) (hb : MemOk b) : MemOk (if c then a else b) := by
  split
  · exact ha
  · exact hb

theorem memOk_reset : MemOk State.reset := by unfold MemOk State.reset; decide

@[simp] theorem memOk_setTile (t : Nat) (x : Tile) : MemOk (setTile t x s) ↔ MemOk s := Iff.rfl
@[simp] theorem memOk_modTile (t : Nat) (f : Tile → Tile) : MemOk (modTile t f s) ↔ MemOk s := Iff.rfl
@[simp] theorem memOk_setCtx (t c : Nat) (y : Ctx) : MemOk (setCtx t c y s) ↔ MemOk s := Iff.rfl
@[simp] theorem memOk_modCtx (t c : Nat) (f : Ctx → Ctx) : MemOk (modCtx t c f s) ↔ MemOk s := Iff.rfl
@[simp] theorem memOk_modCore (t k : Nat) (f : CoreSt → CoreSt) : MemOk (modCore t k f s) ↔ MemOk s := Iff.rfl
@[simp] theorem memOk_modCur (f : Ctx → Ctx) : MemOk (modCur f s) ↔ MemOk s := Iff.rfl
@[simp] theorem memOk_modCurTile (f : Tile → Tile) : MemOk (modCurTile f s) ↔ MemOk s := Iff.rfl
@[simp] theorem memOk_modPart (p : Nat) (f : Part → Part) : MemOk (modPart p f s) ↔ MemOk s := Iff.rfl
@[simp] theorem memOk_modQueue (q : Nat) (f : Queue → Queue) : MemOk (modQueue q f s) ↔ MemOk s := Iff.rfl
@[simp] theorem memOk_modLaunch (n : Nat) (f : Launch → Launch) : MemOk (modLaunch n f s) ↔ MemOk s := Iff.rfl
@[simp] theorem memOk_raiseMsix (v : Nat) : MemOk (raiseMsix v s) ↔ MemOk s := Iff.rfl
@[simp] theorem memOk_clearFrame : MemOk (clearFrame s) ↔ MemOk s := Iff.rfl
@[simp] theorem memOk_setSegPoison (a : Nat) (b : Bool) : MemOk (setSegPoison a b s) ↔ MemOk s := Iff.rfl

@[simp] theorem memOk_regs (r : Sparse Word) : MemOk { s with regs := r } ↔ MemOk s := Iff.rfl

@[simp] theorem memOk_writeMem (a n v : Nat) (h : MemOk s) : MemOk (writeMem a n v s) := Memory.wf_writeN h a v n

@[simp] theorem memOk_place (m : Memory) (a n b : Nat) (h : MemOk s) :
    MemOk { s with mem := Memory.place m a n b s.mem } := Memory.wf_place h m a n b

@[simp] theorem memOk_storeMem (a n v : Nat) (p : Bool) (h : MemOk s) : MemOk (storeMem a n v p s) := by
  unfold storeMem; simp only; split <;> (try split) <;> simp [h]

@[simp] theorem memOk_storeSeg (a : Nat) (r : Row) (h : MemOk s) : MemOk (storeSeg a r s) := memOk_storeMem _ _ _ _ h

/-! Errors in the arrays, and what is noted about a write. -/

@[simp] theorem modPair_mem (t c : Nat) (f : PairCk → PairCk) : (modPair t c f s).mem = s.mem := by
  unfold modPair; split <;> rfl

@[simp] theorem landBoth_mem (t c id : Nat) (f : Ctx → Ctx) : (landBoth t c id f s).mem = s.mem := by
  unfold landBoth; rw [modPair_mem]; rfl

@[simp] theorem notePrint_mem (t c n v w : Nat) : (notePrint t c n v w s).mem = s.mem := modPair_mem _ _ _

@[simp] theorem memOk_notePrint (t c n v w : Nat) : MemOk (notePrint t c n v w s) ↔ MemOk s := by
  unfold MemOk; rw [notePrint_mem]

@[simp] theorem memOk_noteWrite (pa n : Nat) : MemOk (noteWrite pa n s) ↔ MemOk s := Iff.rfl
@[simp] theorem memOk_forgetWrites (a n : Nat) : MemOk (forgetWrites a n s) ↔ MemOk s := Iff.rfl
@[simp] theorem memOk_hostKnows : MemOk (hostKnows s) ↔ MemOk s := Iff.rfl
@[simp] theorem memOk_clearPoison (a n : Nat) : MemOk (clearPoison a n s) ↔ MemOk s := Iff.rfl
@[simp] theorem memOk_noteDump (i t k : Nat) : MemOk (noteDump i t k s) ↔ MemOk s := Iff.rfl

@[simp] theorem flagRow_mem (t row : Nat) : (flagRow t row s).mem = s.mem := rfl

@[simp] theorem noteCorrected_mem (t row : Nat) : (noteCorrected t row s).mem = s.mem := by
  unfold noteCorrected; simp only; split <;> rfl

@[simp] theorem checkSegment_mem (pa : Nat) : (checkSegment pa s).mem = s.mem := by
  unfold checkSegment
  cases errAt s pa with
  | none => rfl
  | some e => cases e <;> simp only [noteCorrected_mem, flagRow_mem] <;> rfl

@[simp] theorem checkStore_mem (pa n : Nat) : (checkStore pa n s).mem = s.mem := by
  unfold checkStore
  split
  · rfl
  · split
    · rfl
    · exact checkSegment_mem pa

theorem memOk_checkStore (pa n : Nat) (h : MemOk s) : MemOk (checkStore pa n s) := memOk_of_mem h (checkStore_mem pa n)

@[simp] theorem memOk_homeStore (pa n v : Nat) (p : Bool) (h : MemOk s) : MemOk (homeStore pa n v p s) :=
  memOk_storeMem _ _ _ _ ((memOk_noteWrite _ _).2 (memOk_checkStore pa n h))

@[simp] theorem memOk_vaultStore (pa n v : Nat) (h : MemOk s) : MemOk (vaultStore pa n v s) :=
  memOk_storeMem _ _ _ _ (memOk_checkStore pa n h)

@[simp] theorem memOk_placeFresh (m : Memory) (a n b : Nat) (h : MemOk s) : MemOk (placeFresh m a n b s) := by
  unfold placeFresh
  simp only [memOk_clearPoison, memOk_forgetWrites]
  apply memOk_place
  have h1 := memOk_ite (c := n % 64 = 0) h (memOk_checkStore (b + n / 64 * 64) (n % 64) h)
  split
  · exact (memOk_modTile _ _).2 h1
  · exact h1

@[simp] theorem noteUndo_mem (t c pa n : Nat) : (noteUndo t c pa n s).mem = s.mem := modPair_mem _ _ _

@[simp] theorem memOk_ctxStore (t c pa n v : Nat) (p : Bool) (h : MemOk s) : MemOk (ctxStore t c pa n v p s) := by
  unfold ctxStore
  simp only
  have h1 := memOk_homeStore pa n v p (memOk_of_mem ((memOk_notePrint t c (n / 8 + 2)
    (paOff pa + 2 ^ 64 * (v + if p then 2 ^ (8 * n) else 0)) (paOff pa + 2 ^ 64 * (v + if p then 2 ^ (8 * n) else 0))).2 h)
    (noteUndo_mem t c pa n))
  split
  · exact memOk_homeStore _ _ _ _ (memOk_of_mem h1 (noteUndo_mem _ _ _ _))
  · exact h1

@[simp] theorem memOk_mirrorWrite (pa n v : Nat) (p : Bool) (h : MemOk s) : MemOk (mirrorWrite pa n v p s) := by
  unfold mirrorWrite
  split
  · exact memOk_homeStore _ _ _ _ h
  · exact h

/-! Records for an observer. -/

@[simp] theorem memOk_monitorPut (t a b c d : Nat) (h : MemOk s) : MemOk (monitorPut t a b c d s) := by
  unfold monitorPut; simp only; split <;> simp [h]

@[simp] theorem memOk_monitorAt (t c k d : Nat) (g : Site) (a : Nat) (q : W32) (h : MemOk s) :
    MemOk (monitorAt t c k d g a q s) := by
  unfold monitorAt
  exact memOk_ite (memOk_monitorPut _ _ _ _ _ h) h

@[simp] theorem memOk_monitor (t c k d pc a : Nat) (q : W32) (h : MemOk s) : MemOk (monitor t c k d pc a q s) :=
  memOk_monitorAt _ _ _ _ _ _ _ h

@[simp] theorem memOk_grp (g : Frame) : MemOk { s with grp := g } ↔ MemOk s := Iff.rfl

@[simp] theorem memOk_pmcAdd (t k i c n : Nat) (g : Site) (q : W32) (h : MemOk s) : MemOk (pmcAdd t k i c n g q s) := by
  unfold pmcAdd
  refine memOk_ite ((memOk_modCore _ _ _).2 h) (memOk_ite (memOk_ite (memOk_monitorAt _ _ _ _ _ _ _ ?_) ?_) ?_) <;>
    simpa only [memOk_grp, memOk_modCore] using h

@[simp] theorem memOk_flushSamples (t c : Nat) (h : MemOk s) : MemOk (flushSamples t c s) := by
  unfold flushSamples
  exact memOk_foldl _ (fun u x hu => memOk_monitorAt _ _ _ _ _ _ _ hu) _ ((memOk_grp _).2 h)

@[simp] theorem memOk_countAt (t c ev n l : Nat) (g : Site) (q : W32) (h : MemOk s) : MemOk (countAt t c ev n l g q s) := by
  unfold countAt
  exact memOk_foldl _ (fun u x hu => memOk_ite (memOk_pmcAdd _ _ _ _ _ _ _ hu) hu) _ h

@[simp] theorem memOk_countEvent (t c ev n : Nat) (h : MemOk s) : MemOk (countEvent t c ev n s) := by
  unfold countEvent
  exact memOk_countAt _ _ _ _ _ _ _ h

@[simp] theorem memOk_countCore (t k ev n : Nat) (h : MemOk s) : MemOk (countCore t k ev n s) := by
  unfold countCore
  exact memOk_foldl _ (fun u x hu => memOk_ite (memOk_pmcAdd _ _ _ _ _ _ _ hu) hu) _ h

@[simp] theorem memOk_journalAlloc (h : MemOk s) : MemOk (journalAlloc s).2 := memOk_vaultStore _ _ _ h

@[simp] theorem memOk_journalBegin (a b c d e f g i : Nat) (h : MemOk s) : MemOk (journalBegin a b c d e f g i s).2 := by
  unfold journalBegin
  exact memOk_vaultStore _ _ _ (memOk_vaultStore _ _ _ (memOk_vaultStore _ _ _ (memOk_vaultStore _ _ _ (memOk_vaultStore _ _ _
    (memOk_vaultStore _ _ _ (memOk_journalAlloc h))))))

@[simp] theorem memOk_journalEnd (n f : Nat) (h : MemOk s) : MemOk (journalEnd n f s) := by
  unfold journalEnd
  exact memOk_vaultStore _ _ _ (memOk_vaultStore _ _ _ h)

@[simp] theorem memOk_notify (i va t p : Nat) (m : Bool) (h : MemOk s) : MemOk (notify i va t p m s) := by
  unfold notify
  exact memOk_ite h (memOk_ite ((memOk_regs _).2 h) ((memOk_raiseMsix _).2 ((memOk_regs _).2 (memOk_writeMem _ _ _ h))))

@[simp] theorem memOk_countAccess (i va t p : Nat) (h : MemOk s) : MemOk (countAccess i va t p s) := by
  unfold countAccess
  exact memOk_ite (memOk_notify _ _ _ _ _ h) h

@[simp] theorem memOk_sendAccess (r : Resolved) (va t p : Nat) (h : MemOk s) : MemOk (sendAccess r va t p s) := by
  unfold sendAccess; split <;> simp [h]

@[simp] theorem memOk_logPut (t k c d n v : Nat) (h : MemOk s) : MemOk (logPut t k c d n v s) := by
  unfold logPut
  split
  · split
    · simp only
      split
      · exact h
      · exact (memOk_modTile _ _).2 (memOk_vaultStore _ _ _ (memOk_vaultStore _ _ _ h))
    · exact h
  · exact h

/-! Dumps, fatal ends and the taking of exceptions. -/

@[simp] theorem memOk_pushDump (i : Nat) (m : Memory) (n : Nat) (h : MemOk s) : MemOk (pushDump i m n s) := by
  unfold pushDump
  simp only
  split
  · exact Memory.wf_place (Memory.wf_writeN h _ _ _) _ _ _ _
  · exact h

@[simp] theorem memOk_dumpContext (t c : Nat) (k : Cause) (v : Word) (i : Nat) (h : MemOk s) :
    MemOk (dumpContext t c k v i s) := by
  unfold dumpContext
  exact memOk_pushDump _ _ _ ((memOk_noteDump _ _ _).2 (memOk_placeFresh _ _ _ _ h))

theorem foldl_mem {α : Type} (f : State → α → State) (hf : ∀ u x, (f u x).mem = u.mem) (l : List α) :
    (l.foldl f s).mem = s.mem := by
  induction l generalizing s with
  | nil => rfl
  | cons x l ih => exact ih.trans (hf s x)

@[simp] theorem cancelCommands_mem (t c : Nat) : (cancelCommands t c s).mem = s.mem := by
  unfold cancelCommands
  apply foldl_mem
  intro u x
  rfl

@[simp] theorem memOk_fatalClose (t c : Nat) (h : MemOk s) : MemOk (fatalClose t c s) := by
  unfold fatalClose
  exact memOk_journalEnd _ _ (memOk_dumpContext _ _ _ _ _ (memOk_journalBegin _ _ _ _ _ _ _ _
    ((memOk_modCtx _ _ _).2 ((memOk_modTile _ _).2 h))))

@[simp] theorem memOk_fatalEnd (t c : Nat) (k : Cause) (e : Word) (q : W32) (h : MemOk s) : MemOk (fatalEnd t c k e q s) := by
  have hc : ∀ u, MemOk u → MemOk (cancelCommands t c u) := fun u hu => memOk_of_mem hu (cancelCommands_mem t c)
  unfold fatalEnd
  refine memOk_ite (memOk_fatalClose _ _ ?_) ?_ <;>
    exact (memOk_modLaunch _ _).2 ((memOk_modCtx _ _ _).2 (hc _ ((memOk_modTile _ _).2 h)))

@[simp] theorem memOk_machineCheckTile (t : Nat) (r : Option (Nat × Word × W32)) (h : MemOk s) :
    MemOk (machineCheckTile t r s) := by
  unfold machineCheckTile
  exact memOk_journalEnd _ _ (memOk_pushDump _ _ _ ((memOk_noteDump _ _ _).2 (memOk_placeFresh _ _ _ _
    (memOk_journalBegin _ _ _ _ _ _ _ _ (memOk_foldl _ (fun u x hu => memOk_fatalEnd _ _ _ _ _ hu) _ h)))))

@[simp] theorem memOk_saveAndEnter (t c : Nat) (k : Cause) (a m l e : Nat) (v : Word) (q : W32) (p : Bool) (h : MemOk s) :
    MemOk (saveAndEnter t c k a m l e v q p s) := by
  unfold saveAndEnter
  exact memOk_countAt _ _ _ _ _ _ _ (memOk_monitorAt _ _ _ _ _ _ _
    ((memOk_modCtx _ _ _).2 ((memOk_modCtx _ _ _).2 ((memOk_modCtx _ _ _).2 h))))

@[simp] theorem memOk_logCause (t c : Nat) (k : Cause) (a : Nat) (e : Word) (q : W32) (h : MemOk s) :
    MemOk (logCause t c k a e q s) := by
  unfold logCause
  exact memOk_ite (memOk_logPut _ _ _ _ _ _ (memOk_logPut _ _ _ _ _ _ h)) (memOk_logPut _ _ _ _ _ _ h)

@[simp] theorem memOk_diverge (t c : Nat) (h : MemOk s) : MemOk (diverge t c s) := by
  unfold diverge; exact memOk_fatalEnd _ _ _ _ _ ((memOk_regs _).2 h)

theorem memOk_replayCause {t c a : Nat} {k : Cause} {v : Word} {q : W32} {u : State} (h : MemOk s)
    (e : replayCause t c k s = some (a, v, q, u)) : MemOk u := by
  unfold replayCause at e
  split at e
  · split at e
    · injection e with e
      injection e with _ e
      injection e with _ e
      injection e with _ e
      subst e
      exact h
    · cases e
  · cases e

@[simp] theorem memOk_endsFatally (t c : Nat) (k : Cause) (e : Word) (q : W32) (h : MemOk s) : MemOk (endsFatally t c k e q s) := by
  unfold endsFatally
  split
  · exact memOk_fatalEnd _ _ _ _ _ h
  · exact h

@[simp] theorem memOk_leaveQueues (t c : Nat) : MemOk (leaveQueues t c s) ↔ MemOk s := Iff.rfl
@[simp] theorem memOk_leaveFatal (t c : Nat) : MemOk (leaveFatal t c s) ↔ MemOk s := Iff.rfl

@[simp] theorem memOk_beginRepair (t : Nat) (r : Option Nat) (h : MemOk s) : MemOk (beginRepair t r s) := by
  unfold beginRepair; split <;> simp [h]

@[simp] theorem memOk_deliverCause (t c : Nat) (tr : Trap) (m : Nat) (p : Bool) (a : Nat) (e : Word) (q : W32) (h : MemOk s) :
    MemOk (deliverCause t c tr m p a e q s) := by
  unfold deliverCause
  have hl := fun b : Bool => memOk_logCause t c tr.cause a e q
    (memOk_ite (c := b) ((memOk_leaveFatal t c).2 h) ((memOk_leaveQueues t c).2 h))
  exact memOk_ite (memOk_endsFatally _ _ _ _ _ ((memOk_modCtx _ _ _).2 (hl _))) (memOk_saveAndEnter _ _ _ _ _ _ _ _ _ _ (hl _))

@[simp] theorem memOk_noteLast (t c : Nat) (tr : Trap) (h : MemOk s) : MemOk (noteLast t c tr s) := by
  unfold noteLast
  exact memOk_ite h h

/-- Taking an exception keeps the memory's form. -/
@[simp] theorem memOk_enterCause (t c : Nat) (tr : Trap) (m : Nat) (h : MemOk s) : MemOk (enterCause t c tr m s) := by
  have hp := memOk_noteLast t c tr ((memOk_notePrint t c 1 tr.cause.code tr.cause.code).2 h)
  unfold enterCause
  simp only
  generalize noteLast t c tr (notePrint t c 1 tr.cause.code tr.cause.code s) = u at hp
  cases tr.cause.cls
  case t => exact memOk_machineCheckTile _ _ hp
  case x | k =>
    exact memOk_ite (memOk_diverge _ _ ((memOk_leaveFatal _ _).2 hp)) (memOk_endsFatally _ _ _ _ _ ((memOk_leaveFatal _ _).2 hp))
  case f =>
    refine memOk_ite (memOk_machineCheckTile _ _ hp) (memOk_saveAndEnter _ _ _ _ _ _ _ _ _ _ ?_)
    exact (memOk_modCtx _ _ _).2 (memOk_beginRepair _ _ ((memOk_leaveQueues _ _).2 hp))
  all_goals
    refine memOk_ite ?_ (memOk_deliverCause _ _ _ _ _ _ _ _ hp)
    cases hr : replayCause t c tr.cause u with
    | none => exact memOk_diverge _ _ hp
    | some v =>
      obtain ⟨a, e, q, w⟩ := v
      exact memOk_deliverCause _ _ _ _ _ _ _ _ (memOk_replayCause hp hr)

@[simp] theorem memOk_takeBreakpoint (t c a r : Nat) (h : MemOk s) : MemOk (takeBreakpoint t c a r s) := by
  unfold takeBreakpoint
  exact memOk_ite h (memOk_enterCause _ _ _ _ h)

/-! The end of a group. -/

theorem memOk_afterGroup (t c : Nat) (w : Bool) (k : Option (Cause × Nat)) (l : List (Nat × Nat × Bool)) (h : MemOk s) :
    MemOk (afterGroup t c w k l s) := by
  have set : ∀ (b : Bool) (n : Nat) (u : State), MemOk u → MemOk (if b then setDhit t c n u else u) :=
    fun b n u hu => memOk_ite hu hu
  unfold afterGroup
  simp only
  have h3 := set (ss (ctxOf s t c) && w) 5 _ (set (watchAll (ctxOf s t c) 1 l).isSome 3 _
    (set (watchAll (ctxOf s t c) 0 l).isSome 2 s h))
  refine memOk_ite h3 ?_
  cases k with
  | some p => exact memOk_enterCause _ _ _ _ h3
  | none =>
    simp only
    split
    · exact memOk_ite h3 (memOk_enterCause _ _ _ _ h3)
    · exact memOk_ite (memOk_ite h3 (memOk_enterCause _ _ _ _ h3)) (memOk_ite h3 h3)

@[simp] theorem memOk_groupEnds (t c : Nat) (i : Option Nat) (w : Bool) (k : Option (Cause × Nat)) (l : List (Nat × Nat × Bool))
    (h : MemOk s) : MemOk (groupEnds t c i w k l s) := by
  unfold groupEnds
  split
  · exact h
  · exact memOk_afterGroup _ _ _ _ _ h

@[simp] theorem memOk_advance (t c : Nat) (f : Flow) (h : MemOk s) : MemOk (advance t c f s) := by
  unfold advance
  simp only
  split
  · exact memOk_ite h h
  · exact h
  · exact h

@[simp] theorem memOk_printRows (t c : Nat) (h : MemOk s) : MemOk (printRows t c s) := by
  unfold printRows
  simp only
  split
  · exact h
  · exact memOk_foldl _ (fun u x hu => memOk_foldl _ (fun v y hv => (memOk_notePrint _ _ _ _ _).2 hv) _ hu) _ h

/-- The end of a group keeps the memory's form. -/
theorem memOk_retireGroup (t c : Nat) (f : Flow) (h : MemOk s) : MemOk (retireGroup t c f s) := by
  have hp := fun n v w => memOk_printRows t c ((memOk_notePrint t c n v w).2 h)
  unfold retireGroup
  simp only
  apply memOk_groupEnds
  refine (memOk_clearFrame).2 ((memOk_modCtx _ _ _).2 ?_)
  have hc := fun n v w a e k l g q => memOk_countAt a e k n l g q (memOk_flushSamples t c (hp n v w))
  cases f with
  | branch b g k =>
    cases b
    · exact memOk_advance _ _ _ (memOk_countAt _ _ _ _ _ _ _ (memOk_flushSamples t c (hp _ _ _)))
    · exact memOk_advance _ _ _ (memOk_monitorAt _ _ _ _ _ _ _
        (memOk_countAt _ _ _ _ _ _ _ (memOk_flushSamples t c (hp _ _ _))))
  | eret => exact memOk_monitorAt _ _ _ _ _ _ _ (memOk_countAt _ _ _ _ _ _ _ (memOk_flushSamples t c (hp _ _ _)))
  | halted => exact memOk_countAt _ _ _ _ _ _ _ (memOk_flushSamples t c (hp _ _ _))
  | _ => exact memOk_advance _ _ _ (memOk_countAt _ _ _ _ _ _ _ (memOk_flushSamples t c (hp _ _ _)))

@[simp] theorem memOk_waitGroup (t c : Nat) (w : Wait) : MemOk (waitGroup t c w s) ↔ MemOk s := Iff.rfl

@[simp] theorem memOk_trapGroup (t c : Nat) (tr : Trap) (h : MemOk s) : MemOk (trapGroup t c tr s) := by
  unfold trapGroup
  exact memOk_ite (memOk_takeBreakpoint _ _ _ _ h) (memOk_enterCause _ _ _ _ h)

/-- The state that a meaning leaves has the form when the state before and the state of its effect have it. -/
theorem memOk_settled (e : Eff) (h : MemOk s) (he : ∀ u f, e = .done u f → MemOk u) (hw : ∀ u w, e = .wait u w → MemOk u) :
    MemOk (settled s e) := by
  unfold settled
  simp only
  cases e with
  | done u f =>
    have hu := he u f rfl
    cases s.grp.half
    · exact memOk_ite hu (memOk_retireGroup _ _ _ hu)
    · exact memOk_ite hu hu
    · exact memOk_ite hu hu
  | trap tr =>
    cases s.grp.half
    · exact memOk_trapGroup _ _ _ h
    · exact h
    · exact h
  | wait u w =>
    have hu := hw u w rfl
    cases s.grp.half
    · exact hu
    · exact hu
    · exact hu

/-! What lands from engines, agents and the dispatcher. -/

@[simp] theorem memOk_landSeg (l : List Landed) (h : MemOk s) : MemOk (landSeg l s) := by
  unfold landSeg
  cases l with
  | nil => exact h
  | cons x l =>
    refine memOk_ite ((memOk_setSegPoison _ _).2 ?_) (memOk_ite ((memOk_setSegPoison _ _).2 ?_) ?_) <;>
      exact memOk_foldl _ (fun u y hu => memOk_writeMem _ _ _ ((memOk_noteWrite _ _).2 hu)) _ (memOk_checkStore _ _ h)

@[simp] theorem memOk_landUnits (l : List Landed) (h : MemOk s) : MemOk (landUnits l s) := by
  unfold landUnits
  split
  · exact memOk_landSeg _ (memOk_landSeg _ h)
  · exact memOk_landSeg _ h

@[simp] theorem memOk_tagged (g : WriteEv → WriteEv) (f : State → State) (h : MemOk (f s)) : MemOk (tagged g f s) := h

@[simp] theorem memOk_hostWrite (k : Known) (a n v : Nat) (h : MemOk s) : MemOk (hostWrite k a n v s) := by
  unfold hostWrite
  exact memOk_ite (memOk_tagged _ _ (memOk_writeMem _ _ _ ((memOk_noteWrite _ _).2 h))) h

end Sys2Proof.Machine
end

