-- ==== Sys2Proof/Laws/PerInstr.lean ====
section
/-! SUPPORT. Decoding the word of an instruction gives the instruction back: one lemma per constructor. -/

namespace Sys2Proof.Laws

/-- A word as its lowest field, of `k` bits, and the rest. -/
def dig (k v r : Nat) : Nat := v + 2 ^ k * r

/-- A field above the lowest digit of a word. -/
theorem fld_skip {v k r lo n x : Nat} (h : v < 2 ^ k) (e : fld r lo n = x) : fld (dig k v r) (lo + k) n = x := by
  rw [← e]
  unfold fld dig
  rw [Nat.pow_add, Nat.mul_comm (2 ^ lo), ← Nat.div_div_eq_div_mul, Nat.add_mul_div_left _ _ (Nat.two_pow_pos k),
    Nat.div_eq_of_lt h, Nat.zero_add]

/-- The lowest digit of a word. -/
theorem fld_head {v k r : Nat} (h : v < 2 ^ k) : fld (dig k v r) 0 k = v := by
  unfold fld dig
  rw [Nat.pow_zero, Nat.div_one, Nat.add_mul_mod_self_left, Nat.mod_eq_of_lt h]

/-- A field read as a number below a power of two. -/
theorem fin_of_fld {n : Nat} [NeZero n] {w lo : Nat} {x : Fin n} (h : w / 2 ^ lo % n = x.val) : fin n w lo = x :=
  Fin.ext h

/-- A bit read as a flag. -/
theorem flag_of_fld {w lo : Nat} {b : Bool} (h : fld w lo 1 = bit b) : flag w lo = b := by
  unfold flag; rw [h]; cases b <;> rfl

/-- What is well-formed passes the check of field combinations. -/
theorem check_ok {i : Instr} (h : i.wf = true) : check i = .ok i := by
  unfold check
  split
  · exact if_pos h
  · exact if_pos h

theorem bit_lt (b : Bool) : bit b < 2 := by cases b <;> decide

theorem ty_code_lt (x : Ty) : x.code < 16 := by cases x <;> decide

theorem ty_ofCode_code (x : Ty) : Ty.ofCode x.code = some x := by cases x <;> rfl

theorem prec_code_lt (x : Prec) : x.code < 2 := by cases x <;> decide

theorem prec_ofCode_code (x : Prec) : Prec.ofCode x.code = some x := by cases x <;> rfl

theorem fcmpPred_code_lt (x : FcmpPred) : x.code < 8 := by cases x <;> decide

theorem fcmpPred_ofCode_code (x : FcmpPred) : FcmpPred.ofCode x.code = some x := by cases x <;> rfl

theorem fcvtOp_code_lt (x : FcvtOp) : x.code < 16 := by cases x <;> decide

theorem fcvtOp_ofCode_code (x : FcvtOp) : FcvtOp.ofCode x.code = some x := by cases x <;> rfl

theorem redOp_code_lt (x : RedOp) : x.code < 8 := by cases x <;> decide

theorem redOp_ofCode_code (x : RedOp) : RedOp.ofCode x.code = some x := by cases x <;> rfl

theorem voteOp_code_lt (x : VoteOp) : x.code < 4 := by cases x <;> decide

theorem voteOp_ofCode_code (x : VoteOp) : VoteOp.ofCode x.code = some x := by cases x <;> rfl

theorem size_code_lt (x : Size) : x.code < 4 := by cases x <;> decide

theorem size_ofCode_code (x : Size) : Size.ofCode x.code = some x := by cases x <;> rfl

theorem aSize_code_lt (x : ASize) : x.code < 4 := by cases x <;> decide

theorem aSize_ofCode_code (x : ASize) : ASize.ofCode x.code = some x := by cases x <;> rfl

theorem nullCode_code_lt (x : NullCode) : x.code < 4 := by cases x <;> decide

theorem nullCode_ofCode_code (x : NullCode) : NullCode.ofCode x.code = some x := by cases x <;> rfl

theorem ord_code_lt (x : Ord) : x.code < 8 := by cases x <;> decide

theorem ord_ofCode_code (x : Ord) : Ord.ofCode x.code = some x := by cases x <;> rfl

theorem fOrd_code_lt (x : FOrd) : x.code < 8 := by cases x <;> decide

theorem fOrd_ofCode_code (x : FOrd) : FOrd.ofCode x.code = some x := by cases x <;> rfl

theorem scope_code_lt (x : Scope) : x.code < 8 := by cases x <;> decide

theorem scope_ofCode_code (x : Scope) : Scope.ofCode x.code = some x := by cases x <;> rfl

theorem spc_code_lt (x : Spc) : x.code < 8 := by cases x <;> decide

theorem spc_ofCode_code (x : Spc) : Spc.ofCode x.code = some x := by cases x <;> rfl

theorem pol_code_lt (x : Pol) : x.code < 8 := by cases x <;> decide

theorem pol_ofCode_code (x : Pol) : Pol.ofCode x.code = some x := by cases x <;> rfl

theorem barDom_code_lt (x : BarDom) : x.code < 8 := by cases x <;> decide

theorem barDom_ofCode_code (x : BarDom) : BarDom.ofCode x.code = some x := by cases x <;> rfl

theorem xldtW_code_lt (x : XldtW) : x.code < 4 := by cases x <;> decide

theorem xldtW_ofCode_code (x : XldtW) : XldtW.ofCode x.code = some x := by cases x <;> rfl

theorem cReg_code_lt (x : CReg) : x.code < 64 := by cases x <;> decide

theorem cReg_ofCode_code (x : CReg) : CReg.ofCode x.code = some x := by cases x <;> rfl

theorem fields1 {f0 f1 f2 f3 l : Nat} (h0 : f0 < 64) (h1 : f1 < 64) (h2 : f2 < 4096) (h3 : f3 < 128) :
    fld (dig 6 f0 (dig 6 f1 (dig 12 f2 (dig 7 f3 l)))) 0 6 = f0 ∧
    fld (dig 6 f0 (dig 6 f1 (dig 12 f2 (dig 7 f3 l)))) 6 6 = f1 ∧
    fld (dig 6 f0 (dig 6 f1 (dig 12 f2 (dig 7 f3 l)))) 12 12 = f2 ∧
    fld (dig 6 f0 (dig 6 f1 (dig 12 f2 (dig 7 f3 l)))) 24 7 = f3 :=
  ⟨fld_head h0,
    fld_skip h0 (fld_head h1),
    fld_skip h0 (fld_skip h1 (fld_head h2)),
    fld_skip h0 (fld_skip h1 (fld_skip h2 (fld_head h3)))⟩

theorem fields2 {f0 f1 f2 f3 f4 l : Nat} (h0 : f0 < 8) (h1 : f1 < 8) (h2 : f2 < 64) (h3 : f3 < 4096) (h4 : f4 < 128) :
    fld (dig 3 f0 (dig 3 f1 (dig 6 f2 (dig 12 f3 (dig 7 f4 l))))) 0 3 = f0 ∧
    fld (dig 3 f0 (dig 3 f1 (dig 6 f2 (dig 12 f3 (dig 7 f4 l))))) 3 3 = f1 ∧
    fld (dig 3 f0 (dig 3 f1 (dig 6 f2 (dig 12 f3 (dig 7 f4 l))))) 6 6 = f2 ∧
    fld (dig 3 f0 (dig 3 f1 (dig 6 f2 (dig 12 f3 (dig 7 f4 l))))) 12 12 = f3 ∧
    fld (dig 3 f0 (dig 3 f1 (dig 6 f2 (dig 12 f3 (dig 7 f4 l))))) 24 7 = f4 :=
  ⟨fld_head h0,
    fld_skip h0 (fld_head h1),
    fld_skip h0 (fld_skip h1 (fld_head h2)),
    fld_skip h0 (fld_skip h1 (fld_skip h2 (fld_head h3))),
    fld_skip h0 (fld_skip h1 (fld_skip h2 (fld_skip h3 (fld_head h4))))⟩

theorem fields3 {f0 f1 f2 f3 f4 f5 l : Nat} (h0 : f0 < 64) (h1 : f1 < 64) (h2 : f2 < 16) (h3 : f3 < 16) (h4 : f4 < 16) (h5 : f5 < 128) :
    fld (dig 6 f0 (dig 6 f1 (dig 4 f2 (dig 4 f3 (dig 4 f4 (dig 7 f5 l)))))) 0 6 = f0 ∧
    fld (dig 6 f0 (dig 6 f1 (dig 4 f2 (dig 4 f3 (dig 4 f4 (dig 7 f5 l)))))) 6 6 = f1 ∧
    fld (dig 6 f0 (dig 6 f1 (dig 4 f2 (dig 4 f3 (dig 4 f4 (dig 7 f5 l)))))) 12 4 = f2 ∧
    fld (dig 6 f0 (dig 6 f1 (dig 4 f2 (dig 4 f3 (dig 4 f4 (dig 7 f5 l)))))) 16 4 = f3 ∧
    fld (dig 6 f0 (dig 6 f1 (dig 4 f2 (dig 4 f3 (dig 4 f4 (dig 7 f5 l)))))) 20 4 = f4 ∧
    fld (dig 6 f0 (dig 6 f1 (dig 4 f2 (dig 4 f3 (dig 4 f4 (dig 7 f5 l)))))) 24 7 = f5 :=
  ⟨fld_head h0,
    fld_skip h0 (fld_head h1),
    fld_skip h0 (fld_skip h1 (fld_head h2)),
    fld_skip h0 (fld_skip h1 (fld_skip h2 (fld_head h3))),
    fld_skip h0 (fld_skip h1 (fld_skip h2 (fld_skip h3 (fld_head h4)))),
    fld_skip h0 (fld_skip h1 (fld_skip h2 (fld_skip h3 (fld_skip h4 (fld_head h5)))))⟩

theorem fields4 {f0 f1 f2 f3 f4 f5 f6 l : Nat} (h0 : f0 < 2) (h1 : f1 < 32) (h2 : f2 < 64) (h3 : f3 < 16) (h4 : f4 < 16) (h5 : f5 < 16) (h6 : f6 < 128) :
    fld (dig 1 f0 (dig 5 f1 (dig 6 f2 (dig 4 f3 (dig 4 f4 (dig 4 f5 (dig 7 f6 l))))))) 0 1 = f0 ∧
    fld (dig 1 f0 (dig 5 f1 (dig 6 f2 (dig 4 f3 (dig 4 f4 (dig 4 f5 (dig 7 f6 l))))))) 1 5 = f1 ∧
    fld (dig 1 f0 (dig 5 f1 (dig 6 f2 (dig 4 f3 (dig 4 f4 (dig 4 f5 (dig 7 f6 l))))))) 6 6 = f2 ∧
    fld (dig 1 f0 (dig 5 f1 (dig 6 f2 (dig 4 f3 (dig 4 f4 (dig 4 f5 (dig 7 f6 l))))))) 12 4 = f3 ∧
    fld (dig 1 f0 (dig 5 f1 (dig 6 f2 (dig 4 f3 (dig 4 f4 (dig 4 f5 (dig 7 f6 l))))))) 16 4 = f4 ∧
    fld (dig 1 f0 (dig 5 f1 (dig 6 f2 (dig 4 f3 (dig 4 f4 (dig 4 f5 (dig 7 f6 l))))))) 20 4 = f5 ∧
    fld (dig 1 f0 (dig 5 f1 (dig 6 f2 (dig 4 f3 (dig 4 f4 (dig 4 f5 (dig 7 f6 l))))))) 24 7 = f6 :=
  ⟨fld_head h0,
    fld_skip h0 (fld_head h1),
    fld_skip h0 (fld_skip h1 (fld_head h2)),
    fld_skip h0 (fld_skip h1 (fld_skip h2 (fld_head h3))),
    fld_skip h0 (fld_skip h1 (fld_skip h2 (fld_skip h3 (fld_head h4)))),
    fld_skip h0 (fld_skip h1 (fld_skip h2 (fld_skip h3 (fld_skip h4 (fld_head h5))))),
    fld_skip h0 (fld_skip h1 (fld_skip h2 (fld_skip h3 (fld_skip h4 (fld_skip h5 (fld_head h6))))))⟩

theorem fields5 {f0 f1 f2 f3 f4 l : Nat} (h0 : f0 < 64) (h1 : f1 < 64) (h2 : f2 < 256) (h3 : f3 < 16) (h4 : f4 < 128) :
    fld (dig 6 f0 (dig 6 f1 (dig 8 f2 (dig 4 f3 (dig 7 f4 l))))) 0 6 = f0 ∧
    fld (dig 6 f0 (dig 6 f1 (dig 8 f2 (dig 4 f3 (dig 7 f4 l))))) 6 6 = f1 ∧
    fld (dig 6 f0 (dig 6 f1 (dig 8 f2 (dig 4 f3 (dig 7 f4 l))))) 12 8 = f2 ∧
    fld (dig 6 f0 (dig 6 f1 (dig 8 f2 (dig 4 f3 (dig 7 f4 l))))) 20 4 = f3 ∧
    fld (dig 6 f0 (dig 6 f1 (dig 8 f2 (dig 4 f3 (dig 7 f4 l))))) 24 7 = f4 :=
  ⟨fld_head h0,
    fld_skip h0 (fld_head h1),
    fld_skip h0 (fld_skip h1 (fld_head h2)),
    fld_skip h0 (fld_skip h1 (fld_skip h2 (fld_head h3))),
    fld_skip h0 (fld_skip h1 (fld_skip h2 (fld_skip h3 (fld_head h4))))⟩

theorem fields6 {f0 f1 f2 f3 f4 f5 l : Nat} (h0 : f0 < 4096) (h1 : f1 < 8) (h2 : f2 < 8) (h3 : f3 < 8) (h4 : f4 < 8) (h5 : f5 < 128) :
    fld (dig 12 f0 (dig 3 f1 (dig 3 f2 (dig 3 f3 (dig 3 f4 (dig 7 f5 l)))))) 0 12 = f0 ∧
    fld (dig 12 f0 (dig 3 f1 (dig 3 f2 (dig 3 f3 (dig 3 f4 (dig 7 f5 l)))))) 12 3 = f1 ∧
    fld (dig 12 f0 (dig 3 f1 (dig 3 f2 (dig 3 f3 (dig 3 f4 (dig 7 f5 l)))))) 15 3 = f2 ∧
    fld (dig 12 f0 (dig 3 f1 (dig 3 f2 (dig 3 f3 (dig 3 f4 (dig 7 f5 l)))))) 18 3 = f3 ∧
    fld (dig 12 f0 (dig 3 f1 (dig 3 f2 (dig 3 f3 (dig 3 f4 (dig 7 f5 l)))))) 21 3 = f4 ∧
    fld (dig 12 f0 (dig 3 f1 (dig 3 f2 (dig 3 f3 (dig 3 f4 (dig 7 f5 l)))))) 24 7 = f5 :=
  ⟨fld_head h0,
    fld_skip h0 (fld_head h1),
    fld_skip h0 (fld_skip h1 (fld_head h2)),
    fld_skip h0 (fld_skip h1 (fld_skip h2 (fld_head h3))),
    fld_skip h0 (fld_skip h1 (fld_skip h2 (fld_skip h3 (fld_head h4)))),
    fld_skip h0 (fld_skip h1 (fld_skip h2 (fld_skip h3 (fld_skip h4 (fld_head h5)))))⟩

theorem fields7 {f0 f1 f2 f3 f4 f5 f6 l : Nat} (h0 : f0 < 16) (h1 : f1 < 16) (h2 : f2 < 4) (h3 : f3 < 16) (h4 : f4 < 64) (h5 : f5 < 16) (h6 : f6 < 128) :
    fld (dig 4 f0 (dig 4 f1 (dig 2 f2 (dig 4 f3 (dig 6 f4 (dig 4 f5 (dig 7 f6 l))))))) 0 4 = f0 ∧
    fld (dig 4 f0 (dig 4 f1 (dig 2 f2 (dig 4 f3 (dig 6 f4 (dig 4 f5 (dig 7 f6 l))))))) 4 4 = f1 ∧
    fld (dig 4 f0 (dig 4 f1 (dig 2 f2 (dig 4 f3 (dig 6 f4 (dig 4 f5 (dig 7 f6 l))))))) 8 2 = f2 ∧
    fld (dig 4 f0 (dig 4 f1 (dig 2 f2 (dig 4 f3 (dig 6 f4 (dig 4 f5 (dig 7 f6 l))))))) 10 4 = f3 ∧
    fld (dig 4 f0 (dig 4 f1 (dig 2 f2 (dig 4 f3 (dig 6 f4 (dig 4 f5 (dig 7 f6 l))))))) 14 6 = f4 ∧
    fld (dig 4 f0 (dig 4 f1 (dig 2 f2 (dig 4 f3 (dig 6 f4 (dig 4 f5 (dig 7 f6 l))))))) 20 4 = f5 ∧
    fld (dig 4 f0 (dig 4 f1 (dig 2 f2 (dig 4 f3 (dig 6 f4 (dig 4 f5 (dig 7 f6 l))))))) 24 7 = f6 :=
  ⟨fld_head h0,
    fld_skip h0 (fld_head h1),
    fld_skip h0 (fld_skip h1 (fld_head h2)),
    fld_skip h0 (fld_skip h1 (fld_skip h2 (fld_head h3))),
    fld_skip h0 (fld_skip h1 (fld_skip h2 (fld_skip h3 (fld_head h4)))),
    fld_skip h0 (fld_skip h1 (fld_skip h2 (fld_skip h3 (fld_skip h4 (fld_head h5))))),
    fld_skip h0 (fld_skip h1 (fld_skip h2 (fld_skip h3 (fld_skip h4 (fld_skip h5 (fld_head h6))))))⟩

theorem fields8 {f0 f1 f2 f3 f4 l : Nat} (h0 : f0 < 64) (h1 : f1 < 64) (h2 : f2 < 64) (h3 : f3 < 64) (h4 : f4 < 128) :
    fld (dig 6 f0 (dig 6 f1 (dig 6 f2 (dig 6 f3 (dig 7 f4 l))))) 0 6 = f0 ∧
    fld (dig 6 f0 (dig 6 f1 (dig 6 f2 (dig 6 f3 (dig 7 f4 l))))) 6 6 = f1 ∧
    fld (dig 6 f0 (dig 6 f1 (dig 6 f2 (dig 6 f3 (dig 7 f4 l))))) 12 6 = f2 ∧
    fld (dig 6 f0 (dig 6 f1 (dig 6 f2 (dig 6 f3 (dig 7 f4 l))))) 18 6 = f3 ∧
    fld (dig 6 f0 (dig 6 f1 (dig 6 f2 (dig 6 f3 (dig 7 f4 l))))) 24 7 = f4 :=
  ⟨fld_head h0,
    fld_skip h0 (fld_head h1),
    fld_skip h0 (fld_skip h1 (fld_head h2)),
    fld_skip h0 (fld_skip h1 (fld_skip h2 (fld_head h3))),
    fld_skip h0 (fld_skip h1 (fld_skip h2 (fld_skip h3 (fld_head h4))))⟩

theorem fields9 {f0 f1 f2 f3 f4 l : Nat} (h0 : f0 < 16384) (h1 : f1 < 16) (h2 : f2 < 16) (h3 : f3 < 4) (h4 : f4 < 128) :
    fld (dig 14 f0 (dig 4 f1 (dig 4 f2 (dig 2 f3 (dig 7 f4 l))))) 0 14 = f0 ∧
    fld (dig 14 f0 (dig 4 f1 (dig 4 f2 (dig 2 f3 (dig 7 f4 l))))) 14 4 = f1 ∧
    fld (dig 14 f0 (dig 4 f1 (dig 4 f2 (dig 2 f3 (dig 7 f4 l))))) 18 4 = f2 ∧
    fld (dig 14 f0 (dig 4 f1 (dig 4 f2 (dig 2 f3 (dig 7 f4 l))))) 22 2 = f3 ∧
    fld (dig 14 f0 (dig 4 f1 (dig 4 f2 (dig 2 f3 (dig 7 f4 l))))) 24 7 = f4 :=
  ⟨fld_head h0,
    fld_skip h0 (fld_head h1),
    fld_skip h0 (fld_skip h1 (fld_head h2)),
    fld_skip h0 (fld_skip h1 (fld_skip h2 (fld_head h3))),
    fld_skip h0 (fld_skip h1 (fld_skip h2 (fld_skip h3 (fld_head h4))))⟩

theorem fields10 {f0 f1 l : Nat} (h0 : f0 < 16777216) (h1 : f1 < 128) :
    fld (dig 24 f0 (dig 7 f1 l)) 0 24 = f0 ∧
    fld (dig 24 f0 (dig 7 f1 l)) 24 7 = f1 :=
  ⟨fld_head h0,
    fld_skip h0 (fld_head h1)⟩

theorem fields11 {f0 f1 f2 f3 l : Nat} (h0 : f0 < 65536) (h1 : f1 < 16) (h2 : f2 < 16) (h3 : f3 < 128) :
    fld (dig 16 f0 (dig 4 f1 (dig 4 f2 (dig 7 f3 l)))) 0 16 = f0 ∧
    fld (dig 16 f0 (dig 4 f1 (dig 4 f2 (dig 7 f3 l)))) 16 4 = f1 ∧
    fld (dig 16 f0 (dig 4 f1 (dig 4 f2 (dig 7 f3 l)))) 20 4 = f2 ∧
    fld (dig 16 f0 (dig 4 f1 (dig 4 f2 (dig 7 f3 l)))) 24 7 = f3 :=
  ⟨fld_head h0,
    fld_skip h0 (fld_head h1),
    fld_skip h0 (fld_skip h1 (fld_head h2)),
    fld_skip h0 (fld_skip h1 (fld_skip h2 (fld_head h3)))⟩

theorem fields12 {f0 f1 f2 f3 f4 l : Nat} (h0 : f0 < 16384) (h1 : f1 < 4) (h2 : f2 < 16) (h3 : f3 < 16) (h4 : f4 < 128) :
    fld (dig 14 f0 (dig 2 f1 (dig 4 f2 (dig 4 f3 (dig 7 f4 l))))) 0 14 = f0 ∧
    fld (dig 14 f0 (dig 2 f1 (dig 4 f2 (dig 4 f3 (dig 7 f4 l))))) 14 2 = f1 ∧
    fld (dig 14 f0 (dig 2 f1 (dig 4 f2 (dig 4 f3 (dig 7 f4 l))))) 16 4 = f2 ∧
    fld (dig 14 f0 (dig 2 f1 (dig 4 f2 (dig 4 f3 (dig 7 f4 l))))) 20 4 = f3 ∧
    fld (dig 14 f0 (dig 2 f1 (dig 4 f2 (dig 4 f3 (dig 7 f4 l))))) 24 7 = f4 :=
  ⟨fld_head h0,
    fld_skip h0 (fld_head h1),
    fld_skip h0 (fld_skip h1 (fld_head h2)),
    fld_skip h0 (fld_skip h1 (fld_skip h2 (fld_head h3))),
    fld_skip h0 (fld_skip h1 (fld_skip h2 (fld_skip h3 (fld_head h4))))⟩

theorem fields13 {f0 f1 f2 f3 f4 f5 f6 f7 f8 l : Nat} (h0 : f0 < 4) (h1 : f1 < 2) (h2 : f2 < 2) (h3 : f3 < 4) (h4 : f4 < 64) (h5 : f5 < 16) (h6 : f6 < 16) (h7 : f7 < 16) (h8 : f8 < 128) :
    fld (dig 2 f0 (dig 1 f1 (dig 1 f2 (dig 2 f3 (dig 6 f4 (dig 4 f5 (dig 4 f6 (dig 4 f7 (dig 7 f8 l))))))))) 0 2 = f0 ∧
    fld (dig 2 f0 (dig 1 f1 (dig 1 f2 (dig 2 f3 (dig 6 f4 (dig 4 f5 (dig 4 f6 (dig 4 f7 (dig 7 f8 l))))))))) 2 1 = f1 ∧
    fld (dig 2 f0 (dig 1 f1 (dig 1 f2 (dig 2 f3 (dig 6 f4 (dig 4 f5 (dig 4 f6 (dig 4 f7 (dig 7 f8 l))))))))) 3 1 = f2 ∧
    fld (dig 2 f0 (dig 1 f1 (dig 1 f2 (dig 2 f3 (dig 6 f4 (dig 4 f5 (dig 4 f6 (dig 4 f7 (dig 7 f8 l))))))))) 4 2 = f3 ∧
    fld (dig 2 f0 (dig 1 f1 (dig 1 f2 (dig 2 f3 (dig 6 f4 (dig 4 f5 (dig 4 f6 (dig 4 f7 (dig 7 f8 l))))))))) 6 6 = f4 ∧
    fld (dig 2 f0 (dig 1 f1 (dig 1 f2 (dig 2 f3 (dig 6 f4 (dig 4 f5 (dig 4 f6 (dig 4 f7 (dig 7 f8 l))))))))) 12 4 = f5 ∧
    fld (dig 2 f0 (dig 1 f1 (dig 1 f2 (dig 2 f3 (dig 6 f4 (dig 4 f5 (dig 4 f6 (dig 4 f7 (dig 7 f8 l))))))))) 16 4 = f6 ∧
    fld (dig 2 f0 (dig 1 f1 (dig 1 f2 (dig 2 f3 (dig 6 f4 (dig 4 f5 (dig 4 f6 (dig 4 f7 (dig 7 f8 l))))))))) 20 4 = f7 ∧
    fld (dig 2 f0 (dig 1 f1 (dig 1 f2 (dig 2 f3 (dig 6 f4 (dig 4 f5 (dig 4 f6 (dig 4 f7 (dig 7 f8 l))))))))) 24 7 = f8 :=
  ⟨fld_head h0,
    fld_skip h0 (fld_head h1),
    fld_skip h0 (fld_skip h1 (fld_head h2)),
    fld_skip h0 (fld_skip h1 (fld_skip h2 (fld_head h3))),
    fld_skip h0 (fld_skip h1 (fld_skip h2 (fld_skip h3 (fld_head h4)))),
    fld_skip h0 (fld_skip h1 (fld_skip h2 (fld_skip h3 (fld_skip h4 (fld_head h5))))),
    fld_skip h0 (fld_skip h1 (fld_skip h2 (fld_skip h3 (fld_skip h4 (fld_skip h5 (fld_head h6)))))),
    fld_skip h0 (fld_skip h1 (fld_skip h2 (fld_skip h3 (fld_skip h4 (fld_skip h5 (fld_skip h6 (fld_head h7))))))),
    fld_skip h0 (fld_skip h1 (fld_skip h2 (fld_skip h3 (fld_skip h4 (fld_skip h5 (fld_skip h6 (fld_skip h7 (fld_head h8))))))))⟩

theorem fields14 {f0 f1 f2 f3 f4 l : Nat} (h0 : f0 < 4096) (h1 : f1 < 16) (h2 : f2 < 16) (h3 : f3 < 16) (h4 : f4 < 128) :
    fld (dig 12 f0 (dig 4 f1 (dig 4 f2 (dig 4 f3 (dig 7 f4 l))))) 0 12 = f0 ∧
    fld (dig 12 f0 (dig 4 f1 (dig 4 f2 (dig 4 f3 (dig 7 f4 l))))) 12 4 = f1 ∧
    fld (dig 12 f0 (dig 4 f1 (dig 4 f2 (dig 4 f3 (dig 7 f4 l))))) 16 4 = f2 ∧
    fld (dig 12 f0 (dig 4 f1 (dig 4 f2 (dig 4 f3 (dig 7 f4 l))))) 20 4 = f3 ∧
    fld (dig 12 f0 (dig 4 f1 (dig 4 f2 (dig 4 f3 (dig 7 f4 l))))) 24 7 = f4 :=
  ⟨fld_head h0,
    fld_skip h0 (fld_head h1),
    fld_skip h0 (fld_skip h1 (fld_head h2)),
    fld_skip h0 (fld_skip h1 (fld_skip h2 (fld_head h3))),
    fld_skip h0 (fld_skip h1 (fld_skip h2 (fld_skip h3 (fld_head h4))))⟩

theorem fields15 {f0 f1 f2 f3 f4 f5 l : Nat} (h0 : f0 < 4096) (h1 : f1 < 8) (h2 : f2 < 2) (h3 : f3 < 16) (h4 : f4 < 16) (h5 : f5 < 128) :
    fld (dig 12 f0 (dig 3 f1 (dig 1 f2 (dig 4 f3 (dig 4 f4 (dig 7 f5 l)))))) 0 12 = f0 ∧
    fld (dig 12 f0 (dig 3 f1 (dig 1 f2 (dig 4 f3 (dig 4 f4 (dig 7 f5 l)))))) 12 3 = f1 ∧
    fld (dig 12 f0 (dig 3 f1 (dig 1 f2 (dig 4 f3 (dig 4 f4 (dig 7 f5 l)))))) 15 1 = f2 ∧
    fld (dig 12 f0 (dig 3 f1 (dig 1 f2 (dig 4 f3 (dig 4 f4 (dig 7 f5 l)))))) 16 4 = f3 ∧
    fld (dig 12 f0 (dig 3 f1 (dig 1 f2 (dig 4 f3 (dig 4 f4 (dig 7 f5 l)))))) 20 4 = f4 ∧
    fld (dig 12 f0 (dig 3 f1 (dig 1 f2 (dig 4 f3 (dig 4 f4 (dig 7 f5 l)))))) 24 7 = f5 :=
  ⟨fld_head h0,
    fld_skip h0 (fld_head h1),
    fld_skip h0 (fld_skip h1 (fld_head h2)),
    fld_skip h0 (fld_skip h1 (fld_skip h2 (fld_head h3))),
    fld_skip h0 (fld_skip h1 (fld_skip h2 (fld_skip h3 (fld_head h4)))),
    fld_skip h0 (fld_skip h1 (fld_skip h2 (fld_skip h3 (fld_skip h4 (fld_head h5)))))⟩

theorem fields16 {f0 f1 f2 f3 f4 f5 l : Nat} (h0 : f0 < 4096) (h1 : f1 < 4) (h2 : f2 < 4) (h3 : f3 < 16) (h4 : f4 < 16) (h5 : f5 < 128) :
    fld (dig 12 f0 (dig 2 f1 (dig 2 f2 (dig 4 f3 (dig 4 f4 (dig 7 f5 l)))))) 0 12 = f0 ∧
    fld (dig 12 f0 (dig 2 f1 (dig 2 f2 (dig 4 f3 (dig 4 f4 (dig 7 f5 l)))))) 12 2 = f1 ∧
    fld (dig 12 f0 (dig 2 f1 (dig 2 f2 (dig 4 f3 (dig 4 f4 (dig 7 f5 l)))))) 14 2 = f2 ∧
    fld (dig 12 f0 (dig 2 f1 (dig 2 f2 (dig 4 f3 (dig 4 f4 (dig 7 f5 l)))))) 16 4 = f3 ∧
    fld (dig 12 f0 (dig 2 f1 (dig 2 f2 (dig 4 f3 (dig 4 f4 (dig 7 f5 l)))))) 20 4 = f4 ∧
    fld (dig 12 f0 (dig 2 f1 (dig 2 f2 (dig 4 f3 (dig 4 f4 (dig 7 f5 l)))))) 24 7 = f5 :=
  ⟨fld_head h0,
    fld_skip h0 (fld_head h1),
    fld_skip h0 (fld_skip h1 (fld_head h2)),
    fld_skip h0 (fld_skip h1 (fld_skip h2 (fld_head h3))),
    fld_skip h0 (fld_skip h1 (fld_skip h2 (fld_skip h3 (fld_head h4)))),
    fld_skip h0 (fld_skip h1 (fld_skip h2 (fld_skip h3 (fld_skip h4 (fld_head h5)))))⟩

theorem fields17 {f0 f1 f2 f3 f4 f5 f6 l : Nat} (h0 : f0 < 4096) (h1 : f1 < 8) (h2 : f2 < 2) (h3 : f3 < 16) (h4 : f4 < 4) (h5 : f5 < 4) (h6 : f6 < 128) :
    fld (dig 12 f0 (dig 3 f1 (dig 1 f2 (dig 4 f3 (dig 2 f4 (dig 2 f5 (dig 7 f6 l))))))) 0 12 = f0 ∧
    fld (dig 12 f0 (dig 3 f1 (dig 1 f2 (dig 4 f3 (dig 2 f4 (dig 2 f5 (dig 7 f6 l))))))) 12 3 = f1 ∧
    fld (dig 12 f0 (dig 3 f1 (dig 1 f2 (dig 4 f3 (dig 2 f4 (dig 2 f5 (dig 7 f6 l))))))) 15 1 = f2 ∧
    fld (dig 12 f0 (dig 3 f1 (dig 1 f2 (dig 4 f3 (dig 2 f4 (dig 2 f5 (dig 7 f6 l))))))) 16 4 = f3 ∧
    fld (dig 12 f0 (dig 3 f1 (dig 1 f2 (dig 4 f3 (dig 2 f4 (dig 2 f5 (dig 7 f6 l))))))) 20 2 = f4 ∧
    fld (dig 12 f0 (dig 3 f1 (dig 1 f2 (dig 4 f3 (dig 2 f4 (dig 2 f5 (dig 7 f6 l))))))) 22 2 = f5 ∧
    fld (dig 12 f0 (dig 3 f1 (dig 1 f2 (dig 4 f3 (dig 2 f4 (dig 2 f5 (dig 7 f6 l))))))) 24 7 = f6 :=
  ⟨fld_head h0,
    fld_skip h0 (fld_head h1),
    fld_skip h0 (fld_skip h1 (fld_head h2)),
    fld_skip h0 (fld_skip h1 (fld_skip h2 (fld_head h3))),
    fld_skip h0 (fld_skip h1 (fld_skip h2 (fld_skip h3 (fld_head h4)))),
    fld_skip h0 (fld_skip h1 (fld_skip h2 (fld_skip h3 (fld_skip h4 (fld_head h5))))),
    fld_skip h0 (fld_skip h1 (fld_skip h2 (fld_skip h3 (fld_skip h4 (fld_skip h5 (fld_head h6))))))⟩

theorem fields18 {f0 f1 f2 f3 f4 f5 f6 l : Nat} (h0 : f0 < 4) (h1 : f1 < 16) (h2 : f2 < 64) (h3 : f3 < 16) (h4 : f4 < 16) (h5 : f5 < 16) (h6 : f6 < 128) :
    fld (dig 2 f0 (dig 4 f1 (dig 6 f2 (dig 4 f3 (dig 4 f4 (dig 4 f5 (dig 7 f6 l))))))) 0 2 = f0 ∧
    fld (dig 2 f0 (dig 4 f1 (dig 6 f2 (dig 4 f3 (dig 4 f4 (dig 4 f5 (dig 7 f6 l))))))) 2 4 = f1 ∧
    fld (dig 2 f0 (dig 4 f1 (dig 6 f2 (dig 4 f3 (dig 4 f4 (dig 4 f5 (dig 7 f6 l))))))) 6 6 = f2 ∧
    fld (dig 2 f0 (dig 4 f1 (dig 6 f2 (dig 4 f3 (dig 4 f4 (dig 4 f5 (dig 7 f6 l))))))) 12 4 = f3 ∧
    fld (dig 2 f0 (dig 4 f1 (dig 6 f2 (dig 4 f3 (dig 4 f4 (dig 4 f5 (dig 7 f6 l))))))) 16 4 = f4 ∧
    fld (dig 2 f0 (dig 4 f1 (dig 6 f2 (dig 4 f3 (dig 4 f4 (dig 4 f5 (dig 7 f6 l))))))) 20 4 = f5 ∧
    fld (dig 2 f0 (dig 4 f1 (dig 6 f2 (dig 4 f3 (dig 4 f4 (dig 4 f5 (dig 7 f6 l))))))) 24 7 = f6 :=
  ⟨fld_head h0,
    fld_skip h0 (fld_head h1),
    fld_skip h0 (fld_skip h1 (fld_head h2)),
    fld_skip h0 (fld_skip h1 (fld_skip h2 (fld_head h3))),
    fld_skip h0 (fld_skip h1 (fld_skip h2 (fld_skip h3 (fld_head h4)))),
    fld_skip h0 (fld_skip h1 (fld_skip h2 (fld_skip h3 (fld_skip h4 (fld_head h5))))),
    fld_skip h0 (fld_skip h1 (fld_skip h2 (fld_skip h3 (fld_skip h4 (fld_skip h5 (fld_head h6))))))⟩

theorem fields19 {f0 f1 f2 f3 f4 f5 f6 f7 l : Nat} (h0 : f0 < 4) (h1 : f1 < 2) (h2 : f2 < 2) (h3 : f3 < 256) (h4 : f4 < 16) (h5 : f5 < 32) (h6 : f6 < 8) (h7 : f7 < 128) :
    fld (dig 2 f0 (dig 1 f1 (dig 1 f2 (dig 8 f3 (dig 4 f4 (dig 5 f5 (dig 3 f6 (dig 7 f7 l)))))))) 0 2 = f0 ∧
    fld (dig 2 f0 (dig 1 f1 (dig 1 f2 (dig 8 f3 (dig 4 f4 (dig 5 f5 (dig 3 f6 (dig 7 f7 l)))))))) 2 1 = f1 ∧
    fld (dig 2 f0 (dig 1 f1 (dig 1 f2 (dig 8 f3 (dig 4 f4 (dig 5 f5 (dig 3 f6 (dig 7 f7 l)))))))) 3 1 = f2 ∧
    fld (dig 2 f0 (dig 1 f1 (dig 1 f2 (dig 8 f3 (dig 4 f4 (dig 5 f5 (dig 3 f6 (dig 7 f7 l)))))))) 4 8 = f3 ∧
    fld (dig 2 f0 (dig 1 f1 (dig 1 f2 (dig 8 f3 (dig 4 f4 (dig 5 f5 (dig 3 f6 (dig 7 f7 l)))))))) 12 4 = f4 ∧
    fld (dig 2 f0 (dig 1 f1 (dig 1 f2 (dig 8 f3 (dig 4 f4 (dig 5 f5 (dig 3 f6 (dig 7 f7 l)))))))) 16 5 = f5 ∧
    fld (dig 2 f0 (dig 1 f1 (dig 1 f2 (dig 8 f3 (dig 4 f4 (dig 5 f5 (dig 3 f6 (dig 7 f7 l)))))))) 21 3 = f6 ∧
    fld (dig 2 f0 (dig 1 f1 (dig 1 f2 (dig 8 f3 (dig 4 f4 (dig 5 f5 (dig 3 f6 (dig 7 f7 l)))))))) 24 7 = f7 :=
  ⟨fld_head h0,
    fld_skip h0 (fld_head h1),
    fld_skip h0 (fld_skip h1 (fld_head h2)),
    fld_skip h0 (fld_skip h1 (fld_skip h2 (fld_head h3))),
    fld_skip h0 (fld_skip h1 (fld_skip h2 (fld_skip h3 (fld_head h4)))),
    fld_skip h0 (fld_skip h1 (fld_skip h2 (fld_skip h3 (fld_skip h4 (fld_head h5))))),
    fld_skip h0 (fld_skip h1 (fld_skip h2 (fld_skip h3 (fld_skip h4 (fld_skip h5 (fld_head h6)))))),
    fld_skip h0 (fld_skip h1 (fld_skip h2 (fld_skip h3 (fld_skip h4 (fld_skip h5 (fld_skip h6 (fld_head h7)))))))⟩

theorem fields20 {f0 f1 f2 l : Nat} (h0 : f0 < 65536) (h1 : f1 < 256) (h2 : f2 < 128) :
    fld (dig 16 f0 (dig 8 f1 (dig 7 f2 l))) 0 16 = f0 ∧
    fld (dig 16 f0 (dig 8 f1 (dig 7 f2 l))) 16 8 = f1 ∧
    fld (dig 16 f0 (dig 8 f1 (dig 7 f2 l))) 24 7 = f2 :=
  ⟨fld_head h0,
    fld_skip h0 (fld_head h1),
    fld_skip h0 (fld_skip h1 (fld_head h2))⟩

theorem fields21 {f0 f1 f2 f3 f4 f5 f6 l : Nat} (h0 : f0 < 4) (h1 : f1 < 2) (h2 : f2 < 512) (h3 : f3 < 16) (h4 : f4 < 32) (h5 : f5 < 8) (h6 : f6 < 128) :
    fld (dig 2 f0 (dig 1 f1 (dig 9 f2 (dig 4 f3 (dig 5 f4 (dig 3 f5 (dig 7 f6 l))))))) 0 2 = f0 ∧
    fld (dig 2 f0 (dig 1 f1 (dig 9 f2 (dig 4 f3 (dig 5 f4 (dig 3 f5 (dig 7 f6 l))))))) 2 1 = f1 ∧
    fld (dig 2 f0 (dig 1 f1 (dig 9 f2 (dig 4 f3 (dig 5 f4 (dig 3 f5 (dig 7 f6 l))))))) 3 9 = f2 ∧
    fld (dig 2 f0 (dig 1 f1 (dig 9 f2 (dig 4 f3 (dig 5 f4 (dig 3 f5 (dig 7 f6 l))))))) 12 4 = f3 ∧
    fld (dig 2 f0 (dig 1 f1 (dig 9 f2 (dig 4 f3 (dig 5 f4 (dig 3 f5 (dig 7 f6 l))))))) 16 5 = f4 ∧
    fld (dig 2 f0 (dig 1 f1 (dig 9 f2 (dig 4 f3 (dig 5 f4 (dig 3 f5 (dig 7 f6 l))))))) 21 3 = f5 ∧
    fld (dig 2 f0 (dig 1 f1 (dig 9 f2 (dig 4 f3 (dig 5 f4 (dig 3 f5 (dig 7 f6 l))))))) 24 7 = f6 :=
  ⟨fld_head h0,
    fld_skip h0 (fld_head h1),
    fld_skip h0 (fld_skip h1 (fld_head h2)),
    fld_skip h0 (fld_skip h1 (fld_skip h2 (fld_head h3))),
    fld_skip h0 (fld_skip h1 (fld_skip h2 (fld_skip h3 (fld_head h4)))),
    fld_skip h0 (fld_skip h1 (fld_skip h2 (fld_skip h3 (fld_skip h4 (fld_head h5))))),
    fld_skip h0 (fld_skip h1 (fld_skip h2 (fld_skip h3 (fld_skip h4 (fld_skip h5 (fld_head h6))))))⟩

theorem fields22 {f0 f1 f2 f3 f4 l : Nat} (h0 : f0 < 2) (h1 : f1 < 32768) (h2 : f2 < 32) (h3 : f3 < 8) (h4 : f4 < 128) :
    fld (dig 1 f0 (dig 15 f1 (dig 5 f2 (dig 3 f3 (dig 7 f4 l))))) 0 1 = f0 ∧
    fld (dig 1 f0 (dig 15 f1 (dig 5 f2 (dig 3 f3 (dig 7 f4 l))))) 1 15 = f1 ∧
    fld (dig 1 f0 (dig 15 f1 (dig 5 f2 (dig 3 f3 (dig 7 f4 l))))) 16 5 = f2 ∧
    fld (dig 1 f0 (dig 15 f1 (dig 5 f2 (dig 3 f3 (dig 7 f4 l))))) 21 3 = f3 ∧
    fld (dig 1 f0 (dig 15 f1 (dig 5 f2 (dig 3 f3 (dig 7 f4 l))))) 24 7 = f4 :=
  ⟨fld_head h0,
    fld_skip h0 (fld_head h1),
    fld_skip h0 (fld_skip h1 (fld_head h2)),
    fld_skip h0 (fld_skip h1 (fld_skip h2 (fld_head h3))),
    fld_skip h0 (fld_skip h1 (fld_skip h2 (fld_skip h3 (fld_head h4))))⟩

theorem fields23 {f0 f1 f2 f3 f4 f5 f6 f7 l : Nat} (h0 : f0 < 2) (h1 : f1 < 8) (h2 : f2 < 16) (h3 : f3 < 16) (h4 : f4 < 16) (h5 : f5 < 32) (h6 : f6 < 8) (h7 : f7 < 128) :
    fld (dig 1 f0 (dig 3 f1 (dig 4 f2 (dig 4 f3 (dig 4 f4 (dig 5 f5 (dig 3 f6 (dig 7 f7 l)))))))) 0 1 = f0 ∧
    fld (dig 1 f0 (dig 3 f1 (dig 4 f2 (dig 4 f3 (dig 4 f4 (dig 5 f5 (dig 3 f6 (dig 7 f7 l)))))))) 1 3 = f1 ∧
    fld (dig 1 f0 (dig 3 f1 (dig 4 f2 (dig 4 f3 (dig 4 f4 (dig 5 f5 (dig 3 f6 (dig 7 f7 l)))))))) 4 4 = f2 ∧
    fld (dig 1 f0 (dig 3 f1 (dig 4 f2 (dig 4 f3 (dig 4 f4 (dig 5 f5 (dig 3 f6 (dig 7 f7 l)))))))) 8 4 = f3 ∧
    fld (dig 1 f0 (dig 3 f1 (dig 4 f2 (dig 4 f3 (dig 4 f4 (dig 5 f5 (dig 3 f6 (dig 7 f7 l)))))))) 12 4 = f4 ∧
    fld (dig 1 f0 (dig 3 f1 (dig 4 f2 (dig 4 f3 (dig 4 f4 (dig 5 f5 (dig 3 f6 (dig 7 f7 l)))))))) 16 5 = f5 ∧
    fld (dig 1 f0 (dig 3 f1 (dig 4 f2 (dig 4 f3 (dig 4 f4 (dig 5 f5 (dig 3 f6 (dig 7 f7 l)))))))) 21 3 = f6 ∧
    fld (dig 1 f0 (dig 3 f1 (dig 4 f2 (dig 4 f3 (dig 4 f4 (dig 5 f5 (dig 3 f6 (dig 7 f7 l)))))))) 24 7 = f7 :=
  ⟨fld_head h0,
    fld_skip h0 (fld_head h1),
    fld_skip h0 (fld_skip h1 (fld_head h2)),
    fld_skip h0 (fld_skip h1 (fld_skip h2 (fld_head h3))),
    fld_skip h0 (fld_skip h1 (fld_skip h2 (fld_skip h3 (fld_head h4)))),
    fld_skip h0 (fld_skip h1 (fld_skip h2 (fld_skip h3 (fld_skip h4 (fld_head h5))))),
    fld_skip h0 (fld_skip h1 (fld_skip h2 (fld_skip h3 (fld_skip h4 (fld_skip h5 (fld_head h6)))))),
    fld_skip h0 (fld_skip h1 (fld_skip h2 (fld_skip h3 (fld_skip h4 (fld_skip h5 (fld_skip h6 (fld_head h7)))))))⟩

theorem fields24 {f0 f1 f2 f3 f4 l : Nat} (h0 : f0 < 4096) (h1 : f1 < 16) (h2 : f2 < 32) (h3 : f3 < 8) (h4 : f4 < 128) :
    fld (dig 12 f0 (dig 4 f1 (dig 5 f2 (dig 3 f3 (dig 7 f4 l))))) 0 12 = f0 ∧
    fld (dig 12 f0 (dig 4 f1 (dig 5 f2 (dig 3 f3 (dig 7 f4 l))))) 12 4 = f1 ∧
    fld (dig 12 f0 (dig 4 f1 (dig 5 f2 (dig 3 f3 (dig 7 f4 l))))) 16 5 = f2 ∧
    fld (dig 12 f0 (dig 4 f1 (dig 5 f2 (dig 3 f3 (dig 7 f4 l))))) 21 3 = f3 ∧
    fld (dig 12 f0 (dig 4 f1 (dig 5 f2 (dig 3 f3 (dig 7 f4 l))))) 24 7 = f4 :=
  ⟨fld_head h0,
    fld_skip h0 (fld_head h1),
    fld_skip h0 (fld_skip h1 (fld_head h2)),
    fld_skip h0 (fld_skip h1 (fld_skip h2 (fld_head h3))),
    fld_skip h0 (fld_skip h1 (fld_skip h2 (fld_skip h3 (fld_head h4))))⟩

theorem fields25 {f0 f1 f2 f3 l : Nat} (h0 : f0 < 65536) (h1 : f1 < 32) (h2 : f2 < 8) (h3 : f3 < 128) :
    fld (dig 16 f0 (dig 5 f1 (dig 3 f2 (dig 7 f3 l)))) 0 16 = f0 ∧
    fld (dig 16 f0 (dig 5 f1 (dig 3 f2 (dig 7 f3 l)))) 16 5 = f1 ∧
    fld (dig 16 f0 (dig 5 f1 (dig 3 f2 (dig 7 f3 l)))) 21 3 = f2 ∧
    fld (dig 16 f0 (dig 5 f1 (dig 3 f2 (dig 7 f3 l)))) 24 7 = f3 :=
  ⟨fld_head h0,
    fld_skip h0 (fld_head h1),
    fld_skip h0 (fld_skip h1 (fld_head h2)),
    fld_skip h0 (fld_skip h1 (fld_skip h2 (fld_head h3)))⟩

theorem fields26 {f0 f1 f2 f3 f4 f5 f6 l : Nat} (h0 : f0 < 256) (h1 : f1 < 8) (h2 : f2 < 2) (h3 : f3 < 16) (h4 : f4 < 32) (h5 : f5 < 8) (h6 : f6 < 128) :
    fld (dig 8 f0 (dig 3 f1 (dig 1 f2 (dig 4 f3 (dig 5 f4 (dig 3 f5 (dig 7 f6 l))))))) 0 8 = f0 ∧
    fld (dig 8 f0 (dig 3 f1 (dig 1 f2 (dig 4 f3 (dig 5 f4 (dig 3 f5 (dig 7 f6 l))))))) 8 3 = f1 ∧
    fld (dig 8 f0 (dig 3 f1 (dig 1 f2 (dig 4 f3 (dig 5 f4 (dig 3 f5 (dig 7 f6 l))))))) 11 1 = f2 ∧
    fld (dig 8 f0 (dig 3 f1 (dig 1 f2 (dig 4 f3 (dig 5 f4 (dig 3 f5 (dig 7 f6 l))))))) 12 4 = f3 ∧
    fld (dig 8 f0 (dig 3 f1 (dig 1 f2 (dig 4 f3 (dig 5 f4 (dig 3 f5 (dig 7 f6 l))))))) 16 5 = f4 ∧
    fld (dig 8 f0 (dig 3 f1 (dig 1 f2 (dig 4 f3 (dig 5 f4 (dig 3 f5 (dig 7 f6 l))))))) 21 3 = f5 ∧
    fld (dig 8 f0 (dig 3 f1 (dig 1 f2 (dig 4 f3 (dig 5 f4 (dig 3 f5 (dig 7 f6 l))))))) 24 7 = f6 :=
  ⟨fld_head h0,
    fld_skip h0 (fld_head h1),
    fld_skip h0 (fld_skip h1 (fld_head h2)),
    fld_skip h0 (fld_skip h1 (fld_skip h2 (fld_head h3))),
    fld_skip h0 (fld_skip h1 (fld_skip h2 (fld_skip h3 (fld_head h4)))),
    fld_skip h0 (fld_skip h1 (fld_skip h2 (fld_skip h3 (fld_skip h4 (fld_head h5))))),
    fld_skip h0 (fld_skip h1 (fld_skip h2 (fld_skip h3 (fld_skip h4 (fld_skip h5 (fld_head h6))))))⟩

theorem fields27 {f0 f1 f2 f3 f4 f5 l : Nat} (h0 : f0 < 64) (h1 : f1 < 64) (h2 : f2 < 8) (h3 : f3 < 32) (h4 : f4 < 16) (h5 : f5 < 128) :
    fld (dig 6 f0 (dig 6 f1 (dig 3 f2 (dig 5 f3 (dig 4 f4 (dig 7 f5 l)))))) 0 6 = f0 ∧
    fld (dig 6 f0 (dig 6 f1 (dig 3 f2 (dig 5 f3 (dig 4 f4 (dig 7 f5 l)))))) 6 6 = f1 ∧
    fld (dig 6 f0 (dig 6 f1 (dig 3 f2 (dig 5 f3 (dig 4 f4 (dig 7 f5 l)))))) 12 3 = f2 ∧
    fld (dig 6 f0 (dig 6 f1 (dig 3 f2 (dig 5 f3 (dig 4 f4 (dig 7 f5 l)))))) 15 5 = f3 ∧
    fld (dig 6 f0 (dig 6 f1 (dig 3 f2 (dig 5 f3 (dig 4 f4 (dig 7 f5 l)))))) 20 4 = f4 ∧
    fld (dig 6 f0 (dig 6 f1 (dig 3 f2 (dig 5 f3 (dig 4 f4 (dig 7 f5 l)))))) 24 7 = f5 :=
  ⟨fld_head h0,
    fld_skip h0 (fld_head h1),
    fld_skip h0 (fld_skip h1 (fld_head h2)),
    fld_skip h0 (fld_skip h1 (fld_skip h2 (fld_head h3))),
    fld_skip h0 (fld_skip h1 (fld_skip h2 (fld_skip h3 (fld_head h4)))),
    fld_skip h0 (fld_skip h1 (fld_skip h2 (fld_skip h3 (fld_skip h4 (fld_head h5)))))⟩

theorem fields28 {f0 f1 f2 f3 f4 f5 f6 l : Nat} (h0 : f0 < 64) (h1 : f1 < 64) (h2 : f2 < 8) (h3 : f3 < 2) (h4 : f4 < 16) (h5 : f5 < 16) (h6 : f6 < 128) :
    fld (dig 6 f0 (dig 6 f1 (dig 3 f2 (dig 1 f3 (dig 4 f4 (dig 4 f5 (dig 7 f6 l))))))) 0 6 = f0 ∧
    fld (dig 6 f0 (dig 6 f1 (dig 3 f2 (dig 1 f3 (dig 4 f4 (dig 4 f5 (dig 7 f6 l))))))) 6 6 = f1 ∧
    fld (dig 6 f0 (dig 6 f1 (dig 3 f2 (dig 1 f3 (dig 4 f4 (dig 4 f5 (dig 7 f6 l))))))) 12 3 = f2 ∧
    fld (dig 6 f0 (dig 6 f1 (dig 3 f2 (dig 1 f3 (dig 4 f4 (dig 4 f5 (dig 7 f6 l))))))) 15 1 = f3 ∧
    fld (dig 6 f0 (dig 6 f1 (dig 3 f2 (dig 1 f3 (dig 4 f4 (dig 4 f5 (dig 7 f6 l))))))) 16 4 = f4 ∧
    fld (dig 6 f0 (dig 6 f1 (dig 3 f2 (dig 1 f3 (dig 4 f4 (dig 4 f5 (dig 7 f6 l))))))) 20 4 = f5 ∧
    fld (dig 6 f0 (dig 6 f1 (dig 3 f2 (dig 1 f3 (dig 4 f4 (dig 4 f5 (dig 7 f6 l))))))) 24 7 = f6 :=
  ⟨fld_head h0,
    fld_skip h0 (fld_head h1),
    fld_skip h0 (fld_skip h1 (fld_head h2)),
    fld_skip h0 (fld_skip h1 (fld_skip h2 (fld_head h3))),
    fld_skip h0 (fld_skip h1 (fld_skip h2 (fld_skip h3 (fld_head h4)))),
    fld_skip h0 (fld_skip h1 (fld_skip h2 (fld_skip h3 (fld_skip h4 (fld_head h5))))),
    fld_skip h0 (fld_skip h1 (fld_skip h2 (fld_skip h3 (fld_skip h4 (fld_skip h5 (fld_head h6))))))⟩

theorem fields29 {f0 f1 f2 f3 f4 l : Nat} (h0 : f0 < 64) (h1 : f1 < 64) (h2 : f2 < 8) (h3 : f3 < 512) (h4 : f4 < 128) :
    fld (dig 6 f0 (dig 6 f1 (dig 3 f2 (dig 9 f3 (dig 7 f4 l))))) 0 6 = f0 ∧
    fld (dig 6 f0 (dig 6 f1 (dig 3 f2 (dig 9 f3 (dig 7 f4 l))))) 6 6 = f1 ∧
    fld (dig 6 f0 (dig 6 f1 (dig 3 f2 (dig 9 f3 (dig 7 f4 l))))) 12 3 = f2 ∧
    fld (dig 6 f0 (dig 6 f1 (dig 3 f2 (dig 9 f3 (dig 7 f4 l))))) 15 9 = f3 ∧
    fld (dig 6 f0 (dig 6 f1 (dig 3 f2 (dig 9 f3 (dig 7 f4 l))))) 24 7 = f4 :=
  ⟨fld_head h0,
    fld_skip h0 (fld_head h1),
    fld_skip h0 (fld_skip h1 (fld_head h2)),
    fld_skip h0 (fld_skip h1 (fld_skip h2 (fld_head h3))),
    fld_skip h0 (fld_skip h1 (fld_skip h2 (fld_skip h3 (fld_head h4))))⟩

theorem fields30 {f0 f1 f2 f3 f4 f5 f6 l : Nat} (h0 : f0 < 16) (h1 : f1 < 4) (h2 : f2 < 64) (h3 : f3 < 16) (h4 : f4 < 16) (h5 : f5 < 16) (h6 : f6 < 128) :
    fld (dig 4 f0 (dig 2 f1 (dig 6 f2 (dig 4 f3 (dig 4 f4 (dig 4 f5 (dig 7 f6 l))))))) 0 4 = f0 ∧
    fld (dig 4 f0 (dig 2 f1 (dig 6 f2 (dig 4 f3 (dig 4 f4 (dig 4 f5 (dig 7 f6 l))))))) 4 2 = f1 ∧
    fld (dig 4 f0 (dig 2 f1 (dig 6 f2 (dig 4 f3 (dig 4 f4 (dig 4 f5 (dig 7 f6 l))))))) 6 6 = f2 ∧
    fld (dig 4 f0 (dig 2 f1 (dig 6 f2 (dig 4 f3 (dig 4 f4 (dig 4 f5 (dig 7 f6 l))))))) 12 4 = f3 ∧
    fld (dig 4 f0 (dig 2 f1 (dig 6 f2 (dig 4 f3 (dig 4 f4 (dig 4 f5 (dig 7 f6 l))))))) 16 4 = f4 ∧
    fld (dig 4 f0 (dig 2 f1 (dig 6 f2 (dig 4 f3 (dig 4 f4 (dig 4 f5 (dig 7 f6 l))))))) 20 4 = f5 ∧
    fld (dig 4 f0 (dig 2 f1 (dig 6 f2 (dig 4 f3 (dig 4 f4 (dig 4 f5 (dig 7 f6 l))))))) 24 7 = f6 :=
  ⟨fld_head h0,
    fld_skip h0 (fld_head h1),
    fld_skip h0 (fld_skip h1 (fld_head h2)),
    fld_skip h0 (fld_skip h1 (fld_skip h2 (fld_head h3))),
    fld_skip h0 (fld_skip h1 (fld_skip h2 (fld_skip h3 (fld_head h4)))),
    fld_skip h0 (fld_skip h1 (fld_skip h2 (fld_skip h3 (fld_skip h4 (fld_head h5))))),
    fld_skip h0 (fld_skip h1 (fld_skip h2 (fld_skip h3 (fld_skip h4 (fld_skip h5 (fld_head h6))))))⟩

theorem fields31 {f0 f1 f2 f3 f4 l : Nat} (h0 : f0 < 64) (h1 : f1 < 1024) (h2 : f2 < 16) (h3 : f3 < 16) (h4 : f4 < 128) :
    fld (dig 6 f0 (dig 10 f1 (dig 4 f2 (dig 4 f3 (dig 7 f4 l))))) 0 6 = f0 ∧
    fld (dig 6 f0 (dig 10 f1 (dig 4 f2 (dig 4 f3 (dig 7 f4 l))))) 6 10 = f1 ∧
    fld (dig 6 f0 (dig 10 f1 (dig 4 f2 (dig 4 f3 (dig 7 f4 l))))) 16 4 = f2 ∧
    fld (dig 6 f0 (dig 10 f1 (dig 4 f2 (dig 4 f3 (dig 7 f4 l))))) 20 4 = f3 ∧
    fld (dig 6 f0 (dig 10 f1 (dig 4 f2 (dig 4 f3 (dig 7 f4 l))))) 24 7 = f4 :=
  ⟨fld_head h0,
    fld_skip h0 (fld_head h1),
    fld_skip h0 (fld_skip h1 (fld_head h2)),
    fld_skip h0 (fld_skip h1 (fld_skip h2 (fld_head h3))),
    fld_skip h0 (fld_skip h1 (fld_skip h2 (fld_skip h3 (fld_head h4))))⟩

theorem fields32 {f0 f1 f2 f3 f4 f5 f6 f7 l : Nat} (h0 : f0 < 2) (h1 : f1 < 8) (h2 : f2 < 4) (h3 : f3 < 64) (h4 : f4 < 16) (h5 : f5 < 16) (h6 : f6 < 16) (h7 : f7 < 128) :
    fld (dig 1 f0 (dig 3 f1 (dig 2 f2 (dig 6 f3 (dig 4 f4 (dig 4 f5 (dig 4 f6 (dig 7 f7 l)))))))) 0 1 = f0 ∧
    fld (dig 1 f0 (dig 3 f1 (dig 2 f2 (dig 6 f3 (dig 4 f4 (dig 4 f5 (dig 4 f6 (dig 7 f7 l)))))))) 1 3 = f1 ∧
    fld (dig 1 f0 (dig 3 f1 (dig 2 f2 (dig 6 f3 (dig 4 f4 (dig 4 f5 (dig 4 f6 (dig 7 f7 l)))))))) 4 2 = f2 ∧
    fld (dig 1 f0 (dig 3 f1 (dig 2 f2 (dig 6 f3 (dig 4 f4 (dig 4 f5 (dig 4 f6 (dig 7 f7 l)))))))) 6 6 = f3 ∧
    fld (dig 1 f0 (dig 3 f1 (dig 2 f2 (dig 6 f3 (dig 4 f4 (dig 4 f5 (dig 4 f6 (dig 7 f7 l)))))))) 12 4 = f4 ∧
    fld (dig 1 f0 (dig 3 f1 (dig 2 f2 (dig 6 f3 (dig 4 f4 (dig 4 f5 (dig 4 f6 (dig 7 f7 l)))))))) 16 4 = f5 ∧
    fld (dig 1 f0 (dig 3 f1 (dig 2 f2 (dig 6 f3 (dig 4 f4 (dig 4 f5 (dig 4 f6 (dig 7 f7 l)))))))) 20 4 = f6 ∧
    fld (dig 1 f0 (dig 3 f1 (dig 2 f2 (dig 6 f3 (dig 4 f4 (dig 4 f5 (dig 4 f6 (dig 7 f7 l)))))))) 24 7 = f7 :=
  ⟨fld_head h0,
    fld_skip h0 (fld_head h1),
    fld_skip h0 (fld_skip h1 (fld_head h2)),
    fld_skip h0 (fld_skip h1 (fld_skip h2 (fld_head h3))),
    fld_skip h0 (fld_skip h1 (fld_skip h2 (fld_skip h3 (fld_head h4)))),
    fld_skip h0 (fld_skip h1 (fld_skip h2 (fld_skip h3 (fld_skip h4 (fld_head h5))))),
    fld_skip h0 (fld_skip h1 (fld_skip h2 (fld_skip h3 (fld_skip h4 (fld_skip h5 (fld_head h6)))))),
    fld_skip h0 (fld_skip h1 (fld_skip h2 (fld_skip h3 (fld_skip h4 (fld_skip h5 (fld_skip h6 (fld_head h7)))))))⟩

theorem fields33 {f0 f1 f2 f3 f4 f5 f6 f7 l : Nat} (h0 : f0 < 16) (h1 : f1 < 2) (h2 : f2 < 2) (h3 : f3 < 64) (h4 : f4 < 16) (h5 : f5 < 16) (h6 : f6 < 16) (h7 : f7 < 128) :
    fld (dig 4 f0 (dig 1 f1 (dig 1 f2 (dig 6 f3 (dig 4 f4 (dig 4 f5 (dig 4 f6 (dig 7 f7 l)))))))) 0 4 = f0 ∧
    fld (dig 4 f0 (dig 1 f1 (dig 1 f2 (dig 6 f3 (dig 4 f4 (dig 4 f5 (dig 4 f6 (dig 7 f7 l)))))))) 4 1 = f1 ∧
    fld (dig 4 f0 (dig 1 f1 (dig 1 f2 (dig 6 f3 (dig 4 f4 (dig 4 f5 (dig 4 f6 (dig 7 f7 l)))))))) 5 1 = f2 ∧
    fld (dig 4 f0 (dig 1 f1 (dig 1 f2 (dig 6 f3 (dig 4 f4 (dig 4 f5 (dig 4 f6 (dig 7 f7 l)))))))) 6 6 = f3 ∧
    fld (dig 4 f0 (dig 1 f1 (dig 1 f2 (dig 6 f3 (dig 4 f4 (dig 4 f5 (dig 4 f6 (dig 7 f7 l)))))))) 12 4 = f4 ∧
    fld (dig 4 f0 (dig 1 f1 (dig 1 f2 (dig 6 f3 (dig 4 f4 (dig 4 f5 (dig 4 f6 (dig 7 f7 l)))))))) 16 4 = f5 ∧
    fld (dig 4 f0 (dig 1 f1 (dig 1 f2 (dig 6 f3 (dig 4 f4 (dig 4 f5 (dig 4 f6 (dig 7 f7 l)))))))) 20 4 = f6 ∧
    fld (dig 4 f0 (dig 1 f1 (dig 1 f2 (dig 6 f3 (dig 4 f4 (dig 4 f5 (dig 4 f6 (dig 7 f7 l)))))))) 24 7 = f7 :=
  ⟨fld_head h0,
    fld_skip h0 (fld_head h1),
    fld_skip h0 (fld_skip h1 (fld_head h2)),
    fld_skip h0 (fld_skip h1 (fld_skip h2 (fld_head h3))),
    fld_skip h0 (fld_skip h1 (fld_skip h2 (fld_skip h3 (fld_head h4)))),
    fld_skip h0 (fld_skip h1 (fld_skip h2 (fld_skip h3 (fld_skip h4 (fld_head h5))))),
    fld_skip h0 (fld_skip h1 (fld_skip h2 (fld_skip h3 (fld_skip h4 (fld_skip h5 (fld_head h6)))))),
    fld_skip h0 (fld_skip h1 (fld_skip h2 (fld_skip h3 (fld_skip h4 (fld_skip h5 (fld_skip h6 (fld_head h7)))))))⟩

theorem fields34 {f0 f1 f2 f3 f4 f5 f6 l : Nat} (h0 : f0 < 16) (h1 : f1 < 16) (h2 : f2 < 16) (h3 : f3 < 16) (h4 : f4 < 16) (h5 : f5 < 16) (h6 : f6 < 128) :
    fld (dig 4 f0 (dig 4 f1 (dig 4 f2 (dig 4 f3 (dig 4 f4 (dig 4 f5 (dig 7 f6 l))))))) 0 4 = f0 ∧
    fld (dig 4 f0 (dig 4 f1 (dig 4 f2 (dig 4 f3 (dig 4 f4 (dig 4 f5 (dig 7 f6 l))))))) 4 4 = f1 ∧
    fld (dig 4 f0 (dig 4 f1 (dig 4 f2 (dig 4 f3 (dig 4 f4 (dig 4 f5 (dig 7 f6 l))))))) 8 4 = f2 ∧
    fld (dig 4 f0 (dig 4 f1 (dig 4 f2 (dig 4 f3 (dig 4 f4 (dig 4 f5 (dig 7 f6 l))))))) 12 4 = f3 ∧
    fld (dig 4 f0 (dig 4 f1 (dig 4 f2 (dig 4 f3 (dig 4 f4 (dig 4 f5 (dig 7 f6 l))))))) 16 4 = f4 ∧
    fld (dig 4 f0 (dig 4 f1 (dig 4 f2 (dig 4 f3 (dig 4 f4 (dig 4 f5 (dig 7 f6 l))))))) 20 4 = f5 ∧
    fld (dig 4 f0 (dig 4 f1 (dig 4 f2 (dig 4 f3 (dig 4 f4 (dig 4 f5 (dig 7 f6 l))))))) 24 7 = f6 :=
  ⟨fld_head h0,
    fld_skip h0 (fld_head h1),
    fld_skip h0 (fld_skip h1 (fld_head h2)),
    fld_skip h0 (fld_skip h1 (fld_skip h2 (fld_head h3))),
    fld_skip h0 (fld_skip h1 (fld_skip h2 (fld_skip h3 (fld_head h4)))),
    fld_skip h0 (fld_skip h1 (fld_skip h2 (fld_skip h3 (fld_skip h4 (fld_head h5))))),
    fld_skip h0 (fld_skip h1 (fld_skip h2 (fld_skip h3 (fld_skip h4 (fld_skip h5 (fld_head h6))))))⟩

theorem fields35 {f0 f1 f2 f3 f4 f5 f6 f7 l : Nat} (h0 : f0 < 8) (h1 : f1 < 16) (h2 : f2 < 16) (h3 : f3 < 16) (h4 : f4 < 16) (h5 : f5 < 8) (h6 : f6 < 4) (h7 : f7 < 128) :
    fld (dig 3 f0 (dig 4 f1 (dig 4 f2 (dig 4 f3 (dig 4 f4 (dig 3 f5 (dig 2 f6 (dig 7 f7 l)))))))) 0 3 = f0 ∧
    fld (dig 3 f0 (dig 4 f1 (dig 4 f2 (dig 4 f3 (dig 4 f4 (dig 3 f5 (dig 2 f6 (dig 7 f7 l)))))))) 3 4 = f1 ∧
    fld (dig 3 f0 (dig 4 f1 (dig 4 f2 (dig 4 f3 (dig 4 f4 (dig 3 f5 (dig 2 f6 (dig 7 f7 l)))))))) 7 4 = f2 ∧
    fld (dig 3 f0 (dig 4 f1 (dig 4 f2 (dig 4 f3 (dig 4 f4 (dig 3 f5 (dig 2 f6 (dig 7 f7 l)))))))) 11 4 = f3 ∧
    fld (dig 3 f0 (dig 4 f1 (dig 4 f2 (dig 4 f3 (dig 4 f4 (dig 3 f5 (dig 2 f6 (dig 7 f7 l)))))))) 15 4 = f4 ∧
    fld (dig 3 f0 (dig 4 f1 (dig 4 f2 (dig 4 f3 (dig 4 f4 (dig 3 f5 (dig 2 f6 (dig 7 f7 l)))))))) 19 3 = f5 ∧
    fld (dig 3 f0 (dig 4 f1 (dig 4 f2 (dig 4 f3 (dig 4 f4 (dig 3 f5 (dig 2 f6 (dig 7 f7 l)))))))) 22 2 = f6 ∧
    fld (dig 3 f0 (dig 4 f1 (dig 4 f2 (dig 4 f3 (dig 4 f4 (dig 3 f5 (dig 2 f6 (dig 7 f7 l)))))))) 24 7 = f7 :=
  ⟨fld_head h0,
    fld_skip h0 (fld_head h1),
    fld_skip h0 (fld_skip h1 (fld_head h2)),
    fld_skip h0 (fld_skip h1 (fld_skip h2 (fld_head h3))),
    fld_skip h0 (fld_skip h1 (fld_skip h2 (fld_skip h3 (fld_head h4)))),
    fld_skip h0 (fld_skip h1 (fld_skip h2 (fld_skip h3 (fld_skip h4 (fld_head h5))))),
    fld_skip h0 (fld_skip h1 (fld_skip h2 (fld_skip h3 (fld_skip h4 (fld_skip h5 (fld_head h6)))))),
    fld_skip h0 (fld_skip h1 (fld_skip h2 (fld_skip h3 (fld_skip h4 (fld_skip h5 (fld_skip h6 (fld_head h7)))))))⟩

theorem fields36 {f0 f1 f2 f3 l : Nat} (h0 : f0 < 262144) (h1 : f1 < 16) (h2 : f2 < 4) (h3 : f3 < 128) :
    fld (dig 18 f0 (dig 4 f1 (dig 2 f2 (dig 7 f3 l)))) 0 18 = f0 ∧
    fld (dig 18 f0 (dig 4 f1 (dig 2 f2 (dig 7 f3 l)))) 18 4 = f1 ∧
    fld (dig 18 f0 (dig 4 f1 (dig 2 f2 (dig 7 f3 l)))) 22 2 = f2 ∧
    fld (dig 18 f0 (dig 4 f1 (dig 2 f2 (dig 7 f3 l)))) 24 7 = f3 :=
  ⟨fld_head h0,
    fld_skip h0 (fld_head h1),
    fld_skip h0 (fld_skip h1 (fld_head h2)),
    fld_skip h0 (fld_skip h1 (fld_skip h2 (fld_head h3)))⟩

theorem fields37 {f0 f1 f2 l : Nat} (h0 : f0 < 4194304) (h1 : f1 < 4) (h2 : f2 < 128) :
    fld (dig 22 f0 (dig 2 f1 (dig 7 f2 l))) 0 22 = f0 ∧
    fld (dig 22 f0 (dig 2 f1 (dig 7 f2 l))) 22 2 = f1 ∧
    fld (dig 22 f0 (dig 2 f1 (dig 7 f2 l))) 24 7 = f2 :=
  ⟨fld_head h0,
    fld_skip h0 (fld_head h1),
    fld_skip h0 (fld_skip h1 (fld_head h2))⟩

theorem fields38 {f0 f1 f2 f3 l : Nat} (h0 : f0 < 524288) (h1 : f1 < 8) (h2 : f2 < 4) (h3 : f3 < 128) :
    fld (dig 19 f0 (dig 3 f1 (dig 2 f2 (dig 7 f3 l)))) 0 19 = f0 ∧
    fld (dig 19 f0 (dig 3 f1 (dig 2 f2 (dig 7 f3 l)))) 19 3 = f1 ∧
    fld (dig 19 f0 (dig 3 f1 (dig 2 f2 (dig 7 f3 l)))) 22 2 = f2 ∧
    fld (dig 19 f0 (dig 3 f1 (dig 2 f2 (dig 7 f3 l)))) 24 7 = f3 :=
  ⟨fld_head h0,
    fld_skip h0 (fld_head h1),
    fld_skip h0 (fld_skip h1 (fld_head h2)),
    fld_skip h0 (fld_skip h1 (fld_skip h2 (fld_head h3)))⟩

theorem fields39 {f0 f1 f2 f3 l : Nat} (h0 : f0 < 131072) (h1 : f1 < 16) (h2 : f2 < 8) (h3 : f3 < 128) :
    fld (dig 17 f0 (dig 4 f1 (dig 3 f2 (dig 7 f3 l)))) 0 17 = f0 ∧
    fld (dig 17 f0 (dig 4 f1 (dig 3 f2 (dig 7 f3 l)))) 17 4 = f1 ∧
    fld (dig 17 f0 (dig 4 f1 (dig 3 f2 (dig 7 f3 l)))) 21 3 = f2 ∧
    fld (dig 17 f0 (dig 4 f1 (dig 3 f2 (dig 7 f3 l)))) 24 7 = f3 :=
  ⟨fld_head h0,
    fld_skip h0 (fld_head h1),
    fld_skip h0 (fld_skip h1 (fld_head h2)),
    fld_skip h0 (fld_skip h1 (fld_skip h2 (fld_head h3)))⟩

end Sys2Proof.Laws

namespace Sys2Proof.Laws.EncodeDecode

/-- Every word that carries the encoding of a well-formed instruction, with either value of the bit L (R55), decodes to
that instruction. -/
def Statement (i : Instr) : Prop :=
  i.wf = true → ∀ v, encode i = some (v % 2 ^ 31) → decodeWord v = .ok i

theorem nop : Statement (.nop) := by
  intro hw v he
  have hv : v = dig 6 0 (dig 6 0 (dig 12 0 (dig 7 0 (v / 2 ^ 31)))) := by
    have h := Option.some.inj he
    unfold dig
    omega
  obtain ⟨r0_6, r6_6, r12_12, r24_7⟩ := @fields1 0 0 0 0 (v / 2 ^ 31) (by decide) (by decide) (by decide) (by decide)
  rw [← hv] at r0_6 r6_6 r12_12 r24_7
  have hm : decodeWord v = decMajor00 v := by unfold decodeWord; rw [r24_7]; rfl
  have hn : decMajor00 v = decNop v := by unfold decMajor00; rw [r6_6]; rfl
  rw [hm, hn]
  unfold decNop
  rw [if_pos ⟨r0_6, r12_12⟩]
  exact check_ok hw

theorem halt : Statement (.halt) := by
  intro hw v he
  have hv : v = dig 6 0 (dig 6 1 (dig 12 0 (dig 7 0 (v / 2 ^ 31)))) := by
    have h := Option.some.inj he
    unfold dig
    omega
  obtain ⟨r0_6, r6_6, r12_12, r24_7⟩ := @fields1 0 1 0 0 (v / 2 ^ 31) (by decide) (by decide) (by decide) (by decide)
  rw [← hv] at r0_6 r6_6 r12_12 r24_7
  have hm : decodeWord v = decMajor00 v := by unfold decodeWord; rw [r24_7]; rfl
  have hn : decMajor00 v = decHalt v := by unfold decMajor00; rw [r6_6]; rfl
  rw [hm, hn]
  unfold decHalt
  rw [if_pos ⟨r0_6, r12_12⟩]
  exact check_ok hw

theorem trap (n : Fin 64) : Statement (.trap n) := by
  intro hw v he
  have hv : v = dig 6 n.val (dig 6 2 (dig 12 0 (dig 7 0 (v / 2 ^ 31)))) := by
    have h := Option.some.inj he
    unfold dig
    omega
  obtain ⟨r0_6, r6_6, r12_12, r24_7⟩ := @fields1 n.val 2 0 0 (v / 2 ^ 31) (n.isLt) (by decide) (by decide) (by decide)
  rw [← hv] at r0_6 r6_6 r12_12 r24_7
  have hm : decodeWord v = decMajor00 v := by unfold decodeWord; rw [r24_7]; rfl
  have hn : decMajor00 v = decTrap v := by unfold decMajor00; rw [r6_6]; rfl
  rw [hm, hn]
  unfold decTrap
  rw [if_pos r12_12]
  rw [fin_of_fld (n := 64) (x := n) r0_6]
  exact check_ok hw

theorem eret : Statement (.eret) := by
  intro hw v he
  have hv : v = dig 6 0 (dig 6 3 (dig 12 0 (dig 7 0 (v / 2 ^ 31)))) := by
    have h := Option.some.inj he
    unfold dig
    omega
  obtain ⟨r0_6, r6_6, r12_12, r24_7⟩ := @fields1 0 3 0 0 (v / 2 ^ 31) (by decide) (by decide) (by decide) (by decide)
  rw [← hv] at r0_6 r6_6 r12_12 r24_7
  have hm : decodeWord v = decMajor00 v := by unfold decodeWord; rw [r24_7]; rfl
  have hn : decMajor00 v = decEret v := by unfold decMajor00; rw [r6_6]; rfl
  rw [hm, hn]
  unfold decEret
  rw [if_pos ⟨r0_6, r12_12⟩]
  exact check_ok hw

theorem brk (n : Fin 64) : Statement (.brk n) := by
  intro hw v he
  have hv : v = dig 6 n.val (dig 6 4 (dig 12 0 (dig 7 0 (v / 2 ^ 31)))) := by
    have h := Option.some.inj he
    unfold dig
    omega
  obtain ⟨r0_6, r6_6, r12_12, r24_7⟩ := @fields1 n.val 4 0 0 (v / 2 ^ 31) (n.isLt) (by decide) (by decide) (by decide)
  rw [← hv] at r0_6 r6_6 r12_12 r24_7
  have hm : decodeWord v = decMajor00 v := by unfold decodeWord; rw [r24_7]; rfl
  have hn : decMajor00 v = decBrk v := by unfold decMajor00; rw [r6_6]; rfl
  rw [hm, hn]
  unfold decBrk
  rw [if_pos r12_12]
  rw [fin_of_fld (n := 64) (x := n) r0_6]
  exact check_ok hw

theorem yield : Statement (.yield) := by
  intro hw v he
  have hv : v = dig 6 0 (dig 6 5 (dig 12 0 (dig 7 0 (v / 2 ^ 31)))) := by
    have h := Option.some.inj he
    unfold dig
    omega
  obtain ⟨r0_6, r6_6, r12_12, r24_7⟩ := @fields1 0 5 0 0 (v / 2 ^ 31) (by decide) (by decide) (by decide) (by decide)
  rw [← hv] at r0_6 r6_6 r12_12 r24_7
  have hm : decodeWord v = decMajor00 v := by unfold decodeWord; rw [r24_7]; rfl
  have hn : decMajor00 v = decYield v := by unfold decMajor00; rw [r6_6]; rfl
  rw [hm, hn]
  unfold decYield
  rw [if_pos ⟨r0_6, r12_12⟩]
  exact check_ok hw

theorem fence (s : Scope) (o : FOrd) : Statement (.fence s o) := by
  intro hw v he
  have hv : v = dig 3 o.code (dig 3 s.code (dig 6 6 (dig 12 0 (dig 7 0 (v / 2 ^ 31))))) := by
    have h := Option.some.inj he
    unfold put at h
    unfold dig
    omega
  obtain ⟨r0_3, r3_3, r6_6, r12_12, r24_7⟩ := @fields2 o.code s.code 6 0 0 (v / 2 ^ 31) (fOrd_code_lt o) (scope_code_lt s) (by decide) (by decide) (by decide)
  rw [← hv] at r0_3 r3_3 r6_6 r12_12 r24_7
  have hm : decodeWord v = decMajor00 v := by unfold decodeWord; rw [r24_7]; rfl
  have hn : decMajor00 v = decFence v := by unfold decMajor00; rw [r6_6]; rfl
  rw [hm, hn]
  unfold decFence
  rw [if_pos r12_12]
  rw [r3_3, scope_ofCode_code, withCode]
  rw [r0_3, fOrd_ofCode_code, withCode]
  exact check_ok hw

theorem publish (a : Fin 16) (b : Fin 16) : Statement (.publish a b) := by
  intro hw v he
  have hv : v = dig 6 0 (dig 6 7 (dig 4 b.val (dig 4 a.val (dig 4 0 (dig 7 0 (v / 2 ^ 31)))))) := by
    have h := Option.some.inj he
    unfold put at h
    unfold dig
    omega
  obtain ⟨r0_6, r6_6, r12_4, r16_4, r20_4, r24_7⟩ := @fields3 0 7 b.val a.val 0 0 (v / 2 ^ 31) (by decide) (by decide) (b.isLt) (a.isLt) (by decide) (by decide)
  rw [← hv] at r0_6 r6_6 r12_4 r16_4 r20_4 r24_7
  have hm : decodeWord v = decMajor00 v := by unfold decodeWord; rw [r24_7]; rfl
  have hn : decMajor00 v = decPublish v := by unfold decMajor00; rw [r6_6]; rfl
  rw [hm, hn]
  unfold decPublish
  rw [if_pos ⟨r0_6, r20_4⟩]
  rw [fin_of_fld (n := 16) (x := a) r16_4, fin_of_fld (n := 16) (x := b) r12_4]
  exact check_ok hw

theorem tlbinv (a : Fin 16) (g : Bool) : Statement (.tlbinv a g) := by
  intro hw v he
  have hv : v = dig 1 (bit g) (dig 5 0 (dig 6 8 (dig 4 0 (dig 4 a.val (dig 4 0 (dig 7 0 (v / 2 ^ 31))))))) := by
    have h := Option.some.inj he
    unfold put at h
    unfold dig
    omega
  obtain ⟨r0_1, r1_5, r6_6, r12_4, r16_4, r20_4, r24_7⟩ := @fields4 (bit g) 0 8 0 a.val 0 0 (v / 2 ^ 31) (bit_lt g) (by decide) (by decide) (by decide) (a.isLt) (by decide) (by decide)
  rw [← hv] at r0_1 r1_5 r6_6 r12_4 r16_4 r20_4 r24_7
  have hm : decodeWord v = decMajor00 v := by unfold decodeWord; rw [r24_7]; rfl
  have hn : decMajor00 v = decTlbinv v := by unfold decMajor00; rw [r6_6]; rfl
  rw [hm, hn]
  unfold decTlbinv
  rw [if_pos ⟨r1_5, r12_4, r20_4⟩]
  rw [fin_of_fld (n := 16) (x := a) r16_4, flag_of_fld r0_1]
  exact check_ok hw

theorem mfc (d : Fin 16) (c : CReg) : Statement (.mfc d c) := by
  intro hw v he
  have hv : v = dig 6 c.code (dig 6 9 (dig 8 0 (dig 4 d.val (dig 7 0 (v / 2 ^ 31))))) := by
    have h := Option.some.inj he
    unfold put at h
    unfold dig
    omega
  obtain ⟨r0_6, r6_6, r12_8, r20_4, r24_7⟩ := @fields5 c.code 9 0 d.val 0 (v / 2 ^ 31) (cReg_code_lt c) (by decide) (by decide) (d.isLt) (by decide)
  rw [← hv] at r0_6 r6_6 r12_8 r20_4 r24_7
  have hm : decodeWord v = decMajor00 v := by unfold decodeWord; rw [r24_7]; rfl
  have hn : decMajor00 v = decMfc v := by unfold decMajor00; rw [r6_6]; rfl
  rw [hm, hn]
  unfold decMfc
  rw [if_pos r12_8]
  rw [r0_6, cReg_ofCode_code, withCode]
  rw [fin_of_fld (n := 16) (x := d) r20_4]
  exact check_ok hw

theorem mtc (a : Fin 16) (c : CReg) : Statement (.mtc a c) := by
  intro hw v he
  have hv : v = dig 6 c.code (dig 6 10 (dig 4 0 (dig 4 a.val (dig 4 0 (dig 7 0 (v / 2 ^ 31)))))) := by
    have h := Option.some.inj he
    unfold put at h
    unfold dig
    omega
  obtain ⟨r0_6, r6_6, r12_4, r16_4, r20_4, r24_7⟩ := @fields3 c.code 10 0 a.val 0 0 (v / 2 ^ 31) (cReg_code_lt c) (by decide) (by decide) (a.isLt) (by decide) (by decide)
  rw [← hv] at r0_6 r6_6 r12_4 r16_4 r20_4 r24_7
  have hm : decodeWord v = decMajor00 v := by unfold decodeWord; rw [r24_7]; rfl
  have hn : decMajor00 v = decMtc v := by unfold decMajor00; rw [r6_6]; rfl
  rw [hm, hn]
  unfold decMtc
  rw [if_pos ⟨r12_4, r20_4⟩]
  rw [r0_6, cReg_ofCode_code, withCode]
  rw [fin_of_fld (n := 16) (x := a) r16_4]
  exact check_ok hw

theorem pfx (o : Ord) (s : Scope) (p : Spc) (q : Pol) : Statement (.pfx o s p q) := by
  intro hw v he
  have hv : v = dig 12 0 (dig 3 q.code (dig 3 p.code (dig 3 s.code (dig 3 o.code (dig 7 1 (v / 2 ^ 31)))))) := by
    have h := Option.some.inj he
    unfold put at h
    unfold dig
    omega
  obtain ⟨r0_12, r12_3, r15_3, r18_3, r21_3, r24_7⟩ := @fields6 0 q.code p.code s.code o.code 1 (v / 2 ^ 31) (by decide) (pol_code_lt q) (spc_code_lt p) (scope_code_lt s) (ord_code_lt o) (by decide)
  rw [← hv] at r0_12 r12_3 r15_3 r18_3 r21_3 r24_7
  have hm : decodeWord v = decPfx v := by unfold decodeWord; rw [r24_7]; rfl
  rw [hm]
  unfold decPfx
  rw [if_pos r0_12]
  rw [r21_3, ord_ofCode_code, withCode]
  rw [r18_3, scope_ofCode_code, withCode]
  rw [r15_3, spc_ofCode_code, withCode]
  rw [r12_3, pol_ofCode_code, withCode]
  exact check_ok hw

theorem loop (c : Fin 16) (n : Fin 64) (b : Fin 16) (w : Fin 4) (s : Fin 16) : Statement (.loop c n b w s) := by
  intro hw v he
  have hv : v = dig 4 0 (dig 4 s.val (dig 2 w.val (dig 4 b.val (dig 6 n.val (dig 4 c.val (dig 7 2 (v / 2 ^ 31))))))) := by
    have h := Option.some.inj he
    unfold put at h
    unfold dig
    omega
  obtain ⟨r0_4, r4_4, r8_2, r10_4, r14_6, r20_4, r24_7⟩ := @fields7 0 s.val w.val b.val n.val c.val 2 (v / 2 ^ 31) (by decide) (s.isLt) (w.isLt) (b.isLt) (n.isLt) (c.isLt) (by decide)
  rw [← hv] at r0_4 r4_4 r8_2 r10_4 r14_6 r20_4 r24_7
  have hm : decodeWord v = decLoop v := by unfold decodeWord; rw [r24_7]; rfl
  rw [hm]
  unfold decLoop
  rw [if_pos r0_4]
  rw [fin_of_fld (n := 16) (x := c) r20_4, fin_of_fld (n := 64) (x := n) r14_6, fin_of_fld (n := 16) (x := b) r10_4, fin_of_fld (n := 4) (x := w) r8_2, fin_of_fld (n := 16) (x := s) r4_4]
  exact check_ok hw

theorem wait (a : Fin 64) (b : Fin 64) (c : Fin 64) (d : Fin 64) : Statement (.wait a b c d) := by
  intro hw v he
  have hv : v = dig 6 d.val (dig 6 c.val (dig 6 b.val (dig 6 a.val (dig 7 3 (v / 2 ^ 31))))) := by
    have h := Option.some.inj he
    unfold put at h
    unfold dig
    omega
  obtain ⟨r0_6, r6_6, r12_6, r18_6, r24_7⟩ := @fields8 d.val c.val b.val a.val 3 (v / 2 ^ 31) (d.isLt) (c.isLt) (b.isLt) (a.isLt) (by decide)
  rw [← hv] at r0_6 r6_6 r12_6 r18_6 r24_7
  have hm : decodeWord v = decWait v := by unfold decodeWord; rw [r24_7]; rfl
  rw [hm]
  unfold decWait
  rw [fin_of_fld (n := 64) (x := a) r18_6, fin_of_fld (n := 64) (x := b) r12_6, fin_of_fld (n := 64) (x := c) r6_6, fin_of_fld (n := 64) (x := d) r0_6]
  exact check_ok hw

theorem beq (n : NullCode) (a : Fin 16) (b : Fin 16) (d : Fin 16384) : Statement (.beq n a b d) := by
  intro hw v he
  have hv : v = dig 14 d.val (dig 4 b.val (dig 4 a.val (dig 2 n.code (dig 7 4 (v / 2 ^ 31))))) := by
    have h := Option.some.inj he
    unfold put at h
    unfold dig
    omega
  obtain ⟨r0_14, r14_4, r18_4, r22_2, r24_7⟩ := @fields9 d.val b.val a.val n.code 4 (v / 2 ^ 31) (d.isLt) (b.isLt) (a.isLt) (nullCode_code_lt n) (by decide)
  rw [← hv] at r0_14 r14_4 r18_4 r22_2 r24_7
  have hm : decodeWord v = decBeq v := by unfold decodeWord; rw [r24_7]; rfl
  rw [hm]
  unfold decBeq
  rw [r22_2, nullCode_ofCode_code, withCode]
  rw [fin_of_fld (n := 16) (x := a) r18_4, fin_of_fld (n := 16) (x := b) r14_4, fin_of_fld (n := 16384) (x := d) r0_14]
  exact check_ok hw

theorem bne (n : NullCode) (a : Fin 16) (b : Fin 16) (d : Fin 16384) : Statement (.bne n a b d) := by
  intro hw v he
  have hv : v = dig 14 d.val (dig 4 b.val (dig 4 a.val (dig 2 n.code (dig 7 5 (v / 2 ^ 31))))) := by
    have h := Option.some.inj he
    unfold put at h
    unfold dig
    omega
  obtain ⟨r0_14, r14_4, r18_4, r22_2, r24_7⟩ := @fields9 d.val b.val a.val n.code 5 (v / 2 ^ 31) (d.isLt) (b.isLt) (a.isLt) (nullCode_code_lt n) (by decide)
  rw [← hv] at r0_14 r14_4 r18_4 r22_2 r24_7
  have hm : decodeWord v = decBne v := by unfold decodeWord; rw [r24_7]; rfl
  rw [hm]
  unfold decBne
  rw [r22_2, nullCode_ofCode_code, withCode]
  rw [fin_of_fld (n := 16) (x := a) r18_4, fin_of_fld (n := 16) (x := b) r14_4, fin_of_fld (n := 16384) (x := d) r0_14]
  exact check_ok hw

theorem blt (n : NullCode) (a : Fin 16) (b : Fin 16) (d : Fin 16384) : Statement (.blt n a b d) := by
  intro hw v he
  have hv : v = dig 14 d.val (dig 4 b.val (dig 4 a.val (dig 2 n.code (dig 7 6 (v / 2 ^ 31))))) := by
    have h := Option.some.inj he
    unfold put at h
    unfold dig
    omega
  obtain ⟨r0_14, r14_4, r18_4, r22_2, r24_7⟩ := @fields9 d.val b.val a.val n.code 6 (v / 2 ^ 31) (d.isLt) (b.isLt) (a.isLt) (nullCode_code_lt n) (by decide)
  rw [← hv] at r0_14 r14_4 r18_4 r22_2 r24_7
  have hm : decodeWord v = decBlt v := by unfold decodeWord; rw [r24_7]; rfl
  rw [hm]
  unfold decBlt
  rw [r22_2, nullCode_ofCode_code, withCode]
  rw [fin_of_fld (n := 16) (x := a) r18_4, fin_of_fld (n := 16) (x := b) r14_4, fin_of_fld (n := 16384) (x := d) r0_14]
  exact check_ok hw

theorem bge (n : NullCode) (a : Fin 16) (b : Fin 16) (d : Fin 16384) : Statement (.bge n a b d) := by
  intro hw v he
  have hv : v = dig 14 d.val (dig 4 b.val (dig 4 a.val (dig 2 n.code (dig 7 7 (v / 2 ^ 31))))) := by
    have h := Option.some.inj he
    unfold put at h
    unfold dig
    omega
  obtain ⟨r0_14, r14_4, r18_4, r22_2, r24_7⟩ := @fields9 d.val b.val a.val n.code 7 (v / 2 ^ 31) (d.isLt) (b.isLt) (a.isLt) (nullCode_code_lt n) (by decide)
  rw [← hv] at r0_14 r14_4 r18_4 r22_2 r24_7
  have hm : decodeWord v = decBge v := by unfold decodeWord; rw [r24_7]; rfl
  rw [hm]
  unfold decBge
  rw [r22_2, nullCode_ofCode_code, withCode]
  rw [fin_of_fld (n := 16) (x := a) r18_4, fin_of_fld (n := 16) (x := b) r14_4, fin_of_fld (n := 16384) (x := d) r0_14]
  exact check_ok hw

theorem bltn (n : NullCode) (a : Fin 16) (b : Fin 16) (d : Fin 16384) : Statement (.bltn n a b d) := by
  intro hw v he
  have hv : v = dig 14 d.val (dig 4 b.val (dig 4 a.val (dig 2 n.code (dig 7 8 (v / 2 ^ 31))))) := by
    have h := Option.some.inj he
    unfold put at h
    unfold dig
    omega
  obtain ⟨r0_14, r14_4, r18_4, r22_2, r24_7⟩ := @fields9 d.val b.val a.val n.code 8 (v / 2 ^ 31) (d.isLt) (b.isLt) (a.isLt) (nullCode_code_lt n) (by decide)
  rw [← hv] at r0_14 r14_4 r18_4 r22_2 r24_7
  have hm : decodeWord v = decBltn v := by unfold decodeWord; rw [r24_7]; rfl
  rw [hm]
  unfold decBltn
  rw [r22_2, nullCode_ofCode_code, withCode]
  rw [fin_of_fld (n := 16) (x := a) r18_4, fin_of_fld (n := 16) (x := b) r14_4, fin_of_fld (n := 16384) (x := d) r0_14]
  exact check_ok hw

theorem bgen (n : NullCode) (a : Fin 16) (b : Fin 16) (d : Fin 16384) : Statement (.bgen n a b d) := by
  intro hw v he
  have hv : v = dig 14 d.val (dig 4 b.val (dig 4 a.val (dig 2 n.code (dig 7 9 (v / 2 ^ 31))))) := by
    have h := Option.some.inj he
    unfold put at h
    unfold dig
    omega
  obtain ⟨r0_14, r14_4, r18_4, r22_2, r24_7⟩ := @fields9 d.val b.val a.val n.code 9 (v / 2 ^ 31) (d.isLt) (b.isLt) (a.isLt) (nullCode_code_lt n) (by decide)
  rw [← hv] at r0_14 r14_4 r18_4 r22_2 r24_7
  have hm : decodeWord v = decBgen v := by unfold decodeWord; rw [r24_7]; rfl
  rw [hm]
  unfold decBgen
  rw [r22_2, nullCode_ofCode_code, withCode]
  rw [fin_of_fld (n := 16) (x := a) r18_4, fin_of_fld (n := 16) (x := b) r14_4, fin_of_fld (n := 16384) (x := d) r0_14]
  exact check_ok hw

theorem bz (n : NullCode) (a : Fin 16) (d : Fin 16384) : Statement (.bz n a d) := by
  intro hw v he
  have hv : v = dig 14 d.val (dig 4 0 (dig 4 a.val (dig 2 n.code (dig 7 10 (v / 2 ^ 31))))) := by
    have h := Option.some.inj he
    unfold put at h
    unfold dig
    omega
  obtain ⟨r0_14, r14_4, r18_4, r22_2, r24_7⟩ := @fields9 d.val 0 a.val n.code 10 (v / 2 ^ 31) (d.isLt) (by decide) (a.isLt) (nullCode_code_lt n) (by decide)
  rw [← hv] at r0_14 r14_4 r18_4 r22_2 r24_7
  have hm : decodeWord v = decBz v := by unfold decodeWord; rw [r24_7]; rfl
  rw [hm]
  unfold decBz
  rw [if_pos r14_4]
  rw [r22_2, nullCode_ofCode_code, withCode]
  rw [fin_of_fld (n := 16) (x := a) r18_4, fin_of_fld (n := 16384) (x := d) r0_14]
  exact check_ok hw

theorem bnz (n : NullCode) (a : Fin 16) (d : Fin 16384) : Statement (.bnz n a d) := by
  intro hw v he
  have hv : v = dig 14 d.val (dig 4 0 (dig 4 a.val (dig 2 n.code (dig 7 11 (v / 2 ^ 31))))) := by
    have h := Option.some.inj he
    unfold put at h
    unfold dig
    omega
  obtain ⟨r0_14, r14_4, r18_4, r22_2, r24_7⟩ := @fields9 d.val 0 a.val n.code 11 (v / 2 ^ 31) (d.isLt) (by decide) (a.isLt) (nullCode_code_lt n) (by decide)
  rw [← hv] at r0_14 r14_4 r18_4 r22_2 r24_7
  have hm : decodeWord v = decBnz v := by unfold decodeWord; rw [r24_7]; rfl
  rw [hm]
  unfold decBnz
  rw [if_pos r14_4]
  rw [r22_2, nullCode_ofCode_code, withCode]
  rw [fin_of_fld (n := 16) (x := a) r18_4, fin_of_fld (n := 16384) (x := d) r0_14]
  exact check_ok hw

theorem j (d : Fin 16777216) : Statement (.j d) := by
  intro hw v he
  have hv : v = dig 24 d.val (dig 7 12 (v / 2 ^ 31)) := by
    have h := Option.some.inj he
    unfold dig
    omega
  obtain ⟨r0_24, r24_7⟩ := @fields10 d.val 12 (v / 2 ^ 31) (d.isLt) (by decide)
  rw [← hv] at r0_24 r24_7
  have hm : decodeWord v = decJ v := by unfold decodeWord; rw [r24_7]; rfl
  rw [hm]
  unfold decJ
  rw [fin_of_fld (n := 16777216) (x := d) r0_24]
  exact check_ok hw

theorem jl (d : Fin 16777216) : Statement (.jl d) := by
  intro hw v he
  have hv : v = dig 24 d.val (dig 7 13 (v / 2 ^ 31)) := by
    have h := Option.some.inj he
    unfold dig
    omega
  obtain ⟨r0_24, r24_7⟩ := @fields10 d.val 13 (v / 2 ^ 31) (d.isLt) (by decide)
  rw [← hv] at r0_24 r24_7
  have hm : decodeWord v = decJl v := by unfold decodeWord; rw [r24_7]; rfl
  rw [hm]
  unfold decJl
  rw [fin_of_fld (n := 16777216) (x := d) r0_24]
  exact check_ok hw

theorem jr (a : Fin 16) : Statement (.jr a) := by
  intro hw v he
  have hv : v = dig 16 0 (dig 4 a.val (dig 4 0 (dig 7 14 (v / 2 ^ 31)))) := by
    have h := Option.some.inj he
    unfold put at h
    unfold dig
    omega
  obtain ⟨r0_16, r16_4, r20_4, r24_7⟩ := @fields11 0 a.val 0 14 (v / 2 ^ 31) (by decide) (a.isLt) (by decide) (by decide)
  rw [← hv] at r0_16 r16_4 r20_4 r24_7
  have hm : decodeWord v = decJr v := by unfold decodeWord; rw [r24_7]; rfl
  rw [hm]
  unfold decJr
  rw [if_pos ⟨r0_16, r20_4⟩]
  rw [fin_of_fld (n := 16) (x := a) r16_4]
  exact check_ok hw

theorem jlr (a : Fin 16) : Statement (.jlr a) := by
  intro hw v he
  have hv : v = dig 16 0 (dig 4 a.val (dig 4 0 (dig 7 15 (v / 2 ^ 31)))) := by
    have h := Option.some.inj he
    unfold put at h
    unfold dig
    omega
  obtain ⟨r0_16, r16_4, r20_4, r24_7⟩ := @fields11 0 a.val 0 15 (v / 2 ^ 31) (by decide) (a.isLt) (by decide) (by decide)
  rw [← hv] at r0_16 r16_4 r20_4 r24_7
  have hm : decodeWord v = decJlr v := by unfold decodeWord; rw [r24_7]; rfl
  rw [hm]
  unfold decJlr
  rw [if_pos ⟨r0_16, r20_4⟩]
  rw [fin_of_fld (n := 16) (x := a) r16_4]
  exact check_ok hw

theorem ld (d : Fin 16) (a : Fin 16) (z : Size) (i : Fin 16384) : Statement (.ld d a z i) := by
  intro hw v he
  have hv : v = dig 14 i.val (dig 2 z.code (dig 4 a.val (dig 4 d.val (dig 7 16 (v / 2 ^ 31))))) := by
    have h := Option.some.inj he
    unfold put at h
    unfold dig
    omega
  obtain ⟨r0_14, r14_2, r16_4, r20_4, r24_7⟩ := @fields12 i.val z.code a.val d.val 16 (v / 2 ^ 31) (i.isLt) (size_code_lt z) (a.isLt) (d.isLt) (by decide)
  rw [← hv] at r0_14 r14_2 r16_4 r20_4 r24_7
  have hm : decodeWord v = decLd v := by unfold decodeWord; rw [r24_7]; rfl
  rw [hm]
  unfold decLd
  rw [r14_2, size_ofCode_code, withCode]
  rw [fin_of_fld (n := 16) (x := d) r20_4, fin_of_fld (n := 16) (x := a) r16_4, fin_of_fld (n := 16384) (x := i) r0_14]
  exact check_ok hw

theorem ldn (d : Fin 16) (a : Fin 16) (z : Size) (i : Fin 16384) : Statement (.ldn d a z i) := by
  intro hw v he
  have hv : v = dig 14 i.val (dig 2 z.code (dig 4 a.val (dig 4 d.val (dig 7 17 (v / 2 ^ 31))))) := by
    have h := Option.some.inj he
    unfold put at h
    unfold dig
    omega
  obtain ⟨r0_14, r14_2, r16_4, r20_4, r24_7⟩ := @fields12 i.val z.code a.val d.val 17 (v / 2 ^ 31) (i.isLt) (size_code_lt z) (a.isLt) (d.isLt) (by decide)
  rw [← hv] at r0_14 r14_2 r16_4 r20_4 r24_7
  have hm : decodeWord v = decLdn v := by unfold decodeWord; rw [r24_7]; rfl
  rw [hm]
  unfold decLdn
  rw [r14_2, size_ofCode_code, withCode]
  rw [fin_of_fld (n := 16) (x := d) r20_4, fin_of_fld (n := 16) (x := a) r16_4, fin_of_fld (n := 16384) (x := i) r0_14]
  exact check_ok hw

theorem st (d : Fin 16) (a : Fin 16) (z : Size) (i : Fin 16384) : Statement (.st d a z i) := by
  intro hw v he
  have hv : v = dig 14 i.val (dig 2 z.code (dig 4 a.val (dig 4 d.val (dig 7 18 (v / 2 ^ 31))))) := by
    have h := Option.some.inj he
    unfold put at h
    unfold dig
    omega
  obtain ⟨r0_14, r14_2, r16_4, r20_4, r24_7⟩ := @fields12 i.val z.code a.val d.val 18 (v / 2 ^ 31) (i.isLt) (size_code_lt z) (a.isLt) (d.isLt) (by decide)
  rw [← hv] at r0_14 r14_2 r16_4 r20_4 r24_7
  have hm : decodeWord v = decSt v := by unfold decodeWord; rw [r24_7]; rfl
  rw [hm]
  unfold decSt
  rw [r14_2, size_ofCode_code, withCode]
  rw [fin_of_fld (n := 16) (x := d) r20_4, fin_of_fld (n := 16) (x := a) r16_4, fin_of_fld (n := 16384) (x := i) r0_14]
  exact check_ok hw

theorem ldx (d : Fin 16) (a : Fin 16) (b : Fin 16) (x : Bool) (n : Bool) (z : Size) : Statement (.ldx d a b x n z) := by
  intro hw v he
  have hv : v = dig 2 z.code (dig 1 (bit n) (dig 1 (bit x) (dig 2 0 (dig 6 0 (dig 4 b.val (dig 4 a.val (dig 4 d.val (dig 7 19 (v / 2 ^ 31))))))))) := by
    have h := Option.some.inj he
    unfold put at h
    unfold dig
    omega
  obtain ⟨r0_2, r2_1, r3_1, r4_2, r6_6, r12_4, r16_4, r20_4, r24_7⟩ := @fields13 z.code (bit n) (bit x) 0 0 b.val a.val d.val 19 (v / 2 ^ 31) (size_code_lt z) (bit_lt n) (bit_lt x) (by decide) (by decide) (b.isLt) (a.isLt) (d.isLt) (by decide)
  rw [← hv] at r0_2 r2_1 r3_1 r4_2 r6_6 r12_4 r16_4 r20_4 r24_7
  have hm : decodeWord v = decMajor13 v := by unfold decodeWord; rw [r24_7]; rfl
  have hn : decMajor13 v = decLdx v := by unfold decMajor13; rw [r6_6]; rfl
  rw [hm, hn]
  unfold decLdx
  rw [if_pos r4_2]
  rw [r0_2, size_ofCode_code, withCode]
  rw [fin_of_fld (n := 16) (x := d) r20_4, fin_of_fld (n := 16) (x := a) r16_4, fin_of_fld (n := 16) (x := b) r12_4, flag_of_fld r3_1, flag_of_fld r2_1]
  exact check_ok hw

theorem stx (d : Fin 16) (a : Fin 16) (b : Fin 16) (x : Bool) (z : Size) : Statement (.stx d a b x z) := by
  intro hw v he
  have hv : v = dig 2 z.code (dig 1 0 (dig 1 (bit x) (dig 2 0 (dig 6 0 (dig 4 b.val (dig 4 a.val (dig 4 d.val (dig 7 20 (v / 2 ^ 31))))))))) := by
    have h := Option.some.inj he
    unfold put at h
    unfold dig
    omega
  obtain ⟨r0_2, r2_1, r3_1, r4_2, r6_6, r12_4, r16_4, r20_4, r24_7⟩ := @fields13 z.code 0 (bit x) 0 0 b.val a.val d.val 20 (v / 2 ^ 31) (size_code_lt z) (by decide) (bit_lt x) (by decide) (by decide) (b.isLt) (a.isLt) (d.isLt) (by decide)
  rw [← hv] at r0_2 r2_1 r3_1 r4_2 r6_6 r12_4 r16_4 r20_4 r24_7
  have hm : decodeWord v = decMajor14 v := by unfold decodeWord; rw [r24_7]; rfl
  have hn : decMajor14 v = decStx v := by unfold decMajor14; rw [r6_6]; rfl
  rw [hm, hn]
  unfold decStx
  rw [if_pos ⟨r2_1, r4_2⟩]
  rw [r0_2, size_ofCode_code, withCode]
  rw [fin_of_fld (n := 16) (x := d) r20_4, fin_of_fld (n := 16) (x := a) r16_4, fin_of_fld (n := 16) (x := b) r12_4, flag_of_fld r3_1]
  exact check_ok hw

theorem vld (x : Fin 16) (b : Fin 16) (r : Fin 16) (d : Fin 4096) : Statement (.vld x b r d) := by
  intro hw v he
  have hv : v = dig 12 d.val (dig 4 r.val (dig 4 b.val (dig 4 x.val (dig 7 21 (v / 2 ^ 31))))) := by
    have h := Option.some.inj he
    unfold put at h
    unfold dig
    omega
  obtain ⟨r0_12, r12_4, r16_4, r20_4, r24_7⟩ := @fields14 d.val r.val b.val x.val 21 (v / 2 ^ 31) (d.isLt) (r.isLt) (b.isLt) (x.isLt) (by decide)
  rw [← hv] at r0_12 r12_4 r16_4 r20_4 r24_7
  have hm : decodeWord v = decVld v := by unfold decodeWord; rw [r24_7]; rfl
  rw [hm]
  unfold decVld
  rw [fin_of_fld (n := 16) (x := x) r20_4, fin_of_fld (n := 16) (x := b) r16_4, fin_of_fld (n := 16) (x := r) r12_4, fin_of_fld (n := 4096) (x := d) r0_12]
  exact check_ok hw

theorem vst (x : Fin 16) (b : Fin 16) (r : Fin 16) (d : Fin 4096) : Statement (.vst x b r d) := by
  intro hw v he
  have hv : v = dig 12 d.val (dig 4 r.val (dig 4 b.val (dig 4 x.val (dig 7 22 (v / 2 ^ 31))))) := by
    have h := Option.some.inj he
    unfold put at h
    unfold dig
    omega
  obtain ⟨r0_12, r12_4, r16_4, r20_4, r24_7⟩ := @fields14 d.val r.val b.val x.val 22 (v / 2 ^ 31) (d.isLt) (r.isLt) (b.isLt) (x.isLt) (by decide)
  rw [← hv] at r0_12 r12_4 r16_4 r20_4 r24_7
  have hm : decodeWord v = decVst v := by unfold decodeWord; rw [r24_7]; rfl
  rw [hm]
  unfold decVst
  rw [fin_of_fld (n := 16) (x := x) r20_4, fin_of_fld (n := 16) (x := b) r16_4, fin_of_fld (n := 16) (x := r) r12_4, fin_of_fld (n := 4096) (x := d) r0_12]
  exact check_ok hw

theorem xld (x : Fin 16) (b : Fin 16) (c : Bool) (p : Fin 8) (d : Fin 4096) : Statement (.xld x b c p d) := by
  intro hw v he
  have hv : v = dig 12 d.val (dig 3 p.val (dig 1 (bit c) (dig 4 b.val (dig 4 x.val (dig 7 23 (v / 2 ^ 31)))))) := by
    have h := Option.some.inj he
    unfold put at h
    unfold dig
    omega
  obtain ⟨r0_12, r12_3, r15_1, r16_4, r20_4, r24_7⟩ := @fields15 d.val p.val (bit c) b.val x.val 23 (v / 2 ^ 31) (d.isLt) (p.isLt) (bit_lt c) (b.isLt) (x.isLt) (by decide)
  rw [← hv] at r0_12 r12_3 r15_1 r16_4 r20_4 r24_7
  have hm : decodeWord v = decXld v := by unfold decodeWord; rw [r24_7]; rfl
  rw [hm]
  unfold decXld
  rw [fin_of_fld (n := 16) (x := x) r20_4, fin_of_fld (n := 16) (x := b) r16_4, fin_of_fld (n := 8) (x := p) r12_3, fin_of_fld (n := 4096) (x := d) r0_12, flag_of_fld r15_1]
  exact check_ok hw

theorem xst (x : Fin 16) (b : Fin 16) (p : Fin 8) (d : Fin 4096) : Statement (.xst x b p d) := by
  intro hw v he
  have hv : v = dig 12 d.val (dig 3 p.val (dig 1 0 (dig 4 b.val (dig 4 x.val (dig 7 24 (v / 2 ^ 31)))))) := by
    have h := Option.some.inj he
    unfold put at h
    unfold dig
    omega
  obtain ⟨r0_12, r12_3, r15_1, r16_4, r20_4, r24_7⟩ := @fields15 d.val p.val 0 b.val x.val 24 (v / 2 ^ 31) (d.isLt) (p.isLt) (by decide) (b.isLt) (x.isLt) (by decide)
  rw [← hv] at r0_12 r12_3 r15_1 r16_4 r20_4 r24_7
  have hm : decodeWord v = decXst v := by unfold decodeWord; rw [r24_7]; rfl
  rw [hm]
  unfold decXst
  rw [if_pos r15_1]
  rw [fin_of_fld (n := 16) (x := x) r20_4, fin_of_fld (n := 16) (x := b) r16_4, fin_of_fld (n := 8) (x := p) r12_3, fin_of_fld (n := 4096) (x := d) r0_12]
  exact check_ok hw

theorem xldt (x : Fin 16) (b : Fin 16) (w : XldtW) (d : Fin 4096) : Statement (.xldt x b w d) := by
  intro hw v he
  have hv : v = dig 12 d.val (dig 2 w.code (dig 2 0 (dig 4 b.val (dig 4 x.val (dig 7 25 (v / 2 ^ 31)))))) := by
    have h := Option.some.inj he
    unfold put at h
    unfold dig
    omega
  obtain ⟨r0_12, r12_2, r14_2, r16_4, r20_4, r24_7⟩ := @fields16 d.val w.code 0 b.val x.val 25 (v / 2 ^ 31) (d.isLt) (xldtW_code_lt w) (by decide) (b.isLt) (x.isLt) (by decide)
  rw [← hv] at r0_12 r12_2 r14_2 r16_4 r20_4 r24_7
  have hm : decodeWord v = decXldt v := by unfold decodeWord; rw [r24_7]; rfl
  rw [hm]
  unfold decXldt
  rw [if_pos r14_2]
  rw [r12_2, xldtW_ofCode_code, withCode]
  rw [fin_of_fld (n := 16) (x := x) r20_4, fin_of_fld (n := 16) (x := b) r16_4, fin_of_fld (n := 4096) (x := d) r0_12]
  exact check_ok hw

theorem wld (s : Fin 4) (b : Fin 16) (c : Bool) (p : Fin 8) (d : Fin 4096) : Statement (.wld s b c p d) := by
  intro hw v he
  have hv : v = dig 12 d.val (dig 3 p.val (dig 1 (bit c) (dig 4 b.val (dig 2 s.val (dig 2 0 (dig 7 26 (v / 2 ^ 31))))))) := by
    have h := Option.some.inj he
    unfold put at h
    unfold dig
    omega
  obtain ⟨r0_12, r12_3, r15_1, r16_4, r20_2, r22_2, r24_7⟩ := @fields17 d.val p.val (bit c) b.val s.val 0 26 (v / 2 ^ 31) (d.isLt) (p.isLt) (bit_lt c) (b.isLt) (s.isLt) (by decide) (by decide)
  rw [← hv] at r0_12 r12_3 r15_1 r16_4 r20_2 r22_2 r24_7
  have hm : decodeWord v = decWld v := by unfold decodeWord; rw [r24_7]; rfl
  rw [hm]
  unfold decWld
  rw [if_pos r22_2]
  rw [fin_of_fld (n := 4) (x := s) r20_2, fin_of_fld (n := 16) (x := b) r16_4, fin_of_fld (n := 8) (x := p) r12_3, fin_of_fld (n := 4096) (x := d) r0_12, flag_of_fld r15_1]
  exact check_ok hw

theorem rowact (b : Fin 16) (d : Fin 4096) : Statement (.rowact b d) := by
  intro hw v he
  have hv : v = dig 12 d.val (dig 4 0 (dig 4 b.val (dig 4 0 (dig 7 27 (v / 2 ^ 31))))) := by
    have h := Option.some.inj he
    unfold put at h
    unfold dig
    omega
  obtain ⟨r0_12, r12_4, r16_4, r20_4, r24_7⟩ := @fields14 d.val 0 b.val 0 27 (v / 2 ^ 31) (d.isLt) (by decide) (b.isLt) (by decide) (by decide)
  rw [← hv] at r0_12 r12_4 r16_4 r20_4 r24_7
  have hm : decodeWord v = decRowact v := by unfold decodeWord; rw [r24_7]; rfl
  rw [hm]
  unfold decRowact
  rw [if_pos ⟨r12_4, r20_4⟩]
  rw [fin_of_fld (n := 16) (x := b) r16_4, fin_of_fld (n := 4096) (x := d) r0_12]
  exact check_ok hw

theorem aadd (d : Fin 16) (a : Fin 16) (b : Fin 16) (z : ASize) : Statement (.aadd d a b z) := by
  intro hw v he
  have hv : v = dig 2 z.code (dig 4 0 (dig 6 0 (dig 4 b.val (dig 4 a.val (dig 4 d.val (dig 7 28 (v / 2 ^ 31))))))) := by
    have h := Option.some.inj he
    unfold put at h
    unfold dig
    omega
  obtain ⟨r0_2, r2_4, r6_6, r12_4, r16_4, r20_4, r24_7⟩ := @fields18 z.code 0 0 b.val a.val d.val 28 (v / 2 ^ 31) (aSize_code_lt z) (by decide) (by decide) (b.isLt) (a.isLt) (d.isLt) (by decide)
  rw [← hv] at r0_2 r2_4 r6_6 r12_4 r16_4 r20_4 r24_7
  have hm : decodeWord v = decMajor1C v := by unfold decodeWord; rw [r24_7]; rfl
  have hn : decMajor1C v = decAadd v := by unfold decMajor1C; rw [r6_6]; rfl
  rw [hm, hn]
  unfold decAadd
  rw [if_pos r2_4]
  rw [r0_2, aSize_ofCode_code, withCode]
  rw [fin_of_fld (n := 16) (x := d) r20_4, fin_of_fld (n := 16) (x := a) r16_4, fin_of_fld (n := 16) (x := b) r12_4]
  exact check_ok hw

theorem amin (d : Fin 16) (a : Fin 16) (b : Fin 16) (z : ASize) : Statement (.amin d a b z) := by
  intro hw v he
  have hv : v = dig 2 z.code (dig 4 0 (dig 6 1 (dig 4 b.val (dig 4 a.val (dig 4 d.val (dig 7 28 (v / 2 ^ 31))))))) := by
    have h := Option.some.inj he
    unfold put at h
    unfold dig
    omega
  obtain ⟨r0_2, r2_4, r6_6, r12_4, r16_4, r20_4, r24_7⟩ := @fields18 z.code 0 1 b.val a.val d.val 28 (v / 2 ^ 31) (aSize_code_lt z) (by decide) (by decide) (b.isLt) (a.isLt) (d.isLt) (by decide)
  rw [← hv] at r0_2 r2_4 r6_6 r12_4 r16_4 r20_4 r24_7
  have hm : decodeWord v = decMajor1C v := by unfold decodeWord; rw [r24_7]; rfl
  have hn : decMajor1C v = decAmin v := by unfold decMajor1C; rw [r6_6]; rfl
  rw [hm, hn]
  unfold decAmin
  rw [if_pos r2_4]
  rw [r0_2, aSize_ofCode_code, withCode]
  rw [fin_of_fld (n := 16) (x := d) r20_4, fin_of_fld (n := 16) (x := a) r16_4, fin_of_fld (n := 16) (x := b) r12_4]
  exact check_ok hw

theorem amax (d : Fin 16) (a : Fin 16) (b : Fin 16) (z : ASize) : Statement (.amax d a b z) := by
  intro hw v he
  have hv : v = dig 2 z.code (dig 4 0 (dig 6 2 (dig 4 b.val (dig 4 a.val (dig 4 d.val (dig 7 28 (v / 2 ^ 31))))))) := by
    have h := Option.some.inj he
    unfold put at h
    unfold dig
    omega
  obtain ⟨r0_2, r2_4, r6_6, r12_4, r16_4, r20_4, r24_7⟩ := @fields18 z.code 0 2 b.val a.val d.val 28 (v / 2 ^ 31) (aSize_code_lt z) (by decide) (by decide) (b.isLt) (a.isLt) (d.isLt) (by decide)
  rw [← hv] at r0_2 r2_4 r6_6 r12_4 r16_4 r20_4 r24_7
  have hm : decodeWord v = decMajor1C v := by unfold decodeWord; rw [r24_7]; rfl
  have hn : decMajor1C v = decAmax v := by unfold decMajor1C; rw [r6_6]; rfl
  rw [hm, hn]
  unfold decAmax
  rw [if_pos r2_4]
  rw [r0_2, aSize_ofCode_code, withCode]
  rw [fin_of_fld (n := 16) (x := d) r20_4, fin_of_fld (n := 16) (x := a) r16_4, fin_of_fld (n := 16) (x := b) r12_4]
  exact check_ok hw

theorem aminn (d : Fin 16) (a : Fin 16) (b : Fin 16) (z : ASize) : Statement (.aminn d a b z) := by
  intro hw v he
  have hv : v = dig 2 z.code (dig 4 0 (dig 6 3 (dig 4 b.val (dig 4 a.val (dig 4 d.val (dig 7 28 (v / 2 ^ 31))))))) := by
    have h := Option.some.inj he
    unfold put at h
    unfold dig
    omega
  obtain ⟨r0_2, r2_4, r6_6, r12_4, r16_4, r20_4, r24_7⟩ := @fields18 z.code 0 3 b.val a.val d.val 28 (v / 2 ^ 31) (aSize_code_lt z) (by decide) (by decide) (b.isLt) (a.isLt) (d.isLt) (by decide)
  rw [← hv] at r0_2 r2_4 r6_6 r12_4 r16_4 r20_4 r24_7
  have hm : decodeWord v = decMajor1C v := by unfold decodeWord; rw [r24_7]; rfl
  have hn : decMajor1C v = decAminn v := by unfold decMajor1C; rw [r6_6]; rfl
  rw [hm, hn]
  unfold decAminn
  rw [if_pos r2_4]
  rw [r0_2, aSize_ofCode_code, withCode]
  rw [fin_of_fld (n := 16) (x := d) r20_4, fin_of_fld (n := 16) (x := a) r16_4, fin_of_fld (n := 16) (x := b) r12_4]
  exact check_ok hw

theorem amaxn (d : Fin 16) (a : Fin 16) (b : Fin 16) (z : ASize) : Statement (.amaxn d a b z) := by
  intro hw v he
  have hv : v = dig 2 z.code (dig 4 0 (dig 6 4 (dig 4 b.val (dig 4 a.val (dig 4 d.val (dig 7 28 (v / 2 ^ 31))))))) := by
    have h := Option.some.inj he
    unfold put at h
    unfold dig
    omega
  obtain ⟨r0_2, r2_4, r6_6, r12_4, r16_4, r20_4, r24_7⟩ := @fields18 z.code 0 4 b.val a.val d.val 28 (v / 2 ^ 31) (aSize_code_lt z) (by decide) (by decide) (b.isLt) (a.isLt) (d.isLt) (by decide)
  rw [← hv] at r0_2 r2_4 r6_6 r12_4 r16_4 r20_4 r24_7
  have hm : decodeWord v = decMajor1C v := by unfold decodeWord; rw [r24_7]; rfl
  have hn : decMajor1C v = decAmaxn v := by unfold decMajor1C; rw [r6_6]; rfl
  rw [hm, hn]
  unfold decAmaxn
  rw [if_pos r2_4]
  rw [r0_2, aSize_ofCode_code, withCode]
  rw [fin_of_fld (n := 16) (x := d) r20_4, fin_of_fld (n := 16) (x := a) r16_4, fin_of_fld (n := 16) (x := b) r12_4]
  exact check_ok hw

theorem aand (d : Fin 16) (a : Fin 16) (b : Fin 16) (z : ASize) : Statement (.aand d a b z) := by
  intro hw v he
  have hv : v = dig 2 z.code (dig 4 0 (dig 6 5 (dig 4 b.val (dig 4 a.val (dig 4 d.val (dig 7 28 (v / 2 ^ 31))))))) := by
    have h := Option.some.inj he
    unfold put at h
    unfold dig
    omega
  obtain ⟨r0_2, r2_4, r6_6, r12_4, r16_4, r20_4, r24_7⟩ := @fields18 z.code 0 5 b.val a.val d.val 28 (v / 2 ^ 31) (aSize_code_lt z) (by decide) (by decide) (b.isLt) (a.isLt) (d.isLt) (by decide)
  rw [← hv] at r0_2 r2_4 r6_6 r12_4 r16_4 r20_4 r24_7
  have hm : decodeWord v = decMajor1C v := by unfold decodeWord; rw [r24_7]; rfl
  have hn : decMajor1C v = decAand v := by unfold decMajor1C; rw [r6_6]; rfl
  rw [hm, hn]
  unfold decAand
  rw [if_pos r2_4]
  rw [r0_2, aSize_ofCode_code, withCode]
  rw [fin_of_fld (n := 16) (x := d) r20_4, fin_of_fld (n := 16) (x := a) r16_4, fin_of_fld (n := 16) (x := b) r12_4]
  exact check_ok hw

theorem aor (d : Fin 16) (a : Fin 16) (b : Fin 16) (z : ASize) : Statement (.aor d a b z) := by
  intro hw v he
  have hv : v = dig 2 z.code (dig 4 0 (dig 6 6 (dig 4 b.val (dig 4 a.val (dig 4 d.val (dig 7 28 (v / 2 ^ 31))))))) := by
    have h := Option.some.inj he
    unfold put at h
    unfold dig
    omega
  obtain ⟨r0_2, r2_4, r6_6, r12_4, r16_4, r20_4, r24_7⟩ := @fields18 z.code 0 6 b.val a.val d.val 28 (v / 2 ^ 31) (aSize_code_lt z) (by decide) (by decide) (b.isLt) (a.isLt) (d.isLt) (by decide)
  rw [← hv] at r0_2 r2_4 r6_6 r12_4 r16_4 r20_4 r24_7
  have hm : decodeWord v = decMajor1C v := by unfold decodeWord; rw [r24_7]; rfl
  have hn : decMajor1C v = decAor v := by unfold decMajor1C; rw [r6_6]; rfl
  rw [hm, hn]
  unfold decAor
  rw [if_pos r2_4]
  rw [r0_2, aSize_ofCode_code, withCode]
  rw [fin_of_fld (n := 16) (x := d) r20_4, fin_of_fld (n := 16) (x := a) r16_4, fin_of_fld (n := 16) (x := b) r12_4]
  exact check_ok hw

theorem axor (d : Fin 16) (a : Fin 16) (b : Fin 16) (z : ASize) : Statement (.axor d a b z) := by
  intro hw v he
  have hv : v = dig 2 z.code (dig 4 0 (dig 6 7 (dig 4 b.val (dig 4 a.val (dig 4 d.val (dig 7 28 (v / 2 ^ 31))))))) := by
    have h := Option.some.inj he
    unfold put at h
    unfold dig
    omega
  obtain ⟨r0_2, r2_4, r6_6, r12_4, r16_4, r20_4, r24_7⟩ := @fields18 z.code 0 7 b.val a.val d.val 28 (v / 2 ^ 31) (aSize_code_lt z) (by decide) (by decide) (b.isLt) (a.isLt) (d.isLt) (by decide)
  rw [← hv] at r0_2 r2_4 r6_6 r12_4 r16_4 r20_4 r24_7
  have hm : decodeWord v = decMajor1C v := by unfold decodeWord; rw [r24_7]; rfl
  have hn : decMajor1C v = decAxor v := by unfold decMajor1C; rw [r6_6]; rfl
  rw [hm, hn]
  unfold decAxor
  rw [if_pos r2_4]
  rw [r0_2, aSize_ofCode_code, withCode]
  rw [fin_of_fld (n := 16) (x := d) r20_4, fin_of_fld (n := 16) (x := a) r16_4, fin_of_fld (n := 16) (x := b) r12_4]
  exact check_ok hw

theorem aswp (d : Fin 16) (a : Fin 16) (b : Fin 16) (z : ASize) : Statement (.aswp d a b z) := by
  intro hw v he
  have hv : v = dig 2 z.code (dig 4 0 (dig 6 8 (dig 4 b.val (dig 4 a.val (dig 4 d.val (dig 7 28 (v / 2 ^ 31))))))) := by
    have h := Option.some.inj he
    unfold put at h
    unfold dig
    omega
  obtain ⟨r0_2, r2_4, r6_6, r12_4, r16_4, r20_4, r24_7⟩ := @fields18 z.code 0 8 b.val a.val d.val 28 (v / 2 ^ 31) (aSize_code_lt z) (by decide) (by decide) (b.isLt) (a.isLt) (d.isLt) (by decide)
  rw [← hv] at r0_2 r2_4 r6_6 r12_4 r16_4 r20_4 r24_7
  have hm : decodeWord v = decMajor1C v := by unfold decodeWord; rw [r24_7]; rfl
  have hn : decMajor1C v = decAswp v := by unfold decMajor1C; rw [r6_6]; rfl
  rw [hm, hn]
  unfold decAswp
  rw [if_pos r2_4]
  rw [r0_2, aSize_ofCode_code, withCode]
  rw [fin_of_fld (n := 16) (x := d) r20_4, fin_of_fld (n := 16) (x := a) r16_4, fin_of_fld (n := 16) (x := b) r12_4]
  exact check_ok hw

theorem acas (d : Fin 16) (a : Fin 16) (b : Fin 16) (c : Fin 16) (z : ASize) : Statement (.acas d a b c z) := by
  intro hw v he
  have hv : v = dig 2 z.code (dig 4 c.val (dig 6 9 (dig 4 b.val (dig 4 a.val (dig 4 d.val (dig 7 28 (v / 2 ^ 31))))))) := by
    have h := Option.some.inj he
    unfold put at h
    unfold dig
    omega
  obtain ⟨r0_2, r2_4, r6_6, r12_4, r16_4, r20_4, r24_7⟩ := @fields18 z.code c.val 9 b.val a.val d.val 28 (v / 2 ^ 31) (aSize_code_lt z) (c.isLt) (by decide) (b.isLt) (a.isLt) (d.isLt) (by decide)
  rw [← hv] at r0_2 r2_4 r6_6 r12_4 r16_4 r20_4 r24_7
  have hm : decodeWord v = decMajor1C v := by unfold decodeWord; rw [r24_7]; rfl
  have hn : decMajor1C v = decAcas v := by unfold decMajor1C; rw [r6_6]; rfl
  rw [hm, hn]
  unfold decAcas
  rw [r0_2, aSize_ofCode_code, withCode]
  rw [fin_of_fld (n := 16) (x := d) r20_4, fin_of_fld (n := 16) (x := a) r16_4, fin_of_fld (n := 16) (x := b) r12_4, fin_of_fld (n := 16) (x := c) r2_4]
  exact check_ok hw

theorem afadd (d : Fin 16) (a : Fin 16) (b : Fin 16) (z : ASize) : Statement (.afadd d a b z) := by
  intro hw v he
  have hv : v = dig 2 z.code (dig 4 0 (dig 6 10 (dig 4 b.val (dig 4 a.val (dig 4 d.val (dig 7 28 (v / 2 ^ 31))))))) := by
    have h := Option.some.inj he
    unfold put at h
    unfold dig
    omega
  obtain ⟨r0_2, r2_4, r6_6, r12_4, r16_4, r20_4, r24_7⟩ := @fields18 z.code 0 10 b.val a.val d.val 28 (v / 2 ^ 31) (aSize_code_lt z) (by decide) (by decide) (b.isLt) (a.isLt) (d.isLt) (by decide)
  rw [← hv] at r0_2 r2_4 r6_6 r12_4 r16_4 r20_4 r24_7
  have hm : decodeWord v = decMajor1C v := by unfold decodeWord; rw [r24_7]; rfl
  have hn : decMajor1C v = decAfadd v := by unfold decMajor1C; rw [r6_6]; rfl
  rw [hm, hn]
  unfold decAfadd
  rw [if_pos r2_4]
  rw [r0_2, aSize_ofCode_code, withCode]
  rw [fin_of_fld (n := 16) (x := d) r20_4, fin_of_fld (n := 16) (x := a) r16_4, fin_of_fld (n := 16) (x := b) r12_4]
  exact check_ok hw

theorem afmin (d : Fin 16) (a : Fin 16) (b : Fin 16) (z : ASize) : Statement (.afmin d a b z) := by
  intro hw v he
  have hv : v = dig 2 z.code (dig 4 0 (dig 6 11 (dig 4 b.val (dig 4 a.val (dig 4 d.val (dig 7 28 (v / 2 ^ 31))))))) := by
    have h := Option.some.inj he
    unfold put at h
    unfold dig
    omega
  obtain ⟨r0_2, r2_4, r6_6, r12_4, r16_4, r20_4, r24_7⟩ := @fields18 z.code 0 11 b.val a.val d.val 28 (v / 2 ^ 31) (aSize_code_lt z) (by decide) (by decide) (b.isLt) (a.isLt) (d.isLt) (by decide)
  rw [← hv] at r0_2 r2_4 r6_6 r12_4 r16_4 r20_4 r24_7
  have hm : decodeWord v = decMajor1C v := by unfold decodeWord; rw [r24_7]; rfl
  have hn : decMajor1C v = decAfmin v := by unfold decMajor1C; rw [r6_6]; rfl
  rw [hm, hn]
  unfold decAfmin
  rw [if_pos r2_4]
  rw [r0_2, aSize_ofCode_code, withCode]
  rw [fin_of_fld (n := 16) (x := d) r20_4, fin_of_fld (n := 16) (x := a) r16_4, fin_of_fld (n := 16) (x := b) r12_4]
  exact check_ok hw

theorem afmax (d : Fin 16) (a : Fin 16) (b : Fin 16) (z : ASize) : Statement (.afmax d a b z) := by
  intro hw v he
  have hv : v = dig 2 z.code (dig 4 0 (dig 6 12 (dig 4 b.val (dig 4 a.val (dig 4 d.val (dig 7 28 (v / 2 ^ 31))))))) := by
    have h := Option.some.inj he
    unfold put at h
    unfold dig
    omega
  obtain ⟨r0_2, r2_4, r6_6, r12_4, r16_4, r20_4, r24_7⟩ := @fields18 z.code 0 12 b.val a.val d.val 28 (v / 2 ^ 31) (aSize_code_lt z) (by decide) (by decide) (b.isLt) (a.isLt) (d.isLt) (by decide)
  rw [← hv] at r0_2 r2_4 r6_6 r12_4 r16_4 r20_4 r24_7
  have hm : decodeWord v = decMajor1C v := by unfold decodeWord; rw [r24_7]; rfl
  have hn : decMajor1C v = decAfmax v := by unfold decMajor1C; rw [r6_6]; rfl
  rw [hm, hn]
  unfold decAfmax
  rw [if_pos r2_4]
  rw [r0_2, aSize_ofCode_code, withCode]
  rw [fin_of_fld (n := 16) (x := d) r20_4, fin_of_fld (n := 16) (x := a) r16_4, fin_of_fld (n := 16) (x := b) r12_4]
  exact check_ok hw

theorem cpy (h : Fin 8) (a : Fin 16) (n : Bool) (t : Bool) : Statement (.cpy h a n t) := by
  intro hw v he
  have hv : v = dig 2 0 (dig 1 (bit t) (dig 1 (bit n) (dig 8 0 (dig 4 a.val (dig 5 0 (dig 3 h.val (dig 7 32 (v / 2 ^ 31)))))))) := by
    have h := Option.some.inj he
    unfold put at h
    unfold dig
    omega
  obtain ⟨r0_2, r2_1, r3_1, r4_8, r12_4, r16_5, r21_3, r24_7⟩ := @fields19 0 (bit t) (bit n) 0 a.val 0 h.val 32 (v / 2 ^ 31) (by decide) (bit_lt t) (bit_lt n) (by decide) (a.isLt) (by decide) (h.isLt) (by decide)
  rw [← hv] at r0_2 r2_1 r3_1 r4_8 r12_4 r16_5 r21_3 r24_7
  have hm : decodeWord v = decMajor20 v := by unfold decodeWord; rw [r24_7]; rfl
  have hn : decMajor20 v = decCpy v := by unfold decMajor20; rw [r16_5]; rfl
  rw [hm, hn]
  unfold decCpy
  rw [if_pos ⟨r0_2, r4_8⟩]
  rw [fin_of_fld (n := 8) (x := h) r21_3, fin_of_fld (n := 16) (x := a) r12_4, flag_of_fld r3_1, flag_of_fld r2_1]
  exact check_ok hw

theorem cpys (i : Fin 65536) : Statement (.cpys i) := by
  intro hw v he
  have hv : v = dig 16 i.val (dig 8 0 (dig 7 33 (v / 2 ^ 31))) := by
    have h := Option.some.inj he
    unfold dig
    omega
  obtain ⟨r0_16, r16_8, r24_7⟩ := @fields20 i.val 0 33 (v / 2 ^ 31) (i.isLt) (by decide) (by decide)
  rw [← hv] at r0_16 r16_8 r24_7
  have hm : decodeWord v = decCpys v := by unfold decodeWord; rw [r24_7]; rfl
  rw [hm]
  unfold decCpys
  rw [if_pos r16_8]
  rw [fin_of_fld (n := 65536) (x := i) r0_16]
  exact check_ok hw

theorem rpcRead (h : Fin 8) (a : Fin 16) (n : Bool) (t : Bool) : Statement (.rpcRead h a n t) := by
  intro hw v he
  have hv : v = dig 2 0 (dig 1 (bit t) (dig 1 (bit n) (dig 8 0 (dig 4 a.val (dig 5 0 (dig 3 h.val (dig 7 34 (v / 2 ^ 31)))))))) := by
    have h := Option.some.inj he
    unfold put at h
    unfold dig
    omega
  obtain ⟨r0_2, r2_1, r3_1, r4_8, r12_4, r16_5, r21_3, r24_7⟩ := @fields19 0 (bit t) (bit n) 0 a.val 0 h.val 34 (v / 2 ^ 31) (by decide) (bit_lt t) (bit_lt n) (by decide) (a.isLt) (by decide) (h.isLt) (by decide)
  rw [← hv] at r0_2 r2_1 r3_1 r4_8 r12_4 r16_5 r21_3 r24_7
  have hm : decodeWord v = decMajor22 v := by unfold decodeWord; rw [r24_7]; rfl
  have hn : decMajor22 v = decRpcRead v := by unfold decMajor22; rw [r16_5]; rfl
  rw [hm, hn]
  unfold decRpcRead
  rw [if_pos ⟨r0_2, r4_8⟩]
  rw [fin_of_fld (n := 8) (x := h) r21_3, fin_of_fld (n := 16) (x := a) r12_4, flag_of_fld r3_1, flag_of_fld r2_1]
  exact check_ok hw

theorem rpcWrite (h : Fin 8) (a : Fin 16) (n : Bool) (t : Bool) : Statement (.rpcWrite h a n t) := by
  intro hw v he
  have hv : v = dig 2 0 (dig 1 (bit t) (dig 1 (bit n) (dig 8 0 (dig 4 a.val (dig 5 1 (dig 3 h.val (dig 7 34 (v / 2 ^ 31)))))))) := by
    have h := Option.some.inj he
    unfold put at h
    unfold dig
    omega
  obtain ⟨r0_2, r2_1, r3_1, r4_8, r12_4, r16_5, r21_3, r24_7⟩ := @fields19 0 (bit t) (bit n) 0 a.val 1 h.val 34 (v / 2 ^ 31) (by decide) (bit_lt t) (bit_lt n) (by decide) (a.isLt) (by decide) (h.isLt) (by decide)
  rw [← hv] at r0_2 r2_1 r3_1 r4_8 r12_4 r16_5 r21_3 r24_7
  have hm : decodeWord v = decMajor22 v := by unfold decodeWord; rw [r24_7]; rfl
  have hn : decMajor22 v = decRpcWrite v := by unfold decMajor22; rw [r16_5]; rfl
  rw [hm, hn]
  unfold decRpcWrite
  rw [if_pos ⟨r0_2, r4_8⟩]
  rw [fin_of_fld (n := 8) (x := h) r21_3, fin_of_fld (n := 16) (x := a) r12_4, flag_of_fld r3_1, flag_of_fld r2_1]
  exact check_ok hw

theorem vaddF32 (h : Fin 8) (a : Fin 16) (n : Bool) (t : Bool) : Statement (.vaddF32 h a n t) := by
  intro hw v he
  have hv : v = dig 2 0 (dig 1 (bit t) (dig 1 (bit n) (dig 8 0 (dig 4 a.val (dig 5 2 (dig 3 h.val (dig 7 34 (v / 2 ^ 31)))))))) := by
    have h := Option.some.inj he
    unfold put at h
    unfold dig
    omega
  obtain ⟨r0_2, r2_1, r3_1, r4_8, r12_4, r16_5, r21_3, r24_7⟩ := @fields19 0 (bit t) (bit n) 0 a.val 2 h.val 34 (v / 2 ^ 31) (by decide) (bit_lt t) (bit_lt n) (by decide) (a.isLt) (by decide) (h.isLt) (by decide)
  rw [← hv] at r0_2 r2_1 r3_1 r4_8 r12_4 r16_5 r21_3 r24_7
  have hm : decodeWord v = decMajor22 v := by unfold decodeWord; rw [r24_7]; rfl
  have hn : decMajor22 v = decVaddF32 v := by unfold decMajor22; rw [r16_5]; rfl
  rw [hm, hn]
  unfold decVaddF32
  rw [if_pos ⟨r0_2, r4_8⟩]
  rw [fin_of_fld (n := 8) (x := h) r21_3, fin_of_fld (n := 16) (x := a) r12_4, flag_of_fld r3_1, flag_of_fld r2_1]
  exact check_ok hw

theorem vaddI32 (h : Fin 8) (a : Fin 16) (n : Bool) (t : Bool) : Statement (.vaddI32 h a n t) := by
  intro hw v he
  have hv : v = dig 2 0 (dig 1 (bit t) (dig 1 (bit n) (dig 8 0 (dig 4 a.val (dig 5 3 (dig 3 h.val (dig 7 34 (v / 2 ^ 31)))))))) := by
    have h := Option.some.inj he
    unfold put at h
    unfold dig
    omega
  obtain ⟨r0_2, r2_1, r3_1, r4_8, r12_4, r16_5, r21_3, r24_7⟩ := @fields19 0 (bit t) (bit n) 0 a.val 3 h.val 34 (v / 2 ^ 31) (by decide) (bit_lt t) (bit_lt n) (by decide) (a.isLt) (by decide) (h.isLt) (by decide)
  rw [← hv] at r0_2 r2_1 r3_1 r4_8 r12_4 r16_5 r21_3 r24_7
  have hm : decodeWord v = decMajor22 v := by unfold decodeWord; rw [r24_7]; rfl
  have hn : decMajor22 v = decVaddI32 v := by unfold decMajor22; rw [r16_5]; rfl
  rw [hm, hn]
  unfold decVaddI32
  rw [if_pos ⟨r0_2, r4_8⟩]
  rw [fin_of_fld (n := 8) (x := h) r21_3, fin_of_fld (n := 16) (x := a) r12_4, flag_of_fld r3_1, flag_of_fld r2_1]
  exact check_ok hw

theorem vminF32 (h : Fin 8) (a : Fin 16) (n : Bool) (t : Bool) : Statement (.vminF32 h a n t) := by
  intro hw v he
  have hv : v = dig 2 0 (dig 1 (bit t) (dig 1 (bit n) (dig 8 0 (dig 4 a.val (dig 5 4 (dig 3 h.val (dig 7 34 (v / 2 ^ 31)))))))) := by
    have h := Option.some.inj he
    unfold put at h
    unfold dig
    omega
  obtain ⟨r0_2, r2_1, r3_1, r4_8, r12_4, r16_5, r21_3, r24_7⟩ := @fields19 0 (bit t) (bit n) 0 a.val 4 h.val 34 (v / 2 ^ 31) (by decide) (bit_lt t) (bit_lt n) (by decide) (a.isLt) (by decide) (h.isLt) (by decide)
  rw [← hv] at r0_2 r2_1 r3_1 r4_8 r12_4 r16_5 r21_3 r24_7
  have hm : decodeWord v = decMajor22 v := by unfold decodeWord; rw [r24_7]; rfl
  have hn : decMajor22 v = decVminF32 v := by unfold decMajor22; rw [r16_5]; rfl
  rw [hm, hn]
  unfold decVminF32
  rw [if_pos ⟨r0_2, r4_8⟩]
  rw [fin_of_fld (n := 8) (x := h) r21_3, fin_of_fld (n := 16) (x := a) r12_4, flag_of_fld r3_1, flag_of_fld r2_1]
  exact check_ok hw

theorem vmaxF32 (h : Fin 8) (a : Fin 16) (n : Bool) (t : Bool) : Statement (.vmaxF32 h a n t) := by
  intro hw v he
  have hv : v = dig 2 0 (dig 1 (bit t) (dig 1 (bit n) (dig 8 0 (dig 4 a.val (dig 5 5 (dig 3 h.val (dig 7 34 (v / 2 ^ 31)))))))) := by
    have h := Option.some.inj he
    unfold put at h
    unfold dig
    omega
  obtain ⟨r0_2, r2_1, r3_1, r4_8, r12_4, r16_5, r21_3, r24_7⟩ := @fields19 0 (bit t) (bit n) 0 a.val 5 h.val 34 (v / 2 ^ 31) (by decide) (bit_lt t) (bit_lt n) (by decide) (a.isLt) (by decide) (h.isLt) (by decide)
  rw [← hv] at r0_2 r2_1 r3_1 r4_8 r12_4 r16_5 r21_3 r24_7
  have hm : decodeWord v = decMajor22 v := by unfold decodeWord; rw [r24_7]; rfl
  have hn : decMajor22 v = decVmaxF32 v := by unfold decMajor22; rw [r16_5]; rfl
  rw [hm, hn]
  unfold decVmaxF32
  rw [if_pos ⟨r0_2, r4_8⟩]
  rw [fin_of_fld (n := 8) (x := h) r21_3, fin_of_fld (n := 16) (x := a) r12_4, flag_of_fld r3_1, flag_of_fld r2_1]
  exact check_ok hw

theorem cas64 (h : Fin 8) (a : Fin 16) (n : Bool) (t : Bool) : Statement (.cas64 h a n t) := by
  intro hw v he
  have hv : v = dig 2 0 (dig 1 (bit t) (dig 1 (bit n) (dig 8 0 (dig 4 a.val (dig 5 6 (dig 3 h.val (dig 7 34 (v / 2 ^ 31)))))))) := by
    have h := Option.some.inj he
    unfold put at h
    unfold dig
    omega
  obtain ⟨r0_2, r2_1, r3_1, r4_8, r12_4, r16_5, r21_3, r24_7⟩ := @fields19 0 (bit t) (bit n) 0 a.val 6 h.val 34 (v / 2 ^ 31) (by decide) (bit_lt t) (bit_lt n) (by decide) (a.isLt) (by decide) (h.isLt) (by decide)
  rw [← hv] at r0_2 r2_1 r3_1 r4_8 r12_4 r16_5 r21_3 r24_7
  have hm : decodeWord v = decMajor22 v := by unfold decodeWord; rw [r24_7]; rfl
  have hn : decMajor22 v = decCas64 v := by unfold decMajor22; rw [r16_5]; rfl
  rw [hm, hn]
  unfold decCas64
  rw [if_pos ⟨r0_2, r4_8⟩]
  rw [fin_of_fld (n := 8) (x := h) r21_3, fin_of_fld (n := 16) (x := a) r12_4, flag_of_fld r3_1, flag_of_fld r2_1]
  exact check_ok hw

theorem swap64 (h : Fin 8) (a : Fin 16) (n : Bool) (t : Bool) : Statement (.swap64 h a n t) := by
  intro hw v he
  have hv : v = dig 2 0 (dig 1 (bit t) (dig 1 (bit n) (dig 8 0 (dig 4 a.val (dig 5 7 (dig 3 h.val (dig 7 34 (v / 2 ^ 31)))))))) := by
    have h := Option.some.inj he
    unfold put at h
    unfold dig
    omega
  obtain ⟨r0_2, r2_1, r3_1, r4_8, r12_4, r16_5, r21_3, r24_7⟩ := @fields19 0 (bit t) (bit n) 0 a.val 7 h.val 34 (v / 2 ^ 31) (by decide) (bit_lt t) (bit_lt n) (by decide) (a.isLt) (by decide) (h.isLt) (by decide)
  rw [← hv] at r0_2 r2_1 r3_1 r4_8 r12_4 r16_5 r21_3 r24_7
  have hm : decodeWord v = decMajor22 v := by unfold decodeWord; rw [r24_7]; rfl
  have hn : decMajor22 v = decSwap64 v := by unfold decMajor22; rw [r16_5]; rfl
  rw [hm, hn]
  unfold decSwap64
  rw [if_pos ⟨r0_2, r4_8⟩]
  rw [fin_of_fld (n := 8) (x := h) r21_3, fin_of_fld (n := 16) (x := a) r12_4, flag_of_fld r3_1, flag_of_fld r2_1]
  exact check_ok hw

theorem readBox (h : Fin 8) (a : Fin 16) (n : Bool) (t : Bool) : Statement (.readBox h a n t) := by
  intro hw v he
  have hv : v = dig 2 0 (dig 1 (bit t) (dig 1 (bit n) (dig 8 0 (dig 4 a.val (dig 5 8 (dig 3 h.val (dig 7 34 (v / 2 ^ 31)))))))) := by
    have h := Option.some.inj he
    unfold put at h
    unfold dig
    omega
  obtain ⟨r0_2, r2_1, r3_1, r4_8, r12_4, r16_5, r21_3, r24_7⟩ := @fields19 0 (bit t) (bit n) 0 a.val 8 h.val 34 (v / 2 ^ 31) (by decide) (bit_lt t) (bit_lt n) (by decide) (a.isLt) (by decide) (h.isLt) (by decide)
  rw [← hv] at r0_2 r2_1 r3_1 r4_8 r12_4 r16_5 r21_3 r24_7
  have hm : decodeWord v = decMajor22 v := by unfold decodeWord; rw [r24_7]; rfl
  have hn : decMajor22 v = decReadBox v := by unfold decMajor22; rw [r16_5]; rfl
  rw [hm, hn]
  unfold decReadBox
  rw [if_pos ⟨r0_2, r4_8⟩]
  rw [fin_of_fld (n := 8) (x := h) r21_3, fin_of_fld (n := 16) (x := a) r12_4, flag_of_fld r3_1, flag_of_fld r2_1]
  exact check_ok hw

theorem writeBox (h : Fin 8) (a : Fin 16) (n : Bool) (t : Bool) : Statement (.writeBox h a n t) := by
  intro hw v he
  have hv : v = dig 2 0 (dig 1 (bit t) (dig 1 (bit n) (dig 8 0 (dig 4 a.val (dig 5 9 (dig 3 h.val (dig 7 34 (v / 2 ^ 31)))))))) := by
    have h := Option.some.inj he
    unfold put at h
    unfold dig
    omega
  obtain ⟨r0_2, r2_1, r3_1, r4_8, r12_4, r16_5, r21_3, r24_7⟩ := @fields19 0 (bit t) (bit n) 0 a.val 9 h.val 34 (v / 2 ^ 31) (by decide) (bit_lt t) (bit_lt n) (by decide) (a.isLt) (by decide) (h.isLt) (by decide)
  rw [← hv] at r0_2 r2_1 r3_1 r4_8 r12_4 r16_5 r21_3 r24_7
  have hm : decodeWord v = decMajor22 v := by unfold decodeWord; rw [r24_7]; rfl
  have hn : decMajor22 v = decWriteBox v := by unfold decMajor22; rw [r16_5]; rfl
  rw [hm, hn]
  unfold decWriteBox
  rw [if_pos ⟨r0_2, r4_8⟩]
  rw [fin_of_fld (n := 8) (x := h) r21_3, fin_of_fld (n := 16) (x := a) r12_4, flag_of_fld r3_1, flag_of_fld r2_1]
  exact check_ok hw

theorem rpcFill (h : Fin 8) (a : Fin 16) (n : Bool) (t : Bool) : Statement (.rpcFill h a n t) := by
  intro hw v he
  have hv : v = dig 2 0 (dig 1 (bit t) (dig 1 (bit n) (dig 8 0 (dig 4 a.val (dig 5 10 (dig 3 h.val (dig 7 34 (v / 2 ^ 31)))))))) := by
    have h := Option.some.inj he
    unfold put at h
    unfold dig
    omega
  obtain ⟨r0_2, r2_1, r3_1, r4_8, r12_4, r16_5, r21_3, r24_7⟩ := @fields19 0 (bit t) (bit n) 0 a.val 10 h.val 34 (v / 2 ^ 31) (by decide) (bit_lt t) (bit_lt n) (by decide) (a.isLt) (by decide) (h.isLt) (by decide)
  rw [← hv] at r0_2 r2_1 r3_1 r4_8 r12_4 r16_5 r21_3 r24_7
  have hm : decodeWord v = decMajor22 v := by unfold decodeWord; rw [r24_7]; rfl
  have hn : decMajor22 v = decRpcFill v := by unfold decMajor22; rw [r16_5]; rfl
  rw [hm, hn]
  unfold decRpcFill
  rw [if_pos ⟨r0_2, r4_8⟩]
  rw [fin_of_fld (n := 8) (x := h) r21_3, fin_of_fld (n := 16) (x := a) r12_4, flag_of_fld r3_1, flag_of_fld r2_1]
  exact check_ok hw

theorem zeroPage (h : Fin 8) (a : Fin 16) (n : Bool) (t : Bool) : Statement (.zeroPage h a n t) := by
  intro hw v he
  have hv : v = dig 2 0 (dig 1 (bit t) (dig 1 (bit n) (dig 8 0 (dig 4 a.val (dig 5 11 (dig 3 h.val (dig 7 34 (v / 2 ^ 31)))))))) := by
    have h := Option.some.inj he
    unfold put at h
    unfold dig
    omega
  obtain ⟨r0_2, r2_1, r3_1, r4_8, r12_4, r16_5, r21_3, r24_7⟩ := @fields19 0 (bit t) (bit n) 0 a.val 11 h.val 34 (v / 2 ^ 31) (by decide) (bit_lt t) (bit_lt n) (by decide) (a.isLt) (by decide) (h.isLt) (by decide)
  rw [← hv] at r0_2 r2_1 r3_1 r4_8 r12_4 r16_5 r21_3 r24_7
  have hm : decodeWord v = decMajor22 v := by unfold decodeWord; rw [r24_7]; rfl
  have hn : decMajor22 v = decZeroPage v := by unfold decMajor22; rw [r16_5]; rfl
  rw [hm, hn]
  unfold decZeroPage
  rw [if_pos ⟨r0_2, r4_8⟩]
  rw [fin_of_fld (n := 8) (x := h) r21_3, fin_of_fld (n := 16) (x := a) r12_4, flag_of_fld r3_1, flag_of_fld r2_1]
  exact check_ok hw

theorem trav (h : Fin 8) (a : Fin 16) (t : Bool) : Statement (.trav h a t) := by
  intro hw v he
  have hv : v = dig 2 0 (dig 1 (bit t) (dig 9 0 (dig 4 a.val (dig 5 0 (dig 3 h.val (dig 7 35 (v / 2 ^ 31))))))) := by
    have h := Option.some.inj he
    unfold put at h
    unfold dig
    omega
  obtain ⟨r0_2, r2_1, r3_9, r12_4, r16_5, r21_3, r24_7⟩ := @fields21 0 (bit t) 0 a.val 0 h.val 35 (v / 2 ^ 31) (by decide) (bit_lt t) (by decide) (a.isLt) (by decide) (h.isLt) (by decide)
  rw [← hv] at r0_2 r2_1 r3_9 r12_4 r16_5 r21_3 r24_7
  have hm : decodeWord v = decMajor23 v := by unfold decodeWord; rw [r24_7]; rfl
  have hn : decMajor23 v = decTrav v := by unfold decMajor23; rw [r16_5]; rfl
  rw [hm, hn]
  unfold decTrav
  rw [if_pos ⟨r0_2, r3_9⟩]
  rw [fin_of_fld (n := 8) (x := h) r21_3, fin_of_fld (n := 16) (x := a) r12_4, flag_of_fld r2_1]
  exact check_ok hw

theorem travRes (h : Fin 8) (a : Fin 16) (t : Bool) : Statement (.travRes h a t) := by
  intro hw v he
  have hv : v = dig 2 0 (dig 1 (bit t) (dig 9 0 (dig 4 a.val (dig 5 1 (dig 3 h.val (dig 7 35 (v / 2 ^ 31))))))) := by
    have h := Option.some.inj he
    unfold put at h
    unfold dig
    omega
  obtain ⟨r0_2, r2_1, r3_9, r12_4, r16_5, r21_3, r24_7⟩ := @fields21 0 (bit t) 0 a.val 1 h.val 35 (v / 2 ^ 31) (by decide) (bit_lt t) (by decide) (a.isLt) (by decide) (h.isLt) (by decide)
  rw [← hv] at r0_2 r2_1 r3_9 r12_4 r16_5 r21_3 r24_7
  have hm : decodeWord v = decMajor23 v := by unfold decodeWord; rw [r24_7]; rfl
  have hn : decMajor23 v = decTravRes v := by unfold decMajor23; rw [r16_5]; rfl
  rw [hm, hn]
  unfold decTravRes
  rw [if_pos ⟨r0_2, r3_9⟩]
  rw [fin_of_fld (n := 8) (x := h) r21_3, fin_of_fld (n := 16) (x := a) r12_4, flag_of_fld r2_1]
  exact check_ok hw

theorem gpool (h : Fin 8) (a : Fin 16) (t : Bool) : Statement (.gpool h a t) := by
  intro hw v he
  have hv : v = dig 2 0 (dig 1 (bit t) (dig 9 0 (dig 4 a.val (dig 5 0 (dig 3 h.val (dig 7 36 (v / 2 ^ 31))))))) := by
    have h := Option.some.inj he
    unfold put at h
    unfold dig
    omega
  obtain ⟨r0_2, r2_1, r3_9, r12_4, r16_5, r21_3, r24_7⟩ := @fields21 0 (bit t) 0 a.val 0 h.val 36 (v / 2 ^ 31) (by decide) (bit_lt t) (by decide) (a.isLt) (by decide) (h.isLt) (by decide)
  rw [← hv] at r0_2 r2_1 r3_9 r12_4 r16_5 r21_3 r24_7
  have hm : decodeWord v = decMajor24 v := by unfold decodeWord; rw [r24_7]; rfl
  have hn : decMajor24 v = decGpool v := by unfold decMajor24; rw [r16_5]; rfl
  rw [hm, hn]
  unfold decGpool
  rw [if_pos ⟨r0_2, r3_9⟩]
  rw [fin_of_fld (n := 8) (x := h) r21_3, fin_of_fld (n := 16) (x := a) r12_4, flag_of_fld r2_1]
  exact check_ok hw

theorem attn (h : Fin 8) (a : Fin 16) (t : Bool) : Statement (.attn h a t) := by
  intro hw v he
  have hv : v = dig 2 0 (dig 1 (bit t) (dig 9 0 (dig 4 a.val (dig 5 0 (dig 3 h.val (dig 7 37 (v / 2 ^ 31))))))) := by
    have h := Option.some.inj he
    unfold put at h
    unfold dig
    omega
  obtain ⟨r0_2, r2_1, r3_9, r12_4, r16_5, r21_3, r24_7⟩ := @fields21 0 (bit t) 0 a.val 0 h.val 37 (v / 2 ^ 31) (by decide) (bit_lt t) (by decide) (a.isLt) (by decide) (h.isLt) (by decide)
  rw [← hv] at r0_2 r2_1 r3_9 r12_4 r16_5 r21_3 r24_7
  have hm : decodeWord v = decMajor25 v := by unfold decodeWord; rw [r24_7]; rfl
  have hn : decMajor25 v = decAttn v := by unfold decMajor25; rw [r16_5]; rfl
  rw [hm, hn]
  unfold decAttn
  rw [if_pos ⟨r0_2, r3_9⟩]
  rw [fin_of_fld (n := 8) (x := h) r21_3, fin_of_fld (n := 16) (x := a) r12_4, flag_of_fld r2_1]
  exact check_ok hw

theorem fwait (h : Fin 8) (r : Bool) : Statement (.fwait h r) := by
  intro hw v he
  have hv : v = dig 1 (bit r) (dig 15 0 (dig 5 0 (dig 3 h.val (dig 7 38 (v / 2 ^ 31))))) := by
    have h := Option.some.inj he
    unfold put at h
    unfold dig
    omega
  obtain ⟨r0_1, r1_15, r16_5, r21_3, r24_7⟩ := @fields22 (bit r) 0 0 h.val 38 (v / 2 ^ 31) (bit_lt r) (by decide) (by decide) (h.isLt) (by decide)
  rw [← hv] at r0_1 r1_15 r16_5 r21_3 r24_7
  have hm : decodeWord v = decMajor26 v := by unfold decodeWord; rw [r24_7]; rfl
  have hn : decMajor26 v = decFwait v := by unfold decMajor26; rw [r16_5]; rfl
  rw [hm, hn]
  unfold decFwait
  rw [if_pos r1_15]
  rw [fin_of_fld (n := 8) (x := h) r21_3, flag_of_fld r0_1]
  exact check_ok hw

theorem fget (h : Fin 8) (d : Fin 16) (w : Fin 6) (r : Bool) : Statement (.fget h d w r) := by
  intro hw v he
  have hv : v = dig 1 (bit r) (dig 3 0 (dig 4 w.val (dig 4 0 (dig 4 d.val (dig 5 1 (dig 3 h.val (dig 7 38 (v / 2 ^ 31)))))))) := by
    have h := Option.some.inj he
    unfold put at h
    unfold dig
    omega
  obtain ⟨r0_1, r1_3, r4_4, r8_4, r12_4, r16_5, r21_3, r24_7⟩ := @fields23 (bit r) 0 w.val 0 d.val 1 h.val 38 (v / 2 ^ 31) (bit_lt r) (by decide) (Nat.lt_of_lt_of_le (w.isLt) (by decide)) (by decide) (d.isLt) (by decide) (h.isLt) (by decide)
  rw [← hv] at r0_1 r1_3 r4_4 r8_4 r12_4 r16_5 r21_3 r24_7
  have hm : decodeWord v = decMajor26 v := by unfold decodeWord; rw [r24_7]; rfl
  have hn : decMajor26 v = decFget v := by unfold decMajor26; rw [r16_5]; rfl
  rw [hm, hn]
  unfold decFget
  rw [if_pos ⟨r1_3, r8_4⟩]
  rw [r4_4, finBelow, dif_pos w.isLt, withCode]
  rw [fin_of_fld (n := 8) (x := h) r21_3, fin_of_fld (n := 16) (x := d) r12_4, flag_of_fld r0_1]
  exact check_ok hw

theorem ftest (h : Fin 8) (d : Fin 16) : Statement (.ftest h d) := by
  intro hw v he
  have hv : v = dig 12 0 (dig 4 d.val (dig 5 2 (dig 3 h.val (dig 7 38 (v / 2 ^ 31))))) := by
    have h := Option.some.inj he
    unfold put at h
    unfold dig
    omega
  obtain ⟨r0_12, r12_4, r16_5, r21_3, r24_7⟩ := @fields24 0 d.val 2 h.val 38 (v / 2 ^ 31) (by decide) (d.isLt) (by decide) (h.isLt) (by decide)
  rw [← hv] at r0_12 r12_4 r16_5 r21_3 r24_7
  have hm : decodeWord v = decMajor26 v := by unfold decodeWord; rw [r24_7]; rfl
  have hn : decMajor26 v = decFtest v := by unfold decMajor26; rw [r16_5]; rfl
  rw [hm, hn]
  unfold decFtest
  rw [if_pos r0_12]
  rw [fin_of_fld (n := 8) (x := h) r21_3, fin_of_fld (n := 16) (x := d) r12_4]
  exact check_ok hw

theorem fcancel (h : Fin 8) : Statement (.fcancel h) := by
  intro hw v he
  have hv : v = dig 16 0 (dig 5 3 (dig 3 h.val (dig 7 38 (v / 2 ^ 31)))) := by
    have h := Option.some.inj he
    unfold put at h
    unfold dig
    omega
  obtain ⟨r0_16, r16_5, r21_3, r24_7⟩ := @fields25 0 3 h.val 38 (v / 2 ^ 31) (by decide) (by decide) (h.isLt) (by decide)
  rw [← hv] at r0_16 r16_5 r21_3 r24_7
  have hm : decodeWord v = decMajor26 v := by unfold decodeWord; rw [r24_7]; rfl
  have hn : decMajor26 v = decFcancel v := by unfold decMajor26; rw [r16_5]; rfl
  rw [hm, hn]
  unfold decFcancel
  rw [if_pos r0_16]
  rw [fin_of_fld (n := 8) (x := h) r21_3]
  exact check_ok hw

theorem fxfer (h : Fin 8) (a : Fin 16) (g : Fin 8) : Statement (.fxfer h a g) := by
  intro hw v he
  have hv : v = dig 8 0 (dig 3 g.val (dig 1 0 (dig 4 a.val (dig 5 4 (dig 3 h.val (dig 7 38 (v / 2 ^ 31))))))) := by
    have h := Option.some.inj he
    unfold put at h
    unfold dig
    omega
  obtain ⟨r0_8, r8_3, r11_1, r12_4, r16_5, r21_3, r24_7⟩ := @fields26 0 g.val 0 a.val 4 h.val 38 (v / 2 ^ 31) (by decide) (g.isLt) (by decide) (a.isLt) (by decide) (h.isLt) (by decide)
  rw [← hv] at r0_8 r8_3 r11_1 r12_4 r16_5 r21_3 r24_7
  have hm : decodeWord v = decMajor26 v := by unfold decodeWord; rw [r24_7]; rfl
  have hn : decMajor26 v = decFxfer v := by unfold decMajor26; rw [r16_5]; rfl
  rw [hm, hn]
  unfold decFxfer
  rw [if_pos ⟨r0_8, r11_1⟩]
  rw [fin_of_fld (n := 8) (x := h) r21_3, fin_of_fld (n := 16) (x := a) r12_4, fin_of_fld (n := 8) (x := g) r8_3]
  exact check_ok hw

theorem barArr (d : Fin 16) (m : BarDom) (i : Fin 64) : Statement (.barArr d m i) := by
  intro hw v he
  have hv : v = dig 6 i.val (dig 6 0 (dig 3 m.code (dig 5 0 (dig 4 d.val (dig 7 40 (v / 2 ^ 31)))))) := by
    have h := Option.some.inj he
    unfold put at h
    unfold dig
    omega
  obtain ⟨r0_6, r6_6, r12_3, r15_5, r20_4, r24_7⟩ := @fields27 i.val 0 m.code 0 d.val 40 (v / 2 ^ 31) (i.isLt) (by decide) (barDom_code_lt m) (by decide) (d.isLt) (by decide)
  rw [← hv] at r0_6 r6_6 r12_3 r15_5 r20_4 r24_7
  have hm : decodeWord v = decMajor28 v := by unfold decodeWord; rw [r24_7]; rfl
  have hn : decMajor28 v = decBarArr v := by unfold decMajor28; rw [r6_6]; rfl
  rw [hm, hn]
  unfold decBarArr
  rw [if_pos r15_5]
  rw [r12_3, barDom_ofCode_code, withCode]
  rw [fin_of_fld (n := 16) (x := d) r20_4, fin_of_fld (n := 64) (x := i) r0_6]
  exact check_ok hw

theorem barWait (a : Fin 16) (m : BarDom) (i : Fin 64) : Statement (.barWait a m i) := by
  intro hw v he
  have hv : v = dig 6 i.val (dig 6 1 (dig 3 m.code (dig 1 0 (dig 4 a.val (dig 4 0 (dig 7 40 (v / 2 ^ 31))))))) := by
    have h := Option.some.inj he
    unfold put at h
    unfold dig
    omega
  obtain ⟨r0_6, r6_6, r12_3, r15_1, r16_4, r20_4, r24_7⟩ := @fields28 i.val 1 m.code 0 a.val 0 40 (v / 2 ^ 31) (i.isLt) (by decide) (barDom_code_lt m) (by decide) (a.isLt) (by decide) (by decide)
  rw [← hv] at r0_6 r6_6 r12_3 r15_1 r16_4 r20_4 r24_7
  have hm : decodeWord v = decMajor28 v := by unfold decodeWord; rw [r24_7]; rfl
  have hn : decMajor28 v = decBarWait v := by unfold decMajor28; rw [r6_6]; rfl
  rw [hm, hn]
  unfold decBarWait
  rw [if_pos ⟨r15_1, r20_4⟩]
  rw [r12_3, barDom_ofCode_code, withCode]
  rw [fin_of_fld (n := 16) (x := a) r16_4, fin_of_fld (n := 64) (x := i) r0_6]
  exact check_ok hw

theorem barAw (m : BarDom) (i : Fin 64) : Statement (.barAw m i) := by
  intro hw v he
  have hv : v = dig 6 i.val (dig 6 2 (dig 3 m.code (dig 9 0 (dig 7 40 (v / 2 ^ 31))))) := by
    have h := Option.some.inj he
    unfold put at h
    unfold dig
    omega
  obtain ⟨r0_6, r6_6, r12_3, r15_9, r24_7⟩ := @fields29 i.val 2 m.code 0 40 (v / 2 ^ 31) (i.isLt) (by decide) (barDom_code_lt m) (by decide) (by decide)
  rw [← hv] at r0_6 r6_6 r12_3 r15_9 r24_7
  have hm : decodeWord v = decMajor28 v := by unfold decodeWord; rw [r24_7]; rfl
  have hn : decMajor28 v = decBarAw v := by unfold decMajor28; rw [r6_6]; rfl
  rw [hm, hn]
  unfold decBarAw
  rw [if_pos r15_9]
  rw [r12_3, barDom_ofCode_code, withCode]
  rw [fin_of_fld (n := 64) (x := i) r0_6]
  exact check_ok hw

theorem sig (a : Fin 16) (s : Fin 16) : Statement (.sig a s) := by
  intro hw v he
  have hv : v = dig 4 s.val (dig 2 0 (dig 6 0 (dig 4 0 (dig 4 a.val (dig 4 0 (dig 7 41 (v / 2 ^ 31))))))) := by
    have h := Option.some.inj he
    unfold put at h
    unfold dig
    omega
  obtain ⟨r0_4, r4_2, r6_6, r12_4, r16_4, r20_4, r24_7⟩ := @fields30 s.val 0 0 0 a.val 0 41 (v / 2 ^ 31) (s.isLt) (by decide) (by decide) (by decide) (a.isLt) (by decide) (by decide)
  rw [← hv] at r0_4 r4_2 r6_6 r12_4 r16_4 r20_4 r24_7
  have hm : decodeWord v = decMajor29 v := by unfold decodeWord; rw [r24_7]; rfl
  have hn : decMajor29 v = decSig v := by unfold decMajor29; rw [r6_6]; rfl
  rw [hm, hn]
  unfold decSig
  rw [if_pos ⟨r4_2, r12_4, r20_4⟩]
  rw [fin_of_fld (n := 16) (x := a) r16_4, fin_of_fld (n := 16) (x := s) r0_4]
  exact check_ok hw

theorem wsem (a : Fin 16) (s : Fin 16) : Statement (.wsem a s) := by
  intro hw v he
  have hv : v = dig 4 s.val (dig 2 0 (dig 6 1 (dig 4 0 (dig 4 a.val (dig 4 0 (dig 7 41 (v / 2 ^ 31))))))) := by
    have h := Option.some.inj he
    unfold put at h
    unfold dig
    omega
  obtain ⟨r0_4, r4_2, r6_6, r12_4, r16_4, r20_4, r24_7⟩ := @fields30 s.val 0 1 0 a.val 0 41 (v / 2 ^ 31) (s.isLt) (by decide) (by decide) (by decide) (a.isLt) (by decide) (by decide)
  rw [← hv] at r0_4 r4_2 r6_6 r12_4 r16_4 r20_4 r24_7
  have hm : decodeWord v = decMajor29 v := by unfold decodeWord; rw [r24_7]; rfl
  have hn : decMajor29 v = decWsem v := by unfold decMajor29; rw [r6_6]; rfl
  rw [hm, hn]
  unfold decWsem
  rw [if_pos ⟨r4_2, r12_4, r20_4⟩]
  rw [fin_of_fld (n := 16) (x := a) r16_4, fin_of_fld (n := 16) (x := s) r0_4]
  exact check_ok hw

theorem tsem (d : Fin 16) (a : Fin 16) (s : Fin 16) : Statement (.tsem d a s) := by
  intro hw v he
  have hv : v = dig 4 s.val (dig 2 0 (dig 6 2 (dig 4 0 (dig 4 a.val (dig 4 d.val (dig 7 41 (v / 2 ^ 31))))))) := by
    have h := Option.some.inj he
    unfold put at h
    unfold dig
    omega
  obtain ⟨r0_4, r4_2, r6_6, r12_4, r16_4, r20_4, r24_7⟩ := @fields30 s.val 0 2 0 a.val d.val 41 (v / 2 ^ 31) (s.isLt) (by decide) (by decide) (by decide) (a.isLt) (d.isLt) (by decide)
  rw [← hv] at r0_4 r4_2 r6_6 r12_4 r16_4 r20_4 r24_7
  have hm : decodeWord v = decMajor29 v := by unfold decodeWord; rw [r24_7]; rfl
  have hn : decMajor29 v = decTsem v := by unfold decMajor29; rw [r6_6]; rfl
  rw [hm, hn]
  unfold decTsem
  rw [if_pos ⟨r4_2, r12_4⟩]
  rw [fin_of_fld (n := 16) (x := d) r20_4, fin_of_fld (n := 16) (x := a) r16_4, fin_of_fld (n := 16) (x := s) r0_4]
  exact check_ok hw

theorem asarm (a : Fin 16) (b : Fin 16) (s : Fin 64) : Statement (.asarm a b s) := by
  intro hw v he
  have hv : v = dig 6 s.val (dig 6 0 (dig 4 b.val (dig 4 a.val (dig 4 0 (dig 7 42 (v / 2 ^ 31)))))) := by
    have h := Option.some.inj he
    unfold put at h
    unfold dig
    omega
  obtain ⟨r0_6, r6_6, r12_4, r16_4, r20_4, r24_7⟩ := @fields3 s.val 0 b.val a.val 0 42 (v / 2 ^ 31) (s.isLt) (by decide) (b.isLt) (a.isLt) (by decide) (by decide)
  rw [← hv] at r0_6 r6_6 r12_4 r16_4 r20_4 r24_7
  have hm : decodeWord v = decMajor2A v := by unfold decodeWord; rw [r24_7]; rfl
  have hn : decMajor2A v = decAsarm v := by unfold decMajor2A; rw [r6_6]; rfl
  rw [hm, hn]
  unfold decAsarm
  rw [if_pos r20_4]
  rw [fin_of_fld (n := 16) (x := a) r16_4, fin_of_fld (n := 16) (x := b) r12_4, fin_of_fld (n := 64) (x := s) r0_6]
  exact check_ok hw

theorem aswait (a : Fin 16) (b : Fin 16) (s : Fin 64) : Statement (.aswait a b s) := by
  intro hw v he
  have hv : v = dig 6 s.val (dig 6 1 (dig 4 b.val (dig 4 a.val (dig 4 0 (dig 7 42 (v / 2 ^ 31)))))) := by
    have h := Option.some.inj he
    unfold put at h
    unfold dig
    omega
  obtain ⟨r0_6, r6_6, r12_4, r16_4, r20_4, r24_7⟩ := @fields3 s.val 1 b.val a.val 0 42 (v / 2 ^ 31) (s.isLt) (by decide) (b.isLt) (a.isLt) (by decide) (by decide)
  rw [← hv] at r0_6 r6_6 r12_4 r16_4 r20_4 r24_7
  have hm : decodeWord v = decMajor2A v := by unfold decodeWord; rw [r24_7]; rfl
  have hn : decMajor2A v = decAswait v := by unfold decMajor2A; rw [r6_6]; rfl
  rw [hm, hn]
  unfold decAswait
  rw [if_pos r20_4]
  rw [fin_of_fld (n := 16) (x := a) r16_4, fin_of_fld (n := 16) (x := b) r12_4, fin_of_fld (n := 64) (x := s) r0_6]
  exact check_ok hw

theorem astest (d : Fin 16) (a : Fin 16) (b : Fin 16) (s : Fin 64) : Statement (.astest d a b s) := by
  intro hw v he
  have hv : v = dig 6 s.val (dig 6 2 (dig 4 b.val (dig 4 a.val (dig 4 d.val (dig 7 42 (v / 2 ^ 31)))))) := by
    have h := Option.some.inj he
    unfold put at h
    unfold dig
    omega
  obtain ⟨r0_6, r6_6, r12_4, r16_4, r20_4, r24_7⟩ := @fields3 s.val 2 b.val a.val d.val 42 (v / 2 ^ 31) (s.isLt) (by decide) (b.isLt) (a.isLt) (d.isLt) (by decide)
  rw [← hv] at r0_6 r6_6 r12_4 r16_4 r20_4 r24_7
  have hm : decodeWord v = decMajor2A v := by unfold decodeWord; rw [r24_7]; rfl
  have hn : decMajor2A v = decAstest v := by unfold decMajor2A; rw [r6_6]; rfl
  rw [hm, hn]
  unfold decAstest
  rw [fin_of_fld (n := 16) (x := d) r20_4, fin_of_fld (n := 16) (x := a) r16_4, fin_of_fld (n := 16) (x := b) r12_4, fin_of_fld (n := 64) (x := s) r0_6]
  exact check_ok hw

theorem wlapp (a : Fin 16) (b : Fin 16) (i : Fin 64) : Statement (.wlapp a b i) := by
  intro hw v he
  have hv : v = dig 6 i.val (dig 6 0 (dig 4 b.val (dig 4 a.val (dig 4 0 (dig 7 43 (v / 2 ^ 31)))))) := by
    have h := Option.some.inj he
    unfold put at h
    unfold dig
    omega
  obtain ⟨r0_6, r6_6, r12_4, r16_4, r20_4, r24_7⟩ := @fields3 i.val 0 b.val a.val 0 43 (v / 2 ^ 31) (i.isLt) (by decide) (b.isLt) (a.isLt) (by decide) (by decide)
  rw [← hv] at r0_6 r6_6 r12_4 r16_4 r20_4 r24_7
  have hm : decodeWord v = decMajor2B v := by unfold decodeWord; rw [r24_7]; rfl
  have hn : decMajor2B v = decWlapp v := by unfold decMajor2B; rw [r6_6]; rfl
  rw [hm, hn]
  unfold decWlapp
  rw [if_pos r20_4]
  rw [fin_of_fld (n := 16) (x := a) r16_4, fin_of_fld (n := 16) (x := b) r12_4, fin_of_fld (n := 64) (x := i) r0_6]
  exact check_ok hw

theorem wltake (d : Fin 16) (a : Fin 16) (b : Fin 16) (i : Fin 64) : Statement (.wltake d a b i) := by
  intro hw v he
  have hv : v = dig 6 i.val (dig 6 1 (dig 4 b.val (dig 4 a.val (dig 4 d.val (dig 7 43 (v / 2 ^ 31)))))) := by
    have h := Option.some.inj he
    unfold put at h
    unfold dig
    omega
  obtain ⟨r0_6, r6_6, r12_4, r16_4, r20_4, r24_7⟩ := @fields3 i.val 1 b.val a.val d.val 43 (v / 2 ^ 31) (i.isLt) (by decide) (b.isLt) (a.isLt) (d.isLt) (by decide)
  rw [← hv] at r0_6 r6_6 r12_4 r16_4 r20_4 r24_7
  have hm : decodeWord v = decMajor2B v := by unfold decodeWord; rw [r24_7]; rfl
  have hn : decMajor2B v = decWltake v := by unfold decMajor2B; rw [r6_6]; rfl
  rw [hm, hn]
  unfold decWltake
  rw [fin_of_fld (n := 16) (x := d) r20_4, fin_of_fld (n := 16) (x := a) r16_4, fin_of_fld (n := 16) (x := b) r12_4, fin_of_fld (n := 64) (x := i) r0_6]
  exact check_ok hw

theorem wldone (a : Fin 16) (i : Fin 64) : Statement (.wldone a i) := by
  intro hw v he
  have hv : v = dig 6 i.val (dig 6 2 (dig 4 0 (dig 4 a.val (dig 4 0 (dig 7 43 (v / 2 ^ 31)))))) := by
    have h := Option.some.inj he
    unfold put at h
    unfold dig
    omega
  obtain ⟨r0_6, r6_6, r12_4, r16_4, r20_4, r24_7⟩ := @fields3 i.val 2 0 a.val 0 43 (v / 2 ^ 31) (i.isLt) (by decide) (by decide) (a.isLt) (by decide) (by decide)
  rw [← hv] at r0_6 r6_6 r12_4 r16_4 r20_4 r24_7
  have hm : decodeWord v = decMajor2B v := by unfold decodeWord; rw [r24_7]; rfl
  have hn : decMajor2B v = decWldone v := by unfold decMajor2B; rw [r6_6]; rfl
  rw [hm, hn]
  unfold decWldone
  rw [if_pos ⟨r12_4, r20_4⟩]
  rw [fin_of_fld (n := 16) (x := a) r16_4, fin_of_fld (n := 64) (x := i) r0_6]
  exact check_ok hw

theorem qwait : Statement (.qwait) := by
  intro hw v he
  have hv : v = dig 6 0 (dig 6 3 (dig 12 0 (dig 7 43 (v / 2 ^ 31)))) := by
    have h := Option.some.inj he
    unfold dig
    omega
  obtain ⟨r0_6, r6_6, r12_12, r24_7⟩ := @fields1 0 3 0 43 (v / 2 ^ 31) (by decide) (by decide) (by decide) (by decide)
  rw [← hv] at r0_6 r6_6 r12_12 r24_7
  have hm : decodeWord v = decMajor2B v := by unfold decodeWord; rw [r24_7]; rfl
  have hn : decMajor2B v = decQwait v := by unfold decMajor2B; rw [r6_6]; rfl
  rw [hm, hn]
  unfold decQwait
  rw [if_pos ⟨r0_6, r12_12⟩]
  exact check_ok hw

theorem claim (a : Fin 16) : Statement (.claim a) := by
  intro hw v he
  have hv : v = dig 6 0 (dig 6 0 (dig 4 0 (dig 4 a.val (dig 4 0 (dig 7 44 (v / 2 ^ 31)))))) := by
    have h := Option.some.inj he
    unfold put at h
    unfold dig
    omega
  obtain ⟨r0_6, r6_6, r12_4, r16_4, r20_4, r24_7⟩ := @fields3 0 0 0 a.val 0 44 (v / 2 ^ 31) (by decide) (by decide) (by decide) (a.isLt) (by decide) (by decide)
  rw [← hv] at r0_6 r6_6 r12_4 r16_4 r20_4 r24_7
  have hm : decodeWord v = decMajor2C v := by unfold decodeWord; rw [r24_7]; rfl
  have hn : decMajor2C v = decClaim v := by unfold decMajor2C; rw [r6_6]; rfl
  rw [hm, hn]
  unfold decClaim
  rw [if_pos ⟨r0_6, r12_4, r20_4⟩]
  rw [fin_of_fld (n := 16) (x := a) r16_4]
  exact check_ok hw

theorem acq (d : Fin 16) (a : Fin 16) : Statement (.acq d a) := by
  intro hw v he
  have hv : v = dig 6 0 (dig 6 1 (dig 4 0 (dig 4 a.val (dig 4 d.val (dig 7 44 (v / 2 ^ 31)))))) := by
    have h := Option.some.inj he
    unfold put at h
    unfold dig
    omega
  obtain ⟨r0_6, r6_6, r12_4, r16_4, r20_4, r24_7⟩ := @fields3 0 1 0 a.val d.val 44 (v / 2 ^ 31) (by decide) (by decide) (by decide) (a.isLt) (d.isLt) (by decide)
  rw [← hv] at r0_6 r6_6 r12_4 r16_4 r20_4 r24_7
  have hm : decodeWord v = decMajor2C v := by unfold decodeWord; rw [r24_7]; rfl
  have hn : decMajor2C v = decAcq v := by unfold decMajor2C; rw [r6_6]; rfl
  rw [hm, hn]
  unfold decAcq
  rw [if_pos ⟨r0_6, r12_4⟩]
  rw [fin_of_fld (n := 16) (x := d) r20_4, fin_of_fld (n := 16) (x := a) r16_4]
  exact check_ok hw

theorem acqt (d : Fin 16) (a : Fin 16) : Statement (.acqt d a) := by
  intro hw v he
  have hv : v = dig 6 0 (dig 6 2 (dig 4 0 (dig 4 a.val (dig 4 d.val (dig 7 44 (v / 2 ^ 31)))))) := by
    have h := Option.some.inj he
    unfold put at h
    unfold dig
    omega
  obtain ⟨r0_6, r6_6, r12_4, r16_4, r20_4, r24_7⟩ := @fields3 0 2 0 a.val d.val 44 (v / 2 ^ 31) (by decide) (by decide) (by decide) (a.isLt) (d.isLt) (by decide)
  rw [← hv] at r0_6 r6_6 r12_4 r16_4 r20_4 r24_7
  have hm : decodeWord v = decMajor2C v := by unfold decodeWord; rw [r24_7]; rfl
  have hn : decMajor2C v = decAcqt v := by unfold decMajor2C; rw [r6_6]; rfl
  rw [hm, hn]
  unfold decAcqt
  rw [if_pos ⟨r0_6, r12_4⟩]
  rw [fin_of_fld (n := 16) (x := d) r20_4, fin_of_fld (n := 16) (x := a) r16_4]
  exact check_ok hw

theorem rel (a : Fin 16) : Statement (.rel a) := by
  intro hw v he
  have hv : v = dig 6 0 (dig 6 3 (dig 4 0 (dig 4 a.val (dig 4 0 (dig 7 44 (v / 2 ^ 31)))))) := by
    have h := Option.some.inj he
    unfold put at h
    unfold dig
    omega
  obtain ⟨r0_6, r6_6, r12_4, r16_4, r20_4, r24_7⟩ := @fields3 0 3 0 a.val 0 44 (v / 2 ^ 31) (by decide) (by decide) (by decide) (a.isLt) (by decide) (by decide)
  rw [← hv] at r0_6 r6_6 r12_4 r16_4 r20_4 r24_7
  have hm : decodeWord v = decMajor2C v := by unfold decodeWord; rw [r24_7]; rfl
  have hn : decMajor2C v = decRel v := by unfold decMajor2C; rw [r6_6]; rfl
  rw [hm, hn]
  unfold decRel
  rw [if_pos ⟨r0_6, r12_4, r20_4⟩]
  rw [fin_of_fld (n := 16) (x := a) r16_4]
  exact check_ok hw

theorem relall : Statement (.relall) := by
  intro hw v he
  have hv : v = dig 6 0 (dig 6 4 (dig 12 0 (dig 7 44 (v / 2 ^ 31)))) := by
    have h := Option.some.inj he
    unfold dig
    omega
  obtain ⟨r0_6, r6_6, r12_12, r24_7⟩ := @fields1 0 4 0 44 (v / 2 ^ 31) (by decide) (by decide) (by decide) (by decide)
  rw [← hv] at r0_6 r6_6 r12_12 r24_7
  have hm : decodeWord v = decMajor2C v := by unfold decodeWord; rw [r24_7]; rfl
  have hn : decMajor2C v = decRelall v := by unfold decMajor2C; rw [r6_6]; rfl
  rw [hm, hn]
  unfold decRelall
  rw [if_pos ⟨r0_6, r12_12⟩]
  exact check_ok hw

theorem resq (d : Fin 16) (a : Fin 16) : Statement (.resq d a) := by
  intro hw v he
  have hv : v = dig 6 0 (dig 6 5 (dig 4 0 (dig 4 a.val (dig 4 d.val (dig 7 44 (v / 2 ^ 31)))))) := by
    have h := Option.some.inj he
    unfold put at h
    unfold dig
    omega
  obtain ⟨r0_6, r6_6, r12_4, r16_4, r20_4, r24_7⟩ := @fields3 0 5 0 a.val d.val 44 (v / 2 ^ 31) (by decide) (by decide) (by decide) (a.isLt) (d.isLt) (by decide)
  rw [← hv] at r0_6 r6_6 r12_4 r16_4 r20_4 r24_7
  have hm : decodeWord v = decMajor2C v := by unfold decodeWord; rw [r24_7]; rfl
  have hn : decMajor2C v = decResq v := by unfold decMajor2C; rw [r6_6]; rfl
  rw [hm, hn]
  unfold decResq
  rw [if_pos ⟨r0_6, r12_4⟩]
  rw [fin_of_fld (n := 16) (x := d) r20_4, fin_of_fld (n := 16) (x := a) r16_4]
  exact check_ok hw

theorem add (d : Fin 16) (a : Fin 16) (b : Fin 16) : Statement (.add d a b) := by
  intro hw v he
  have hv : v = dig 6 0 (dig 6 0 (dig 4 b.val (dig 4 a.val (dig 4 d.val (dig 7 64 (v / 2 ^ 31)))))) := by
    have h := Option.some.inj he
    unfold put at h
    unfold dig
    omega
  obtain ⟨r0_6, r6_6, r12_4, r16_4, r20_4, r24_7⟩ := @fields3 0 0 b.val a.val d.val 64 (v / 2 ^ 31) (by decide) (by decide) (b.isLt) (a.isLt) (d.isLt) (by decide)
  rw [← hv] at r0_6 r6_6 r12_4 r16_4 r20_4 r24_7
  have hm : decodeWord v = decMajor40 v := by unfold decodeWord; rw [r24_7]; rfl
  have hn : decMajor40 v = decAdd v := by unfold decMajor40; rw [r6_6]; rfl
  rw [hm, hn]
  unfold decAdd
  rw [if_pos r0_6]
  rw [fin_of_fld (n := 16) (x := d) r20_4, fin_of_fld (n := 16) (x := a) r16_4, fin_of_fld (n := 16) (x := b) r12_4]
  exact check_ok hw

theorem sub (d : Fin 16) (a : Fin 16) (b : Fin 16) : Statement (.sub d a b) := by
  intro hw v he
  have hv : v = dig 6 0 (dig 6 1 (dig 4 b.val (dig 4 a.val (dig 4 d.val (dig 7 64 (v / 2 ^ 31)))))) := by
    have h := Option.some.inj he
    unfold put at h
    unfold dig
    omega
  obtain ⟨r0_6, r6_6, r12_4, r16_4, r20_4, r24_7⟩ := @fields3 0 1 b.val a.val d.val 64 (v / 2 ^ 31) (by decide) (by decide) (b.isLt) (a.isLt) (d.isLt) (by decide)
  rw [← hv] at r0_6 r6_6 r12_4 r16_4 r20_4 r24_7
  have hm : decodeWord v = decMajor40 v := by unfold decodeWord; rw [r24_7]; rfl
  have hn : decMajor40 v = decSub v := by unfold decMajor40; rw [r6_6]; rfl
  rw [hm, hn]
  unfold decSub
  rw [if_pos r0_6]
  rw [fin_of_fld (n := 16) (x := d) r20_4, fin_of_fld (n := 16) (x := a) r16_4, fin_of_fld (n := 16) (x := b) r12_4]
  exact check_ok hw

theorem and_ (d : Fin 16) (a : Fin 16) (b : Fin 16) : Statement (.and_ d a b) := by
  intro hw v he
  have hv : v = dig 6 0 (dig 6 2 (dig 4 b.val (dig 4 a.val (dig 4 d.val (dig 7 64 (v / 2 ^ 31)))))) := by
    have h := Option.some.inj he
    unfold put at h
    unfold dig
    omega
  obtain ⟨r0_6, r6_6, r12_4, r16_4, r20_4, r24_7⟩ := @fields3 0 2 b.val a.val d.val 64 (v / 2 ^ 31) (by decide) (by decide) (b.isLt) (a.isLt) (d.isLt) (by decide)
  rw [← hv] at r0_6 r6_6 r12_4 r16_4 r20_4 r24_7
  have hm : decodeWord v = decMajor40 v := by unfold decodeWord; rw [r24_7]; rfl
  have hn : decMajor40 v = decAnd_ v := by unfold decMajor40; rw [r6_6]; rfl
  rw [hm, hn]
  unfold decAnd_
  rw [if_pos r0_6]
  rw [fin_of_fld (n := 16) (x := d) r20_4, fin_of_fld (n := 16) (x := a) r16_4, fin_of_fld (n := 16) (x := b) r12_4]
  exact check_ok hw

theorem or_ (d : Fin 16) (a : Fin 16) (b : Fin 16) : Statement (.or_ d a b) := by
  intro hw v he
  have hv : v = dig 6 0 (dig 6 3 (dig 4 b.val (dig 4 a.val (dig 4 d.val (dig 7 64 (v / 2 ^ 31)))))) := by
    have h := Option.some.inj he
    unfold put at h
    unfold dig
    omega
  obtain ⟨r0_6, r6_6, r12_4, r16_4, r20_4, r24_7⟩ := @fields3 0 3 b.val a.val d.val 64 (v / 2 ^ 31) (by decide) (by decide) (b.isLt) (a.isLt) (d.isLt) (by decide)
  rw [← hv] at r0_6 r6_6 r12_4 r16_4 r20_4 r24_7
  have hm : decodeWord v = decMajor40 v := by unfold decodeWord; rw [r24_7]; rfl
  have hn : decMajor40 v = decOr_ v := by unfold decMajor40; rw [r6_6]; rfl
  rw [hm, hn]
  unfold decOr_
  rw [if_pos r0_6]
  rw [fin_of_fld (n := 16) (x := d) r20_4, fin_of_fld (n := 16) (x := a) r16_4, fin_of_fld (n := 16) (x := b) r12_4]
  exact check_ok hw

theorem xor (d : Fin 16) (a : Fin 16) (b : Fin 16) : Statement (.xor d a b) := by
  intro hw v he
  have hv : v = dig 6 0 (dig 6 4 (dig 4 b.val (dig 4 a.val (dig 4 d.val (dig 7 64 (v / 2 ^ 31)))))) := by
    have h := Option.some.inj he
    unfold put at h
    unfold dig
    omega
  obtain ⟨r0_6, r6_6, r12_4, r16_4, r20_4, r24_7⟩ := @fields3 0 4 b.val a.val d.val 64 (v / 2 ^ 31) (by decide) (by decide) (b.isLt) (a.isLt) (d.isLt) (by decide)
  rw [← hv] at r0_6 r6_6 r12_4 r16_4 r20_4 r24_7
  have hm : decodeWord v = decMajor40 v := by unfold decodeWord; rw [r24_7]; rfl
  have hn : decMajor40 v = decXor v := by unfold decMajor40; rw [r6_6]; rfl
  rw [hm, hn]
  unfold decXor
  rw [if_pos r0_6]
  rw [fin_of_fld (n := 16) (x := d) r20_4, fin_of_fld (n := 16) (x := a) r16_4, fin_of_fld (n := 16) (x := b) r12_4]
  exact check_ok hw

theorem andn (d : Fin 16) (a : Fin 16) (b : Fin 16) : Statement (.andn d a b) := by
  intro hw v he
  have hv : v = dig 6 0 (dig 6 5 (dig 4 b.val (dig 4 a.val (dig 4 d.val (dig 7 64 (v / 2 ^ 31)))))) := by
    have h := Option.some.inj he
    unfold put at h
    unfold dig
    omega
  obtain ⟨r0_6, r6_6, r12_4, r16_4, r20_4, r24_7⟩ := @fields3 0 5 b.val a.val d.val 64 (v / 2 ^ 31) (by decide) (by decide) (b.isLt) (a.isLt) (d.isLt) (by decide)
  rw [← hv] at r0_6 r6_6 r12_4 r16_4 r20_4 r24_7
  have hm : decodeWord v = decMajor40 v := by unfold decodeWord; rw [r24_7]; rfl
  have hn : decMajor40 v = decAndn v := by unfold decMajor40; rw [r6_6]; rfl
  rw [hm, hn]
  unfold decAndn
  rw [if_pos r0_6]
  rw [fin_of_fld (n := 16) (x := d) r20_4, fin_of_fld (n := 16) (x := a) r16_4, fin_of_fld (n := 16) (x := b) r12_4]
  exact check_ok hw

theorem shl (d : Fin 16) (a : Fin 16) (b : Fin 16) : Statement (.shl d a b) := by
  intro hw v he
  have hv : v = dig 6 0 (dig 6 6 (dig 4 b.val (dig 4 a.val (dig 4 d.val (dig 7 64 (v / 2 ^ 31)))))) := by
    have h := Option.some.inj he
    unfold put at h
    unfold dig
    omega
  obtain ⟨r0_6, r6_6, r12_4, r16_4, r20_4, r24_7⟩ := @fields3 0 6 b.val a.val d.val 64 (v / 2 ^ 31) (by decide) (by decide) (b.isLt) (a.isLt) (d.isLt) (by decide)
  rw [← hv] at r0_6 r6_6 r12_4 r16_4 r20_4 r24_7
  have hm : decodeWord v = decMajor40 v := by unfold decodeWord; rw [r24_7]; rfl
  have hn : decMajor40 v = decShl v := by unfold decMajor40; rw [r6_6]; rfl
  rw [hm, hn]
  unfold decShl
  rw [if_pos r0_6]
  rw [fin_of_fld (n := 16) (x := d) r20_4, fin_of_fld (n := 16) (x := a) r16_4, fin_of_fld (n := 16) (x := b) r12_4]
  exact check_ok hw

theorem shr (d : Fin 16) (a : Fin 16) (b : Fin 16) : Statement (.shr d a b) := by
  intro hw v he
  have hv : v = dig 6 0 (dig 6 7 (dig 4 b.val (dig 4 a.val (dig 4 d.val (dig 7 64 (v / 2 ^ 31)))))) := by
    have h := Option.some.inj he
    unfold put at h
    unfold dig
    omega
  obtain ⟨r0_6, r6_6, r12_4, r16_4, r20_4, r24_7⟩ := @fields3 0 7 b.val a.val d.val 64 (v / 2 ^ 31) (by decide) (by decide) (b.isLt) (a.isLt) (d.isLt) (by decide)
  rw [← hv] at r0_6 r6_6 r12_4 r16_4 r20_4 r24_7
  have hm : decodeWord v = decMajor40 v := by unfold decodeWord; rw [r24_7]; rfl
  have hn : decMajor40 v = decShr v := by unfold decMajor40; rw [r6_6]; rfl
  rw [hm, hn]
  unfold decShr
  rw [if_pos r0_6]
  rw [fin_of_fld (n := 16) (x := d) r20_4, fin_of_fld (n := 16) (x := a) r16_4, fin_of_fld (n := 16) (x := b) r12_4]
  exact check_ok hw

theorem shra (d : Fin 16) (a : Fin 16) (b : Fin 16) : Statement (.shra d a b) := by
  intro hw v he
  have hv : v = dig 6 0 (dig 6 8 (dig 4 b.val (dig 4 a.val (dig 4 d.val (dig 7 64 (v / 2 ^ 31)))))) := by
    have h := Option.some.inj he
    unfold put at h
    unfold dig
    omega
  obtain ⟨r0_6, r6_6, r12_4, r16_4, r20_4, r24_7⟩ := @fields3 0 8 b.val a.val d.val 64 (v / 2 ^ 31) (by decide) (by decide) (b.isLt) (a.isLt) (d.isLt) (by decide)
  rw [← hv] at r0_6 r6_6 r12_4 r16_4 r20_4 r24_7
  have hm : decodeWord v = decMajor40 v := by unfold decodeWord; rw [r24_7]; rfl
  have hn : decMajor40 v = decShra v := by unfold decMajor40; rw [r6_6]; rfl
  rw [hm, hn]
  unfold decShra
  rw [if_pos r0_6]
  rw [fin_of_fld (n := 16) (x := d) r20_4, fin_of_fld (n := 16) (x := a) r16_4, fin_of_fld (n := 16) (x := b) r12_4]
  exact check_ok hw

theorem rotl (d : Fin 16) (a : Fin 16) (b : Fin 16) : Statement (.rotl d a b) := by
  intro hw v he
  have hv : v = dig 6 0 (dig 6 9 (dig 4 b.val (dig 4 a.val (dig 4 d.val (dig 7 64 (v / 2 ^ 31)))))) := by
    have h := Option.some.inj he
    unfold put at h
    unfold dig
    omega
  obtain ⟨r0_6, r6_6, r12_4, r16_4, r20_4, r24_7⟩ := @fields3 0 9 b.val a.val d.val 64 (v / 2 ^ 31) (by decide) (by decide) (b.isLt) (a.isLt) (d.isLt) (by decide)
  rw [← hv] at r0_6 r6_6 r12_4 r16_4 r20_4 r24_7
  have hm : decodeWord v = decMajor40 v := by unfold decodeWord; rw [r24_7]; rfl
  have hn : decMajor40 v = decRotl v := by unfold decMajor40; rw [r6_6]; rfl
  rw [hm, hn]
  unfold decRotl
  rw [if_pos r0_6]
  rw [fin_of_fld (n := 16) (x := d) r20_4, fin_of_fld (n := 16) (x := a) r16_4, fin_of_fld (n := 16) (x := b) r12_4]
  exact check_ok hw

theorem min (d : Fin 16) (a : Fin 16) (b : Fin 16) : Statement (.min d a b) := by
  intro hw v he
  have hv : v = dig 6 0 (dig 6 10 (dig 4 b.val (dig 4 a.val (dig 4 d.val (dig 7 64 (v / 2 ^ 31)))))) := by
    have h := Option.some.inj he
    unfold put at h
    unfold dig
    omega
  obtain ⟨r0_6, r6_6, r12_4, r16_4, r20_4, r24_7⟩ := @fields3 0 10 b.val a.val d.val 64 (v / 2 ^ 31) (by decide) (by decide) (b.isLt) (a.isLt) (d.isLt) (by decide)
  rw [← hv] at r0_6 r6_6 r12_4 r16_4 r20_4 r24_7
  have hm : decodeWord v = decMajor40 v := by unfold decodeWord; rw [r24_7]; rfl
  have hn : decMajor40 v = decMin v := by unfold decMajor40; rw [r6_6]; rfl
  rw [hm, hn]
  unfold decMin
  rw [if_pos r0_6]
  rw [fin_of_fld (n := 16) (x := d) r20_4, fin_of_fld (n := 16) (x := a) r16_4, fin_of_fld (n := 16) (x := b) r12_4]
  exact check_ok hw

theorem max (d : Fin 16) (a : Fin 16) (b : Fin 16) : Statement (.max d a b) := by
  intro hw v he
  have hv : v = dig 6 0 (dig 6 11 (dig 4 b.val (dig 4 a.val (dig 4 d.val (dig 7 64 (v / 2 ^ 31)))))) := by
    have h := Option.some.inj he
    unfold put at h
    unfold dig
    omega
  obtain ⟨r0_6, r6_6, r12_4, r16_4, r20_4, r24_7⟩ := @fields3 0 11 b.val a.val d.val 64 (v / 2 ^ 31) (by decide) (by decide) (b.isLt) (a.isLt) (d.isLt) (by decide)
  rw [← hv] at r0_6 r6_6 r12_4 r16_4 r20_4 r24_7
  have hm : decodeWord v = decMajor40 v := by unfold decodeWord; rw [r24_7]; rfl
  have hn : decMajor40 v = decMax v := by unfold decMajor40; rw [r6_6]; rfl
  rw [hm, hn]
  unfold decMax
  rw [if_pos r0_6]
  rw [fin_of_fld (n := 16) (x := d) r20_4, fin_of_fld (n := 16) (x := a) r16_4, fin_of_fld (n := 16) (x := b) r12_4]
  exact check_ok hw

theorem minn (d : Fin 16) (a : Fin 16) (b : Fin 16) : Statement (.minn d a b) := by
  intro hw v he
  have hv : v = dig 6 0 (dig 6 12 (dig 4 b.val (dig 4 a.val (dig 4 d.val (dig 7 64 (v / 2 ^ 31)))))) := by
    have h := Option.some.inj he
    unfold put at h
    unfold dig
    omega
  obtain ⟨r0_6, r6_6, r12_4, r16_4, r20_4, r24_7⟩ := @fields3 0 12 b.val a.val d.val 64 (v / 2 ^ 31) (by decide) (by decide) (b.isLt) (a.isLt) (d.isLt) (by decide)
  rw [← hv] at r0_6 r6_6 r12_4 r16_4 r20_4 r24_7
  have hm : decodeWord v = decMajor40 v := by unfold decodeWord; rw [r24_7]; rfl
  have hn : decMajor40 v = decMinn v := by unfold decMajor40; rw [r6_6]; rfl
  rw [hm, hn]
  unfold decMinn
  rw [if_pos r0_6]
  rw [fin_of_fld (n := 16) (x := d) r20_4, fin_of_fld (n := 16) (x := a) r16_4, fin_of_fld (n := 16) (x := b) r12_4]
  exact check_ok hw

theorem maxn (d : Fin 16) (a : Fin 16) (b : Fin 16) : Statement (.maxn d a b) := by
  intro hw v he
  have hv : v = dig 6 0 (dig 6 13 (dig 4 b.val (dig 4 a.val (dig 4 d.val (dig 7 64 (v / 2 ^ 31)))))) := by
    have h := Option.some.inj he
    unfold put at h
    unfold dig
    omega
  obtain ⟨r0_6, r6_6, r12_4, r16_4, r20_4, r24_7⟩ := @fields3 0 13 b.val a.val d.val 64 (v / 2 ^ 31) (by decide) (by decide) (b.isLt) (a.isLt) (d.isLt) (by decide)
  rw [← hv] at r0_6 r6_6 r12_4 r16_4 r20_4 r24_7
  have hm : decodeWord v = decMajor40 v := by unfold decodeWord; rw [r24_7]; rfl
  have hn : decMajor40 v = decMaxn v := by unfold decMajor40; rw [r6_6]; rfl
  rw [hm, hn]
  unfold decMaxn
  rw [if_pos r0_6]
  rw [fin_of_fld (n := 16) (x := d) r20_4, fin_of_fld (n := 16) (x := a) r16_4, fin_of_fld (n := 16) (x := b) r12_4]
  exact check_ok hw

theorem seq (d : Fin 16) (a : Fin 16) (b : Fin 16) : Statement (.seq d a b) := by
  intro hw v he
  have hv : v = dig 6 0 (dig 6 14 (dig 4 b.val (dig 4 a.val (dig 4 d.val (dig 7 64 (v / 2 ^ 31)))))) := by
    have h := Option.some.inj he
    unfold put at h
    unfold dig
    omega
  obtain ⟨r0_6, r6_6, r12_4, r16_4, r20_4, r24_7⟩ := @fields3 0 14 b.val a.val d.val 64 (v / 2 ^ 31) (by decide) (by decide) (b.isLt) (a.isLt) (d.isLt) (by decide)
  rw [← hv] at r0_6 r6_6 r12_4 r16_4 r20_4 r24_7
  have hm : decodeWord v = decMajor40 v := by unfold decodeWord; rw [r24_7]; rfl
  have hn : decMajor40 v = decSeq v := by unfold decMajor40; rw [r6_6]; rfl
  rw [hm, hn]
  unfold decSeq
  rw [if_pos r0_6]
  rw [fin_of_fld (n := 16) (x := d) r20_4, fin_of_fld (n := 16) (x := a) r16_4, fin_of_fld (n := 16) (x := b) r12_4]
  exact check_ok hw

theorem sne (d : Fin 16) (a : Fin 16) (b : Fin 16) : Statement (.sne d a b) := by
  intro hw v he
  have hv : v = dig 6 0 (dig 6 15 (dig 4 b.val (dig 4 a.val (dig 4 d.val (dig 7 64 (v / 2 ^ 31)))))) := by
    have h := Option.some.inj he
    unfold put at h
    unfold dig
    omega
  obtain ⟨r0_6, r6_6, r12_4, r16_4, r20_4, r24_7⟩ := @fields3 0 15 b.val a.val d.val 64 (v / 2 ^ 31) (by decide) (by decide) (b.isLt) (a.isLt) (d.isLt) (by decide)
  rw [← hv] at r0_6 r6_6 r12_4 r16_4 r20_4 r24_7
  have hm : decodeWord v = decMajor40 v := by unfold decodeWord; rw [r24_7]; rfl
  have hn : decMajor40 v = decSne v := by unfold decMajor40; rw [r6_6]; rfl
  rw [hm, hn]
  unfold decSne
  rw [if_pos r0_6]
  rw [fin_of_fld (n := 16) (x := d) r20_4, fin_of_fld (n := 16) (x := a) r16_4, fin_of_fld (n := 16) (x := b) r12_4]
  exact check_ok hw

theorem slt (d : Fin 16) (a : Fin 16) (b : Fin 16) : Statement (.slt d a b) := by
  intro hw v he
  have hv : v = dig 6 0 (dig 6 16 (dig 4 b.val (dig 4 a.val (dig 4 d.val (dig 7 64 (v / 2 ^ 31)))))) := by
    have h := Option.some.inj he
    unfold put at h
    unfold dig
    omega
  obtain ⟨r0_6, r6_6, r12_4, r16_4, r20_4, r24_7⟩ := @fields3 0 16 b.val a.val d.val 64 (v / 2 ^ 31) (by decide) (by decide) (b.isLt) (a.isLt) (d.isLt) (by decide)
  rw [← hv] at r0_6 r6_6 r12_4 r16_4 r20_4 r24_7
  have hm : decodeWord v = decMajor40 v := by unfold decodeWord; rw [r24_7]; rfl
  have hn : decMajor40 v = decSlt v := by unfold decMajor40; rw [r6_6]; rfl
  rw [hm, hn]
  unfold decSlt
  rw [if_pos r0_6]
  rw [fin_of_fld (n := 16) (x := d) r20_4, fin_of_fld (n := 16) (x := a) r16_4, fin_of_fld (n := 16) (x := b) r12_4]
  exact check_ok hw

theorem sltn (d : Fin 16) (a : Fin 16) (b : Fin 16) : Statement (.sltn d a b) := by
  intro hw v he
  have hv : v = dig 6 0 (dig 6 17 (dig 4 b.val (dig 4 a.val (dig 4 d.val (dig 7 64 (v / 2 ^ 31)))))) := by
    have h := Option.some.inj he
    unfold put at h
    unfold dig
    omega
  obtain ⟨r0_6, r6_6, r12_4, r16_4, r20_4, r24_7⟩ := @fields3 0 17 b.val a.val d.val 64 (v / 2 ^ 31) (by decide) (by decide) (b.isLt) (a.isLt) (d.isLt) (by decide)
  rw [← hv] at r0_6 r6_6 r12_4 r16_4 r20_4 r24_7
  have hm : decodeWord v = decMajor40 v := by unfold decodeWord; rw [r24_7]; rfl
  have hn : decMajor40 v = decSltn v := by unfold decMajor40; rw [r6_6]; rfl
  rw [hm, hn]
  unfold decSltn
  rw [if_pos r0_6]
  rw [fin_of_fld (n := 16) (x := d) r20_4, fin_of_fld (n := 16) (x := a) r16_4, fin_of_fld (n := 16) (x := b) r12_4]
  exact check_ok hw

theorem sel (d : Fin 16) (a : Fin 16) (b : Fin 16) (c : Fin 16) : Statement (.sel d a b c) := by
  intro hw v he
  have hv : v = dig 4 c.val (dig 2 0 (dig 6 18 (dig 4 b.val (dig 4 a.val (dig 4 d.val (dig 7 64 (v / 2 ^ 31))))))) := by
    have h := Option.some.inj he
    unfold put at h
    unfold dig
    omega
  obtain ⟨r0_4, r4_2, r6_6, r12_4, r16_4, r20_4, r24_7⟩ := @fields30 c.val 0 18 b.val a.val d.val 64 (v / 2 ^ 31) (c.isLt) (by decide) (by decide) (b.isLt) (a.isLt) (d.isLt) (by decide)
  rw [← hv] at r0_4 r4_2 r6_6 r12_4 r16_4 r20_4 r24_7
  have hm : decodeWord v = decMajor40 v := by unfold decodeWord; rw [r24_7]; rfl
  have hn : decMajor40 v = decSel v := by unfold decMajor40; rw [r6_6]; rfl
  rw [hm, hn]
  unfold decSel
  rw [if_pos r4_2]
  rw [fin_of_fld (n := 16) (x := d) r20_4, fin_of_fld (n := 16) (x := a) r16_4, fin_of_fld (n := 16) (x := b) r12_4, fin_of_fld (n := 16) (x := c) r0_4]
  exact check_ok hw

theorem clz (d : Fin 16) (a : Fin 16) : Statement (.clz d a) := by
  intro hw v he
  have hv : v = dig 6 0 (dig 6 19 (dig 4 0 (dig 4 a.val (dig 4 d.val (dig 7 64 (v / 2 ^ 31)))))) := by
    have h := Option.some.inj he
    unfold put at h
    unfold dig
    omega
  obtain ⟨r0_6, r6_6, r12_4, r16_4, r20_4, r24_7⟩ := @fields3 0 19 0 a.val d.val 64 (v / 2 ^ 31) (by decide) (by decide) (by decide) (a.isLt) (d.isLt) (by decide)
  rw [← hv] at r0_6 r6_6 r12_4 r16_4 r20_4 r24_7
  have hm : decodeWord v = decMajor40 v := by unfold decodeWord; rw [r24_7]; rfl
  have hn : decMajor40 v = decClz v := by unfold decMajor40; rw [r6_6]; rfl
  rw [hm, hn]
  unfold decClz
  rw [if_pos ⟨r0_6, r12_4⟩]
  rw [fin_of_fld (n := 16) (x := d) r20_4, fin_of_fld (n := 16) (x := a) r16_4]
  exact check_ok hw

theorem ctz (d : Fin 16) (a : Fin 16) : Statement (.ctz d a) := by
  intro hw v he
  have hv : v = dig 6 0 (dig 6 20 (dig 4 0 (dig 4 a.val (dig 4 d.val (dig 7 64 (v / 2 ^ 31)))))) := by
    have h := Option.some.inj he
    unfold put at h
    unfold dig
    omega
  obtain ⟨r0_6, r6_6, r12_4, r16_4, r20_4, r24_7⟩ := @fields3 0 20 0 a.val d.val 64 (v / 2 ^ 31) (by decide) (by decide) (by decide) (a.isLt) (d.isLt) (by decide)
  rw [← hv] at r0_6 r6_6 r12_4 r16_4 r20_4 r24_7
  have hm : decodeWord v = decMajor40 v := by unfold decodeWord; rw [r24_7]; rfl
  have hn : decMajor40 v = decCtz v := by unfold decMajor40; rw [r6_6]; rfl
  rw [hm, hn]
  unfold decCtz
  rw [if_pos ⟨r0_6, r12_4⟩]
  rw [fin_of_fld (n := 16) (x := d) r20_4, fin_of_fld (n := 16) (x := a) r16_4]
  exact check_ok hw

theorem popc (d : Fin 16) (a : Fin 16) : Statement (.popc d a) := by
  intro hw v he
  have hv : v = dig 6 0 (dig 6 21 (dig 4 0 (dig 4 a.val (dig 4 d.val (dig 7 64 (v / 2 ^ 31)))))) := by
    have h := Option.some.inj he
    unfold put at h
    unfold dig
    omega
  obtain ⟨r0_6, r6_6, r12_4, r16_4, r20_4, r24_7⟩ := @fields3 0 21 0 a.val d.val 64 (v / 2 ^ 31) (by decide) (by decide) (by decide) (a.isLt) (d.isLt) (by decide)
  rw [← hv] at r0_6 r6_6 r12_4 r16_4 r20_4 r24_7
  have hm : decodeWord v = decMajor40 v := by unfold decodeWord; rw [r24_7]; rfl
  have hn : decMajor40 v = decPopc v := by unfold decMajor40; rw [r6_6]; rfl
  rw [hm, hn]
  unfold decPopc
  rw [if_pos ⟨r0_6, r12_4⟩]
  rw [fin_of_fld (n := 16) (x := d) r20_4, fin_of_fld (n := 16) (x := a) r16_4]
  exact check_ok hw

theorem mov (d : Fin 16) (a : Fin 16) : Statement (.mov d a) := by
  intro hw v he
  have hv : v = dig 6 0 (dig 6 22 (dig 4 0 (dig 4 a.val (dig 4 d.val (dig 7 64 (v / 2 ^ 31)))))) := by
    have h := Option.some.inj he
    unfold put at h
    unfold dig
    omega
  obtain ⟨r0_6, r6_6, r12_4, r16_4, r20_4, r24_7⟩ := @fields3 0 22 0 a.val d.val 64 (v / 2 ^ 31) (by decide) (by decide) (by decide) (a.isLt) (d.isLt) (by decide)
  rw [← hv] at r0_6 r6_6 r12_4 r16_4 r20_4 r24_7
  have hm : decodeWord v = decMajor40 v := by unfold decodeWord; rw [r24_7]; rfl
  have hn : decMajor40 v = decMov v := by unfold decMajor40; rw [r6_6]; rfl
  rw [hm, hn]
  unfold decMov
  rw [if_pos ⟨r0_6, r12_4⟩]
  rw [fin_of_fld (n := 16) (x := d) r20_4, fin_of_fld (n := 16) (x := a) r16_4]
  exact check_ok hw

theorem mul (d : Fin 16) (a : Fin 16) (b : Fin 16) : Statement (.mul d a b) := by
  intro hw v he
  have hv : v = dig 6 0 (dig 6 0 (dig 4 b.val (dig 4 a.val (dig 4 d.val (dig 7 65 (v / 2 ^ 31)))))) := by
    have h := Option.some.inj he
    unfold put at h
    unfold dig
    omega
  obtain ⟨r0_6, r6_6, r12_4, r16_4, r20_4, r24_7⟩ := @fields3 0 0 b.val a.val d.val 65 (v / 2 ^ 31) (by decide) (by decide) (b.isLt) (a.isLt) (d.isLt) (by decide)
  rw [← hv] at r0_6 r6_6 r12_4 r16_4 r20_4 r24_7
  have hm : decodeWord v = decMajor41 v := by unfold decodeWord; rw [r24_7]; rfl
  have hn : decMajor41 v = decMul v := by unfold decMajor41; rw [r6_6]; rfl
  rw [hm, hn]
  unfold decMul
  rw [if_pos r0_6]
  rw [fin_of_fld (n := 16) (x := d) r20_4, fin_of_fld (n := 16) (x := a) r16_4, fin_of_fld (n := 16) (x := b) r12_4]
  exact check_ok hw

theorem mulh (d : Fin 16) (a : Fin 16) (b : Fin 16) : Statement (.mulh d a b) := by
  intro hw v he
  have hv : v = dig 6 0 (dig 6 1 (dig 4 b.val (dig 4 a.val (dig 4 d.val (dig 7 65 (v / 2 ^ 31)))))) := by
    have h := Option.some.inj he
    unfold put at h
    unfold dig
    omega
  obtain ⟨r0_6, r6_6, r12_4, r16_4, r20_4, r24_7⟩ := @fields3 0 1 b.val a.val d.val 65 (v / 2 ^ 31) (by decide) (by decide) (b.isLt) (a.isLt) (d.isLt) (by decide)
  rw [← hv] at r0_6 r6_6 r12_4 r16_4 r20_4 r24_7
  have hm : decodeWord v = decMajor41 v := by unfold decodeWord; rw [r24_7]; rfl
  have hn : decMajor41 v = decMulh v := by unfold decMajor41; rw [r6_6]; rfl
  rw [hm, hn]
  unfold decMulh
  rw [if_pos r0_6]
  rw [fin_of_fld (n := 16) (x := d) r20_4, fin_of_fld (n := 16) (x := a) r16_4, fin_of_fld (n := 16) (x := b) r12_4]
  exact check_ok hw

theorem mulhn (d : Fin 16) (a : Fin 16) (b : Fin 16) : Statement (.mulhn d a b) := by
  intro hw v he
  have hv : v = dig 6 0 (dig 6 2 (dig 4 b.val (dig 4 a.val (dig 4 d.val (dig 7 65 (v / 2 ^ 31)))))) := by
    have h := Option.some.inj he
    unfold put at h
    unfold dig
    omega
  obtain ⟨r0_6, r6_6, r12_4, r16_4, r20_4, r24_7⟩ := @fields3 0 2 b.val a.val d.val 65 (v / 2 ^ 31) (by decide) (by decide) (b.isLt) (a.isLt) (d.isLt) (by decide)
  rw [← hv] at r0_6 r6_6 r12_4 r16_4 r20_4 r24_7
  have hm : decodeWord v = decMajor41 v := by unfold decodeWord; rw [r24_7]; rfl
  have hn : decMajor41 v = decMulhn v := by unfold decMajor41; rw [r6_6]; rfl
  rw [hm, hn]
  unfold decMulhn
  rw [if_pos r0_6]
  rw [fin_of_fld (n := 16) (x := d) r20_4, fin_of_fld (n := 16) (x := a) r16_4, fin_of_fld (n := 16) (x := b) r12_4]
  exact check_ok hw

theorem div (d : Fin 16) (a : Fin 16) (b : Fin 16) : Statement (.div d a b) := by
  intro hw v he
  have hv : v = dig 6 0 (dig 6 3 (dig 4 b.val (dig 4 a.val (dig 4 d.val (dig 7 65 (v / 2 ^ 31)))))) := by
    have h := Option.some.inj he
    unfold put at h
    unfold dig
    omega
  obtain ⟨r0_6, r6_6, r12_4, r16_4, r20_4, r24_7⟩ := @fields3 0 3 b.val a.val d.val 65 (v / 2 ^ 31) (by decide) (by decide) (b.isLt) (a.isLt) (d.isLt) (by decide)
  rw [← hv] at r0_6 r6_6 r12_4 r16_4 r20_4 r24_7
  have hm : decodeWord v = decMajor41 v := by unfold decodeWord; rw [r24_7]; rfl
  have hn : decMajor41 v = decDiv v := by unfold decMajor41; rw [r6_6]; rfl
  rw [hm, hn]
  unfold decDiv
  rw [if_pos r0_6]
  rw [fin_of_fld (n := 16) (x := d) r20_4, fin_of_fld (n := 16) (x := a) r16_4, fin_of_fld (n := 16) (x := b) r12_4]
  exact check_ok hw

theorem divn (d : Fin 16) (a : Fin 16) (b : Fin 16) : Statement (.divn d a b) := by
  intro hw v he
  have hv : v = dig 6 0 (dig 6 4 (dig 4 b.val (dig 4 a.val (dig 4 d.val (dig 7 65 (v / 2 ^ 31)))))) := by
    have h := Option.some.inj he
    unfold put at h
    unfold dig
    omega
  obtain ⟨r0_6, r6_6, r12_4, r16_4, r20_4, r24_7⟩ := @fields3 0 4 b.val a.val d.val 65 (v / 2 ^ 31) (by decide) (by decide) (b.isLt) (a.isLt) (d.isLt) (by decide)
  rw [← hv] at r0_6 r6_6 r12_4 r16_4 r20_4 r24_7
  have hm : decodeWord v = decMajor41 v := by unfold decodeWord; rw [r24_7]; rfl
  have hn : decMajor41 v = decDivn v := by unfold decMajor41; rw [r6_6]; rfl
  rw [hm, hn]
  unfold decDivn
  rw [if_pos r0_6]
  rw [fin_of_fld (n := 16) (x := d) r20_4, fin_of_fld (n := 16) (x := a) r16_4, fin_of_fld (n := 16) (x := b) r12_4]
  exact check_ok hw

theorem rem (d : Fin 16) (a : Fin 16) (b : Fin 16) : Statement (.rem d a b) := by
  intro hw v he
  have hv : v = dig 6 0 (dig 6 5 (dig 4 b.val (dig 4 a.val (dig 4 d.val (dig 7 65 (v / 2 ^ 31)))))) := by
    have h := Option.some.inj he
    unfold put at h
    unfold dig
    omega
  obtain ⟨r0_6, r6_6, r12_4, r16_4, r20_4, r24_7⟩ := @fields3 0 5 b.val a.val d.val 65 (v / 2 ^ 31) (by decide) (by decide) (b.isLt) (a.isLt) (d.isLt) (by decide)
  rw [← hv] at r0_6 r6_6 r12_4 r16_4 r20_4 r24_7
  have hm : decodeWord v = decMajor41 v := by unfold decodeWord; rw [r24_7]; rfl
  have hn : decMajor41 v = decRem v := by unfold decMajor41; rw [r6_6]; rfl
  rw [hm, hn]
  unfold decRem
  rw [if_pos r0_6]
  rw [fin_of_fld (n := 16) (x := d) r20_4, fin_of_fld (n := 16) (x := a) r16_4, fin_of_fld (n := 16) (x := b) r12_4]
  exact check_ok hw

theorem remn (d : Fin 16) (a : Fin 16) (b : Fin 16) : Statement (.remn d a b) := by
  intro hw v he
  have hv : v = dig 6 0 (dig 6 6 (dig 4 b.val (dig 4 a.val (dig 4 d.val (dig 7 65 (v / 2 ^ 31)))))) := by
    have h := Option.some.inj he
    unfold put at h
    unfold dig
    omega
  obtain ⟨r0_6, r6_6, r12_4, r16_4, r20_4, r24_7⟩ := @fields3 0 6 b.val a.val d.val 65 (v / 2 ^ 31) (by decide) (by decide) (b.isLt) (a.isLt) (d.isLt) (by decide)
  rw [← hv] at r0_6 r6_6 r12_4 r16_4 r20_4 r24_7
  have hm : decodeWord v = decMajor41 v := by unfold decodeWord; rw [r24_7]; rfl
  have hn : decMajor41 v = decRemn v := by unfold decMajor41; rw [r6_6]; rfl
  rw [hm, hn]
  unfold decRemn
  rw [if_pos r0_6]
  rw [fin_of_fld (n := 16) (x := d) r20_4, fin_of_fld (n := 16) (x := a) r16_4, fin_of_fld (n := 16) (x := b) r12_4]
  exact check_ok hw

theorem addi (d : Fin 16) (a : Fin 16) (i : Fin 65536) : Statement (.addi d a i) := by
  intro hw v he
  have hv : v = dig 16 i.val (dig 4 a.val (dig 4 d.val (dig 7 66 (v / 2 ^ 31)))) := by
    have h := Option.some.inj he
    unfold put at h
    unfold dig
    omega
  obtain ⟨r0_16, r16_4, r20_4, r24_7⟩ := @fields11 i.val a.val d.val 66 (v / 2 ^ 31) (i.isLt) (a.isLt) (d.isLt) (by decide)
  rw [← hv] at r0_16 r16_4 r20_4 r24_7
  have hm : decodeWord v = decAddi v := by unfold decodeWord; rw [r24_7]; rfl
  rw [hm]
  unfold decAddi
  rw [fin_of_fld (n := 16) (x := d) r20_4, fin_of_fld (n := 16) (x := a) r16_4, fin_of_fld (n := 65536) (x := i) r0_16]
  exact check_ok hw

theorem andi (d : Fin 16) (a : Fin 16) (i : Fin 65536) : Statement (.andi d a i) := by
  intro hw v he
  have hv : v = dig 16 i.val (dig 4 a.val (dig 4 d.val (dig 7 67 (v / 2 ^ 31)))) := by
    have h := Option.some.inj he
    unfold put at h
    unfold dig
    omega
  obtain ⟨r0_16, r16_4, r20_4, r24_7⟩ := @fields11 i.val a.val d.val 67 (v / 2 ^ 31) (i.isLt) (a.isLt) (d.isLt) (by decide)
  rw [← hv] at r0_16 r16_4 r20_4 r24_7
  have hm : decodeWord v = decAndi v := by unfold decodeWord; rw [r24_7]; rfl
  rw [hm]
  unfold decAndi
  rw [fin_of_fld (n := 16) (x := d) r20_4, fin_of_fld (n := 16) (x := a) r16_4, fin_of_fld (n := 65536) (x := i) r0_16]
  exact check_ok hw

theorem ori (d : Fin 16) (a : Fin 16) (i : Fin 65536) : Statement (.ori d a i) := by
  intro hw v he
  have hv : v = dig 16 i.val (dig 4 a.val (dig 4 d.val (dig 7 68 (v / 2 ^ 31)))) := by
    have h := Option.some.inj he
    unfold put at h
    unfold dig
    omega
  obtain ⟨r0_16, r16_4, r20_4, r24_7⟩ := @fields11 i.val a.val d.val 68 (v / 2 ^ 31) (i.isLt) (a.isLt) (d.isLt) (by decide)
  rw [← hv] at r0_16 r16_4 r20_4 r24_7
  have hm : decodeWord v = decOri v := by unfold decodeWord; rw [r24_7]; rfl
  rw [hm]
  unfold decOri
  rw [fin_of_fld (n := 16) (x := d) r20_4, fin_of_fld (n := 16) (x := a) r16_4, fin_of_fld (n := 65536) (x := i) r0_16]
  exact check_ok hw

theorem xori (d : Fin 16) (a : Fin 16) (i : Fin 65536) : Statement (.xori d a i) := by
  intro hw v he
  have hv : v = dig 16 i.val (dig 4 a.val (dig 4 d.val (dig 7 69 (v / 2 ^ 31)))) := by
    have h := Option.some.inj he
    unfold put at h
    unfold dig
    omega
  obtain ⟨r0_16, r16_4, r20_4, r24_7⟩ := @fields11 i.val a.val d.val 69 (v / 2 ^ 31) (i.isLt) (a.isLt) (d.isLt) (by decide)
  rw [← hv] at r0_16 r16_4 r20_4 r24_7
  have hm : decodeWord v = decXori v := by unfold decodeWord; rw [r24_7]; rfl
  rw [hm]
  unfold decXori
  rw [fin_of_fld (n := 16) (x := d) r20_4, fin_of_fld (n := 16) (x := a) r16_4, fin_of_fld (n := 65536) (x := i) r0_16]
  exact check_ok hw

theorem shli (d : Fin 16) (a : Fin 16) (i : Fin 64) : Statement (.shli d a i) := by
  intro hw v he
  have hv : v = dig 6 i.val (dig 10 0 (dig 4 a.val (dig 4 d.val (dig 7 70 (v / 2 ^ 31))))) := by
    have h := Option.some.inj he
    unfold put at h
    unfold dig
    omega
  obtain ⟨r0_6, r6_10, r16_4, r20_4, r24_7⟩ := @fields31 i.val 0 a.val d.val 70 (v / 2 ^ 31) (i.isLt) (by decide) (a.isLt) (d.isLt) (by decide)
  rw [← hv] at r0_6 r6_10 r16_4 r20_4 r24_7
  have hm : decodeWord v = decShli v := by unfold decodeWord; rw [r24_7]; rfl
  rw [hm]
  unfold decShli
  rw [if_pos r6_10]
  rw [fin_of_fld (n := 16) (x := d) r20_4, fin_of_fld (n := 16) (x := a) r16_4, fin_of_fld (n := 64) (x := i) r0_6]
  exact check_ok hw

theorem shri (d : Fin 16) (a : Fin 16) (i : Fin 64) : Statement (.shri d a i) := by
  intro hw v he
  have hv : v = dig 6 i.val (dig 10 0 (dig 4 a.val (dig 4 d.val (dig 7 71 (v / 2 ^ 31))))) := by
    have h := Option.some.inj he
    unfold put at h
    unfold dig
    omega
  obtain ⟨r0_6, r6_10, r16_4, r20_4, r24_7⟩ := @fields31 i.val 0 a.val d.val 71 (v / 2 ^ 31) (i.isLt) (by decide) (a.isLt) (d.isLt) (by decide)
  rw [← hv] at r0_6 r6_10 r16_4 r20_4 r24_7
  have hm : decodeWord v = decShri v := by unfold decodeWord; rw [r24_7]; rfl
  rw [hm]
  unfold decShri
  rw [if_pos r6_10]
  rw [fin_of_fld (n := 16) (x := d) r20_4, fin_of_fld (n := 16) (x := a) r16_4, fin_of_fld (n := 64) (x := i) r0_6]
  exact check_ok hw

theorem shrai (d : Fin 16) (a : Fin 16) (i : Fin 64) : Statement (.shrai d a i) := by
  intro hw v he
  have hv : v = dig 6 i.val (dig 10 0 (dig 4 a.val (dig 4 d.val (dig 7 72 (v / 2 ^ 31))))) := by
    have h := Option.some.inj he
    unfold put at h
    unfold dig
    omega
  obtain ⟨r0_6, r6_10, r16_4, r20_4, r24_7⟩ := @fields31 i.val 0 a.val d.val 72 (v / 2 ^ 31) (i.isLt) (by decide) (a.isLt) (d.isLt) (by decide)
  rw [← hv] at r0_6 r6_10 r16_4 r20_4 r24_7
  have hm : decodeWord v = decShrai v := by unfold decodeWord; rw [r24_7]; rfl
  rw [hm]
  unfold decShrai
  rw [if_pos r6_10]
  rw [fin_of_fld (n := 16) (x := d) r20_4, fin_of_fld (n := 16) (x := a) r16_4, fin_of_fld (n := 64) (x := i) r0_6]
  exact check_ok hw

theorem slti (d : Fin 16) (a : Fin 16) (i : Fin 65536) : Statement (.slti d a i) := by
  intro hw v he
  have hv : v = dig 16 i.val (dig 4 a.val (dig 4 d.val (dig 7 73 (v / 2 ^ 31)))) := by
    have h := Option.some.inj he
    unfold put at h
    unfold dig
    omega
  obtain ⟨r0_16, r16_4, r20_4, r24_7⟩ := @fields11 i.val a.val d.val 73 (v / 2 ^ 31) (i.isLt) (a.isLt) (d.isLt) (by decide)
  rw [← hv] at r0_16 r16_4 r20_4 r24_7
  have hm : decodeWord v = decSlti v := by unfold decodeWord; rw [r24_7]; rfl
  rw [hm]
  unfold decSlti
  rw [fin_of_fld (n := 16) (x := d) r20_4, fin_of_fld (n := 16) (x := a) r16_4, fin_of_fld (n := 65536) (x := i) r0_16]
  exact check_ok hw

theorem li (d : Fin 16) (i : Fin 65536) : Statement (.li d i) := by
  intro hw v he
  have hv : v = dig 16 i.val (dig 4 0 (dig 4 d.val (dig 7 74 (v / 2 ^ 31)))) := by
    have h := Option.some.inj he
    unfold put at h
    unfold dig
    omega
  obtain ⟨r0_16, r16_4, r20_4, r24_7⟩ := @fields11 i.val 0 d.val 74 (v / 2 ^ 31) (i.isLt) (by decide) (d.isLt) (by decide)
  rw [← hv] at r0_16 r16_4 r20_4 r24_7
  have hm : decodeWord v = decLi v := by unfold decodeWord; rw [r24_7]; rfl
  rw [hm]
  unfold decLi
  rw [if_pos r16_4]
  rw [fin_of_fld (n := 16) (x := d) r20_4, fin_of_fld (n := 65536) (x := i) r0_16]
  exact check_ok hw

theorem lih (d : Fin 16) (a : Fin 16) (i : Fin 65536) : Statement (.lih d a i) := by
  intro hw v he
  have hv : v = dig 16 i.val (dig 4 a.val (dig 4 d.val (dig 7 75 (v / 2 ^ 31)))) := by
    have h := Option.some.inj he
    unfold put at h
    unfold dig
    omega
  obtain ⟨r0_16, r16_4, r20_4, r24_7⟩ := @fields11 i.val a.val d.val 75 (v / 2 ^ 31) (i.isLt) (a.isLt) (d.isLt) (by decide)
  rw [← hv] at r0_16 r16_4 r20_4 r24_7
  have hm : decodeWord v = decLih v := by unfold decodeWord; rw [r24_7]; rfl
  rw [hm]
  unfold decLih
  rw [fin_of_fld (n := 16) (x := d) r20_4, fin_of_fld (n := 16) (x := a) r16_4, fin_of_fld (n := 65536) (x := i) r0_16]
  exact check_ok hw

theorem fadd (d : Fin 16) (a : Fin 16) (b : Fin 16) (p : Prec) : Statement (.fadd d a b p) := by
  intro hw v he
  have hv : v = dig 1 p.code (dig 5 0 (dig 6 0 (dig 4 b.val (dig 4 a.val (dig 4 d.val (dig 7 76 (v / 2 ^ 31))))))) := by
    have h := Option.some.inj he
    unfold put at h
    unfold dig
    omega
  obtain ⟨r0_1, r1_5, r6_6, r12_4, r16_4, r20_4, r24_7⟩ := @fields4 p.code 0 0 b.val a.val d.val 76 (v / 2 ^ 31) (prec_code_lt p) (by decide) (by decide) (b.isLt) (a.isLt) (d.isLt) (by decide)
  rw [← hv] at r0_1 r1_5 r6_6 r12_4 r16_4 r20_4 r24_7
  have hm : decodeWord v = decMajor4C v := by unfold decodeWord; rw [r24_7]; rfl
  have hn : decMajor4C v = decFadd v := by unfold decMajor4C; rw [r6_6]; rfl
  rw [hm, hn]
  unfold decFadd
  rw [if_pos r1_5]
  rw [r0_1, prec_ofCode_code, withCode]
  rw [fin_of_fld (n := 16) (x := d) r20_4, fin_of_fld (n := 16) (x := a) r16_4, fin_of_fld (n := 16) (x := b) r12_4]
  exact check_ok hw

theorem fsub (d : Fin 16) (a : Fin 16) (b : Fin 16) (p : Prec) : Statement (.fsub d a b p) := by
  intro hw v he
  have hv : v = dig 1 p.code (dig 5 0 (dig 6 1 (dig 4 b.val (dig 4 a.val (dig 4 d.val (dig 7 76 (v / 2 ^ 31))))))) := by
    have h := Option.some.inj he
    unfold put at h
    unfold dig
    omega
  obtain ⟨r0_1, r1_5, r6_6, r12_4, r16_4, r20_4, r24_7⟩ := @fields4 p.code 0 1 b.val a.val d.val 76 (v / 2 ^ 31) (prec_code_lt p) (by decide) (by decide) (b.isLt) (a.isLt) (d.isLt) (by decide)
  rw [← hv] at r0_1 r1_5 r6_6 r12_4 r16_4 r20_4 r24_7
  have hm : decodeWord v = decMajor4C v := by unfold decodeWord; rw [r24_7]; rfl
  have hn : decMajor4C v = decFsub v := by unfold decMajor4C; rw [r6_6]; rfl
  rw [hm, hn]
  unfold decFsub
  rw [if_pos r1_5]
  rw [r0_1, prec_ofCode_code, withCode]
  rw [fin_of_fld (n := 16) (x := d) r20_4, fin_of_fld (n := 16) (x := a) r16_4, fin_of_fld (n := 16) (x := b) r12_4]
  exact check_ok hw

theorem fmul (d : Fin 16) (a : Fin 16) (b : Fin 16) (p : Prec) : Statement (.fmul d a b p) := by
  intro hw v he
  have hv : v = dig 1 p.code (dig 5 0 (dig 6 2 (dig 4 b.val (dig 4 a.val (dig 4 d.val (dig 7 76 (v / 2 ^ 31))))))) := by
    have h := Option.some.inj he
    unfold put at h
    unfold dig
    omega
  obtain ⟨r0_1, r1_5, r6_6, r12_4, r16_4, r20_4, r24_7⟩ := @fields4 p.code 0 2 b.val a.val d.val 76 (v / 2 ^ 31) (prec_code_lt p) (by decide) (by decide) (b.isLt) (a.isLt) (d.isLt) (by decide)
  rw [← hv] at r0_1 r1_5 r6_6 r12_4 r16_4 r20_4 r24_7
  have hm : decodeWord v = decMajor4C v := by unfold decodeWord; rw [r24_7]; rfl
  have hn : decMajor4C v = decFmul v := by unfold decMajor4C; rw [r6_6]; rfl
  rw [hm, hn]
  unfold decFmul
  rw [if_pos r1_5]
  rw [r0_1, prec_ofCode_code, withCode]
  rw [fin_of_fld (n := 16) (x := d) r20_4, fin_of_fld (n := 16) (x := a) r16_4, fin_of_fld (n := 16) (x := b) r12_4]
  exact check_ok hw

theorem fdiv (d : Fin 16) (a : Fin 16) (b : Fin 16) (p : Prec) : Statement (.fdiv d a b p) := by
  intro hw v he
  have hv : v = dig 1 p.code (dig 5 0 (dig 6 3 (dig 4 b.val (dig 4 a.val (dig 4 d.val (dig 7 76 (v / 2 ^ 31))))))) := by
    have h := Option.some.inj he
    unfold put at h
    unfold dig
    omega
  obtain ⟨r0_1, r1_5, r6_6, r12_4, r16_4, r20_4, r24_7⟩ := @fields4 p.code 0 3 b.val a.val d.val 76 (v / 2 ^ 31) (prec_code_lt p) (by decide) (by decide) (b.isLt) (a.isLt) (d.isLt) (by decide)
  rw [← hv] at r0_1 r1_5 r6_6 r12_4 r16_4 r20_4 r24_7
  have hm : decodeWord v = decMajor4C v := by unfold decodeWord; rw [r24_7]; rfl
  have hn : decMajor4C v = decFdiv v := by unfold decMajor4C; rw [r6_6]; rfl
  rw [hm, hn]
  unfold decFdiv
  rw [if_pos r1_5]
  rw [r0_1, prec_ofCode_code, withCode]
  rw [fin_of_fld (n := 16) (x := d) r20_4, fin_of_fld (n := 16) (x := a) r16_4, fin_of_fld (n := 16) (x := b) r12_4]
  exact check_ok hw

theorem fsqrt (d : Fin 16) (a : Fin 16) (p : Prec) : Statement (.fsqrt d a p) := by
  intro hw v he
  have hv : v = dig 1 p.code (dig 5 0 (dig 6 4 (dig 4 0 (dig 4 a.val (dig 4 d.val (dig 7 76 (v / 2 ^ 31))))))) := by
    have h := Option.some.inj he
    unfold put at h
    unfold dig
    omega
  obtain ⟨r0_1, r1_5, r6_6, r12_4, r16_4, r20_4, r24_7⟩ := @fields4 p.code 0 4 0 a.val d.val 76 (v / 2 ^ 31) (prec_code_lt p) (by decide) (by decide) (by decide) (a.isLt) (d.isLt) (by decide)
  rw [← hv] at r0_1 r1_5 r6_6 r12_4 r16_4 r20_4 r24_7
  have hm : decodeWord v = decMajor4C v := by unfold decodeWord; rw [r24_7]; rfl
  have hn : decMajor4C v = decFsqrt v := by unfold decMajor4C; rw [r6_6]; rfl
  rw [hm, hn]
  unfold decFsqrt
  rw [if_pos ⟨r1_5, r12_4⟩]
  rw [r0_1, prec_ofCode_code, withCode]
  rw [fin_of_fld (n := 16) (x := d) r20_4, fin_of_fld (n := 16) (x := a) r16_4]
  exact check_ok hw

theorem fmin (d : Fin 16) (a : Fin 16) (b : Fin 16) (p : Prec) : Statement (.fmin d a b p) := by
  intro hw v he
  have hv : v = dig 1 p.code (dig 5 0 (dig 6 5 (dig 4 b.val (dig 4 a.val (dig 4 d.val (dig 7 76 (v / 2 ^ 31))))))) := by
    have h := Option.some.inj he
    unfold put at h
    unfold dig
    omega
  obtain ⟨r0_1, r1_5, r6_6, r12_4, r16_4, r20_4, r24_7⟩ := @fields4 p.code 0 5 b.val a.val d.val 76 (v / 2 ^ 31) (prec_code_lt p) (by decide) (by decide) (b.isLt) (a.isLt) (d.isLt) (by decide)
  rw [← hv] at r0_1 r1_5 r6_6 r12_4 r16_4 r20_4 r24_7
  have hm : decodeWord v = decMajor4C v := by unfold decodeWord; rw [r24_7]; rfl
  have hn : decMajor4C v = decFmin v := by unfold decMajor4C; rw [r6_6]; rfl
  rw [hm, hn]
  unfold decFmin
  rw [if_pos r1_5]
  rw [r0_1, prec_ofCode_code, withCode]
  rw [fin_of_fld (n := 16) (x := d) r20_4, fin_of_fld (n := 16) (x := a) r16_4, fin_of_fld (n := 16) (x := b) r12_4]
  exact check_ok hw

theorem fmax (d : Fin 16) (a : Fin 16) (b : Fin 16) (p : Prec) : Statement (.fmax d a b p) := by
  intro hw v he
  have hv : v = dig 1 p.code (dig 5 0 (dig 6 6 (dig 4 b.val (dig 4 a.val (dig 4 d.val (dig 7 76 (v / 2 ^ 31))))))) := by
    have h := Option.some.inj he
    unfold put at h
    unfold dig
    omega
  obtain ⟨r0_1, r1_5, r6_6, r12_4, r16_4, r20_4, r24_7⟩ := @fields4 p.code 0 6 b.val a.val d.val 76 (v / 2 ^ 31) (prec_code_lt p) (by decide) (by decide) (b.isLt) (a.isLt) (d.isLt) (by decide)
  rw [← hv] at r0_1 r1_5 r6_6 r12_4 r16_4 r20_4 r24_7
  have hm : decodeWord v = decMajor4C v := by unfold decodeWord; rw [r24_7]; rfl
  have hn : decMajor4C v = decFmax v := by unfold decMajor4C; rw [r6_6]; rfl
  rw [hm, hn]
  unfold decFmax
  rw [if_pos r1_5]
  rw [r0_1, prec_ofCode_code, withCode]
  rw [fin_of_fld (n := 16) (x := d) r20_4, fin_of_fld (n := 16) (x := a) r16_4, fin_of_fld (n := 16) (x := b) r12_4]
  exact check_ok hw

theorem fcmp (d : Fin 16) (a : Fin 16) (b : Fin 16) (c : FcmpPred) (p : Prec) : Statement (.fcmp d a b c p) := by
  intro hw v he
  have hv : v = dig 1 p.code (dig 3 c.code (dig 2 0 (dig 6 7 (dig 4 b.val (dig 4 a.val (dig 4 d.val (dig 7 76 (v / 2 ^ 31)))))))) := by
    have h := Option.some.inj he
    unfold put at h
    unfold dig
    omega
  obtain ⟨r0_1, r1_3, r4_2, r6_6, r12_4, r16_4, r20_4, r24_7⟩ := @fields32 p.code c.code 0 7 b.val a.val d.val 76 (v / 2 ^ 31) (prec_code_lt p) (fcmpPred_code_lt c) (by decide) (by decide) (b.isLt) (a.isLt) (d.isLt) (by decide)
  rw [← hv] at r0_1 r1_3 r4_2 r6_6 r12_4 r16_4 r20_4 r24_7
  have hm : decodeWord v = decMajor4C v := by unfold decodeWord; rw [r24_7]; rfl
  have hn : decMajor4C v = decFcmp v := by unfold decMajor4C; rw [r6_6]; rfl
  rw [hm, hn]
  unfold decFcmp
  rw [if_pos r4_2]
  rw [r1_3, fcmpPred_ofCode_code, withCode]
  rw [r0_1, prec_ofCode_code, withCode]
  rw [fin_of_fld (n := 16) (x := d) r20_4, fin_of_fld (n := 16) (x := a) r16_4, fin_of_fld (n := 16) (x := b) r12_4]
  exact check_ok hw

theorem fcvt (d : Fin 16) (a : Fin 16) (c : FcvtOp) : Statement (.fcvt d a c) := by
  intro hw v he
  have hv : v = dig 6 c.code (dig 6 8 (dig 4 0 (dig 4 a.val (dig 4 d.val (dig 7 76 (v / 2 ^ 31)))))) := by
    have h := Option.some.inj he
    unfold put at h
    unfold dig
    omega
  obtain ⟨r0_6, r6_6, r12_4, r16_4, r20_4, r24_7⟩ := @fields3 c.code 8 0 a.val d.val 76 (v / 2 ^ 31) (Nat.lt_of_lt_of_le (fcvtOp_code_lt c) (by decide)) (by decide) (by decide) (a.isLt) (d.isLt) (by decide)
  rw [← hv] at r0_6 r6_6 r12_4 r16_4 r20_4 r24_7
  have hm : decodeWord v = decMajor4C v := by unfold decodeWord; rw [r24_7]; rfl
  have hn : decMajor4C v = decFcvt v := by unfold decMajor4C; rw [r6_6]; rfl
  rw [hm, hn]
  unfold decFcvt
  rw [if_pos r12_4]
  rw [r0_6, fcvtOp_ofCode_code, withCode]
  rw [fin_of_fld (n := 16) (x := d) r20_4, fin_of_fld (n := 16) (x := a) r16_4]
  exact check_ok hw

theorem fclass (d : Fin 16) (a : Fin 16) (p : Prec) : Statement (.fclass d a p) := by
  intro hw v he
  have hv : v = dig 1 p.code (dig 5 0 (dig 6 9 (dig 4 0 (dig 4 a.val (dig 4 d.val (dig 7 76 (v / 2 ^ 31))))))) := by
    have h := Option.some.inj he
    unfold put at h
    unfold dig
    omega
  obtain ⟨r0_1, r1_5, r6_6, r12_4, r16_4, r20_4, r24_7⟩ := @fields4 p.code 0 9 0 a.val d.val 76 (v / 2 ^ 31) (prec_code_lt p) (by decide) (by decide) (by decide) (a.isLt) (d.isLt) (by decide)
  rw [← hv] at r0_1 r1_5 r6_6 r12_4 r16_4 r20_4 r24_7
  have hm : decodeWord v = decMajor4C v := by unfold decodeWord; rw [r24_7]; rfl
  have hn : decMajor4C v = decFclass v := by unfold decMajor4C; rw [r6_6]; rfl
  rw [hm, hn]
  unfold decFclass
  rw [if_pos ⟨r1_5, r12_4⟩]
  rw [r0_1, prec_ofCode_code, withCode]
  rw [fin_of_fld (n := 16) (x := d) r20_4, fin_of_fld (n := 16) (x := a) r16_4]
  exact check_ok hw

theorem fma (d : Fin 16) (a : Fin 16) (b : Fin 16) (n : Bool) (p : Prec) (c : Fin 16) : Statement (.fma d a b n p c) := by
  intro hw v he
  have hv : v = dig 4 c.val (dig 1 p.code (dig 1 (bit n) (dig 6 0 (dig 4 b.val (dig 4 a.val (dig 4 d.val (dig 7 77 (v / 2 ^ 31)))))))) := by
    have h := Option.some.inj he
    unfold put at h
    unfold dig
    omega
  obtain ⟨r0_4, r4_1, r5_1, r6_6, r12_4, r16_4, r20_4, r24_7⟩ := @fields33 c.val p.code (bit n) 0 b.val a.val d.val 77 (v / 2 ^ 31) (c.isLt) (prec_code_lt p) (bit_lt n) (by decide) (b.isLt) (a.isLt) (d.isLt) (by decide)
  rw [← hv] at r0_4 r4_1 r5_1 r6_6 r12_4 r16_4 r20_4 r24_7
  have hm : decodeWord v = decFma v := by unfold decodeWord; rw [r24_7]; rfl
  rw [hm]
  unfold decFma
  rw [if_pos r6_6]
  rw [r4_1, prec_ofCode_code, withCode]
  rw [fin_of_fld (n := 16) (x := d) r20_4, fin_of_fld (n := 16) (x := a) r16_4, fin_of_fld (n := 16) (x := b) r12_4, fin_of_fld (n := 16) (x := c) r0_4, flag_of_fld r5_1]
  exact check_ok hw

theorem vadd (d : Fin 16) (a : Fin 16) (b : Fin 16) (r : Fin 16) (s : Fin 16) (t : Ty) : Statement (.vadd d a b r s t) := by
  intro hw v he
  have hv : v = dig 4 t.code (dig 4 s.val (dig 4 r.val (dig 4 b.val (dig 4 a.val (dig 4 d.val (dig 7 80 (v / 2 ^ 31))))))) := by
    have h := Option.some.inj he
    unfold put at h
    unfold dig
    omega
  obtain ⟨r0_4, r4_4, r8_4, r12_4, r16_4, r20_4, r24_7⟩ := @fields34 t.code s.val r.val b.val a.val d.val 80 (v / 2 ^ 31) (ty_code_lt t) (s.isLt) (r.isLt) (b.isLt) (a.isLt) (d.isLt) (by decide)
  rw [← hv] at r0_4 r4_4 r8_4 r12_4 r16_4 r20_4 r24_7
  have hm : decodeWord v = decVadd v := by unfold decodeWord; rw [r24_7]; rfl
  rw [hm]
  unfold decVadd
  rw [r0_4, ty_ofCode_code, withCode]
  rw [fin_of_fld (n := 16) (x := d) r20_4, fin_of_fld (n := 16) (x := a) r16_4, fin_of_fld (n := 16) (x := b) r12_4, fin_of_fld (n := 16) (x := r) r8_4, fin_of_fld (n := 16) (x := s) r4_4]
  exact check_ok hw

theorem vsub (d : Fin 16) (a : Fin 16) (b : Fin 16) (r : Fin 16) (s : Fin 16) (t : Ty) : Statement (.vsub d a b r s t) := by
  intro hw v he
  have hv : v = dig 4 t.code (dig 4 s.val (dig 4 r.val (dig 4 b.val (dig 4 a.val (dig 4 d.val (dig 7 81 (v / 2 ^ 31))))))) := by
    have h := Option.some.inj he
    unfold put at h
    unfold dig
    omega
  obtain ⟨r0_4, r4_4, r8_4, r12_4, r16_4, r20_4, r24_7⟩ := @fields34 t.code s.val r.val b.val a.val d.val 81 (v / 2 ^ 31) (ty_code_lt t) (s.isLt) (r.isLt) (b.isLt) (a.isLt) (d.isLt) (by decide)
  rw [← hv] at r0_4 r4_4 r8_4 r12_4 r16_4 r20_4 r24_7
  have hm : decodeWord v = decVsub v := by unfold decodeWord; rw [r24_7]; rfl
  rw [hm]
  unfold decVsub
  rw [r0_4, ty_ofCode_code, withCode]
  rw [fin_of_fld (n := 16) (x := d) r20_4, fin_of_fld (n := 16) (x := a) r16_4, fin_of_fld (n := 16) (x := b) r12_4, fin_of_fld (n := 16) (x := r) r8_4, fin_of_fld (n := 16) (x := s) r4_4]
  exact check_ok hw

theorem vmul (d : Fin 16) (a : Fin 16) (b : Fin 16) (r : Fin 16) (s : Fin 16) (t : Ty) : Statement (.vmul d a b r s t) := by
  intro hw v he
  have hv : v = dig 4 t.code (dig 4 s.val (dig 4 r.val (dig 4 b.val (dig 4 a.val (dig 4 d.val (dig 7 82 (v / 2 ^ 31))))))) := by
    have h := Option.some.inj he
    unfold put at h
    unfold dig
    omega
  obtain ⟨r0_4, r4_4, r8_4, r12_4, r16_4, r20_4, r24_7⟩ := @fields34 t.code s.val r.val b.val a.val d.val 82 (v / 2 ^ 31) (ty_code_lt t) (s.isLt) (r.isLt) (b.isLt) (a.isLt) (d.isLt) (by decide)
  rw [← hv] at r0_4 r4_4 r8_4 r12_4 r16_4 r20_4 r24_7
  have hm : decodeWord v = decVmul v := by unfold decodeWord; rw [r24_7]; rfl
  rw [hm]
  unfold decVmul
  rw [r0_4, ty_ofCode_code, withCode]
  rw [fin_of_fld (n := 16) (x := d) r20_4, fin_of_fld (n := 16) (x := a) r16_4, fin_of_fld (n := 16) (x := b) r12_4, fin_of_fld (n := 16) (x := r) r8_4, fin_of_fld (n := 16) (x := s) r4_4]
  exact check_ok hw

theorem vfma (d : Fin 16) (a : Fin 16) (b : Fin 16) (r : Fin 16) (s : Fin 16) (t : Ty) : Statement (.vfma d a b r s t) := by
  intro hw v he
  have hv : v = dig 4 t.code (dig 4 s.val (dig 4 r.val (dig 4 b.val (dig 4 a.val (dig 4 d.val (dig 7 83 (v / 2 ^ 31))))))) := by
    have h := Option.some.inj he
    unfold put at h
    unfold dig
    omega
  obtain ⟨r0_4, r4_4, r8_4, r12_4, r16_4, r20_4, r24_7⟩ := @fields34 t.code s.val r.val b.val a.val d.val 83 (v / 2 ^ 31) (ty_code_lt t) (s.isLt) (r.isLt) (b.isLt) (a.isLt) (d.isLt) (by decide)
  rw [← hv] at r0_4 r4_4 r8_4 r12_4 r16_4 r20_4 r24_7
  have hm : decodeWord v = decVfma v := by unfold decodeWord; rw [r24_7]; rfl
  rw [hm]
  unfold decVfma
  rw [r0_4, ty_ofCode_code, withCode]
  rw [fin_of_fld (n := 16) (x := d) r20_4, fin_of_fld (n := 16) (x := a) r16_4, fin_of_fld (n := 16) (x := b) r12_4, fin_of_fld (n := 16) (x := r) r8_4, fin_of_fld (n := 16) (x := s) r4_4]
  exact check_ok hw

theorem vmin (d : Fin 16) (a : Fin 16) (b : Fin 16) (r : Fin 16) (s : Fin 16) (t : Ty) : Statement (.vmin d a b r s t) := by
  intro hw v he
  have hv : v = dig 4 t.code (dig 4 s.val (dig 4 r.val (dig 4 b.val (dig 4 a.val (dig 4 d.val (dig 7 84 (v / 2 ^ 31))))))) := by
    have h := Option.some.inj he
    unfold put at h
    unfold dig
    omega
  obtain ⟨r0_4, r4_4, r8_4, r12_4, r16_4, r20_4, r24_7⟩ := @fields34 t.code s.val r.val b.val a.val d.val 84 (v / 2 ^ 31) (ty_code_lt t) (s.isLt) (r.isLt) (b.isLt) (a.isLt) (d.isLt) (by decide)
  rw [← hv] at r0_4 r4_4 r8_4 r12_4 r16_4 r20_4 r24_7
  have hm : decodeWord v = decVmin v := by unfold decodeWord; rw [r24_7]; rfl
  rw [hm]
  unfold decVmin
  rw [r0_4, ty_ofCode_code, withCode]
  rw [fin_of_fld (n := 16) (x := d) r20_4, fin_of_fld (n := 16) (x := a) r16_4, fin_of_fld (n := 16) (x := b) r12_4, fin_of_fld (n := 16) (x := r) r8_4, fin_of_fld (n := 16) (x := s) r4_4]
  exact check_ok hw

theorem vmax (d : Fin 16) (a : Fin 16) (b : Fin 16) (r : Fin 16) (s : Fin 16) (t : Ty) : Statement (.vmax d a b r s t) := by
  intro hw v he
  have hv : v = dig 4 t.code (dig 4 s.val (dig 4 r.val (dig 4 b.val (dig 4 a.val (dig 4 d.val (dig 7 85 (v / 2 ^ 31))))))) := by
    have h := Option.some.inj he
    unfold put at h
    unfold dig
    omega
  obtain ⟨r0_4, r4_4, r8_4, r12_4, r16_4, r20_4, r24_7⟩ := @fields34 t.code s.val r.val b.val a.val d.val 85 (v / 2 ^ 31) (ty_code_lt t) (s.isLt) (r.isLt) (b.isLt) (a.isLt) (d.isLt) (by decide)
  rw [← hv] at r0_4 r4_4 r8_4 r12_4 r16_4 r20_4 r24_7
  have hm : decodeWord v = decVmax v := by unfold decodeWord; rw [r24_7]; rfl
  rw [hm]
  unfold decVmax
  rw [r0_4, ty_ofCode_code, withCode]
  rw [fin_of_fld (n := 16) (x := d) r20_4, fin_of_fld (n := 16) (x := a) r16_4, fin_of_fld (n := 16) (x := b) r12_4, fin_of_fld (n := 16) (x := r) r8_4, fin_of_fld (n := 16) (x := s) r4_4]
  exact check_ok hw

theorem vabsd (d : Fin 16) (a : Fin 16) (b : Fin 16) (r : Fin 16) (s : Fin 16) (t : Ty) : Statement (.vabsd d a b r s t) := by
  intro hw v he
  have hv : v = dig 4 t.code (dig 4 s.val (dig 4 r.val (dig 4 b.val (dig 4 a.val (dig 4 d.val (dig 7 86 (v / 2 ^ 31))))))) := by
    have h := Option.some.inj he
    unfold put at h
    unfold dig
    omega
  obtain ⟨r0_4, r4_4, r8_4, r12_4, r16_4, r20_4, r24_7⟩ := @fields34 t.code s.val r.val b.val a.val d.val 86 (v / 2 ^ 31) (ty_code_lt t) (s.isLt) (r.isLt) (b.isLt) (a.isLt) (d.isLt) (by decide)
  rw [← hv] at r0_4 r4_4 r8_4 r12_4 r16_4 r20_4 r24_7
  have hm : decodeWord v = decVabsd v := by unfold decodeWord; rw [r24_7]; rfl
  rw [hm]
  unfold decVabsd
  rw [r0_4, ty_ofCode_code, withCode]
  rw [fin_of_fld (n := 16) (x := d) r20_4, fin_of_fld (n := 16) (x := a) r16_4, fin_of_fld (n := 16) (x := b) r12_4, fin_of_fld (n := 16) (x := r) r8_4, fin_of_fld (n := 16) (x := s) r4_4]
  exact check_ok hw

theorem vand (d : Fin 16) (a : Fin 16) (b : Fin 16) (r : Fin 16) (s : Fin 16) (t : Ty) : Statement (.vand d a b r s t) := by
  intro hw v he
  have hv : v = dig 4 t.code (dig 4 s.val (dig 4 r.val (dig 4 b.val (dig 4 a.val (dig 4 d.val (dig 7 87 (v / 2 ^ 31))))))) := by
    have h := Option.some.inj he
    unfold put at h
    unfold dig
    omega
  obtain ⟨r0_4, r4_4, r8_4, r12_4, r16_4, r20_4, r24_7⟩ := @fields34 t.code s.val r.val b.val a.val d.val 87 (v / 2 ^ 31) (ty_code_lt t) (s.isLt) (r.isLt) (b.isLt) (a.isLt) (d.isLt) (by decide)
  rw [← hv] at r0_4 r4_4 r8_4 r12_4 r16_4 r20_4 r24_7
  have hm : decodeWord v = decVand v := by unfold decodeWord; rw [r24_7]; rfl
  rw [hm]
  unfold decVand
  rw [r0_4, ty_ofCode_code, withCode]
  rw [fin_of_fld (n := 16) (x := d) r20_4, fin_of_fld (n := 16) (x := a) r16_4, fin_of_fld (n := 16) (x := b) r12_4, fin_of_fld (n := 16) (x := r) r8_4, fin_of_fld (n := 16) (x := s) r4_4]
  exact check_ok hw

theorem vor (d : Fin 16) (a : Fin 16) (b : Fin 16) (r : Fin 16) (s : Fin 16) (t : Ty) : Statement (.vor d a b r s t) := by
  intro hw v he
  have hv : v = dig 4 t.code (dig 4 s.val (dig 4 r.val (dig 4 b.val (dig 4 a.val (dig 4 d.val (dig 7 88 (v / 2 ^ 31))))))) := by
    have h := Option.some.inj he
    unfold put at h
    unfold dig
    omega
  obtain ⟨r0_4, r4_4, r8_4, r12_4, r16_4, r20_4, r24_7⟩ := @fields34 t.code s.val r.val b.val a.val d.val 88 (v / 2 ^ 31) (ty_code_lt t) (s.isLt) (r.isLt) (b.isLt) (a.isLt) (d.isLt) (by decide)
  rw [← hv] at r0_4 r4_4 r8_4 r12_4 r16_4 r20_4 r24_7
  have hm : decodeWord v = decVor v := by unfold decodeWord; rw [r24_7]; rfl
  rw [hm]
  unfold decVor
  rw [r0_4, ty_ofCode_code, withCode]
  rw [fin_of_fld (n := 16) (x := d) r20_4, fin_of_fld (n := 16) (x := a) r16_4, fin_of_fld (n := 16) (x := b) r12_4, fin_of_fld (n := 16) (x := r) r8_4, fin_of_fld (n := 16) (x := s) r4_4]
  exact check_ok hw

theorem vxor (d : Fin 16) (a : Fin 16) (b : Fin 16) (r : Fin 16) (s : Fin 16) (t : Ty) : Statement (.vxor d a b r s t) := by
  intro hw v he
  have hv : v = dig 4 t.code (dig 4 s.val (dig 4 r.val (dig 4 b.val (dig 4 a.val (dig 4 d.val (dig 7 89 (v / 2 ^ 31))))))) := by
    have h := Option.some.inj he
    unfold put at h
    unfold dig
    omega
  obtain ⟨r0_4, r4_4, r8_4, r12_4, r16_4, r20_4, r24_7⟩ := @fields34 t.code s.val r.val b.val a.val d.val 89 (v / 2 ^ 31) (ty_code_lt t) (s.isLt) (r.isLt) (b.isLt) (a.isLt) (d.isLt) (by decide)
  rw [← hv] at r0_4 r4_4 r8_4 r12_4 r16_4 r20_4 r24_7
  have hm : decodeWord v = decVxor v := by unfold decodeWord; rw [r24_7]; rfl
  rw [hm]
  unfold decVxor
  rw [r0_4, ty_ofCode_code, withCode]
  rw [fin_of_fld (n := 16) (x := d) r20_4, fin_of_fld (n := 16) (x := a) r16_4, fin_of_fld (n := 16) (x := b) r12_4, fin_of_fld (n := 16) (x := r) r8_4, fin_of_fld (n := 16) (x := s) r4_4]
  exact check_ok hw

theorem vshl (d : Fin 16) (a : Fin 16) (b : Fin 16) (r : Fin 16) (s : Fin 16) (t : Ty) : Statement (.vshl d a b r s t) := by
  intro hw v he
  have hv : v = dig 4 t.code (dig 4 s.val (dig 4 r.val (dig 4 b.val (dig 4 a.val (dig 4 d.val (dig 7 90 (v / 2 ^ 31))))))) := by
    have h := Option.some.inj he
    unfold put at h
    unfold dig
    omega
  obtain ⟨r0_4, r4_4, r8_4, r12_4, r16_4, r20_4, r24_7⟩ := @fields34 t.code s.val r.val b.val a.val d.val 90 (v / 2 ^ 31) (ty_code_lt t) (s.isLt) (r.isLt) (b.isLt) (a.isLt) (d.isLt) (by decide)
  rw [← hv] at r0_4 r4_4 r8_4 r12_4 r16_4 r20_4 r24_7
  have hm : decodeWord v = decVshl v := by unfold decodeWord; rw [r24_7]; rfl
  rw [hm]
  unfold decVshl
  rw [r0_4, ty_ofCode_code, withCode]
  rw [fin_of_fld (n := 16) (x := d) r20_4, fin_of_fld (n := 16) (x := a) r16_4, fin_of_fld (n := 16) (x := b) r12_4, fin_of_fld (n := 16) (x := r) r8_4, fin_of_fld (n := 16) (x := s) r4_4]
  exact check_ok hw

theorem vshr (d : Fin 16) (a : Fin 16) (b : Fin 16) (r : Fin 16) (s : Fin 16) (t : Ty) : Statement (.vshr d a b r s t) := by
  intro hw v he
  have hv : v = dig 4 t.code (dig 4 s.val (dig 4 r.val (dig 4 b.val (dig 4 a.val (dig 4 d.val (dig 7 91 (v / 2 ^ 31))))))) := by
    have h := Option.some.inj he
    unfold put at h
    unfold dig
    omega
  obtain ⟨r0_4, r4_4, r8_4, r12_4, r16_4, r20_4, r24_7⟩ := @fields34 t.code s.val r.val b.val a.val d.val 91 (v / 2 ^ 31) (ty_code_lt t) (s.isLt) (r.isLt) (b.isLt) (a.isLt) (d.isLt) (by decide)
  rw [← hv] at r0_4 r4_4 r8_4 r12_4 r16_4 r20_4 r24_7
  have hm : decodeWord v = decVshr v := by unfold decodeWord; rw [r24_7]; rfl
  rw [hm]
  unfold decVshr
  rw [r0_4, ty_ofCode_code, withCode]
  rw [fin_of_fld (n := 16) (x := d) r20_4, fin_of_fld (n := 16) (x := a) r16_4, fin_of_fld (n := 16) (x := b) r12_4, fin_of_fld (n := 16) (x := r) r8_4, fin_of_fld (n := 16) (x := s) r4_4]
  exact check_ok hw

theorem vshra (d : Fin 16) (a : Fin 16) (b : Fin 16) (r : Fin 16) (s : Fin 16) (t : Ty) : Statement (.vshra d a b r s t) := by
  intro hw v he
  have hv : v = dig 4 t.code (dig 4 s.val (dig 4 r.val (dig 4 b.val (dig 4 a.val (dig 4 d.val (dig 7 92 (v / 2 ^ 31))))))) := by
    have h := Option.some.inj he
    unfold put at h
    unfold dig
    omega
  obtain ⟨r0_4, r4_4, r8_4, r12_4, r16_4, r20_4, r24_7⟩ := @fields34 t.code s.val r.val b.val a.val d.val 92 (v / 2 ^ 31) (ty_code_lt t) (s.isLt) (r.isLt) (b.isLt) (a.isLt) (d.isLt) (by decide)
  rw [← hv] at r0_4 r4_4 r8_4 r12_4 r16_4 r20_4 r24_7
  have hm : decodeWord v = decVshra v := by unfold decodeWord; rw [r24_7]; rfl
  rw [hm]
  unfold decVshra
  rw [r0_4, ty_ofCode_code, withCode]
  rw [fin_of_fld (n := 16) (x := d) r20_4, fin_of_fld (n := 16) (x := a) r16_4, fin_of_fld (n := 16) (x := b) r12_4, fin_of_fld (n := 16) (x := r) r8_4, fin_of_fld (n := 16) (x := s) r4_4]
  exact check_ok hw

theorem vceq (d : Fin 16) (a : Fin 16) (b : Fin 16) (r : Fin 16) (s : Fin 16) (t : Ty) : Statement (.vceq d a b r s t) := by
  intro hw v he
  have hv : v = dig 4 t.code (dig 4 s.val (dig 4 r.val (dig 4 b.val (dig 4 a.val (dig 4 d.val (dig 7 93 (v / 2 ^ 31))))))) := by
    have h := Option.some.inj he
    unfold put at h
    unfold dig
    omega
  obtain ⟨r0_4, r4_4, r8_4, r12_4, r16_4, r20_4, r24_7⟩ := @fields34 t.code s.val r.val b.val a.val d.val 93 (v / 2 ^ 31) (ty_code_lt t) (s.isLt) (r.isLt) (b.isLt) (a.isLt) (d.isLt) (by decide)
  rw [← hv] at r0_4 r4_4 r8_4 r12_4 r16_4 r20_4 r24_7
  have hm : decodeWord v = decVceq v := by unfold decodeWord; rw [r24_7]; rfl
  rw [hm]
  unfold decVceq
  rw [r0_4, ty_ofCode_code, withCode]
  rw [fin_of_fld (n := 16) (x := d) r20_4, fin_of_fld (n := 16) (x := a) r16_4, fin_of_fld (n := 16) (x := b) r12_4, fin_of_fld (n := 16) (x := r) r8_4, fin_of_fld (n := 16) (x := s) r4_4]
  exact check_ok hw

theorem vclt (d : Fin 16) (a : Fin 16) (b : Fin 16) (r : Fin 16) (s : Fin 16) (t : Ty) : Statement (.vclt d a b r s t) := by
  intro hw v he
  have hv : v = dig 4 t.code (dig 4 s.val (dig 4 r.val (dig 4 b.val (dig 4 a.val (dig 4 d.val (dig 7 94 (v / 2 ^ 31))))))) := by
    have h := Option.some.inj he
    unfold put at h
    unfold dig
    omega
  obtain ⟨r0_4, r4_4, r8_4, r12_4, r16_4, r20_4, r24_7⟩ := @fields34 t.code s.val r.val b.val a.val d.val 94 (v / 2 ^ 31) (ty_code_lt t) (s.isLt) (r.isLt) (b.isLt) (a.isLt) (d.isLt) (by decide)
  rw [← hv] at r0_4 r4_4 r8_4 r12_4 r16_4 r20_4 r24_7
  have hm : decodeWord v = decVclt v := by unfold decodeWord; rw [r24_7]; rfl
  rw [hm]
  unfold decVclt
  rw [r0_4, ty_ofCode_code, withCode]
  rw [fin_of_fld (n := 16) (x := d) r20_4, fin_of_fld (n := 16) (x := a) r16_4, fin_of_fld (n := 16) (x := b) r12_4, fin_of_fld (n := 16) (x := r) r8_4, fin_of_fld (n := 16) (x := s) r4_4]
  exact check_ok hw

theorem vsel (d : Fin 16) (a : Fin 16) (b : Fin 16) (r : Fin 16) (s : Fin 16) (t : Ty) : Statement (.vsel d a b r s t) := by
  intro hw v he
  have hv : v = dig 4 t.code (dig 4 s.val (dig 4 r.val (dig 4 b.val (dig 4 a.val (dig 4 d.val (dig 7 95 (v / 2 ^ 31))))))) := by
    have h := Option.some.inj he
    unfold put at h
    unfold dig
    omega
  obtain ⟨r0_4, r4_4, r8_4, r12_4, r16_4, r20_4, r24_7⟩ := @fields34 t.code s.val r.val b.val a.val d.val 95 (v / 2 ^ 31) (ty_code_lt t) (s.isLt) (r.isLt) (b.isLt) (a.isLt) (d.isLt) (by decide)
  rw [← hv] at r0_4 r4_4 r8_4 r12_4 r16_4 r20_4 r24_7
  have hm : decodeWord v = decVsel v := by unfold decodeWord; rw [r24_7]; rfl
  rw [hm]
  unfold decVsel
  rw [r0_4, ty_ofCode_code, withCode]
  rw [fin_of_fld (n := 16) (x := d) r20_4, fin_of_fld (n := 16) (x := a) r16_4, fin_of_fld (n := 16) (x := b) r12_4, fin_of_fld (n := 16) (x := r) r8_4, fin_of_fld (n := 16) (x := s) r4_4]
  exact check_ok hw

theorem vcvt (d : Fin 16) (a : Fin 16) (y : Ty) (r : Fin 16) (s : Fin 16) (t : Ty) : Statement (.vcvt d a y r s t) := by
  intro hw v he
  have hv : v = dig 4 t.code (dig 4 s.val (dig 4 r.val (dig 4 y.code (dig 4 a.val (dig 4 d.val (dig 7 96 (v / 2 ^ 31))))))) := by
    have h := Option.some.inj he
    unfold put at h
    unfold dig
    omega
  obtain ⟨r0_4, r4_4, r8_4, r12_4, r16_4, r20_4, r24_7⟩ := @fields34 t.code s.val r.val y.code a.val d.val 96 (v / 2 ^ 31) (ty_code_lt t) (s.isLt) (r.isLt) (ty_code_lt y) (a.isLt) (d.isLt) (by decide)
  rw [← hv] at r0_4 r4_4 r8_4 r12_4 r16_4 r20_4 r24_7
  have hm : decodeWord v = decVcvt v := by unfold decodeWord; rw [r24_7]; rfl
  rw [hm]
  unfold decVcvt
  rw [r12_4, ty_ofCode_code, withCode]
  rw [r0_4, ty_ofCode_code, withCode]
  rw [fin_of_fld (n := 16) (x := d) r20_4, fin_of_fld (n := 16) (x := a) r16_4, fin_of_fld (n := 16) (x := r) r8_4, fin_of_fld (n := 16) (x := s) r4_4]
  exact check_ok hw

theorem vred (d : Fin 16) (a : Fin 16) (o : RedOp) (s : Fin 16) (t : Ty) : Statement (.vred d a o s t) := by
  intro hw v he
  have hv : v = dig 4 t.code (dig 4 s.val (dig 4 0 (dig 4 o.code (dig 4 a.val (dig 4 d.val (dig 7 97 (v / 2 ^ 31))))))) := by
    have h := Option.some.inj he
    unfold put at h
    unfold dig
    omega
  obtain ⟨r0_4, r4_4, r8_4, r12_4, r16_4, r20_4, r24_7⟩ := @fields34 t.code s.val 0 o.code a.val d.val 97 (v / 2 ^ 31) (ty_code_lt t) (s.isLt) (by decide) (Nat.lt_of_lt_of_le (redOp_code_lt o) (by decide)) (a.isLt) (d.isLt) (by decide)
  rw [← hv] at r0_4 r4_4 r8_4 r12_4 r16_4 r20_4 r24_7
  have hm : decodeWord v = decVred v := by unfold decodeWord; rw [r24_7]; rfl
  rw [hm]
  unfold decVred
  rw [if_pos r8_4]
  rw [r12_4, redOp_ofCode_code, withCode]
  rw [r0_4, ty_ofCode_code, withCode]
  rw [fin_of_fld (n := 16) (x := d) r20_4, fin_of_fld (n := 16) (x := a) r16_4, fin_of_fld (n := 16) (x := s) r4_4]
  exact check_ok hw

theorem vbcst (d : Fin 16) (a : Fin 16) (r : Fin 16) (t : Ty) : Statement (.vbcst d a r t) := by
  intro hw v he
  have hv : v = dig 4 t.code (dig 4 0 (dig 4 r.val (dig 4 0 (dig 4 a.val (dig 4 d.val (dig 7 98 (v / 2 ^ 31))))))) := by
    have h := Option.some.inj he
    unfold put at h
    unfold dig
    omega
  obtain ⟨r0_4, r4_4, r8_4, r12_4, r16_4, r20_4, r24_7⟩ := @fields34 t.code 0 r.val 0 a.val d.val 98 (v / 2 ^ 31) (ty_code_lt t) (by decide) (r.isLt) (by decide) (a.isLt) (d.isLt) (by decide)
  rw [← hv] at r0_4 r4_4 r8_4 r12_4 r16_4 r20_4 r24_7
  have hm : decodeWord v = decVbcst v := by unfold decodeWord; rw [r24_7]; rfl
  rw [hm]
  unfold decVbcst
  rw [if_pos ⟨r4_4, r12_4⟩]
  rw [r0_4, ty_ofCode_code, withCode]
  rw [fin_of_fld (n := 16) (x := d) r20_4, fin_of_fld (n := 16) (x := a) r16_4, fin_of_fld (n := 16) (x := r) r8_4]
  exact check_ok hw

theorem vshuf (d : Fin 16) (a : Fin 16) (b : Fin 16) (r : Fin 16) (s : Fin 16) (t : Ty) : Statement (.vshuf d a b r s t) := by
  intro hw v he
  have hv : v = dig 4 t.code (dig 4 s.val (dig 4 r.val (dig 4 b.val (dig 4 a.val (dig 4 d.val (dig 7 99 (v / 2 ^ 31))))))) := by
    have h := Option.some.inj he
    unfold put at h
    unfold dig
    omega
  obtain ⟨r0_4, r4_4, r8_4, r12_4, r16_4, r20_4, r24_7⟩ := @fields34 t.code s.val r.val b.val a.val d.val 99 (v / 2 ^ 31) (ty_code_lt t) (s.isLt) (r.isLt) (b.isLt) (a.isLt) (d.isLt) (by decide)
  rw [← hv] at r0_4 r4_4 r8_4 r12_4 r16_4 r20_4 r24_7
  have hm : decodeWord v = decVshuf v := by unfold decodeWord; rw [r24_7]; rfl
  rw [hm]
  unfold decVshuf
  rw [r0_4, ty_ofCode_code, withCode]
  rw [fin_of_fld (n := 16) (x := d) r20_4, fin_of_fld (n := 16) (x := a) r16_4, fin_of_fld (n := 16) (x := b) r12_4, fin_of_fld (n := 16) (x := r) r8_4, fin_of_fld (n := 16) (x := s) r4_4]
  exact check_ok hw

theorem vvote (d : Fin 16) (a : Fin 16) (o : VoteOp) (s : Fin 16) (t : Ty) : Statement (.vvote d a o s t) := by
  intro hw v he
  have hv : v = dig 4 t.code (dig 4 s.val (dig 4 0 (dig 4 o.code (dig 4 a.val (dig 4 d.val (dig 7 100 (v / 2 ^ 31))))))) := by
    have h := Option.some.inj he
    unfold put at h
    unfold dig
    omega
  obtain ⟨r0_4, r4_4, r8_4, r12_4, r16_4, r20_4, r24_7⟩ := @fields34 t.code s.val 0 o.code a.val d.val 100 (v / 2 ^ 31) (ty_code_lt t) (s.isLt) (by decide) (Nat.lt_of_lt_of_le (voteOp_code_lt o) (by decide)) (a.isLt) (d.isLt) (by decide)
  rw [← hv] at r0_4 r4_4 r8_4 r12_4 r16_4 r20_4 r24_7
  have hm : decodeWord v = decVvote v := by unfold decodeWord; rw [r24_7]; rfl
  rw [hm]
  unfold decVvote
  rw [if_pos r8_4]
  rw [r12_4, voteOp_ofCode_code, withCode]
  rw [r0_4, ty_ofCode_code, withCode]
  rw [fin_of_fld (n := 16) (x := d) r20_4, fin_of_fld (n := 16) (x := a) r16_4, fin_of_fld (n := 16) (x := s) r4_4]
  exact check_ok hw

theorem vmatch (d : Fin 16) (a : Fin 16) (r : Fin 16) (s : Fin 16) (t : Ty) : Statement (.vmatch d a r s t) := by
  intro hw v he
  have hv : v = dig 4 t.code (dig 4 s.val (dig 4 r.val (dig 4 0 (dig 4 a.val (dig 4 d.val (dig 7 101 (v / 2 ^ 31))))))) := by
    have h := Option.some.inj he
    unfold put at h
    unfold dig
    omega
  obtain ⟨r0_4, r4_4, r8_4, r12_4, r16_4, r20_4, r24_7⟩ := @fields34 t.code s.val r.val 0 a.val d.val 101 (v / 2 ^ 31) (ty_code_lt t) (s.isLt) (r.isLt) (by decide) (a.isLt) (d.isLt) (by decide)
  rw [← hv] at r0_4 r4_4 r8_4 r12_4 r16_4 r20_4 r24_7
  have hm : decodeWord v = decVmatch v := by unfold decodeWord; rw [r24_7]; rfl
  rw [hm]
  unfold decVmatch
  rw [if_pos r12_4]
  rw [r0_4, ty_ofCode_code, withCode]
  rw [fin_of_fld (n := 16) (x := d) r20_4, fin_of_fld (n := 16) (x := a) r16_4, fin_of_fld (n := 16) (x := r) r8_4, fin_of_fld (n := 16) (x := s) r4_4]
  exact check_ok hw

theorem vext (d : Fin 16) (a : Fin 16) (b : Fin 16) (s : Fin 16) (t : Ty) : Statement (.vext d a b s t) := by
  intro hw v he
  have hv : v = dig 4 t.code (dig 4 s.val (dig 4 0 (dig 4 b.val (dig 4 a.val (dig 4 d.val (dig 7 102 (v / 2 ^ 31))))))) := by
    have h := Option.some.inj he
    unfold put at h
    unfold dig
    omega
  obtain ⟨r0_4, r4_4, r8_4, r12_4, r16_4, r20_4, r24_7⟩ := @fields34 t.code s.val 0 b.val a.val d.val 102 (v / 2 ^ 31) (ty_code_lt t) (s.isLt) (by decide) (b.isLt) (a.isLt) (d.isLt) (by decide)
  rw [← hv] at r0_4 r4_4 r8_4 r12_4 r16_4 r20_4 r24_7
  have hm : decodeWord v = decVext v := by unfold decodeWord; rw [r24_7]; rfl
  rw [hm]
  unfold decVext
  rw [if_pos r8_4]
  rw [r0_4, ty_ofCode_code, withCode]
  rw [fin_of_fld (n := 16) (x := d) r20_4, fin_of_fld (n := 16) (x := a) r16_4, fin_of_fld (n := 16) (x := b) r12_4, fin_of_fld (n := 16) (x := s) r4_4]
  exact check_ok hw

theorem vins (d : Fin 16) (a : Fin 16) (b : Fin 16) (r : Fin 16) (t : Ty) : Statement (.vins d a b r t) := by
  intro hw v he
  have hv : v = dig 4 t.code (dig 4 0 (dig 4 r.val (dig 4 b.val (dig 4 a.val (dig 4 d.val (dig 7 103 (v / 2 ^ 31))))))) := by
    have h := Option.some.inj he
    unfold put at h
    unfold dig
    omega
  obtain ⟨r0_4, r4_4, r8_4, r12_4, r16_4, r20_4, r24_7⟩ := @fields34 t.code 0 r.val b.val a.val d.val 103 (v / 2 ^ 31) (ty_code_lt t) (by decide) (r.isLt) (b.isLt) (a.isLt) (d.isLt) (by decide)
  rw [← hv] at r0_4 r4_4 r8_4 r12_4 r16_4 r20_4 r24_7
  have hm : decodeWord v = decVins v := by unfold decodeWord; rw [r24_7]; rfl
  rw [hm]
  unfold decVins
  rw [if_pos r4_4]
  rw [r0_4, ty_ofCode_code, withCode]
  rw [fin_of_fld (n := 16) (x := d) r20_4, fin_of_fld (n := 16) (x := a) r16_4, fin_of_fld (n := 16) (x := b) r12_4, fin_of_fld (n := 16) (x := r) r8_4]
  exact check_ok hw

theorem vexp2 (d : Fin 16) (a : Fin 16) (r : Fin 16) (s : Fin 16) (t : Ty) : Statement (.vexp2 d a r s t) := by
  intro hw v he
  have hv : v = dig 4 t.code (dig 4 s.val (dig 4 r.val (dig 4 0 (dig 4 a.val (dig 4 d.val (dig 7 104 (v / 2 ^ 31))))))) := by
    have h := Option.some.inj he
    unfold put at h
    unfold dig
    omega
  obtain ⟨r0_4, r4_4, r8_4, r12_4, r16_4, r20_4, r24_7⟩ := @fields34 t.code s.val r.val 0 a.val d.val 104 (v / 2 ^ 31) (ty_code_lt t) (s.isLt) (r.isLt) (by decide) (a.isLt) (d.isLt) (by decide)
  rw [← hv] at r0_4 r4_4 r8_4 r12_4 r16_4 r20_4 r24_7
  have hm : decodeWord v = decVexp2 v := by unfold decodeWord; rw [r24_7]; rfl
  rw [hm]
  unfold decVexp2
  rw [if_pos r12_4]
  rw [r0_4, ty_ofCode_code, withCode]
  rw [fin_of_fld (n := 16) (x := d) r20_4, fin_of_fld (n := 16) (x := a) r16_4, fin_of_fld (n := 16) (x := r) r8_4, fin_of_fld (n := 16) (x := s) r4_4]
  exact check_ok hw

theorem vrcp (d : Fin 16) (a : Fin 16) (r : Fin 16) (s : Fin 16) (t : Ty) : Statement (.vrcp d a r s t) := by
  intro hw v he
  have hv : v = dig 4 t.code (dig 4 s.val (dig 4 r.val (dig 4 0 (dig 4 a.val (dig 4 d.val (dig 7 105 (v / 2 ^ 31))))))) := by
    have h := Option.some.inj he
    unfold put at h
    unfold dig
    omega
  obtain ⟨r0_4, r4_4, r8_4, r12_4, r16_4, r20_4, r24_7⟩ := @fields34 t.code s.val r.val 0 a.val d.val 105 (v / 2 ^ 31) (ty_code_lt t) (s.isLt) (r.isLt) (by decide) (a.isLt) (d.isLt) (by decide)
  rw [← hv] at r0_4 r4_4 r8_4 r12_4 r16_4 r20_4 r24_7
  have hm : decodeWord v = decVrcp v := by unfold decodeWord; rw [r24_7]; rfl
  rw [hm]
  unfold decVrcp
  rw [if_pos r12_4]
  rw [r0_4, ty_ofCode_code, withCode]
  rw [fin_of_fld (n := 16) (x := d) r20_4, fin_of_fld (n := 16) (x := a) r16_4, fin_of_fld (n := 16) (x := r) r8_4, fin_of_fld (n := 16) (x := s) r4_4]
  exact check_ok hw

theorem vrsq (d : Fin 16) (a : Fin 16) (r : Fin 16) (s : Fin 16) (t : Ty) : Statement (.vrsq d a r s t) := by
  intro hw v he
  have hv : v = dig 4 t.code (dig 4 s.val (dig 4 r.val (dig 4 0 (dig 4 a.val (dig 4 d.val (dig 7 106 (v / 2 ^ 31))))))) := by
    have h := Option.some.inj he
    unfold put at h
    unfold dig
    omega
  obtain ⟨r0_4, r4_4, r8_4, r12_4, r16_4, r20_4, r24_7⟩ := @fields34 t.code s.val r.val 0 a.val d.val 106 (v / 2 ^ 31) (ty_code_lt t) (s.isLt) (r.isLt) (by decide) (a.isLt) (d.isLt) (by decide)
  rw [← hv] at r0_4 r4_4 r8_4 r12_4 r16_4 r20_4 r24_7
  have hm : decodeWord v = decVrsq v := by unfold decodeWord; rw [r24_7]; rfl
  rw [hm]
  unfold decVrsq
  rw [if_pos r12_4]
  rw [r0_4, ty_ofCode_code, withCode]
  rw [fin_of_fld (n := 16) (x := d) r20_4, fin_of_fld (n := 16) (x := a) r16_4, fin_of_fld (n := 16) (x := r) r8_4, fin_of_fld (n := 16) (x := s) r4_4]
  exact check_ok hw

theorem vcpy (d : Fin 16) (a : Fin 16) (r : Fin 16) (s : Fin 16) : Statement (.vcpy d a r s) := by
  intro hw v he
  have hv : v = dig 4 0 (dig 4 s.val (dig 4 r.val (dig 4 0 (dig 4 a.val (dig 4 d.val (dig 7 107 (v / 2 ^ 31))))))) := by
    have h := Option.some.inj he
    unfold put at h
    unfold dig
    omega
  obtain ⟨r0_4, r4_4, r8_4, r12_4, r16_4, r20_4, r24_7⟩ := @fields34 0 s.val r.val 0 a.val d.val 107 (v / 2 ^ 31) (by decide) (s.isLt) (r.isLt) (by decide) (a.isLt) (d.isLt) (by decide)
  rw [← hv] at r0_4 r4_4 r8_4 r12_4 r16_4 r20_4 r24_7
  have hm : decodeWord v = decVcpy v := by unfold decodeWord; rw [r24_7]; rfl
  rw [hm]
  unfold decVcpy
  rw [if_pos ⟨r0_4, r12_4⟩]
  rw [fin_of_fld (n := 16) (x := d) r20_4, fin_of_fld (n := 16) (x := a) r16_4, fin_of_fld (n := 16) (x := r) r8_4, fin_of_fld (n := 16) (x := s) r4_4]
  exact check_ok hw

theorem xzero (d : Fin 16) : Statement (.xzero d) := by
  intro hw v he
  have hv : v = dig 6 0 (dig 6 0 (dig 8 0 (dig 4 d.val (dig 7 108 (v / 2 ^ 31))))) := by
    have h := Option.some.inj he
    unfold put at h
    unfold dig
    omega
  obtain ⟨r0_6, r6_6, r12_8, r20_4, r24_7⟩ := @fields5 0 0 0 d.val 108 (v / 2 ^ 31) (by decide) (by decide) (by decide) (d.isLt) (by decide)
  rw [← hv] at r0_6 r6_6 r12_8 r20_4 r24_7
  have hm : decodeWord v = decMajor6C v := by unfold decodeWord; rw [r24_7]; rfl
  have hn : decMajor6C v = decXzero v := by unfold decMajor6C; rw [r6_6]; rfl
  rw [hm, hn]
  unfold decXzero
  rw [if_pos ⟨r0_6, r12_8⟩]
  rw [fin_of_fld (n := 16) (x := d) r20_4]
  exact check_ok hw

theorem xfill (d : Fin 16) (a : Fin 16) : Statement (.xfill d a) := by
  intro hw v he
  have hv : v = dig 6 0 (dig 6 1 (dig 4 0 (dig 4 a.val (dig 4 d.val (dig 7 108 (v / 2 ^ 31)))))) := by
    have h := Option.some.inj he
    unfold put at h
    unfold dig
    omega
  obtain ⟨r0_6, r6_6, r12_4, r16_4, r20_4, r24_7⟩ := @fields3 0 1 0 a.val d.val 108 (v / 2 ^ 31) (by decide) (by decide) (by decide) (a.isLt) (d.isLt) (by decide)
  rw [← hv] at r0_6 r6_6 r12_4 r16_4 r20_4 r24_7
  have hm : decodeWord v = decMajor6C v := by unfold decodeWord; rw [r24_7]; rfl
  have hn : decMajor6C v = decXfill v := by unfold decMajor6C; rw [r6_6]; rfl
  rw [hm, hn]
  unfold decXfill
  rw [if_pos ⟨r0_6, r12_4⟩]
  rw [fin_of_fld (n := 16) (x := d) r20_4, fin_of_fld (n := 16) (x := a) r16_4]
  exact check_ok hw

theorem xcpy (d : Fin 16) (a : Fin 16) : Statement (.xcpy d a) := by
  intro hw v he
  have hv : v = dig 6 0 (dig 6 2 (dig 4 0 (dig 4 a.val (dig 4 d.val (dig 7 108 (v / 2 ^ 31)))))) := by
    have h := Option.some.inj he
    unfold put at h
    unfold dig
    omega
  obtain ⟨r0_6, r6_6, r12_4, r16_4, r20_4, r24_7⟩ := @fields3 0 2 0 a.val d.val 108 (v / 2 ^ 31) (by decide) (by decide) (by decide) (a.isLt) (d.isLt) (by decide)
  rw [← hv] at r0_6 r6_6 r12_4 r16_4 r20_4 r24_7
  have hm : decodeWord v = decMajor6C v := by unfold decodeWord; rw [r24_7]; rfl
  have hn : decMajor6C v = decXcpy v := by unfold decMajor6C; rw [r6_6]; rfl
  rw [hm, hn]
  unfold decXcpy
  rw [if_pos ⟨r0_6, r12_4⟩]
  rw [fin_of_fld (n := 16) (x := d) r20_4, fin_of_fld (n := 16) (x := a) r16_4]
  exact check_ok hw

theorem xtrn (d : Fin 16) (a : Fin 16) : Statement (.xtrn d a) := by
  intro hw v he
  have hv : v = dig 6 0 (dig 6 3 (dig 4 0 (dig 4 a.val (dig 4 d.val (dig 7 108 (v / 2 ^ 31)))))) := by
    have h := Option.some.inj he
    unfold put at h
    unfold dig
    omega
  obtain ⟨r0_6, r6_6, r12_4, r16_4, r20_4, r24_7⟩ := @fields3 0 3 0 a.val d.val 108 (v / 2 ^ 31) (by decide) (by decide) (by decide) (a.isLt) (d.isLt) (by decide)
  rw [← hv] at r0_6 r6_6 r12_4 r16_4 r20_4 r24_7
  have hm : decodeWord v = decMajor6C v := by unfold decodeWord; rw [r24_7]; rfl
  have hn : decMajor6C v = decXtrn v := by unfold decMajor6C; rw [r6_6]; rfl
  rw [hm, hn]
  unfold decXtrn
  rw [if_pos ⟨r0_6, r12_4⟩]
  rw [fin_of_fld (n := 16) (x := d) r20_4, fin_of_fld (n := 16) (x := a) r16_4]
  exact check_ok hw

theorem mmul (s : Fin 4) (e : Fin 8) (a : Fin 16) (f : Fin 16) (n : Fin 16) (c : Fin 16) : Statement (.mmul s e a f n c) := by
  intro hw v he
  have hv : v = dig 3 0 (dig 4 c.val (dig 4 n.val (dig 4 f.val (dig 4 a.val (dig 3 e.val (dig 2 s.val (dig 7 112 (v / 2 ^ 31)))))))) := by
    have h := Option.some.inj he
    unfold put at h
    unfold dig
    omega
  obtain ⟨r0_3, r3_4, r7_4, r11_4, r15_4, r19_3, r22_2, r24_7⟩ := @fields35 0 c.val n.val f.val a.val e.val s.val 112 (v / 2 ^ 31) (by decide) (c.isLt) (n.isLt) (f.isLt) (a.isLt) (e.isLt) (s.isLt) (by decide)
  rw [← hv] at r0_3 r3_4 r7_4 r11_4 r15_4 r19_3 r22_2 r24_7
  have hm : decodeWord v = decMmul v := by unfold decodeWord; rw [r24_7]; rfl
  rw [hm]
  unfold decMmul
  rw [if_pos r0_3]
  rw [fin_of_fld (n := 4) (x := s) r22_2, fin_of_fld (n := 8) (x := e) r19_3, fin_of_fld (n := 16) (x := a) r15_4, fin_of_fld (n := 16) (x := f) r11_4, fin_of_fld (n := 16) (x := n) r7_4, fin_of_fld (n := 16) (x := c) r3_4]
  exact check_ok hw

theorem mdrain (s : Fin 4) (d : Fin 16) (t : Ty) : Statement (.mdrain s d t) := by
  intro hw v he
  have hv : v = dig 14 0 (dig 4 t.code (dig 4 d.val (dig 2 s.val (dig 7 113 (v / 2 ^ 31))))) := by
    have h := Option.some.inj he
    unfold put at h
    unfold dig
    omega
  obtain ⟨r0_14, r14_4, r18_4, r22_2, r24_7⟩ := @fields9 0 t.code d.val s.val 113 (v / 2 ^ 31) (by decide) (ty_code_lt t) (d.isLt) (s.isLt) (by decide)
  rw [← hv] at r0_14 r14_4 r18_4 r22_2 r24_7
  have hm : decodeWord v = decMdrain v := by unfold decodeWord; rw [r24_7]; rfl
  rw [hm]
  unfold decMdrain
  rw [if_pos r0_14]
  rw [r14_4, ty_ofCode_code, withCode]
  rw [fin_of_fld (n := 4) (x := s) r22_2, fin_of_fld (n := 16) (x := d) r18_4]
  exact check_ok hw

theorem mldw (s : Fin 4) (a : Fin 16) : Statement (.mldw s a) := by
  intro hw v he
  have hv : v = dig 18 0 (dig 4 a.val (dig 2 s.val (dig 7 114 (v / 2 ^ 31)))) := by
    have h := Option.some.inj he
    unfold put at h
    unfold dig
    omega
  obtain ⟨r0_18, r18_4, r22_2, r24_7⟩ := @fields36 0 a.val s.val 114 (v / 2 ^ 31) (by decide) (a.isLt) (s.isLt) (by decide)
  rw [← hv] at r0_18 r18_4 r22_2 r24_7
  have hm : decodeWord v = decMldw v := by unfold decodeWord; rw [r24_7]; rfl
  rw [hm]
  unfold decMldw
  rw [if_pos r0_18]
  rw [fin_of_fld (n := 4) (x := s) r22_2, fin_of_fld (n := 16) (x := a) r18_4]
  exact check_ok hw

theorem mswap (s : Fin 4) : Statement (.mswap s) := by
  intro hw v he
  have hv : v = dig 22 0 (dig 2 s.val (dig 7 115 (v / 2 ^ 31))) := by
    have h := Option.some.inj he
    unfold put at h
    unfold dig
    omega
  obtain ⟨r0_22, r22_2, r24_7⟩ := @fields37 0 s.val 115 (v / 2 ^ 31) (by decide) (s.isLt) (by decide)
  rw [← hv] at r0_22 r22_2 r24_7
  have hm : decodeWord v = decMswap v := by unfold decodeWord; rw [r24_7]; rfl
  rw [hm]
  unfold decMswap
  rw [if_pos r0_22]
  rw [fin_of_fld (n := 4) (x := s) r22_2]
  exact check_ok hw

theorem macz (s : Fin 4) (e : Fin 8) : Statement (.macz s e) := by
  intro hw v he
  have hv : v = dig 19 0 (dig 3 e.val (dig 2 s.val (dig 7 116 (v / 2 ^ 31)))) := by
    have h := Option.some.inj he
    unfold put at h
    unfold dig
    omega
  obtain ⟨r0_19, r19_3, r22_2, r24_7⟩ := @fields38 0 e.val s.val 116 (v / 2 ^ 31) (by decide) (e.isLt) (s.isLt) (by decide)
  rw [← hv] at r0_19 r19_3 r22_2 r24_7
  have hm : decodeWord v = decMacz v := by unfold decodeWord; rw [r24_7]; rfl
  rw [hm]
  unfold decMacz
  rw [if_pos r0_19]
  rw [fin_of_fld (n := 4) (x := s) r22_2, fin_of_fld (n := 8) (x := e) r19_3]
  exact check_ok hw

theorem mopw (e : Fin 8) (a : Fin 16) : Statement (.mopw e a) := by
  intro hw v he
  have hv : v = dig 17 0 (dig 4 a.val (dig 3 e.val (dig 7 117 (v / 2 ^ 31)))) := by
    have h := Option.some.inj he
    unfold put at h
    unfold dig
    omega
  obtain ⟨r0_17, r17_4, r21_3, r24_7⟩ := @fields39 0 a.val e.val 117 (v / 2 ^ 31) (by decide) (a.isLt) (e.isLt) (by decide)
  rw [← hv] at r0_17 r17_4 r21_3 r24_7
  have hm : decodeWord v = decMopw v := by unfold decodeWord; rw [r24_7]; rfl
  rw [hm]
  unfold decMopw
  rw [if_pos r0_17]
  rw [fin_of_fld (n := 8) (x := e) r21_3, fin_of_fld (n := 16) (x := a) r17_4]
  exact check_ok hw

theorem mopr (e : Fin 8) (d : Fin 16) : Statement (.mopr e d) := by
  intro hw v he
  have hv : v = dig 17 0 (dig 4 d.val (dig 3 e.val (dig 7 118 (v / 2 ^ 31)))) := by
    have h := Option.some.inj he
    unfold put at h
    unfold dig
    omega
  obtain ⟨r0_17, r17_4, r21_3, r24_7⟩ := @fields39 0 d.val e.val 118 (v / 2 ^ 31) (by decide) (d.isLt) (e.isLt) (by decide)
  rw [← hv] at r0_17 r17_4 r21_3 r24_7
  have hm : decodeWord v = decMopr v := by unfold decodeWord; rw [r24_7]; rfl
  rw [hm]
  unfold decMopr
  rw [if_pos r0_17]
  rw [fin_of_fld (n := 8) (x := e) r21_3, fin_of_fld (n := 16) (x := d) r17_4]
  exact check_ok hw

theorem msave (s : Fin 4) (a : Fin 16) : Statement (.msave s a) := by
  intro hw v he
  have hv : v = dig 18 0 (dig 4 a.val (dig 2 s.val (dig 7 119 (v / 2 ^ 31)))) := by
    have h := Option.some.inj he
    unfold put at h
    unfold dig
    omega
  obtain ⟨r0_18, r18_4, r22_2, r24_7⟩ := @fields36 0 a.val s.val 119 (v / 2 ^ 31) (by decide) (a.isLt) (s.isLt) (by decide)
  rw [← hv] at r0_18 r18_4 r22_2 r24_7
  have hm : decodeWord v = decMsave v := by unfold decodeWord; rw [r24_7]; rfl
  rw [hm]
  unfold decMsave
  rw [if_pos r0_18]
  rw [fin_of_fld (n := 4) (x := s) r22_2, fin_of_fld (n := 16) (x := a) r18_4]
  exact check_ok hw

theorem mrest (s : Fin 4) (a : Fin 16) : Statement (.mrest s a) := by
  intro hw v he
  have hv : v = dig 18 0 (dig 4 a.val (dig 2 s.val (dig 7 120 (v / 2 ^ 31)))) := by
    have h := Option.some.inj he
    unfold put at h
    unfold dig
    omega
  obtain ⟨r0_18, r18_4, r22_2, r24_7⟩ := @fields36 0 a.val s.val 120 (v / 2 ^ 31) (by decide) (a.isLt) (s.isLt) (by decide)
  rw [← hv] at r0_18 r18_4 r22_2 r24_7
  have hm : decodeWord v = decMrest v := by unfold decodeWord; rw [r24_7]; rfl
  rw [hm]
  unfold decMrest
  rw [if_pos r0_18]
  rw [fin_of_fld (n := 4) (x := s) r22_2, fin_of_fld (n := 16) (x := a) r18_4]
  exact check_ok hw

theorem reservedPattern (w : W32) : Statement (.reservedPattern w) := fun _ _ h => nomatch h

theorem pendingCauseEntry (t : Nat) (c : Fin 8) : Statement (.pendingCauseEntry t c) := fun _ _ h => nomatch h

theorem timer (t : Nat) (c : Fin 8) : Statement (.timer t c) := fun _ _ h => nomatch h

theorem quantumExpiry (t : Nat) (k : Nat) : Statement (.quantumExpiry t k) := fun _ _ h => nomatch h

theorem drowsyEntry (t : Nat) (k : Nat) : Statement (.drowsyEntry t k) := fun _ _ h => nomatch h

theorem taskStart (t : Nat) : Statement (.taskStart t) := fun _ _ h => nomatch h

theorem taskEnd (t : Nat) (c : Fin 8) : Statement (.taskEnd t c) := fun _ _ h => nomatch h

theorem loadDataReturn (t : Nat) (c : Fin 8) (k : Nat) : Statement (.loadDataReturn t c k) := fun _ _ h => nomatch h

theorem storePerform (t : Nat) (c : Fin 8) (k : Nat) : Statement (.storePerform t c k) := fun _ _ h => nomatch h

theorem remoteAccessArrival (t : Nat) (c : Fin 8) (k : Nat) : Statement (.remoteAccessArrival t c k) := fun _ _ h => nomatch h

theorem tileSegmentLand (t : Nat) (k : Nat) : Statement (.tileSegmentLand t k) := fun _ _ h => nomatch h

theorem writeBlockTimeout (t : Nat) (c : Fin 8) : Statement (.writeBlockTimeout t c) := fun _ _ h => nomatch h

theorem refresh (t : Nat) (k : Nat) : Statement (.refresh t k) := fun _ _ h => nomatch h

theorem refreshEnd (t : Nat) (k : Nat) : Statement (.refreshEnd t k) := fun _ _ h => nomatch h

theorem holdEntered (t : Nat) : Statement (.holdEntered t) := fun _ _ h => nomatch h

theorem holdTimeout (t : Nat) (c : Fin 8) : Statement (.holdTimeout t c) := fun _ _ h => nomatch h

theorem rowRepairDone (t : Nat) (k : Nat) (m : Nat) : Statement (.rowRepairDone t k m) := fun _ _ h => nomatch h

theorem matrixOpStart (t : Nat) : Statement (.matrixOpStart t) := fun _ _ h => nomatch h

theorem matrixOpComplete (t : Nat) (k : Nat) : Statement (.matrixOpComplete t k) := fun _ _ h => nomatch h

theorem copyAccess (t : Nat) (k : Nat) (elems : List Nat) : Statement (.copyAccess t k elems) := fun _ _ h => nomatch h

theorem copyComplete (t : Nat) (k : Nat) : Statement (.copyComplete t k) := fun _ _ h => nomatch h

theorem scheduleEntryRelease (t : Nat) : Statement (.scheduleEntryRelease t) := fun _ _ h => nomatch h

theorem cancelArrival (k : Nat) : Statement (.cancelArrival k) := fun _ _ h => nomatch h

theorem agentServe (t : Nat) : Statement (.agentServe t) := fun _ _ h => nomatch h

theorem agentHoldTimeout (t : Nat) : Statement (.agentHoldTimeout t) := fun _ _ h => nomatch h

theorem ramblerStep (t : Nat) (k : Nat) : Statement (.ramblerStep t k) := fun _ _ h => nomatch h

theorem continuationArrival (k : Nat) : Statement (.continuationArrival k) := fun _ _ h => nomatch h

theorem gatherPool (t : Nat) : Statement (.gatherPool t) := fun _ _ h => nomatch h

theorem attentionDecode (t : Nat) : Statement (.attentionDecode t) := fun _ _ h => nomatch h

theorem replyArrival (k : Nat) : Statement (.replyArrival k) := fun _ _ h => nomatch h

theorem barrierArrival (k : Nat) : Statement (.barrierArrival k) := fun _ _ h => nomatch h

theorem barrierRelease (t : Nat) (c : Fin 8) : Statement (.barrierRelease t c) := fun _ _ h => nomatch h

theorem barrierTimeout (t : Nat) (c : Fin 8) : Statement (.barrierTimeout t c) := fun _ _ h => nomatch h

theorem wlRequestApply (t : Nat) (c : Fin 8) : Statement (.wlRequestApply t c) := fun _ _ h => nomatch h

theorem wlAnswer (t : Nat) (c : Fin 8) : Statement (.wlAnswer t c) := fun _ _ h => nomatch h

theorem preemption (p : Fin 8) : Statement (.preemption p) := fun _ _ h => nomatch h

theorem contextsHalted (p : Fin 8) : Statement (.contextsHalted p) := fun _ _ h => nomatch h

theorem tileImageSave (t : Nat) : Statement (.tileImageSave t) := fun _ _ h => nomatch h

theorem launchRestore (p : Fin 8) : Statement (.launchRestore p) := fun _ _ h => nomatch h

theorem watchdogExpiry (p : Fin 8) : Statement (.watchdogExpiry p) := fun _ _ h => nomatch h

theorem priorityAging (q : Fin 16) : Statement (.priorityAging q) := fun _ _ h => nomatch h

theorem launch (q : Fin 16) : Statement (.launch q) := fun _ _ h => nomatch h

theorem copy (q : Fin 16) : Statement (.copy q) := fun _ _ h => nomatch h

theorem copyCommandComplete (q : Fin 16) (k : Nat) : Statement (.copyCommandComplete q k) := fun _ _ h => nomatch h

theorem fenceCommand (q : Fin 16) : Statement (.fenceCommand q) := fun _ _ h => nomatch h

theorem signal (q : Fin 16) : Statement (.signal q) := fun _ _ h => nomatch h

theorem waitval (q : Fin 16) : Statement (.waitval q) := fun _ _ h => nomatch h

theorem cond (q : Fin 16) : Statement (.cond q) := fun _ _ h => nomatch h

theorem publishCommand (q : Fin 16) : Statement (.publishCommand q) := fun _ _ h => nomatch h

theorem launchComplete (p : Fin 8) : Statement (.launchComplete p) := fun _ _ h => nomatch h

theorem resumeTakesEffect (t : Nat) (c : Fin 8) : Statement (.resumeTakesEffect t c) := fun _ _ h => nomatch h

theorem clearComplete (p : Fin 8) : Statement (.clearComplete p) := fun _ _ h => nomatch h

theorem pairIntervalEnd (t : Nat) (c : Fin 8) (b : Bool) : Statement (.pairIntervalEnd t c b) := fun _ _ h => nomatch h

theorem replayWaitTimeout (t : Nat) : Statement (.replayWaitTimeout t) := fun _ _ h => nomatch h

theorem eventCounterWrap (t : Nat) (k : Nat) (i : Fin 4) : Statement (.eventCounterWrap t k i) := fun _ _ h => nomatch h

theorem thermalSample (t : Nat) (temp : Int) : Statement (.thermalSample t temp) := fun _ _ h => nomatch h

theorem maintenanceHold (t : Nat) : Statement (.maintenanceHold t) := fun _ _ h => nomatch h

theorem maintenanceRelease (t : Nat) : Statement (.maintenanceRelease t) := fun _ _ h => nomatch h

theorem qtail (q : Fin 16) (v : Word) : Statement (.qtail q v) := fun _ _ h => nomatch h

theorem shoot (v : Word) : Statement (.shoot v) := fun _ _ h => nomatch h

theorem shootdownComplete : Statement (.shootdownComplete) := fun _ _ h => nomatch h

theorem crst (v : Word) : Statement (.crst v) := fun _ _ h => nomatch h

theorem mbdata (v : Word) : Statement (.mbdata v) := fun _ _ h => nomatch h

theorem bar2Read (a : Nat) : Statement (.bar2Read a) := fun _ _ h => nomatch h

theorem bar2Write (a : Nat) (v : Word) : Statement (.bar2Write a v) := fun _ _ h => nomatch h

theorem priResponse (a : Nat) (b : Bool) : Statement (.priResponse a b) := fun _ _ h => nomatch h

theorem atsInvalidation (a : Nat) : Statement (.atsInvalidation a) := fun _ _ h => nomatch h

theorem registerWrite (a : Nat) (wide : Bool) (v : Word) : Statement (.registerWrite a wide v) := fun _ _ h => nomatch h

theorem fwcmdQueueReset (q : Fin 16) : Statement (.fwcmdQueueReset q) := fun _ _ h => nomatch h

theorem fwcmdPartitionReset (p : Fin 8) : Statement (.fwcmdPartitionReset p) := fun _ _ h => nomatch h

theorem fwcmdDeviceReset : Statement (.fwcmdDeviceReset) := fun _ _ h => nomatch h

theorem relclr (v : Word) : Statement (.relclr v) := fun _ _ h => nomatch h

theorem dbgHalt : Statement (.dbgHalt) := fun _ _ h => nomatch h

theorem dbgResume : Statement (.dbgResume) := fun _ _ h => nomatch h

theorem dbgStep : Statement (.dbgStep) := fun _ _ h => nomatch h

theorem rdreg (idx : Fin 256) : Statement (.rdreg idx) := fun _ _ h => nomatch h

theorem wrreg (idx : Fin 256) : Statement (.wrreg idx) := fun _ _ h => nomatch h

theorem rdrow (idx : Fin 256) (row : Fin 16) : Statement (.rdrow idx row) := fun _ _ h => nomatch h

theorem wrrow (idx : Fin 256) (row : Fin 16) : Statement (.wrrow idx row) := fun _ _ h => nomatch h

theorem rdmem : Statement (.rdmem) := fun _ _ h => nomatch h

theorem wrmem : Statement (.wrmem) := fun _ _ h => nomatch h

theorem rdslot (idx : Fin 256) (slot : Fin 4) : Statement (.rdslot idx slot) := fun _ _ h => nomatch h

theorem evwait (d : Fin 16) : Statement (.evwait d) := fun _ _ h => nomatch h

theorem pctlHalt (p : Fin 8) : Statement (.pctlHalt p) := fun _ _ h => nomatch h

theorem pctlCancel (p : Fin 8) : Statement (.pctlCancel p) := fun _ _ h => nomatch h

theorem pctlClear (p : Fin 8) : Statement (.pctlClear p) := fun _ _ h => nomatch h

theorem pctlRun (p : Fin 8) (b : Bool) : Statement (.pctlRun p b) := fun _ _ h => nomatch h

theorem qend (v : Word) : Statement (.qend v) := fun _ _ h => nomatch h

theorem jalloc (d : Fin 16) : Statement (.jalloc d) := fun _ _ h => nomatch h

theorem jw (k : Fin 8) (v : Word) : Statement (.jw k v) := fun _ _ h => nomatch h

theorem powerOn : Statement (.powerOn) := fun _ _ h => nomatch h

theorem mctpControl : Statement (.mctpControl) := fun _ _ h => nomatch h

theorem getId (k : Nat) : Statement (.getId k) := fun _ _ h => nomatch h

theorem attest (nonce : BitVec 256) : Statement (.attest nonce) := fun _ _ h => nomatch h

theorem journalRead (v : Word) (k : Nat) : Statement (.journalRead v k) := fun _ _ h => nomatch h

theorem telemetry (k : Nat) (m : Nat) : Statement (.telemetry k m) := fun _ _ h => nomatch h

theorem dumpRead (v : Word) (k : Nat) (m : Nat) : Statement (.dumpRead v k m) := fun _ _ h => nomatch h

theorem queueReset (q : Fin 16) : Statement (.queueReset q) := fun _ _ h => nomatch h

theorem partitionReset (p : Fin 8) : Statement (.partitionReset p) := fun _ _ h => nomatch h

theorem deviceReset : Statement (.deviceReset) := fun _ _ h => nomatch h

theorem fwBegin : Statement (.fwBegin) := fun _ _ h => nomatch h

theorem fwData (k : Nat) (data : List Byte) : Statement (.fwData k data) := fun _ _ h => nomatch h

theorem fwCommit : Statement (.fwCommit) := fun _ _ h => nomatch h

theorem machineCheck (t : Nat) : Statement (.machineCheck t) := fun _ _ h => nomatch h

theorem peerLinkFailure (k : Nat) : Statement (.peerLinkFailure k) := fun _ _ h => nomatch h

theorem patrolScrub (t : Nat) : Statement (.patrolScrub t) := fun _ _ h => nomatch h

theorem sramScrub (t : Nat) : Statement (.sramScrub t) := fun _ _ h => nomatch h

theorem matrixSpareSwitch (t : Nat) : Statement (.matrixSpareSwitch t) := fun _ _ h => nomatch h

theorem uvWindow (s : Fin 8) : Statement (.uvWindow s) := fun _ _ h => nomatch h

theorem verificationWindow (s : Fin 8) : Statement (.verificationWindow s) := fun _ _ h => nomatch h

theorem verificationWindowEnd (s : Fin 8) : Statement (.verificationWindowEnd s) := fun _ _ h => nomatch h

theorem networkSnapshot : Statement (.networkSnapshot) := fun _ _ h => nomatch h

theorem pcieLinkStateChange (b : Bool) : Statement (.pcieLinkStateChange b) := fun _ _ h => nomatch h

theorem unservedMctpMessage (k : Nat) : Statement (.unservedMctpMessage k) := fun _ _ h => nomatch h

end Sys2Proof.Laws.EncodeDecode
end

