-- ==== Sys2Proof/Laws/Rows.lean ====
section
/-! SUPPORT. Rows by their elements: packing, taking, and the bitwise operations, one lemma each; and how the operand
forms of the row instructions go on (R30, R136 to R141). -/

namespace Sys2Proof.Machine

/-- Packed elements fit their width. -/
theorem packElems_lt (w : Nat) (l : List Nat) : packElems w l < 2 ^ (w * l.length) := by
  induction l with
  | nil => simp [packElems]
  | cons c r ih =>
    rw [packElems, List.length_cons, Nat.mul_succ, Nat.add_comm, Nat.pow_add, Nat.mul_comm (2 ^ (w * r.length))]
    have h : c % 2 ^ w < 2 ^ w := Nat.mod_lt _ (Nat.two_pow_pos w)
    calc 2 ^ w * packElems w r + c % 2 ^ w < 2 ^ w * packElems w r + 2 ^ w := by omega
      _ = 2 ^ w * (packElems w r + 1) := by ring
      _ ≤ 2 ^ w * 2 ^ (w * r.length) := Nat.mul_le_mul_left _ ih

/-- Each element of a packed row. -/
theorem packElems_div (w : Nat) : ∀ (l : List Nat) (i : Nat), packElems w l / 2 ^ (w * i) % 2 ^ w = l.getD i 0 % 2 ^ w
  | [], i => by simp [packElems]
  | c :: r, 0 => by simp [packElems, Nat.add_mul_mod_self_left]
  | c :: r, i + 1 => by
    have h : (c % 2 ^ w + 2 ^ w * packElems w r) / 2 ^ (w * (i + 1)) = packElems w r / 2 ^ (w * i) := by
      rw [Nat.mul_succ, Nat.add_comm (w * i), Nat.pow_add, ← Nat.div_div_eq_div_mul,
        Nat.add_mul_div_left _ _ (Nat.two_pow_pos w), Nat.div_eq_of_lt (Nat.mod_lt _ (Nat.two_pow_pos w)), Nat.zero_add]
    rw [packElems, h, packElems_div w r i]; simp

/-- An element of a row built from elements. -/
theorem elem_pack {w n : Nat} {l : List Nat} (h : w * l.length ≤ 512) : elem w (BitVec.ofNat 512 (packElems w l)) n = l.getD n 0 % 2 ^ w := by
  rw [elem, BitVec.toNat_ofNat, Nat.mod_eq_of_lt (lt_of_lt_of_le (packElems_lt w l) (Nat.pow_le_pow_right (by decide) h)),
    packElems_div]

/-- Elements fill a row. -/
theorem width_count (t : Ty) : tyWidth t * tyCount t = 512 := by cases t <;> decide

/-- An element of a computed row. -/
theorem rowOf_elem {t : Ty} {f : Nat → Nat × Nat} {j : Nat} (h : j < tyCount t) :
    elem (tyWidth t) (rowOf (tyWidth t) ((List.range (tyCount t)).map f)).1 j = (f j).1 % 2 ^ tyWidth t := by
  rw [rowOf, elem_pack (by simp [width_count])]
  simp [List.getD, h]

/-- The flags of a computed row. -/
theorem rowOf_flags {w : Nat} {l : List Nat} {f : Nat → Nat × Nat} :
    (rowOf w (l.map f)).2 = l.foldl (fun n j => n ||| (f j).2) 0 := by
  rw [rowOf]; simp only [List.foldl_map]

/-- R136 to R139: the three-row form with bound names and ready rows. -/
theorem row2_of {s : State} {d a b r k : Fin 16} {pa pb pd : Nat} (ha : nameOf s a = some pa) (hb : nameOf s b = some pb) (hd : nameOf s d = some pd)
    (h : RowsReady s [(pa, k.val), (pb, k.val)] [(pd, r.val)]) (z : Bool) (f) :
    row2 s d a b r k z f = .done (raiseFp (f (rdRow s pa k.val).bits (rdRow s pb k.val).bits (rdRow s pd r.val).bits).2
      (wrRow pd r.val { bits := (f (rdRow s pa k.val).bits (rdRow s pb k.val).bits (rdRow s pd r.val).bits).1, poison := rowsPoison (if z then [rdRow s pa k.val, rdRow s pb k.val, rdRow s pd r.val] else [rdRow s pa k.val, rdRow s pb k.val]) }
        (touchReg pb (touchReg pa s)))) .next := by
  rw [row2, withName_of ha, withName_of hb, withName_of hd, readyRows_of h]

theorem elem_bits (w : Nat) (x : BitVec 512) (j : Nat) : elem w x j = (x >>> (w * j)).toNat % 2 ^ w := by
  simp [elem, Nat.shiftRight_eq_div_pow]

/-- R141, element by element. -/
theorem elem_and (w : Nat) (x y : BitVec 512) (j : Nat) : elem w (x &&& y) j = elem w x j &&& elem w y j := by
  simp only [elem_bits]
  apply Nat.eq_of_testBit_eq; intro i
  simp only [Nat.testBit_and, Nat.testBit_mod_two_pow, BitVec.toNat_ushiftRight, BitVec.toNat_and, Nat.testBit_shiftRight]
  cases decide (i < w) <;> simp

/-- R141, element by element. -/
theorem elem_or (w : Nat) (x y : BitVec 512) (j : Nat) : elem w (x ||| y) j = elem w x j ||| elem w y j := by
  simp only [elem_bits]
  apply Nat.eq_of_testBit_eq; intro i
  simp only [Nat.testBit_or, Nat.testBit_mod_two_pow, BitVec.toNat_ushiftRight, BitVec.toNat_or, Nat.testBit_shiftRight]
  cases decide (i < w) <;> simp

/-- R141, element by element. -/
theorem elem_xor (w : Nat) (x y : BitVec 512) (j : Nat) : elem w (x ^^^ y) j = elem w x j ^^^ elem w y j := by
  simp only [elem_bits]
  apply Nat.eq_of_testBit_eq; intro i
  simp only [Nat.testBit_xor, Nat.testBit_mod_two_pow, BitVec.toNat_ushiftRight, BitVec.toNat_xor, Nat.testBit_shiftRight]
  cases decide (i < w) <;> simp

/-- R141, element by element. -/
theorem elem_not (t : Ty) (x : BitVec 512) {j : Nat} (h : j < tyCount t) : elem (tyWidth t) (~~~x) j = 2 ^ tyWidth t - 1 - elem (tyWidth t) x j := by
  have hb : tyWidth t * j + tyWidth t ≤ 512 := by
    have := width_count t
    calc tyWidth t * j + tyWidth t = tyWidth t * (j + 1) := by ring
      _ ≤ tyWidth t * tyCount t := Nat.mul_le_mul_left _ h
      _ = 512 := this
  have he : elem (tyWidth t) x j < 2 ^ tyWidth t := Nat.mod_lt _ (Nat.two_pow_pos _)
  have e : 2 ^ tyWidth t - 1 - elem (tyWidth t) x j = 2 ^ tyWidth t - (elem (tyWidth t) x j + 1) := by omega
  rw [e]
  apply Nat.eq_of_testBit_eq; intro i
  rw [Nat.testBit_two_pow_sub_succ he, elem_bits, elem_bits]
  simp only [Nat.testBit_mod_two_pow, BitVec.testBit_toNat, BitVec.getLsbD_ushiftRight]
  by_cases hi : i < tyWidth t
  · simp only [hi, decide_true, Bool.true_and]
    rw [BitVec.getLsbD_not]
    simp; omega
  · simp [hi]

theorem elem_mod (w : Nat) (x : BitVec 512) (j : Nat) : elem w x j % 2 ^ w = elem w x j := Nat.mod_mod _ _

theorem elem_lt (w : Nat) (x : BitVec 512) (j : Nat) : elem w x j < 2 ^ w := Nat.mod_lt _ (Nat.two_pow_pos w)

/-- R136 to R139: the two-row form. -/
theorem row1_of {s : State} {d a r k : Fin 16} {pa pd : Nat} (ha : nameOf s a = some pa) (hd : nameOf s d = some pd)
    (h : RowsReady s [(pa, k.val)] [(pd, r.val)]) (f) :
    row1 s d a r k f = .done (raiseFp (f (rdRow s pa k.val).bits).2
      (wrRow pd r.val { bits := (f (rdRow s pa k.val).bits).1, poison := (rdRow s pa k.val).poison } (touchReg pa s))) .next := by
  rw [row1, withName_of ha, withName_of hd, readyRows_of h]

/-- R138: the form that takes a scalar from a row. -/
theorem rowScalar_of {s : State} {d a k : Fin 16} {idx} {pa : Nat} (ha : nameOf s a = some pa)
    (h : RowsReady s [(pa, k.val)] []) (hr : Ready s (d :: idx)) (f) :
    rowScalar s d a k idx f = .done (raiseFp (f (rdRow s pa k.val).bits).2 (wrS d
      { val := BitVec.ofNat 64 (f (rdRow s pa k.val).bits).1, poison := (rdRow s pa k.val).poison || anyPoison s idx } (touchReg pa s))) .next := by
  rw [rowScalar, withName_of ha, ready_of hr, readyRows_of h]

end Sys2Proof.Machine
end

