-- ==== Sys2Proof/Tests/Slice0.lean ====
section
/-! SUPPORT. Small tests: ill-formed terms, words of the manual, worked values, and for each obligation a state that
meets its hypotheses. Expected values are computed by hand from the rules named. -/

namespace Sys2Proof.Tests

open Sys2Proof Sys2Proof.Machine

set_option Elab.async false
/-! Ill-formed terms: one for each check of WellFormed. -/

theorem test_wf_refuses_tlbinv : Instr.wf (.tlbinv 1 true) = false := by decide
theorem test_wf_refuses_loop : Instr.wf (.loop 4 0 15 1 0) = false := by decide
theorem test_wf_refuses_cpy : Instr.wf (.cpy 1 0 true false) = false := by decide
theorem test_wf_refuses_types : Instr.wf (.vadd 1 2 3 0 0 .q4) = false ∧ Instr.wf (.vshl 1 2 3 0 0 .f16) = false ∧
    Instr.wf (.vred 1 2 .and 0 .f32) = false ∧ Instr.wf (.vvote 1 2 .ballot 0 .bit) = false ∧
    Instr.wf (.vmatch 1 2 0 0 .q4) = false ∧ Instr.wf (.vexp2 1 2 0 0 .i8) = false := by decide
theorem test_wf_refuses_mmul : Instr.wf (.mmul 1 2 5 1 15 15) = false := by decide
theorem test_wf_refuses_tile : Instr.wf (.timer 2049 0) = false ∧ Instr.wf (.quantumExpiry 0 2) = false ∧
    Instr.wf (.drowsyEntry 0 32) = false ∧ Instr.wf (.refresh 0 24) = false ∧ Instr.wf (.rowRepairDone 0 0 5462) = false := by
  decide
theorem test_wf_refuses_host : Instr.wf (.bar2Read (2 ^ 34)) = false ∧ Instr.wf (.bar2Write 4 0) = false ∧
    Instr.wf (.registerWrite 4 true 0) = false ∧ Instr.wf (.journalRead 0 17) = false ∧
    Instr.wf (.fwData 0 (List.replicate 1025 0)) = false := by decide +kernel

/-! Decoding: words laid out by hand from the encodings of the manual. -/

theorem test_decode_sys : decodeWord 0x80000040 = .ok .halt ∧ decodeWord 0x81500000 = .ok (.pfx .acquire .device .dflt .dflt) ∧
    decodeWord 0x8242E210 = .ok (.loop 4 11 8 2 1) := by decide +kernel
theorem test_decode_branch : decodeWord 0x8A0C3FFE = .ok (.bz .none 3 16382) := by decide +kernel
theorem test_decode_access : decodeWord 0x90318000 = .ok (.ld 3 1 .w 0) ∧ decodeWord 0x926EFFFE = .ok (.st 6 14 .d 16382) ∧
    decodeWord 0x95347001 = .ok (.vld 3 4 7 1) ∧ decodeWord 0x9B040020 = .ok (.rowact 4 32) := by decide +kernel
theorem test_decode_moves : decodeWord 0x9734D002 = .ok (.xld 3 4 true 5 2) ∧ decodeWord 0x97345000 = .ok (.xld 3 4 false 5 0) := by
  decide +kernel
theorem test_decode_atomics : decodeWord 0x9C345003 = .ok (.aadd 3 4 5 .d) ∧ decodeWord 0x9C34525A = .ok (.acas 3 4 5 6 .w) := by
  decide +kernel
theorem test_decode_matrix : decodeWord 0xF05287B8 = .ok (.mmul 1 2 5 0 15 7) ∧ decodeWord 0xF15A8000 = .ok (.mdrain 1 6 .bf16) ∧
    decodeWord 0xF21C0000 = .ok (.mldw 0 7) ∧ decodeWord 0xF3C00000 = .ok (.mswap 3) ∧ decodeWord 0xF4500000 = .ok (.macz 1 2) ∧
    decodeWord 0xF5720000 = .ok (.mopw 3 9) ∧ decodeWord 0xF6680000 = .ok (.mopr 3 4) ∧ decodeWord 0xF7A00000 = .ok (.msave 2 8) ∧
    decodeWord 0xF8A00000 = .ok (.mrest 2 8) := by decide +kernel
theorem test_decode_copy : decodeWord 0xA1000004 = .ok (.cpys 4) := by decide +kernel
theorem test_decode_sync : decodeWord 0xA8303005 = .ok (.barArr 3 .cluster 5) ∧ decodeWord 0xA8033045 = .ok (.barWait 3 .cluster 5) ∧
    decodeWord 0xA8002082 = .ok (.barAw .tile 2) ∧ decodeWord 0xA9010004 = .ok (.sig 1 4) ∧ decodeWord 0xA9020044 = .ok (.wsem 2 4) ∧
    decodeWord 0xA9520084 = .ok (.tsem 5 2 4) ∧ decodeWord 0xAA045003 = .ok (.asarm 4 5 3) ∧
    decodeWord 0xAA067043 = .ok (.aswait 6 7 3) ∧ decodeWord 0xAA260083 = .ok (.astest 2 6 0 3) := by decide +kernel
theorem test_decode_hamper : decodeWord 0xAC040000 = .ok (.claim 4) ∧ decodeWord 0xAC240040 = .ok (.acq 2 4) ∧
    decodeWord 0xAC240080 = .ok (.acqt 2 4) ∧ decodeWord 0xAC0400C0 = .ok (.rel 4) ∧ decodeWord 0xAC000100 = .ok .relall ∧
    decodeWord 0xAC340140 = .ok (.resq 3 4) := by decide +kernel
theorem test_decode_scalar : decodeWord 0xC0123484 = .ok (.sel 1 2 3 4) ∧ decodeWord 0xC16780C0 = .ok (.div 6 7 8) ∧
    decodeWord 0xCC5671C2 = .ok (.fcmp 5 6 7 .lt .f32) ∧ decodeWord 0xCC120207 = .ok (.fcvt 1 2 .i32f64) ∧
    decodeWord 0xCD123034 = .ok (.fma 1 2 3 true .f64 4) := by decide +kernel
theorem test_decode_tiles : decodeWord 0xEC5600C0 = .ok (.xtrn 5 6) ∧ decodeWord 0xEC290040 = .ok (.xfill 2 9) := by decide +kernel

/-! A small machine: tile 0 with one task on context 4. -/

/-- The scalars: s1 in the own scratchpad, s2 in the own vault, s3 a host page, s4 another tile's vault, s5 = 7, s6
poisoned, s7 misaligned, s8 = 2, s9 an arrival set of one chunk. -/
def deskScalars : Sparse Scalar :=
  [(1, { val := 0x1000000 }), (2, { val := 0x1010000 }), (3, { val := 0x100000000 }), (4, { val := 0x200000000 }),
   (5, { val := 7 }), (6, { val := 5, poison := true }), (7, { val := 0x1000001 }), (8, { val := 2 }), (9, { val := 0x100000200 }), (15, { val := -7 })]

/-- A SUPER context with a spill window of 64 KiB in the scratchpad and as much in the vault, and a bound name. -/
def deskCtx : Ctx :=
  { phase := .running, launch := 1, status := 0x21, sregs := deskScalars, names := [(3, (3, false)), (5, (5, false))],
    spillb := 0x1010000, spillov := 0x100000, spilllim := 0x20000, handler := 0x40 }

/-- The tile; its core holds four lone NOPs. -/
def deskTile (y : Ctx) : Tile :=
  { launch := 1, ctxs := [(4, y)],
    cores := [(1, { image := wordsImage 0 [0x80000000, 0x80000000, 0x80000000, 0x80000000], imageLen := 16 })],
    xregs := [(3, { bound := true, rows := [(1, { bits := 3 })] }), (5, { bound := true, rows := [(2, { bits := 5 })] })],
    slots := [(1, { owner := some 4, kind := some (0, false) })],
    tlb := [{ base := 0x100000000, size := 0x10000, leaf := 0x10000000011B },
            { base := 0x200000000, size := 0x10000, leaf := 0x50000119 }] }

/-- The device around a context of tile 0. -/
def desk (y : Ctx) : State :=
  { State.reset with launches := [{ serial := 1 }], ats := [0], time := 100, tiles := [(0, deskTile y)] }

/-- The bench on which most hypotheses are met. -/
def bench : State := desk deskCtx

/-- A launch that neither records nor replays leaves its tile unlogged. -/
theorem unlogged_by {s : State} {l : Launch} (h : launchOf s (curTile s).launch = some l) (hr : l.recording = none) :
    Unlogged s := by
  intro k hk
  rw [h] at hk
  cases hk
  exact hr

/-- Whether an outcome is a next state, and what it then shows. -/
def goesOn (o : Host.Outcome State Fault Refusal) : Bool :=
  match o with
  | .next _ => true
  | .fault _ | .refused _ => false

/-- A view of the next state. -/
def seen {α : Type} (o : Host.Outcome State Fault Refusal) (f : State → α) : Option α :=
  match o with
  | .next s => some (f s)
  | .fault _ | .refused _ => none

/-! Hypotheses of the obligations on groups, met on the bench. -/

theorem test_meets_AluTwoOperandResults : Ready bench [0, 15, 6] := by unfold Ready; decide +kernel
theorem test_meets_AluCountsAndMoves : Ready bench [0, 15, 6, 5] := by unfold Ready; decide +kernel
theorem test_meets_MultiplyDivideImmediateResults : Ready bench [1, 15, 0] ∧ (rdS bench 0).val = 0 := by
  unfold Ready; decide +kernel
theorem test_meets_FloatResults : Ready bench [15, 1, 2] ∧ Ready bench [0, 6, 15, 5] := by unfold Ready; decide +kernel
theorem test_meets_FclassMask : Ready bench [15, 0] := by unfold Ready; decide +kernel
theorem test_meets_BranchesJumpsAndLoops_branch : Ready bench [1, 15] ∧ Clean bench [1, 15] := by
  unfold Ready Clean; decide +kernel
theorem test_meets_BranchesJumpsAndLoops_poison : Ready bench [6, 15] ∧ Ready bench [15, 6] ∧ Ready bench [6] ∧
    (rdS bench 6).poison = true ∧ Legal bench (.loop 6 1 8 2 1) := by
  unfold Ready Legal; and_intros <;> decide +kernel
theorem test_meets_BranchesJumpsAndLoops_jump : Ready bench [15] ∧ Ready bench [1] ∧ Clean bench [1] ∧
    (rdS bench 1).val.toNat % 4 = 0 ∧ Ready bench [7] ∧ Clean bench [7] ∧ (rdS bench 7).val.toNat % 4 ≠ 0 := by
  unfold Ready Clean; decide +kernel
theorem test_meets_BranchesJumpsAndLoops_loop : Legal bench (.loop 5 1 8 2 1) ∧ Ready bench [5] ∧ Clean bench [5] ∧
    (∀ k, k < 2 → fetchWord bench bench.focusTile bench.focusCtx (4 + 4 * k) = some 0x80000000 ∧ bodyForbids 0x80000000 = false) ∧
    seqAddr bench bench.focusTile bench.focusCtx (opCtx bench).pc = 4 ∧
    endsInPair 4 (([0x80000000, 0x80000000] : List Nat).map some) = false := by
  unfold Legal Ready Clean; decide +kernel
theorem test_meets_SystemWordsComplete : (coreOf bench 0 1).mode = false ∧
    (coreOf (modCore 0 1 (fun k => { k with mode := true }) bench) 0 1).mode = true ∧
    loadCount bench ≤ (0 : Fin 64).val ∧ storeCount bench ≤ (0 : Fin 64).val ∧ copyCount bench ≤ (0 : Fin 64).val ∧
    matCount bench ≤ (0 : Fin 64).val ∧ heldWrite bench = none ∧ matCount bench = 0 ∧ curMoves bench = [] := by decide +kernel
theorem test_meets_FenceAndPublishComplete_fence : fenceOrd bench .dflt = .relaxed ∧ fenceOrd bench .acquire = .acquire ∧
    releases (fenceOrd bench .release) = true ∧ OrderMet bench (fenceOrd bench .release) bench ∧
    accWait (curTile bench) ((cur bench).accs.filter unperformed) [] = none ∧ imageLoads (modCur issueMerged bench) = false ∧
    Sparse.get none (curTile bench).pairs bench.focusCtx = none := by
  unfold OrderMet; decide +kernel
theorem test_meets_FenceAndPublishComplete_publish : ∃ r, Ready bench [3, 5] ∧ Clean bench [3, 5] ∧
    checkAccess bench (curView bench) (.core (coreIx bench.focusCtx)) (rdS bench 3).val 8 8 true .dflt .host = .ok r ∧
    r.wb = false ∧ (cur bench).priFail = false ∧ bench.mgmt.link = true ∧ hostAllows bench r.pa true = true ∧
    ReleaseMet bench bench := by
  refine ⟨{ pa := 2 ^ 44, tgt := .host, entry := some { base := 0x100000000, size := 0x10000, leaf := 0x10000000011B } }, ?_⟩
  unfold Ready Clean ReleaseMet; decide +kernel
/-- The scratchpad word that s1 addresses. -/
def deskWord : Resolved := { pa := 2 ^ 40 + 0x40000, tgt := .scratch }
/-- The vault word that s2 addresses. -/
def deskVault : Resolved := { pa := 0x100000, tgt := .vault }
/-- The bench with a task at TASK privilege. -/
def plain : State := desk { deskCtx with status := 0x20 }
/-- The bench with 8, a PPRV of FIRM, in s5. -/
def bench8 : State := desk { deskCtx with sregs := Sparse.set 5 { val := 8 } deskScalars }

theorem test_meets_ControlRegistersMove : Legal bench (.mfc 5 .time) ∧ Legal bench (.mfc 0 .status) ∧ Ready bench [0] ∧
    Ready bench [5] ∧ Clean bench [5] ∧ replaying bench bench.focusTile = false ∧
    Legal bench (.mtc 5 .mdef) ∧ cregRefuses .mdef (rdS bench 5).val = true ∧
    Legal bench (.mtc 5 .status) ∧ cregRefuses .status (rdS bench8 5).val = false ∧ wfld (rdS bench8 5).val 2 2 > prv (opCtx bench8) ∧
    Ready bench8 [5] ∧ Clean bench8 [5] ∧ Legal bench8 (.mtc 5 .status) ∧
    cregRefuses .status (rdS bench 1).val = true ∧ cregRefuses .fpflags (rdS bench 5).val = false ∧
    Legal bench (.tlbinv 3 false) ∧ Ready bench [3] ∧ Clean bench [3] := by
  unfold Legal Ready Clean; and_intros <;> decide +kernel
theorem test_meets_ControlRegistersMove_status : (rdS bench 0).val = 0 ∧ Legal bench (.mtc 0 .status) ∧ Ready bench [0] ∧
    Clean bench [0] ∧ cregRefuses .status (rdS bench 0).val = false ∧ wfld (rdS bench 0).val 2 2 ≤ prv (opCtx bench) := by
  unfold Legal Ready Clean; and_intros <;> decide +kernel
/-- The bench with a translation that TLBINV at s3 drops, and an agent in the middle of its writes. -/
def invalidating : State := { bench with tiles := [(0, { deskTile deskCtx with agentq := [{ id := 9, writes := [[(0x100000, 8, 7, false)]] }] })] }
theorem test_meets_ControlRegistersMove_wait : Legal invalidating (.tlbinv 3 false) ∧ Ready invalidating [3] ∧ Clean invalidating [3] ∧
    (∃ q ∈ (curTile invalidating).agentq, q.writes ≠ []) ∧ (∀ q ∈ (curTile bench).agentq, q.writes = []) ∧
    (∃ e ∈ (curTile invalidating).agentTlb ++ (curTile invalidating).tlb, e.base ≤ (rdS invalidating 3).val.toNat ∧
      (rdS invalidating 3).val.toNat < e.base + e.size) := by
  unfold Legal Ready Clean; and_intros <;> decide +kernel
theorem test_meets_EretRestores : Legal bench .eret ∧ prv (cur bench) = 1 ∧ bench.grp.snap = none ∧ pm (cur bench) = false ∧
    bench.focusTile ≠ Config.fwTile ∧ wbit (cur bench).eloop 31 = false ∧ wbit (Sparse.get 0 (curTile bench).mon 0) 63 = false ∧
    stoppedMove (cur bench) = none := by
  unfold Legal; and_intros <;> decide +kernel
/-- The bench with a loop in ELOOP. -/
def looped : State := desk { deskCtx with eloop := 0x80000000 }
theorem test_meets_EretRestores_loop : Legal looped .eret ∧ prv (cur looped) = 1 ∧ looped.grp.snap = none ∧ pm (cur looped) = false ∧
    looped.focusTile ≠ Config.fwTile ∧ wbit (cur looped).eloop 31 = true := by
  unfold Legal; and_intros <;> decide +kernel
/-- A handler at FIRM with its shadow registers. -/
def firm : State := desk { deskCtx with status := 0x22, shadow := [1, 2, 3, 0, 5, 6, 7, 0, 0x21] }
theorem test_meets_EretRestores_firm : Legal firm .eret ∧ prv (cur firm) = 2 ∧ firm.grp.snap = none ∧ pm (cur firm) = false ∧
    firm.focusTile ≠ Config.fwTile ∧ (cur firm).shadow = [1, 2, 3, 0, 5, 6, 7, 0, 0x21] := by
  unfold Legal; and_intros <;> decide +kernel
/-- A handler whose registers ask for a move, whose word is given, at the scratchpad word of s1. -/
def resuming (mw : Word) : State := desk { deskCtx with status := 0xA1, ecause := mw <<< 32, eval := 0x1000000 }
theorem test_meets_EretRestores_bad : Legal (resuming 1) .eret ∧ prv (cur (resuming 1)) = 1 ∧ (resuming 1).grp.snap = none ∧
    pm (cur (resuming 1)) = true ∧ wfld (cur (resuming 1)).ecause 32 32 = 1 := by
  unfold Legal; and_intros <;> decide +kernel
/-- The 16 segments of a move from s1. -/
def deskSegs : List Resolved := (List.range 16).map fun i => { deskWord with pa := deskWord.pa + 64 * i }
theorem test_meets_EretRestores_move : ∀ i ∈ [Instr.xld 3 1 false 0 0, .xldt 3 1 .byte 0, .xst 3 1 0 0, .wld 1 1 false 0 0],
    let mw := ((encode i).map fun n => n % 2 ^ 31).getD 0
    let s := resuming (BitVec.ofNat 64 mw)
    let s' := eretState s
    let z := ctxOf s' s.focusTile s.focusCtx
    staticCause s .eret = none ∧ wfld (cur s).ecause 32 32 = mw ∧ 0x17 ≤ mw / 2 ^ 24 % 128 ∧ mw / 2 ^ 24 % 128 ≤ 0x1A ∧
    (cur s).eval.toNat / 16 % 4 = 0 ∧ decodeWord mw = .ok i ∧ physOf z 3 = some 3 ∧ holdsSlot (curTile s') s.focusCtx 1 = true ∧
    (∀ w : Bool, checkSegs s' { curView s with firm := decide (prv z = 2), sup := decide (prv z = 1) } (.core (coreIx s.focusCtx)) w
      (prefixOf s').spc 0x1000000 64 (List.range 16) none = .ok deskSegs) ∧ deskSegs.any (fun r => r.wb) = false ∧
    deskSegs.any (fun r => decide (r.tgt = .vault)) = false ∧ accWait (curTile s') [] ((opMoves s').filter fun m => m.acq) = none ∧
    releases (prefixOf s').ord = false := by decide +kernel
theorem test_meets_SystemPrivilege : prv (opCtx plain) = 0 := by decide +kernel
theorem test_meets_TrapEntrySaves : plain.grp.half = .lone ∧ Cause.align.cls = .s ∧ Cause.align ≠ .breakpoint ∧
    plain.focusTile ≠ Config.fwTile ∧ (cur plain).handler ≠ 0 ∧ exl (cur plain) = false ∧ replaying plain plain.focusTile = false ∧
    stoppedGroup (clearFrame plain) plain.focusTile plain.focusCtx = none ∧ (cur plain).loop = none ∧
    wbit (Sparse.get 0 (curTile plain).mon 0) 63 = false ∧
    launchOf { plain with launches := [] } (curTile plain).launch = none := by decide +kernel
theorem test_meets_TrapEntrySaves_row : bench.grp.half = .lone ∧ prv (cur bench) ≠ 2 ∧ bench.focusTile ≠ Config.fwTile ∧
    stoppedGroup (clearFrame bench) bench.focusTile bench.focusCtx = none ∧ (cur bench).loop = none ∧
    wbit (Sparse.get 0 (curTile bench).mon 0) 63 = false := by decide +kernel
theorem test_meets_SequencingAdvances : bench.grp.half = .lone ∧ Quiet bench ∧ (cur bench).loop = none ∧
    wbit (Sparse.get 0 (tileOf bench bench.focusTile).mon 0x20) 1 = false := by
  unfold Quiet; and_intros <;> decide +kernel
theorem test_meets_ScalarFrame : Quiet bench ∧ bench.grp.half = .lone ∧ goesOn (exec (.add 5 1 2) bench) = true ∧
    goesOn (exec (.fadd 5 1 2 .f32) bench) = true := by
  unfold Quiet; and_intros <;> decide +kernel
theorem test_meets_ZeroRegisterDiscards : Quiet bench ∧ bench.grp.half = .lone ∧ Ready bench [1, 15, 6] := by
  unfold Quiet Ready; and_intros <;> decide +kernel

theorem test_meets_ScalarAccessesIssue_load : OrderMet bench (prefixOf bench).ord bench ∧
    Legal bench (.ld 5 1 .d 0) ∧ Legal bench (.ldn 5 1 .b 8191) ∧ Ready bench [5, 1] ∧ Clean bench [1] ∧
    AccessMet bench (withPrefix bench { kind := .load, va := 0x1000000, size := 8, dest := 5, sext := true }) deskWord ∧
    AccessMet bench (withPrefix bench { kind := .load, va := 0x1000000 + 8191, size := 1, dest := 5, sext := false })
      { deskWord with pa := deskWord.pa + 8191 } := by
  unfold OrderMet Legal Ready Clean AccessMet; and_intros <;> decide +kernel
theorem test_meets_ScalarAccessesIssue_store : Legal bench (.st 6 1 .d 0) ∧ Ready bench [6, 1] ∧ Clean bench [1] ∧
    AccessMet bench (withPrefix bench { kind := .store, va := 0x1000000, size := 8, data := 5, poison := true }) deskWord := by
  unfold Legal Ready Clean AccessMet; and_intros <;> decide +kernel
theorem test_meets_ScalarAccessesIssue_index : Legal bench (.ldx 5 1 0 true false .d) ∧ Legal bench (.stx 5 1 0 false .b) ∧
    Ready bench [5, 1, 0] ∧ Clean bench [1, 0] ∧
    AccessMet bench (withPrefix bench { kind := .load, va := 0x1000000, size := 8, dest := 5, sext := true }) deskWord ∧
    AccessMet bench (withPrefix bench { kind := .store, va := 0x1000000, size := 1, data := 7 }) deskWord := by
  unfold Legal Ready Clean AccessMet; and_intros <;> decide +kernel
theorem test_meets_ScalarAccessesIssue_align : Legal bench (.ld 5 7 .h 0) ∧ Legal bench (.ldn 5 7 .h 0) ∧ Legal bench (.st 5 7 .h 0) ∧
    Legal bench (.ldx 5 7 0 true true .h) ∧ Legal bench (.stx 5 7 0 true .h) ∧
    Ready bench [5, 7, 0] ∧ Clean bench [7, 0] ∧ (rdS bench 7).val.toNat % 2 ≠ 0 := by
  unfold Legal Ready Clean; and_intros <;> decide +kernel
theorem test_meets_RowAccessesIssue : Ready bench [1] ∧ Clean bench [1] ∧ Legal bench (.vld 3 1 1 0) ∧ Legal bench (.vst 3 1 1 0) ∧
    nameOf bench 3 = some 3 ∧ RowsReady bench [] [(3, 1)] ∧ RowsReady bench [(3, 1)] [] ∧
    OrderMet bench (prefixOf bench).ord bench ∧
    AccessMet bench (withPrefix bench { kind := .rowLoad, va := 0x1000000, size := 64, dest := 3, row := 1 }) deskWord ∧
    OrderMet (touchReg 3 bench) (prefixOf (touchReg 3 bench)).ord (touchReg 3 bench) ∧
    AccessMet (touchReg 3 bench) (withPrefix (touchReg 3 bench)
      { kind := .rowStore, va := 0x1000000, size := 64, data := 3, poison := false }) deskWord := by
  unfold Ready Clean Legal RowsReady OrderMet AccessMet; and_intros <;> decide +kernel
theorem test_meets_RowAccessesIssue_unbound : Legal bench (.vld 4 1 1 0) ∧ Legal bench (.vst 4 1 1 0) ∧ nameOf bench 4 = none := by
  unfold Legal; and_intros <;> decide +kernel
theorem test_meets_RowAccessesIssue_rowact : Ready bench [2, 5] ∧ Clean bench [2, 5] ∧ Legal bench (.rowact 2 0) ∧ Legal bench (.rowact 5 0) ∧
    checkAccess bench (curView bench) (.core (coreIx bench.focusCtx)) (rdS bench 2).val 1 1 false (prefixOf bench).spc .row =
      .ok deskVault ∧ (curTile bench).vault.hold = .active ∧ (prefixOf bench).pol ≠ .close ∧ (prefixOf bench).pol ≠ .stream ∧
    refreshing bench bench.focusTile (rowNumber (paOff deskVault.pa) % 24) = false ∧
    (let s : State := { bench with tiles := [(0, { deskTile deskCtx with vault := { refresh := [(8, some 700)] } })] }
     refreshing s s.focusTile (rowNumber (paOff deskVault.pa) % 24) = true) ∧
    (curTile { bench with tiles := [(0, { deskTile deskCtx with vault := { hold := .hold } })] }).vault.hold ≠ .active ∧
    checkAccess bench (curView bench) (.core (coreIx bench.focusCtx)) (rdS bench 5).val 1 1 false (prefixOf bench).spc .row =
      .error { cause := .xlateAbsent, eval := 7 } := by
  unfold Ready Clean Legal; and_intros <;> decide +kernel
theorem test_meets_AtomicsIssue : Clean bench [1] ∧ OrderMet bench (prefixOf bench).ord bench ∧
    (∀ i ∈ [Instr.aadd 5 1 6 .w, .amin 5 1 6 .d, .amax 5 1 6 .d, .aminn 5 1 6 .d, .amaxn 5 1 6 .d, .aand 5 1 6 .d, .aor 5 1 6 .d,
      .axor 5 1 6 .d, .aswp 5 1 6 .d, .acas 5 1 6 15 .d, .afadd 5 1 6 .d, .afmin 5 1 6 .d, .afmax 5 1 6 .d],
      staticCause bench i = none) ∧ Ready bench [5, 1, 6, 15] ∧ Ready bench [5, 1, 6] ∧
    AccessMet bench (withPrefix bench { kind := .atomic, va := 0x1000000, size := 8, dest := 5, aop := 12, data := 5, poison := true }) deskWord ∧
    AccessMet bench (withPrefix bench { kind := .atomic, va := 0x1000000, size := 4, dest := 5, data := 5, poison := true }) deskWord := by
  unfold Clean OrderMet Ready AccessMet; and_intros <;> decide +kernel
theorem test_meets_TileMovesIssue : Ready bench [1] ∧ Clean bench [1] ∧ OrderMet bench (prefixOf bench).ord bench ∧
    Legal bench (.xld 3 1 false 0 0) ∧ Legal bench (.xldt 3 1 .byte 0) ∧ Legal bench (.xst 3 1 0 0) ∧ Legal bench (.wld 1 1 false 0 0) ∧
    nameOf bench 3 = some 3 ∧ RowsReady bench [] (allRows 3) ∧ RowsReady bench (allRows 3) [] ∧
    holdsSlot (opTile bench) bench.focusCtx 1 = true ∧
    (∀ w : Bool, checkSegs bench (curView bench) (.core (coreIx bench.focusCtx)) w (prefixOf bench).spc 0x1000000 64 (List.range 16) none = .ok deskSegs) ∧
    (∀ o ∈ [MoveOp.xld, .xst, .xldt, .wld], checkScale bench (curView bench) (.core (coreIx bench.focusCtx)) (opCtx bench)
      { op := o, word := 0, va := 0x1000000, pitch := 64, n0 := 0, reg := 3, scl := false, half := false, seq := none } = .ok none) ∧
    deskSegs.any (fun r => r.wb) = false ∧ deskSegs.any (fun r => decide (r.tgt = .vault)) = false ∧ stoppedMove (opCtx bench) = none := by
  unfold Ready Clean OrderMet Legal RowsReady; and_intros <;> decide +kernel

/-! Accesses in flight, moves and rows. -/

/-- A context with one access. -/
def holding (a : Acc) : State := desk { deskCtx with accs := [a] }
/-- A load, a store and an atomic on the scratchpad word. -/
def aLoad : Acc := { id := 9, kind := .load, pa := 2 ^ 40 + 0x40000, dest := 5 }
def aStore : Acc := { id := 9, kind := .store, pa := 2 ^ 40 + 0x40000, data := 5 }
def anAtomic : Acc := { id := 9, kind := .atomic, pa := 2 ^ 40 + 0x40000, dest := 5, data := 5 }
def farAtomic : Acc := { id := 9, kind := .atomic, home := .remScratch, pa := 2 ^ 40 + 2 ^ 28, dest := 5, data := 5 }

theorem test_meets_LoadsReturn : (ctxOf (holding aLoad) 0 4).accs.find? (fun b => decide (b.id = 9)) = some aLoad ∧
    aLoad.kind = .load ∧ aLoad.home = .ownScratch ∧ touchedFirst (tileOf (holding aLoad) 0) 4 9 false aLoad.pa aLoad.size = false ∧
    errAt (holding aLoad) aLoad.pa = none ∧ (ctxOf (holding aLoad) 0 4).accs.all (fun b => !b.held) = true ∧
    Sparse.get none (tileOf (holding aLoad) 0).pairs 4 = none ∧ (holding aLoad).asOf = none := by decide +kernel
/-- A release at DEVICE scope by tile 5 that the write at place 6 carries. -/
def aMsg : Msg := { party := .ctx 5, scope := .device, known := { also := [3] } }
/-- An acquiring load of a write that carries it, read as of place 6, which the context knows or not. -/
def acquiring6 (known : Bool) : State :=
  let a : Acc := { aLoad with ord := .acquire, scope := .device, sight := if known then { known := { also := [6] } } else {} }
  { holding a with asOf := some 6, writes := 7, hist := [{ n := 6, pa := a.pa, len := 8, msgs := [aMsg] }] }
theorem test_meets_LoadsReturn_acquire : (acquiring6 true).hist.head? = some { n := 6, pa := aLoad.pa, len := 8, msgs := [aMsg] } ∧
    ctxKnows 0 4 9 { known := { also := [6] } } { n := 6, pa := aLoad.pa, len := 8, msgs := [aMsg] } = true ∧ acquires .acquire = true ∧
    covers aMsg.party aMsg.scope (.ctx 0) = true ∧ covers (.ctx 0) .device aMsg.party = true ∧ aMsg.known.has 3 = true := by decide +kernel
theorem test_meets_LoadsReturn_vault : let a : Acc := { aLoad with home := .ownVault, pa := 0x100000, size := 1 }
    agentFirst (holding a) 0 (paOff a.pa) = false ∧
    refreshing (holding a) 0 (bankOf (rowNumber (paOff a.pa))) = false ∧ errAt (holding a) a.pa = none ∧
    touchedFirst (tileOf (holding a) 0) 4 9 false a.pa a.size = false := by decide +kernel
/-- A load of the next tile's scratchpad on its way there, and on its way back. -/
def farLoad (served : Bool) : Acc := { id := 9, kind := .load, home := .remScratch, pa := 2 ^ 40 + 2 ^ 28, dest := 5, served := served }
/-- A row read from a host page, and one stored there, of which one unit has gone. -/
def hostRow (k : AccKind) : Acc := { id := 9, kind := k, home := .host, pa := 2 ^ 44, size := 64, dest := 3, row := 1, moved := [2] }
theorem test_meets_LoadsReturn_far : (∀ b : Bool, (ctxOf (holding (farLoad b)) 0 4).accs.find? (fun a => decide (a.id = 9)) = some (farLoad b) ∧
      touchedFirst (tileOf (holding (farLoad b)) 0) 4 9 false (farLoad b).pa 8 = false ∧
      Sparse.get none (tileOf (holding (farLoad b)) 0).pairs 4 = none) ∧ sentBefore (holding (farLoad false)) 0 1 9 = false ∧
    paTile (farLoad true).pa = 1 ∧ repliedBefore (holding (farLoad true)) 1 0 (farLoad true).sent = false := by decide +kernel
theorem test_meets_LoadsReturn_host : let s := holding (hostRow .rowLoad)
    (ctxOf s 0 4).accs.find? (fun a => decide (a.id = 9)) = some (hostRow .rowLoad) ∧ s.mgmt.link = true ∧ s.asOf = none ∧
    touchedFirst (tileOf s 0) 4 9 false (2 ^ 44) 64 = false ∧ 2 ≤ ((List.range 8).filter fun j => !(hostRow .rowLoad).moved.contains j).length := by
  decide +kernel
theorem test_meets_StoresPerform_host : let s := holding (hostRow .rowStore)
    let a : Acc := { aStore with home := .host, pa := 2 ^ 44 }
    (ctxOf s 0 4).accs.find? (fun a => decide (a.id = 9)) = some (hostRow .rowStore) ∧ s.mgmt.link = true ∧ paRegion (2 ^ 44) = 16 ∧
    touchedFirst (tileOf s 0) 4 9 true (2 ^ 44) 64 = false ∧ 2 ≤ ((List.range 8).filter fun j => !(hostRow .rowStore).moved.contains j).length ∧
    (ctxOf (holding a) 0 4).accs.find? (fun a => decide (a.id = 9)) = some a ∧ touchedFirst (tileOf (holding a) 0) 4 9 true a.pa a.size = false := by
  decide +kernel
theorem test_meets_StoresPerform_far : let a : Acc := { aStore with home := .remScratch, pa := 2 ^ 40 + 2 ^ 28 }
    (ctxOf (holding a) 0 4).accs.find? (fun a => decide (a.id = 9)) = some a ∧ touchedFirst (tileOf (holding a) 0) 4 9 true a.pa a.size = false ∧
    paRegion a.pa = 1 ∧ paTile a.pa = 1 ∧ (tileOf (holding a) 1).pairOf = none ∧ sentBefore (holding a) 0 1 9 = false := by decide +kernel
theorem test_meets_StoresPerform : (ctxOf (holding aStore) 0 4).accs.find? (fun b => decide (b.id = 9)) = some aStore ∧
    paRegion aStore.pa = 1 ∧ paTile aStore.pa = 0 ∧ errAt (holding aStore) aStore.pa = none ∧
    touchedFirst (tileOf (holding aStore) 0) 4 9 true aStore.pa aStore.size = false ∧
    Sparse.get none (tileOf (holding aStore) 0).pairs 4 = none ∧ (tileOf (holding aStore) 0).pairOf = none := by decide +kernel
theorem test_meets_StoresPerform_vault : let a : Acc := { aStore with home := .ownVault, pa := 0x100000, size := 64, kind := .rowStore }
    vaultHindrance (holding a) 0 (paOff a.pa) .vaultHold = none ∧ agentFirst (holding a) 0 (paOff a.pa) = false ∧ paRegion a.pa ≤ 1 ∧ errAt (holding a) a.pa = none ∧
    touchedFirst (tileOf (holding a) 0) 4 9 true a.pa a.size = false := by decide +kernel
theorem test_meets_AtomicsPerform : (ctxOf (holding anAtomic) 0 4).accs.find? (fun b => decide (b.id = 9)) = some anAtomic ∧
    paRegion anAtomic.pa = 1 ∧ anAtomic.data.toNat < 2 ^ (8 * anAtomic.size) ∧
    touchedFirst (tileOf (holding anAtomic) 0) 4 9 true anAtomic.pa anAtomic.size = false ∧
    (launchOf (holding anAtomic) (tileOf (holding anAtomic) 0).launch).all (fun l => l.recording.isNone) = true ∧
    (tileOf (holding anAtomic) (paTile anAtomic.pa)).pairOf = none ∧ paTile anAtomic.pa = 0 := by decide +kernel
theorem test_meets_AtomicsPerform_far : (ctxOf (holding farAtomic) 0 4).accs.find? (fun b => decide (b.id = 9)) = some farAtomic ∧
    touchedFirst (tileOf (holding farAtomic) 0) 4 9 true farAtomic.pa farAtomic.size = false ∧
    launchOf (holding farAtomic) (tileOf (holding farAtomic) (paTile farAtomic.pa)).launch = none ∧ paTile farAtomic.pa = 1 ∧
    (tileOf (holding farAtomic) 1).pairOf = none ∧ sentBefore (holding farAtomic) 0 1 9 = false ∧
    repliedBefore (holding farAtomic) 1 0 (holding farAtomic).nextId = false := by decide +kernel
/-- An atomic of the own vault, on its way to the agent's queue and at its head. -/
theorem test_meets_AtomicsPerform_vault : let a : Acc := { anAtomic with home := .ownVault, pa := 0x100000 }
    let q : AReq := { id := 9, kind := .atomic, view := { launch := 1, ctx := 4 } }
    let s := holding a
    let u : State := { s with tiles := [(0, { curTile s with agentq := [q] })] }
    (tileOf s 0).agentq = [] ∧ paRegion a.pa = 0 ∧ paTile a.pa = 0 ∧ (tileOf u 0).agentq = [q] ∧ q.view.tile = 0 ∧ q.view.ctx = 4 ∧
    (ctxOf u 0 4).accs.find? (fun b => decide (b.id = 9)) = some a ∧ touchedFirst (tileOf u 0) 4 9 true a.pa a.size = false ∧
    Sparse.get none (tileOf u 0).pairs 4 = none ∧ (tileOf u 0).pairOf = none ∧
    behindWalk (tileOf u 0) q = false ∧ ownerFirst u 0 q = false ∧ vaultHindrance u 0 (paOff a.pa) .vaultHold = none ∧
    errAt u a.pa = none ∧ wbit (Sparse.get 0 (tileOf u 0).mon 0) 63 = false := by decide +kernel
/-- A move of 16 rows at a segment of the scratchpad or the vault. -/
def aMove (o : MoveOp) (n : Nat) (v : Bool) : Move :=
  { id := 9, ctx := 4, op := o, pas := deskSegs.map fun r => if v then r.pa - 2 ^ 40 else r.pa, next := n, reg := 3, src := [(14, { bits := 7 })], vault := v }
theorem test_meets_TileSegmentsLand : ∀ o ∈ [MoveOp.xld, .xst, .xldt, .wld], ∀ n ∈ [14, 15], ∀ v : Bool, let m := aMove o n v
    let s : State := { bench with tiles := [(0, { deskTile deskCtx with moves := [m] })] }
    (tileOf s 0).moves.find? (fun x => decide (x.id = 9)) = some m ∧ moveBehind (tileOf s 0) m = false ∧
    paRegion (m.pas.getD n 0) = (if v then 0 else 1) ∧ paTile (m.pas.getD n 0) = 0 ∧ m.pas.getD n 0 % 64 = 0 ∧
    Sparse.get none (tileOf s 0).pairs m.ctx = none ∧ (tileOf s 0).pairOf = none ∧ s.asOf = none ∧ errAt s (m.pas.getD n 0) = none ∧
    (moveReach m).all (fun a => vaultServes s 0 (paOff a) && !agentFirst s 0 (paOff a)) = true ∧
    wbit (Sparse.get 0 (tileOf s 0).mon 0) 63 = false ∧ m.scl = none := by decide +kernel
theorem test_meets_RowResults : nameOf bench 3 = some 3 ∧ nameOf bench 5 = some 5 ∧ RowsReady bench [(3, 15), (5, 15)] [(3, 0)] ∧
    nameOf bench 4 = none := by unfold RowsReady; decide +kernel
theorem test_meets_RowMovesComplete : nameOf bench 3 = some 3 ∧ nameOf bench 5 = some 5 ∧ RowsReady bench [(3, 1)] [(5, 2)] ∧
    RowsReady bench [(3, 1)] [] ∧ RowsReady bench [] [(5, 2)] ∧ RowsReady bench [(5, 2)] [(5, 2)] ∧ Ready bench [5, 6] ∧
    Instr.wf (.vmatch 5 3 2 1 .n64) = true ∧ Instr.wf (.vexp2 5 3 2 1 .f32) = true ∧ Instr.wf (.vvote 5 3 .ballot 1 .i8) = true ∧
    Instr.wf (.vbcst 5 6 2 .q4) = true ∧ Instr.wf (.vins 5 6 5 2 .q4) = true ∧ Ty.i8.isInt = true := by
  unfold RowsReady Ready; and_intros <;> decide +kernel
theorem test_meets_TileInstructionsComplete : nameOf bench 5 = some 5 ∧ RowsReady bench [] (allRows 5) ∧ Ready bench [6] ∧
    nameOf bench 3 = some 3 ∧ RowsReady bench (allRows 3) (allRows 5) ∧ RowsReady bench (allRows 5) (allRows 5) := by
  unfold RowsReady Ready; and_intros <;> decide +kernel
theorem test_meets_RowFrame : Quiet bench ∧ bench.grp.half = .lone ∧ nameOf bench 3 ≠ none ∧ nameOf bench 5 ≠ none ∧
    (∀ w ∈ rowForms 5 3 3 2 1 .i8, goesOn (exec w bench) = true) := by unfold Quiet; and_intros <;> decide +kernel

/-! The matrix engine. -/

/-- The bench with a plain and a scaled entry, and a scaled format in FMTA and FMTB. -/
def mats : State := { bench with tiles := [(0, { deskTile deskCtx with alloy := [(0, 0x490)], slots :=
  [(1, { owner := some 4, kind := some (0, false) }), (2, { owner := some 4 })] })] }
/-- The entry 0x508 of fe8 with scales; both records as the scale source. -/
def scaled : State := { bench with tiles := [(0, { deskTile { deskCtx with fmta := 8, fmtb := 8 } with alloy := [(0, 0x580)] })] }

theorem test_meets_MatrixIssue_mmul : Legal mats (.mmul 1 0 3 0 15 15) ∧ nameOf mats 3 = some 3 ∧
    holdsSlot (opTile mats) mats.focusCtx 1 = true ∧ eValid (Sparse.get 0 (opTile mats).alloy 0) = true ∧
    wfld (opCtx mats).fmta 0 4 = wfld (Sparse.get 0 (opTile mats).alloy 0) 4 4 ∧
    wfld (opCtx mats).fmtb 0 4 = wfld (Sparse.get 0 (opTile mats).alloy 0) 4 4 ∧ restoring (curTile mats) 1 = false ∧
    (Sparse.get ({} : MSlot) (curTile mats).slots 1).kind =
      some (eCat (Sparse.get 0 (opTile mats).alloy 0), eAcc (Sparse.get 0 (opTile mats).alloy 0)) ∧
    ((curTile mats).matq.filter fun o => !o.started).length < 8 ∧ stoppedFill (opCtx mats) ≠ some 1 ∧ eScl (Sparse.get 0 (opTile mats).alloy 0) = false := by
  unfold Legal; and_intros <;> decide +kernel
theorem test_meets_MatrixIssue_scaled : Legal scaled (.mmul 1 0 3 1 14 0) ∧ nameOf scaled 3 = some 3 ∧
    holdsSlot (opTile scaled) scaled.focusCtx 1 = true ∧ eValid (Sparse.get 0 (opTile scaled).alloy 0) = true ∧
    wfld (opCtx scaled).fmta 0 4 = wfld (Sparse.get 0 (opTile scaled).alloy 0) 4 4 ∧
    wfld (opCtx scaled).fmtb 0 4 = wfld (Sparse.get 0 (opTile scaled).alloy 0) 4 4 ∧
    (Sparse.get ({} : MSlot) (curTile scaled).slots 1).kind =
      some (eCat (Sparse.get 0 (opTile scaled).alloy 0), eAcc (Sparse.get 0 (opTile scaled).alloy 0)) ∧
    eScl (Sparse.get 0 (opTile scaled).alloy 0) = true ∧ scaleArray scaled (opCtx scaled).fmta (opCtx scaled).scla = .ok none ∧
    scaleArray scaled (opCtx scaled).fmtb (opCtx scaled).sclb = .ok none ∧
    accWait (curTile scaled) [] ((opMoves scaled).filter fun m => m.acq) = none := by
  unfold Legal; and_intros <;> decide +kernel
theorem test_meets_MatrixIssue_mdrain : Legal mats (.mdrain 1 3 .f32) ∧ RowsReady mats [] (allRows 3) ∧
    drainAllowed 0 false .f32 = true ∧ drainAllowed 0 false .i8 = false ∧ Legal mats (.mdrain 1 3 .i8) ∧ Legal mats (.mdrain 2 3 .f32) ∧
    holdsSlot (opTile mats) mats.focusCtx 2 = true ∧ (Sparse.get ({} : MSlot) (curTile mats).slots 2).kind = none := by
  unfold Legal RowsReady; and_intros <;> decide +kernel
theorem test_meets_MatrixIssue_others : Legal mats (.mswap 1) ∧ Legal mats (.macz 1 0) ∧ Legal mats (.macz 0 0) ∧
    Legal mats (.mswap 0) ∧ holdsSlot (opTile mats) mats.focusCtx 0 = false ∧ Legal mats (.macz 1 7) ∧ Legal mats (.mmul 1 7 3 0 15 15) ∧
    eValid (Sparse.get 0 (opTile mats).alloy 7) = false ∧ Legal mats (.mopw 7 5) ∧ Legal mats (.mopw 7 6) ∧ Ready mats [5] ∧ Clean mats [5] ∧
    alloyEntry ((rdS mats 5).val.toNat % 1024) = some 0x0080800000000C07 ∧ Ready mats [6] ∧ (rdS mats 6).poison = true ∧
    Legal mats (.mopw 7 15) ∧ alloyEntry ((rdS mats 15).val.toNat % 1024) = none ∧ Legal mats (.mmul 0 0 3 0 15 15) ∧
    Legal mats (.mdrain 0 3 .f32) ∧ Ready mats [1] ∧ nameOf mats 3 = some 3 := by
  unfold Legal Ready Clean; and_intros <;> decide +kernel
theorem test_meets_MatrixIssue_image : Ready mats [1] ∧ Clean mats [1] ∧
    (∀ write : Bool, checkSegs mats (curView mats) (.core (coreIx mats.focusCtx)) write .dflt (rdS mats 1).val.toNat 64 (List.range 50) none =
      .ok ((List.range 50).map fun i => { deskWord with pa := deskWord.pa + 64 * i })) ∧
    overlapsStopped (opCtx mats) (rdS mats 1).val.toNat 3200 = false ∧ curMoves mats = [] ∧ stoppedFill (opCtx mats) ≠ some 1 ∧
    ((List.range 50).map fun i => { deskWord with pa := deskWord.pa + 64 * i }).any (fun r => moveMeets mats true r.pa 64 || moveMeets mats false r.pa 64) = false := by
  unfold Ready Clean; and_intros <;> decide +kernel
/-- A queue with one operation, unstarted or started. -/
def queued (o : MatOp) : State := { mats with tiles := [(0, { curTile mats with matq := [o] })] }
/-- An operation of context 4 on slot 1. -/
def anOp (k : MatKind) : MatOp := { id := 9, ctx := 4, slot := 1, kind := k, entry := 0x490, reg := 3 }
theorem test_meets_MatrixQueueEvents_start : ∀ k ∈ [MatKind.mmul, .mdrain, .mldw, .mswap, .macz],
    (tileOf (queued (anOp k)) 0).matq.find? (fun x => !x.started) = some (anOp k) ∧
    matReady (tileOf (queued (anOp k)) 0) (anOp k) = true ∧ imageBlocked (queued (anOp k)) 0 (anOp k) = none ∧
    (anOp k).arrA = none ∧ (anOp k).arrB = none := by decide +kernel
theorem test_meets_MatrixQueueEvents_image : ∀ k ∈ [MatKind.msave, .mrest],
    let o := { anOp k with pas := (List.range 50).map fun i => 2 ^ 40 + 64 * i, left := [49, 7] }
    matReady (tileOf (queued o) 0) o = true ∧ imageBlocked (queued o) 0 o = none ∧ o.left ≠ [] ∧
    o.pas.getD (o.left.getD ((queued o).pick % o.left.length) 0) 0 = 2 ^ 40 + 3136 ∧ (2 ^ 40 + 3136 : Nat) % 64 = 0 ∧
    paRegion (2 ^ 40 + 3136) = 1 ∧ (queued o).asOf = none ∧ o.arrA = none ∧ o.arrB = none ∧
    (let s := queued { o with started := true }
     Sparse.get none (tileOf s 0).pairs 4 = none ∧ (tileOf s 0).pairOf = none ∧ errAt s (2 ^ 40 + 3136) = none) := by
  decide +kernel
/-- An image whose segments are in: with IMGV 3, and with another. -/
theorem test_meets_MatrixQueueEvents_mrest : let o := { anOp .mrest with buf := [(0, 3)] }
    matReady (tileOf (queued o) 0) o = true ∧ imageBlocked (queued o) 0 o = none ∧ o.left = [] ∧ (o.buf.read 0).toNat = 3 ∧
    o.bad.contains 0 = false ∧ o.bad.contains 1 = false ∧ ((anOp .mrest).buf.read 0).toNat ≠ 3 ∧
    matReady (tileOf (queued (anOp .mrest)) 0) (anOp .mrest) = true ∧ (ctxOf (queued o) 0 o.ctx).phase = .running ∧
    (tileOf (queued o) 0).matq.any (fun p => decide (p.kind = .macz) && decide (p.slot = o.slot) && decide (o.id < p.id)) = false := by
  decide +kernel
/-- An MMUL with scales whose two records stand with their stamps, and one whose A record has another. -/
def scales (st : W32) : State :=
  let r : ScaleRec := { stamp := 7 }
  let p : Plane := { stamp := 7, srec := some r }
  { queued { anOp .mmul with entry := 0x580 } with tiles := [(0, { deskTile deskCtx with
    matq := [{ anOp .mmul with entry := 0x580 }], slots := [(1, { owner := some 4, active := p })],
    xregs := [(3, { bound := true, stamp := 7, srec := some { r with stamp := st } })] })] }
theorem test_meets_MatrixQueueEvents_records : let o := { anOp .mmul with entry := 0x580 }
    (tileOf (scales 7) 0).matq.find? (fun x => !x.started) = some o ∧ matReady (tileOf (scales 7) 0) o = true ∧
    imageBlocked (scales 7) 0 o = none ∧ (Sparse.get ({} : TileReg) (tileOf (scales 7) 0).xregs 3).stamp = 7 ∧
    (Sparse.get ({} : TileReg) (tileOf (scales 7) 0).xregs 3).srec = some { stamp := 7 } ∧ (7 : W32) ≠ 0xFFFFFFFF ∧
    (Sparse.get ({} : MSlot) (tileOf (scales 7) 0).slots 1).active = { stamp := 7, srec := some { stamp := 7 } } := by
  intro o; and_intros <;> decide +kernel
theorem test_meets_MatrixQueueEvents_stale : let o := { anOp .mmul with entry := 0x580 }
    (tileOf (scales 8) 0).matq.find? (fun x => !x.started) = some o ∧ matReady (tileOf (scales 8) 0) o = true ∧
    imageBlocked (scales 8) 0 o = none ∧ (Sparse.get ({} : TileReg) (tileOf (scales 8) 0).xregs 3).srec = some { stamp := 8 } := by
  intro o; and_intros <;> decide +kernel
/-- The same with arrays in the scratchpad. -/
theorem test_meets_MatrixQueueEvents_arrays :
    let o := { anOp .mmul with entry := 0x580, arrA := some (2 ^ 40), arrB := some (2 ^ 40 + 64) }
    matReady (tileOf (queued o) 0) o = true ∧ imageBlocked (queued o) 0 o = none ∧ paRegion (2 ^ 40) = 1 ∧ paRegion (2 ^ 40 + 64) = 1 ∧
    (queued o).asOf = none ∧ Sparse.get none (tileOf (queued o) 0).pairs o.ctx = none := by decide +kernel
theorem test_meets_MatrixQueueEvents_scale : let o := { anOp .mmul with entry := 0x580 }
    eScl o.entry = true ∧ (Sparse.get ({} : TileReg) (tileOf (queued o) 0).xregs 3).srec = none ∧
    (ctxOf (queued o) 0 4).phase = .running ∧ matReady (tileOf (queued o) 0) o = true := by decide +kernel
theorem test_meets_MatrixQueueEvents_done : ∀ k ∈ [MatKind.mmul, .mdrain, .mldw, .mswap, .macz, .msave, .mrest],
    let o := { anOp k with started := true, kindAt := some (0, false) }
    o.kindAt = some (0, false) ∧ (tileOf (queued o) 0).matq.find? (fun x => decide (x.id = 9) && x.started) = some o ∧ o.fail = .none_ ∧ o.left = [] ∧ o.ncol ≤ 16 ∧
    o.first + o.nrow ≤ 16 ∧ (Sparse.get ({} : MSlot) (tileOf (queued o) 0).slots 1).kind = some (0, false) := by decide +kernel

/-! Engines: blocks in the scratchpad at s1. -/

/-- 64 bytes at the word that s1 addresses. -/
def withBlk (b : Nat) (s : State) : State := { s with mem := Memory.writeN (2 ^ 40 + 0x40000) b 64 s.mem }
/-- The bench as a task of the S-core, whose spill window begins at the start of the scratchpad. -/
def sDesk (y : Ctx) (m : Memory) : State :=
  { bench with focusCtx := 0, mem := m, tiles := [(0, { deskTile y with ctxs := [(0, y)], sched := [[], []] })] }
/-- The two segments of a copy descriptor there. -/
def sSegs : List Resolved := [{ pa := 2 ^ 40, tgt := .scratch }, { pa := 2 ^ 40 + 64, tgt := .scratch }]
/-- A descriptor of one dimension with no element. -/
def emptyCopy : CopyDesc := { dims := [{}] }

theorem test_meets_CopiesIssue_cpy : let s := sDesk deskCtx []
    Legal s (.cpy 2 1 false false) ∧ BlockMet s (some 2) 1 2 sSegs s 0 ∧ parseCopy (opTile s).alloy 0 = some emptyCopy ∧
    astCheck s (commandView s) (.core (coreIx s.focusCtx)) emptyCopy = .ok none ∧ armingHolds s (commandView s) emptyCopy = true ∧
    armingHolds s (commandView s) { emptyCopy with dims := [{ e := 1 }], asv := true } = false ∧
    (curTile s).copies.length < 1024 ∧ BlockMet s none 1 2 sSegs s 0 ∧ Legal s (.cpy 0 1 true true) := by
  intro s
  unfold Legal BlockMet Ready Clean ReleaseMet
  and_intros <;> decide +kernel
theorem test_meets_CopiesIssue_bad : let s := sDesk { deskCtx with futs := [(3, { st := .pending })] } [(2 ^ 40 + 16, 0xFF)]
    BlockMet s (some 2) 1 2 sSegs s (0xFF * 2 ^ 128) ∧ parseCopy (opTile s).alloy (0xFF * 2 ^ 128) = none ∧
    Legal s (.cpy 3 1 false false) ∧ Ready s [1] ∧ (futOf s 3).st ≠ .free := by
  intro s
  unfold BlockMet Legal Ready Clean ReleaseMet
  and_intros <;> decide +kernel
theorem test_meets_CopiesIssue_cpys : let s := sDesk deskCtx []
    ReleaseMet s s ∧ Legal s (.cpys 0) ∧ Legal s (.cpys 2) ∧ Legal s (.cpys 3) ∧ (cur s).cpysDone = false ∧ (cur s).cpysLeft = 0 ∧
    (cur s).afterEret = false ∧ (curTile s).stage + 2 ≤ (curTile s).sched.length ∧ (curTile s).sched.length < (curTile s).stage + 3 ∧
    (cur (sDesk { deskCtx with cpysDone := true } [])).cpysDone = true ∧ Legal (sDesk { deskCtx with cpysDone := true } []) (.cpys 2) := by
  intro s
  unfold Legal ReleaseMet
  and_intros <;> decide +kernel

/-- A request to the vault that s4 addresses: 8 bytes, the reply to 0x1000100. -/
def rpcBlk : Nat := 0x200000000 * 2 ^ 64 + 0x1000100 * 2 ^ 128 + 8 * 2 ^ 192
/-- Where s4 leads. -/
def farVault : Resolved :=
  { pa := 0x50000000, tgt := .vault, entry := some { base := 0x200000000, size := 0x10000, leaf := 0x50000119 } }
/-- The bench with a block, and a pending handle 3. -/
def cmds (b : Nat) : State := withBlk b (desk { deskCtx with futs := [(3, { st := .pending })] })
theorem test_meets_RpcCommandsIssue : BlockMet (cmds rpcBlk) (some 2) 1 1 [deskWord] (cmds rpcBlk) rpcBlk ∧
    (List.range 12).map (fun p => rpcParse (cmds rpcBlk) p rpcBlk false) = [some (8, 8), some (0, 8), some (0, 32), some (0, 32),
      some (0, 32), some (0, 32), some (8, 8), some (8, 8), some (0, 0), some (0, 0), some (0, 8), some (0, 65536)] ∧
    ownArea (cmds rpcBlk) (blk rpcBlk 16 8) 8 true = none ∧ blk rpcBlk 28 1 / 2 % 2 = 0 ∧
    (∀ w : Bool, serving (cmds rpcBlk) (blk rpcBlk 8 8) w true = .ok (5, farVault)) ∧ outstanding (cmds rpcBlk) 0 4 < 32 ∧
    (tileOf (cmds rpcBlk) 5).agentq.length < 64 := by
  unfold BlockMet Ready Clean ReleaseMet
  and_intros <;> decide +kernel
theorem test_meets_RpcCommandsIssue_legal : (∀ i ∈ [Instr.rpcRead 2 1 false false, .rpcWrite 2 1 false false, .vaddF32 2 1 false false,
      .vaddI32 2 1 false false, .vminF32 2 1 false false, .vmaxF32 2 1 false false, .cas64 2 1 false false, .swap64 2 1 false false,
      .readBox 2 1 false false, .writeBox 2 1 false false, .rpcFill 2 1 false false, .zeroPage 2 1 false false],
      staticCause (cmds rpcBlk) i = none) ∧ BlockMet (cmds (4 * 2 ^ 224)) (some 2) 1 1 [deskWord] (cmds (4 * 2 ^ 224)) (4 * 2 ^ 224) ∧
    (∀ p < 12, rpcParse (cmds (4 * 2 ^ 224)) p (4 * 2 ^ 224) false = none) ∧ (futOf (cmds 0) 3).st ≠ .free ∧ Ready (cmds 0) [1] := by
  unfold BlockMet Ready Clean ReleaseMet
  and_intros <;> decide +kernel

/-- A walk block: rules at 0x1000100, start at s4, result at 0x1000200, and its token there. -/
def walkBlk : Nat := 0x1000100 + 0x200000000 * 2 ^ 64 + 1 * 2 ^ 256 + 64 * 2 ^ 320 + 0x1000200 * 2 ^ 448
theorem test_meets_WalkCommandsIssue_trav : let s := withBlk walkBlk { bench with mem := [(2 ^ 40 + 0x4020B, 1)] }
    BlockMet s (some 2) 1 1 [deskWord] s walkBlk ∧ Legal s (.trav 2 1 false) ∧ Legal s (.travRes 2 1 false) ∧ walkBad walkBlk = none ∧
    ownArea s (blk walkBlk 0 8) 128 false = none ∧ ownArea s (blk walkBlk 56 8) 256 true = none ∧ outstanding s 0 4 < 32 ∧
    walkAgent s (blk walkBlk 8 8) = 5 ∧ (tileOf s 5).agentq.length < 64 ∧
    resolve s (curView s) (.core (coreIx s.focusCtx)) (blk walkBlk 56 8) false = .ok { deskWord with pa := deskWord.pa + 0x200 } ∧
    segPoison s (deskWord.pa + 0x200) = false ∧
    tokenFits (readMem s (deskWord.pa + 0x200) 64) s.focusTile (rdS s 1).val.toNat = true := by
  intro s
  unfold BlockMet Legal Ready Clean ReleaseMet
  and_intros <;> decide +kernel
theorem test_meets_WalkCommandsIssue_bad : BlockMet bench (some 2) 1 1 [deskWord] bench 0 ∧ walkBad 0 = some 32 ∧ poolOk 0 = false ∧
    attnOk 0 = false ∧ Legal bench (.trav 2 1 true) ∧ Legal bench (.gpool 2 1 true) ∧ Legal bench (.attn 2 1 true) := by
  unfold BlockMet Legal Ready Clean ReleaseMet
  and_intros <;> decide +kernel
/-- A lookup of one index and one f16 element, and an attention over no positions. -/
def poolBlk : Nat := 0x1000100 + 0x200000000 * 2 ^ 128 + 1 * 2 ^ 192 + 1 * 2 ^ 256 + 9 * 2 ^ 272 + 0x1000200 * 2 ^ 320
def attnBlk : Nat := 0x1000100 + 0x200000000 * 2 ^ 64 + 64 * 2 ^ 256 + 0x99 * 2 ^ 272 + 0x1000200 * 2 ^ 448
theorem test_meets_WalkCommandsIssue_pool : BlockMet (cmds poolBlk) (some 2) 1 1 [deskWord] (cmds poolBlk) poolBlk ∧
    poolOk poolBlk = true ∧ ownArea (cmds poolBlk) (blk poolBlk 0 8) (4 * blk poolBlk 24 4) false = none ∧ blk poolBlk 8 8 = 0 ∧
    ownArea (cmds poolBlk) (blk poolBlk 40 8) (4 * blk poolBlk 32 2) true = none ∧
    serving (cmds poolBlk) (blk poolBlk 16 8) false false = .ok (5, farVault) := by
  unfold BlockMet Ready Clean ReleaseMet
  and_intros <;> decide +kernel
theorem test_meets_WalkCommandsIssue_attn : BlockMet (cmds attnBlk) (some 2) 1 1 [deskWord] (cmds attnBlk) attnBlk ∧
    attnOk attnBlk = true ∧
    ownArea (cmds attnBlk) (blk attnBlk 0 8) (2 * ((blk attnBlk 35 1 % 16 + 1) * blk attnBlk 32 2)) false = none ∧
    ownArea (cmds attnBlk) (blk attnBlk 56 8) (4 * ((blk attnBlk 35 1 % 16 + 1) * blk attnBlk 32 2)) true = none ∧
    serving (cmds attnBlk) (blk attnBlk 8 8) false false = .ok (5, farVault) := by
  unfold BlockMet Ready Clean ReleaseMet
  and_intros <;> decide +kernel

/-! Futures, barriers, semaphores, arrival sets and work lists. -/

/-- Handles 1 terminal, 2 pending, 3 cancelled, 0 free; a second task on context 5; 5 in s5. -/
def futures : State := { bench with tiles := [(0, { deskTile deskCtx with ctxs :=
  [(4, { deskCtx with sregs := [(5, { val := 5 })], futs := [(1, { st := .terminal, code := 1 }), (2, { st := .pending, cmd := 77 }),
     (3, { st := .terminal, code := 6 })] }), (5, deskCtx)] })] }
theorem futures_unlogged : Unlogged futures := unlogged_by (l := { serial := 1 }) (by decide +kernel) rfl
theorem test_meets_FuturesComplete : Ready futures [5] ∧ Clean futures [5] ∧ (futOf futures 0).st = .free ∧
    (futOf futures 1).st = .terminal ∧ (futOf futures 1).code ≠ 6 ∧ (futOf futures 2).st = .pending ∧ (futOf futures 3).st = .terminal ∧
    (futOf futures 3).code = 6 ∧ (rdS futures 5).val.toNat < 8 ∧ (rdS futures 5).val.toNat ≠ futures.focusCtx ∧
    (Sparse.get ({} : Fut) (ctxOf futures 0 5).futs 7).st = .free ∧ (ctxOf futures 0 5).phase = .running ∧
    (ctxOf futures 0 5).launch = (cur futures).launch := by
  unfold Ready Clean
  and_intros <;> decide +kernel

/-- A launch of one task with two levels: TILE with one barrier and a limit of 1 us, CLUSTER with one and none. -/
def barLaunch : Launch :=
  { serial := 1, placed := [(0, {})], lists := [(2, { cap := 4, pa := 0x200000 })],
    record := [0, 0, 2] ++ List.replicate 101 0 ++ [1, 0, 2, 1, 1, 0, 0, 0] ++ [1, 0, 3, 1, 0, 0, 0, 0] }
/-- Its task, with barrier 0 of the tile in the state given. -/
def sync (y : Ctx) (b : Bar) : State := { desk y with launches := [barLaunch], bars := [(0x200000, b)] }
theorem sync_unlogged (y : Ctx) (b : Bar) : Unlogged (sync y b) := unlogged_by (l := barLaunch) rfl rfl
theorem test_meets_SynchronisationGroups_bar : let s := sync deskCtx { a := 1, c := 1 }
    launchOf s (cur s).launch = some barLaunch ∧ barLaunch.recording = none ∧ barKeyOf s (domCode .tile) s.focusTile 0 = some 0x200000 ∧
    (barDecl barLaunch (domCode .tile)).1 = 1 ∧ Ready s [5] ∧ Ready s [0] ∧ Clean s [5] ∧ Clean s [0] ∧ ReleaseMet s s ∧
    barKeyOf s (domCode .cluster) s.focusTile 0 = some 0x300000 ∧ (barDecl barLaunch (domCode .cluster)).1 = 1 ∧
    (cur s).wait = .none_ ∧ (rdS s 0).val.toNat < 1 ∧ 1 ≤ (rdS s 5).val.toNat ∧ (cur s).barPhase = none ∧ (cur s).afterEret = false ∧
    s.barArr = [] ∧ (barDecl barLaunch (domCode .tile)).1 ≤ (1 : Fin 64).val ∧ barKeyOf s (domCode .tile) s.focusTile 1 = some 0x200001 ∧
    (cur (sync { deskCtx with barPhase := some 0 } { a := 1, c := 1 })).barPhase = some 0 ∧ (barDecl barLaunch 6).1 = 0 ∧
    (s.barArr.any fun b => b.aw && decide (b.tile = s.focusTile) && decide (b.ctx = s.focusCtx)) = false := by
  intro s
  unfold Ready Clean ReleaseMet
  and_intros <;> decide +kernel
/-- An object that a FABRIC level declares, which code 5 does not name, with one of the partition's objects for it. -/
theorem test_meets_SynchronisationGroups_fabric :
    let l : Launch := { serial := 1, record := [0, 0, 1] ++ List.replicate 101 0 ++ [1, 0, 6, 1, 0, 0, 0, 0] }
    let s : State := { sync deskCtx {} with launches := [l], regs := [(0xC0, 2)] }
    launchOf s (cur s).launch = some l ∧ barKeyOf s (domCode .device) s.focusTile 0 = some (barKey 5 0 1) ∧ (0 : Fin 64).val < (barDecl l 6).1 ∧
    barKeyOf s (domCode .fabric) s.focusTile 0 = some (barKey 5 0 1) ∧ (0 : Fin 64).val < (barDecl l (domCode .fabric)).1 := by
  decide +kernel
/-- The bench with semaphores 2 at 255 and 3 at 5, a waiter of semaphore 4, and set 3 armed over two chunks. -/
def sems : State := { bench with tiles := [(0, { deskTile deskCtx with sems := [(2, 255), (3, 5)], semq := [(5, 4, 1)], arr := [(3, { armed := true, nc := 2 })] })] }
theorem sems_unlogged : Unlogged sems := unlogged_by (l := { serial := 1 }) (by decide +kernel) rfl
theorem test_meets_SynchronisationGroups_sem : Ready sems [5, 0, 9] ∧ Clean sems [0, 9] ∧ ReleaseMet sems sems ∧
    Sparse.get 0 (curTile sems).sems 3 + 1 ≤ 255 ∧ 255 < Sparse.get 0 (curTile sems).sems 2 + 1 ∧
    ((curTile sems).semq.find? fun q => decide (q.2.1 = 3)) = none ∧ ((curTile sems).semq.find? fun q => decide (q.2.1 = 4)) ≠ none ∧
    (((curTile sems).semq.find? fun q => decide (q.2.1 = 4)).map fun q => q.1) ≠ some sems.focusCtx ∧ (rdS sems 5).val.toNat % 256 ≠ 0 ∧
    Ready sems [5, 9, 0] ∧ Clean sems [9, 0] ∧ (rdS sems 9).val.toNat % 256 = 0 ∧ Sparse.get 0 (curTile sems).sems 5 < 1 ∧
    (curTile sems).semq.any (fun q => decide (q.1 = sems.focusCtx)) = false := by
  unfold Ready Clean ReleaseMet
  and_intros <;> decide +kernel
theorem test_meets_SynchronisationGroups_set : Ready sems [5, 1, 9] ∧ Clean sems [1, 9] ∧ (rdS sems 1).val.toNat % 512 = 0 ∧
    regionTrap sems (rdS sems 1).val.toNat (wfld (rdS sems 9).val 32 8) = none ∧ wfld (rdS sems 9).val 32 8 = 1 ∧
    wfld (rdS sems 9).val 0 17 ≤ 512 * wfld (rdS sems 9).val 32 8 ∧ wfld (rdS sems 9).val 17 15 = 0 ∧ wfld (rdS sems 9).val 40 24 = 0 ∧
    Ready sems [5, 8, 0] ∧ Clean sems [8, 0] ∧ (Sparse.get ({} : ArrSet) (curTile sems).arr 3).armed = true ∧
    (rdS sems 8).val.toNat + (rdS sems 0).val.toNat * 2 ^ 64 < 2 ^ (Sparse.get ({} : ArrSet) (curTile sems).arr 3).nc ∧
    ¬((Sparse.get ({} : ArrSet) (curTile sems).arr 3).bits.toNat &&& 2 = 2) ∧ (rdS sems 0).val.toNat = 0 ∧ Ready sems [5, 0, 0] ∧ Clean sems [0, 0] ∧
    (Sparse.get ({} : ArrSet) (curTile sems).arr 4).armed = false ∧ Ready sems [5, 5, 0] ∧ Clean sems [5, 0] ∧
    2 ^ (Sparse.get ({} : ArrSet) (curTile sems).arr 3).nc ≤ (rdS sems 5).val.toNat := by
  unfold Ready Clean
  and_intros <;> decide +kernel
theorem test_meets_BarrierEvents : let b : BarArr := { id := 7, key := 0x200000, count := 1, ctx := 4 }
    let s : State := { sync { deskCtx with wait := .barrier 0x200000 0 } { a := 1, c := 1 } with barArr := [b] }
    let u : State := { sync { deskCtx with wait := .barrier 0x200000 0 } {} with time := 3300 }
    s.barArr.find? (fun x => decide (x.id = 7)) = some b ∧ heldByPair s b.tile b.ctx 7 = false ∧
    sentBefore s b.tile (barHome b.key) 7 = false ∧ 0x200000 / 2 ^ 20 = 2 ∧ repliedBefore s (barHome 0x300000) 0 9 = false ∧
    (ctxOf s 0 4).wait = .barrier 0x200000 0 ∧ 0 < (Sparse.get ({} : Bar) s.bars 0x200000).c ∧
    (Sparse.get ({} : Bar) u.bars 0x200000).c ≤ 0 ∧ launchOf u (ctxOf u 0 4).launch = some barLaunch ∧
    barLimit u barLaunch 0x200000 = 3300 ∧ (ctxOf u 0 4).waitSince + 3300 ≤ u.time ∧ (ctxOf u 0 4).stopped = false ∧
    (ctxOf u 0 4).debugHalt = false ∧ (ctxOf u 0 4).wait = .barrier 0x200000 0 := by decide +kernel
theorem test_meets_WorkListGroups : let s := sync deskCtx {}
    Ready s [5, 1, 8] ∧ Clean s [1, 8] ∧ Clean s [1] ∧ launchOf s (cur s).launch = some barLaunch ∧ ReleaseMet s s ∧
    (Sparse.get ({} : WorkList) barLaunch.lists 2).cap ≠ 0 ∧ (Sparse.get ({} : WorkList) barLaunch.lists 0).cap = 0 ∧
    (cur s).wl = none ∧ (rdS s 1).val.toNat % 16 = 0 ∧ ownArea s (rdS s 1).val.toNat (16 * min (rdS s 8).val.toNat 64) true = none ∧
    touchedSoon s (rdS s 1).val.toNat (16 * min (rdS s 8).val.toNat 64) = false := by
  intro s
  unfold Ready Clean ReleaseMet
  and_intros <;> decide +kernel
theorem test_meets_WorkListGroups_answered : let s := sync { deskCtx with wl := some { answered := true } } {}
    let u := sync { deskCtx with wl := some { answered := true, trap := .worklistFull } } {}
    (cur s).wl = some { answered := true } ∧ ReleaseMet s s ∧ Ready s [5, 1, 8] ∧ ReleaseMet u u ∧ Ready u [5, 1, 8] ∧
    (cur u).wl = some { answered := true, trap := .worklistFull } ∧ Cause.worklistFull ≠ .none_ ∧
    launchOf s (cur s).launch = some barLaunch ∧ launchOf u (cur u).launch = some barLaunch := by
  intro s u
  unfold Ready ReleaseMet
  and_intros <;> decide +kernel
/-- A group whose answer was kept, one whose answer has not come, and the destinations that WLTAKE refuses. -/
theorem test_meets_WorkListGroups_others : let s := sync { deskCtx with wlKept := some (0, { op := 1, applied := true }) } {}
    let u := sync { deskCtx with wl := some {} } {}
    (cur s).wl = none ∧ ((cur s).wlKept.filter fun e => decide (e.1 = (cur s).pc) && decide (e.2.op = 1)) = some (0, { op := 1, applied := true }) ∧
    ((cur s).wlKept.filter fun e => decide (e.1 = (cur s).pc) && decide (e.2.op = 0)) = none ∧ (cur u).wl = some {} ∧
    ReleaseMet s s ∧ ReleaseMet u u ∧ Ready u [5, 1, 8] ∧ Clean u [1, 8] ∧ takeArea u (rdS u 1).val.toNat 2 = none ∧ takeArea u (rdS u 1).val.toNat 0 = none ∧
    Ready s [5, 2, 0] ∧ Clean s [2, 0] ∧ (rdS s 2).val.toNat % 16 = 0 ∧ takeArea s (rdS s 2).val.toNat 0 ≠ none ∧ takeArea s (rdS s 2).val.toNat 2 ≠ none ∧
    Ready s [5, 7, 8] ∧ Clean s [7, 8] ∧ (rdS s 7).val.toNat % 16 ≠ 0 := by
  intro s u
  unfold Ready Clean ReleaseMet
  and_intros <;> decide +kernel
/-- A context with a request, and list 2 with the positions given. -/
def wls (r : WlReq) (h t : Nat) : State :=
  { sync { deskCtx with wl := some r } {} with launches := [{ barLaunch with lists := [(2, { cap := 4, pa := 0x200000, head := h, tail := t })] }] }
theorem test_meets_WorkListEvents : let s := wls { list := 2 } 0 4
    let u := wls { op := 1, list := 2, b := 1 } 3 4
    let l : Launch := { barLaunch with lists := [(2, { cap := 4, pa := 0x200000, head := 3, tail := 4 })] }
    (ctxOf s 0 4).wl = some { list := 2 } ∧ heldByPair s 0 4 0 = false ∧ (ctxOf s 0 4).phase ≠ .ending ∧ launchOf u (ctxOf u 0 4).launch = some l ∧
    (Sparse.get ({} : WorkList) l.lists 2).tail - (Sparse.get ({} : WorkList) l.lists 2).head ≠ 4 ∧
    earlierTaker u l 2 0 = false ∧ (ctxOf u 0 4).wl = some { op := 1, list := 2, b := 1 } ∧ heldByPair u 0 4 0 = false ∧
    Sparse.get 0 l.u (0 * 8 + 4) = 0 ∧ (1 : Word).toNat > Sparse.get 0 l.u 4 := by decide +kernel
theorem test_meets_WorkListEvents_quiet : let s := wls { op := 3 } 2 2
    let l : Launch := { barLaunch with lists := [(2, { cap := 4, pa := 0x200000, head := 2, tail := 2 })] }
    launchOf s (ctxOf s 0 4).launch = some l ∧ quiescent s l = true ∧ Sparse.get 0 l.u (0 * 8 + 4) = 0 ∧
    (ctxOf (wls { op := 2, a := 1 } 2 2) 0 4).wl = some { op := 2, a := 1 } ∧ (0 : Word).toNat ≤ Sparse.get 0 l.u 4 ∧
    (ctxOf (wls { applied := true } 2 2) 0 4).wl = some { applied := true } ∧ answeredBefore (wls { applied := true } 2 2) 0 0 = false ∧
    askedBefore s 0 0 = false := by decide +kernel
/-- A take of one item that is there, into the word that s1 addresses. -/
theorem test_meets_WorkListEvents_items : let s := wls { op := 1, list := 2, a := 0x1000000, b := 1 } 3 4
    let l : Launch := { barLaunch with lists := [(2, { cap := 4, pa := 0x200000, head := 3, tail := 4 })] }
    launchOf s (ctxOf s 0 4).launch = some l ∧ earlierTaker s l 2 0 = false ∧ askedBefore s 0 0 = false ∧
    min (1 : Word).toNat (4 - 3) = 1 ∧ (2 ^ 40 + 0x40000) % 16 = 0 ∧ deskWord.pa = 2 ^ 40 + 0x40000 ∧ mirrorOf s deskWord.pa = none ∧
    paRegion deskWord.pa = 1 ∧ 0x200000 + 16 * ((3 + 0) % 4) + 16 ≤ 2 ^ 40 ∧ errAt s (0x200000 + 16 * ((3 + 0) % 4)) = none := by decide +kernel
theorem test_meets_WorkListEvents_resolve (m : Memory) (p : List Nat) (h : List WriteEv) (o : Nat) :
    let s := wls { op := 1, list := 2, a := 0x1000000, b := 1 } 3 4
    resolve { s with mem := m, poison := p, hist := h, writes := o } (viewOf s 0 4) .none_ 0x1000000 true = .ok deskWord := by
  intro s
  have spilled : resolveSpill (viewOf s 0 4) 0x1000000 = some (.ok deskWord) := by decide +kernel
  unfold resolve
  rw [if_neg (by decide), spilled]
/-- A launch in which context 4 has taken an item that it has not acknowledged, and one with an item appended and not taken. -/
theorem test_meets_WorkListEvents_held : let l : Launch := { barLaunch with lists := [(2, { cap := 4, pa := 0x200000, head := 4, tail := 4 })], u := [(4, 1)] }
    let k : Launch := { barLaunch with lists := [(2, { cap := 4, pa := 0x200000, head := 4, tail := 4 })], k := 1 }
    let s : State := { wls { op := 1, list := 2, b := 1 } 4 4 with launches := [k] }
    let y : Ctx := { deskCtx with wl := some { op := 1, list := 2, b := 1, order := 1 } }
    let u : State := { wls {} 3 4 with tiles := [(0, { deskTile { deskCtx with wl := some { op := 1, list := 2, b := 1 } } with ctxs :=
      [(4, { deskCtx with wl := some { op := 1, list := 2, b := 1 } }), (5, y)] })] }
    Sparse.get 0 l.u (0 * 8 + 4) = 1 ∧ quiescent s k = false ∧ Sparse.get 0 k.u 4 = 0 ∧ (ctxOf u 0 4).wl = some { op := 1, list := 2, b := 1 } ∧
    earlierTaker u { barLaunch with lists := [(2, { cap := 4, pa := 0x200000, head := 3, tail := 4 })] } 2 0 = true := by decide +kernel

/-! The hamper, the vault, reliability and the life of contexts. -/

/-- The bench with a claim of 4 registers and 2 slots, and a grant that waits for its group. -/
def claimed : State := desk { deskCtx with claim := some 0x2000004 }
/-- The same with no slot left. -/
def drained : State := { claimed with tiles := [(0, { curTile claimed with slots := (List.range 4).map fun j => (j, { owner := some 0 }) })] }
theorem test_meets_HamperComplete_claim : Ready bench [5, 8] ∧ Clean bench [8] ∧ (cur bench).claim = none ∧
    claimFits (curTile bench) (rdS bench 8).val = true ∧ claimFits (curTile bench) (rdS bench 15).val = false ∧ Ready bench [5, 15] ∧
    Clean bench [15] ∧ (cur bench).acqRes = none ∧ (cur claimed).claim ≠ none ∧ Ready claimed [5, 8] ∧ Clean claimed [8] := by
  unfold Ready Clean; and_intros <;> decide +kernel
theorem claimed_unlogged : Unlogged claimed := unlogged_by (l := { serial := 1 }) rfl rfl
theorem test_meets_HamperComplete_grant : hamperCheck (curTile claimed) claimed.focusCtx (rdS claimed 8).val = .ok 0 ∧
    (curTile claimed).acqq.any (fun q => decide (q.1 = claimed.focusCtx)) = false ∧
    (rdS claimed 8).val = BitVec.ofNat 64 (2 ^ 1) ∧ physOf (cur claimed) 1 = none ∧
    (Sparse.get ({} : TileReg) (curTile claimed).xregs 0).bound = false ∧
    hamperCheck (curTile drained) drained.focusCtx (rdS drained 1).val = .ok 1 ∧ Ready drained [5, 1] ∧ Clean drained [1] ∧
    (cur drained).acqRes = none ∧ (cur (desk { deskCtx with acqRes := some 2 })).acqRes = some 2 := by
  unfold Ready Clean; and_intros <;> decide +kernel
theorem test_meets_HamperComplete_release : wbit (rdS bench 8).val 23 = false ∧ wfld (rdS bench 8).val 28 36 = 0 ∧
    releaseBusy bench bench.focusTile bench.focusCtx (rdS bench 8).val = false ∧ wfld (rdS bench 15).val 28 36 ≠ 0 ∧
    releaseBusy bench bench.focusTile bench.focusCtx everything = false ∧ (curTile bench).acqq = [] ∧ (cur bench).granules.length ≤ 96 ∧
    ((cur bench).names.map fun n => n.1).Nodup := by and_intros <;> decide +kernel

/-- The bench with a vault. -/
def vaulted (v : Vault) : State := { bench with tiles := [(0, { deskTile deskCtx with vault := v })] }
theorem test_meets_VaultEvents : (tileOf bench 0).vault.hold = .active ∧ Sparse.get none (tileOf bench 0).vault.refresh 23 = none ∧
    Sparse.get none (tileOf (vaulted { refresh := [(23, some 100)] }) 0).vault.refresh 23 = some 100 ∧ bench.time = 100 ∧
    Sparse.get none (tileOf (vaulted { refresh := [(23, some 100)] }) 0).vault.opening 23 = none ∧
    (tileOf (vaulted { opening := [(23, some (9, .keep))] }) 0).vault.opening = [(23, some (9, .keep))] ∧
    refreshing (vaulted { opening := [(23, some (9, .keep))] }) 0 23 = false ∧
    readsAtBank (tileOf (vaulted { hold := .entering }) 0) = false ∧ (tileOf (vaulted { hold := .entering }) 0).vault.maint = false ∧
    Sparse.get 0 (tileOf (vaulted { spares := [(0, 31)] }) 0).vault.spares 0 < 32 ∧
    readsAtBank (tileOf (vaulted { hold := .entering, maint := true }) 0) = false ∧
    (tileOf (vaulted { hold := .hold, thermal := .critical, critical := true }) 0).vault.maint = false ∧
    (tileOf (vaulted { flagged := [0], repairing := [0] }) 0).vault.flagged.contains (0 + 24 * 0) = true ∧
    vaultHindrance bench 0 (64 * (tileOf bench 0).vault.scrub) .rpcRemote = none ∧ (105 : Int) < 106 ∧ (101 : Int) < 102 := by
  decide +kernel
/-- A controller of sector 0 that is enabled, with a threshold of 4 and a limit of 2 steps. -/
def volted (v : Volt) : State := { bench with regs := [(0xA80, 0x80000204)], volts := [(0, v)] }
/-- Two errors corrected in one array of tile 0. -/
def corrected (n : Nat) (v : Volt) : State := { volted v with tiles := [(0, { deskTile deskCtx with sramErrs := [(2, n)], suspect := [true] })] }
theorem test_meets_ReliabilityEvents_window : sectorOf 0 = 0 ∧ (tileOf (corrected 5 {}) 0).sramErrs = [(2, 5)] ∧
    (tileOf (corrected 5 {}) 0).suspect ≠ [] ∧ (voltOf (corrected 5 {}) 0).window = false ∧
    wfld (Sparse.get (4 : Word) (corrected 5 {}).regs 0xA80) 0 8 < Sparse.get 0 (voltOf (corrected 5 {}) 0).counts (16 * 0 + 2) + 5 ∧
    (0 : Nat) + 1000 * Config.cyclesPerMicro ≤ 3300000 ∧ (0 : Nat) + 60000000 * Config.cyclesPerMicro ≤ 198000000000 ∧
    (0 : Nat) + 10000 * Config.cyclesPerMicro ≤ 33000000 ∧ ({ window := true } : Volt).window = true ∧
    ({ counts := [(16 * 0 + 18 % 16, 17)] } : Volt).counts = [(2, 17)] ∧ State.reset.mgmt.link = true := by
  and_intros <;> decide +kernel
theorem test_meets_ReliabilityEvents : (tileOf State.reset 0).matq = [] ∧ (tileOf State.reset 0).slots.all (fun j => j.2.owner.isNone) = true ∧
    wbit (Sparse.get (4 : Word) (volted {}).regs 0xA80) 31 = true ∧
    (voltOf (volted { counts := [(0, 5)] }) 0).counts.any (fun k => decide (wfld (Sparse.get (4 : Word) (volted {}).regs 0xA80) 0 8 < k.2)) = true ∧
    (voltOf (volted { counts := [(0, 4)] }) 0).counts.any (fun k => decide (wfld (Sparse.get (4 : Word) (volted {}).regs 0xA80) 0 8 < k.2)) = false ∧
    sectorHot (volted {}) 0 = false ∧ (voltOf (volted { off := 1 }) 0).off < wfld (Sparse.get (4 : Word) (volted {}).regs 0xA80) 8 4 ∧
    (voltOf (volted {}) 0).floorUntil ≤ bench.time ∧ (voltOf (volted {}) 0).raising ≤ bench.time ∧
    (∀ k ∈ ([(0, 16)] : List (Nat × Nat)), k.2 ≤ wfld (Sparse.get 16 (volted {}).regs 0xAC0) 0 8) ∧
    wfld (Sparse.get 16 (volted {}).regs 0xAC0) 0 8 < 17 ∧ wbit (1 : Word) 0 = true ∧
    ({ bench with agentReqs := [(4129, { id := 7 })] } : State).agentReqs.any (fun r => decide (r.1 = 4128 + 1)) = true := by
  and_intros <;> decide +kernel

theorem test_meets_ContextEvents_pending : let s := desk { deskCtx with pend := [{ cause := .scaleAbsent, seq := 3 }] }
    let u := desk { deskCtx with timerPend := true, tcmp := 100 }
    let w := desk { deskCtx with pend := [{ cause := .watchpoint, seq := 3 }], dbg := [(0x30, 1)] }
    oldestPending ((ctxOf w 0 4).pend.filter (takeable (stoppedGroup w 0 4).isSome (ctxOf w 0 4))) = some { cause := .watchpoint, seq := 3 } ∧ toDbg (ctxOf w 0 4) = true ∧
    s.barArr.any (fun b => b.aw && decide (b.tile = 0) && decide (b.ctx = 4)) = false ∧
    (ctxOf s 0 4).phase = .running ∧ (ctxOf s 0 4).stopped = false ∧ (ctxOf s 0 4).debugHalt = false ∧ answerHeld (ctxOf s 0 4) = false ∧
    (ctxOf s 0 4).after = none ∧ oldestPending ((ctxOf s 0 4).pend.filter (takeable (stoppedGroup s 0 4).isSome (ctxOf s 0 4))) = some { cause := .scaleAbsent, seq := 3 } ∧
    oldestPending ((ctxOf u 0 4).pend.filter (takeable (stoppedGroup u 0 4).isSome (ctxOf u 0 4))) = none ∧ (ctxOf u 0 4).timerPend = true ∧
    exl (ctxOf u 0 4) = false ∧ ie (ctxOf u 0 4) = true ∧ (ctxOf u 0 4).tcmp.toNat ≤ u.time ∧ replaying u 0 = false := by decide +kernel
/-- The bench at the end of a quantum of context 4, alone or with a second task. -/
def quantum (two : Bool) : State :=
  let l : Sparse Ctx := if two then [(4, deskCtx), (5, deskCtx)] else [(4, deskCtx)]
  { bench with time := 4096, tiles := [(0, { deskTile deskCtx with cores := [(1, { cur := some 0 })], ctxs := l })] }
theorem test_meets_ContextEvents_quantum : ∀ b : Bool, (coreOf (quantum b) 0 1).mode = false ∧ (coreOf (quantum b) 0 1).cur = some 0 ∧
    (coreOf (quantum b) 0 1).curSince + Config.quantum ≤ (quantum b).time ∧ othersMayIssue (quantum b) 0 1 0 = b := by decide +kernel
theorem test_meets_ContextEvents_drowsy : let s : State := { bench with time := 16384 }
    (Sparse.get ({} : TileReg) (tileOf s 0).xregs 3).bound = true ∧ (Sparse.get ({} : TileReg) (tileOf s 0).xregs 3).drowsy = false ∧
    (Sparse.get ({} : TileReg) (tileOf s 0).xregs 3).lastUse + Config.drowsyAfter ≤ s.time := by decide +kernel
theorem test_meets_ContextEvents_start : let q : Task := { flat := 3, role := true }
    let s : State := { bench with tiles := [(0, { deskTile deskCtx with tasks := [q] })] }
    (tileOf s 0).tasks = [q] ∧ (tileOf s 0).isShadow = false ∧ (tileOf s 0).saved = false ∧ partStopped s (tileOf s 0).part = false ∧
    launchOf s (tileOf s 0).launch = some { serial := 1 } ∧ condsHold (tileOf s 0) q = true ∧ claimOpen (tileOf s 0) { serial := 1 } q = true ∧
    (if q.role then [4, 5, 6, 7] else [0, 1, 2, 3]).find? (fun d => decide ((ctxOf s 0 d).phase = .free)) = some 5 := by decide +kernel
theorem test_meets_ContextEvents_end : let s := desk { deskCtx with phase := .halted }
    let u := desk { deskCtx with phase := .ending, closed := true }
    (ctxOf s 0 4).phase = .halted ∧ releaseBusy s 0 4 everything = false ∧ ctxQuiet s 0 4 = true ∧
    (ctxOf u 0 4).phase = .ending ∧ (ctxOf u 0 4).closed = true ∧ ctxQuiet u 0 4 = true ∧
    (ctxOf (desk { deskCtx with phase := .ending }) 0 4).closed = false ∧ resultsIn (desk { deskCtx with phase := .ending }) 0 4 = true ∧ Sparse.get none (tileOf s 0).pairs 4 = none ∧ (tileOf s 0).isShadow = false ∧
    (ctxOf (desk { deskCtx with debugHalt := true, resumeReq := true }) 0 4).resumeReq = true ∧
    loadsDone (desk { deskCtx with debugHalt := true, resumeReq := true }) 0 4 = true := by decide +kernel
theorem test_meets_ContextEvents_counter : let s : State := { bench with tiles := [(0, { deskTile deskCtx with cores :=
      [(1, { pmsel := [(0, 0x1101)], pmc := [(0, 0xFFFFFFFFFFFF)] })] })] }
    countsCycles (Sparse.get 0 (coreOf s 0 1).pmsel 0) = true ∧
    (Sparse.get 0 (coreOf s 0 1).pmc 0).toNat < 2 ^ 48 := by decide +kernel
theorem test_meets_ContextEvents_hold : let s : State := { bench with time := 6600, tiles := [(0, { deskTile { deskCtx with wait := .hold 8 } with vault := { hold := .hold } })] }
    (tileOf s 0).vault.hold ≠ .active ∧ (tileOf s 0).moves = [] ∧ (tileOf s 0).matq = [] ∧ (ctxOf s 0 4).wait = .hold 8 ∧
    (ctxOf s 0 4).waitSince + Config.holdLimit ≤ s.time ∧ (ctxOf s 0 4).phase = .running := by decide +kernel
/-- A translation of 64 KiB of the own vault that accepts no write now. -/
def blockedEntry : TlbEntry := { base := 0x300000000, size := 0x10000, leaf := 0x159 }
theorem test_meets_ContextEvents_block : let s : State := { bench with time := 2 ^ 22, tiles := [(0, { deskTile { deskCtx with wait := .writeBlock 0x300000000 } with tlb := [blockedEntry] })] }
    (ctxOf s 0 4).wait = .writeBlock 0x300000000 ∧
    resolve s (viewOf s 0 4) (.core (coreIx 4)) 0x300000000 true = .ok { pa := 0, tgt := .vault, wb := true, entry := some blockedEntry } ∧
    (ctxOf s 0 4).waitSince + Config.writeBlockLimit ≤ s.time := by decide +kernel
theorem test_meets_ContextEvents_replay :
    let x : Tile := { deskTile deskCtx with logWait := some 0 }
    let s : State := { bench with time := 2 ^ 22, launches := [{ serial := 1, recording := some true }], tiles := [(0, x)] }
    replaying s 0 = true ∧ (tileOf s 0).logWait = some 0 ∧ 0 + Config.writeBlockLimit ≤ s.time := by decide +kernel
/-- Tile 0 with tile 1 as its shadow, and a checkpoint of context 4 with one byte to undo, in the state given. -/
def paired (y : Ctx) (failed : Bool) (crc : Word := 0) : State :=
  let k : PairCk := { ctx := deskCtx, undo := [(2 ^ 40, 7, false)], failed := failed, crc := (0, crc) }
  let x : Tile := { deskTile y with pairOf := some 1, pairs := [(4, some k)] }
  { bench with tiles := [(0, x), (1, { isShadow := true, pairOf := some 0 })] }
/-- The context at an end of its interval: asked to halt by the debugger, halted, stopped, or before a fatal end. -/
def intervalEnds : List Ctx := [{ deskCtx with retired := 9, debugHalt := true }, { deskCtx with retired := 9, phase := .halted },
  { deskCtx with retired := 9, stopped := true }, { deskCtx with endPend := some (.align, 0, 0) }]
theorem test_meets_PairIntervals : ∀ b : Bool, ∀ y ∈ intervalEnds, (tileOf (paired y b) 0).pairOf = some 1 ∧
    Sparse.get none (tileOf (paired y b) 0).pairs 4 = some { ctx := deskCtx, undo := [(2 ^ 40, 7, false)], failed := b } ∧
    (ctxOf (paired y b) 0 4).phase ≠ .ending ∧ notBegun (tileOf (paired y b) 0) 4 = false ∧ intervalOver (paired y b) 0 4 = true ∧
    intervalLanded (paired y b) 0 4 = true ∧
    Sparse.get none (tileOf (paired y b 1) 0).pairs 4 = some { ctx := deskCtx, undo := [(2 ^ 40, 7, false)], failed := b, crc := (0, 1) } ∧
    notBegun (tileOf (paired y b 1) 0) 4 = false := by decide +kernel
theorem test_meets_PairIntervals_open : intervalOver (paired deskCtx false) 0 4 = false ∧ notBegun (tileOf (paired deskCtx true) 0) 4 = true ∧
    intervalLanded (paired { deskCtx with accs := [aLoad] } false) 0 4 = false := by decide +kernel

/-! Engines under way. -/

/-- A copy of two bytes in the scratchpad, from 0x1000000 to 0x1000040. -/
def aCopy : Copy :=
  let d : CopyDesc := { src := 0x1000000, dst := 0x1000040, dims := [{ e := 2, ss := 1, ds := 1, b := 0xFFFFFFFF }] }
  { id := 9, ctx := 4, launch := 1, desc := d, view := { launch := 1, spillb := 0x1010000, ctx := 4 } }
/-- The bench with a copy whose future is handle 2. -/
def copying (q : Copy) : State :=
  { bench with tiles := [(0, { deskTile { deskCtx with futs := [(2, { st := .pending, cmd := 9 })] } with copies := [q] })] }
theorem test_meets_CopyEvents_access : let s := copying aCopy
    (tileOf s 0).copies.find? (fun r => decide (r.id = 9)) = some aCopy ∧ heldByPair s 0 aCopy.ctx 9 = false ∧ boxCount aCopy.desc = 2 ∧
    hasLanded aCopy 1 = false ∧ aCopy.flying = [] ∧ aCopy.got = [] ∧ s.asOf = none ∧ (element aCopy.desc 1).2.2 = true ∧
    endCheck s aCopy.view .tile (element aCopy.desc 1).1 1 false = .ok { pa := 2 ^ 40 + 0x40001, tgt := .scratch } ∧
    endCheck s aCopy.view .tile (element aCopy.desc 1).2.1 1 true = .ok { pa := 2 ^ 40 + 0x40041, tgt := .scratch } ∧
    launchOf s aCopy.view.launch = some { serial := 1 } ∧ (tileOf s (paTile (2 ^ 40 + 0x40041))).pairOf = none := by
  intro s; and_intros <;> decide +kernel
theorem test_meets_CopyEvents_end : let q := { aCopy with next := 2 }
    boxCount q.desc ≤ q.next ∧ futHolder (tileOf (copying q) q.view.tile) 9 = some (4, 2) ∧
    futHolder (tileOf (copying { aCopy with cancelled := true }) 0) 9 = some (4, 2) ∧
    futHolder (tileOf (copying { aCopy with cause := .xlateAbsent }) 0) 9 = some (4, 2) ∧
    ({ copying aCopy with cancels := [(7, 0, 9)] } : State).cancels.find? (fun r => decide (r.1 = 7)) = some (7, 0, 9) ∧
    aCopy.next = 0 ∧ aCopy.done = [] ∧ boxCount aCopy.desc ≠ 0 := by decide +kernel
theorem test_meets_CopyEvents_release : let r : Reserve := { ctx := 0, next := 0, left := 1 }
    let s : State := { bench with tiles := [(0, { deskTile deskCtx with ctxs := [(0, { deskCtx with cpysLeft := 1 })], reserves := [r], sched := [[]] })] }
    (tileOf s 0).reserves = [r] ∧ (ctxOf s 0 r.ctx).cpysLeft ≠ 0 ∧ (ctxOf s 0 r.ctx).cpysNext = r.next ∧ (ctxOf s 0 r.ctx).stopped = false ∧ (tileOf s 0).copies.length < 1024 := by
  decide +kernel

/-- A request of procedure `p` on 8 bytes of tile 5 at the front of its agent's queue. -/
def aReq (p : Nat) : AReq := { id := 9, kind := .rpc p, block := BitVec.ofNat 512 rpcBlk, view := { launch := 1 } }
/-- Its agent, with the translation. -/
def serving5 (q : AReq) (v : Vault) : State :=
  { bench with time := 6600, tiles := [(0, deskTile { deskCtx with futs := [(2, { st := .pending, cmd := 9 })] }),
    (5, { agentq := [q], vault := v, agentTlb := [{ base := 0x200000000, size := 0x10000, leaf := 0x50000119 }] })] }
theorem test_meets_AgentEvents_serve : ∀ p ∈ [0, 1, 6, 7], let s := serving5 (aReq p) {}
    (tileOf s 5).agentq = [aReq p] ∧ (aReq p).answer = none ∧ (aReq p).box = none ∧ behindWalk (tileOf s 5) (aReq p) = false ∧ ownerFirst s 5 (aReq p) = false ∧ s.asOf = none ∧ launchOf s (tileOf s 5).launch = none ∧ wbit (Sparse.get 0 (tileOf s 5).mon 0) 63 = false ∧
    blk rpcBlk 28 1 / 2 % 2 = 0 ∧ ((rpcShape p (blk rpcBlk 24 4) (blk rpcBlk 28 1) (blk rpcBlk 8 8)).getD (0, 0)).2 = 8 ∧
    vaultPieces s (aReq p).view 5 (rpcWrites p) (piecesOf (blk rpcBlk 8 8) 8) = .ok [(0x50000000, 0, 8)] ∧ paRegion 0x50000000 = 0 ∧
    paTile 0x50000000 = 5 ∧ errAt s 0x50000000 = none ∧ segPoison s 0x50000000 = false ∧ (tileOf s 5).pairOf = none := by decide +kernel
theorem test_meets_AgentEvents_late : let q := { aReq 0 with heldSince := some 0 }
    let r : Reply := { id := 9, cmd := 9, code := 5, cause := .rpcRemote }
    let s : State := { serving5 q { hold := .hold } with replies := [r] }
    (tileOf s 5).agentq.find? (fun q => q.heldSince.isSome) = some q ∧ q.kind = .rpc 0 ∧ (q.heldSince.getD 0) + Config.holdLimit ≤ s.time ∧
    (tileOf s 5).vault.hold ≠ .active ∧ s.replies.find? (fun r => decide (r.id = 9)) = some r ∧
    repliedBefore s r.src r.tile r.sent = false ∧
    futHolder (tileOf s r.view.tile) r.cmd = some (4, 2) := by decide +kernel
/-- A walk at a pointer with one rule. -/
def aWalk (rule p : Word) (kept : Option (List Byte)) (steps : Nat) : Walk :=
  { req := { id := 9, block := BitVec.ofNat 512 walkBlk }, rules := [rule], p := p, kept := kept, steps := steps }
theorem test_meets_WalkEvents_step : ruleBad 0xF000000000000000 (walkSize walkBlk) (walkKl walkBlk) = true ∧
    ruleBad 0x5000600000000000 (walkSize walkBlk) (walkKl walkBlk) = false ∧ wfld 0x5000600000000000 60 4 ≠ 6 ∧
    blk (BitVec.ofNat 512 walkBlk).toNat 32 2 ≤ (aWalk 0x5000600000000000 8 none 1).steps ∧
    ruleTrue (aWalk 0x5000600000000000 8 (some []) 0) 0x5000600000000000 walkBlk = true ∧
    wfld 0x5000600000000000 32 16 / 2 ^ 13 = 3 ∧ wfld 0x5000600000000000 32 2 = 0 ∧
    (let w := aWalk 0x5000600000000000 8 none 1
     let s : State := { bench with tiles := [(5, { walks := [w] })] }
     (tileOf s 5).walks[(0 : Nat)]? = some w ∧ behindHeld (tileOf s 5) w = false) := by decide +kernel
theorem test_meets_WalkEvents_full : let w := aWalk 0 8 none 0
    let s : State := { bench with conts := [(7, 5, w)], tiles := [(5, { walks := List.replicate 32 { w with slot := true } })] }
    s.conts.find? (fun c => decide (c.1 = 7)) = some (7, 5, w) ∧ contBefore 7 5 w.src s.conts = false ∧
    32 ≤ ((tileOf s 5).walks.filter fun w => w.slot).length := by decide +kernel
/-- A walk of context 4 with its block at 0x1000000, whose rules stand at 0x1000100, on its way to tile 5. -/
theorem test_meets_WalkEvents_free : let w : Walk := { aWalk 0 8 none 0 with req := { id := 9, blockVa := 0x1000000, block := BitVec.ofNat 512 walkBlk, view := { launch := 1, spillb := 0x1010000, ctx := 4 } } }
    let s : State := { serving5 (aReq 0) {} with conts := [(7, 5, w)], mem := Memory.writeN (2 ^ 40 + 0x40000) walkBlk 64 [] }
    let s1 : State := { s with conts := s.conts.filter fun c => decide (c.1 ≠ 7) }
    let l := [(2 ^ 40 + 0x40000, 0, 64)]
    let block := readPieces s1 (agentKnows w.req.view 5) l
    let lr := [(2 ^ 40 + 0x40100, 0, 64), (2 ^ 40 + 0x40140, 64, 64)]
    s.conts.find? (fun c => decide (c.1 = 7)) = some (7, 5, w) ∧ contBefore 7 5 w.src s.conts = false ∧
    ((tileOf s 5).walks.filter fun w => w.slot).length < 32 ∧
    ownPieces s1 w.req.view (.agent 5) false (piecesOf w.req.blockVa 64) = .ok l ∧ block.2 = false ∧
    ownPieces s1 w.req.view (.agent 5) false (piecesOf (blk block.1 0 8) 128) = .ok lr ∧
    (readPieces s1 (agentKnows w.req.view 5) lr).2 = false := by
  intro w s s1 l block lr; and_intros <;> decide +kernel

/-- A lookup of one index at 0x1000100 with its weight at 0x1000180 in the table that s4 addresses. -/
def poolBlk2 : Nat := poolBlk + 0x1000180 * 2 ^ 64 + 2 ^ 224
/-- Whether a lookup found every row. -/
def pooledOk (e : Except (Reply ⊕ (Hindrance × Nat)) Pooled) : Bool :=
  match e with
  | .ok _ => true
  | .error _ => false

/-! Commands, launches, resets, firmware and the host. -/

theorem test_meets_WalkEvents_pool : let q : AReq := { id := 9, kind := .gpool, block := BitVec.ofNat 512 poolBlk2, view := { launch := 1, spillb := 0x1010000, ctx := 4 } }
    let s : State := { serving5 q {} with mem := [(2 ^ 40 + 0x40180 + 2, 0x80), (2 ^ 40 + 0x40180 + 3, 0x3F)] }
    (nextRequest 5 s).2 = some q ∧ (nextRequest 5 s).1 = s ∧ replaying s 5 = false ∧
    ownPieces s q.view (.agent 5) false (piecesOf (blk poolBlk2 0 8) (4 * blk poolBlk2 24 4)) = .ok [(2 ^ 40 + 0x40100, 0, 4)] ∧
    ownPieces s q.view (.agent 5) false (piecesOf (blk poolBlk2 8 8) (4 * blk poolBlk2 24 4)) = .ok [(2 ^ 40 + 0x40180, 0, 4)] ∧
    pooledOk (poolAll s q 5 (word32 s [(2 ^ 40 + 0x40100, 0, 4)] (readPieces s (agentKnows q.view 5) [(2 ^ 40 + 0x40100, 0, 4)]).1)
      (word32 s [(2 ^ 40 + 0x40180, 0, 4)] (readPieces s (agentKnows q.view 5) [(2 ^ 40 + 0x40180, 0, 4)]).1) (List.range (blk poolBlk2 24 4))
      { acc := List.replicate (blk poolBlk2 32 2) (if blk poolBlk2 34 1 / 16 % 4 = 2 then 0xFF800000 else 0) }) = true := by
  intro q s; and_intros <;> decide +kernel
theorem test_meets_WalkEvents_attn : let q : AReq := { id := 9, kind := .attn, block := BitVec.ofNat 512 attnBlk, view := { launch := 1, spillb := 0x1010000, ctx := 4 } }
    let s := serving5 q {}
    (nextRequest 5 s).2 = some q ∧ replaying (nextRequest 5 s).1 5 = false ∧ min (blk attnBlk 40 4) (blk attnBlk 44 4) = 0 ∧
    (ownPieces s q.view (.agent 5) false (piecesOf (blk attnBlk 0 8) (2 * (blk attnBlk 35 1 % 16 + 1) * blk attnBlk 32 2))).isOk = true := by
  intro q s; and_intros <;> decide +kernel

/-- A queue of partition 0 whose head entry has been read. -/
def queueAt (e : Nat) : Queue := { cfg := 0x80000000, tail := 1, entry := some (0, BitVec.ofNat 512 e) }
/-- The machine after reset with that queue, and timeline 63 at 1. -/
def commands (e : Nat) : State := { State.reset with queues := [(0, queueAt e)], tln := [(63, 1)] }
/-- The conditions of a command that is dispatched now. -/
def ready0 (s : State) (e : Nat) : Bool :=
  headReady s 0 && decide (headEntry (acceptHead 0 s) 0 = some e) && decide ((queueOf (acceptHead 0 s) 0).skip = 0) &&
  depsDone (queueOf (acceptHead 0 s) 0) e
/-- SIGNAL 63 to 5, WAITVAL 63 for 1 and for 2, COND of vault 0 against 0 and 1 with SKIP 1, PUBLISH, COPY of 8 bytes. -/
def cmdSignal : Nat := 4 + 63 * 2 ^ 64 + 5 * 2 ^ 128
def cmdWaitval (v : Nat) : Nat := 5 + 63 * 2 ^ 64 + v * 2 ^ 128
def cmdCond (v : Nat) : Nat := 6 + 2 ^ 63 * 2 ^ 64 + v * 2 ^ 128 + 0x100 * 2 ^ 192
def cmdPublish : Nat := 7 + 8 * 2 ^ 64 + 9 * 2 ^ 128
def cmdCopy : Nat := 2 + 2 ^ 63 * 2 ^ 64 + (2 ^ 63 + 64) * 2 ^ 128 + 8 * 2 ^ 192
theorem test_meets_QueueCommands : ∀ e ∈ [3, cmdSignal, cmdWaitval 1, cmdWaitval 2, cmdCond 0, cmdCond 1, cmdPublish, cmdCopy],
    ready0 (commands e) e = true ∧ entryBad e = false := by decide +kernel
theorem test_meets_QueueCommands_values : 1 ≤ (Sparse.get 0 (commands 0).tln 63).toNat ∧ (Sparse.get 0 (commands 0).tln 63).toNat < 2 ∧
    (commands (cmdCond 0)).asOf = none ∧ (queueOf (commands (cmdCond 0)) 0).priFail = false ∧ commandEnd (commands (cmdCond 0)) (operandPa (blk (cmdCond 0) 8 8)) 4 false = none ∧
    errAt (commands (cmdCond 0)) (operandPa (blk (cmdCond 0) 8 8)) = none ∧ blk (cmdCond 0) 24 1 = 0 ∧
    readMem (commands (cmdCond 0)) (operandPa (blk (cmdCond 0) 8 8)) 4 = blk (cmdCond 0) 16 4 ∧
    readMem (commands (cmdCond 1)) (operandPa (blk (cmdCond 1) 8 8)) 4 ≠ blk (cmdCond 1) 16 4 ∧
    hostPa (blk cmdPublish 8 8) ≠ slotPa (queueAt cmdPublish) 0 + 56 := by and_intros <;> decide +kernel
theorem test_meets_QueueCommands_skip : ∀ k ∈ [1, 2, 3, 4, 5, 6, 7], let e := k + 2 ^ 16
    ready0 (commands e) e = true ∧ entryBad e = true ∧
    (let s : State := { State.reset with queues := [(0, { queueAt e with skip := 1 })] }
     headReady s 0 = true ∧ headEntry (acceptHead 0 s) 0 = some e ∧ 0 < (queueOf (acceptHead 0 s) 0).skip) := by decide +kernel
theorem test_meets_QueueCommands_flight : let c : Cmd := { kind := 2, entry := BitVec.ofNat 512 cmdCopy }
    let s : State := { State.reset with queues := [(0, { cfg := 0x80000000, head := 1, tail := 1, flight := [c] })] }
    let a := operandPa (blk cmdCopy 8 8)
    let b := operandPa (blk cmdCopy 16 8)
    (queueOf s 0).flight.find? (fun d => decide (d.kind = 2) && decide (d.idx = 0)) = some c ∧ c.entry.toNat = cmdCopy ∧
    c.priFail = false ∧ c.ahead = [] ∧ (queueOf s 0).resetTo = none ∧ s.mgmt.link = true ∧ s.asOf = none ∧ blk cmdCopy 24 8 = 8 ∧ 8 ≤ 8 - a % 8 ∧
    8 ≤ 8 - b % 8 ∧ commandEnd s a 8 false = none ∧ commandEnd s b 8 true = none ∧ errAt s a = none ∧ errAt s b = none ∧ paRegion b = 0 ∧
    paTile b = 0 ∧ paOff b < Config.firmwareReserve ∧ (tileOf s (paTile b)).pairOf = none ∧ b / 8 * 8 ≠ slotPa (queueOf s 0) 0 + 56 := by
  decide +kernel
theorem test_meets_QueueCommands_doorbell : let s : State := { State.reset with time := 33000000, queues := [(0, { queueAt 3 with resetTo := some 1, since := some 0 })] }
    (queueOf s 0).resetTo = some 1 ∧ (queueOf State.reset 0).resetTo = none ∧ State.reset.mgmt.link = true ∧ ({ State.reset with mgmt := { link := false } } : State).mgmt.link = false ∧ (queueOf s 0).since = some 0 ∧
    0 + 10000 * Config.cyclesPerMicro ≤ s.time := by decide +kernel

/-- A launch record of one task: version 2, one level, the S image of 8 bytes at host 0x1000. -/
def aRecord : Nat := 2 + 2 ^ 16 + 255 * 2 ^ 40 + 0x1000 * 2 ^ 64 + 8 * 2 ^ 192 + 0x100001 * 2 ^ 832
/-- A LAUNCH of the record at vault address 0. -/
def cmdLaunch : Nat := 1 + 2 ^ 63 * 2 ^ 64
/-- Sector 0 in partition 0, the queue and the record. -/
def launching (r : Nat) : State :=
  { State.reset with regs := [(0x10, 8)], queues := [(0, queueAt cmdLaunch)], mem := Memory.writeN 0 r 256 [] }
/-- What the check of the record that the LAUNCH names answers: its cause, or whether its tiles are distinct. -/
def checked (s : State) : Except (Nat × Cause) Bool :=
  let w := checkRange (operandPa (blk cmdLaunch 8 8)) 256 (acceptHead 0 s)
  let r := launchRecord w cmdLaunch
  (checkRecord (checkArrays r 0 w) r 0).map fun p => decide ((p.tiles.map fun y => y.tile).Nodup) && !p.tiles.isEmpty
/-- The conditions of a LAUNCH that is dispatched now. -/
def launches0 (s : State) : Bool :=
  ready0 s cmdLaunch && !entryBad cmdLaunch && decide (queuePart (queueOf (acceptHead 0 s) 0) = 0) &&
  decide (chosenQueue (acceptHead 0 s) 0 = some 0)
/-- Whether its partition is free for it. -/
def freeFor0 (s : State) : Bool := partitionFree (acceptHead 0 s) 0 (launchPrio (acceptHead 0 s) 0 cmdLaunch)
/-- What a check answered. -/
def answer (e : Except (Nat × Cause) Bool) : Option (Nat × Cause) × Bool :=
  match e with
  | .ok b => (none, b)
  | .error e => (some e, false)
theorem test_meets_LaunchEvents_refused : launches0 (launching 0) = true ∧ freeFor0 (launching 0) = true ∧
    answer (checked (launching 0)) = (some (2, .none_), false) := by
  and_intros <;> decide +kernel
theorem test_meets_LaunchEvents_accepted : launches0 (launching aRecord) = true ∧ freeFor0 (launching aRecord) = true ∧
    answer (checked (launching aRecord)) = (none, true) ∧ launchRecord (launching aRecord) cmdLaunch = aRecord ∧ blk aRecord 3 1 / 2 % 2 = 0 := by
  and_intros <;> decide +kernel
/-- A launch that runs in partition 0 for queue 0, with a publication at host 0x1000. -/
def aLaunch : Launch := { serial := 1, record := List.replicate 96 0 ++ [0, 16, 0, 0, 0, 0, 0, 0] }
/-- The device with it. -/
def running (l : Launch) : State := { bench with regs := [(0x10, 8)], launches := [l], parts := [(0, { live := true })] }
/-- A LAUNCH of priority 1 at queue 0 while a launch of priority 0 runs. -/
def victimised : State := { launching (aRecord + 2 ^ 32 - 255 * 2 ^ 40) with launches := [{ aLaunch with queue := 1, left := 1 }], parts := [(0, { live := true })] }
theorem test_meets_LaunchEvents_victim : launches0 victimised = true ∧ freeFor0 victimised = false ∧
    (victim (acceptHead 0 victimised) 0 0).isSome = true ∧ (answer (checked victimised)).1 = none := by
  and_intros <;> decide +kernel
theorem test_meets_LaunchEvents_complete : let s := running aLaunch
    runningLaunch s 0 = some aLaunch ∧ aLaunch.left = 0 ∧ aLaunch.expired = false ∧ (partOf s 0).halt = false ∧ (partOf s 0).reset = [] ∧
    (queueOf s aLaunch.queue).resetTo = none ∧ s.mgmt.link = true ∧ recField aLaunch 96 8 = 0x1000 ∧
    slotPa (queueOf s aLaunch.queue) aLaunch.qidx + 56 + 8 ≤ hostPa (recField aLaunch 96 8) ∧
    runningLaunch (running { aLaunch with expired := true }) 0 = some { aLaunch with expired := true } := by
  intro s; and_intros <;> decide +kernel
/-- Whether the record of a pre-empting launch stands. -/
def stands (s : State) : Bool := (checkRecord s (launchRecord s ((headEntry s 0).getD 0)) 0).isOk
theorem test_meets_LaunchEvents_preempt : ∀ r ∈ [aRecord + 2 ^ 32 - 255 * 2 ^ 40, 2 ^ 32], let s : State := acceptHead 0 { victimised with mem := Memory.writeN 0 r 256 [] }
    let l : Launch := { aLaunch with queue := 1, left := 1 }
    runningLaunch s 0 = some l ∧ chosenQueue s 0 = some 0 ∧ lowerSlot s l = some 0 ∧ (partOf s 0).run = true ∧ partStopped s 0 = false ∧
    l.expired = false ∧ l.prio < launchPrio s 0 ((headEntry s 0).getD 0) ∧ stands s = decide (r ≠ 2 ^ 32) := by
  decide +kernel
theorem test_meets_LaunchEvents_halt : let s : State := { running aLaunch with parts := [(0, { preempt := true })] }
    partStopped s 0 = true ∧ partTiles s 0 ≠ [] ∧ (∀ d ∈ partTiles s 0, ∀ c, c < 8 → mustAnswer s d c = false) := by
  intro s; and_intros <;> decide +kernel
theorem test_meets_LaunchEvents_save : let l := { aLaunch with saved := some 0 }
    let s : State := { running l with parts := [(0, { preempt := true })], tiles := [(0, deskTile { deskCtx with stopped := true })] }
    launchOf s (tileOf s 0).launch = some l ∧ (partOf s l.part).preempt = true ∧ partOfTile s 0 = some l.part ∧
    (tileOf s 0).saved = false ∧ tileDrained s 0 = true := by decide +kernel
/-- A saved launch of partition 1, which owns no tile, with its slot's header written or not. -/
def savedDesk (b : Byte) : State :=
  { State.reset with launches := [{ aLaunch with part := 1, saved := some 0 }], regs := [(0x88, 0x10000)], mem := [(0x10000, b)] }
theorem test_meets_LaunchEvents_restore : let l := { aLaunch with part := 1, saved := some 0 }
    ∀ b ∈ ([3, 1] : List Byte), savedLaunch (savedDesk b) 1 = some l ∧ (partOf (savedDesk b) 1).run = true ∧
    partStopped (savedDesk b) 1 = false ∧ (partOf (savedDesk b) 1).live = false ∧ latePending (savedDesk b) l 0 = false ∧
    chosenQueue (savedDesk b) 1 = none ∧ imagesOk (savedDesk b) l 0 = decide (b = 3) ∧ (queueOf (savedDesk b) l.queue).resetTo = none := by
  decide +kernel
theorem test_meets_ResetEvents_queue : let c : Cmd := { kind := 2 }
    let s : State := { State.reset with queues := [(0, { cfg := 0x80000000, flight := [c] }), (1, { resetTo := some 4 })], launches := [{ queue := 2, part := 3 }], parts := [(3, { reset := [1] })] }
    s.mgmt.ready = true ∧ resetting s = false ∧ s.toAccept = [] ∧ (queueOf s 1).resetTo = some 4 ∧ (queueOf s 0).resetTo = none ∧ coveredBy s 0 = none ∧ (queueOf s 0).flight ≠ [] ∧
    (queueOf s 3).flight = [] ∧ coveredBy s 2 = some 3 ∧ ({ State.reset with mgmt := { ready := false } } : State).mgmt.ready = false ∧
    resetting { State.reset with mgmt := { ready := false } } = false := by
  decide +kernel
theorem test_meets_ResetEvents_clear : ∀ h : Bool, let s : State := { running aLaunch with parts := [(0, { reset := [1], halt := h, clearing := h })], tiles := [(0, deskTile { deskCtx with stopped := true })] }
    ((partOf s 0).clearing = true ∨ (partOf s 0).reset ≠ [] ∧ (partOf s 0).halt = false) ∧ (partOf s 0).halt = h ∧ isHalted s 0 = true ∧ isQuiet s 0 = true := by
  decide +kernel
/-- A device reset under way, at a boot stage. -/
def resetAt (n : Nat) (g : Mgmt) : State := { State.reset with mgmt := { g with stage := n, ready := false, link := false, booting := some (false, [5]) } }
theorem test_meets_ResetEvents_boot : (resetAt 2 {}).mgmt.booting = some (false, [5]) ∧ (resetAt 2 {}).mgmt.fail = false ∧
    resetting (resetAt 2 {}) = true ∧ (resetAt 2 {}).toAccept = [] ∧ (resetAt 2 { clockFail := true }).mgmt.clockFail = true ∧
    (resetAt 2 {}).mgmt.clockFail = false ∧ remapTable (resetAt 4 {}) = some [] ∧ oldTile (resetAt 4 {}).remap [] (paTile (2 ^ 28)) = some 1 ∧ paTile (2 ^ 28) = 1 ∧ paRegion (2 ^ 28) = 0 ∧
    remapTable (resetAt 4 { defects := [(1, 2), (3, 2)] }) = none ∧ (resetAt 5 {}).mgmt.vaultFail = false ∧
    (resetAt 5 { vaultFail := true }).mgmt.vaultFail = true ∧ (resetAt 6 {}).mgmt.stage = 6 ∧ 7 ≤ (resetAt 7 {}).mgmt.stage ∧
    (resetAt 2 { fail := true }).mgmt.fail = true ∧ State.reset.mgmt.booting = none := by and_intros <;> decide +kernel
/-- The clauses on stage 3 rest on a slot that verifies, and a test builds none, since that takes the private key of the vendor: with one, the rest is met. -/
theorem test_meets_ResetEvents_slots (m : Memory) (h : slotOk (resetAt 3 { slotA := m }) m = true) :
    (resetAt 3 { slotA := m }).mgmt.stage = 3 ∧ slotOk (resetAt 3 { slotA := m }) (slotOf (resetAt 3 { slotA := m }) (resetAt 3 { slotA := m }).mgmt.activeB) = true :=
  ⟨rfl, h⟩
/-- A slot whose header names a body that is too long does not verify. -/
theorem long_slot_fails (s : State) : slotOk s [(3, 1)] = false := by
  have h : decide (fwHeader [(3, 1)] 0 4 ≤ 2 ^ 20) = false := by decide +kernel
  simp only [slotOk, h, Bool.false_and]
theorem test_meets_ResetEvents_noSlot : let s := resetAt 3 { slotA := [(3, 1)], slotB := [(3, 1)] }
    slotOk s s.mgmt.slotA = false ∧ slotOk s s.mgmt.slotB = false := ⟨long_slot_fails _, long_slot_fails _⟩
theorem test_meets_ResetEvents_otherSlot (m : Memory) (h : slotOk (resetAt 3 { slotA := [(3, 1)], slotB := m }) m = true) :
    let s := resetAt 3 { slotA := [(3, 1)], slotB := m }
    slotOk s (slotOf s s.mgmt.activeB) = false ∧ slotOk s (slotOf s !s.mgmt.activeB) = true :=
  ⟨long_slot_fails _, h⟩
theorem test_meets_FirmwareBlock : let s : State := { running aLaunch with parts := [(0, { halt := true })], tiles := [(0, deskTile { deskCtx with stopped := true })] }
    errAt s (journalPa 1) = none ∧ (partOf s 0).halt = true ∧ isHalted s 0 = true ∧ isQuiet s 0 = true ∧ (partOf bench 0).halt = false ∧
    s.launches.find? (fun l => decide (l.queue = wfld (0x100 : Word) 0 4) && l.saved.isNone) = some aLaunch ∧ (queueOf s 0).resetTo = none ∧
    s.mgmt.link = true ∧ (ctxOf s 0 4).stopped = true ∧ bench.wdexp = 0 ∧ ({ bench with wdexp := 1 } : State).wdexp ≠ 0 ∧ bench.jsel = 0 ∧
    ({ bench with jsel := 1 } : State).jsel ≠ 0 ∧ isHalted (running aLaunch) 0 = false ∧
    (running aLaunch).launches.find? (fun l => decide (l.queue = wfld (1 : Word) 0 4) && l.saved.isNone) = none := by
  intro s; and_intros <;> decide +kernel
/-- The port on context 4 of tile 0, halted or not, at an address. -/
def port (h : Bool) (va : Word) : State := { desk { deskCtx with debugHalt := h } with regs := [(0xC00, 0x40000), (0xC10, va)] }
theorem test_meets_DebugPort : cmdTile (port true 0) = 0 ∧ cmdCtx (port true 0) = 4 ∧ (ctxOf (port false 0) 0 4).debugHalt = false ∧
    (ctxOf (port false 0) 0 4).phase = .running ∧ mustAnswer (port false 0) 0 4 = false ∧
    mustAnswer (desk { deskCtx with acqRes := some 1 }) 0 4 = true ∧ (ctxOf (port true 0) 0 4).debugHalt = true ∧
    CReg.ofCode (16 - 16) = some .status ∧ CReg.ofCode (50 - 16) ≠ none ∧ cregBits .tilexy = (0, 0) ∧ cregBits .fpflags ≠ (0, 0) ∧
    cregRefuses .fpflags (port true 0).dbgDat = false ∧ 2 < wfld (0xC : Word) 2 2 ∧ physOf (ctxOf (port true 0) 0 4) 3 = some 3 ∧ physOf (ctxOf (port true 0) 0 4) 4 = none ∧
    rowInFlight (port true 0) 3 0 = false ∧ holdsSlot (tileOf (port true 0) 0) 4 1 = true ∧ holdsSlot (tileOf (port true 0) 0) 4 0 = false := by
  and_intros <;> decide +kernel
theorem test_meets_DebugPort_memory : (∀ w : Bool, portReach (port true 1) w = .error (some 2)) ∧
    (∀ w : Bool, portReach (port true 0x200000040) w = .ok { farVault with pa := farVault.pa + 64 }) ∧
    errAt (port true 0) (farVault.pa + 64) = none ∧ (tileOf (port true 0) 5).pairOf = none ∧ (farVault.pa + 64) % 64 = 0 := by
  and_intros <;> decide +kernel
theorem test_meets_HostAccess : let s : State := { bench with regs := [(0x200, 1)], priReqs := [7] }
    s.mgmt.link = true ∧ ({ bench with mgmt := { link := false } } : State).mgmt.link = false ∧ s.hostAccs = [] ∧
    hostHindered s 8 = none ∧ hostHindered (vaulted { hold := .hold }) 8 ≠ none ∧ s.invs = [] ∧
    32 ≤ ({ bench with invs := (List.range 32).map fun i => { page := i } } : State).invs.length ∧ s.mgmt.booting = none ∧ (resetAt 2 {}).mgmt.booting ≠ none ∧
    s.shoot = none ∧ wfld (0 : Word) 52 4 ≤ 3 ∧ ({ bench with shoot := some {} } : State).shoot = some {} ∧
    ({ accs := [] } : Shoot).accs.any (stillRuns s) = false ∧ ({ accs := [(0, 4, 9)] } : Shoot).accs.any (stillRuns (holding aLoad)) = true ∧
    s.mbAddr.toNat % 8 = 0 ∧ hostReaches s.mbAddr.toNat true = true ∧ ({ s with mbAddr := 1 } : State).mbAddr.toNat % 8 ≠ 0 ∧
    s.asOf = none ∧ bar2Pa s (8 / 8 * 8) = some 8 ∧ hostReaches 8 true = true ∧ hostReaches 8 false = true ∧ errAt s 8 = none ∧ (tileOf s (paTile 8)).pairOf = none ∧
    bar2Pa s 0x0FC00000 = some 0x0FC00000 ∧ hostReaches 0x0FC00000 true = false ∧ bar2Pa bench 0 = none ∧
    s.priReqs.contains 7 = true ∧ s.priReqs.contains 8 = false := by intro s; and_intros <;> decide +kernel
theorem test_meets_HostAccess_unreachable : bar2Pa { bench with regs := [(0x200, 0x100000000001)] } 0 = some (2 ^ 44) ∧ hostReaches (2 ^ 44) false = false := by
  and_intros <;> decide +kernel
theorem test_meets_HostAccess_snapshot : let s : State := { bench with time := 3300000, regs := [(0xD00, 0x800003E800000001)] }
    wbit (Sparse.get 0x000003E800000001 s.regs 0xD00) 63 = true ∧
    s.netLast + wfld (Sparse.get 0x000003E800000001 s.regs 0xD00) 32 16 * Config.cyclesPerMicro ≤ s.time + 3300 * 33000 ∧
    paRegion (wfld (Sparse.get 0 s.regs 0xD08) 12 36 * 2 ^ 12) = 0 := by decide +kernel
theorem test_meets_SidePort : State.reset.mgmt.fail = false ∧ (resetAt 2 { fail := true }).mgmt.fail = true ∧ State.reset.mgmt.session = false ∧
    hasJournal State.reset = true ∧ (tileOf State.reset 0).vault.hold = .active ∧ (tileOf (vaulted { hold := .hold }) 0).vault.hold ≠ .active ∧
    paTile (vaultPa 0 (0x0FFA2000 + 33280 * 2)) = 0 ∧
    hasJournal { State.reset with mgmt := { stage := 3, booting := some (true, []) } } = false ∧
    ({ State.reset with mgmt := { session := true } } : State).mgmt.session = true ∧ entryHeld State.reset 1 = false ∧
    entryHeld { State.reset with jnext := 2, mem := Memory.writeN (journalPa 1) 1 8 [] } 1 = true ∧ dumpAt State.reset 1 = none ∧
    dumpAt { State.reset with dumps := [(1, 0, 2)] } 1 = some (vaultPa 0 (0x0FFA2000 + 33280 * 2), 33280) ∧ acceptAll State.reset = State.reset := by
  and_intros <;> decide +kernel
theorem test_meets_WatchdogExpiryStopsQueues : let l : Launch := { serial := 1, record := List.replicate 88 0 ++ [1, 0, 0, 0], wdUs := 1 }
    let s : State := { State.reset with launches := [l] }
    runningLaunch s 0 = some l ∧ watchdogLimit l = 1 ∧ watchdogLimit l ≤ l.wdUs + (s.time - l.wdAt) / Config.cyclesPerMicro ∧ l.expired = false := by
  decide +kernel

/-! Encoding and the step. -/

theorem test_meets_EncodeRoundTrip : Instr.wf (.aadd 3 4 5 .d) = true ∧ encode (.aadd 3 4 5 .d) = some (0x9C345003 % 2 ^ 31) := by
  decide +kernel
theorem test_meets_DecodeIsUnambiguous : decodeWord 0x9C345003 = .ok (.aadd 3 4 5 .d) := by decide +kernel
theorem test_meets_DecodedWords : decodeWord (0xFF000000 : W32).toNat = .error .opcodeUndefined ∧
    decodeWord (0x80000001 : W32).toNat = .error .fieldReserved ∧ decodeWord (0x8240F600 : W32).toNat = .error .loopRotation := by
  decide +kernel
/-- The bench with the turn of the C-core, its context current and the words given as the image. -/
def turnOf (l : List Nat) : State :=
  { bench with agenda := [.issue 0 1], tiles := [(0, { deskTile deskCtx with cores := [(1, { cur := some 0, image := wordsImage 0 l, imageLen := 4 * l.length })] })] }
theorem test_meets_StepRunsDecoded : let s := turnOf [0x80000000]
    let z0 : State := { s with agenda := [], focusTile := 0, focusCtx := 4, grp := {} }
    let z := firmFetch 0 4 z0
    (ctxOf s 0 4).after = none ∧ straysHere 0 4 z0 = false ∧ (coreOf s 0 1).freeze = false ∧ (coreOf s 0 1).mode = false ∧ (coreOf s 0 1).cur = some (4 % 4) ∧ mayIssue s 0 4 = true ∧
    replayBoundary 0 4 z0 = none ∧ takePending 0 4 z0 = none ∧ (ctxOf s 0 4).n0 = false ∧
    fetchWord s 0 4 (ctxOf s 0 4).pc = some 0x80000000 ∧ decodeWord 0x80000000 = .ok .nop ∧ isPfx 0x80000000 = false ∧ Legal z .nop ∧ breakHits (ctxOf s 0 4) = 0 ∧
    staticCause z (.cpy 0 1 false false) = some (7, .coreRole) ∧ rejectCause 0xFF000000 = some (3, .opcodeUndefined) ∧ isEvent .deviceReset = true := by
  intro s z0 z; unfold Legal; and_intros <;> decide +kernel
theorem test_meets_StepRunsDecoded_pair : let s := turnOf [0x00000000, 0x40000580]
    let z := firmFetch 0 4 { s with agenda := [], focusTile := 0, focusCtx := 4, grp := {} }
    fetchWord s 0 4 4 = some 0x40000580 ∧ decodeWord 0x40000580 = .ok (.mov 0 0) ∧ isPfx 0 = false ∧ (ctxOf s 0 4).heldNames = none ∧ Legal z .nop ∧ Legal z (.mov 0 0) ∧ pairClash .nop (.mov 0 0) = false ∧
    seen (exec .nop { z with grp := { half := .first, snap := some (tileOf z 0), word := 0 } }) (fun u => u.grp.trap.isNone && !u.grp.blocked &&
      (seen (exec (.mov 0 0) { u with grp := { u.grp with half := .second } }) (fun v => v.grp.trap.isNone && !v.grp.blocked)).getD false) = some true := by
  intro s z; unfold Legal; and_intros <;> decide +kernel
theorem test_meets_MemOkKept : MemOk State.reset ∧ goesOn (step State.reset) = true := by unfold MemOk; and_intros <;> decide +kernel

/-! Worked values: words, conversions, hashes and small results that the manual states. -/

theorem test_words_of_table_3_7 : decodeWord 0x10348006 = .ok (.ld 3 4 .w 6) ∧ decodeWord 0x40556000 = .ok (.add 5 5 6) ∧
    decodeWord 0x854C3FFE = .ok (.bne .nt 3 0 16382) ∧ decodeWord 0xC2770001 = .ok (.addi 7 7 1) := by decide +kernel
theorem test_words_of_table_6_3 : decodeWord 0xD0456239 = .ok (.vadd 4 5 6 2 3 .f16) ∧ decodeWord 0x50456239 = .ok (.vadd 4 5 6 2 3 .f16) ∧
    decodeWord 0xE012800B = .ok (.vcvt 1 2 .fe8 0 0 .f32) ∧ decodeWord 0xE132005B = .ok (.vred 3 2 .add 5 .f32) ∧
    decodeWord 0xE3789114 = .ok (.vshuf 7 8 9 1 1 .n8) ∧ decodeWord 0xE6235042 = .ok (.vext 2 3 5 4 .i32) := by decide +kernel
/-- Table 2.8: the result and the flags of each worked conversion. -/
theorem test_conversions_of_table_2_8 :
    convertRow .f32 .fe8 0x3F800000 = (0x38, 0) ∧ convertRow .f32 .fe8 0x3DCCCCCD = (0x1D, fNX) ∧
    convertRow .f32 .fe8 0x43E80000 = (0x7E, fNX) ∧ convertRow .f32 .fe8 0x43FA0000 = (0x7F, fOF ||| fNX) ∧
    convertRow .f32 .fe8 0x3A800000 = (0, fUF ||| fNX) ∧ convertRow .f32 .fe8 0x3B400000 = (0x02, fUF ||| fNX) ∧
    convertRow .f32 .fe8 0x80000000 = (0, 0) ∧ convertRow .f32 .fe8 0x7F800000 = (0x7F, fOF) ∧
    convertRow .f32 .f16 0x477FF000 = (0x7C00, fOF ||| fNX) ∧ convertRow .f32 .bf16 0x3F808000 = (0x3F80, fNX) ∧
    convertRow .f32 .i8 0xC0200000 = (0xFE, fNX) ∧ convertRow .f32 .i8 0x43480000 = (0x7F, fIS) ∧
    convertRow .f32 .i32 0x7FC00000 = (0, fNV) := by decide +kernel
/-- Table 16.1: the hash of two keys. -/
theorem test_hash_of_table_16_1 : crc32c (natBytes 0x6867666564636261 8) = 0x0A9421B7 ∧ crc32c (natBytes 0x2967666564636261 8) = 0xB984BF08 := by
  decide +kernel
/-- R144: VRED.n8.add of 64 elements of 0xFF. -/
theorem test_reduction_of_r144 : reduceRow .add .n8 (BitVec.allOnes 512) = (16320, 0) := by decide +kernel
/-- R95: LI s4, 0x0123 and three LIH, each on what the one before left. -/
theorem test_constant_of_r95 :
    (exec (.li 4 0x0123) bench |> fun o => match o with
     | .next u => seen (exec (.lih 4 4 0x4567) u) (fun v => (ctxOf v 0 4).sregs |> Sparse.get ({} : Scalar) <| 4)
     | _ => none) = some { val := 0x01234567 } := by decide +kernel
/-- The scalar that one instruction on the bench leaves in s5. -/
def leaves (i : Instr) : Option Word := seen (exec i bench) fun u => (scalarIn (ctxOf u 0 4) 5).val
/-- Table 4.7: division by zero, and truncation toward zero of −7 ÷ 2. -/
theorem test_division_of_table_4_7 : leaves (.div 5 15 0) = some (-1) ∧ leaves (.rem 5 15 0) = some (-7) ∧
    leaves (.div 5 15 8) = some (-3) ∧ leaves (.rem 5 15 8) = some (-1) ∧ leaves (.mulh 5 15 8) = some (-1) := by decide +kernel
theorem test_scalar_corners : leaves (.add 5 15 5) = some 0 ∧ leaves (.sub 5 15 5) = some (-14) ∧ leaves (.shra 5 15 8) = some (-2) ∧
    leaves (.clz 5 8) = some 62 ∧ leaves (.ctz 5 0) = some 64 ∧ leaves (.slti 5 15 0xFFFA) = some 1 ∧
    leaves (.fclass 5 0 .f64) = some 16 ∧ leaves (.li 5 0xFFFF) = some (-1) := by decide +kernel
/-- R85, R86: a branch taken two words back from address 8. -/
theorem test_branch_target : seen (exec (.bz .none 0 16382) (desk { deskCtx with pc := 8, npc := 12, nnpc := 16 }))
    (fun u => ((ctxOf u 0 4).pc, (ctxOf u 0 4).npc, (ctxOf u 0 4).nnpc)) = some (12, 16, 0) := by decide +kernel
/-- R255, R351: TRAP 5, taken after its group, in a SUPER context whose handler stands at 0x40. -/
theorem test_trap_entry : seen (exec (.trap 5) (desk { deskCtx with pc := 4, npc := 8, nnpc := 12 })) (fun u =>
    ((ctxOf u 0 4).pc, (ctxOf u 0 4).epc, (ctxOf u 0 4).enpc, (ctxOf u 0 4).ennpc)) = some (0x40, 8, 12, 16) := by decide +kernel
/-- R149: a store reaches the scratchpad byte by byte, the least significant first, when it is performed. -/
theorem test_store_bytes : seen (exec (.storePerform 0 4 9) (holding { aStore with data := 0x0102, size := 2 }))
    (fun u => (u.mem.readN (2 ^ 40 + 0x40000) 1, u.mem.readN (2 ^ 40 + 0x40001) 1)) = some (2, 1) := by decide +kernel
/-- The digest that the examples of FIPS 202 give for the empty message. -/
theorem test_shake256 : shake256 [] =
    0xbec4b7b3ac2e294086b49a47491c82fcf692b5679d0105cb00f2c0d8ddc45dd72f76d56e64270cb5821bb862ea52cd3f24eb3e74eb3f3b23138da80b2bddb946 := by
  decide +kernel
end Sys2Proof.Tests
end

section
/-! SUPPORT and the settling theorems of the family on the scope of the model (O58, O59, O60). Every function of the
model that gives a state keeps the memory in its canonical form (`MemOk`), since it changes the memory only by a write,
a placed copy, a clearing or a filter: one lemma for each, named after the function and grouped by its file. Then the
same for every meaning (`Goes`), together with that it gives a next state. -/

namespace Sys2Proof.Machine

variable {s : State}

/-- A choice between two results that carry a state. -/
theorem memOk_snd_ite {α : Type} {c : Prop} [Decidable c] {a b : α × State} (ha : MemOk a.2) (hb : MemOk b.2) :
    MemOk (if c then a else b).2 := by
  split
  · exact ha
  · exact hb

/-- The state in a result that is given as a pair. -/
theorem memOk_of_snd {α : Type} {p : α × State} {a : α} {u : State} (e : p = (a, u)) (h : MemOk p.2) : MemOk u := by
  rwa [e] at h

/-- The state in a result that is given as a pair with the state first. -/
theorem memOk_of_fst {α : Type} {p : State × α} {u : State} {a : α} (e : p = (u, a)) (h : MemOk p.1) : MemOk u := by
  rwa [e] at h

/-- R57: however a meaning ends, the state that it ends in has a memory in canonical form. -/
def EffOk : Eff → Prop
  | .done u _ => MemOk u
  | .trap _ => True
  | .wait u _ => MemOk u

theorem effOk_ite {c : Prop} [Decidable c] {a b : Eff} (ha : EffOk a) (hb : EffOk b) :
    EffOk (if c then a else b) := by
  split
  · exact ha
  · exact hb

/-! The functions of Sys2Proof/Machine/Regs.lean. -/

theorem memOk_wrS {r : Fin 16} {v : Scalar} (hs : MemOk s) : MemOk (wrS r v s) := hs

theorem memOk_wrRow {p k : Nat} {v : Row} (hs : MemOk s) : MemOk (wrRow p k v s) := hs

theorem memOk_touchReg {p : Nat} (hs : MemOk s) : MemOk (touchReg p s) := hs

theorem memOk_raiseFp {f : Nat} (hs : MemOk s) : MemOk (raiseFp f s) := hs

theorem memOk_raiseMx {t c f : Nat} (hs : MemOk s) : MemOk (raiseMx t c f s) := hs

theorem memOk_takeSeq {t k : Nat} (hs : MemOk s) : MemOk (takeSeq t k s).2 := hs

theorem memOk_modPair {t c : Nat} {f : PairCk → PairCk} (hs : MemOk s) : MemOk (modPair t c f s) :=
  memOk_of_mem hs (modPair_mem _ _ _)

theorem memOk_landBoth {t c id : Nat} {f : Ctx → Ctx} (hs : MemOk s) : MemOk (landBoth t c id f s) :=
  memOk_of_mem hs (landBoth_mem _ _ _ _)

theorem memOk_noteSeq {n : W32} (hs : MemOk s) : MemOk (noteSeq n s) :=
  memOk_of_mem (memOk_modPair ((memOk_modCur _).2 hs)) rfl

theorem memOk_takeSeqCur (hs : MemOk s) : MemOk (takeSeqCur s).2 := memOk_noteSeq (memOk_takeSeq hs)

theorem memOk_freshId (hs : MemOk s) : MemOk (freshId s).2 := hs

theorem memOk_freshValue (hs : MemOk s) : MemOk (freshValue s).2 := hs

/-! The functions of Sys2Proof/Machine/Mem.lean. -/

theorem memOk_copyPoison {src dst n : Nat} (hs : MemOk s) : MemOk (copyPoison src dst n s) := by
  unfold copyPoison
  exact memOk_foldl _ (fun _ _ h => (memOk_setSegPoison _ _).2 h) _ hs

theorem memOk_fillTlb {via : Via} {t : Nat} {e : TlbEntry} (hs : MemOk s) : MemOk (fillTlb via t e s) := by
  unfold fillTlb
  split
  all_goals exact hs

/-- R341: the entry of a translation, if it gives one, goes to a translation buffer. -/
theorem memOk_fillEntry {o : Option TlbEntry} {via : Via} {t : Nat} (hs : MemOk s) :
    MemOk (match o with | some e => fillTlb via t e s | none => s) := by
  split
  · exact memOk_fillTlb hs
  · exact hs

theorem memOk_touchBank {t off len : Nat} {pol : Pol} (hs : MemOk s) : MemOk (touchBank t off len pol s) := hs

theorem memOk_requestPage {n : Nat} (hs : MemOk s) : MemOk (requestPage n s) := memOk_ite hs hs

/-! The functions of Sys2Proof/Machine/Order.lean. -/

theorem memOk_modSight {t c id : Nat} {f : Sight → Sight} (hs : MemOk s) : MemOk (modSight t c id f s) :=
  memOk_landBoth hs

theorem memOk_scSync {t c id : Nat} {sc : Scope} (hs : MemOk s) : MemOk (scSync t c id sc s) :=
  memOk_of_mem (memOk_modSight hs) rfl

theorem memOk_ctxRead {t c id : Nat} {v : Sight} {o : Ord} {sc : Scope} {pa n : Nat} (hs : MemOk s) :
    MemOk (ctxRead t c id v o sc pa n s).2 :=
  have h1 := memOk_ite hs (memOk_modSight hs)
  memOk_ite (memOk_scSync h1) h1

theorem memOk_ctxWrites {t c id : Nat} {v : Sight} {f : State → State} (hf : ∀ u, MemOk u → MemOk (f u))
    (hs : MemOk s) : MemOk (ctxWrites t c id v f s) :=
  memOk_tagged _ _ (hf _ hs)

theorem memOk_atomicWrite {pa n : Nat} {past : Known} {f : State → State} (hf : ∀ u, MemOk u → MemOk (f u))
    (hs : MemOk s) : MemOk (atomicWrite pa n past f s) :=
  memOk_tagged _ _ (hf _ hs)

theorem memOk_atomicReads {t c id : Nat} {o : Ord} {sc : Scope} {pa n : Nat} (hs : MemOk s) :
    MemOk (atomicReads t c id o sc pa n s) :=
  have h1 := memOk_ite hs (memOk_modSight hs)
  memOk_ite h1 (memOk_modSight h1)

theorem memOk_fenceSync {o : Ord} {sc : Scope} (hs : MemOk s) : MemOk (fenceSync o sc s) := by
  unfold fenceSync
  extract_lets _ _ s1 s2
  have h1 : MemOk s1 := memOk_ite hs hs
  have h2 : MemOk s2 := memOk_ite (memOk_scSync h1) h1
  exact memOk_ite h2 h2

theorem memOk_hostStored {a n v : Nat} {release : Bool} (hs : MemOk s) : MemOk (hostStored a n v release s) :=
  (memOk_hostKnows).2 (memOk_tagged _ _ (memOk_writeMem _ _ _ hs))

theorem memOk_hostLoaded {a : Nat} (hs : MemOk s) : MemOk (hostLoaded a s) := hs

/-! The functions of Sys2Proof/Machine/Errors.lean. -/

theorem memOk_relAdd {t reg lo n : Nat} (hs : MemOk s) : MemOk (relAdd t reg lo n s) := hs

theorem memOk_relAddN {t reg lo n k : Nat} (hs : MemOk s) : MemOk (relAddN t reg lo n k s) := hs

theorem memOk_toNominal {t : Nat} (hs : MemOk s) : MemOk (toNominal t s) := hs

theorem memOk_noteWindow {t a n : Nat} (hs : MemOk s) : MemOk (noteWindow t a n s) := hs

theorem memOk_countCorrected {t a n : Nat} (hs : MemOk s) : MemOk (countCorrected t a n s) :=
  memOk_noteWindow (memOk_relAddN hs)

theorem memOk_checkSegment {pa : Nat} (hs : MemOk s) : MemOk (checkSegment pa s) :=
  memOk_of_mem hs (checkSegment_mem _)

theorem memOk_checkRange {pa n : Nat} (hs : MemOk s) : MemOk (checkRange pa n s) := by
  unfold checkRange
  exact memOk_foldl _ (fun _ _ => memOk_checkSegment) _ hs

theorem memOk_homeRead {pa : Nat} (hs : MemOk s) : MemOk (homeRead pa s).2 := memOk_checkSegment hs

theorem memOk_noteRead {t c pa n : Nat} (hs : MemOk s) : MemOk (noteRead t c pa n s) := by
  unfold noteRead
  extract_lets
  split
  · exact memOk_ite ((memOk_notePrint _ _ _ _ _).2 (memOk_checkSegment hs)) ((memOk_notePrint _ _ _ _ _).2 hs)
  · exact hs

/-! The functions of Sys2Proof/Machine/Monitor.lean. -/

theorem memOk_countCoreAt {t k ev n c : Nat} {g : Site} {seq : W32} (hs : MemOk s) :
    MemOk (countCoreAt t k ev n c g seq s) := by
  unfold countCoreAt
  exact memOk_foldl _ (fun _ _ h => memOk_ite (memOk_pmcAdd _ _ _ _ _ _ _ h) h) _ hs

/-! The functions of Sys2Proof/Machine/Ops.lean. -/

theorem memOk_cancelCommands {t c : Nat} (hs : MemOk s) : MemOk (cancelCommands t c s) :=
  memOk_of_mem hs (cancelCommands_mem _ _)

theorem memOk_debugStop {t c reason : Nat} (hs : MemOk s) : MemOk (debugStop t c reason s) := hs

theorem memOk_setDhit {t c bit : Nat} (hs : MemOk s) : MemOk (setDhit t c bit s) := hs

theorem memOk_restoreSeq {t c : Nat} (hs : MemOk s) : MemOk (restoreSeq t c s) := hs

/-! The functions of Sys2Proof/Machine/Fetch.lean. -/

theorem effOk_static {i : Instr} {k : Eff} (hk : EffOk k) : EffOk (static s i k) := by
  unfold static
  split
  · trivial
  · exact hk

theorem memOk_deliverLogged {t c n w v : Nat} (hs : MemOk s) : MemOk (deliverLogged t c n w v s) :=
  memOk_enterCause _ _ _ _ hs

theorem memOk_takePending {t c : Nat} {u : State} (e : takePending t c s = some u) (hs : MemOk s) : MemOk u := by
  unfold takePending at e
  dsimp only at e
  split at e
  · cases e
  · split at e
    · cases e
      exact memOk_enterCause _ _ _ _ ((memOk_modCtx _ _ _).2 hs)
    · split at e
      · cases e
        exact memOk_enterCause _ _ _ _ ((memOk_modCtx _ _ _).2 hs)
      · cases e

theorem memOk_pendingCauseEntry {t c : Nat} (hs : MemOk s) : MemOk (pendingCauseEntry t c s) := by
  unfold pendingCauseEntry
  dsimp only
  split
  · cases e : takePending t c s with
    | none => exact hs
    | some u => exact memOk_takePending e hs
  · exact hs

theorem memOk_replayBoundary {t c : Nat} {u : State} (e : replayBoundary t c s = some u) (hs : MemOk s) :
    MemOk u := by
  unfold replayBoundary at e
  split at e
  · split at e
    · split at e
      · cases e
        exact memOk_ite (memOk_deliverLogged hs) (memOk_diverge _ _ hs)
      · cases e
    · cases e
  · cases e

theorem memOk_stopAtBreak {t c hits : Nat} (hs : MemOk s) : MemOk (stopAtBreak t c hits s) :=
  have h1 := memOk_ite (memOk_setDhit hs) hs
  have h2 := memOk_ite (memOk_setDhit h1) h1
  have h3 := memOk_takeBreakpoint _ _ _ _ h2
  memOk_ite ((memOk_modCtx _ _ _).2 h3) h3

/-! The functions of Sys2Proof/Machine/Operands.lean. -/

theorem effOk_ready {l : List (Fin 16)} {k : Eff} (hs : MemOk s) (hk : EffOk k) : EffOk (ready s l k) := by
  unfold ready
  split
  · exact hs
  · exact hk

theorem effOk_unpoisoned {l : List (Fin 16)} {k : Eff} (hk : EffOk k) : EffOk (unpoisoned s l k) :=
  effOk_ite trivial hk

theorem effOk_readyRows {reads writes : List (Nat × Nat)} {k : Eff} (hs : MemOk s) (hk : EffOk k) :
    EffOk (readyRows s reads writes k) := by
  unfold readyRows
  extract_lets
  split
  · exact hs
  · exact hk

theorem effOk_withName {f : Fin 16} {k : Nat → Eff} (hk : ∀ x, EffOk (k x)) : EffOk (withName s f k) := by
  unfold withName
  split
  · exact hk _
  · trivial

theorem effOk_released {k : State → Eff} (hs : MemOk s) (hk : ∀ u, MemOk u → EffOk (k u)) :
    EffOk (released s k) := by
  unfold released
  extract_lets
  split
  · exact hs
  · exact effOk_ite hs (hk _ hs)

theorem effOk_acquired {k : Eff} (hs : MemOk s) (hk : EffOk k) : EffOk (acquired s k) := by
  unfold acquired
  split
  · exact hs
  · exact hk

theorem effOk_ordered {o : Ord} {k : State → Eff} (hs : MemOk s) (hk : ∀ u, MemOk u → EffOk (k u)) :
    EffOk (ordered s o k) :=
  effOk_acquired hs (effOk_ite (effOk_released hs hk) (hk _ hs))

theorem effOk_vaultRead {va : Word} {off : Nat} {k : Eff} (hs : MemOk s) (hk : EffOk k) :
    EffOk (vaultRead s va off k) :=
  effOk_ite hs (effOk_ite (effOk_ite hs trivial) hk)

theorem effOk_hostReady {va : Word} {pa : Nat} {write : Bool} {k : Eff} (hs : MemOk s) (hk : EffOk k) :
    EffOk (hostReady s va pa write k) :=
  effOk_ite trivial (effOk_ite trivial (effOk_ite (memOk_requestPage hs) (effOk_ite trivial hk)))

theorem memOk_countVault {t c off : Nat} {g : Site} {seq : W32} (hs : MemOk s) :
    MemOk (countVault t c off g seq s) := by
  have h1 : MemOk (countAt t c 7 1 g.lvl g seq s) := memOk_countAt _ _ _ _ _ _ _ hs
  unfold countVault
  dsimp only
  split
  · exact memOk_countAt _ _ _ _ _ _ _ h1
  · exact h1

theorem memOk_useBank {t c off n : Nat} {pol : Pol} {g : Site} {seq : W32} (hs : MemOk s) :
    MemOk (useBank t c off n pol g seq s) :=
  memOk_touchBank (memOk_countVault hs)

theorem memOk_sendAcc {a : Acc} {r : Resolved} (hs : MemOk s) : MemOk (sendAcc a r s) := by
  unfold sendAcc
  extract_lets
  split
  next n s1 e =>
    have h1 : MemOk s1 := memOk_of_snd e (memOk_freshId hs)
    extract_lets _ s2 s3 s4 _ s5
    have h2 : MemOk s2 := memOk_fillEntry h1
    have h3 : MemOk s3 := memOk_sendAccess _ _ _ _ h2
    have h4 : MemOk s4 := memOk_ite (memOk_countEvent _ _ _ _ h3) (memOk_ite (memOk_countEvent _ _ _ _ h3) h3)
    have h5 : MemOk s5 := memOk_ite ((memOk_notePrint _ _ _ _ _).2 h4) h4
    exact h5

theorem effOk_doAccess {addrPoison : Bool} {a : Acc} (hs : MemOk s) : EffOk (doAccess s addrPoison a) := by
  unfold doAccess
  extract_lets
  split
  · trivial
  · split
    · trivial
    · exact effOk_ite trivial <| effOk_ite hs <| effOk_ite hs <| effOk_ite hs <|
        effOk_ite (effOk_hostReady hs (effOk_ordered hs fun _ => memOk_sendAcc)) <| effOk_ite hs <|
        effOk_ite (effOk_vaultRead hs (effOk_ordered hs fun _ => memOk_sendAcc)) <| effOk_ordered hs fun _ =>
        memOk_sendAcc

theorem effOk_doLoad {i : Instr} {d : Fin 16} {addrs : List (Fin 16)} {va : Word} {size : Nat} {sx : Bool}
    (hs : MemOk s) : EffOk (doLoad s i d addrs va size sx) :=
  effOk_static (effOk_ready hs (effOk_doAccess hs))

theorem effOk_doStore {i : Instr} {d : Fin 16} {addrs : List (Fin 16)} {va : Word} {size : Nat} (hs : MemOk s) :
    EffOk (doStore s i d addrs va size) :=
  effOk_static (effOk_ready hs (effOk_doAccess hs))

/-! The functions of Sys2Proof/Machine/Moves.lean. -/

theorem memOk_fillAll {via : Via} {t : Nat} {l : List Resolved} (hs : MemOk s) : MemOk (fillAll via t l s) := by
  unfold fillAll
  exact memOk_foldl _ (fun _ _ => memOk_fillEntry) _ hs

theorem memOk_addMove {q : MoveReq} {l : List Resolved} {scl : Option Nat} {ord : Ord} (hs : MemOk s) :
    MemOk (addMove q l scl ord s) := by
  unfold addMove
  extract_lets
  split
  next n s1 e =>
    have h1 : MemOk s1 := by
      refine memOk_of_snd e ?_
      split
      · exact hs
      · exact memOk_snd_ite hs (memOk_takeSeqCur hs)
    exact
      have h2 := memOk_freshId h1
      have h3 := memOk_fillAll h2
      have h4 := memOk_ite (memOk_monitor _ _ _ _ _ _ _ h3) h3
      (memOk_modTile _ _).2 (memOk_of_mem (memOk_ite (memOk_touchReg h4) h4) rfl)

theorem effOk_launchMove {v : View} {y : Ctx} {q : MoveReq} {k : State → Eff} (hs : MemOk s)
    (hk : ∀ u, MemOk u → EffOk (k u)) : EffOk (launchMove s v y q k) := by
  unfold launchMove
  extract_lets
  split
  · trivial
  · split
    · trivial
    · exact effOk_ite hs (effOk_ite hs (effOk_ite hs (effOk_ordered hs fun _ h => hk _ (memOk_addMove h))))

theorem effOk_doTileLoad {i : Instr} {x b : Fin 16} {q : Nat → MoveReq} (hs : MemOk s) :
    EffOk (doTileLoad s i x b q) :=
  effOk_static <| effOk_ready hs <| effOk_withName fun _ => effOk_readyRows hs <| effOk_unpoisoned <|
    effOk_launchMove hs fun _ h => h

theorem effOk_doXst {x b : Fin 16} {p : Fin 8} {d : Fin 4096} (hs : MemOk s) : EffOk (doXst x b p d s) :=
  effOk_static <| effOk_ready hs <| effOk_withName fun _ => effOk_readyRows hs <| effOk_unpoisoned <|
    effOk_launchMove hs fun _ h => h

theorem effOk_fillReady {j : Nat} {k : Eff} (hs : MemOk s) (hk : EffOk k) : EffOk (fillReady s j k) :=
  effOk_ite hs hk

theorem effOk_doWld {j : Fin 4} {b : Fin 16} {c : Bool} {p : Fin 8} {d : Fin 4096} (hs : MemOk s) :
    EffOk (doWld j b c p d s) :=
  effOk_static <| effOk_ready hs <| effOk_ite trivial <| effOk_fillReady hs <| effOk_unpoisoned <|
    effOk_launchMove hs fun _ h => h

theorem effOk_resumeMove {v : View} {y : Ctx} {mw : Nat} {ev : Word} {n : W32} {k : State → Eff} (hs : MemOk s)
    (hk : ∀ u, MemOk u → EffOk (k u)) : EffOk (resumeMove s v y mw ev n k) := by
  unfold resumeMove
  dsimp only
  split
  · split
    · exact effOk_launchMove hs hk
    · trivial
  · split
    · exact effOk_launchMove hs hk
    · trivial
  · split
    · exact effOk_launchMove hs hk
    · trivial
  · exact effOk_ite (effOk_launchMove hs hk) trivial
  · trivial

theorem memOk_pushRecord {t : Nat} {m : Move} (hs : MemOk s) : MemOk (pushRecord t m s).2 := by
  unfold pushRecord
  split
  · exact hs
  · exact memOk_ctxRead (memOk_noteRead (memOk_checkSegment (memOk_ite (memOk_useBank hs) hs)))

theorem memOk_watchMove {t : Nat} {m : Move} {upto : Nat} (hs : MemOk s) : MemOk (watchMove t m upto s) := hs

theorem memOk_finishMove {t : Nat} {m : Move} (hs : MemOk s) : MemOk (finishMove t m s) :=
  have h1 := memOk_pushRecord (memOk_watchMove hs)
  have h2 := (memOk_modTile _ _).2 h1
  have h3 := (memOk_modTile _ _).2 h2
  memOk_ite ((memOk_modCtx _ _ _).2 h3) h3

theorem memOk_moveRead {t : Nat} {m : Move} {pa : Nat} (hs : MemOk s) : MemOk (moveRead t m pa s).2 :=
  memOk_ctxRead (memOk_noteRead (memOk_checkSegment hs))

theorem memOk_landSegment {t : Nat} {m : Move} (hs : MemOk s) : MemOk (landSegment t m s) := by
  unfold landSegment
  extract_lets _ _ s1 _ s7 s8
  have h1 : MemOk s1 := memOk_ite (memOk_useBank hs) hs
  have h7 : MemOk s7 := by
    unfold s7
    split
    · exact memOk_ctxWrites (fun _ h => memOk_ctxStore _ _ _ _ _ _ h) h1
    · exact (memOk_modTile _ _).2 (memOk_moveRead h1)
    · exact (memOk_modTile _ _).2 (memOk_moveRead h1)
    · exact
        have h5 := memOk_moveRead h1
        have h6 := (memOk_modTile _ _).2 h5
        memOk_ite ((memOk_modTile _ _).2 h6) h6
  have h8 : MemOk s8 := memOk_ite (memOk_scSync h7) h7
  exact memOk_ite (memOk_finishMove h8) h8

theorem memOk_stopMove {t : Nat} {m : Move} {cause : Cause} (hs : MemOk s) : MemOk (stopMove t m cause s) :=
  (memOk_modCtx _ _ _).2 (memOk_watchMove hs)

theorem memOk_tileSegmentLand {t k : Nat} (hs : MemOk s) : MemOk (tileSegmentLand t k s) := by
  unfold tileSegmentLand
  extract_lets
  split
  · exact hs
  · split
    · exact hs
    · split
      · exact memOk_ite hs (memOk_landSegment hs)
      · exact memOk_ite (memOk_ite hs hs) (memOk_ite (memOk_stopMove (memOk_beginRepair _ _ hs)) hs)

/-! The functions of Sys2Proof/Machine/System.lean. -/

theorem effOk_loadsPerformed {k : State → Eff} (hs : MemOk s) (hk : ∀ u, MemOk u → EffOk (k u)) :
    EffOk (loadsPerformed s k) := by
  unfold loadsPerformed
  extract_lets
  split
  · exact hs
  · exact effOk_ite hs (hk _ hs)

theorem memOk_putSched {t c : Nat} {ring : Bool} (hs : MemOk s) : MemOk (putSched t c ring s) := hs

theorem memOk_putCreg {t c : Nat} {r : CReg} {v : Word} (hs : MemOk s) : MemOk (putCreg t c r v s) := by
  unfold putCreg
  split
  · exact memOk_putSched hs
  · exact hs

theorem effOk_logged {kind code : Nat} {now : Word → State → Eff} {value : Word} {reach : Word → Option Wait}
    {take : Word → State → Eff} (hs : MemOk s) (hnow : ∀ x u, MemOk u → EffOk (now x u))
    (htake : ∀ x u, MemOk u → EffOk (take x u)) : EffOk (logged s kind code now value reach take) := by
  unfold logged
  extract_lets
  split
  · split
    · split
      · split
        · exact hs
        · exact htake _ _ hs
      · trivial
    · trivial
  · exact hnow _ _ (memOk_logPut _ _ _ _ _ _ hs)

theorem memOk_resumeLoop {t c : Nat} {e : Word} {epc : Nat} (hs : MemOk s) : MemOk (resumeLoop s t c e epc) := hs

theorem memOk_eretState (hs : MemOk s) : MemOk (eretState s) :=
  memOk_resumeLoop ((memOk_modCtx _ _ _).2 (memOk_restoreSeq hs))

theorem effOk_doEret (hs : MemOk s) : EffOk (doEret s) := by
  unfold doEret
  refine effOk_static ?_
  have hr := memOk_eretState hs
  dsimp only
  split
  · split
    · trivial
    · split
      · exact memOk_of_mem hs rfl
      · exact effOk_resumeMove hr fun _ h => h
  · exact hr

theorem effOk_publishWord {va : Word} {v : Scalar} (hs : MemOk s) : EffOk (publishWord s va v) := by
  unfold publishWord
  split
  · trivial
  · exact effOk_ite hs (effOk_hostReady hs (effOk_released hs fun _ => memOk_sendAcc))

theorem effOk_doNop (hs : MemOk s) : EffOk (doNop s) := hs

theorem effOk_doHalt (hs : MemOk s) : EffOk (doHalt s) := by
  unfold doHalt
  split
  · exact hs
  · exact effOk_ite hs hs

theorem effOk_doTrap {n : Fin 64} (hs : MemOk s) : EffOk (doTrap n s) := hs

theorem effOk_doBrk {n : Fin 64} : EffOk (doBrk n s) := trivial

theorem effOk_doYield (hs : MemOk s) : EffOk (doYield s) := effOk_ite hs hs

theorem effOk_doFence {c : Scope} {o : FOrd} (hs : MemOk s) : EffOk (doFence c o s) := by
  unfold doFence
  dsimp only
  split
  · exact hs
  · exact hs
  · exact effOk_loadsPerformed hs fun _ => memOk_fenceSync
  all_goals exact effOk_released hs fun _ => memOk_fenceSync

theorem effOk_doPublish {a b : Fin 16} (hs : MemOk s) : EffOk (doPublish a b s) :=
  effOk_ready hs (effOk_unpoisoned (effOk_publishWord hs))

theorem effOk_doTlbinv {a : Fin 16} {g : Bool} (hs : MemOk s) : EffOk (doTlbinv a g s) :=
  effOk_static (effOk_ready hs (effOk_unpoisoned (effOk_ite hs hs)))

theorem effOk_doMfc {d : Fin 16} {r : CReg} (hs : MemOk s) : EffOk (doMfc d r s) :=
  effOk_static <| effOk_ready hs <| effOk_ite (effOk_logged hs (fun _ _ => memOk_wrS) fun _ _ => memOk_wrS) <|
    memOk_wrS hs

theorem effOk_doMtc {a : Fin 16} {r : CReg} (hs : MemOk s) : EffOk (doMtc a r s) :=
  effOk_static (effOk_ready hs (effOk_unpoisoned (effOk_ite trivial (effOk_ite trivial (memOk_putCreg hs)))))

theorem effOk_doPfx {o : Ord} {c : Scope} {p : Spc} {q : Pol} (hs : MemOk s) : EffOk (doPfx o c p q s) := hs

theorem effOk_doWait {a b c d : Fin 64} (hs : MemOk s) : EffOk (doWait a b c d s) := effOk_ite hs (effOk_ite hs hs)

theorem effOk_doReservedPattern {w : W32} (hs : MemOk s) : EffOk (doReservedPattern w s) := by
  unfold doReservedPattern
  split
  · trivial
  · exact hs

/-! The functions of Sys2Proof/Machine/Futures.lean. -/

theorem memOk_writeFutImage {b h : Nat} {f : Fut} (hs : MemOk s) : MemOk (writeFutImage b h f s) :=
  have h1 := memOk_vaultStore _ _ _ hs
  have h2 := memOk_vaultStore _ _ _ h1
  memOk_foldl _ (fun _ _ h => memOk_vaultStore _ _ _ h) _ h2

theorem memOk_modKept {n t : Nat} {f : Tile → Tile} (hs : MemOk s) : MemOk (modKept n t f s) := hs

theorem memOk_endFuture {v : View} {k : Nat} {seq : W32} {f : Fut} (hs : MemOk s) :
    MemOk (endFuture v k seq f s) := by
  unfold endFuture
  extract_lets
  split
  · exact memOk_monitor _ _ _ _ _ _ _ (memOk_modPair hs)
  · split
    · exact memOk_modKept (memOk_writeFutImage hs)
    · exact hs

theorem memOk_pendImage {n t c b : Nat} {p : Pending} (hs : MemOk s) : MemOk (pendImage n t c b p s) := by
  unfold pendImage
  split
  · exact memOk_vaultStore _ _ _ hs
  · exact hs

theorem memOk_pendTrap {v : View} {cause : Cause} {seq : W32} {eval : Word} (hs : MemOk s) :
    MemOk (pendTrap v cause seq eval s) := by
  unfold pendTrap
  extract_lets
  split
  · exact memOk_pendImage hs
  · exact memOk_ite (memOk_modPair hs) hs

theorem memOk_putFut {h : Fin 8} {f : Fut} (hs : MemOk s) : MemOk (putFut h f s) := hs

theorem effOk_terminal {h : Fin 8} {k : Fut → State → Eff} (hs : MemOk s) (hk : ∀ x u, MemOk u → EffOk (k x u)) :
    EffOk (terminal s h k) := by
  unfold terminal
  split
  · trivial
  · exact hs
  · exact hk _ _ hs

theorem memOk_release {r : Bool} {h : Fin 8} (hs : MemOk s) : MemOk (release r h s) :=
  memOk_ite (memOk_putFut hs) hs

theorem effOk_doFwait {h : Fin 8} {r : Bool} (hs : MemOk s) : EffOk (doFwait h r s) :=
  effOk_terminal hs fun _ _ => memOk_release

theorem effOk_doFget {h : Fin 8} {d : Fin 16} {w : Fin 6} {r : Bool} (hs : MemOk s) : EffOk (doFget h d w r s) :=
  effOk_ready hs (effOk_terminal hs fun _ _ h => effOk_ite trivial (memOk_release (memOk_wrS h)))

theorem effOk_doFtest {h : Fin 8} {d : Fin 16} (hs : MemOk s) : EffOk (doFtest h d s) :=
  effOk_ready hs (effOk_ite trivial (effOk_logged hs (fun _ _ => memOk_wrS) fun _ _ => memOk_wrS))

theorem effOk_doFcancel {h : Fin 8} (hs : MemOk s) : EffOk (doFcancel h s) := by
  unfold doFcancel
  extract_lets
  split
  · trivial
  · exact hs
  · exact memOk_of_mem (memOk_freshId hs) rfl

theorem effOk_doFxfer {h : Fin 8} {a : Fin 16} {g : Fin 8} (hs : MemOk s) : EffOk (doFxfer h a g s) :=
  effOk_ready hs <| effOk_ite trivial <| effOk_unpoisoned <| effOk_ite trivial <| (memOk_modCtx _ _ _).2 <|
    memOk_putFut hs

/-! The functions of Sys2Proof/Machine/Landing.lean. -/

theorem memOk_reportRow {t row : Nat} (hs : MemOk s) : MemOk (reportRow t row s) :=
  memOk_ite hs (memOk_beginRepair _ _ hs)

theorem memOk_putArr {v : View} {t i : Nat} {k : ArrSet} (hs : MemOk s) : MemOk (putArr v t i k s) := by
  unfold putArr
  split
  · exact hs
  · exact memOk_modKept (memOk_vaultStore _ _ _ (memOk_vaultStore _ _ _ hs))

theorem effOk_freeHandle {h : Option (Fin 8)} {k : Eff} (hk : EffOk k) : EffOk (freeHandle s h k) := by
  unfold freeHandle
  split
  · exact hk
  · exact effOk_ite trivial hk

theorem effOk_withBlock {h : Option (Fin 8)} {a : Fin 16} {n : Nat} {k : State → List Resolved → Nat → Eff}
    (hs : MemOk s) (hk : ∀ u x y, MemOk u → EffOk (k u x y)) : EffOk (withBlock s h a n k) := by
  unfold withBlock
  refine effOk_ready hs (effOk_freeHandle (effOk_unpoisoned ?_))
  split
  · trivial
  · exact effOk_released hs fun _ h => effOk_ite trivial (hk _ _ _ ((memOk_notePrint _ _ _ _ _).2 h))

theorem memOk_takeCommand {h : Option (Fin 8)} {major : Nat} {l : List Resolved} (hs : MemOk s) :
    MemOk (takeCommand h major l s).2.2 := by
  unfold takeCommand
  split
  next n s1 e =>
    have h1 : MemOk s1 := memOk_of_snd e (memOk_takeSeqCur hs)
    split
    next id s2 e =>
      have h2 : MemOk s2 := memOk_of_snd e (memOk_freshId h1)
      extract_lets s3 s4
      have h3 : MemOk s3 := memOk_countEvent _ _ _ _ (memOk_monitor _ _ _ _ _ _ _ h2)
      have h4 : MemOk s4 := by
        unfold s4
        split
        · exact memOk_putFut h3
        · exact h3
      exact memOk_fillAll h4

/-! The functions of Sys2Proof/Machine/Copy.lean. -/

theorem effOk_doCpy {h : Fin 8} {a : Fin 16} {n t : Bool} (hs : MemOk s) : EffOk (doCpy h a n t s) := by
  unfold doCpy
  extract_lets
  refine effOk_static (effOk_withBlock hs fun _ _ _ h1 => ?_)
  extract_lets
  split
  · trivial
  · split
    · trivial
    · split
      · exact effOk_ite trivial trivial
      · split
        · exact h1
        · split
          next id q s2 e =>
            have h2 : MemOk s2 := memOk_of_snd (congrArg Prod.snd e) (memOk_takeCommand h1)
            exact h2

theorem effOk_doCpys {i : Fin 65536} (hs : MemOk s) : EffOk (doCpys i s) :=
  effOk_static <| effOk_ite hs <| effOk_ite hs <|
    effOk_ite (effOk_released hs fun _ h => effOk_ite h ((memOk_modCur _).2 (memOk_ite h h))) <| effOk_ite hs <|
    effOk_ite trivial <| effOk_released hs fun _ h => h

theorem memOk_scheduleEntryRelease {t : Nat} (hs : MemOk s) : MemOk (scheduleEntryRelease t s) := by
  unfold scheduleEntryRelease
  extract_lets
  split
  · exact hs
  · split
    · exact hs
    · split
      next n s1 e =>
        have h1 : MemOk s1 := memOk_of_snd e (memOk_takeSeq hs)
        split
        next id s2 e =>
          have h2 : MemOk s2 := memOk_of_snd e (memOk_freshId h1)
          extract_lets _ s3
          have h3 : MemOk s3 := memOk_countEvent _ _ _ _ (memOk_monitor _ _ _ _ _ _ _ h2)
          split
          extract_lets s4
          have h4 : MemOk s4 := by
            unfold s4
            split
            · split
              · exact memOk_fillTlb h3
              · exact h3
            · exact h3
          exact h4

theorem memOk_modCopy {t k : Nat} {f : Copy → Copy} (hs : MemOk s) : MemOk (modCopy t k f s) := hs

theorem memOk_faultCopy {t k : Nat} {c : Cause} {va : Nat} (hs : MemOk s) : MemOk (faultCopy t k c va s) :=
  memOk_modCopy hs

theorem memOk_stallCopy {t : Nat} {q : Copy} {b : Option Nat} {put : Option Nat → Copy → Copy} {limit : Nat}
    {c : Cause} {va : Nat} (hs : MemOk s) : MemOk (stallCopy t q b put limit c va s) := by
  unfold stallCopy
  split
  · exact memOk_modCopy hs
  · exact memOk_ite (memOk_faultCopy hs) hs

theorem memOk_hinderCopy {t : Nat} {q : Copy} {h : Hindrance} {va : Nat} (hs : MemOk s) :
    MemOk (hinderCopy t q h va s) := by
  unfold hinderCopy
  split
  · exact memOk_faultCopy hs
  · exact memOk_stallCopy hs
  · exact memOk_stallCopy hs
  · exact memOk_ite (memOk_faultCopy hs) (memOk_modCopy (memOk_requestPage hs))
  · exact memOk_reportRow hs
  · exact hs

theorem memOk_sendEnd {v : View} {r : Resolved} {va n : Nat} (hs : MemOk s) : MemOk (sendEnd v r va n s) := by
  unfold sendEnd
  extract_lets s1 s2
  have h1 : MemOk s1 := memOk_fillEntry hs
  have h2 : MemOk s2 := memOk_ite (memOk_touchBank h1) h1
  exact memOk_sendAccess _ _ _ _ h2

theorem memOk_markElems {q : Copy} {l : List Nat} (hs : MemOk s) : MemOk (markElems q l s) :=
  memOk_ite hs (memOk_putArr hs)

theorem memOk_freshUnits {n : Nat} {l : List Nat} (hs : MemOk s) : MemOk (freshUnits n l s).2 := by
  induction l generalizing s with
  | nil => exact hs
  | cons _ l ih => exact ih (memOk_freshValue hs)

theorem memOk_readElems {q : Copy} {l : List Nat} {va : Nat} {r : Resolved} (hs : MemOk s) :
    MemOk (readElems q l va r s).2 :=
  have h1 := memOk_sendEnd (memOk_ite (memOk_checkSegment hs) hs)
  memOk_snd_ite (memOk_freshUnits h1) h1

theorem memOk_elemsDone {t : Nat} {q : Copy} {l : List Nat} (hs : MemOk s) : MemOk (elemsDone t q l s) :=
  memOk_markElems (memOk_modCopy hs)

theorem memOk_landElems {t : Nat} {q : Copy} {l : List Nat} {units : List (Nat × Bool)} {va : Nat} {r : Resolved}
    (hs : MemOk s) : MemOk (landElems t q l units va r s) :=
  have h1 := memOk_sendEnd hs
  memOk_ite (memOk_faultCopy hs) (memOk_elemsDone (memOk_ite h1 (memOk_tagged _ _ (memOk_landUnits _ h1))))

theorem memOk_askAgent {t : Nat} {q : Copy} {u : Nat} {l : List Nat} {write : Bool} {units : List (Nat × Bool)}
    (hs : MemOk s) : MemOk (askAgent t q u l write units s) :=
  memOk_modCopy (memOk_of_mem (memOk_freshId hs) rfl)

theorem memOk_writeElems {t : Nat} {q : Copy} {l : List Nat} {units : State → List (Nat × Bool) × State}
    (hunits : ∀ u, MemOk u → MemOk (units u).2) (hs : MemOk s) : MemOk (writeElems t q l units s) := by
  unfold writeElems
  extract_lets
  split
  · exact memOk_hinderCopy hs
  · exact memOk_askAgent (hunits _ hs)
  · exact memOk_landElems (hunits _ hs)

theorem memOk_copyAccess {t k : Nat} {elems : List Nat} (hs : MemOk s) : MemOk (copyAccess t k elems s) := by
  unfold copyAccess
  split
  · exact hs
  · refine memOk_ite hs ?_
    split
    · exact memOk_writeElems (fun _ h => h) hs
    · split
      · exact hs
      · dsimp only
        split
        · split
          · exact memOk_hinderCopy hs
          · exact memOk_askAgent hs
          · exact memOk_writeElems (fun _ => memOk_readElems) hs
        · exact memOk_writeElems (fun _ h => h) hs

theorem memOk_deliverCopy {q : Copy} (hs : MemOk s) : MemOk (deliverCopy q s) :=
  have h1 := memOk_endFuture hs
  memOk_ite (memOk_ite (memOk_pendTrap h1) ((memOk_modLaunch _ _).2 h1)) (memOk_ite (memOk_pendTrap h1) h1)

theorem memOk_copyComplete {t k : Nat} (hs : MemOk s) : MemOk (copyComplete t k s) := by
  unfold copyComplete
  split
  · exact hs
  · exact memOk_ite hs <| memOk_ite ((memOk_modTile _ _).2 (memOk_endFuture hs)) <|
      memOk_ite (memOk_ite hs ((memOk_modTile _ _).2 (memOk_deliverCopy hs))) <|
      memOk_ite ((memOk_modTile _ _).2 (memOk_endFuture hs)) hs

/-! The functions of Sys2Proof/Machine/Agents.lean. -/

theorem effOk_sendCommand {h : Option (Fin 8)} {major dest : Nat} {q : AReq} {l : List Resolved} (hs : MemOk s) :
    EffOk (sendCommand s h major dest q l) :=
  effOk_ite hs (memOk_of_mem (memOk_takeCommand hs) rfl)

theorem effOk_areas {l : List (Option Trap)} {k : Eff} (hk : EffOk k) : EffOk (areas l k) := by
  unfold areas
  split
  · trivial
  · exact hk

theorem effOk_doRpc {proc : Nat} {i : Instr} {h : Fin 8} {a : Fin 16} {n t : Bool} (hs : MemOk s) :
    EffOk (doRpc proc i h a n t s) := by
  unfold doRpc
  extract_lets
  refine effOk_static (effOk_withBlock hs fun _ _ _ h1 => ?_)
  split
  · trivial
  · extract_lets
    refine effOk_areas ?_
    split
    · trivial
    · exact effOk_sendCommand h1

theorem effOk_walkTrap {off : Nat} : EffOk (walkTrap off) := trivial

theorem effOk_withWalk {i : Instr} {h : Fin 8} {a : Fin 16} {k : State → List Resolved → Nat → Eff} (hs : MemOk s)
    (hk : ∀ u x y, MemOk u → EffOk (k u x y)) : EffOk (withWalk s i h a k) := by
  unfold withWalk
  refine effOk_static (effOk_withBlock hs fun _ _ _ h1 => ?_)
  split
  · exact effOk_walkTrap
  · exact effOk_areas (hk _ _ _ h1)

theorem effOk_doTrav {h : Fin 8} {a : Fin 16} {t : Bool} (hs : MemOk s) : EffOk (doTrav h a t s) :=
  effOk_withWalk hs fun _ _ _ => effOk_sendCommand

theorem effOk_doTravRes {h : Fin 8} {a : Fin 16} {t : Bool} (hs : MemOk s) : EffOk (doTravRes h a t s) := by
  unfold doTravRes
  refine effOk_withWalk hs fun _ _ _ h1 => ?_
  extract_lets
  split
  · trivial
  · exact effOk_ite trivial (effOk_ite effOk_walkTrap (effOk_sendCommand h1))

theorem effOk_doGpool {h : Fin 8} {a : Fin 16} {t : Bool} (hs : MemOk s) : EffOk (doGpool h a t s) := by
  unfold doGpool
  refine effOk_static (effOk_withBlock hs fun _ _ _ h1 => ?_)
  split
  · trivial
  · extract_lets
    refine effOk_areas ?_
    split
    · trivial
    · exact effOk_sendCommand h1

theorem effOk_doAttn {h : Fin 8} {a : Fin 16} {t : Bool} (hs : MemOk s) : EffOk (doAttn h a t s) := by
  unfold doAttn
  refine effOk_static (effOk_withBlock hs fun _ _ _ h1 => ?_)
  split
  · trivial
  · extract_lets
    refine effOk_areas ?_
    split
    · trivial
    · exact effOk_sendCommand h1

theorem memOk_arriveRequest {k : Nat} (hs : MemOk s) : MemOk (arriveRequest k s) := by
  unfold arriveRequest
  split
  · exact hs
  · exact memOk_ite hs hs

theorem memOk_sendReply {u : Nat} {r : Reply} (hs : MemOk s) : MemOk (sendReply u r s) :=
  memOk_of_mem (memOk_freshId hs) rfl

theorem memOk_writePieces {l : List (Nat × Nat × Nat)} {v : Nat} {poison : Bool} (hs : MemOk s) :
    MemOk (writePieces l v poison s) := by
  unfold writePieces
  exact memOk_foldl _ (fun _ _ h => memOk_landUnits _ h) _ hs

theorem memOk_markBoxes {q : AReq} {c : CopyDesc} {read : Bool} (hs : MemOk s) : MemOk (markBoxes q c read s) :=
  have h1 := memOk_ite (memOk_putArr hs) hs
  memOk_ite (memOk_putArr h1) h1

theorem memOk_freshBytes {n : Nat} (hs : MemOk s) : MemOk (freshBytes n s).2 := by
  induction n generalizing s with
  | zero => exact hs
  | succ n ih => exact ih (memOk_freshValue hs)

theorem memOk_peerBox {q : AReq} {read : Bool} {n : Nat} {u : State} (hs : MemOk s)
    (e : peerBox q read s = .ok (n, u)) : MemOk u := by
  unfold peerBox at e
  dsimp only at e
  split at e
  · cases e
  · split at e
    · cases e
    · split at e
      · cases e
      · split at e
        · cases e
        · split at e
          · cases e
          · split at e
            · cases e; exact hs
            · cases e
              refine memOk_markBoxes (memOk_foldl _ (fun _ _ h => ?_) _ hs)
              exact memOk_tagged _ _ (memOk_landUnits _ (memOk_freshValue h))

theorem memOk_peerAnswer {k : Nat} (hs : MemOk s) : MemOk (peerAnswer k s) := by
  unfold peerAnswer
  split
  · exact hs
  · refine memOk_ite hs ?_
    dsimp only
    have h1 : ∀ r, MemOk (freshValue { s with agentReqs := r }).2 := fun _ => memOk_freshValue hs
    refine memOk_ite (memOk_sendReply (h1 _)) ?_
    split
    · split
      · exact memOk_sendReply (h1 _)
      next n u e => exact memOk_sendReply (memOk_peerBox (h1 _) e)
    · exact memOk_sendReply (memOk_freshBytes (h1 _))

theorem memOk_arrive {k : Nat} (hs : MemOk s) : MemOk (arrive k s) := memOk_peerAnswer (memOk_arriveRequest hs)

theorem memOk_replyArrival {k : Nat} (hs : MemOk s) : MemOk (replyArrival k s) := by
  unfold replyArrival
  split
  · exact hs
  · refine memOk_ite hs ?_
    extract_lets s0 _ f finish gone
    have h0 : MemOk s0 := hs
    have hfinish : ∀ f c u, MemOk u → MemOk (finish f c u) := fun f c u hu =>
      have h1 := memOk_endFuture hu
      memOk_ite (memOk_pendTrap h1) h1
    have hgone : ∀ c va, MemOk (gone c va) := fun _ _ => hfinish _ _ _ h0
    refine memOk_ite (hfinish _ _ _ h0) (memOk_ite (hfinish _ _ _ h0) ?_)
    split
    · exact hgone _ _
    · exact memOk_ite (hgone _ _) hs
    · extract_lets s1 s2
      have h1 : MemOk s1 := memOk_tagged _ _ (memOk_writePieces h0)
      have h2 : MemOk s2 := by
        unfold s2
        split
        · exact memOk_putArr h1
        · exact h1
      exact hfinish _ _ _ h2

/-! The functions of Sys2Proof/Machine/Service.lean. -/

theorem memOk_agentFill {v : View} {u va : Nat} {write : Bool} (hs : MemOk s) :
    MemOk (agentFill v u va write s) := by
  unfold agentFill
  split
  · split
    · exact memOk_fillTlb hs
    · exact hs
  · exact hs

theorem memOk_checkPieces {l : List (Nat × Nat × Nat)} (hs : MemOk s) : MemOk (checkPieces l s) := by
  unfold checkPieces
  exact memOk_foldl _ (fun _ _ => memOk_checkSegment) _ hs

theorem memOk_openPieces {u : Nat} {l : List (Nat × Nat × Nat)} (hs : MemOk s) : MemOk (openPieces u l s) := by
  unfold openPieces
  exact memOk_foldl _ (fun _ _ => memOk_touchBank) _ hs

theorem memOk_servedBy {u : Nat} {q : AReq} (hs : MemOk s) : MemOk (servedBy u q s) :=
  (memOk_modTile _ _).2 (memOk_countCore _ _ _ _ (memOk_countCore _ _ _ _ (memOk_logPut _ _ _ _ _ _ hs)))

theorem memOk_modReq {u k : Nat} {f : AReq → AReq} (hs : MemOk s) : MemOk (modReq u k f s) := hs

theorem memOk_faultRpc {u : Nat} {q : AReq} {c : Cause} {va : Nat} (hs : MemOk s) : MemOk (faultRpc u q c va s) :=
  memOk_servedBy (memOk_sendReply hs)

theorem memOk_failReq {u : Nat} {q : AReq} {c : Cause} {va : Nat} (hs : MemOk s) : MemOk (failReq u q c va s) := by
  unfold failReq
  split
  · exact memOk_servedBy (memOk_faultCopy hs)
  all_goals exact memOk_faultRpc hs

theorem memOk_hinderRpc {u : Nat} {q : AReq} {h : Hindrance} {va : Nat} (hs : MemOk s) :
    MemOk (hinderRpc u q h va s) := by
  unfold hinderRpc
  split
  · exact memOk_failReq hs
  · exact memOk_modReq hs
  · split
    · exact memOk_modReq hs
    · exact memOk_ite (memOk_failReq hs) hs
  · exact memOk_reportRow (memOk_modReq hs)
  · exact hs
  · exact hs

theorem memOk_modifyPart {u : Nat} {q : AReq} {p off : Nat} {x : Landed} {r : Reply} (hs : MemOk s) :
    MemOk (modifyPart u q p off x r s).1 :=
  memOk_atomicWrite (fun _ h => memOk_tagged _ _ (memOk_landUnits _ h)) (memOk_checkSegment hs)

theorem memOk_landPart {u : Nat} {q : AReq} {k : Nat} {r : Reply} (hs : MemOk s) :
    MemOk (landPart u q k r s).1 := by
  unfold landPart
  dsimp only
  split
  · split
    · exact memOk_modifyPart hs
    · exact memOk_tagged _ _ (memOk_landUnits _ hs)
  · exact memOk_tagged _ _ (memOk_landUnits _ hs)

theorem memOk_writePart {u : Nat} {q : AReq} {r : Reply} (hs : MemOk s) : MemOk (writePart u q r s) := by
  unfold writePart
  extract_lets done
  have hdone : ∀ r u, MemOk u → MemOk (done r u) := by
    intro r u hu
    refine memOk_servedBy (memOk_sendReply ?_)
    split
    · exact memOk_markBoxes hu
    · exact hu
  split
  · exact hdone _ _ hs
  · split
    · exact memOk_hinderRpc hs
    · exact memOk_ite (hdone _ _ (memOk_landPart hs)) (memOk_modReq (memOk_landPart hs))

theorem memOk_beginWrites {u : Nat} {q : AReq} {l : List (List Landed)} {r : Reply} (hs : MemOk s) :
    MemOk (beginWrites u q l r s) :=
  memOk_writePart hs

theorem memOk_performRpc {u : Nat} {q : AReq} {proc : Nat} {l data : List (Nat × Nat × Nat)} {value : Nat}
    (hs : MemOk s) : MemOk (performRpc u q proc l data value s) :=
  memOk_beginWrites (memOk_openPieces (memOk_checkPieces (memOk_agentFill hs)))

theorem memOk_serveRpc {u : Nat} {q : AReq} {proc : Nat} (hs : MemOk s) : MemOk (serveRpc u q proc s) := by
  unfold serveRpc
  extract_lets
  split
  · exact memOk_hinderRpc hs
  · split
    · split
      · exact memOk_hinderRpc hs
      · exact memOk_performRpc hs
    · exact memOk_performRpc hs

theorem memOk_serveBox {u : Nat} {q : AReq} {read : Bool} (hs : MemOk s) : MemOk (serveBox u q read s) := by
  unfold serveBox
  dsimp only
  split
  · exact memOk_hinderRpc hs
  · refine memOk_ite (memOk_faultRpc hs) ?_
    split
    · exact memOk_faultRpc hs
    · refine memOk_ite (memOk_faultRpc hs) ?_
      split
      · exact memOk_hinderRpc hs
      · refine memOk_beginWrites (memOk_foldl _ (fun _ _ h => ?_) _ hs)
        split
        · exact memOk_checkSegment h
        · exact h

theorem memOk_pullRequest {u : Nat} (hs : MemOk s) : MemOk (pullRequest u s) := by
  unfold pullRequest
  split
  · split
    · exact memOk_arriveRequest hs
    · exact hs
  · exact hs

theorem memOk_nextRequest {u : Nat} (hs : MemOk s) : MemOk (nextRequest u s).1 := by
  unfold nextRequest
  split
  · extract_lets x total
    split
    · exact memOk_ite hs hs
    · extract_lets here s1
      have h1 : MemOk s1 := by
        unfold s1
        split
        · exact memOk_arriveRequest hs
        · exact hs
      split
      · split
        · exact h1
        · exact h1
      · exact memOk_ite h1 h1
  · exact memOk_pullRequest hs

theorem memOk_passEntry {u : Nat} {s' : State} (hs' : MemOk s') : MemOk (passEntry u s s') := memOk_ite hs' hs'

theorem memOk_serveHead {u : Nat} {q : AReq} (hs : MemOk s) : MemOk (serveHead u q s) := by
  unfold serveHead
  split
  · exact memOk_writePart hs
  · exact memOk_ite (memOk_serveBox hs) (memOk_serveRpc hs)
  all_goals exact hs

theorem memOk_serveEnd {u : Nat} {q : AReq} {k : Nat} {l : List Nat} {write : Bool} (hs : MemOk s) :
    MemOk (serveEnd u q k l write s) := by
  unfold serveEnd
  extract_lets
  split
  · exact memOk_servedBy hs
  · split
    · exact memOk_servedBy hs
    · extract_lets
      split
      · exact memOk_hinderRpc hs
      · exact
          have h1 := memOk_agentFill hs
          have h2 := memOk_servedBy (memOk_openPieces h1)
          memOk_ite (memOk_elemsDone (memOk_tagged _ _ (memOk_landUnits _ h2))) (memOk_modCopy (memOk_checkPieces h2))

theorem memOk_agentHoldTimeout {u : Nat} (hs : MemOk s) : MemOk (agentHoldTimeout u s) := by
  unfold agentHoldTimeout
  split
  · exact hs
  · split
    · split
      · exact memOk_servedBy (memOk_faultCopy hs)
      · exact memOk_servedBy (memOk_sendReply hs)
      · exact hs
      all_goals exact memOk_servedBy (memOk_sendReply hs)
    · exact hs

theorem memOk_dropCommand {k : Nat} (hs : MemOk s) : MemOk (dropCommand k s) := by
  unfold dropCommand
  split
  · exact memOk_sendReply hs
  · split
    · exact memOk_sendReply hs
    · split
      · exact memOk_sendReply hs
      · exact hs

theorem memOk_cancelArrival {k : Nat} (hs : MemOk s) : MemOk (cancelArrival k s) := by
  unfold cancelArrival
  split
  · exact hs
  · split
    · exact hs
    · split
      · exact hs
      · extract_lets
        split
        · exact memOk_ite (memOk_modCopy hs) hs
        · exact memOk_dropCommand hs

/-! The functions of Sys2Proof/Machine/Atomics.lean. -/

theorem memOk_dropAcc {t c k : Nat} (hs : MemOk s) : MemOk (dropAcc t c k s) := memOk_landBoth hs

theorem memOk_putAcc {t c : Nat} {a : Acc} (hs : MemOk s) : MemOk (putAcc t c a s) := memOk_landBoth hs

theorem memOk_landWrite {t c pa n v : Nat} {poison : Bool} (hs : MemOk s) : MemOk (landWrite t c pa n v poison s) :=
  memOk_ite (memOk_ctxStore _ _ _ _ _ _ hs) (memOk_mirrorWrite _ _ _ _ (memOk_homeStore _ _ _ _ hs))

theorem memOk_landAcc {t c : Nat} {a : Acc} {pa n v : Nat} {poison : Bool} (hs : MemOk s) :
    MemOk (landAcc t c a pa n v poison s) :=
  have h2 := memOk_ctxWrites (fun _ => memOk_landWrite) hs
  memOk_ite (memOk_scSync h2) h2

theorem memOk_shadowAtomic {t c : Nat} {a : Acc} {old : State} (hs : MemOk s) :
    MemOk (shadowAtomic t c a s old) := by
  unfold shadowAtomic
  split
  · exact memOk_ite (memOk_storeMem _ _ _ _ hs) hs
  · exact hs

theorem memOk_performAtomic {t c : Nat} {a : Acc} (hs : MemOk s) : MemOk (performAtomic t c a s) :=
  have h1 := memOk_freshId (memOk_checkSegment hs)
  memOk_putAcc <|
    memOk_shadowAtomic (memOk_atomicWrite (fun _ => memOk_landAcc) (memOk_atomicReads (memOk_noteRead h1)))

theorem memOk_serveAtomic {u : Nat} {q : AReq} (hs : MemOk s) : MemOk (serveAtomic u q s) := by
  unfold serveAtomic
  split
  · exact memOk_servedBy hs
  · split
    · exact memOk_hinderRpc hs
    · exact memOk_servedBy (memOk_performAtomic (memOk_useBank hs))

theorem memOk_queueAtomic {t c : Nat} {a : Acc} (hs : MemOk s) : MemOk (queueAtomic t c a s) := memOk_ite hs hs

/-! The functions of Sys2Proof/Machine/Queues.lean. -/

theorem memOk_abortEntries {q n : Nat} (hs : MemOk s) : MemOk (abortEntries q n s) := by
  induction n generalizing s with
  | zero => exact hs
  | succ n ih =>
    have h1 := fun k a v => memOk_hostWrite k a 8 v hs
    exact ih ((memOk_modQueue _ _).2 (memOk_ite ((memOk_raiseMsix _).2 (h1 _ _ _)) (h1 _ _ _)))

theorem memOk_settleReset {q : Nat} (hs : MemOk s) : MemOk (settleReset q s) := by
  unfold settleReset
  dsimp only
  split
  · refine memOk_ite (memOk_foldl _ (fun _ _ h => memOk_journalEnd _ _ h) _ ?_) hs
    refine (memOk_modQueue _ _).2 (memOk_abortEntries ?_)
    split
    · exact memOk_journalEnd _ _ hs
    · exact hs
  · exact hs

theorem memOk_noteWaiting {q : Nat} (hs : MemOk s) : MemOk (noteWaiting q s) := hs

theorem memOk_headArrives {q : Nat} (hs : MemOk s) : MemOk (headArrives q s) := memOk_ite hs hs

theorem memOk_finish {q : Nat} {c : Cmd} {w : Nat} (hs : MemOk s) : MemOk (finish q c w s) :=
  have h1 := memOk_hostWrite _ _ _ _ hs
  have h2 := (memOk_modQueue _ _).2 h1
  memOk_noteWaiting (memOk_settleReset (memOk_ite ((memOk_raiseMsix _).2 h2) h2))

theorem memOk_complete {q : Nat} {c : Cmd} {status cause value : Nat} (hs : MemOk s) :
    MemOk (complete q c status cause value s) :=
  memOk_finish (memOk_journalEnd _ _ hs)

theorem memOk_takeEntry {q : Nat} (hs : MemOk s) : MemOk (takeEntry q s).2 := memOk_headArrives hs

theorem memOk_takeAndComplete {q status cause value : Nat} {k : Known} (hs : MemOk s) :
    MemOk (takeAndComplete q status cause value s k) :=
  memOk_complete (memOk_takeEntry hs)

theorem memOk_readHead {q : Nat} (hs : MemOk s) : MemOk (readHead q s) :=
  have h1 := memOk_journalBegin _ _ _ _ _ _ _ _ hs
  have h2 := (memOk_modQueue _ _).2 h1
  memOk_ite (memOk_ite (memOk_takeAndComplete h2) (memOk_noteWaiting h2)) hs

theorem memOk_acceptHead {q : Nat} (hs : MemOk s) : MemOk (acceptHead q s) := memOk_ite (memOk_readHead hs) hs

theorem memOk_dispatchKind {q kind : Nat} {k : Nat → State → State} (hk : ∀ x u, MemOk u → MemOk (k x u))
    (hs : MemOk s) : MemOk (dispatchKind q kind k s) := by
  unfold dispatchKind
  refine memOk_ite hs (memOk_ite hs ?_)
  have h1 : MemOk (acceptHead q s) := memOk_acceptHead hs
  dsimp only
  split
  · exact h1
  · exact memOk_ite ((memOk_modQueue _ _).2 (memOk_takeAndComplete h1)) <| memOk_ite h1 <|
      memOk_ite (memOk_takeAndComplete h1) <| hk _ _ h1

theorem memOk_fenceCommand {q : Nat} (hs : MemOk s) : MemOk (fenceCommand q s) :=
  memOk_dispatchKind (fun _ _ h => memOk_takeAndComplete h) hs

theorem memOk_signalCommand {q : Nat} (hs : MemOk s) : MemOk (signalCommand q s) :=
  memOk_dispatchKind (fun _ _ h => memOk_takeAndComplete h) hs

theorem memOk_waitvalCommand {q : Nat} (hs : MemOk s) : MemOk (waitvalCommand q s) :=
  memOk_dispatchKind (fun _ _ h => memOk_ite (memOk_takeAndComplete h) h) hs

theorem memOk_commandWaits {h : Hindrance} (hs : MemOk s) : MemOk (commandWaits h s) := by
  unfold commandWaits
  split
  · exact memOk_reportRow hs
  · exact memOk_requestPage hs
  all_goals exact hs

theorem memOk_copyUnits {k : Known} {src dst n : Nat} (hs : MemOk s) : MemOk (copyUnits k src dst n s).1 := by
  unfold copyUnits
  split
  · exact hs
  · exact hs
  · have h1 := memOk_checkSegment (pa := src) hs
    dsimp only
    split
    · exact h1
    · exact memOk_landUnits _ h1

theorem memOk_copyCommandComplete {q k : Nat} (hs : MemOk s) : MemOk (copyCommandComplete q k s) := by
  unfold copyCommandComplete
  split
  · exact hs
  · extract_lets _ _ _ _ _ r put
    have h1 : MemOk r.1 := memOk_copyUnits hs
    have hput : ∀ y u, MemOk u → MemOk (put y u) := fun _ _ h => (memOk_modQueue _ _).2 h
    split
    · exact memOk_complete hs
    · split
      · exact memOk_ite (memOk_complete h1) (hput _ _ h1)
      · exact memOk_complete h1
      · exact hput _ _ (memOk_commandWaits h1)

theorem memOk_finishCond {q e status cause : Nat} {holds : Bool} {k : Known} (hs : MemOk s) :
    MemOk (finishCond q e status cause holds s k) :=
  have h1 := memOk_takeAndComplete hs
  memOk_ite h1 ((memOk_modQueue _ _).2 h1)

theorem memOk_condCommand {q : Nat} (hs : MemOk s) : MemOk (condCommand q s) := by
  unfold condCommand
  refine memOk_dispatchKind (fun _ _ h1 => ?_) hs
  extract_lets
  split
  · exact memOk_finishCond h1
  · split
    · exact memOk_finishCond h1
    · exact (memOk_modQueue _ _).2 (memOk_commandWaits h1)
    · exact memOk_finishCond (memOk_ite (memOk_checkSegment h1) h1)

theorem memOk_publishCommand {q : Nat} (hs : MemOk s) : MemOk (publishCommand q s) :=
  memOk_dispatchKind (fun _ _ h => memOk_takeAndComplete (memOk_hostWrite _ _ _ _ h)) hs

theorem memOk_copyCommand {q : Nat} (hs : MemOk s) : MemOk (copyCommand q s) :=
  memOk_dispatchKind (fun _ _ h => memOk_noteWaiting (memOk_takeEntry h)) hs

theorem memOk_qtail {q v : Nat} (hs : MemOk s) : MemOk (qtail q v s) :=
  memOk_ite hs (memOk_noteWaiting (memOk_headArrives hs))

theorem memOk_fromHost {f : State → State} (hf : ∀ u, MemOk u → MemOk (f u)) (hs : MemOk s) :
    MemOk (fromHost f s) :=
  memOk_ite (hf _ hs) hs

theorem memOk_priorityAging {q : Nat} (hs : MemOk s) : MemOk (priorityAging q s) := by
  unfold priorityAging
  split
  · exact memOk_ite hs hs
  · exact hs

/-! The functions of Sys2Proof/Machine/Matrix.lean. -/

theorem effOk_withSlot {j : Fin 4} {k : Eff} (hk : EffOk k) : EffOk (withSlot s j k) := effOk_ite hk trivial

theorem effOk_issueMat {o : MatOp} {k : State → State} (hs : MemOk s) (hk : ∀ u, MemOk u → MemOk (k u)) :
    EffOk (issueMat s o k) :=
  effOk_ite hs (hk _ ((memOk_modCurTile _).2 (memOk_monitor _ _ _ _ _ _ _ (memOk_freshId (memOk_takeSeqCur hs)))))

theorem effOk_doMmul {j : Fin 4} {e : Fin 8} {a f n c : Fin 16} (hs : MemOk s) : EffOk (doMmul j e a f n c s) := by
  unfold doMmul
  refine effOk_static (effOk_withName fun p => effOk_withSlot ?_)
  extract_lets w y go
  have hgo : ∀ a b, EffOk (go a b) := fun _ _ => effOk_issueMat hs fun _ h => memOk_touchReg h
  refine effOk_ite trivial (effOk_ite trivial (effOk_ite hs (effOk_ite trivial (effOk_ite ?_ (hgo _ _)))))
  split
  · trivial
  · split
    · trivial
    · exact effOk_acquired hs (hgo _ _)

theorem effOk_doMdrain {j : Fin 4} {d : Fin 16} {t : Ty} (hs : MemOk s) : EffOk (doMdrain j d t s) := by
  unfold doMdrain
  refine effOk_static (effOk_withName fun _ => ?_)
  refine effOk_withSlot ?_
  split
  · exact effOk_ite hs trivial
  · exact effOk_ite hs (effOk_ite trivial (effOk_readyRows hs (effOk_issueMat hs fun _ h => h)))

theorem effOk_doMldw {j : Fin 4} {a : Fin 16} (hs : MemOk s) : EffOk (doMldw j a s) :=
  effOk_withName fun _ => effOk_withSlot (effOk_fillReady hs (effOk_issueMat hs fun _ => memOk_touchReg))

theorem effOk_doMswap {j : Fin 4} (hs : MemOk s) : EffOk (doMswap j s) :=
  effOk_static (effOk_withSlot (effOk_issueMat hs fun _ h => h))

theorem effOk_doMacz {j : Fin 4} {e : Fin 8} (hs : MemOk s) : EffOk (doMacz j e s) :=
  effOk_static (effOk_withSlot (effOk_ite trivial (effOk_issueMat hs fun _ h => h)))

theorem effOk_doMopw {e : Fin 8} {a : Fin 16} (hs : MemOk s) : EffOk (doMopw e a s) := by
  unfold doMopw
  refine effOk_static (effOk_ready hs ?_)
  split
  · trivial
  · exact memOk_modPair hs

theorem effOk_doMopr {e : Fin 8} {d : Fin 16} (hs : MemOk s) : EffOk (doMopr e d s) := effOk_ready hs (memOk_wrS hs)

theorem effOk_doImage {j : Fin 4} {a : Fin 16} {kind : MatKind} {write : Bool} (hs : MemOk s) :
    EffOk (doImage s j a kind write) := by
  unfold doImage
  refine effOk_ready hs (effOk_withSlot (effOk_fillReady hs (effOk_unpoisoned ?_)))
  extract_lets
  split
  · trivial
  · exact effOk_ite hs <| effOk_ite hs <| effOk_ite hs <| effOk_acquired hs <| effOk_issueMat hs fun _ h =>
      memOk_of_mem (memOk_fillAll h) rfl

theorem memOk_modOp {t k : Nat} {f : MatOp → MatOp} (hs : MemOk s) : MemOk (modOp t k f s) := hs

theorem memOk_deferMat {t : Nat} {o : MatOp} {cause : Cause} (hs : MemOk s) : MemOk (deferMat t o cause s) := hs

theorem memOk_restoreSlot {t : Nat} {o : MatOp} (hs : MemOk s) : MemOk (restoreSlot t o s) :=
  memOk_ite (memOk_deferMat hs) ((memOk_modTile _ _).2 (memOk_modOp hs))

theorem memOk_opBank {t : Nat} {o : MatOp} {pa n : Nat} (hs : MemOk s) : MemOk (opBank t o pa n s) :=
  memOk_ite (memOk_useBank hs) hs

theorem memOk_readImage {t : Nat} {o : MatOp} (hs : MemOk s) : MemOk (readImage t o s) := by
  unfold readImage
  split
  · exact memOk_restoreSlot hs
  · exact memOk_modOp (memOk_ctxRead (memOk_noteRead (memOk_checkSegment (memOk_opBank hs))))

theorem memOk_readScale {t : Nat} {o : MatOp} {arr : Option Nat} (hs : MemOk s) :
    MemOk (readScale t o arr s).2 := by
  unfold readScale
  split
  · exact hs
  · exact memOk_ctxRead (memOk_noteRead (memOk_checkSegment (memOk_opBank hs)))

theorem memOk_startMat {t : Nat} {o : MatOp} (hs : MemOk s) : MemOk (startMat t o s) := by
  unfold startMat
  dsimp only
  have h1 : MemOk (readScale t o o.arrB (readScale t o o.arrA s).2).2 := memOk_readScale (memOk_readScale hs)
  split
  · refine memOk_ite ?_ (memOk_modOp h1)
    split
    · exact memOk_deferMat h1
    · split
      · exact memOk_deferMat h1
      · exact memOk_modOp h1
  · exact memOk_modOp h1
  · exact memOk_readImage h1
  all_goals exact memOk_modOp h1

theorem memOk_waitImage {t : Nat} {o : MatOp} {off : Nat} (hs : MemOk s) : MemOk (waitImage t o off s) :=
  memOk_ite (memOk_ite (memOk_modOp hs) hs) (memOk_ite (memOk_beginRepair _ _ hs) hs)

theorem memOk_matrixOpStart {t : Nat} (hs : MemOk s) : MemOk (matrixOpStart t s) := by
  unfold matrixOpStart
  extract_lets
  split
  · exact hs
  · split
    · exact hs
    · split
      · exact memOk_startMat hs
      · exact memOk_waitImage hs

theorem memOk_saveSegment {t : Nat} {o : MatOp} {k pa : Nat} {rest : List Nat} (hs : MemOk s) :
    MemOk (saveSegment t o k pa rest s) :=
  memOk_modOp (memOk_ctxWrites (fun _ h => memOk_ctxStore _ _ _ _ _ _ h) (memOk_opBank hs))

theorem memOk_finishMat {t : Nat} {o : MatOp} (hs : MemOk s) : MemOk (finishMat t o s) := by
  unfold finishMat
  extract_lets _ put v s1 s2 s3 _
  have hput : ∀ z u, MemOk u → MemOk (put z u) := fun _ _ h => h
  split
  · have h1 : MemOk s1 := memOk_raiseMx (hput _ _ hs)
    have h2 : MemOk s2 := memOk_ite (memOk_relAdd h1) h1
    have h3 : MemOk s3 := memOk_ite (memOk_relAdd h2) h2
    exact memOk_countAt _ _ _ _ _ _ _ h3
  · split
    · exact hs
    · refine memOk_raiseMx ((memOk_modTile _ _).2 (memOk_foldl _ (fun _ _ h => ?_) _ hs))
      exact (memOk_notePrint _ _ _ _ _).2 h
  · exact hput _ _ hs
  · exact hput _ _ hs
  · exact hput _ _ hs
  all_goals exact hs

theorem memOk_reportSuspect {t : Nat} {col : Bool} (hs : MemOk s) : MemOk (reportSuspect t col s) := hs

theorem memOk_matrixOpComplete {t k : Nat} (hs : MemOk s) : MemOk (matrixOpComplete t k s) := by
  unfold matrixOpComplete
  split
  · exact hs
  · split
    · exact memOk_deferMat (memOk_relAdd (memOk_relAdd hs))
    · split
      · exact memOk_waitImage hs
      · split
        · exact memOk_saveSegment hs
        · exact (memOk_modTile _ _).2 (memOk_finishMat hs)

theorem memOk_countRetry {t : Nat} {o : MatOp} (hs : MemOk s) : MemOk (countRetry t o s) :=
  memOk_countAt _ _ _ _ _ _ _ hs

theorem memOk_lastingMismatch {t : Nat} {col : Bool} {o : MatOp} (hs : MemOk s) :
    MemOk (lastingMismatch t col o s) := by
  unfold lastingMismatch
  refine memOk_modOp ?_
  split
  · exact memOk_reportSuspect hs
  · exact memOk_countRetry (memOk_reportSuspect hs)

theorem memOk_mirrorMismatch {t : Nat} {col : Bool} {e : ErrKind} (hs : MemOk s) :
    MemOk (mirrorMismatch t col e s) := by
  unfold mirrorMismatch
  split
  · exact hs
  · extract_lets s1
    have h1 : MemOk s1 := memOk_ite hs (memOk_toNominal hs)
    split
    · exact h1
    · exact memOk_ite (memOk_lastingMismatch h1) (memOk_modOp (memOk_countRetry h1))
    · exact memOk_lastingMismatch h1

/-! The functions of Sys2Proof/Machine/Pairs.lean. -/

theorem memOk_setCheckpoint {t c : Nat} (hs : MemOk s) : MemOk (setCheckpoint t c s) := hs

theorem memOk_copyToShadow {t u c : Nat} (hs : MemOk s) : MemOk (copyToShadow t u c s) := hs

theorem memOk_forgetInterval {t c firstId : Nat} (hs : MemOk s) : MemOk (forgetInterval t c firstId s) := hs

theorem memOk_dropHeld {t c firstId : Nat} (hs : MemOk s) : MemOk (dropHeld t c firstId s) := hs

theorem memOk_restoreHoldings {t c : Nat} {k : PairCk} (hs : MemOk s) : MemOk (restoreHoldings t c k s) := hs

theorem memOk_undoWrites {l : List (Nat × Byte × Bool)} (hs : MemOk s) : MemOk (undoWrites l s) := by
  unfold undoWrites
  refine memOk_foldl _ (fun _ b h => (memOk_setSegPoison _ _).2 ?_) _ hs
  exact Memory.wf_write h b.1 b.2.1

theorem memOk_rollback {t c : Nat} {k : PairCk} (hs : MemOk s) : MemOk (rollback t c k s) :=
  (memOk_modTile _ _).2 <| memOk_relAdd <| (memOk_modCore _ _ _).2 <| (memOk_modTile _ _).2 <|
    (memOk_modCtx _ _ _).2 <| memOk_restoreHoldings <| memOk_forgetInterval <| memOk_undoWrites <| memOk_dropHeld hs

theorem memOk_pairDiverges {t u c : Nat} {k : PairCk} (hs : MemOk s) : MemOk (pairDiverges t u c k s) := by
  unfold pairDiverges
  extract_lets _ s1 _
  have h1 : MemOk s1 := memOk_relAdd (memOk_relAdd (memOk_dropHeld hs))
  exact memOk_fatalEnd _ _ _ _ _ (memOk_fatalEnd _ _ _ _ _ h1)

theorem memOk_endAgreed {t c : Nat} (hs : MemOk s) : MemOk (endAgreed t c s) := by
  unfold endAgreed
  split
  · exact memOk_fatalEnd _ _ _ _ _ hs
  · exact hs

theorem memOk_pairIntervalEnd {t c : Nat} {clean : Bool} (hs : MemOk s) : MemOk (pairIntervalEnd t c clean s) := by
  unfold pairIntervalEnd
  split
  · exact
      have h1 := memOk_copyToShadow hs
      have h2 := (memOk_modTile _ _).2 (memOk_endAgreed h1)
      memOk_ite (memOk_ite h2 ((memOk_modTile _ _).2 (memOk_dropHeld ((memOk_modCtx _ _ _).2 h1)))) <| memOk_ite hs <|
        memOk_ite hs <| memOk_ite (memOk_ite (memOk_pairDiverges hs) (memOk_rollback hs)) <|
          memOk_ite h2 (memOk_setCheckpoint h1)
  · exact hs

/-! The functions of Sys2Proof/Machine/Sync.lean. -/

theorem effOk_withBar {m : BarDom} {i : Fin 64} {k : Nat → Nat → Eff} (hk : ∀ x y, EffOk (k x y)) :
    EffOk (withBar s m i k) := by
  unfold withBar
  split
  · trivial
  · split
    · trivial
    · split
      · exact effOk_ite (hk _ _) trivial
      · trivial

theorem memOk_barArrive {key n : Nat} {k0 : Known} (hs : MemOk s) : MemOk (barArrive key n k0 s).2 :=
  memOk_of_mem (memOk_freshId hs) rfl

theorem memOk_phaseAcc {d : Fin 16} {id key : Nat} (hs : MemOk s) : MemOk (phaseAcc d id key s) := memOk_ite hs hs

theorem effOk_doBarArr {d : Fin 16} {m : BarDom} {i : Fin 64} (hs : MemOk s) : EffOk (doBarArr d m i s) :=
  effOk_ready hs <| effOk_withBar fun _ _ => effOk_released hs fun _ h =>
    effOk_ite
      (effOk_logged h (fun _ _ hu => memOk_wrS (memOk_barArrive hu)) fun _ _ hu => memOk_wrS (memOk_barArrive hu))
      (memOk_phaseAcc (memOk_of_mem (memOk_freshId h) rfl))

theorem effOk_awaitPhase {key phase : Nat} {k : State → Eff} (hs : MemOk s) (hk : ∀ u, MemOk u → EffOk (k u)) :
    EffOk (awaitPhase s key phase k) :=
  effOk_ite (hk _ hs) hs

theorem effOk_doBarWait {a : Fin 16} {m : BarDom} {i : Fin 64} (hs : MemOk s) : EffOk (doBarWait a m i s) :=
  effOk_ready hs (effOk_unpoisoned (effOk_withBar fun _ _ => effOk_awaitPhase hs fun _ h => h))

theorem effOk_doBarAw {m : BarDom} {i : Fin 64} (hs : MemOk s) : EffOk (doBarAw m i s) := by
  unfold doBarAw
  refine effOk_withBar fun key n => ?_
  extract_lets y wait
  have hwait : ∀ p u, MemOk u → EffOk (wait p u) := fun _ _ hu =>
    effOk_awaitPhase ((memOk_modCur _).2 hu) fun _ h => (memOk_modCur _).2 h
  split
  · exact hwait _ _ hs
  · refine effOk_ite hs (effOk_ite (hwait _ _ hs) (effOk_released hs fun u hu => effOk_ite ?_ ?_))
    · exact hwait _ _ (memOk_barArrive hu)
    · exact memOk_of_mem (memOk_freshId hu) rfl

theorem memOk_barrierArrival {k : Nat} (hs : MemOk s) : MemOk (barrierArrival k s) := by
  unfold barrierArrival
  split
  · exact hs
  · exact memOk_ite hs ((memOk_modCtx _ _ _).2 (memOk_freshId (memOk_barArrive hs)))

theorem memOk_barrierRelease {t : Nat} {c : Fin 8} (hs : MemOk s) : MemOk (barrierRelease t c s) := by
  unfold barrierRelease
  split
  · exact memOk_ite hs hs
  · exact hs

theorem memOk_barrierTimeout {t : Nat} {c : Fin 8} (hs : MemOk s) : MemOk (barrierTimeout t c s) := by
  unfold barrierTimeout
  extract_lets
  split
  · exact memOk_ite (memOk_enterCause _ _ _ _ hs) hs
  · exact hs

theorem memOk_peerArrives {p idx : Nat} (hs : MemOk s) : MemOk (peerArrives p idx s) := by
  unfold peerArrives
  split
  · exact memOk_ite (memOk_barArrive hs) hs
  · exact hs

theorem memOk_putSem {i v : Nat} (hs : MemOk s) : MemOk (putSem i v s) := hs

theorem memOk_trailSig {i n : Nat} (hs : MemOk s) : MemOk (trailSig i n s) := hs

theorem memOk_consumeSem {i v n : Nat} (hs : MemOk s) : MemOk (consumeSem i v n s) :=
  (memOk_modCur _).2 ((memOk_modCurTile _).2 (memOk_putSem hs))

theorem effOk_doSig {a m : Fin 16} (hs : MemOk s) : EffOk (doSig a m s) :=
  effOk_ready hs <| effOk_unpoisoned <| effOk_released hs fun _ h => effOk_ite trivial <| memOk_trailSig <|
    memOk_putSem h

theorem effOk_doWsem {a m : Fin 16} (hs : MemOk s) : EffOk (doWsem a m s) :=
  effOk_ready hs <| effOk_unpoisoned <| effOk_ite hs <| effOk_ite ((memOk_modCurTile _).2 (memOk_consumeSem hs)) <|
    memOk_ite hs hs

theorem effOk_doTsem {d a m : Fin 16} (hs : MemOk s) : EffOk (doTsem d a m s) :=
  effOk_ready hs <| effOk_unpoisoned <|
    effOk_logged hs (fun _ _ h => memOk_wrS (memOk_ite (memOk_consumeSem h) h))
      fun _ _ h => memOk_wrS (memOk_ite (memOk_consumeSem h) h)

theorem effOk_doAsarm {a b : Fin 16} {i : Fin 64} (hs : MemOk s) : EffOk (doAsarm a b i s) := by
  unfold doAsarm
  refine effOk_ready hs (effOk_unpoisoned ?_)
  extract_lets
  split
  · trivial
  · split
    · trivial
    · exact effOk_ite trivial hs

theorem effOk_withMask {a b : Fin 16} {i : Fin 64} {k : Bool → Known → Eff} (hk : ∀ x y, EffOk (k x y)) :
    EffOk (withMask s a b i k) :=
  effOk_unpoisoned (effOk_ite trivial (hk _ _))

theorem effOk_doAswait {a b : Fin 16} {i : Fin 64} (hs : MemOk s) : EffOk (doAswait a b i s) :=
  effOk_ready hs (effOk_withMask fun _ _ => effOk_ite hs hs)

theorem effOk_doAstest {d a b : Fin 16} {i : Fin 64} (hs : MemOk s) : EffOk (doAstest d a b i s) :=
  effOk_ready hs (effOk_withMask fun _ _ => effOk_logged hs (fun _ _ => memOk_wrS) fun _ _ => memOk_wrS)

theorem effOk_askUnit {r : WlReq} {k : WlReq → State → Eff} (hs : MemOk s) (hk : ∀ x u, MemOk u → EffOk (k x u)) :
    EffOk (askUnit s r k) := by
  unfold askUnit
  split
  · split
    · exact hk _ _ hs
    · exact (memOk_modCur _).2 (memOk_freshId hs)
  · exact effOk_ite (effOk_ite trivial (hk _ _ hs)) hs

theorem effOk_withList {i : Fin 64} {k : Eff} (hk : EffOk k) : EffOk (withList s i k) := by
  unfold withList
  split
  · trivial
  · exact effOk_ite trivial hk

theorem effOk_doWltake {d a b : Fin 16} {i : Fin 64} (hs : MemOk s) : EffOk (doWltake d a b i s) := by
  unfold doWltake
  refine effOk_ready hs (effOk_unpoisoned (effOk_withList ?_))
  extract_lets va m put ask
  have hput : ∀ v u, MemOk u → EffOk (put v u) := fun _ _ h => memOk_wrS h
  have hask : ∀ op k fin, (∀ v u, MemOk u → EffOk (fin v u)) → EffOk (ask op k fin) :=
    fun _ _ _ hf => effOk_askUnit hs fun _ _ h => hf _ _ h
  clear_value put ask
  split
  · trivial
  · split
    · trivial
    · split
      · exact hs
      · split
        · split
          · extract_lets pass
            have hpass : ∀ u, MemOk u → MemOk (pass u) := fun _ h => (memOk_modCur _).2 h
            exact effOk_ite (effOk_ite (hput _ _ (hpass _ hs)) (hask _ _ _ fun _ _ h => hput _ _ (hpass _ h))) trivial
          · trivial
        · exact hask _ _ _ fun _ _ h => hput _ _ (memOk_logPut _ _ _ _ _ _ h)

theorem effOk_doWlapp {a b : Fin 16} {i : Fin 64} (hs : MemOk s) : EffOk (doWlapp a b i s) :=
  effOk_ready hs (effOk_withList (effOk_released hs fun _ h => effOk_askUnit h fun _ _ h2 => h2))

theorem effOk_doWldone {a : Fin 16} {i : Fin 64} (hs : MemOk s) : EffOk (doWldone a i s) :=
  effOk_ready hs (effOk_unpoisoned (effOk_withList (effOk_released hs fun _ h => effOk_askUnit h fun _ _ h2 => h2)))

theorem effOk_doQwait (hs : MemOk s) : EffOk (doQwait s) := effOk_askUnit hs fun _ _ h => h

theorem memOk_takeItems {t c : Nat} {w : WorkList} {va k : Nat} (hs : MemOk s) :
    MemOk (takeItems t c w va k s) := by
  unfold takeItems
  refine memOk_foldl _ (fun _ _ h1 => ?_) _ hs
  extract_lets _ s2
  have h2 : MemOk s2 := memOk_checkSegment h1
  split
  · exact memOk_landUnits _ h2
  · exact h2

theorem memOk_answer {t c : Nat} {r : WlReq} {res : Nat} {trap : Cause} (hs : MemOk s) :
    MemOk (answer t c r res trap s) :=
  (memOk_modCtx _ _ _).2 (memOk_freshId hs)

theorem memOk_applyTake {t c : Nat} {r : WlReq} {l : Launch} {w : WorkList} {k : Nat} (hs : MemOk s) :
    MemOk (applyTake t c r l w k s) :=
  memOk_answer ((memOk_modLaunch _ _).2 (memOk_modSight (memOk_ctxWrites (fun _ => memOk_takeItems) hs)))

theorem memOk_holdTaker {t c : Nat} {r : WlReq} (hs : MemOk s) : MemOk (holdTaker t c r s) :=
  memOk_ite hs ((memOk_modCtx _ _ _).2 (memOk_freshId hs))

theorem memOk_applyRequest {t : Nat} {c : Fin 8} (hs : MemOk s) : MemOk (applyRequest t c s) := by
  unfold applyRequest
  extract_lets
  split
  · split
    · exact hs
    · extract_lets
      split
      · exact memOk_ite (memOk_answer hs) (memOk_answer ((memOk_modLaunch _ _).2 (memOk_homeStore _ _ _ _ hs)))
      · exact memOk_ite (memOk_answer hs) <| memOk_ite (memOk_ite (memOk_holdTaker hs) (memOk_applyTake hs)) <|
          memOk_ite (memOk_answer hs) <| memOk_holdTaker hs
      · exact memOk_ite (memOk_applyTake hs) (memOk_holdTaker hs)
      · exact memOk_ite (memOk_answer hs) (memOk_answer hs)
      · exact memOk_ite (memOk_answer hs) (memOk_ite (memOk_answer (memOk_modSight hs)) (memOk_holdTaker hs))
  · exact hs

theorem memOk_wlRequestApply {t : Nat} {c : Fin 8} (hs : MemOk s) : MemOk (wlRequestApply t c s) := by
  unfold wlRequestApply
  extract_lets s1
  have h1 : MemOk s1 := memOk_applyRequest hs
  split
  · exact memOk_ite ((memOk_modCtx _ _ _).2 h1) h1
  · exact h1

theorem memOk_wlAnswer {t : Nat} {c : Fin 8} (hs : MemOk s) : MemOk (wlAnswer t c s) := by
  unfold wlAnswer
  split
  · exact memOk_ite hs hs
  · exact hs

theorem memOk_wlAbandon {t c n : Nat} (hs : MemOk s) : MemOk (wlAbandon t c n s) := hs

/-! The functions of Sys2Proof/Machine/Tasks.lean. -/

theorem memOk_timerDue {t c : Nat} (hs : MemOk s) : MemOk (timerDue t c s) := memOk_ite hs hs

theorem memOk_quantumExpiry {t k : Nat} (hs : MemOk s) : MemOk (quantumExpiry t k s) := by
  unfold quantumExpiry
  extract_lets
  split
  · exact memOk_ite hs (memOk_ite hs hs)
  · exact hs

theorem memOk_drowsyEntry {t k : Nat} (hs : MemOk s) : MemOk (drowsyEntry t k s) := memOk_ite hs hs

theorem memOk_startTask {t c : Nat} {l : Launch} {k : Task} (hs : MemOk s) : MemOk (startTask t c l k s) := by
  unfold startTask
  extract_lets _ s1 _ s2 s3 s4
  have h3 : MemOk s3 := (memOk_modTile _ _).2 ((memOk_modCtx _ _ _).2 ((memOk_setCtx _ _ _).2 hs))
  have h4 : MemOk s4 := memOk_monitor _ _ _ _ _ _ _ h3
  exact memOk_ite (memOk_setCheckpoint h4) h4

theorem memOk_startAll {t : Nat} {l : Launch} {ks : List Task} (hs : MemOk s) : MemOk (startAll t l ks s) := by
  induction ks generalizing s with
  | nil => exact hs
  | cons k r ih =>
    unfold startAll
    dsimp only
    split
    · exact ih hs
    · split
      · exact ih (memOk_startTask hs)
      · exact ih hs

theorem memOk_taskStart {t : Nat} (hs : MemOk s) : MemOk (taskStart t s) := by
  unfold taskStart
  extract_lets
  split
  · exact hs
  · split
    · exact memOk_ite hs (memOk_startAll hs)
    · exact hs

theorem memOk_coreIdle {t k : Nat} (hs : MemOk s) : MemOk (coreIdle t k s) := memOk_ite hs hs

theorem memOk_endTask {t c : Nat} (hs : MemOk s) : MemOk (endTask t c s) := by
  unfold endTask
  extract_lets _ _ s1 s2 s3 s4 s5 s6
  have h1 : MemOk s1 := memOk_wlAbandon hs
  have h2 : MemOk s2 := memOk_monitor _ _ _ _ _ _ _ h1
  have h3 : MemOk s3 := (memOk_modLaunch _ _).2 h2
  have h4 : MemOk s4 := (memOk_modTile _ _).2 h3
  have h5 : MemOk s5 := (memOk_setCtx _ _ _).2 h4
  have h6 : MemOk s6 := by
    unfold s6
    split
    · exact (memOk_setCtx _ _ _).2 h5
    · exact h5
  exact memOk_coreIdle h6

theorem memOk_haltReleases {t c : Nat} (hs : MemOk s) : MemOk (haltReleases t c s) := hs

theorem memOk_taskEnd {t c : Nat} (hs : MemOk s) : MemOk (taskEnd t c s) := by
  unfold taskEnd
  split
  · exact memOk_ite (memOk_endTask (memOk_haltReleases hs)) hs
  · exact memOk_ite (memOk_ite (memOk_endTask hs) hs) (memOk_ite (memOk_fatalClose _ _ hs) hs)
  · exact hs
  · exact hs

theorem memOk_eventCounterWrap {t k i : Nat} (hs : MemOk s) : MemOk (eventCounterWrap t k i s) :=
  memOk_ite (memOk_pmcAdd _ _ _ _ _ _ _ hs) hs

theorem memOk_endLaunch {n : Nat} {cause : Cause} (hs : MemOk s) : MemOk (endLaunch n cause s) := by
  unfold endLaunch
  extract_lets
  exact
    memOk_foldl _ (fun _ _ h1 =>
      have h2 := (memOk_modLaunch _ _).2 h1
      have h3 := (memOk_modTile _ _).2 h2
      memOk_foldl _ (fun _ _ h => memOk_ite (memOk_fatalEnd _ _ _ _ _ h) h) _ h3) _ hs

theorem memOk_replayWaitTimeout {t : Nat} (hs : MemOk s) : MemOk (replayWaitTimeout t s) :=
  memOk_ite (memOk_endLaunch hs) hs

/-! The functions of Sys2Proof/Machine/Launches.lean. -/

theorem memOk_placeImage {t k addr len off : Nat} (hs : MemOk s) : MemOk (placeImage t k addr len off s) :=
  (memOk_modCore _ _ _).2 (memOk_placeFresh _ _ _ _ hs)

theorem memOk_zeroGranules {t first : Nat} (hs : MemOk s) : MemOk (zeroGranules t first s) := Memory.wf_clear hs _ _

theorem memOk_placeImages {r t : Nat} {tasks : List Task} (hs : MemOk s) : MemOk (placeImages r t tasks s) := by
  unfold placeImages
  extract_lets s1 s2 s3
  have h2 : MemOk s2 := (memOk_modCore _ _ _).2 ((memOk_modCore _ _ _).2 hs)
  have h3 : MemOk s3 := memOk_ite (memOk_placeImage h2) h2
  exact memOk_ite (memOk_placeImage h3) h3

theorem memOk_setupTile {n part r : Nat} {p : TilePlan} {alloy : Sparse Word} (hs : MemOk s) :
    MemOk (setupTile n part r p alloy s) :=
  memOk_placeImages (memOk_zeroGranules hs)

theorem memOk_clearBars {part : Nat} {tiles : List Nat} (hs : MemOk s) : MemOk (clearBars part tiles s) := hs

theorem memOk_unarm {part : Nat} (hs : MemOk s) : MemOk (unarm part s) := hs

theorem memOk_clearLogs {tiles : List Nat} (hs : MemOk s) : MemOk (clearLogs tiles s) := by
  unfold clearLogs
  exact memOk_foldl _ (fun _ _ h => memOk_writeMem _ _ _ h) _ hs

theorem memOk_couple {n part r : Nat} {p : TilePlan} {alloy : Sparse Word} (hs : MemOk s) :
    MemOk (couple n part r p alloy s) := by
  unfold couple
  extract_lets u s1 k s2 s3
  have h1 : MemOk s1 := memOk_setupTile hs
  have h2 : MemOk s2 := (memOk_forgetWrites _ _).2 (memOk_place _ _ _ _ h1)
  have h3 : MemOk s3 := memOk_copyPoison ((memOk_clearPoison _ _).2 h2)
  exact (memOk_modTile _ _).2 ((memOk_modTile _ _).2 h3)

theorem memOk_startLaunch {q part prio r : Nat} {c : Cmd} {p : Plan} (hs : MemOk s) :
    MemOk (startLaunch q part prio r c p s) := by
  unfold startLaunch
  extract_lets _ _ _ _ s1 s2 s3 s4
  have h3 : MemOk s3 := memOk_unarm (memOk_clearBars hs)
  have h4 : MemOk s4 :=
    memOk_foldl _ (fun _ _ h => memOk_ite (memOk_couple (memOk_setupTile h)) (memOk_setupTile h)) _ h3
  exact memOk_ite (memOk_clearLogs h4) h4

theorem memOk_checkArrays {r part : Nat} (hs : MemOk s) : MemOk (checkArrays r part s) := by
  unfold checkArrays
  split
  · exact hs
  · extract_lets _ s2
    have h2 : MemOk s2 := memOk_foldl _ (fun _ _ => memOk_checkRange) _ hs
    refine memOk_foldl _ (fun _ _ h3 => ?_) _ h2
    refine memOk_foldl _ (fun _ _ h4 => ?_) _ h3
    split
    · exact memOk_checkRange h4
    · exact h4

theorem memOk_launchCommand {q : Nat} (hs : MemOk s) : MemOk (launchCommand q s) := by
  unfold launchCommand
  refine memOk_dispatchKind (fun e u hu => memOk_ite ?_ hu) hs
  have h1 : MemOk (checkArrays (launchRecord (checkRange (operandPa (blk e 8 8)) 256 u) e) (queuePart (queueOf u q))
      (checkRange (operandPa (blk e 8 8)) 256 u)) := memOk_checkArrays (memOk_checkRange hu)
  dsimp only
  split
  · exact memOk_complete ((memOk_modPart _ _).2 (memOk_takeEntry h1))
  · exact memOk_ite (memOk_noteWaiting (memOk_startLaunch (memOk_takeEntry h1))) h1

theorem memOk_dropLaunch {l : Launch} (hs : MemOk s) : MemOk (dropLaunch l s) := memOk_ite hs hs

theorem memOk_launchComplete {p : Nat} (hs : MemOk s) : MemOk (launchComplete p s) := by
  unfold launchComplete
  split
  · split
    · extract_lets _ s1 s2
      have h1 : MemOk s1 := memOk_ite hs (memOk_hostWrite _ _ _ _ hs)
      have h2 : MemOk s2 := memOk_dropLaunch h1
      split
      all_goals exact memOk_complete h2
    · exact hs
  · exact hs

/-! The functions of Sys2Proof/Machine/Saves.lean. -/

theorem memOk_preemption {p : Nat} (hs : MemOk s) : MemOk (preemption p s) := by
  unfold preemption
  split
  · exact hs
  · split
    · exact
        have h1 := memOk_journalBegin _ _ _ _ _ _ _ _ hs
        have h2 := (memOk_modPart _ _).2 h1
        have h3 := (memOk_modLaunch _ _).2 h2
        memOk_foldl _ (fun _ _ h4 => (memOk_modTile _ _).2 h4) _ h3
    · exact hs

theorem memOk_dropInterval {t c : Nat} (hs : MemOk s) : MemOk (dropInterval t c s) := by
  unfold dropInterval
  split
  · exact (memOk_modTile _ _).2 (memOk_dropHeld hs)
  · exact hs

theorem memOk_stopCtx {t c : Nat} (hs : MemOk s) : MemOk (stopCtx t c s) := by
  unfold stopCtx
  extract_lets _ _ s1 s2
  have h1 : MemOk s1 := (memOk_modCtx _ _ _).2 hs
  have h2 : MemOk s2 := memOk_dropInterval h1
  exact memOk_ite hs (memOk_ite (memOk_monitor _ _ _ _ _ _ _ h1) (memOk_ite (memOk_cancelCommands h2) h2))

theorem memOk_contextsHalted {p : Nat} (hs : MemOk s) : MemOk (contextsHalted p s) :=
  memOk_ite (memOk_foldl _ (fun _ _ h => memOk_foldl _ (fun _ _ => memOk_stopCtx) _ h) _ hs) hs

theorem memOk_saveCtx {n t c b : Nat} (hs : MemOk s) : MemOk (saveCtx n t c b s) := by
  unfold saveCtx
  extract_lets _ _ s1 s2
  have h2 : MemOk s2 := memOk_placeFresh _ _ _ _ ((memOk_setCtx _ _ _).2 hs)
  exact memOk_of_mem h2 rfl

theorem memOk_saveTile {t b : Nat} (hs : MemOk s) : MemOk (saveTile t b s) :=
  memOk_copyPoison (memOk_placeFresh _ _ _ _ hs)

theorem memOk_endSave {p : Nat} {l : Launch} {j : Nat} (hs : MemOk s) : MemOk (endSave p l j s) := by
  unfold endSave
  extract_lets _ s1 _ s2 s4 s5
  have h1 : MemOk s1 := memOk_placeFresh _ _ _ _ hs
  have h2 : MemOk s2 := (memOk_modLaunch _ _).2 h1
  have h4 : MemOk s4 := memOk_foldl _ (fun _ _ h => (memOk_modTile _ _).2 h) _ h2
  have h5 : MemOk s5 := memOk_journalEnd _ _ h4
  exact (memOk_modPart _ _).2 h5

theorem memOk_tileImageSave {t : Nat} (hs : MemOk s) : MemOk (tileImageSave t s) := by
  unfold tileImageSave
  extract_lets
  split
  · split
    · split
      · extract_lets _ s1 s3 _ s4 s5 s6
        have h1 : MemOk s1 := memOk_saveTile hs
        have h3 : MemOk s3 := memOk_foldl _ (fun _ _ => memOk_saveCtx) _ h1
        have h4 : MemOk s4 := (memOk_modLaunch _ _).2 h3
        have h5 : MemOk s5 := (memOk_modTile _ _).2 h4
        have h6 : MemOk s6 := memOk_coreIdle (memOk_coreIdle h5)
        split
        · split
          · exact memOk_endSave h6
          · exact h6
        · exact h6
      · exact hs
    · exact hs
  · exact hs

theorem memOk_barFrom {a key : Nat} {kept : Sparse Bar} (hs : MemOk s) : MemOk (barFrom a key kept s) := hs

theorem memOk_barsFrom {a dom inst n : Nat} {kept : Sparse Bar} (hs : MemOk s) :
    MemOk (barsFrom a dom inst n kept s) := by
  unfold barsFrom
  exact memOk_foldl _ (fun _ _ => memOk_barFrom) _ hs

theorem memOk_reserveAgain {t c : Nat} (hs : MemOk s) : MemOk (reserveAgain t c s) := memOk_ite hs hs

theorem memOk_resumeCtx {t c b src : Nat} {own : Bool} {kept : Tile} {paired : Bool} (hs : MemOk s) :
    MemOk (resumeCtx t c b src own kept paired s) := by
  unfold resumeCtx
  refine memOk_ite hs ?_
  extract_lets s1 _ _ s2 _ _ s3 s4
  have h1 : MemOk s1 := (memOk_modCore _ _ _).2 hs
  have h2 : MemOk s2 := memOk_ite ((memOk_modCtx _ _ _).2 h1) h1
  have h3 : MemOk s3 := (memOk_modCtx _ _ _).2 h2
  have h4 : MemOk s4 := memOk_ite h3 ((memOk_modCtx _ _ _).2 (memOk_freshValue (memOk_reserveAgain h3)))
  split
  extract_lets s5 _ s6 s7
  have h5 : MemOk s5 := (memOk_modCtx _ _ _).2 (memOk_of_mem h4 rfl)
  have h7 : MemOk s7 := memOk_monitor _ _ _ _ _ _ _ ((memOk_modLaunch _ _).2 h5)
  exact memOk_ite ((memOk_modTile _ _).2 (memOk_setCheckpoint h7)) h7

theorem memOk_restoreTile {l : Launch} {j t : Nat} (hs : MemOk s) : MemOk (restoreTile l j t s) := by
  unfold restoreTile
  extract_lets b s1 kept src own mine shadow s2 s3 s4 x1 x2 x3 s5 bars s6 s7 s8
  have h1 : MemOk s1 := memOk_checkRange hs
  have h2 : MemOk s2 := memOk_ite h1 (memOk_placeImages h1)
  have h3 : MemOk s3 := (memOk_forgetWrites _ _).2 (memOk_place _ _ _ _ h2)
  have h4 : MemOk s4 := memOk_copyPoison ((memOk_clearPoison _ _).2 h3)
  have h6 : MemOk s6 := memOk_barsFrom ((memOk_setTile _ _).2 h4)
  have h7 : MemOk s7 := memOk_ite (memOk_barsFrom h6) h6
  have h8 : MemOk s8 := memOk_ite (memOk_barsFrom h7) h7
  exact memOk_foldl _ (fun _ _ => memOk_resumeCtx) _ h8

theorem memOk_restoreHeader {l : Launch} {j : Nat} (hs : MemOk s) : MemOk (restoreHeader l j s) :=
  (memOk_modLaunch _ _).2 (memOk_foldl _ (fun _ _ => memOk_barFrom) _ hs)

theorem memOk_launchRestore {p : Nat} (hs : MemOk s) : MemOk (launchRestore p s) := by
  unfold launchRestore
  extract_lets
  split
  · exact hs
  · split
    · exact hs
    · exact memOk_ite hs <|
        memOk_ite
          (memOk_restoreHeader <| (memOk_modPart _ _).2 <| (memOk_modLaunch _ _).2 <|
            memOk_foldl _ (fun _ _ => memOk_restoreTile) _ hs)
          (memOk_complete (memOk_dropLaunch hs))

theorem memOk_watchdogExpiry {p : Nat} (hs : MemOk s) : MemOk (watchdogExpiry p s) := by
  unfold watchdogExpiry
  split
  · exact memOk_ite hs hs
  · exact hs

theorem memOk_resumeTakesEffect {t c : Nat} (hs : MemOk s) : MemOk (resumeTakesEffect t c s) := memOk_ite hs hs

/-! The functions of Sys2Proof/Machine/Resets.lean. -/

theorem memOk_cancelContexts {p : Nat} (hs : MemOk s) : MemOk (cancelContexts p s) := by
  unfold cancelContexts
  exact memOk_foldl _ (fun _ _ h => memOk_foldl _ (fun _ _ h2 => memOk_ite (memOk_cancelCommands h2) h2) _ h) _ hs

theorem memOk_endRunning {l : Launch} (hs : MemOk s) : MemOk (endRunning l s) :=
  have h1 := memOk_dropLaunch hs
  memOk_ite (memOk_journalEnd _ _ (memOk_complete (memOk_journalBegin _ _ _ _ _ _ _ _ h1))) (memOk_complete h1)

theorem memOk_endLaunches {p : Nat} (hs : MemOk s) : MemOk (endLaunches p s) := by
  unfold endLaunches
  dsimp only
  refine memOk_foldl _ (fun _ _ h => memOk_complete (memOk_dropLaunch h)) _ ?_
  split
  · exact memOk_endRunning hs
  · exact hs

theorem memOk_clearTile {p t : Nat} (hs : MemOk s) : MemOk (clearTile p t s) := by
  unfold clearTile
  extract_lets s1
  have h1 : MemOk s1 := (memOk_clearPoison _ _).2 ((memOk_forgetWrites _ _).2 (Memory.wf_clear hs _ _))
  exact (memOk_modTile _ _).2 h1

theorem memOk_clearTiles {p : Nat} (hs : MemOk s) : MemOk (clearTiles p s) := by
  unfold clearTiles
  extract_lets _ s1
  have h1 : MemOk s1 := memOk_foldl _ (fun _ _ => memOk_clearTile) _ (memOk_clearBars hs)
  clear_value s1
  exact memOk_of_mem h1 rfl

theorem memOk_clearPartition {p : Nat} (hs : MemOk s) : MemOk (clearPartition p s) := by
  unfold clearPartition
  extract_lets _ driven s1 s2 s3
  have h1 : MemOk s1 := memOk_clearTiles (memOk_ite hs (memOk_endLaunches hs))
  have h2 : MemOk s2 := memOk_foldl _ (fun _ _ h => memOk_journalEnd _ _ h) _ h1
  have h3 : MemOk s3 := (memOk_modPart _ _).2 h2
  split
  · exact memOk_of_mem h3 rfl
  · exact (memOk_modPart _ _).2 (memOk_of_mem h3 rfl)

theorem memOk_clearComplete {p : Nat} (hs : MemOk s) : MemOk (clearComplete p s) :=
  memOk_ite (memOk_clearPartition hs) hs

theorem memOk_beginPartReset {p n : Nat} (hs : MemOk s) : MemOk (beginPartReset p n s) :=
  memOk_ite (memOk_cancelContexts hs) hs

theorem memOk_partReset {master p : Nat} (hs : MemOk s) : MemOk (partReset master p s).2 :=
  memOk_beginPartReset (memOk_journalBegin _ _ _ _ _ _ _ _ hs)

theorem memOk_queueResetBy {master q : Nat} (hs : MemOk s) : MemOk (queueResetBy master q s).2 := by
  unfold queueResetBy
  split
  next n s1 e =>
    have h1 : MemOk s1 := memOk_of_snd e (memOk_journalBegin _ _ _ _ _ _ _ _ hs)
    split
    · exact (memOk_modQueue _ _).2 h1
    · exact (memOk_modPart _ _).2 h1
    · exact memOk_settleReset (memOk_foldl _ (fun _ _ => memOk_beginPartReset) _ ((memOk_modQueue _ _).2 h1))

theorem memOk_atStage {n : Nat} (hs : MemOk s) : MemOk (atStage n s) := hs

theorem memOk_stageFails (hs : MemOk s) : MemOk (stageFails s) := hs

theorem memOk_loadFirmware {m : Memory} (hs : MemOk s) : MemOk (loadFirmware m s) := by
  unfold loadFirmware
  extract_lets _ s1 s2 s3
  have h1 : MemOk s1 := memOk_foldl _ (fun _ _ h => memOk_placeFresh _ _ _ _ h) _ hs
  have h2 : MemOk s2 := (memOk_setTile _ _).2 h1
  have h3 : MemOk s3 := (memOk_setCtx _ _ _).2 h2
  exact (memOk_modCtx _ _ _).2 h3

theorem memOk_measureSlot {b : Bool} (hs : MemOk s) : MemOk (measureSlot b s) := hs

theorem memOk_measureConfig (hs : MemOk s) : MemOk (measureConfig s) := hs

theorem memOk_bootEnds {l : List Nat} (hs : MemOk s) : MemOk (bootEnds l s) := by
  unfold bootEnds
  exact memOk_foldl _ (fun _ _ h => memOk_journalEnd _ _ h) _ hs

theorem wf_foldl {α : Type} {f : Memory → α → Memory} (hf : ∀ m a, m.wf = true → (f m a).wf = true) :
    ∀ (l : List α) {m : Memory}, m.wf = true → (l.foldl f m).wf = true
  | [], _, h => h
  | a :: l, _, h => wf_foldl hf l (hf _ a h)

theorem memOk_relocate {new : Sparse Nat} (hs : MemOk s) : MemOk (relocate new s) := by
  unfold relocate
  extract_lets moved _ _ cells _ _ mem
  have hcells : ∀ (m : Memory) t, m.wf = true → (cells t m).wf = true := by
    intro m t h
    unfold cells
    split
    · exact Memory.wf_place h _ _ _ _
    · exact Memory.wf_clear h _ _
  have hmem : mem.wf = true := wf_foldl hcells moved hs
  clear_value mem
  unfold MemOk
  dsimp only
  split
  · exact Memory.wf_place hmem _ _ _ _
  · exact hmem

theorem memOk_clearJournal (hs : MemOk s) : MemOk (clearJournal s) :=
  memOk_vaultStore _ _ _ (memOk_vaultStore _ _ _ (Memory.wf_clear hs _ _))

theorem memOk_bootStage {cold : Bool} {l : List Nat} (hs : MemOk s) : MemOk (bootStage cold l s) := by
  unfold bootStage
  split
  · exact memOk_atStage hs
  · exact memOk_atStage hs
  · exact memOk_ite (memOk_stageFails hs) (memOk_atStage hs)
  · split
    · exact memOk_stageFails hs
    · exact memOk_atStage (memOk_measureSlot hs)
  · split
    · exact memOk_stageFails hs
    · exact memOk_atStage (memOk_relocate hs)
  · exact memOk_ite (memOk_stageFails hs) (memOk_atStage (memOk_ite (memOk_clearJournal hs) hs))
  · exact memOk_atStage (memOk_measureConfig (memOk_loadFirmware hs))
  · exact memOk_bootEnds hs

theorem memOk_bootGo (hs : MemOk s) : MemOk (bootGo s) := by
  unfold bootGo
  split
  · exact memOk_ite hs (memOk_bootStage hs)
  · exact hs

theorem memOk_appendDefects (hs : MemOk s) : MemOk (appendDefects s) := hs

theorem memOk_deviceResetBy {master : Nat} (hs : MemOk s) : MemOk (deviceResetBy master s).2 := by
  unfold deviceResetBy
  dsimp only
  have h1 := memOk_appendDefects (memOk_foldl (fun s k => journalEnd k (completionWord 7 0 0) s)
    (fun _ _ h => memOk_journalEnd _ _ h) (openResets s) (memOk_journalBegin master 0xFF 0x12 0xFF 0 0 0 0 hs))
  exact Memory.wf_filter h1 _

theorem memOk_powerOn (hs : MemOk s) : MemOk (powerOn s) := Memory.wf_filter (memOk_appendDefects hs) _

theorem memOk_joinReset {master queue kind part : Nat} (hs : MemOk s) :
    MemOk (joinReset master queue kind part s).2 :=
  memOk_of_mem (memOk_journalBegin _ _ _ _ _ _ _ _ hs) rfl

theorem memOk_fwAccepted {r : Nat × State} (h : MemOk r.2) : MemOk (fwAccepted r) := h

theorem memOk_hostFw {f : State → Nat × State} (hf : ∀ u, MemOk u → MemOk (f u).2) (hs : MemOk s) :
    MemOk (hostFw f s) :=
  memOk_ite (memOk_fwAccepted (hf _ hs)) hs

theorem memOk_respond {code seq : Nat} {data : List Byte} (hs : MemOk s) : MemOk (respond code seq data s) := hs

theorem memOk_releaseHalt {p : Nat} (hs : MemOk s) : MemOk (releaseHalt p s) := by
  unfold releaseHalt
  exact memOk_foldl _ (fun _ _ h => (memOk_modTile _ _).2 h) _ hs

theorem memOk_pctlSetHalt {p : Nat} {b : Bool} (hs : MemOk s) : MemOk (pctlSetHalt p b s) :=
  memOk_ite hs (memOk_ite hs (memOk_releaseHalt hs))

theorem memOk_pctlCancel {p : Nat} (hs : MemOk s) : MemOk (pctlCancel p s) := memOk_ite (memOk_cancelContexts hs) hs

theorem memOk_pctlClear {p : Nat} (hs : MemOk s) : MemOk (pctlClear p s) := memOk_ite hs hs

theorem memOk_pctlRun {p : Nat} {b : Bool} (hs : MemOk s) : MemOk (pctlRun p b s) := hs

theorem memOk_pctlWrite {p : Nat} {v : Word} (hs : MemOk s) : MemOk (pctlWrite p v s) :=
  have h1 := memOk_pctlRun (memOk_pctlSetHalt hs)
  have h2 := memOk_ite (memOk_pctlCancel h1) h1
  memOk_ite (memOk_pctlClear h2) h2

theorem memOk_qend {v : Nat} (hs : MemOk s) : MemOk (qend v s) := by
  unfold qend
  split
  · exact memOk_ite (memOk_finish (memOk_dropLaunch (memOk_ite hs (memOk_hostWrite _ _ _ _ hs)))) hs
  · exact hs

theorem memOk_fwReg {d : Fin 16} {v : Word} (hs : MemOk s) : MemOk (fwReg d v s) := hs

theorem memOk_evwait {d : Fin 16} (hs : MemOk s) : MemOk (evwait d s) := memOk_ite hs (memOk_fwReg hs)

theorem memOk_writeJw {k : Nat} {v : Word} (hs : MemOk s) : MemOk (writeJw k v s) :=
  memOk_ite hs (memOk_vaultStore _ _ _ hs)

/-! The functions of Sys2Proof/Machine/Upset.lean. -/

theorem memOk_sramCorrected {t a : Nat} (hs : MemOk s) : MemOk (sramCorrected t a s) := hs

theorem memOk_correctsNow {t a : Nat} (hs : MemOk s) : MemOk (correctsNow t a s) :=
  memOk_ite hs (memOk_countCorrected hs)

theorem memOk_evictEntry {t which k : Nat} (hs : MemOk s) : MemOk (evictEntry t which k s) := hs

theorem memOk_hardError {t : Nat} (hs : MemOk s) : MemOk (hardError t s) :=
  memOk_machineCheckTile _ _ (memOk_relAdd (memOk_toNominal hs))

theorem memOk_otherError {t a k : Nat} {e : ErrKind} (hs : MemOk s) : MemOk (otherError t a k e s) := by
  unfold otherError
  split
  · exact memOk_countCorrected hs
  · split
    · exact memOk_countCorrected (memOk_evictEntry hs)
    · split
      · exact memOk_sramCorrected hs
      · exact memOk_hardError hs
      · exact memOk_hardError hs

theorem memOk_sramError {t a : Nat} {k : ErrKind} {poison : State → State}
    (hpoison : ∀ u, MemOk u → MemOk (poison u)) (hs : MemOk s) : MemOk (sramError t a k poison s) := by
  unfold sramError
  split
  · exact memOk_sramCorrected hs
  · exact memOk_relAdd (memOk_toNominal hs)
  · exact memOk_relAdd (memOk_relAdd (hpoison _ (memOk_toNominal hs)))

theorem memOk_upset {t off : Nat} {e : Option ErrKind} (hs : MemOk s) : MemOk (upset t off e s) := by
  unfold upset
  split
  · exact memOk_sramCorrected hs
  · exact memOk_ite hs <| memOk_ite (memOk_ite (memOk_sramError (fun _ h => (memOk_setSegPoison _ _).2 h) hs) hs) <|
      memOk_ite (memOk_sramError (fun _ h => (memOk_modTile _ _).2 h) hs) <|
      memOk_ite (memOk_sramError (fun _ h => (memOk_modTile _ _).2 h) hs) <| memOk_ite (memOk_mirrorMismatch hs) <|
      memOk_otherError hs

/-! The functions of Sys2Proof/Machine/Vaults.lean. -/

theorem memOk_modVault {t : Nat} {f : Vault → Vault} (hs : MemOk s) : MemOk (modVault t f s) := hs

theorem memOk_refresh {t k : Nat} (hs : MemOk s) : MemOk (refresh t k s) := memOk_ite (memOk_modVault hs) hs

theorem memOk_reopen {t : Nat} (hs : MemOk s) : MemOk (reopen t s) := by
  unfold reopen
  split
  · exact hs
  · refine memOk_foldl _ (fun _ _ h1 => ?_) _ hs
    split
    · exact memOk_ite h1 (memOk_touchBank (memOk_modVault h1))
    · exact h1

theorem memOk_refreshEnd {t k : Nat} (hs : MemOk s) : MemOk (refreshEnd t k s) := by
  unfold refreshEnd
  split
  · exact memOk_ite (memOk_reopen (memOk_modVault hs)) hs
  · exact hs

theorem memOk_holdEntered {t : Nat} (hs : MemOk s) : MemOk (holdEntered t s) :=
  memOk_ite (memOk_reopen (memOk_modVault hs)) hs

theorem memOk_thermalSample {t : Nat} {temp : ℤ} (hs : MemOk s) : MemOk (thermalSample t temp s) :=
  memOk_reopen (memOk_modVault (memOk_ite (memOk_toNominal hs) hs))

theorem memOk_maintenanceHold {t : Nat} (hs : MemOk s) : MemOk (maintenanceHold t s) := memOk_modVault hs

theorem memOk_maintenanceRelease {t : Nat} (hs : MemOk s) : MemOk (maintenanceRelease t s) :=
  memOk_reopen (memOk_modVault hs)

theorem memOk_readRow {t row : Nat} (hs : MemOk s) : MemOk (readRow t row s) := by
  unfold readRow
  exact memOk_foldl _ (fun _ _ => memOk_checkSegment) _ hs

theorem memOk_rowRepairDone {t bank r : Nat} (hs : MemOk s) : MemOk (rowRepairDone t bank r s) :=
  memOk_ite
    (memOk_journalEnd _ _ (memOk_journalBegin _ _ _ _ _ _ _ _ (memOk_modVault (memOk_relAdd (memOk_readRow hs))))) hs

theorem memOk_patrolScrub {t : Nat} (hs : MemOk s) : MemOk (patrolScrub t s) := by
  unfold patrolScrub
  extract_lets
  split
  · exact memOk_reportRow hs
  · exact hs
  · exact memOk_modVault (memOk_touchBank (memOk_checkSegment hs))

theorem memOk_sramScrub {t : Nat} (hs : MemOk s) : MemOk (sramScrub t s) := by
  unfold sramScrub
  exact memOk_foldl _ (fun _ _ => memOk_countCorrected) _ hs

theorem memOk_matrixSpareSwitch {t : Nat} (hs : MemOk s) : MemOk (matrixSpareSwitch t s) := memOk_ite hs hs

theorem memOk_spareSwitches (hs : MemOk s) : MemOk (spareSwitches s) := by
  unfold spareSwitches
  exact memOk_foldl _ (fun _ _ => memOk_matrixSpareSwitch) _ hs

theorem memOk_uvWindow {n : Nat} (hs : MemOk s) : MemOk (uvWindow n s) := memOk_ite hs hs

theorem memOk_verificationWindow {n : Nat} (hs : MemOk s) : MemOk (verificationWindow n s) := by
  unfold verificationWindow
  extract_lets _ s1
  have h1 : MemOk s1 := memOk_foldl _ (fun _ _ h => memOk_ite (memOk_sramScrub h) h) _ hs
  exact memOk_ite hs (memOk_ite h1 (memOk_of_mem h1 rfl))

theorem memOk_verificationWindowEnd {n : Nat} (hs : MemOk s) : MemOk (verificationWindowEnd n s) := by
  unfold verificationWindowEnd
  extract_lets _ _ _ s1 s2
  have h1 : MemOk s1 := hs
  have h2 : MemOk s2 := memOk_foldl _ (fun _ _ h => (memOk_modTile _ _).2 h) _ h1
  exact memOk_ite (memOk_ite h2 ((memOk_raiseMsix _).2 (memOk_of_mem h2 rfl))) hs

/-! The functions of Sys2Proof/Machine/Device.lean. -/

theorem memOk_plainWrite {off : Nat} {v cover : Word} (hs : MemOk s) : MemOk (plainWrite off v cover s) :=
  memOk_ite hs (memOk_ite hs hs)

theorem memOk_queueWrite {q off : Nat} {v cover : Word} (hs : MemOk s) : MemOk (queueWrite q off v cover s) := by
  unfold queueWrite
  extract_lets
  split
  · exact memOk_ite hs hs
  · exact memOk_ite hs (memOk_ite (memOk_noteWaiting hs) hs)
  · exact memOk_qtail hs
  · exact hs

theorem memOk_startShoot {v : Word} (hs : MemOk s) : MemOk (startShoot v s) := memOk_ite hs hs

theorem memOk_shootWrite {v : Word} (hs : MemOk s) : MemOk (shootWrite v s) :=
  memOk_ite hs (memOk_startShoot (memOk_plainWrite hs))

theorem memOk_shootdownComplete (hs : MemOk s) : MemOk (shootdownComplete s) := by
  unfold shootdownComplete
  split
  · exact memOk_ite hs hs
  · exact hs

theorem memOk_crst {v : Word} (hs : MemOk s) : MemOk (crst v s) := hs

theorem memOk_hostStore8 {pa : Nat} {v cover : Word} (hs : MemOk s) : MemOk (hostStore8 pa v cover s) := by
  unfold hostStore8
  exact memOk_foldl _ (fun _ _ h => memOk_ite (memOk_mirrorWrite _ _ _ _ (memOk_homeStore _ _ _ _ h)) h) _ hs

theorem memOk_hostWrites {h : HostAcc} (hs : MemOk s) : MemOk (hostWrites h s) :=
  memOk_of_mem (memOk_hostStore8 hs) rfl

theorem memOk_hostPerform {h : HostAcc} (hs : MemOk s) : MemOk (hostPerform h s) :=
  have h1 := memOk_ite (memOk_touchBank hs) hs
  memOk_ite (memOk_hostWrites h1) (memOk_of_mem (memOk_checkSegment h1) rfl)

theorem memOk_hostReports {h : HostAcc} (hs : MemOk s) : MemOk (hostReports h s) := by
  unfold hostReports
  split
  · exact memOk_reportRow hs
  · exact hs

theorem memOk_hostArrives {h : HostAcc} (hs : MemOk s) : MemOk (hostArrives h s) :=
  memOk_ite (memOk_hostPerform hs) (memOk_hostReports hs)

theorem memOk_hostGo (hs : MemOk s) : MemOk (hostGo s) := by
  unfold hostGo
  split
  · exact memOk_hostPerform hs
  · exact memOk_foldl _ (fun _ _ => memOk_hostReports) _ hs

theorem memOk_mbdata {v cover : Word} (hs : MemOk s) : MemOk (mbdata v cover s) :=
  memOk_ite (memOk_of_mem (memOk_hostArrives hs) rfl) hs

theorem memOk_relclr {v : Word} (hs : MemOk s) : MemOk (relclr v s) := memOk_ite hs hs

theorem memOk_fwcmd (hs : MemOk s) : MemOk (fwcmd s) := by
  unfold fwcmd
  extract_lets
  split
  · exact memOk_hostFw (fun _ => memOk_queueResetBy) hs
  · exact memOk_ite (memOk_hostFw (fun _ => memOk_partReset) hs) hs
  · exact memOk_hostFw (fun _ => memOk_deviceResetBy) hs
  · exact hs

theorem memOk_acceptNext (hs : MemOk s) : MemOk (acceptNext s) := by
  unfold acceptNext
  split
  · exact hs
  · exact memOk_fwcmd hs
  · exact memOk_readHead hs

theorem memOk_acceptAll (hs : MemOk s) : MemOk (acceptAll s) := by
  unfold acceptAll
  exact memOk_foldl _ (fun _ _ => memOk_acceptNext) _ hs

theorem memOk_sideReset {queue kind part : Nat} {f : State → Nat × State} (hf : ∀ u, MemOk u → MemOk (f u).2)
    (hs : MemOk s) : MemOk (sideReset queue kind part f s) :=
  have h1 := memOk_acceptAll hs
  memOk_ite (memOk_respond (memOk_joinReset h1)) (memOk_ite (memOk_respond (hf _ h1)) h1)

theorem memOk_sideQueueReset {q : Nat} (hs : MemOk s) : MemOk (sideQueueReset q s) :=
  memOk_sideReset (fun _ => memOk_queueResetBy) hs

theorem memOk_sidePartitionReset {p : Nat} (hs : MemOk s) : MemOk (sidePartitionReset p s) :=
  memOk_sideReset (fun _ => memOk_partReset) hs

theorem memOk_sideDeviceReset (hs : MemOk s) : MemOk (sideDeviceReset s) :=
  memOk_sideReset (fun _ => memOk_deviceResetBy) hs

theorem memOk_fwcmdWrite {v cover : Word} (hs : MemOk s) : MemOk (fwcmdWrite v cover s) :=
  memOk_ite hs (memOk_of_mem (memOk_plainWrite hs) rfl)

theorem memOk_writeBar0 {off : Nat} {v cover : Word} (hs : MemOk s) : MemOk (writeBar0 off v cover s) := by
  unfold writeBar0
  split
  · exact memOk_ite (memOk_queueWrite hs) hs
  · split
    · exact memOk_of_mem hs rfl
    · split
      · exact memOk_ite (memOk_shootWrite hs) (memOk_plainWrite hs)
      · exact memOk_ite (memOk_crst hs) hs
      · exact memOk_ite (memOk_fwcmdWrite hs) (memOk_plainWrite hs)
      · exact memOk_of_mem hs rfl
      · exact memOk_mbdata hs
      · exact memOk_ite (memOk_relclr hs) hs
      · exact memOk_of_mem hs rfl
      · exact memOk_of_mem (memOk_plainWrite hs) rfl
      · exact memOk_plainWrite hs

theorem memOk_readFcb {off : Nat} (hs : MemOk s) : MemOk (readFcb off s).2 := by
  unfold readFcb
  split
  · exact hs
  · split
    · exact hs
    · split
      · exact hs
      · split
        · exact hs
        · exact hs
        · exact memOk_journalAlloc hs
        · exact hs
        · exact hs

theorem memOk_writeFcb {off : Nat} {v : Word} (hs : MemOk s) : MemOk (writeFcb off v s) := by
  unfold writeFcb
  split
  · exact memOk_pctlWrite hs
  · split
    · exact memOk_writeJw hs
    · split
      · exact hs
      · exact memOk_qend hs
      · exact hs
      · exact hs

theorem memOk_readTileReg {t off : Nat} (hs : MemOk s) : MemOk (readTileReg t off s).2 :=
  memOk_snd_ite hs <| memOk_snd_ite hs <|
    memOk_snd_ite (memOk_snd_ite (memOk_snd_ite (memOk_freshValue hs) hs) (memOk_snd_ite hs hs)) <|
    memOk_snd_ite hs hs

theorem memOk_unselect {t k i : Nat} (hs : MemOk s) : MemOk (unselect t k i s) :=
  memOk_ite ((memOk_modCore _ _ _).2 (memOk_freshValue hs)) hs

theorem memOk_writeTileReg {t off : Nat} {v : Word} (hs : MemOk s) : MemOk (writeTileReg t off v s) :=
  memOk_ite hs <| memOk_ite hs <| memOk_ite ((memOk_modCore _ _ _).2 (memOk_ite (memOk_unselect hs) hs)) <|
    memOk_ite hs hs

theorem memOk_readControl {t pa : Nat} (hs : MemOk s) : MemOk (readControl t pa s).2 :=
  memOk_snd_ite (memOk_readTileReg hs) (memOk_snd_ite hs (memOk_snd_ite (memOk_readFcb hs) hs))

theorem memOk_writeControl0 {t pa : Nat} {v : Word} (hs : MemOk s) : MemOk (writeControl0 t pa v s) :=
  memOk_ite (memOk_writeTileReg hs) (memOk_ite (memOk_writeBar0 hs) (memOk_ite (memOk_writeFcb hs) hs))

/-! The functions of Sys2Proof/Machine/Port.lean. -/

theorem memOk_readUnits {t pa n : Nat} (hs : MemOk s) : MemOk (readUnits t pa n s).2 := by
  induction n generalizing pa s with
  | zero => exact hs
  | succ n ih => exact ih (memOk_readControl hs)

theorem memOk_dbgEnd {r : DbgReport} (hs : MemOk s) : MemOk (dbgEnd r s) := hs

theorem memOk_dbgWait {op : Nat} (hs : MemOk s) : MemOk (dbgWait op s) := by
  unfold dbgWait
  split
  exact hs

theorem memOk_whenHalted {k : State → State} (hs : MemOk s) (hk : ∀ u, MemOk u → MemOk (k u)) :
    MemOk (whenHalted s k) :=
  memOk_ite (hk _ hs) (memOk_dbgEnd hs)

theorem memOk_dbgHalt (hs : MemOk s) : MemOk (dbgHalt s) :=
  memOk_ite (memOk_dbgEnd hs) <| memOk_ite (memOk_dbgEnd hs) <| memOk_ite (memOk_dbgWait hs) <| memOk_dbgEnd <|
    memOk_debugStop hs

theorem memOk_requestResume {one : Bool} (hs : MemOk s) : MemOk (requestResume one s) :=
  memOk_whenHalted hs fun _ h => memOk_dbgEnd ((memOk_modCtx _ _ _).2 h)

theorem memOk_dbgResume (hs : MemOk s) : MemOk (dbgResume s) := memOk_requestResume hs

theorem memOk_dbgStep (hs : MemOk s) : MemOk (dbgStep s) := memOk_requestResume hs

theorem memOk_rdreg {i : Nat} (hs : MemOk s) : MemOk (rdreg i s) := by
  unfold rdreg
  refine memOk_whenHalted hs fun _ h1 => ?_
  extract_lets
  split
  · exact memOk_dbgEnd (memOk_of_mem h1 rfl)
  · split
    · split
      · exact memOk_dbgEnd (memOk_of_mem h1 rfl)
      · exact memOk_dbgEnd h1
    · exact memOk_ite (memOk_dbgEnd (memOk_of_mem h1 rfl)) (memOk_dbgEnd h1)

theorem memOk_wrreg {i : Nat} (hs : MemOk s) : MemOk (wrreg i s) := by
  unfold wrreg
  refine memOk_whenHalted hs fun _ h1 => ?_
  extract_lets
  split
  · exact memOk_dbgEnd ((memOk_modCtx _ _ _).2 h1)
  · split
    · split
      · exact memOk_ite (memOk_dbgEnd h1) (memOk_dbgEnd (memOk_putCreg h1))
      · exact memOk_dbgEnd h1
    · exact memOk_dbgEnd h1

theorem memOk_rdrow {i k : Nat} (hs : MemOk s) : MemOk (rdrow i k s) := by
  unfold rdrow
  refine memOk_whenHalted hs fun _ h => ?_
  extract_lets
  split
  · exact memOk_dbgEnd h
  · split
    · exact memOk_dbgEnd (memOk_of_mem h rfl)
    · extract_lets g r s1
      have h1 : MemOk s1 := (memOk_modTile _ _).2 h
      exact memOk_ite (memOk_dbgWait h) (memOk_dbgEnd (memOk_of_mem h1 rfl))

theorem memOk_wrrow {i k : Nat} (hs : MemOk s) : MemOk (wrrow i k s) := by
  unfold wrrow
  refine memOk_whenHalted hs fun _ h1 => ?_
  extract_lets
  split
  · exact memOk_dbgEnd h1
  · split
    · exact memOk_dbgEnd h1
    · exact memOk_ite (memOk_dbgWait h1) (memOk_dbgEnd ((memOk_modTile _ _).2 h1))

theorem memOk_rdslot {i j : Nat} (hs : MemOk s) : MemOk (rdslot i j s) :=
  memOk_whenHalted hs fun _ h => memOk_ite (memOk_dbgEnd h) <| memOk_ite (memOk_dbgEnd (memOk_of_mem h rfl)) <|
    memOk_dbgEnd <| memOk_of_mem h rfl

theorem memOk_portWaits {write : Bool} (hs : MemOk s) : MemOk (portWaits write s) := by
  unfold portWaits
  split
  · exact memOk_dbgWait hs
  · extract_lets s1
    have h1 : MemOk s1 := memOk_dbgWait hs
    split
    · exact memOk_of_mem (memOk_requestPage h1) rfl
    · split
      · exact memOk_ite (memOk_reportRow (memOk_of_mem h1 rfl)) h1
      · exact memOk_ite (memOk_of_mem h1 rfl) h1
      · exact h1

theorem memOk_rdmem (hs : MemOk s) : MemOk (rdmem s) := by
  unfold rdmem
  split
  · exact memOk_dbgEnd hs
  · exact memOk_portWaits hs
  · extract_lets s1
    have h1 : MemOk s1 := memOk_fillEntry hs
    clear_value s1
    split
    · split
      next v s2 e =>
        have h2 : MemOk s2 := memOk_of_snd e (memOk_readUnits h1)
        exact memOk_dbgEnd (memOk_of_mem h2 rfl)
    · split
      next w s2 e =>
        have h2 : MemOk s2 := memOk_of_snd e (memOk_homeRead h1)
        extract_lets s3
        have h3 : MemOk s3 := memOk_ite (memOk_touchBank h2) h2
        exact memOk_dbgEnd (memOk_of_mem h3 rfl)

theorem memOk_wrmem (hs : MemOk s) : MemOk (wrmem s) := by
  unfold wrmem
  split
  · exact memOk_dbgEnd hs
  · exact memOk_portWaits hs
  · extract_lets s1 _ s2 s3
    have h1 : MemOk s1 := memOk_fillEntry hs
    split
    · exact memOk_dbgEnd (memOk_foldl _ (fun _ _ => memOk_writeControl0) _ h1)
    · have h2 : MemOk s2 := memOk_mirrorWrite _ _ _ _ (memOk_homeStore _ _ _ _ h1)
      have h3 : MemOk s3 := memOk_ite (memOk_touchBank h2) h2
      exact memOk_dbgEnd h3

theorem memOk_dbgCommand (hs : MemOk s) : MemOk (dbgCommand s) := by
  unfold dbgCommand
  extract_lets
  split
  · exact memOk_dbgHalt hs
  · exact memOk_dbgResume hs
  · exact memOk_dbgStep hs
  · exact memOk_rdreg hs
  · exact memOk_wrreg hs
  · exact memOk_rdrow hs
  · exact memOk_wrrow hs
  · exact memOk_rdmem hs
  · exact memOk_wrmem hs
  · exact memOk_rdslot hs
  · exact memOk_dbgEnd hs

theorem memOk_dbgContinue (hs : MemOk s) : MemOk (dbgContinue s) := memOk_ite (memOk_dbgCommand hs) hs

theorem memOk_dbgcmdWrite {v cover : Word} (hs : MemOk s) : MemOk (dbgcmdWrite v cover s) :=
  memOk_ite (memOk_ite hs (memOk_dbgCommand (memOk_plainWrite hs))) (memOk_plainWrite hs)

theorem memOk_writeBar {off : Nat} {v cover : Word} (hs : MemOk s) : MemOk (writeBar off v cover s) :=
  memOk_ite (memOk_dbgcmdWrite hs) (memOk_writeBar0 hs)

theorem memOk_writeControl {t pa : Nat} {v : Word} (hs : MemOk s) : MemOk (writeControl t pa v s) :=
  memOk_ite (memOk_dbgcmdWrite hs) (memOk_writeControl0 hs)

theorem memOk_registerWrite {a : Nat} {wide : Bool} {v : Word} (hs : MemOk s) : MemOk (registerWrite a wide v s) :=
  memOk_ite hs (memOk_ite (memOk_writeBar hs) (memOk_writeBar hs))

theorem memOk_bar2Read {a : Nat} (hs : MemOk s) : MemOk (bar2Read a s) := by
  unfold bar2Read
  split
  · exact memOk_ite (memOk_hostArrives hs) hs
  · exact hs

theorem memOk_bar2Write {a : Nat} {v : Word} (hs : MemOk s) : MemOk (bar2Write a v s) := by
  unfold bar2Write
  split
  · exact memOk_ite (memOk_hostArrives hs) hs
  · exact hs

theorem memOk_pageAnswered {n : Nat} {failed : Bool} (hs : MemOk s) : MemOk (pageAnswered n failed s) := hs

theorem memOk_translated {n : Nat} (hs : MemOk s) : MemOk (translated n s) := by
  unfold translated
  exact memOk_of_mem hs rfl

theorem memOk_priResponse {n : Nat} {ok : Bool} (hs : MemOk s) : MemOk (priResponse n ok s) :=
  memOk_ite (memOk_pageAnswered (memOk_ite (memOk_translated hs) hs)) hs

theorem memOk_invsDone (hs : MemOk s) : MemOk (invsDone s) := hs

theorem memOk_atsInvalidation {n : Nat} (hs : MemOk s) : MemOk (atsInvalidation n s) := by
  unfold atsInvalidation
  split
  · exact memOk_invsDone hs
  · exact memOk_ite hs hs

theorem memOk_hostChanges {n : Nat} {ro fails : Bool} (hs : MemOk s) : MemOk (hostChanges n ro fails s) := hs

theorem memOk_pcieLinkStateChange {b : Bool} (hs : MemOk s) : MemOk (pcieLinkStateChange b s) :=
  memOk_ite hs (memOk_foldl _ (fun _ _ => memOk_headArrives) _ hs)

theorem memOk_noteTraffic {s' : State} (hs' : MemOk s') : MemOk (noteTraffic s s') := by
  unfold noteTraffic
  split
  · exact hs'
  · exact hs'

theorem memOk_networkSnapshot (hs : MemOk s) : MemOk (networkSnapshot s) := by
  unfold networkSnapshot
  extract_lets _ _ _ pa _ s1 s2 s3
  have h1 : MemOk s1 := hs
  have h2 : MemOk s2 := memOk_placeFresh _ _ _ _ h1
  have h3 : MemOk s3 := memOk_of_mem h2 rfl
  exact memOk_ite (memOk_of_mem h3 rfl) hs

/-! The functions of Sys2Proof/Machine/Accesses.lean. -/

theorem memOk_bankTurn {u t c : Nat} {a : Acc} (hs : MemOk s) : MemOk (bankTurn u t c a s).2 := by
  unfold bankTurn
  dsimp only
  split
  · split
    · exact memOk_snd_ite hs (memOk_snd_ite hs hs)
    · exact memOk_snd_ite hs hs
  · exact (memOk_modTile _ _).2 (memOk_logPut _ _ _ _ _ _ hs)

theorem memOk_performWrite {t c : Nat} {a : Acc} (hs : MemOk s) : MemOk (performWrite t c a s) := by
  unfold performWrite
  split
  · exact
      have h1 := memOk_bankTurn hs
      memOk_ite (memOk_ite (memOk_performAtomic h1) h1) (memOk_performAtomic hs)
  · extract_lets s2
    have h2 : MemOk s2 := memOk_dropAcc hs
    split
    · exact memOk_writeControl h2
    · exact memOk_writeControl h2
    all_goals exact memOk_landAcc h2

theorem memOk_hostUnits {t c : Nat} {a : Acc} (hs : MemOk s) : MemOk (hostUnits t c a s) :=
  have h1 := memOk_landAcc hs
  memOk_ite (memOk_performWrite hs) (memOk_ite (memOk_dropAcc h1) (memOk_putAcc h1))

theorem memOk_mergedWrite {t c : Nat} {a : Acc} (hs : MemOk s) : MemOk (mergedWrite t c a s) :=
  memOk_ite (memOk_hostUnits hs) (memOk_ite hs (memOk_foldl _ (fun _ _ => memOk_performWrite) _ hs))

theorem memOk_storePerform {t c k : Nat} (hs : MemOk s) : MemOk (storePerform t c k s) := by
  unfold storePerform
  split
  · exact hs
  · split
    · exact memOk_ite hs hs
    · split
      · exact hs
      · split
        · exact hs
        · exact memOk_performWrite hs
        · split
          · exact memOk_queueAtomic hs
          · split
            · exact memOk_reportRow hs
            · exact hs
            · exact memOk_ite hs (memOk_performWrite (memOk_useBank hs))
        · exact memOk_ite hs (memOk_mergedWrite hs)
        · exact memOk_ite hs (memOk_performWrite hs)
        · exact memOk_ite hs (memOk_performWrite hs)

theorem memOk_remoteAccessArrival {t c k : Nat} (hs : MemOk s) : MemOk (remoteAccessArrival t c k s) := by
  unfold remoteAccessArrival
  split
  · exact hs
  · exact memOk_ite hs <| memOk_ite (memOk_ite hs (memOk_performWrite hs)) <| memOk_putAcc <| memOk_ctxRead <|
      memOk_freshId hs

theorem memOk_writeLoad {t c : Nat} {a : Acc} {v : Nat} {poison : Bool} (hs : MemOk s) :
    MemOk (writeLoad t c a v poison s) :=
  have h1 := (memOk_notePrint _ _ _ _ _).2 (memOk_dropAcc hs)
  memOk_ite ((memOk_modTile _ _).2 h1) ((memOk_modCtx _ _ _).2 h1)

theorem memOk_writeAtomic {t c : Nat} {a : Acc} (hs : MemOk s) : MemOk (writeAtomic t c a s) :=
  memOk_landBoth (memOk_dropAcc hs)

theorem memOk_readHome {t c : Nat} {a : Acc} (hs : MemOk s) : MemOk (readHome t c a s) :=
  memOk_writeLoad (memOk_ctxRead (memOk_noteRead (memOk_checkSegment hs)))

theorem memOk_hostRead {t c : Nat} {a : Acc} (hs : MemOk s) : MemOk (hostRead t c a s) :=
  have h1 := memOk_ctxRead hs
  memOk_ite (memOk_readHome hs) (memOk_ite (memOk_writeLoad h1) (memOk_putAcc h1))

theorem memOk_loadDataReturn {t c k : Nat} (hs : MemOk s) : MemOk (loadDataReturn t c k s) := by
  unfold loadDataReturn
  split
  · exact hs
  · split
    · exact hs
    · exact hs
    · exact memOk_ite (memOk_writeAtomic hs) hs
    · exact memOk_ite (memOk_landBoth (memOk_dropAcc hs)) hs
    all_goals
      split
      · exact memOk_ite (memOk_writeLoad hs) hs
      · split
        · exact hs
        · split
          · exact memOk_readHome hs
          · exact memOk_readHome hs
          · exact memOk_ite hs (memOk_readHome (memOk_useBank hs))
          · exact memOk_ite (memOk_hostRead hs) hs
          all_goals
            split
            next e => exact memOk_writeLoad (memOk_of_snd e (memOk_readControl hs))
            next => exact hs

theorem memOk_holdGroup {t c : Nat} (hs : MemOk s) : MemOk (holdGroup t c s) := by
  unfold holdGroup
  extract_lets
  split
  · exact memOk_ite (memOk_enterCause _ _ _ _ hs) hs
  · exact memOk_ite (memOk_enterCause _ _ _ _ hs) hs
  · exact hs

theorem memOk_holdMoves {t c : Nat} (hs : MemOk s) : MemOk (holdMoves t c s) := by
  unfold holdMoves
  exact memOk_foldl _ (fun _ _ => memOk_stopMove) _ hs

theorem memOk_holdImages {t c : Nat} (hs : MemOk s) : MemOk (holdImages t c s) := by
  unfold holdImages
  split
  · exact memOk_deferMat hs
  · exact hs

theorem memOk_holdTimeout {t c : Nat} (hs : MemOk s) : MemOk (holdTimeout t c s) :=
  memOk_ite hs (memOk_holdGroup (memOk_holdImages (memOk_holdMoves hs)))

theorem memOk_writeBlockTimeout {t c : Nat} (hs : MemOk s) : MemOk (writeBlockTimeout t c s) := by
  unfold writeBlockTimeout
  extract_lets
  split
  · exact memOk_ite (memOk_enterCause _ _ _ _ hs) hs
  · exact hs

/-! The functions of Sys2Proof/Machine/Control.lean. -/

theorem effOk_branch2 {n : NullCode} {a b : Fin 16} {d : Fin 16384} {c : Word → Word → Bool} (hs : MemOk s) :
    EffOk (branch2 s n a b d c) :=
  effOk_ready hs (effOk_unpoisoned hs)

theorem effOk_jumpReg {a : Fin 16} {k : Nat → Eff} (hs : MemOk s) (hk : ∀ x, EffOk (k x)) : EffOk (jumpReg s a k) :=
  effOk_ready hs (effOk_unpoisoned (effOk_ite trivial (hk _)))

theorem effOk_doJ {d : Fin 16777216} (hs : MemOk s) : EffOk (doJ d s) := hs

theorem effOk_doJl {d : Fin 16777216} (hs : MemOk s) : EffOk (doJl d s) := effOk_ready hs (memOk_wrS hs)

theorem effOk_doJr {a : Fin 16} (hs : MemOk s) : EffOk (doJr a s) := effOk_jumpReg hs fun _ => hs

theorem effOk_doJlr {a : Fin 16} (hs : MemOk s) : EffOk (doJlr a s) :=
  effOk_ready hs (effOk_jumpReg hs fun _ => memOk_wrS hs)

theorem effOk_doLoop {c : Fin 16} {n : Fin 64} {b : Fin 16} {w : Fin 4} {st : Fin 16} (hs : MemOk s) :
    EffOk (doLoop c n b w st s) := by
  unfold doLoop
  refine effOk_static (effOk_ready hs ?_)
  extract_lets
  split
  · trivial
  · refine effOk_unpoisoned ?_
    split
    · trivial
    · exact hs

/-! The functions of Sys2Proof/Machine/Hamper.lean. -/

theorem effOk_doClaim {a : Fin 16} (hs : MemOk s) : EffOk (doClaim a s) :=
  effOk_ready hs (effOk_unpoisoned (effOk_ite trivial (effOk_ite trivial hs)))

theorem memOk_grantCur {w : Word} (hs : MemOk s) : MemOk (grantCur w s).2 := hs

theorem memOk_joinQueue {w : Word} (hs : MemOk s) : MemOk (joinQueue w s) :=
  memOk_ite hs (memOk_countEvent _ _ _ _ hs)

theorem effOk_doAcq {d a : Fin 16} (hs : MemOk s) : EffOk (doAcq d a s) := by
  unfold doAcq
  refine effOk_ready hs (effOk_unpoisoned ?_)
  split
  · exact memOk_wrS hs
  · split
    · trivial
    · exact effOk_ite (memOk_wrS (memOk_grantCur hs)) (memOk_joinQueue hs)

theorem effOk_doAcqt {d a : Fin 16} (hs : MemOk s) : EffOk (doAcqt d a s) := by
  unfold doAcqt
  refine effOk_ready hs (effOk_unpoisoned ?_)
  extract_lets
  split
  · trivial
  · exact effOk_logged hs
      (fun _ _ h => effOk_ite (memOk_wrS (memOk_grantCur h)) (memOk_wrS (memOk_countEvent _ _ _ _ h)))
      (fun _ _ h => effOk_ite (memOk_wrS (memOk_grantCur h)) (memOk_wrS (memOk_countEvent _ _ _ _ h)))

theorem effOk_releaseWith {w : Word} (hs : MemOk s) : EffOk (releaseWith w s) := effOk_ite hs hs

theorem effOk_doRel {a : Fin 16} (hs : MemOk s) : EffOk (doRel a s) :=
  effOk_ready hs (effOk_unpoisoned (effOk_ite trivial (effOk_releaseWith hs)))

theorem effOk_doResq {d a : Fin 16} (hs : MemOk s) : EffOk (doResq d a s) :=
  effOk_ready hs (effOk_unpoisoned (memOk_wrS hs))

/-! The functions of Sys2Proof/Machine/Memory.lean. -/

theorem effOk_doAtomic {i : Instr} {op : Nat} {d a b : Fin 16} {c : Option (Fin 16)} {z : ASize} (hs : MemOk s) :
    EffOk (doAtomic s i op d a b c z) :=
  effOk_static (effOk_ready hs (effOk_doAccess hs))

theorem effOk_doVld {x b r : Fin 16} {d : Fin 4096} (hs : MemOk s) : EffOk (doVld x b r d s) :=
  effOk_static (effOk_ready hs (effOk_withName fun _ => effOk_readyRows hs (effOk_doAccess hs)))

theorem effOk_doVst {x b r : Fin 16} {d : Fin 4096} (hs : MemOk s) : EffOk (doVst x b r d s) :=
  effOk_static (effOk_ready hs (effOk_withName fun _ => effOk_readyRows hs (effOk_doAccess (memOk_touchReg hs))))

theorem memOk_openRowAt {t off : Nat} {pol : Pol} (hs : MemOk s) : MemOk (openRowAt t off pol s) :=
  memOk_ite hs (memOk_touchBank hs)

theorem effOk_doRowact {b : Fin 16} {d : Fin 4096} (hs : MemOk s) : EffOk (doRowact b d s) := by
  unfold doRowact
  refine effOk_static (effOk_ready hs (effOk_unpoisoned ?_))
  extract_lets
  split
  · exact effOk_ite (memOk_openRowAt hs) hs
  · exact hs

/-! The functions of Sys2Proof/Machine/Rambler.lean. -/

theorem memOk_dropWalk {u k : Nat} (hs : MemOk s) : MemOk (dropWalk u k s) := hs

theorem memOk_endWalk {u : Nat} {w : Walk} {r : Reply} (hs : MemOk s) : MemOk (endWalk u w r s) :=
  memOk_dropWalk (memOk_sendReply hs)

theorem memOk_takeUp {u : Nat} {q : AReq} {mk : Nat → Walk} (hs : MemOk s) : MemOk (takeUp u q mk s) := by
  unfold takeUp
  dsimp only
  split
  · exact memOk_sendReply hs
  · exact memOk_sendReply hs
  · split
    · exact memOk_sendReply hs
    · exact memOk_sendReply hs
    · exact memOk_ite (memOk_sendReply hs) (memOk_ite (memOk_sendReply hs) hs)

theorem memOk_agentServe {u : Nat} (hs : MemOk s) : MemOk (agentServe u s) := by
  unfold agentServe
  split
  next s1 e => exact memOk_of_fst e (memOk_nextRequest hs)
  next s1 q e =>
    have h1 : MemOk s1 := memOk_of_fst e (memOk_nextRequest hs)
    refine memOk_passEntry ?_
    split
    · exact memOk_serveHead h1
    · exact memOk_servedBy (memOk_takeUp h1)
    · exact memOk_servedBy (memOk_takeUp h1)
    · exact memOk_serveAtomic h1
    · exact memOk_serveEnd h1
    · exact h1
    · exact h1

theorem memOk_continuationArrival {k : Nat} (hs : MemOk s) : MemOk (continuationArrival k s) := by
  unfold continuationArrival
  split
  · exact hs
  · exact memOk_ite hs (memOk_ite (memOk_sendReply hs) (memOk_takeUp hs))

theorem memOk_settleWalk {u : Nat} {w : Walk} {o : Walk ⊕ Reply} (hs : MemOk s) : MemOk (settleWalk u w o s) := by
  unfold settleWalk
  split
  · exact memOk_endWalk hs
  · exact hs

/-- R210: a fetch of a record gives a state when the walk stays where it stands or has the record. -/
def FetchedOk : Fetched → Prop
  | .record _ u => MemOk u
  | .stays u => MemOk u
  | _ => True

theorem fetchedOk_fetchRecord {u : Nat} {w : Walk} {n : Nat} (hs : MemOk s) : FetchedOk (fetchRecord u w n s) := by
  unfold fetchRecord
  extract_lets _ p
  split
  · trivial
  · split
    · trivial
    · split
      · trivial
      · trivial
      · trivial
      · trivial
      · split
        · trivial
        · split
          · split
            · trivial
            · trivial
          · split
            · exact (memOk_modTile _ _).2 hs
            · split
              · trivial
              · exact hs
          · exact memOk_reportRow ((memOk_modTile _ _).2 hs)
          · exact hs
          · split
            · exact hs
            · extract_lets s1 d
              have h1 : MemOk s1 := memOk_openPieces (memOk_checkPieces (memOk_agentFill hs))
              split
              · trivial
              · exact h1

theorem memOk_walkStep {u : Nat} {w : Walk} (hs : MemOk s) : MemOk (walkStep u w s) := by
  unfold walkStep
  extract_lets _ _ size
  split
  · exact memOk_endWalk hs
  · split
    · exact memOk_settleWalk hs
    · dsimp only
      split
      · exact memOk_settleWalk hs
      · split
        · exact memOk_endWalk hs
        · split
          · exact memOk_endWalk hs
          · have hf := fetchedOk_fetchRecord (u := u) (w := w) (n := size) hs
            split
            next => exact memOk_endWalk hs
            next u1 e =>
              rw [e] at hf
              exact hf
            next => exact memOk_of_mem (memOk_freshId (memOk_dropWalk (u := u) (k := w.req.id) hs)) rfl
            next l u1 e =>
              rw [e] at hf
              exact memOk_settleWalk hf

theorem memOk_ramblerStep {t k : Nat} (hs : MemOk s) : MemOk (ramblerStep t k s) := by
  unfold ramblerStep
  split
  · exact hs
  · exact memOk_ite hs (memOk_walkStep hs)

/-! The functions of Sys2Proof/Machine/Pool.lean. -/

theorem memOk_endPool {u : Nat} {q : AReq} {r : Reply} (hs : MemOk s) : MemOk (endPool u q r s) :=
  memOk_servedBy (memOk_sendReply hs)

theorem memOk_servePool {u : Nat} {q : AReq} (hs : MemOk s) : MemOk (servePool u q s) := by
  unfold servePool
  extract_lets
  split
  · exact memOk_endPool hs
  · exact hs
  · split
    · exact memOk_endPool hs
    · exact hs
    · extract_lets
      split
      · exact memOk_endPool hs
      · exact memOk_hinderRpc hs
      · exact memOk_endPool (memOk_openPieces (memOk_checkPieces (memOk_agentFill hs)))

theorem memOk_gatherPool {u : Nat} (hs : MemOk s) : MemOk (gatherPool u s) := by
  unfold gatherPool
  split
  next s1 q e =>
    have h1 : MemOk s1 := memOk_of_fst e (memOk_nextRequest hs)
    exact memOk_ite (memOk_passEntry (memOk_servePool h1)) h1
  next s1 e => exact memOk_of_fst e (memOk_nextRequest hs)

theorem memOk_serveAttn {u : Nat} {q : AReq} (hs : MemOk s) : MemOk (serveAttn u q s) := by
  unfold serveAttn
  extract_lets
  split
  · exact memOk_endPool hs
  · exact hs
  · split
    · exact memOk_hinderRpc hs
    · exact memOk_hinderRpc hs
    · exact memOk_endPool (memOk_openPieces (memOk_checkPieces (memOk_agentFill hs)))

theorem memOk_attentionDecode {u : Nat} (hs : MemOk s) : MemOk (attentionDecode u s) := by
  unfold attentionDecode
  split
  next s1 q e =>
    have h1 : MemOk s1 := memOk_of_fst e (memOk_nextRequest hs)
    exact memOk_ite (memOk_passEntry (memOk_serveAttn h1)) h1
  next s1 e => exact memOk_of_fst e (memOk_nextRequest hs)

/-! The functions of Sys2Proof/Machine/Scalar.lean. -/

theorem effOk_scalar2 {d a b : Fin 16} {f : Word → Word → Word} (hs : MemOk s) : EffOk (scalar2 s d a b f) :=
  effOk_ready hs (memOk_wrS hs)

theorem effOk_scalar1 {d a : Fin 16} {f : Word → Word} (hs : MemOk s) : EffOk (scalar1 s d a f) :=
  effOk_ready hs (memOk_wrS hs)

theorem effOk_putFloat {d : Fin 16} {code flags : Nat} {poison : Bool} (hs : MemOk s) :
    EffOk (putFloat s d code flags poison) :=
  memOk_raiseFp (memOk_wrS hs)

theorem effOk_float2 {d a b : Fin 16} {p : Prec} {f : Num → Num → Num × Nat} (hs : MemOk s) :
    EffOk (float2 s d a b p f) :=
  effOk_ready hs (effOk_putFloat hs)

theorem effOk_doSel {d a b c : Fin 16} (hs : MemOk s) : EffOk (doSel d a b c s) := effOk_ready hs (memOk_wrS hs)

theorem effOk_doLi {d : Fin 16} {i : Fin 65536} (hs : MemOk s) : EffOk (doLi d i s) := effOk_ready hs (memOk_wrS hs)

theorem effOk_doFcmp {d a b : Fin 16} {c : FcmpPred} {p : Prec} (hs : MemOk s) : EffOk (doFcmp d a b c p s) :=
  effOk_ready hs (effOk_putFloat hs)

theorem effOk_doFcvt {d a : Fin 16} {c : FcvtOp} (hs : MemOk s) : EffOk (doFcvt d a c s) :=
  effOk_ready hs (effOk_putFloat hs)

theorem effOk_doFclass {d a : Fin 16} {p : Prec} (hs : MemOk s) : EffOk (doFclass d a p s) :=
  effOk_ready hs (effOk_putFloat hs)

theorem effOk_doFma {d a b : Fin 16} {n : Bool} {p : Prec} {c : Fin 16} (hs : MemOk s) :
    EffOk (doFma d a b n p c s) :=
  effOk_ready hs (effOk_putFloat hs)

/-! The functions of Sys2Proof/Machine/Rows.lean. -/

theorem effOk_row2 {d a b r k : Fin 16} {readsD : Bool}
    {f : BitVec 512 → BitVec 512 → BitVec 512 → BitVec 512 × Nat} (hs : MemOk s) :
    EffOk (row2 s d a b r k readsD f) :=
  effOk_withName fun _ => effOk_withName fun _ => effOk_withName fun _ => effOk_readyRows hs <| memOk_raiseFp <|
    memOk_wrRow <| memOk_touchReg <| memOk_touchReg hs

theorem effOk_row1 {d a r k : Fin 16} {f : BitVec 512 → BitVec 512 × Nat} (hs : MemOk s) :
    EffOk (row1 s d a r k f) :=
  effOk_withName fun _ => effOk_withName fun _ => effOk_readyRows hs <| memOk_raiseFp <| memOk_wrRow <|
    memOk_touchReg hs

theorem effOk_rowScalar {d a k : Fin 16} {idx : List (Fin 16)} {f : BitVec 512 → Nat × Nat} (hs : MemOk s) :
    EffOk (rowScalar s d a k idx f) :=
  effOk_withName fun _ => effOk_ready hs (effOk_readyRows hs (memOk_raiseFp (memOk_wrS (memOk_touchReg hs))))

theorem memOk_wrAll {p : Nat} {l : List Row} (hs : MemOk s) : MemOk (wrAll p l s) := by
  unfold wrAll
  exact memOk_foldl _ (fun _ _ => memOk_wrRow) _ hs

theorem effOk_tile1 {d a : Fin 16} {f : List Row → List Row} (hs : MemOk s) : EffOk (tile1 s d a f) :=
  effOk_withName fun _ => effOk_withName fun _ => effOk_readyRows hs (memOk_wrAll (memOk_touchReg hs))

theorem effOk_doVbcst {d a r : Fin 16} {t : Ty} (hs : MemOk s) : EffOk (doVbcst d a r t s) :=
  effOk_withName fun _ => effOk_ready hs (effOk_readyRows hs (memOk_raiseFp (memOk_wrRow hs)))

theorem effOk_doVins {d a b r : Fin 16} {t : Ty} (hs : MemOk s) : EffOk (doVins d a b r t s) :=
  effOk_withName fun _ => effOk_ready hs (effOk_readyRows hs (memOk_raiseFp (memOk_wrRow hs)))

theorem effOk_doXzero {d : Fin 16} (hs : MemOk s) : EffOk (doXzero d s) :=
  effOk_withName fun _ => effOk_readyRows hs (memOk_wrAll hs)

theorem effOk_doXfill {d a : Fin 16} (hs : MemOk s) : EffOk (doXfill d a s) :=
  effOk_withName fun _ => effOk_ready hs (effOk_readyRows hs (memOk_wrAll hs))

/-! The functions of Sys2Proof/Machine/Side.lean. -/

theorem memOk_mctpControl (hs : MemOk s) : MemOk (mctpControl s) := hs

theorem memOk_unservedMctpMessage (hs : MemOk s) : MemOk (unservedMctpMessage s) := hs

theorem memOk_getId {k : Nat} (hs : MemOk s) : MemOk (getId k s) := memOk_respond hs

theorem memOk_booted {s k : State} (hs : MemOk s) (hk : MemOk k) : MemOk (booted s k) := memOk_ite hs hk

theorem memOk_attest {nonce : BitVec 256} (hs : MemOk s) : MemOk (attest nonce s) :=
  memOk_booted hs (memOk_respond hs)

theorem memOk_whenServed {t : Nat} {ask : Bool × Nat × Nat × Nat} {s k : State} (hs : MemOk s) (hk : MemOk k) :
    MemOk (whenServed t ask s k) :=
  memOk_ite hk hs

theorem memOk_journalRead {v k : Nat} (hs : MemOk s) : MemOk (journalRead v k s) :=
  memOk_booted hs <| memOk_ite (memOk_respond hs) <| memOk_whenServed hs <|
    memOk_ite (memOk_respond (memOk_foldl _ (fun _ _ => memOk_checkSegment) _ hs)) <| memOk_respond hs

theorem memOk_telemetry {k m : Nat} (hs : MemOk s) : MemOk (telemetry k m s) :=
  memOk_ite (memOk_respond hs) (memOk_ite (memOk_respond hs) (memOk_respond hs))

theorem memOk_dumpRead {v k m : Nat} (hs : MemOk s) : MemOk (dumpRead v k m s) := by
  unfold dumpRead
  refine memOk_booted hs ?_
  split
  · exact memOk_respond hs
  · split
    · exact memOk_ite (memOk_whenServed hs (memOk_respond (memOk_checkRange hs))) (memOk_respond hs)
    · exact memOk_respond hs

theorem memOk_sideGo (hs : MemOk s) : MemOk (sideGo s) := by
  unfold sideGo
  split
  · exact hs
  · exact memOk_ite hs (memOk_ite (memOk_dumpRead hs) (memOk_journalRead hs))

theorem memOk_updateNumber (hs : MemOk s) : MemOk (updateNumber s).2 := memOk_snd_ite (memOk_journalAlloc hs) hs

theorem memOk_fwBegin (hs : MemOk s) : MemOk (fwBegin s) :=
  have h1 := memOk_acceptAll hs
  memOk_ite (memOk_respond h1) (memOk_respond (memOk_of_mem (memOk_updateNumber h1) rfl))

theorem memOk_fwData {k : Nat} {data : List Byte} (hs : MemOk s) : MemOk (fwData k data s) := by
  unfold fwData
  extract_lets s1
  have h1 : MemOk s1 := memOk_acceptAll hs
  clear_value s1
  refine memOk_ite (memOk_respond h1) (memOk_ite (memOk_respond h1) ?_)
  split
  next n s2 e =>
    have h2 : MemOk s2 := memOk_of_snd e (memOk_updateNumber h1)
    exact memOk_ite (memOk_respond (memOk_of_mem h2 rfl)) (memOk_respond (memOk_of_mem h2 rfl))

theorem memOk_commitEntry (hs : MemOk s) : MemOk (commitEntry s).2 :=
  memOk_snd_ite (memOk_journalEnd _ _ (memOk_journalBegin _ _ _ _ _ _ _ _ hs)) hs

theorem memOk_fwCommit (hs : MemOk s) : MemOk (fwCommit s) := by
  unfold fwCommit
  extract_lets s1 _ s2
  have h1 : MemOk s1 := memOk_acceptAll hs
  have h2 : MemOk s2 := memOk_of_mem h1 rfl
  refine memOk_ite (memOk_respond h1) (memOk_ite ?_ (memOk_respond h2))
  split
  next n s3 e =>
    have h3 : MemOk s3 := memOk_of_snd e (memOk_commitEntry h2)
    exact memOk_respond (memOk_of_mem h3 rfl)

theorem memOk_sideMessage {m : List Byte} (hs : MemOk s) : MemOk (sideMessage m s) := by
  unfold sideMessage
  extract_lets
  split
  · exact memOk_respond hs
  · split
    · exact memOk_getId hs
    · exact memOk_attest hs
    · exact memOk_journalRead hs
    · exact memOk_telemetry hs
    · exact memOk_dumpRead hs
    · exact memOk_ite (memOk_respond hs) (memOk_sideQueueReset hs)
    · exact memOk_ite (memOk_respond hs) (memOk_sidePartitionReset hs)
    · exact memOk_sideDeviceReset hs
    · exact memOk_fwBegin hs
    · exact memOk_fwData hs
    · exact memOk_fwCommit hs
    · exact memOk_respond hs

theorem memOk_peerLinkFailure {k : Nat} (hs : MemOk s) : MemOk (peerLinkFailure k s) := by
  unfold peerLinkFailure
  extract_lets _ s1 s2
  have h1 : MemOk s1 := hs
  have h2 : MemOk s2 := memOk_foldl _ (fun _ _ => memOk_sendReply) _ h1
  exact memOk_foldl _ (fun _ _ h => memOk_foldl _ (fun _ _ h4 => memOk_ite (memOk_faultCopy h4) h4) _ h) _ h2

/-! The functions of Sys2Proof/Machine/Issue.lean. -/

theorem memOk_holdFrom {t c : Nat} {base : State} (hs : MemOk base) : MemOk (holdFrom t c base s) := by
  unfold holdFrom
  extract_lets _ b1
  have h1 : MemOk b1 := memOk_of_mem hs rfl
  exact (memOk_waitGroup _ _ _).2 (memOk_ite ((memOk_modCtx _ _ _).2 h1) h1)

theorem memOk_keepNames {t c : Nat} (hs : MemOk s) : MemOk (keepNames t c s) := hs

theorem memOk_startFrame {t w : Nat} {pfx : Option Pfx} {touch : List (Nat × Nat × Bool)} (hs : MemOk s) :
    MemOk (startFrame t w pfx touch s) :=
  hs

theorem memOk_firmFetch {t c : Nat} (hs : MemOk s) : MemOk (firmFetch t c s) := memOk_ite (memOk_checkRange hs) hs

theorem memOk_finishAfter {t c : Nat} {a : AfterLoad} (hs : MemOk s) : MemOk (finishAfter t c a s) :=
  memOk_ite hs (memOk_afterGroup _ _ _ _ _ hs)

theorem memOk_afterRing {t k i : Nat} (hs : MemOk s) : MemOk (afterRing t k i s) := memOk_ite hs hs

theorem memOk_endTurn {s' : State} (hs' : MemOk s') : MemOk (endTurn s s') := by
  unfold endTurn
  split
  all_goals exact hs'

/-! The functions of Sys2Proof/Machine/Step.lean. -/

/-- The step `o` gives a next state, whose memory is in canonical form when `P` holds: `P` is that the memory before
the step was. -/
def Goes (P : Prop) (o : Host.Outcome State Fault Refusal) : Prop := ∃ u, o = .next u ∧ (P → MemOk u)

theorem goes_next {P : Prop} {u : State} (h : P → MemOk u) : Goes P (.next u) := ⟨u, rfl, h⟩

theorem Goes.mono {P Q : Prop} {o : Host.Outcome State Fault Refusal} (h : Goes Q o) (hPQ : P → Q) : Goes P o := by
  obtain ⟨u, rfl, hu⟩ := h
  exact ⟨u, rfl, fun hp => hu (hPQ hp)⟩

theorem goes_ite {P c : Prop} [Decidable c] {a b : Host.Outcome State Fault Refusal} (ha : Goes P a)
    (hb : Goes P b) : Goes P (if c then a else b) := by
  split
  · exact ha
  · exact hb

theorem goes_andThen {P : Prop} {o : Host.Outcome State Fault Refusal}
    {k : State → Host.Outcome State Fault Refusal} (ho : Goes P o) (hk : ∀ u, (P → MemOk u) → Goes P (k u)) :
    Goes P (andThen o k) := by
  obtain ⟨u, rfl, hu⟩ := ho
  exact hk u hu

theorem goes_settle {e : Eff} (he : MemOk s → EffOk e) : Goes (MemOk s) (settle s e) :=
  goes_next fun hs => memOk_settled e hs (fun _ _ h => by subst h; exact he hs) (fun _ _ h => by subst h; exact he hs)

/-- R57: every instruction and every event has a meaning, which keeps the memory in canonical form. -/
theorem goes_exec (i : Instr) (s : State) : Goes (MemOk s) (exec i s) := by
  cases i with
  | nop => exact goes_settle effOk_doNop
  | halt => exact goes_settle effOk_doHalt
  | trap => exact goes_settle effOk_doTrap
  | eret => exact goes_settle effOk_doEret
  | brk => exact goes_settle fun _ => effOk_doBrk
  | yield => exact goes_settle effOk_doYield
  | fence => exact goes_settle effOk_doFence
  | publish => exact goes_settle effOk_doPublish
  | tlbinv => exact goes_settle effOk_doTlbinv
  | mfc => exact goes_settle effOk_doMfc
  | mtc => exact goes_settle effOk_doMtc
  | pfx => exact goes_settle effOk_doPfx
  | loop => exact goes_settle effOk_doLoop
  | wait => exact goes_settle effOk_doWait
  | beq | bne | blt | bge | bltn | bgen | bz | bnz => exact goes_settle effOk_branch2
  | j => exact goes_settle effOk_doJ
  | jl => exact goes_settle effOk_doJl
  | jr => exact goes_settle effOk_doJr
  | jlr => exact goes_settle effOk_doJlr
  | ld | ldn | ldx => exact goes_settle effOk_doLoad
  | st | stx => exact goes_settle effOk_doStore
  | vld => exact goes_settle effOk_doVld
  | vst => exact goes_settle effOk_doVst
  | xld | xldt => exact goes_settle effOk_doTileLoad
  | xst => exact goes_settle effOk_doXst
  | wld => exact goes_settle effOk_doWld
  | rowact => exact goes_settle effOk_doRowact
  | aadd | amin | amax | aminn | amaxn | aand | aor | axor | aswp | acas | afadd | afmin | afmax =>
    exact goes_settle effOk_doAtomic
  | cpy => exact goes_settle effOk_doCpy
  | cpys => exact goes_settle effOk_doCpys
  | rpcRead | rpcWrite | vaddF32 | vaddI32 | vminF32 | vmaxF32 | cas64 | swap64 | readBox | writeBox | rpcFill
  | zeroPage => exact goes_settle effOk_doRpc
  | trav => exact goes_settle effOk_doTrav
  | travRes => exact goes_settle effOk_doTravRes
  | gpool => exact goes_settle effOk_doGpool
  | attn => exact goes_settle effOk_doAttn
  | fwait => exact goes_settle effOk_doFwait
  | fget => exact goes_settle effOk_doFget
  | ftest => exact goes_settle effOk_doFtest
  | fcancel => exact goes_settle effOk_doFcancel
  | fxfer => exact goes_settle effOk_doFxfer
  | barArr => exact goes_settle effOk_doBarArr
  | barWait => exact goes_settle effOk_doBarWait
  | barAw => exact goes_settle effOk_doBarAw
  | sig => exact goes_settle effOk_doSig
  | wsem => exact goes_settle effOk_doWsem
  | tsem => exact goes_settle effOk_doTsem
  | asarm => exact goes_settle effOk_doAsarm
  | aswait => exact goes_settle effOk_doAswait
  | astest => exact goes_settle effOk_doAstest
  | wlapp => exact goes_settle effOk_doWlapp
  | wltake => exact goes_settle effOk_doWltake
  | wldone => exact goes_settle effOk_doWldone
  | qwait => exact goes_settle effOk_doQwait
  | claim => exact goes_settle effOk_doClaim
  | acq => exact goes_settle effOk_doAcq
  | acqt => exact goes_settle effOk_doAcqt
  | rel => exact goes_settle effOk_doRel
  | relall => exact goes_settle effOk_releaseWith
  | resq => exact goes_settle effOk_doResq
  | add | sub | and_ | or_ | xor | andn | shl | shr | shra | rotl | min | max | minn | maxn | seq | sne | slt
  | sltn | mul | mulh | mulhn | div | divn | rem | remn => exact goes_settle effOk_scalar2
  | sel => exact goes_settle effOk_doSel
  | clz | ctz | popc | mov | addi | andi | ori | xori | shli | shri | shrai | slti | lih =>
    exact goes_settle effOk_scalar1
  | li => exact goes_settle effOk_doLi
  | fadd | fsub | fmul | fdiv | fsqrt | fmin | fmax => exact goes_settle effOk_float2
  | fcmp => exact goes_settle effOk_doFcmp
  | fcvt => exact goes_settle effOk_doFcvt
  | fclass => exact goes_settle effOk_doFclass
  | fma => exact goes_settle effOk_doFma
  | vadd | vsub | vmul | vfma | vmin | vmax | vabsd | vand | vor | vxor | vshl | vshr | vshra | vceq | vclt
  | vsel | vshuf => exact goes_settle effOk_row2
  | vcvt | vmatch | vexp2 | vrcp | vrsq | vcpy => exact goes_settle effOk_row1
  | vred | vvote | vext => exact goes_settle effOk_rowScalar
  | vbcst => exact goes_settle effOk_doVbcst
  | vins => exact goes_settle effOk_doVins
  | xzero => exact goes_settle effOk_doXzero
  | xfill => exact goes_settle effOk_doXfill
  | xcpy | xtrn => exact goes_settle effOk_tile1
  | mmul => exact goes_settle effOk_doMmul
  | mdrain => exact goes_settle effOk_doMdrain
  | mldw => exact goes_settle effOk_doMldw
  | mswap => exact goes_settle effOk_doMswap
  | macz => exact goes_settle effOk_doMacz
  | mopw => exact goes_settle effOk_doMopw
  | mopr => exact goes_settle effOk_doMopr
  | msave | mrest => exact goes_settle effOk_doImage
  | reservedPattern => exact goes_settle effOk_doReservedPattern
  | pendingCauseEntry => exact goes_next memOk_pendingCauseEntry
  | timer => exact goes_next memOk_timerDue
  | quantumExpiry => exact goes_next memOk_quantumExpiry
  | drowsyEntry => exact goes_next memOk_drowsyEntry
  | taskStart => exact goes_next memOk_taskStart
  | taskEnd => exact goes_next memOk_taskEnd
  | loadDataReturn => exact goes_next memOk_loadDataReturn
  | storePerform => exact goes_next memOk_storePerform
  | remoteAccessArrival => exact goes_next memOk_remoteAccessArrival
  | tileSegmentLand => exact goes_next memOk_tileSegmentLand
  | writeBlockTimeout => exact goes_next memOk_writeBlockTimeout
  | refresh => exact goes_next memOk_refresh
  | refreshEnd => exact goes_next memOk_refreshEnd
  | holdEntered => exact goes_next memOk_holdEntered
  | holdTimeout => exact goes_next memOk_holdTimeout
  | rowRepairDone => exact goes_next memOk_rowRepairDone
  | matrixOpStart => exact goes_next memOk_matrixOpStart
  | matrixOpComplete => exact goes_next memOk_matrixOpComplete
  | copyAccess => exact goes_next memOk_copyAccess
  | copyComplete => exact goes_next memOk_copyComplete
  | scheduleEntryRelease => exact goes_next memOk_scheduleEntryRelease
  | cancelArrival => exact goes_next memOk_cancelArrival
  | agentServe => exact goes_next memOk_agentServe
  | agentHoldTimeout => exact goes_next memOk_agentHoldTimeout
  | ramblerStep => exact goes_next memOk_ramblerStep
  | continuationArrival => exact goes_next memOk_continuationArrival
  | gatherPool => exact goes_next memOk_gatherPool
  | attentionDecode => exact goes_next memOk_attentionDecode
  | replyArrival => exact goes_next memOk_replyArrival
  | barrierArrival => exact goes_next memOk_barrierArrival
  | barrierRelease => exact goes_next memOk_barrierRelease
  | barrierTimeout => exact goes_next memOk_barrierTimeout
  | wlRequestApply => exact goes_next memOk_wlRequestApply
  | wlAnswer => exact goes_next memOk_wlAnswer
  | preemption => exact goes_next memOk_preemption
  | contextsHalted => exact goes_next memOk_contextsHalted
  | tileImageSave => exact goes_next memOk_tileImageSave
  | launchRestore => exact goes_next memOk_launchRestore
  | watchdogExpiry => exact goes_next memOk_watchdogExpiry
  | priorityAging => exact goes_next memOk_priorityAging
  | launch => exact goes_next memOk_launchCommand
  | copy => exact goes_next memOk_copyCommand
  | copyCommandComplete => exact goes_next memOk_copyCommandComplete
  | fenceCommand => exact goes_next memOk_fenceCommand
  | signal => exact goes_next memOk_signalCommand
  | waitval => exact goes_next memOk_waitvalCommand
  | cond => exact goes_next memOk_condCommand
  | publishCommand => exact goes_next memOk_publishCommand
  | launchComplete => exact goes_next memOk_launchComplete
  | resumeTakesEffect => exact goes_next memOk_resumeTakesEffect
  | clearComplete => exact goes_next memOk_clearComplete
  | pairIntervalEnd => exact goes_next memOk_pairIntervalEnd
  | replayWaitTimeout => exact goes_next memOk_replayWaitTimeout
  | eventCounterWrap => exact goes_next memOk_eventCounterWrap
  | thermalSample => exact goes_next memOk_thermalSample
  | maintenanceHold => exact goes_next memOk_maintenanceHold
  | maintenanceRelease => exact goes_next memOk_maintenanceRelease
  | qtail => exact goes_next (memOk_fromHost fun _ => memOk_qtail)
  | shoot => exact goes_next (memOk_fromHost fun _ => memOk_shootWrite)
  | shootdownComplete => exact goes_next memOk_shootdownComplete
  | crst => exact goes_next (memOk_fromHost fun _ => memOk_crst)
  | mbdata => exact goes_next (memOk_fromHost fun _ => memOk_mbdata)
  | bar2Read => exact goes_next (memOk_fromHost fun _ => memOk_bar2Read)
  | bar2Write => exact goes_next (memOk_fromHost fun _ => memOk_bar2Write)
  | priResponse => exact goes_next memOk_priResponse
  | atsInvalidation => exact goes_next memOk_atsInvalidation
  | registerWrite => exact goes_next (memOk_fromHost fun _ => memOk_registerWrite)
  | fwcmdQueueReset => exact goes_next (memOk_hostFw fun _ => memOk_queueResetBy)
  | fwcmdPartitionReset => exact goes_next (memOk_hostFw fun _ => memOk_partReset)
  | fwcmdDeviceReset => exact goes_next (memOk_hostFw fun _ => memOk_deviceResetBy)
  | relclr => exact goes_next (memOk_fromHost fun _ => memOk_relclr)
  | dbgHalt => exact goes_next memOk_dbgHalt
  | dbgResume => exact goes_next memOk_dbgResume
  | dbgStep => exact goes_next memOk_dbgStep
  | rdreg => exact goes_next memOk_rdreg
  | wrreg => exact goes_next memOk_wrreg
  | rdrow => exact goes_next memOk_rdrow
  | wrrow => exact goes_next memOk_wrrow
  | rdmem => exact goes_next memOk_rdmem
  | wrmem => exact goes_next memOk_wrmem
  | rdslot => exact goes_next memOk_rdslot
  | evwait => exact goes_next memOk_evwait
  | pctlHalt => exact goes_next memOk_pctlSetHalt
  | pctlCancel => exact goes_next memOk_pctlCancel
  | pctlClear => exact goes_next memOk_pctlClear
  | pctlRun => exact goes_next memOk_pctlRun
  | qend => exact goes_next memOk_qend
  | jalloc => exact goes_next fun hs => memOk_fwReg (memOk_journalAlloc hs)
  | jw => exact goes_next memOk_writeJw
  | powerOn => exact goes_next memOk_powerOn
  | mctpControl => exact goes_next memOk_mctpControl
  | getId => exact goes_next memOk_getId
  | attest => exact goes_next memOk_attest
  | journalRead => exact goes_next memOk_journalRead
  | telemetry => exact goes_next memOk_telemetry
  | dumpRead => exact goes_next memOk_dumpRead
  | queueReset => exact goes_next memOk_sideQueueReset
  | partitionReset => exact goes_next memOk_sidePartitionReset
  | deviceReset => exact goes_next memOk_sideDeviceReset
  | fwBegin => exact goes_next memOk_fwBegin
  | fwData => exact goes_next memOk_fwData
  | fwCommit => exact goes_next memOk_fwCommit
  | machineCheck => exact goes_next memOk_hardError
  | peerLinkFailure => exact goes_next memOk_peerLinkFailure
  | patrolScrub => exact goes_next memOk_patrolScrub
  | sramScrub => exact goes_next memOk_sramScrub
  | matrixSpareSwitch => exact goes_next memOk_matrixSpareSwitch
  | uvWindow => exact goes_next memOk_uvWindow
  | verificationWindow => exact goes_next memOk_verificationWindow
  | verificationWindowEnd => exact goes_next memOk_verificationWindowEnd
  | networkSnapshot => exact goes_next memOk_networkSnapshot
  | pcieLinkStateChange => exact goes_next memOk_pcieLinkStateChange
  | unservedMctpMessage => exact goes_next memOk_unservedMctpMessage

/-! Sys2Proof/Machine/Issue.lean: what a group, a boundary, a core and the machine do with such a meaning. -/

section
variable {P : Prop}

theorem goes_run (i : Instr) (hs : P → MemOk s) : Goes P (exec i s) := (goes_exec i s).mono hs

theorem goes_runHalves {t c : Nat} {base : State} {prefixed : Bool} {i : Instr} {j : Option Instr}
    {k : State → Host.Outcome State Fault Refusal} (hb : P → MemOk base) (hs : P → MemOk s)
    (hk : ∀ u, (P → MemOk u) → Goes P (k u)) : Goes P (runHalves exec t c base prefixed i j s k) := by
  have hhold : ∀ u, Goes P (.next (holdFrom t c base u)) := fun _ => goes_next fun p => memOk_holdFrom (hb p)
  have htrap : ∀ tr, Goes P (.next (trapGroup t c tr base)) :=
    fun tr => goes_next fun p => memOk_trapGroup t c tr (hb p)
  unfold runHalves
  refine goes_andThen (goes_run i hs) fun s1 h1 => ?_
  have hleave : P → MemOk (clearFrame (flushSamples t c s1)) :=
    fun p => memOk_clearFrame.2 (memOk_flushSamples t c (h1 p))
  have hwait : Goes P (.next (if prefixed then holdFrom t c base s1 else clearFrame (flushSamples t c s1))) :=
    goes_next fun p => memOk_ite (memOk_holdFrom (hb p)) (hleave p)
  split
  · exact htrap _
  · split
    · split
      · split
        · refine goes_andThen (goes_run _ fun p => (memOk_grp _).2 (hs p)) fun s2 _ => ?_
          split
          · exact htrap _
          · exact goes_next fun p => memOk_ite (memOk_holdFrom (hb p)) (memOk_keepNames (hleave p))
        · exact hwait
      · exact hwait
    · split
      · exact hk _ h1
      · refine goes_andThen (goes_run _ fun p => (memOk_grp _).2 (h1 p)) fun s2 h2 => ?_
        split
        · exact htrap _
        · exact goes_ite (hhold _) (hk _ h2)

theorem goes_runPrefixed {t c : Nat} {p : Pfx} {g h : Group} (hs : P → MemOk s) :
    Goes P (runPrefixed exec t c p g h s) := by
  refine goes_runHalves hs (fun q => memOk_startFrame (hs q)) fun s1 h1 => ?_
  have h2 : P → MemOk (advance t c .next (flushSamples t c (countEvent t c 2 1 s1))) := fun q =>
    memOk_advance t c .next (memOk_flushSamples t c (memOk_countEvent t c 2 1 (h1 q)))
  exact goes_runHalves hs (fun q => memOk_startFrame ((memOk_modCtx t c _).2 (h2 q))) fun _ h =>
    goes_next fun q => memOk_retireGroup t c _ (h q)

theorem goes_runBare {t c : Nat} {g : Group} (hs : P → MemOk s) : Goes P (runBare exec t c g s) :=
  goes_ite (goes_next fun p => memOk_stopAtBreak (hs p)) <|
    goes_runHalves hs (fun p => memOk_startFrame (hs p)) fun _ h => goes_next fun p => memOk_retireGroup t c _ (h p)

theorem goes_runGroup {t c : Nat} {g : Group} (hs : P → MemOk s) : Goes P (runGroup exec t c g s) := by
  unfold runGroup
  cases g with
  | lone w => exact goes_run _ hs
  | pair w v =>
    exact goes_runHalves hs (fun p => memOk_startFrame (hs p)) fun _ h =>
      goes_next fun p => memOk_retireGroup t c _ (h p)

theorem goes_issueGroup {t c : Nat} (hs : P → MemOk s) : Goes P (issueGroup exec t c s) := by
  have htrap : ∀ tr, Goes P (.next (trapGroup t c tr s)) := fun tr => goes_next fun p => memOk_trapGroup t c tr (hs p)
  have hstop : ∀ hits, Goes P (.next (stopAtBreak t c hits s)) := fun _ => goes_next fun p => memOk_stopAtBreak (hs p)
  unfold issueGroup
  dsimp only
  split
  · exact htrap _
  · split
    · split
      · exact htrap _
      · refine goes_ite (hstop _) ?_
        split
        · exact goes_runGroup hs
        · exact htrap _
    · split
      · split
        · exact htrap _
        · refine goes_ite (htrap _) ?_
          split
          · exact goes_runBare hs
          · exact htrap _
      · split
        · exact htrap _
        · split
          · exact htrap _
          · split
            · exact goes_ite (htrap _) (goes_ite (hstop _) (goes_runPrefixed hs))
            · exact htrap _
            · exact htrap _

theorem goes_attempt {t c : Nat} (hs : P → MemOk s) : Goes P (attempt exec t c s) := by
  unfold attempt
  extract_lets s1
  have h1 : P → MemOk s1 := hs
  clear_value s1
  split
  · exact goes_next fun p => memOk_finishAfter (h1 p)
  · split
    next u e => exact goes_next fun p => memOk_replayBoundary e (h1 p)
    next =>
      split
      next u e => exact goes_next fun p => memOk_takePending e (h1 p)
      next =>
        exact goes_ite (goes_next fun p => memOk_advance t c .next (h1 p)) <|
          goes_ite (goes_next fun p => memOk_diverge t c (h1 p)) <| goes_issueGroup fun p => memOk_firmFetch <| h1 p

theorem goes_pickRing {t k : Nat} {l : List Nat} (hs : P → MemOk s) : Goes P (pickRing exec t k l s) := by
  induction l generalizing s with
  | nil => exact goes_next hs
  | cons i r ih =>
    refine goes_ite (goes_andThen (goes_attempt fun p => (memOk_modCore t k _).2 (hs p)) fun s1 h1 => ?_) (ih hs)
    refine goes_ite (ih fun p => (memOk_modCore t k _).2 (h1 p)) (goes_next fun p => ?_)
    exact memOk_afterRing (memOk_ite (h1 p) (memOk_countCoreAt (h1 p)))

theorem goes_pickInterleave {t k : Nat} {l : List Nat} (hs : P → MemOk s) :
    Goes P (pickInterleave exec t k l s) := by
  induction l generalizing s with
  | nil => exact goes_next hs
  | cons i r ih =>
    refine goes_ite (goes_andThen (goes_attempt hs) fun s1 h1 => ?_) (ih hs)
    exact goes_ite (ih h1) (goes_next fun p => (memOk_modCore t k _).2 (h1 p))

theorem goes_issueCore {t k : Nat} (hs : P → MemOk s) : Goes P (issueCore exec t k s) := by
  unfold issueCore
  dsimp only
  split
  · exact goes_next fun p => (memOk_modCore t k _).2 (hs p)
  · split
    · exact goes_pickInterleave hs
    · split
      · split
        · exact goes_andThen (goes_attempt hs) fun _ h => goes_next fun p => memOk_afterRing (h p)
        · exact goes_pickRing fun p => (memOk_modCore t k _).2 (hs p)
      · exact goes_pickRing hs

theorem memOk_firstChange {l : List (State → State)} {u : State} (hl : ∀ f ∈ l, ∀ v, MemOk v → MemOk (f v))
    (hs : MemOk s) (e : firstChange s l = some u) : MemOk u := by
  induction l with
  | nil => cases e
  | cons f r ih =>
    unfold firstChange at e
    dsimp only at e
    split at e
    · exact ih (fun g hg => hl g (List.mem_cons_of_mem f hg)) e
    · cases e
      exact hl f List.mem_cons_self s hs

theorem memOk_firstArrival {l : List Nat} {u : State} (hs : MemOk s) (e : firstArrival s l = some u) : MemOk u := by
  induction l with
  | nil =>
    refine memOk_firstChange ?_ hs e
    simp only [List.forall_mem_cons]
    exact ⟨fun _ => memOk_acceptNext, fun _ => memOk_bootGo, fun _ => memOk_dbgContinue, fun _ => memOk_invsDone,
      fun _ => memOk_hostGo, fun _ => memOk_spareSwitches, fun _ => memOk_sideGo, fun _ h => nomatch h⟩
  | cons k r ih =>
    unfold firstArrival at e
    dsimp only at e
    split at e
    · exact ih e
    · cases e
      exact memOk_arrive hs

theorem goes_firstDue {l : List Instr} {o : Host.Outcome State Fault Refusal} (hs : P → MemOk s)
    (e : firstDue exec s l = some o) : Goes P o := by
  induction l with
  | nil => cases e
  | cons i r ih =>
    obtain ⟨u, hu, hm⟩ := goes_run i hs
    unfold firstDue at e
    rw [hu] at e
    dsimp only at e
    split at e
    · exact ih e
    · cases e
      exact goes_next hm

theorem goes_firstCore {l : List Nat} (hs : P → MemOk s) : Goes P (firstCore exec s l) := by
  induction l with
  | nil => exact goes_next hs
  | cons k r ih =>
    obtain ⟨u, hu, hm⟩ := goes_issueCore (t := k / 2) (k := k % 2) hs
    unfold firstCore
    rw [hu]
    exact goes_ite ih (goes_next hm)

theorem goes_turn (hs : P → MemOk s) : Goes P (turn exec s) := by
  unfold turn
  split
  · exact goes_issueCore hs
  · exact goes_ite (goes_run _ hs) (goes_next hs)
  · exact goes_next hs
  · exact goes_next fun p => memOk_evictEntry (hs p)
  · exact goes_next fun p => memOk_upset (hs p)
  · exact goes_next fun p => memOk_correctsNow (hs p)
  · exact goes_next fun p => memOk_hostStored (hs p)
  · exact goes_next fun p => memOk_hostLoaded (hs p)
  · exact goes_next hs
  · exact goes_next hs
  · exact goes_next fun p => memOk_arrive (hs p)
  · exact goes_next fun p => memOk_peerArrives (hs p)
  · exact goes_next fun p => memOk_hostChanges (hs p)
  · exact goes_next fun p => memOk_sideMessage (hs p)
  · split
    next u e => exact goes_next fun p => memOk_firstArrival (hs p) e
    next =>
      split
      next o e => exact goes_firstDue hs e
      next => exact goes_firstCore hs
end

/-- The step of the machine gives a next state, and keeps the memory in canonical form. -/
theorem goes_step (s : State) : Goes (MemOk s) (step s) :=
  goes_andThen (goes_turn id) fun _ h => goes_next fun hs => memOk_endTurn (memOk_noteTraffic (h hs))

/-- Settles O60: no turn of the machine ends in a fault or a refusal, because no meaning does. -/
theorem stepAlwaysContinues : Obligations.StepAlwaysContinues := by
  intro s
  obtain ⟨u, hu, -⟩ := goes_step s
  exact ⟨u, hu⟩

/-- Settles O59: every change of the memory is a write, a placed copy, a clearing or a filter, and each of these keeps
the canonical form. -/
theorem memOkKept : Obligations.MemOkKept := by
  intro s t hs hst
  obtain ⟨u, hu, hm⟩ := goes_step s
  obtain rfl : u = t := Host.Outcome.next.inj (hu.symm.trans hst)
  exact hm hs

/-! The state after reset. -/

/-- R7: the two bytes that a reset leaves in the memory lie in a vault, below every scratchpad. -/
theorem read_scratchPa_reset (t a : Nat) : State.reset.mem.read (scratchPa t a) = 0 := by
  have hv : Config.firmwareReserve + 8 < 2 ^ 40 := by decide
  have h0 : Config.firmwareReserve ≠ scratchPa t a := by unfold scratchPa; omega
  have h8 : Config.firmwareReserve + 8 ≠ scratchPa t a := by unfold scratchPa; omega
  simp [Memory.read, State.reset, Sparse.get, h0, h8]

/-- The registers of the device control block that the statement names, as a reset leaves them (R365, R408). -/
theorem readBar0_reset : readBar0 .reset 0 = 0x4A021032 ∧ readBar0 .reset 0x108 = 256 ∧
    readBar0 .reset 0xD00 = BitVec.ofNat 64 (1000 * 2 ^ 32 + 1) ∧ readBar0 .reset 0x828 = 1 ∧
    readBar0 .reset 0x838 = BitVec.ofNat 64 (2 ^ 8 + 7) := by decide +kernel

/-- Settles O58: what a reset leaves is the default of every part of the state but the memory and the registers,
and those two are read. -/
theorem resetState : Obligations.ResetState := by
  obtain ⟨hdevid, hthresh, hngcfg, hjrnhead, hbootst⟩ := readBar0_reset
  refine ⟨memOk_reset, fun _ _ => rfl, fun _ _ => rfl, fun _ _ => rfl, fun _ _ => rfl, read_scratchPa_reset,
    fun _ => ⟨?_, rfl, rfl⟩, fun _ => ⟨rfl, rfl⟩, rfl, rfl, ?journal, hdevid, hthresh, hngcfg, hjrnhead, hbootst, ?zeros⟩
  · show wbit ({} : Queue).cfg 31 = false
    decide
  case journal => decide +kernel
  case zeros => decide +kernel

end Sys2Proof.Machine
end

section
/-! SUPPORT and the settling theorems of the family on encoding (O54, O55). A word that the decoder reads as an
instruction is cut, by the layout of its form (R59), into fields whose values the decoder has seen; glued together in
their places they are the word without L, and they are what the encoder writes. -/

namespace Sys2Proof.Laws

/-- Settles O54, by the case of the constructor: each has its own lemma, and a step without a word has no encoding. -/
theorem encodeRoundTrip : Obligations.EncodeRoundTrip := by
  intro i v hw he
  cases i with
  | nop => exact EncodeDecode.nop hw v he
  | halt => exact EncodeDecode.halt hw v he
  | trap n => exact EncodeDecode.trap n hw v he
  | eret => exact EncodeDecode.eret hw v he
  | brk n => exact EncodeDecode.brk n hw v he
  | yield => exact EncodeDecode.yield hw v he
  | fence s o => exact EncodeDecode.fence s o hw v he
  | publish a b => exact EncodeDecode.publish a b hw v he
  | tlbinv a g => exact EncodeDecode.tlbinv a g hw v he
  | mfc d c => exact EncodeDecode.mfc d c hw v he
  | mtc a c => exact EncodeDecode.mtc a c hw v he
  | pfx o s p q => exact EncodeDecode.pfx o s p q hw v he
  | loop c n b w s => exact EncodeDecode.loop c n b w s hw v he
  | wait a b c d => exact EncodeDecode.wait a b c d hw v he
  | beq n a b d => exact EncodeDecode.beq n a b d hw v he
  | bne n a b d => exact EncodeDecode.bne n a b d hw v he
  | blt n a b d => exact EncodeDecode.blt n a b d hw v he
  | bge n a b d => exact EncodeDecode.bge n a b d hw v he
  | bltn n a b d => exact EncodeDecode.bltn n a b d hw v he
  | bgen n a b d => exact EncodeDecode.bgen n a b d hw v he
  | bz n a d => exact EncodeDecode.bz n a d hw v he
  | bnz n a d => exact EncodeDecode.bnz n a d hw v he
  | j d => exact EncodeDecode.j d hw v he
  | jl d => exact EncodeDecode.jl d hw v he
  | jr a => exact EncodeDecode.jr a hw v he
  | jlr a => exact EncodeDecode.jlr a hw v he
  | ld d a z i => exact EncodeDecode.ld d a z i hw v he
  | ldn d a z i => exact EncodeDecode.ldn d a z i hw v he
  | st d a z i => exact EncodeDecode.st d a z i hw v he
  | ldx d a b x n z => exact EncodeDecode.ldx d a b x n z hw v he
  | stx d a b x z => exact EncodeDecode.stx d a b x z hw v he
  | vld x b r d => exact EncodeDecode.vld x b r d hw v he
  | vst x b r d => exact EncodeDecode.vst x b r d hw v he
  | xld x b c p d => exact EncodeDecode.xld x b c p d hw v he
  | xst x b p d => exact EncodeDecode.xst x b p d hw v he
  | xldt x b w d => exact EncodeDecode.xldt x b w d hw v he
  | wld s b c p d => exact EncodeDecode.wld s b c p d hw v he
  | rowact b d => exact EncodeDecode.rowact b d hw v he
  | aadd d a b z => exact EncodeDecode.aadd d a b z hw v he
  | amin d a b z => exact EncodeDecode.amin d a b z hw v he
  | amax d a b z => exact EncodeDecode.amax d a b z hw v he
  | aminn d a b z => exact EncodeDecode.aminn d a b z hw v he
  | amaxn d a b z => exact EncodeDecode.amaxn d a b z hw v he
  | aand d a b z => exact EncodeDecode.aand d a b z hw v he
  | aor d a b z => exact EncodeDecode.aor d a b z hw v he
  | axor d a b z => exact EncodeDecode.axor d a b z hw v he
  | aswp d a b z => exact EncodeDecode.aswp d a b z hw v he
  | acas d a b c z => exact EncodeDecode.acas d a b c z hw v he
  | afadd d a b z => exact EncodeDecode.afadd d a b z hw v he
  | afmin d a b z => exact EncodeDecode.afmin d a b z hw v he
  | afmax d a b z => exact EncodeDecode.afmax d a b z hw v he
  | cpy h a n t => exact EncodeDecode.cpy h a n t hw v he
  | cpys i => exact EncodeDecode.cpys i hw v he
  | rpcRead h a n t => exact EncodeDecode.rpcRead h a n t hw v he
  | rpcWrite h a n t => exact EncodeDecode.rpcWrite h a n t hw v he
  | vaddF32 h a n t => exact EncodeDecode.vaddF32 h a n t hw v he
  | vaddI32 h a n t => exact EncodeDecode.vaddI32 h a n t hw v he
  | vminF32 h a n t => exact EncodeDecode.vminF32 h a n t hw v he
  | vmaxF32 h a n t => exact EncodeDecode.vmaxF32 h a n t hw v he
  | cas64 h a n t => exact EncodeDecode.cas64 h a n t hw v he
  | swap64 h a n t => exact EncodeDecode.swap64 h a n t hw v he
  | readBox h a n t => exact EncodeDecode.readBox h a n t hw v he
  | writeBox h a n t => exact EncodeDecode.writeBox h a n t hw v he
  | rpcFill h a n t => exact EncodeDecode.rpcFill h a n t hw v he
  | zeroPage h a n t => exact EncodeDecode.zeroPage h a n t hw v he
  | trav h a t => exact EncodeDecode.trav h a t hw v he
  | travRes h a t => exact EncodeDecode.travRes h a t hw v he
  | gpool h a t => exact EncodeDecode.gpool h a t hw v he
  | attn h a t => exact EncodeDecode.attn h a t hw v he
  | fwait h r => exact EncodeDecode.fwait h r hw v he
  | fget h d w r => exact EncodeDecode.fget h d w r hw v he
  | ftest h d => exact EncodeDecode.ftest h d hw v he
  | fcancel h => exact EncodeDecode.fcancel h hw v he
  | fxfer h a g => exact EncodeDecode.fxfer h a g hw v he
  | barArr d m i => exact EncodeDecode.barArr d m i hw v he
  | barWait a m i => exact EncodeDecode.barWait a m i hw v he
  | barAw m i => exact EncodeDecode.barAw m i hw v he
  | sig a s => exact EncodeDecode.sig a s hw v he
  | wsem a s => exact EncodeDecode.wsem a s hw v he
  | tsem d a s => exact EncodeDecode.tsem d a s hw v he
  | asarm a b s => exact EncodeDecode.asarm a b s hw v he
  | aswait a b s => exact EncodeDecode.aswait a b s hw v he
  | astest d a b s => exact EncodeDecode.astest d a b s hw v he
  | wlapp a b i => exact EncodeDecode.wlapp a b i hw v he
  | wltake d a b i => exact EncodeDecode.wltake d a b i hw v he
  | wldone a i => exact EncodeDecode.wldone a i hw v he
  | qwait => exact EncodeDecode.qwait hw v he
  | claim a => exact EncodeDecode.claim a hw v he
  | acq d a => exact EncodeDecode.acq d a hw v he
  | acqt d a => exact EncodeDecode.acqt d a hw v he
  | rel a => exact EncodeDecode.rel a hw v he
  | relall => exact EncodeDecode.relall hw v he
  | resq d a => exact EncodeDecode.resq d a hw v he
  | add d a b => exact EncodeDecode.add d a b hw v he
  | sub d a b => exact EncodeDecode.sub d a b hw v he
  | and_ d a b => exact EncodeDecode.and_ d a b hw v he
  | or_ d a b => exact EncodeDecode.or_ d a b hw v he
  | xor d a b => exact EncodeDecode.xor d a b hw v he
  | andn d a b => exact EncodeDecode.andn d a b hw v he
  | shl d a b => exact EncodeDecode.shl d a b hw v he
  | shr d a b => exact EncodeDecode.shr d a b hw v he
  | shra d a b => exact EncodeDecode.shra d a b hw v he
  | rotl d a b => exact EncodeDecode.rotl d a b hw v he
  | min d a b => exact EncodeDecode.min d a b hw v he
  | max d a b => exact EncodeDecode.max d a b hw v he
  | minn d a b => exact EncodeDecode.minn d a b hw v he
  | maxn d a b => exact EncodeDecode.maxn d a b hw v he
  | seq d a b => exact EncodeDecode.seq d a b hw v he
  | sne d a b => exact EncodeDecode.sne d a b hw v he
  | slt d a b => exact EncodeDecode.slt d a b hw v he
  | sltn d a b => exact EncodeDecode.sltn d a b hw v he
  | sel d a b c => exact EncodeDecode.sel d a b c hw v he
  | clz d a => exact EncodeDecode.clz d a hw v he
  | ctz d a => exact EncodeDecode.ctz d a hw v he
  | popc d a => exact EncodeDecode.popc d a hw v he
  | mov d a => exact EncodeDecode.mov d a hw v he
  | mul d a b => exact EncodeDecode.mul d a b hw v he
  | mulh d a b => exact EncodeDecode.mulh d a b hw v he
  | mulhn d a b => exact EncodeDecode.mulhn d a b hw v he
  | div d a b => exact EncodeDecode.div d a b hw v he
  | divn d a b => exact EncodeDecode.divn d a b hw v he
  | rem d a b => exact EncodeDecode.rem d a b hw v he
  | remn d a b => exact EncodeDecode.remn d a b hw v he
  | addi d a i => exact EncodeDecode.addi d a i hw v he
  | andi d a i => exact EncodeDecode.andi d a i hw v he
  | ori d a i => exact EncodeDecode.ori d a i hw v he
  | xori d a i => exact EncodeDecode.xori d a i hw v he
  | shli d a i => exact EncodeDecode.shli d a i hw v he
  | shri d a i => exact EncodeDecode.shri d a i hw v he
  | shrai d a i => exact EncodeDecode.shrai d a i hw v he
  | slti d a i => exact EncodeDecode.slti d a i hw v he
  | li d i => exact EncodeDecode.li d i hw v he
  | lih d a i => exact EncodeDecode.lih d a i hw v he
  | fadd d a b p => exact EncodeDecode.fadd d a b p hw v he
  | fsub d a b p => exact EncodeDecode.fsub d a b p hw v he
  | fmul d a b p => exact EncodeDecode.fmul d a b p hw v he
  | fdiv d a b p => exact EncodeDecode.fdiv d a b p hw v he
  | fsqrt d a p => exact EncodeDecode.fsqrt d a p hw v he
  | fmin d a b p => exact EncodeDecode.fmin d a b p hw v he
  | fmax d a b p => exact EncodeDecode.fmax d a b p hw v he
  | fcmp d a b c p => exact EncodeDecode.fcmp d a b c p hw v he
  | fcvt d a c => exact EncodeDecode.fcvt d a c hw v he
  | fclass d a p => exact EncodeDecode.fclass d a p hw v he
  | fma d a b n p c => exact EncodeDecode.fma d a b n p c hw v he
  | vadd d a b r s t => exact EncodeDecode.vadd d a b r s t hw v he
  | vsub d a b r s t => exact EncodeDecode.vsub d a b r s t hw v he
  | vmul d a b r s t => exact EncodeDecode.vmul d a b r s t hw v he
  | vfma d a b r s t => exact EncodeDecode.vfma d a b r s t hw v he
  | vmin d a b r s t => exact EncodeDecode.vmin d a b r s t hw v he
  | vmax d a b r s t => exact EncodeDecode.vmax d a b r s t hw v he
  | vabsd d a b r s t => exact EncodeDecode.vabsd d a b r s t hw v he
  | vand d a b r s t => exact EncodeDecode.vand d a b r s t hw v he
  | vor d a b r s t => exact EncodeDecode.vor d a b r s t hw v he
  | vxor d a b r s t => exact EncodeDecode.vxor d a b r s t hw v he
  | vshl d a b r s t => exact EncodeDecode.vshl d a b r s t hw v he
  | vshr d a b r s t => exact EncodeDecode.vshr d a b r s t hw v he
  | vshra d a b r s t => exact EncodeDecode.vshra d a b r s t hw v he
  | vceq d a b r s t => exact EncodeDecode.vceq d a b r s t hw v he
  | vclt d a b r s t => exact EncodeDecode.vclt d a b r s t hw v he
  | vsel d a b r s t => exact EncodeDecode.vsel d a b r s t hw v he
  | vcvt d a y r s t => exact EncodeDecode.vcvt d a y r s t hw v he
  | vred d a o s t => exact EncodeDecode.vred d a o s t hw v he
  | vbcst d a r t => exact EncodeDecode.vbcst d a r t hw v he
  | vshuf d a b r s t => exact EncodeDecode.vshuf d a b r s t hw v he
  | vvote d a o s t => exact EncodeDecode.vvote d a o s t hw v he
  | vmatch d a r s t => exact EncodeDecode.vmatch d a r s t hw v he
  | vext d a b s t => exact EncodeDecode.vext d a b s t hw v he
  | vins d a b r t => exact EncodeDecode.vins d a b r t hw v he
  | vexp2 d a r s t => exact EncodeDecode.vexp2 d a r s t hw v he
  | vrcp d a r s t => exact EncodeDecode.vrcp d a r s t hw v he
  | vrsq d a r s t => exact EncodeDecode.vrsq d a r s t hw v he
  | vcpy d a r s => exact EncodeDecode.vcpy d a r s hw v he
  | xzero d => exact EncodeDecode.xzero d hw v he
  | xfill d a => exact EncodeDecode.xfill d a hw v he
  | xcpy d a => exact EncodeDecode.xcpy d a hw v he
  | xtrn d a => exact EncodeDecode.xtrn d a hw v he
  | mmul s e a f n c => exact EncodeDecode.mmul s e a f n c hw v he
  | mdrain s d t => exact EncodeDecode.mdrain s d t hw v he
  | mldw s a => exact EncodeDecode.mldw s a hw v he
  | mswap s => exact EncodeDecode.mswap s hw v he
  | macz s e => exact EncodeDecode.macz s e hw v he
  | mopw e a => exact EncodeDecode.mopw e a hw v he
  | mopr e d => exact EncodeDecode.mopr e d hw v he
  | msave s a => exact EncodeDecode.msave s a hw v he
  | mrest s a => exact EncodeDecode.mrest s a hw v he
  | _ => nomatch he

/-! Words by their fields. -/

/-- From bit `lo` upward the word holds the fields listed, each as its width and its value. -/
def Fields (v : Nat) : Nat → List (Nat × Nat) → Prop
  | _, [] => True
  | lo, (n, x) :: r => fld v lo n = x ∧ Fields v (lo + n) r

/-- The number that fields give when they stand one after the other from bit `lo` upward. -/
def glue : Nat → List (Nat × Nat) → Nat
  | _, [] => 0
  | lo, (n, x) :: r => put x lo + glue (lo + n) r

theorem mod_add_glue {v lo : Nat} {l : List (Nat × Nat)} (h : Fields v lo l) :
    v % 2 ^ lo + glue lo l = v % 2 ^ (lo + (l.map Prod.fst).sum) := by
  induction l generalizing lo with
  | nil => rfl
  | cons f r ih =>
    obtain ⟨n, x⟩ := f
    obtain ⟨rfl, hr⟩ := h
    have hcut : v % 2 ^ (lo + n) = v % 2 ^ lo + put (fld v lo n) lo := by
      rw [Nat.pow_add, Nat.mod_mul, put, fld, Nat.mul_comm (2 ^ lo)]
    rw [List.map_cons, List.sum_cons, ← Nat.add_assoc, ← ih hr, hcut, glue, Nat.add_assoc]

/-- R55: fields that fill bits 30 to 0 are the word without its L bit. -/
theorem mod_eq_glue {v : Nat} {l : List (Nat × Nat)} (h : Fields v 0 l) (hs : (l.map Prod.fst).sum = 31) :
    v % 2 ^ 31 = glue 0 l := by
  rw [← Nat.zero_add 31, ← hs, ← mod_add_glue h, Nat.pow_zero, Nat.mod_one, Nat.zero_add]

theorem fld_one (v lo : Nat) : fld v lo 1 = bit (flag v lo) := by
  have hlt : fld v lo 1 < 2 := Nat.mod_lt _ (by decide)
  unfold bit flag
  split
  next h => exact of_decide_eq_true h
  next h =>
    have hne := of_decide_eq_false (Bool.eq_false_iff.mpr h)
    omega

theorem val_of_finBelow {n k : Nat} {x : Fin n} (h : finBelow n k = some x) : k = x.val := by
  unfold finBelow at h
  split at h <;> cases h
  rfl

theorem ty_code_of_ofCode {n : Nat} {x : Ty} (h : Ty.ofCode n = some x) : n = x.code := by
  unfold Ty.ofCode at h
  split at h <;> cases h <;> rfl

theorem prec_code_of_ofCode {n : Nat} {x : Prec} (h : Prec.ofCode n = some x) : n = x.code := by
  unfold Prec.ofCode at h
  split at h <;> cases h <;> rfl

theorem fcmpPred_code_of_ofCode {n : Nat} {x : FcmpPred} (h : FcmpPred.ofCode n = some x) : n = x.code := by
  unfold FcmpPred.ofCode at h
  split at h <;> cases h <;> rfl

theorem fcvtOp_code_of_ofCode {n : Nat} {x : FcvtOp} (h : FcvtOp.ofCode n = some x) : n = x.code := by
  unfold FcvtOp.ofCode at h
  split at h <;> cases h <;> rfl

theorem redOp_code_of_ofCode {n : Nat} {x : RedOp} (h : RedOp.ofCode n = some x) : n = x.code := by
  unfold RedOp.ofCode at h
  split at h <;> cases h <;> rfl

theorem voteOp_code_of_ofCode {n : Nat} {x : VoteOp} (h : VoteOp.ofCode n = some x) : n = x.code := by
  unfold VoteOp.ofCode at h
  split at h <;> cases h <;> rfl

theorem size_code_of_ofCode {n : Nat} {x : Size} (h : Size.ofCode n = some x) : n = x.code := by
  unfold Size.ofCode at h
  split at h <;> cases h <;> rfl

theorem aSize_code_of_ofCode {n : Nat} {x : ASize} (h : ASize.ofCode n = some x) : n = x.code := by
  unfold ASize.ofCode at h
  split at h <;> cases h <;> rfl

theorem nullCode_code_of_ofCode {n : Nat} {x : NullCode} (h : NullCode.ofCode n = some x) : n = x.code := by
  unfold NullCode.ofCode at h
  split at h <;> cases h <;> rfl

theorem ord_code_of_ofCode {n : Nat} {x : Ord} (h : Ord.ofCode n = some x) : n = x.code := by
  unfold Ord.ofCode at h
  split at h <;> cases h <;> rfl

theorem fOrd_code_of_ofCode {n : Nat} {x : FOrd} (h : FOrd.ofCode n = some x) : n = x.code := by
  unfold FOrd.ofCode at h
  split at h <;> cases h <;> rfl

theorem scope_code_of_ofCode {n : Nat} {x : Scope} (h : Scope.ofCode n = some x) : n = x.code := by
  unfold Scope.ofCode at h
  split at h <;> cases h <;> rfl

theorem spc_code_of_ofCode {n : Nat} {x : Spc} (h : Spc.ofCode n = some x) : n = x.code := by
  unfold Spc.ofCode at h
  split at h <;> cases h <;> rfl

theorem pol_code_of_ofCode {n : Nat} {x : Pol} (h : Pol.ofCode n = some x) : n = x.code := by
  unfold Pol.ofCode at h
  split at h <;> cases h <;> rfl

theorem barDom_code_of_ofCode {n : Nat} {x : BarDom} (h : BarDom.ofCode n = some x) : n = x.code := by
  unfold BarDom.ofCode at h
  split at h <;> cases h <;> rfl

theorem xldtW_code_of_ofCode {n : Nat} {x : XldtW} (h : XldtW.ofCode n = some x) : n = x.code := by
  unfold XldtW.ofCode at h
  split at h <;> cases h <;> rfl

theorem cReg_code_of_ofCode {n : Nat} {x : CReg} (h : CReg.ofCode n = some x) : n = x.code := by
  unfold CReg.ofCode at h
  split at h <;> cases h <;> rfl

/-! What the decoder answers. -/

/-- Whatever instruction the answer `r` gives is well formed and has the word `v` without its L bit. -/
def Reads (v : Nat) (r : Except Reject Instr) : Prop :=
  ∀ i, r = .ok i → i.wf = true ∧ encode i = some (v % 2 ^ 31)

section
variable {v : Nat}

theorem reads_error (e : Reject) : Reads v (.error e) := fun _ h => nomatch h

theorem reads_if {p : Prop} [Decidable p] {r : Except Reject Instr} (h : p → Reads v r) :
    Reads v (if p then r else .error .fieldReserved) := by
  split
  next hp => exact h hp
  next => exact reads_error _

theorem reads_withCode {α : Type} {o : Option α} {k : α → Except Reject Instr} (h : ∀ x, o = some x → Reads v (k x)) :
    Reads v (withCode o k) := by
  cases o with
  | none => exact reads_error _
  | some x => exact h x rfl

theorem check_eq_ok {i j : Instr} (h : check i = .ok j) : i = j ∧ j.wf = true := by
  unfold check at h
  split at h <;> split at h <;> cases h
  · next hw => exact ⟨rfl, hw⟩
  · next hw => exact ⟨rfl, hw⟩

/-- The combination of fields is checked last: what passes has the word that its fields give in their places. -/
theorem reads_check {i : Instr} {n : Nat} (l : List (Nat × Nat)) (hl : Fields v 0 l) (he : encode i = some n)
    (hs : (l.map Prod.fst).sum = 31) (hn : n = glue 0 l) : Reads v (check i) := by
  intro j hj
  obtain ⟨rfl, hw⟩ := check_eq_ok hj
  exact ⟨hw, by rw [he, hn, mod_eq_glue hl hs]⟩

/-! Forms that several instructions share: the major code `M`, and the minor code or SUB `m`, say which of them. -/

/-- R253: no field at all. -/
theorem reads_bare {mk : Instr} {M m : Nat} (hM : fld v 24 7 = M) (hm : fld v 6 6 = m)
    (he : encode mk = some (M * 2 ^ 24 + m * 2 ^ 6)) :
    Reads v (if fld v 0 6 = 0 ∧ fld v 12 12 = 0 then check mk else .error .fieldReserved) :=
  reads_if fun ⟨h0, h12⟩ => reads_check [(6, 0), (6, m), (12, 0), (7, M)] ⟨h0, hm, h12, hM, trivial⟩ he rfl
    (by simp only [glue, put]; omega)

/-- R255: a number in the lowest bits. -/
theorem reads_number {mk : Fin 64 → Instr} {M m : Nat} (hM : fld v 24 7 = M) (hm : fld v 6 6 = m)
    (he : ∀ n, encode (mk n) = some (M * 2 ^ 24 + m * 2 ^ 6 + n.val)) :
    Reads v (if fld v 12 12 = 0 then check (mk (fin 64 v 0)) else .error .fieldReserved) :=
  reads_if fun h12 => reads_check [(6, (fin 64 v 0).val), (6, m), (12, 0), (7, M)] ⟨rfl, hm, h12, hM, trivial⟩ (he _) rfl
    (by simp only [glue, put]; omega)

/-- R85: a branch that compares two scalars. -/
theorem reads_branch {mk : NullCode → Fin 16 → Fin 16 → Fin 16384 → Instr} {M : Nat} (hM : fld v 24 7 = M)
    (he : ∀ n a b d, encode (mk n a b d) = some (M * 2 ^ 24 + put n.code 22 + put a.val 18 + put b.val 14 + d.val)) :
    Reads v (withCode (NullCode.ofCode (fld v 22 2)) fun n => check (mk n (fin 16 v 18) (fin 16 v 14) (fin 16384 v 0))) :=
  reads_withCode fun n hn =>
    reads_check [(14, (fin 16384 v 0).val), (4, (fin 16 v 14).val), (4, (fin 16 v 18).val), (2, n.code), (7, M)]
    ⟨rfl, rfl, rfl, nullCode_code_of_ofCode hn, hM, trivial⟩ (he _ _ _ _) rfl (by simp only [glue, put]; omega)

/-- R85: a branch on one scalar. -/
theorem reads_branchZero {mk : NullCode → Fin 16 → Fin 16384 → Instr} {M : Nat} (hM : fld v 24 7 = M)
    (he : ∀ n a d, encode (mk n a d) = some (M * 2 ^ 24 + put n.code 22 + put a.val 18 + d.val)) :
    Reads v (if fld v 14 4 = 0 then
      withCode (NullCode.ofCode (fld v 22 2)) fun n => check (mk n (fin 16 v 18) (fin 16384 v 0))
      else .error .fieldReserved) :=
  reads_if fun h14 => reads_withCode fun n hn =>
    reads_check [(14, (fin 16384 v 0).val), (4, 0), (4, (fin 16 v 18).val), (2, n.code), (7, M)]
    ⟨rfl, h14, rfl, nullCode_code_of_ofCode hn, hM, trivial⟩ (he _ _ _) rfl (by simp only [glue, put]; omega)

/-- R88, R89: a relative jump. -/
theorem reads_jump {mk : Fin 16777216 → Instr} {M : Nat} (hM : fld v 24 7 = M)
    (he : ∀ d, encode (mk d) = some (M * 2 ^ 24 + d.val)) :
    Reads v (check (mk (fin 16777216 v 0))) :=
  reads_check [(24, (fin 16777216 v 0).val), (7, M)] ⟨rfl, hM, trivial⟩ (he _) rfl (by simp only [glue, put]; omega)

/-- R88, R89: a jump to the address in a scalar. -/
theorem reads_jumpScalar {mk : Fin 16 → Instr} {M : Nat} (hM : fld v 24 7 = M)
    (he : ∀ a, encode (mk a) = some (M * 2 ^ 24 + put a.val 16)) :
    Reads v (if fld v 0 16 = 0 ∧ fld v 20 4 = 0 then check (mk (fin 16 v 16)) else .error .fieldReserved) :=
  reads_if fun ⟨h0, h20⟩ => reads_check [(16, 0), (4, (fin 16 v 16).val), (4, 0), (7, M)]
    ⟨h0, rfl, h20, hM, trivial⟩ (he _) rfl (by simp only [glue, put]; omega)

/-- R113: a scalar access with a displacement. -/
theorem reads_scalarAccess {mk : Fin 16 → Fin 16 → Size → Fin 16384 → Instr} {M : Nat} (hM : fld v 24 7 = M)
    (he : ∀ d a z i, encode (mk d a z i) = some (M * 2 ^ 24 + put d.val 20 + put a.val 16 + put z.code 14 + i.val)) :
    Reads v (withCode (Size.ofCode (fld v 14 2)) fun z => check (mk (fin 16 v 20) (fin 16 v 16) z (fin 16384 v 0))) :=
  reads_withCode fun z hz =>
    reads_check [(14, (fin 16384 v 0).val), (2, z.code), (4, (fin 16 v 16).val), (4, (fin 16 v 20).val), (7, M)]
    ⟨rfl, size_code_of_ofCode hz, rfl, rfl, hM, trivial⟩ (he _ _ _ _) rfl (by simp only [glue, put]; omega)

/-- R116: a row access. -/
theorem reads_rowAccess {mk : Fin 16 → Fin 16 → Fin 16 → Fin 4096 → Instr} {M : Nat} (hM : fld v 24 7 = M)
    (he : ∀ x b r d, encode (mk x b r d) = some (M * 2 ^ 24 + put x.val 20 + put b.val 16 + put r.val 12 + d.val)) :
    Reads v (check (mk (fin 16 v 20) (fin 16 v 16) (fin 16 v 12) (fin 4096 v 0))) :=
  reads_check [(12, (fin 4096 v 0).val), (4, (fin 16 v 12).val), (4, (fin 16 v 16).val), (4, (fin 16 v 20).val), (7, M)]
    ⟨rfl, rfl, rfl, rfl, hM, trivial⟩ (he _ _ _ _) rfl (by simp only [glue, put]; omega)

/-- R123: an atomic of two sources. -/
theorem reads_atomic {mk : Fin 16 → Fin 16 → Fin 16 → ASize → Instr} {M m : Nat} (hM : fld v 24 7 = M) (hm : fld v 6 6 = m)
    (he : ∀ d a b z, encode (mk d a b z) =
      some (M * 2 ^ 24 + m * 2 ^ 6 + put d.val 20 + put a.val 16 + put b.val 12 + z.code)) :
    Reads v (if fld v 2 4 = 0 then
      withCode (ASize.ofCode (fld v 0 2)) fun z => check (mk (fin 16 v 20) (fin 16 v 16) (fin 16 v 12) z)
      else .error .fieldReserved) :=
  reads_if fun h2 => reads_withCode fun z hz =>
    reads_check [(2, z.code), (4, 0), (6, m), (4, (fin 16 v 12).val), (4, (fin 16 v 16).val), (4, (fin 16 v 20).val), (7, M)]
    ⟨aSize_code_of_ofCode hz, h2, hm, rfl, rfl, rfl, hM, trivial⟩ (he _ _ _ _) rfl (by simp only [glue, put]; omega)

/-- R192, R203: a command with a notice and a target. -/
theorem reads_command {mk : Fin 8 → Fin 16 → Bool → Bool → Instr} {M m : Nat} (hM : fld v 24 7 = M) (hm : fld v 16 5 = m)
    (he : ∀ h a n t, encode (mk h a n t) =
      some (M * 2 ^ 24 + m * 2 ^ 16 + put h.val 21 + put a.val 12 + put (bit n) 3 + put (bit t) 2)) :
    Reads v (if fld v 0 2 = 0 ∧ fld v 4 8 = 0 then
      check (mk (fin 8 v 21) (fin 16 v 12) (flag v 3) (flag v 2)) else .error .fieldReserved) :=
  reads_if fun ⟨h0, h4⟩ =>
    reads_check [(2, 0), (1, bit (flag v 2)), (1, bit (flag v 3)), (8, 0), (4, (fin 16 v 12).val), (5, m),
      (3, (fin 8 v 21).val), (7, M)]
    ⟨h0, fld_one v 2, fld_one v 3, h4, rfl, hm, rfl, hM, trivial⟩ (he _ _ _ _) rfl (by simp only [glue, put]; omega)

/-- R206, R213, R214, R216: a command of a walk or a pool. -/
theorem reads_walk {mk : Fin 8 → Fin 16 → Bool → Instr} {M m : Nat} (hM : fld v 24 7 = M) (hm : fld v 16 5 = m)
    (he : ∀ h a t, encode (mk h a t) = some (M * 2 ^ 24 + m * 2 ^ 16 + put h.val 21 + put a.val 12 + put (bit t) 2)) :
    Reads v (if fld v 0 2 = 0 ∧ fld v 3 9 = 0 then
      check (mk (fin 8 v 21) (fin 16 v 12) (flag v 2)) else .error .fieldReserved) :=
  reads_if fun ⟨h0, h3⟩ =>
    reads_check [(2, 0), (1, bit (flag v 2)), (9, 0), (4, (fin 16 v 12).val), (5, m), (3, (fin 8 v 21).val), (7, M)]
    ⟨h0, fld_one v 2, h3, rfl, hm, rfl, hM, trivial⟩ (he _ _ _) rfl (by simp only [glue, put]; omega)

/-- R230, R231: a semaphore. -/
theorem reads_semaphore {mk : Fin 16 → Fin 16 → Instr} {M m : Nat} (hM : fld v 24 7 = M) (hm : fld v 6 6 = m)
    (he : ∀ a s, encode (mk a s) = some (M * 2 ^ 24 + m * 2 ^ 6 + put a.val 16 + s.val)) :
    Reads v (if fld v 4 2 = 0 ∧ fld v 12 4 = 0 ∧ fld v 20 4 = 0 then
      check (mk (fin 16 v 16) (fin 16 v 0)) else .error .fieldReserved) :=
  reads_if fun ⟨h4, h12, h20⟩ =>
    reads_check [(4, (fin 16 v 0).val), (2, 0), (6, m), (4, 0), (4, (fin 16 v 16).val), (4, 0), (7, M)]
    ⟨rfl, h4, hm, h12, rfl, h20, hM, trivial⟩ (he _ _) rfl (by simp only [glue, put]; omega)

/-- R232, R234, R238: two scalars and a number. -/
theorem reads_arrival {mk : Fin 16 → Fin 16 → Fin 64 → Instr} {M m : Nat} (hM : fld v 24 7 = M) (hm : fld v 6 6 = m)
    (he : ∀ a b s, encode (mk a b s) = some (M * 2 ^ 24 + m * 2 ^ 6 + put a.val 16 + put b.val 12 + s.val)) :
    Reads v (if fld v 20 4 = 0 then check (mk (fin 16 v 16) (fin 16 v 12) (fin 64 v 0)) else .error .fieldReserved) :=
  reads_if fun h20 =>
    reads_check [(6, (fin 64 v 0).val), (6, m), (4, (fin 16 v 12).val), (4, (fin 16 v 16).val), (4, 0), (7, M)]
    ⟨rfl, hm, rfl, rfl, h20, hM, trivial⟩ (he _ _ _) rfl (by simp only [glue, put]; omega)

/-- R234, R239: a destination, two scalars and a number. -/
theorem reads_arrivalResult {mk : Fin 16 → Fin 16 → Fin 16 → Fin 64 → Instr} {M m : Nat}
    (hM : fld v 24 7 = M) (hm : fld v 6 6 = m)
    (he : ∀ d a b s, encode (mk d a b s) =
      some (M * 2 ^ 24 + m * 2 ^ 6 + put d.val 20 + put a.val 16 + put b.val 12 + s.val)) :
    Reads v (check (mk (fin 16 v 20) (fin 16 v 16) (fin 16 v 12) (fin 64 v 0))) :=
  reads_check [(6, (fin 64 v 0).val), (6, m), (4, (fin 16 v 12).val), (4, (fin 16 v 16).val), (4, (fin 16 v 20).val), (7, M)]
    ⟨rfl, hm, rfl, rfl, rfl, hM, trivial⟩ (he _ _ _ _) rfl (by simp only [glue, put]; omega)

/-- R245, R249: one source scalar. -/
theorem reads_oneScalar {mk : Fin 16 → Instr} {M m : Nat} (hM : fld v 24 7 = M) (hm : fld v 6 6 = m)
    (he : ∀ a, encode (mk a) = some (M * 2 ^ 24 + m * 2 ^ 6 + put a.val 16)) :
    Reads v (if fld v 0 6 = 0 ∧ fld v 12 4 = 0 ∧ fld v 20 4 = 0 then check (mk (fin 16 v 16)) else .error .fieldReserved) :=
  reads_if fun ⟨h0, h12, h20⟩ => reads_check [(6, 0), (6, m), (4, 0), (4, (fin 16 v 16).val), (4, 0), (7, M)]
    ⟨h0, hm, h12, rfl, h20, hM, trivial⟩ (he _) rfl (by simp only [glue, put]; omega)

/-- R93, R152, R247: a destination and one source. -/
theorem reads_twoNames {mk : Fin 16 → Fin 16 → Instr} {M m : Nat} (hM : fld v 24 7 = M) (hm : fld v 6 6 = m)
    (he : ∀ d a, encode (mk d a) = some (M * 2 ^ 24 + m * 2 ^ 6 + put d.val 20 + put a.val 16)) :
    Reads v (if fld v 0 6 = 0 ∧ fld v 12 4 = 0 then check (mk (fin 16 v 20) (fin 16 v 16)) else .error .fieldReserved) :=
  reads_if fun ⟨h0, h12⟩ => reads_check [(6, 0), (6, m), (4, 0), (4, (fin 16 v 16).val), (4, (fin 16 v 20).val), (7, M)]
    ⟨h0, hm, h12, rfl, rfl, hM, trivial⟩ (he _ _) rfl (by simp only [glue, put]; omega)

/-- R93, R94: a destination and two sources. -/
theorem reads_threeNames {mk : Fin 16 → Fin 16 → Fin 16 → Instr} {M m : Nat} (hM : fld v 24 7 = M) (hm : fld v 6 6 = m)
    (he : ∀ d a b, encode (mk d a b) = some (M * 2 ^ 24 + m * 2 ^ 6 + put d.val 20 + put a.val 16 + put b.val 12)) :
    Reads v (if fld v 0 6 = 0 then check (mk (fin 16 v 20) (fin 16 v 16) (fin 16 v 12)) else .error .fieldReserved) :=
  reads_if fun h0 =>
    reads_check [(6, 0), (6, m), (4, (fin 16 v 12).val), (4, (fin 16 v 16).val), (4, (fin 16 v 20).val), (7, M)]
    ⟨h0, hm, rfl, rfl, rfl, hM, trivial⟩ (he _ _ _) rfl (by simp only [glue, put]; omega)

/-- R95: an immediate of 16 bits. -/
theorem reads_immediate {mk : Fin 16 → Fin 16 → Fin 65536 → Instr} {M : Nat} (hM : fld v 24 7 = M)
    (he : ∀ d a i, encode (mk d a i) = some (M * 2 ^ 24 + put d.val 20 + put a.val 16 + i.val)) :
    Reads v (check (mk (fin 16 v 20) (fin 16 v 16) (fin 65536 v 0))) :=
  reads_check [(16, (fin 65536 v 0).val), (4, (fin 16 v 16).val), (4, (fin 16 v 20).val), (7, M)]
    ⟨rfl, rfl, rfl, hM, trivial⟩ (he _ _ _) rfl (by simp only [glue, put]; omega)

/-- R95: a shift by an immediate. -/
theorem reads_shiftImmediate {mk : Fin 16 → Fin 16 → Fin 64 → Instr} {M : Nat} (hM : fld v 24 7 = M)
    (he : ∀ d a i, encode (mk d a i) = some (M * 2 ^ 24 + put d.val 20 + put a.val 16 + i.val)) :
    Reads v (if fld v 6 10 = 0 then check (mk (fin 16 v 20) (fin 16 v 16) (fin 64 v 0)) else .error .fieldReserved) :=
  reads_if fun h6 => reads_check [(6, (fin 64 v 0).val), (10, 0), (4, (fin 16 v 16).val), (4, (fin 16 v 20).val), (7, M)]
    ⟨rfl, h6, rfl, rfl, hM, trivial⟩ (he _ _ _) rfl (by simp only [glue, put]; omega)

/-- R96, R98: a float operation of two sources. -/
theorem reads_float {mk : Fin 16 → Fin 16 → Fin 16 → Prec → Instr} {M m : Nat} (hM : fld v 24 7 = M) (hm : fld v 6 6 = m)
    (he : ∀ d a b p, encode (mk d a b p) =
      some (M * 2 ^ 24 + m * 2 ^ 6 + put d.val 20 + put a.val 16 + put b.val 12 + p.code)) :
    Reads v (if fld v 1 5 = 0 then
      withCode (Prec.ofCode (fld v 0 1)) fun p => check (mk (fin 16 v 20) (fin 16 v 16) (fin 16 v 12) p)
      else .error .fieldReserved) :=
  reads_if fun h1 => reads_withCode fun p hp =>
    reads_check [(1, p.code), (5, 0), (6, m), (4, (fin 16 v 12).val), (4, (fin 16 v 16).val), (4, (fin 16 v 20).val), (7, M)]
    ⟨prec_code_of_ofCode hp, h1, hm, rfl, rfl, rfl, hM, trivial⟩ (he _ _ _ _) rfl (by simp only [glue, put]; omega)

/-- R96, R100: a float operation of one source. -/
theorem reads_floatUnary {mk : Fin 16 → Fin 16 → Prec → Instr} {M m : Nat} (hM : fld v 24 7 = M) (hm : fld v 6 6 = m)
    (he : ∀ d a p, encode (mk d a p) = some (M * 2 ^ 24 + m * 2 ^ 6 + put d.val 20 + put a.val 16 + p.code)) :
    Reads v (if fld v 1 5 = 0 ∧ fld v 12 4 = 0 then
      withCode (Prec.ofCode (fld v 0 1)) fun p => check (mk (fin 16 v 20) (fin 16 v 16) p) else .error .fieldReserved) :=
  reads_if fun ⟨h1, h12⟩ => reads_withCode fun p hp =>
    reads_check [(1, p.code), (5, 0), (6, m), (4, 0), (4, (fin 16 v 16).val), (4, (fin 16 v 20).val), (7, M)]
    ⟨prec_code_of_ofCode hp, h1, hm, h12, rfl, rfl, hM, trivial⟩ (he _ _ _) rfl (by simp only [glue, put]; omega)

/-- R141, R147: a row operation of two sources. -/
theorem reads_row {mk : Fin 16 → Fin 16 → Fin 16 → Fin 16 → Fin 16 → Ty → Instr} {M : Nat} (hM : fld v 24 7 = M)
    (he : ∀ d a b r s t, encode (mk d a b r s t) =
      some (M * 2 ^ 24 + put d.val 20 + put a.val 16 + put b.val 12 + put r.val 8 + put s.val 4 + t.code)) :
    Reads v (withCode (Ty.ofCode (fld v 0 4)) fun t =>
      check (mk (fin 16 v 20) (fin 16 v 16) (fin 16 v 12) (fin 16 v 8) (fin 16 v 4) t)) :=
  reads_withCode fun t ht =>
    reads_check [(4, t.code), (4, (fin 16 v 4).val), (4, (fin 16 v 8).val), (4, (fin 16 v 12).val),
      (4, (fin 16 v 16).val), (4, (fin 16 v 20).val), (7, M)]
    ⟨ty_code_of_ofCode ht, rfl, rfl, rfl, rfl, rfl, hM, trivial⟩ (he _ _ _ _ _ _) rfl (by simp only [glue, put]; omega)

/-- R146, R151: a row operation of one source. -/
theorem reads_rowUnary {mk : Fin 16 → Fin 16 → Fin 16 → Fin 16 → Ty → Instr} {M : Nat} (hM : fld v 24 7 = M)
    (he : ∀ d a r s t, encode (mk d a r s t) =
      some (M * 2 ^ 24 + put d.val 20 + put a.val 16 + put r.val 8 + put s.val 4 + t.code)) :
    Reads v (if fld v 12 4 = 0 then
      withCode (Ty.ofCode (fld v 0 4)) fun t => check (mk (fin 16 v 20) (fin 16 v 16) (fin 16 v 8) (fin 16 v 4) t)
      else .error .fieldReserved) :=
  reads_if fun h12 => reads_withCode fun t ht =>
    reads_check [(4, t.code), (4, (fin 16 v 4).val), (4, (fin 16 v 8).val), (4, 0), (4, (fin 16 v 16).val),
      (4, (fin 16 v 20).val), (7, M)]
    ⟨ty_code_of_ofCode ht, rfl, rfl, h12, rfl, rfl, hM, trivial⟩ (he _ _ _ _ _) rfl (by simp only [glue, put]; omega)

/-- R171, R175: a slot and a source. -/
theorem reads_slot {mk : Fin 4 → Fin 16 → Instr} {M : Nat} (hM : fld v 24 7 = M)
    (he : ∀ s a, encode (mk s a) = some (M * 2 ^ 24 + put s.val 22 + put a.val 18)) :
    Reads v (if fld v 0 18 = 0 then check (mk (fin 4 v 22) (fin 16 v 18)) else .error .fieldReserved) :=
  reads_if fun h0 => reads_check [(18, 0), (4, (fin 16 v 18).val), (2, (fin 4 v 22).val), (7, M)]
    ⟨h0, rfl, rfl, hM, trivial⟩ (he _ _) rfl (by simp only [glue, put]; omega)

/-- R163: an entry of the alloy table. -/
theorem reads_alloy {mk : Fin 8 → Fin 16 → Instr} {M : Nat} (hM : fld v 24 7 = M)
    (he : ∀ e a, encode (mk e a) = some (M * 2 ^ 24 + put e.val 21 + put a.val 17)) :
    Reads v (if fld v 0 17 = 0 then check (mk (fin 8 v 21) (fin 16 v 17)) else .error .fieldReserved) :=
  reads_if fun h0 => reads_check [(17, 0), (4, (fin 16 v 17).val), (3, (fin 8 v 21).val), (7, M)]
    ⟨h0, rfl, rfl, hM, trivial⟩ (he _ _) rfl (by simp only [glue, put]; omega)

/-! Forms of one instruction. -/

theorem reads_decFence (hM : fld v 24 7 = 0x00) (hm : fld v 6 6 = 6) : Reads v (decFence v) :=
  reads_if fun h12 => reads_withCode fun s hs => reads_withCode fun o ho =>
    reads_check [(3, o.code), (3, s.code), (6, 6), (12, 0), (7, 0x00)]
    ⟨fOrd_code_of_ofCode ho, scope_code_of_ofCode hs, hm, h12, hM, trivial⟩ rfl rfl (by simp only [glue, put]; omega)

theorem reads_decPublish (hM : fld v 24 7 = 0x00) (hm : fld v 6 6 = 7) : Reads v (decPublish v) :=
  reads_if fun ⟨h0, h20⟩ => reads_check [(6, 0), (6, 7), (4, (fin 16 v 12).val), (4, (fin 16 v 16).val), (4, 0), (7, 0x00)]
    ⟨h0, hm, rfl, rfl, h20, hM, trivial⟩ rfl rfl (by simp only [glue, put]; omega)

theorem reads_decTlbinv (hM : fld v 24 7 = 0x00) (hm : fld v 6 6 = 8) : Reads v (decTlbinv v) :=
  reads_if fun ⟨h1, h12, h20⟩ =>
    reads_check [(1, bit (flag v 0)), (5, 0), (6, 8), (4, 0), (4, (fin 16 v 16).val), (4, 0), (7, 0x00)]
    ⟨fld_one v 0, h1, hm, h12, rfl, h20, hM, trivial⟩ rfl rfl (by simp only [glue, put]; omega)

theorem reads_decMfc (hM : fld v 24 7 = 0x00) (hm : fld v 6 6 = 9) : Reads v (decMfc v) :=
  reads_if fun h12 => reads_withCode fun c hc => reads_check [(6, c.code), (6, 9), (8, 0), (4, (fin 16 v 20).val), (7, 0x00)]
    ⟨cReg_code_of_ofCode hc, hm, h12, rfl, hM, trivial⟩ rfl rfl (by simp only [glue, put]; omega)

theorem reads_decMtc (hM : fld v 24 7 = 0x00) (hm : fld v 6 6 = 10) : Reads v (decMtc v) :=
  reads_if fun ⟨h12, h20⟩ => reads_withCode fun c hc =>
    reads_check [(6, c.code), (6, 10), (4, 0), (4, (fin 16 v 16).val), (4, 0), (7, 0x00)]
    ⟨cReg_code_of_ofCode hc, hm, h12, rfl, h20, hM, trivial⟩ rfl rfl (by simp only [glue, put]; omega)

theorem reads_decPfx (hM : fld v 24 7 = 0x01) : Reads v (decPfx v) :=
  reads_if fun h0 => reads_withCode fun o ho => reads_withCode fun s hs => reads_withCode fun p hp =>
    reads_withCode fun q hq => reads_check [(12, 0), (3, q.code), (3, p.code), (3, s.code), (3, o.code), (7, 0x01)]
    ⟨h0, pol_code_of_ofCode hq, spc_code_of_ofCode hp, scope_code_of_ofCode hs, ord_code_of_ofCode ho, hM, trivial⟩ rfl rfl
    (by simp only [glue, put]; omega)

theorem reads_decLoop (hM : fld v 24 7 = 0x02) : Reads v (decLoop v) :=
  reads_if fun h0 =>
    reads_check [(4, 0), (4, (fin 16 v 4).val), (2, (fin 4 v 8).val), (4, (fin 16 v 10).val), (6, (fin 64 v 14).val),
      (4, (fin 16 v 20).val), (7, 0x02)]
    ⟨h0, rfl, rfl, rfl, rfl, rfl, hM, trivial⟩ rfl rfl (by simp only [glue, put]; omega)

theorem reads_decWait (hM : fld v 24 7 = 0x03) : Reads v (decWait v) :=
  reads_check [(6, (fin 64 v 0).val), (6, (fin 64 v 6).val), (6, (fin 64 v 12).val), (6, (fin 64 v 18).val), (7, 0x03)]
    ⟨rfl, rfl, rfl, rfl, hM, trivial⟩ rfl rfl (by simp only [glue, put]; omega)

theorem reads_decLdx (hM : fld v 24 7 = 0x13) (hm : fld v 6 6 = 0) : Reads v (decLdx v) :=
  reads_if fun h4 => reads_withCode fun z hz =>
    reads_check [(2, z.code), (1, bit (flag v 2)), (1, bit (flag v 3)), (2, 0), (6, 0), (4, (fin 16 v 12).val),
      (4, (fin 16 v 16).val), (4, (fin 16 v 20).val), (7, 0x13)]
    ⟨size_code_of_ofCode hz, fld_one v 2, fld_one v 3, h4, hm, rfl, rfl, rfl, hM, trivial⟩ rfl rfl
    (by simp only [glue, put]; omega)

theorem reads_decStx (hM : fld v 24 7 = 0x14) (hm : fld v 6 6 = 0) : Reads v (decStx v) :=
  reads_if fun ⟨h2, h4⟩ => reads_withCode fun z hz =>
    reads_check [(2, z.code), (1, 0), (1, bit (flag v 3)), (2, 0), (6, 0), (4, (fin 16 v 12).val),
      (4, (fin 16 v 16).val), (4, (fin 16 v 20).val), (7, 0x14)]
    ⟨size_code_of_ofCode hz, h2, fld_one v 3, h4, hm, rfl, rfl, rfl, hM, trivial⟩ rfl rfl (by simp only [glue, put]; omega)

theorem reads_decXld (hM : fld v 24 7 = 0x17) : Reads v (decXld v) :=
  reads_check [(12, (fin 4096 v 0).val), (3, (fin 8 v 12).val), (1, bit (flag v 15)), (4, (fin 16 v 16).val),
    (4, (fin 16 v 20).val), (7, 0x17)]
    ⟨rfl, rfl, fld_one v 15, rfl, rfl, hM, trivial⟩ rfl rfl (by simp only [glue, put]; omega)

theorem reads_decXst (hM : fld v 24 7 = 0x18) : Reads v (decXst v) :=
  reads_if fun h15 =>
    reads_check [(12, (fin 4096 v 0).val), (3, (fin 8 v 12).val), (1, 0), (4, (fin 16 v 16).val), (4, (fin 16 v 20).val),
      (7, 0x18)]
    ⟨rfl, rfl, h15, rfl, rfl, hM, trivial⟩ rfl rfl (by simp only [glue, put]; omega)

theorem reads_decXldt (hM : fld v 24 7 = 0x19) : Reads v (decXldt v) :=
  reads_if fun h14 => reads_withCode fun w hw =>
    reads_check [(12, (fin 4096 v 0).val), (2, w.code), (2, 0), (4, (fin 16 v 16).val), (4, (fin 16 v 20).val), (7, 0x19)]
    ⟨rfl, xldtW_code_of_ofCode hw, h14, rfl, rfl, hM, trivial⟩ rfl rfl (by simp only [glue, put]; omega)

theorem reads_decWld (hM : fld v 24 7 = 0x1A) : Reads v (decWld v) :=
  reads_if fun h22 =>
    reads_check [(12, (fin 4096 v 0).val), (3, (fin 8 v 12).val), (1, bit (flag v 15)), (4, (fin 16 v 16).val),
      (2, (fin 4 v 20).val), (2, 0), (7, 0x1A)]
    ⟨rfl, rfl, fld_one v 15, rfl, rfl, h22, hM, trivial⟩ rfl rfl (by simp only [glue, put]; omega)

theorem reads_decRowact (hM : fld v 24 7 = 0x1B) : Reads v (decRowact v) :=
  reads_if fun ⟨h12, h20⟩ => reads_check [(12, (fin 4096 v 0).val), (4, 0), (4, (fin 16 v 16).val), (4, 0), (7, 0x1B)]
    ⟨rfl, h12, rfl, h20, hM, trivial⟩ rfl rfl (by simp only [glue, put]; omega)

theorem reads_decAcas (hM : fld v 24 7 = 0x1C) (hm : fld v 6 6 = 9) : Reads v (decAcas v) :=
  reads_withCode fun z hz =>
    reads_check [(2, z.code), (4, (fin 16 v 2).val), (6, 9), (4, (fin 16 v 12).val), (4, (fin 16 v 16).val),
      (4, (fin 16 v 20).val), (7, 0x1C)]
    ⟨aSize_code_of_ofCode hz, rfl, hm, rfl, rfl, rfl, hM, trivial⟩ rfl rfl (by simp only [glue, put]; omega)

theorem reads_decCpys (hM : fld v 24 7 = 0x21) : Reads v (decCpys v) :=
  reads_if fun h16 => reads_check [(16, (fin 65536 v 0).val), (8, 0), (7, 0x21)] ⟨rfl, h16, hM, trivial⟩ rfl rfl
    (by simp only [glue, put]; omega)

theorem reads_decFwait (hM : fld v 24 7 = 0x26) (hm : fld v 16 5 = 0) : Reads v (decFwait v) :=
  reads_if fun h1 => reads_check [(1, bit (flag v 0)), (15, 0), (5, 0), (3, (fin 8 v 21).val), (7, 0x26)]
    ⟨fld_one v 0, h1, hm, rfl, hM, trivial⟩ rfl rfl (by simp only [glue, put]; omega)

theorem reads_decFget (hM : fld v 24 7 = 0x26) (hm : fld v 16 5 = 1) : Reads v (decFget v) :=
  reads_if fun ⟨h1, h8⟩ => reads_withCode fun w hw =>
    reads_check [(1, bit (flag v 0)), (3, 0), (4, w.val), (4, 0), (4, (fin 16 v 12).val), (5, 1), (3, (fin 8 v 21).val),
      (7, 0x26)]
    ⟨fld_one v 0, h1, val_of_finBelow hw, h8, rfl, hm, rfl, hM, trivial⟩ rfl rfl (by simp only [glue, put]; omega)

theorem reads_decFtest (hM : fld v 24 7 = 0x26) (hm : fld v 16 5 = 2) : Reads v (decFtest v) :=
  reads_if fun h0 => reads_check [(12, 0), (4, (fin 16 v 12).val), (5, 2), (3, (fin 8 v 21).val), (7, 0x26)]
    ⟨h0, rfl, hm, rfl, hM, trivial⟩ rfl rfl (by simp only [glue, put]; omega)

theorem reads_decFcancel (hM : fld v 24 7 = 0x26) (hm : fld v 16 5 = 3) : Reads v (decFcancel v) :=
  reads_if fun h0 => reads_check [(16, 0), (5, 3), (3, (fin 8 v 21).val), (7, 0x26)] ⟨h0, hm, rfl, hM, trivial⟩ rfl rfl
    (by simp only [glue, put]; omega)

theorem reads_decFxfer (hM : fld v 24 7 = 0x26) (hm : fld v 16 5 = 4) : Reads v (decFxfer v) :=
  reads_if fun ⟨h0, h11⟩ =>
    reads_check [(8, 0), (3, (fin 8 v 8).val), (1, 0), (4, (fin 16 v 12).val), (5, 4), (3, (fin 8 v 21).val), (7, 0x26)]
    ⟨h0, rfl, h11, rfl, hm, rfl, hM, trivial⟩ rfl rfl (by simp only [glue, put]; omega)

theorem reads_decBarArr (hM : fld v 24 7 = 0x28) (hm : fld v 6 6 = 0) : Reads v (decBarArr v) :=
  reads_if fun h15 => reads_withCode fun k hk =>
    reads_check [(6, (fin 64 v 0).val), (6, 0), (3, k.code), (5, 0), (4, (fin 16 v 20).val), (7, 0x28)]
    ⟨rfl, hm, barDom_code_of_ofCode hk, h15, rfl, hM, trivial⟩ rfl rfl (by simp only [glue, put]; omega)

theorem reads_decBarWait (hM : fld v 24 7 = 0x28) (hm : fld v 6 6 = 1) : Reads v (decBarWait v) :=
  reads_if fun ⟨h15, h20⟩ => reads_withCode fun k hk =>
    reads_check [(6, (fin 64 v 0).val), (6, 1), (3, k.code), (1, 0), (4, (fin 16 v 16).val), (4, 0), (7, 0x28)]
    ⟨rfl, hm, barDom_code_of_ofCode hk, h15, rfl, h20, hM, trivial⟩ rfl rfl (by simp only [glue, put]; omega)

theorem reads_decBarAw (hM : fld v 24 7 = 0x28) (hm : fld v 6 6 = 2) : Reads v (decBarAw v) :=
  reads_if fun h15 => reads_withCode fun k hk => reads_check [(6, (fin 64 v 0).val), (6, 2), (3, k.code), (9, 0), (7, 0x28)]
    ⟨rfl, hm, barDom_code_of_ofCode hk, h15, hM, trivial⟩ rfl rfl (by simp only [glue, put]; omega)

theorem reads_decTsem (hM : fld v 24 7 = 0x29) (hm : fld v 6 6 = 2) : Reads v (decTsem v) :=
  reads_if fun ⟨h4, h12⟩ =>
    reads_check [(4, (fin 16 v 0).val), (2, 0), (6, 2), (4, 0), (4, (fin 16 v 16).val), (4, (fin 16 v 20).val), (7, 0x29)]
    ⟨rfl, h4, hm, h12, rfl, rfl, hM, trivial⟩ rfl rfl (by simp only [glue, put]; omega)

theorem reads_decWldone (hM : fld v 24 7 = 0x2B) (hm : fld v 6 6 = 2) : Reads v (decWldone v) :=
  reads_if fun ⟨h12, h20⟩ => reads_check [(6, (fin 64 v 0).val), (6, 2), (4, 0), (4, (fin 16 v 16).val), (4, 0), (7, 0x2B)]
    ⟨rfl, hm, h12, rfl, h20, hM, trivial⟩ rfl rfl (by simp only [glue, put]; omega)

theorem reads_decSel (hM : fld v 24 7 = 0x40) (hm : fld v 6 6 = 18) : Reads v (decSel v) :=
  reads_if fun h4 =>
    reads_check [(4, (fin 16 v 0).val), (2, 0), (6, 18), (4, (fin 16 v 12).val), (4, (fin 16 v 16).val),
      (4, (fin 16 v 20).val), (7, 0x40)]
    ⟨rfl, h4, hm, rfl, rfl, rfl, hM, trivial⟩ rfl rfl (by simp only [glue, put]; omega)

theorem reads_decLi (hM : fld v 24 7 = 0x4A) : Reads v (decLi v) :=
  reads_if fun h16 => reads_check [(16, (fin 65536 v 0).val), (4, 0), (4, (fin 16 v 20).val), (7, 0x4A)]
    ⟨rfl, h16, rfl, hM, trivial⟩ rfl rfl (by simp only [glue, put]; omega)

theorem reads_decFcmp (hM : fld v 24 7 = 0x4C) (hm : fld v 6 6 = 7) : Reads v (decFcmp v) :=
  reads_if fun h4 => reads_withCode fun c hc => reads_withCode fun p hp =>
    reads_check [(1, p.code), (3, c.code), (2, 0), (6, 7), (4, (fin 16 v 12).val), (4, (fin 16 v 16).val),
      (4, (fin 16 v 20).val), (7, 0x4C)]
    ⟨prec_code_of_ofCode hp, fcmpPred_code_of_ofCode hc, h4, hm, rfl, rfl, rfl, hM, trivial⟩ rfl rfl
    (by simp only [glue, put]; omega)

theorem reads_decFcvt (hM : fld v 24 7 = 0x4C) (hm : fld v 6 6 = 8) : Reads v (decFcvt v) :=
  reads_if fun h12 => reads_withCode fun c hc =>
    reads_check [(6, c.code), (6, 8), (4, 0), (4, (fin 16 v 16).val), (4, (fin 16 v 20).val), (7, 0x4C)]
    ⟨fcvtOp_code_of_ofCode hc, hm, h12, rfl, rfl, hM, trivial⟩ rfl rfl (by simp only [glue, put]; omega)

theorem reads_decFma (hM : fld v 24 7 = 0x4D) : Reads v (decFma v) :=
  reads_if fun h6 => reads_withCode fun p hp =>
    reads_check [(4, (fin 16 v 0).val), (1, p.code), (1, bit (flag v 5)), (6, 0), (4, (fin 16 v 12).val),
      (4, (fin 16 v 16).val), (4, (fin 16 v 20).val), (7, 0x4D)]
    ⟨rfl, prec_code_of_ofCode hp, fld_one v 5, h6, rfl, rfl, rfl, hM, trivial⟩ rfl rfl (by simp only [glue, put]; omega)

theorem reads_decVcvt (hM : fld v 24 7 = 0x60) : Reads v (decVcvt v) :=
  reads_withCode fun y hy => reads_withCode fun t ht =>
    reads_check [(4, t.code), (4, (fin 16 v 4).val), (4, (fin 16 v 8).val), (4, y.code), (4, (fin 16 v 16).val),
      (4, (fin 16 v 20).val), (7, 0x60)]
    ⟨ty_code_of_ofCode ht, rfl, rfl, ty_code_of_ofCode hy, rfl, rfl, hM, trivial⟩ rfl rfl (by simp only [glue, put]; omega)

theorem reads_decVred (hM : fld v 24 7 = 0x61) : Reads v (decVred v) :=
  reads_if fun h8 => reads_withCode fun o ho => reads_withCode fun t ht =>
    reads_check [(4, t.code), (4, (fin 16 v 4).val), (4, 0), (4, o.code), (4, (fin 16 v 16).val), (4, (fin 16 v 20).val),
      (7, 0x61)]
    ⟨ty_code_of_ofCode ht, rfl, h8, redOp_code_of_ofCode ho, rfl, rfl, hM, trivial⟩ rfl rfl (by simp only [glue, put]; omega)

theorem reads_decVbcst (hM : fld v 24 7 = 0x62) : Reads v (decVbcst v) :=
  reads_if fun ⟨h4, h12⟩ => reads_withCode fun t ht =>
    reads_check [(4, t.code), (4, 0), (4, (fin 16 v 8).val), (4, 0), (4, (fin 16 v 16).val), (4, (fin 16 v 20).val),
      (7, 0x62)]
    ⟨ty_code_of_ofCode ht, h4, rfl, h12, rfl, rfl, hM, trivial⟩ rfl rfl (by simp only [glue, put]; omega)

theorem reads_decVvote (hM : fld v 24 7 = 0x64) : Reads v (decVvote v) :=
  reads_if fun h8 => reads_withCode fun o ho => reads_withCode fun t ht =>
    reads_check [(4, t.code), (4, (fin 16 v 4).val), (4, 0), (4, o.code), (4, (fin 16 v 16).val), (4, (fin 16 v 20).val),
      (7, 0x64)]
    ⟨ty_code_of_ofCode ht, rfl, h8, voteOp_code_of_ofCode ho, rfl, rfl, hM, trivial⟩ rfl rfl
    (by simp only [glue, put]; omega)

theorem reads_decVext (hM : fld v 24 7 = 0x66) : Reads v (decVext v) :=
  reads_if fun h8 => reads_withCode fun t ht =>
    reads_check [(4, t.code), (4, (fin 16 v 4).val), (4, 0), (4, (fin 16 v 12).val), (4, (fin 16 v 16).val),
      (4, (fin 16 v 20).val), (7, 0x66)]
    ⟨ty_code_of_ofCode ht, rfl, h8, rfl, rfl, rfl, hM, trivial⟩ rfl rfl (by simp only [glue, put]; omega)

theorem reads_decVins (hM : fld v 24 7 = 0x67) : Reads v (decVins v) :=
  reads_if fun h4 => reads_withCode fun t ht =>
    reads_check [(4, t.code), (4, 0), (4, (fin 16 v 8).val), (4, (fin 16 v 12).val), (4, (fin 16 v 16).val),
      (4, (fin 16 v 20).val), (7, 0x67)]
    ⟨ty_code_of_ofCode ht, h4, rfl, rfl, rfl, rfl, hM, trivial⟩ rfl rfl (by simp only [glue, put]; omega)

theorem reads_decVcpy (hM : fld v 24 7 = 0x6B) : Reads v (decVcpy v) :=
  reads_if fun ⟨h0, h12⟩ =>
    reads_check [(4, 0), (4, (fin 16 v 4).val), (4, (fin 16 v 8).val), (4, 0), (4, (fin 16 v 16).val),
      (4, (fin 16 v 20).val), (7, 0x6B)]
    ⟨h0, rfl, rfl, h12, rfl, rfl, hM, trivial⟩ rfl rfl (by simp only [glue, put]; omega)

theorem reads_decXzero (hM : fld v 24 7 = 0x6C) (hm : fld v 6 6 = 0) : Reads v (decXzero v) :=
  reads_if fun ⟨h0, h12⟩ => reads_check [(6, 0), (6, 0), (8, 0), (4, (fin 16 v 20).val), (7, 0x6C)]
    ⟨h0, hm, h12, rfl, hM, trivial⟩ rfl rfl (by simp only [glue, put]; omega)

theorem reads_decMmul (hM : fld v 24 7 = 0x70) : Reads v (decMmul v) :=
  reads_if fun h0 =>
    reads_check [(3, 0), (4, (fin 16 v 3).val), (4, (fin 16 v 7).val), (4, (fin 16 v 11).val), (4, (fin 16 v 15).val),
      (3, (fin 8 v 19).val), (2, (fin 4 v 22).val), (7, 0x70)]
    ⟨h0, rfl, rfl, rfl, rfl, rfl, rfl, hM, trivial⟩ rfl rfl (by simp only [glue, put]; omega)

theorem reads_decMdrain (hM : fld v 24 7 = 0x71) : Reads v (decMdrain v) :=
  reads_if fun h0 => reads_withCode fun t ht =>
    reads_check [(14, 0), (4, t.code), (4, (fin 16 v 18).val), (2, (fin 4 v 22).val), (7, 0x71)]
    ⟨h0, ty_code_of_ofCode ht, rfl, rfl, hM, trivial⟩ rfl rfl (by simp only [glue, put]; omega)

theorem reads_decMswap (hM : fld v 24 7 = 0x73) : Reads v (decMswap v) :=
  reads_if fun h0 => reads_check [(22, 0), (2, (fin 4 v 22).val), (7, 0x73)] ⟨h0, rfl, hM, trivial⟩ rfl rfl
    (by simp only [glue, put]; omega)

theorem reads_decMacz (hM : fld v 24 7 = 0x74) : Reads v (decMacz v) :=
  reads_if fun h0 => reads_check [(19, 0), (3, (fin 8 v 19).val), (2, (fin 4 v 22).val), (7, 0x74)]
    ⟨h0, rfl, rfl, hM, trivial⟩ rfl rfl (by simp only [glue, put]; omega)

/-! Minor and major codes. -/

theorem reads_decMajor00 (hM : fld v 24 7 = 0x00) : Reads v (decMajor00 v) := by
  unfold decMajor00
  split
  next hm => exact reads_bare hM hm rfl
  next hm => exact reads_bare hM hm rfl
  next hm => exact reads_number hM hm fun _ => rfl
  next hm => exact reads_bare hM hm rfl
  next hm => exact reads_number hM hm fun _ => rfl
  next hm => exact reads_bare hM hm rfl
  next hm => exact reads_decFence hM hm
  next hm => exact reads_decPublish hM hm
  next hm => exact reads_decTlbinv hM hm
  next hm => exact reads_decMfc hM hm
  next hm => exact reads_decMtc hM hm
  next => exact reads_error _

theorem reads_decMajor13 (hM : fld v 24 7 = 0x13) : Reads v (decMajor13 v) := by
  unfold decMajor13
  split
  next hm => exact reads_decLdx hM hm
  next => exact reads_error _

theorem reads_decMajor14 (hM : fld v 24 7 = 0x14) : Reads v (decMajor14 v) := by
  unfold decMajor14
  split
  next hm => exact reads_decStx hM hm
  next => exact reads_error _

theorem reads_decMajor1C (hM : fld v 24 7 = 0x1C) : Reads v (decMajor1C v) := by
  unfold decMajor1C
  split
  next hm => exact reads_atomic hM hm fun _ _ _ _ => rfl
  next hm => exact reads_atomic hM hm fun _ _ _ _ => rfl
  next hm => exact reads_atomic hM hm fun _ _ _ _ => rfl
  next hm => exact reads_atomic hM hm fun _ _ _ _ => rfl
  next hm => exact reads_atomic hM hm fun _ _ _ _ => rfl
  next hm => exact reads_atomic hM hm fun _ _ _ _ => rfl
  next hm => exact reads_atomic hM hm fun _ _ _ _ => rfl
  next hm => exact reads_atomic hM hm fun _ _ _ _ => rfl
  next hm => exact reads_atomic hM hm fun _ _ _ _ => rfl
  next hm => exact reads_decAcas hM hm
  next hm => exact reads_atomic hM hm fun _ _ _ _ => rfl
  next hm => exact reads_atomic hM hm fun _ _ _ _ => rfl
  next hm => exact reads_atomic hM hm fun _ _ _ _ => rfl
  next => exact reads_error _

theorem reads_decMajor20 (hM : fld v 24 7 = 0x20) : Reads v (decMajor20 v) := by
  unfold decMajor20
  split
  next hm => exact reads_command hM hm fun _ _ _ _ => rfl
  next => exact reads_error _

theorem reads_decMajor22 (hM : fld v 24 7 = 0x22) : Reads v (decMajor22 v) := by
  unfold decMajor22
  split
  next hm => exact reads_command hM hm fun _ _ _ _ => rfl
  next hm => exact reads_command hM hm fun _ _ _ _ => rfl
  next hm => exact reads_command hM hm fun _ _ _ _ => rfl
  next hm => exact reads_command hM hm fun _ _ _ _ => rfl
  next hm => exact reads_command hM hm fun _ _ _ _ => rfl
  next hm => exact reads_command hM hm fun _ _ _ _ => rfl
  next hm => exact reads_command hM hm fun _ _ _ _ => rfl
  next hm => exact reads_command hM hm fun _ _ _ _ => rfl
  next hm => exact reads_command hM hm fun _ _ _ _ => rfl
  next hm => exact reads_command hM hm fun _ _ _ _ => rfl
  next hm => exact reads_command hM hm fun _ _ _ _ => rfl
  next hm => exact reads_command hM hm fun _ _ _ _ => rfl
  next => exact reads_error _

theorem reads_decMajor23 (hM : fld v 24 7 = 0x23) : Reads v (decMajor23 v) := by
  unfold decMajor23
  split
  next hm => exact reads_walk hM hm fun _ _ _ => rfl
  next hm => exact reads_walk hM hm fun _ _ _ => rfl
  next => exact reads_error _

theorem reads_decMajor24 (hM : fld v 24 7 = 0x24) : Reads v (decMajor24 v) := by
  unfold decMajor24
  split
  next hm => exact reads_walk hM hm fun _ _ _ => rfl
  next => exact reads_error _

theorem reads_decMajor25 (hM : fld v 24 7 = 0x25) : Reads v (decMajor25 v) := by
  unfold decMajor25
  split
  next hm => exact reads_walk hM hm fun _ _ _ => rfl
  next => exact reads_error _

theorem reads_decMajor26 (hM : fld v 24 7 = 0x26) : Reads v (decMajor26 v) := by
  unfold decMajor26
  split
  next hm => exact reads_decFwait hM hm
  next hm => exact reads_decFget hM hm
  next hm => exact reads_decFtest hM hm
  next hm => exact reads_decFcancel hM hm
  next hm => exact reads_decFxfer hM hm
  next => exact reads_error _

theorem reads_decMajor28 (hM : fld v 24 7 = 0x28) : Reads v (decMajor28 v) := by
  unfold decMajor28
  split
  next hm => exact reads_decBarArr hM hm
  next hm => exact reads_decBarWait hM hm
  next hm => exact reads_decBarAw hM hm
  next => exact reads_error _

theorem reads_decMajor29 (hM : fld v 24 7 = 0x29) : Reads v (decMajor29 v) := by
  unfold decMajor29
  split
  next hm => exact reads_semaphore hM hm fun _ _ => rfl
  next hm => exact reads_semaphore hM hm fun _ _ => rfl
  next hm => exact reads_decTsem hM hm
  next => exact reads_error _

theorem reads_decMajor2A (hM : fld v 24 7 = 0x2A) : Reads v (decMajor2A v) := by
  unfold decMajor2A
  split
  next hm => exact reads_arrival hM hm fun _ _ _ => rfl
  next hm => exact reads_arrival hM hm fun _ _ _ => rfl
  next hm => exact reads_arrivalResult hM hm fun _ _ _ _ => rfl
  next => exact reads_error _

theorem reads_decMajor2B (hM : fld v 24 7 = 0x2B) : Reads v (decMajor2B v) := by
  unfold decMajor2B
  split
  next hm => exact reads_arrival hM hm fun _ _ _ => rfl
  next hm => exact reads_arrivalResult hM hm fun _ _ _ _ => rfl
  next hm => exact reads_decWldone hM hm
  next hm => exact reads_bare hM hm rfl
  next => exact reads_error _

theorem reads_decMajor2C (hM : fld v 24 7 = 0x2C) : Reads v (decMajor2C v) := by
  unfold decMajor2C
  split
  next hm => exact reads_oneScalar hM hm fun _ => rfl
  next hm => exact reads_twoNames hM hm fun _ _ => rfl
  next hm => exact reads_twoNames hM hm fun _ _ => rfl
  next hm => exact reads_oneScalar hM hm fun _ => rfl
  next hm => exact reads_bare hM hm rfl
  next hm => exact reads_twoNames hM hm fun _ _ => rfl
  next => exact reads_error _

theorem reads_decMajor40 (hM : fld v 24 7 = 0x40) : Reads v (decMajor40 v) := by
  unfold decMajor40
  split
  next hm => exact reads_threeNames hM hm fun _ _ _ => rfl
  next hm => exact reads_threeNames hM hm fun _ _ _ => rfl
  next hm => exact reads_threeNames hM hm fun _ _ _ => rfl
  next hm => exact reads_threeNames hM hm fun _ _ _ => rfl
  next hm => exact reads_threeNames hM hm fun _ _ _ => rfl
  next hm => exact reads_threeNames hM hm fun _ _ _ => rfl
  next hm => exact reads_threeNames hM hm fun _ _ _ => rfl
  next hm => exact reads_threeNames hM hm fun _ _ _ => rfl
  next hm => exact reads_threeNames hM hm fun _ _ _ => rfl
  next hm => exact reads_threeNames hM hm fun _ _ _ => rfl
  next hm => exact reads_threeNames hM hm fun _ _ _ => rfl
  next hm => exact reads_threeNames hM hm fun _ _ _ => rfl
  next hm => exact reads_threeNames hM hm fun _ _ _ => rfl
  next hm => exact reads_threeNames hM hm fun _ _ _ => rfl
  next hm => exact reads_threeNames hM hm fun _ _ _ => rfl
  next hm => exact reads_threeNames hM hm fun _ _ _ => rfl
  next hm => exact reads_threeNames hM hm fun _ _ _ => rfl
  next hm => exact reads_threeNames hM hm fun _ _ _ => rfl
  next hm => exact reads_decSel hM hm
  next hm => exact reads_twoNames hM hm fun _ _ => rfl
  next hm => exact reads_twoNames hM hm fun _ _ => rfl
  next hm => exact reads_twoNames hM hm fun _ _ => rfl
  next hm => exact reads_twoNames hM hm fun _ _ => rfl
  next => exact reads_error _

theorem reads_decMajor41 (hM : fld v 24 7 = 0x41) : Reads v (decMajor41 v) := by
  unfold decMajor41
  split
  next hm => exact reads_threeNames hM hm fun _ _ _ => rfl
  next hm => exact reads_threeNames hM hm fun _ _ _ => rfl
  next hm => exact reads_threeNames hM hm fun _ _ _ => rfl
  next hm => exact reads_threeNames hM hm fun _ _ _ => rfl
  next hm => exact reads_threeNames hM hm fun _ _ _ => rfl
  next hm => exact reads_threeNames hM hm fun _ _ _ => rfl
  next hm => exact reads_threeNames hM hm fun _ _ _ => rfl
  next => exact reads_error _

theorem reads_decMajor4C (hM : fld v 24 7 = 0x4C) : Reads v (decMajor4C v) := by
  unfold decMajor4C
  split
  next hm => exact reads_float hM hm fun _ _ _ _ => rfl
  next hm => exact reads_float hM hm fun _ _ _ _ => rfl
  next hm => exact reads_float hM hm fun _ _ _ _ => rfl
  next hm => exact reads_float hM hm fun _ _ _ _ => rfl
  next hm => exact reads_floatUnary hM hm fun _ _ _ => rfl
  next hm => exact reads_float hM hm fun _ _ _ _ => rfl
  next hm => exact reads_float hM hm fun _ _ _ _ => rfl
  next hm => exact reads_decFcmp hM hm
  next hm => exact reads_decFcvt hM hm
  next hm => exact reads_floatUnary hM hm fun _ _ _ => rfl
  next => exact reads_error _

theorem reads_decMajor6C (hM : fld v 24 7 = 0x6C) : Reads v (decMajor6C v) := by
  unfold decMajor6C
  split
  next hm => exact reads_decXzero hM hm
  next hm => exact reads_twoNames hM hm fun _ _ => rfl
  next hm => exact reads_twoNames hM hm fun _ _ => rfl
  next hm => exact reads_twoNames hM hm fun _ _ => rfl
  next => exact reads_error _

/-- R62: the major codes. -/
theorem reads_decodeWord (v : Nat) : Reads v (decodeWord v) := by
  unfold decodeWord
  split
  next hM => exact reads_decMajor00 hM
  next hM => exact reads_decPfx hM
  next hM => exact reads_decLoop hM
  next hM => exact reads_decWait hM
  next hM => exact reads_branch hM fun _ _ _ _ => rfl
  next hM => exact reads_branch hM fun _ _ _ _ => rfl
  next hM => exact reads_branch hM fun _ _ _ _ => rfl
  next hM => exact reads_branch hM fun _ _ _ _ => rfl
  next hM => exact reads_branch hM fun _ _ _ _ => rfl
  next hM => exact reads_branch hM fun _ _ _ _ => rfl
  next hM => exact reads_branchZero hM fun _ _ _ => rfl
  next hM => exact reads_branchZero hM fun _ _ _ => rfl
  next hM => exact reads_jump hM fun _ => rfl
  next hM => exact reads_jump hM fun _ => rfl
  next hM => exact reads_jumpScalar hM fun _ => rfl
  next hM => exact reads_jumpScalar hM fun _ => rfl
  next hM => exact reads_scalarAccess hM fun _ _ _ _ => rfl
  next hM => exact reads_scalarAccess hM fun _ _ _ _ => rfl
  next hM => exact reads_scalarAccess hM fun _ _ _ _ => rfl
  next hM => exact reads_decMajor13 hM
  next hM => exact reads_decMajor14 hM
  next hM => exact reads_rowAccess hM fun _ _ _ _ => rfl
  next hM => exact reads_rowAccess hM fun _ _ _ _ => rfl
  next hM => exact reads_decXld hM
  next hM => exact reads_decXst hM
  next hM => exact reads_decXldt hM
  next hM => exact reads_decWld hM
  next hM => exact reads_decRowact hM
  next hM => exact reads_decMajor1C hM
  next hM => exact reads_decMajor20 hM
  next hM => exact reads_decCpys hM
  next hM => exact reads_decMajor22 hM
  next hM => exact reads_decMajor23 hM
  next hM => exact reads_decMajor24 hM
  next hM => exact reads_decMajor25 hM
  next hM => exact reads_decMajor26 hM
  next hM => exact reads_decMajor28 hM
  next hM => exact reads_decMajor29 hM
  next hM => exact reads_decMajor2A hM
  next hM => exact reads_decMajor2B hM
  next hM => exact reads_decMajor2C hM
  next hM => exact reads_decMajor40 hM
  next hM => exact reads_decMajor41 hM
  next hM => exact reads_immediate hM fun _ _ _ => rfl
  next hM => exact reads_immediate hM fun _ _ _ => rfl
  next hM => exact reads_immediate hM fun _ _ _ => rfl
  next hM => exact reads_immediate hM fun _ _ _ => rfl
  next hM => exact reads_shiftImmediate hM fun _ _ _ => rfl
  next hM => exact reads_shiftImmediate hM fun _ _ _ => rfl
  next hM => exact reads_shiftImmediate hM fun _ _ _ => rfl
  next hM => exact reads_immediate hM fun _ _ _ => rfl
  next hM => exact reads_decLi hM
  next hM => exact reads_immediate hM fun _ _ _ => rfl
  next hM => exact reads_decMajor4C hM
  next hM => exact reads_decFma hM
  next hM => exact reads_row hM fun _ _ _ _ _ _ => rfl
  next hM => exact reads_row hM fun _ _ _ _ _ _ => rfl
  next hM => exact reads_row hM fun _ _ _ _ _ _ => rfl
  next hM => exact reads_row hM fun _ _ _ _ _ _ => rfl
  next hM => exact reads_row hM fun _ _ _ _ _ _ => rfl
  next hM => exact reads_row hM fun _ _ _ _ _ _ => rfl
  next hM => exact reads_row hM fun _ _ _ _ _ _ => rfl
  next hM => exact reads_row hM fun _ _ _ _ _ _ => rfl
  next hM => exact reads_row hM fun _ _ _ _ _ _ => rfl
  next hM => exact reads_row hM fun _ _ _ _ _ _ => rfl
  next hM => exact reads_row hM fun _ _ _ _ _ _ => rfl
  next hM => exact reads_row hM fun _ _ _ _ _ _ => rfl
  next hM => exact reads_row hM fun _ _ _ _ _ _ => rfl
  next hM => exact reads_row hM fun _ _ _ _ _ _ => rfl
  next hM => exact reads_row hM fun _ _ _ _ _ _ => rfl
  next hM => exact reads_row hM fun _ _ _ _ _ _ => rfl
  next hM => exact reads_decVcvt hM
  next hM => exact reads_decVred hM
  next hM => exact reads_decVbcst hM
  next hM => exact reads_row hM fun _ _ _ _ _ _ => rfl
  next hM => exact reads_decVvote hM
  next hM => exact reads_rowUnary hM fun _ _ _ _ _ => rfl
  next hM => exact reads_decVext hM
  next hM => exact reads_decVins hM
  next hM => exact reads_rowUnary hM fun _ _ _ _ _ => rfl
  next hM => exact reads_rowUnary hM fun _ _ _ _ _ => rfl
  next hM => exact reads_rowUnary hM fun _ _ _ _ _ => rfl
  next hM => exact reads_decVcpy hM
  next hM => exact reads_decMajor6C hM
  next hM => exact reads_decMmul hM
  next hM => exact reads_decMdrain hM
  next hM => exact reads_slot hM fun _ _ => rfl
  next hM => exact reads_decMswap hM
  next hM => exact reads_decMacz hM
  next hM => exact reads_alloy hM fun _ _ => rfl
  next hM => exact reads_alloy hM fun _ _ => rfl
  next hM => exact reads_slot hM fun _ _ => rfl
  next hM => exact reads_slot hM fun _ _ => rfl
  next => exact reads_error _

end

/-- Settles O55, by the codes that the decoder looks at, major before minor. -/
theorem decodeIsUnambiguous : Obligations.DecodeIsUnambiguous :=
  fun i v h => reads_decodeWord v i h

end Sys2Proof.Laws
end

section
/-! SUPPORT. What counting, tracing, fingerprints and the correction of errors leave: the memory, the contexts, the
tile registers, the slots, the monitor's registers and the code images (`Steady`). -/

namespace Sys2Proof.Machine

/-- A tile as before, but for its fingerprints, counters, vault and errors. -/
structure TileSteady (x y : Tile) : Prop where
  ctxs : y.ctxs = x.ctxs
  xregs : y.xregs = x.xregs
  slots : y.slots = x.slots
  mon : y.mon = x.mon
  image : ∀ k, (Sparse.get ({} : CoreSt) y.cores k).image = (Sparse.get ({} : CoreSt) x.cores k).image
  imageLen : ∀ k, (Sparse.get ({} : CoreSt) y.cores k).imageLen = (Sparse.get ({} : CoreSt) x.cores k).imageLen

theorem TileSteady.refl (x : Tile) : TileSteady x x := ⟨rfl, rfl, rfl, rfl, fun _ => rfl, fun _ => rfl⟩

theorem TileSteady.trans {x y z : Tile} (h : TileSteady x y) (h' : TileSteady y z) : TileSteady x z :=
  ⟨h'.ctxs.trans h.ctxs, h'.xregs.trans h.xregs, h'.slots.trans h.slots, h'.mon.trans h.mon,
    fun k => (h'.image k).trans (h.image k), fun k => (h'.imageLen k).trans (h.imageLen k)⟩

/-- A state in which a group finds its contexts, operands and code as before. -/
structure Steady (s u : State) : Prop where
  mem : u.mem = s.mem
  focusTile : u.focusTile = s.focusTile
  focusCtx : u.focusCtx = s.focusCtx
  seq : u.grp.seq = s.grp.seq
  tile : ∀ t, TileSteady (tileOf s t) (tileOf u t)

variable {s u v : State}

theorem Steady.refl (s : State) : Steady s s := ⟨rfl, rfl, rfl, rfl, fun _ => .refl _⟩

theorem Steady.trans (h : Steady s u) (h' : Steady u v) : Steady s v :=
  ⟨h'.mem.trans h.mem, h'.focusTile.trans h.focusTile, h'.focusCtx.trans h.focusCtx, h'.seq.trans h.seq,
    fun t => (h.tile t).trans (h'.tile t)⟩

theorem Steady.ctxOf_eq (h : Steady s u) (t c : Nat) : ctxOf u t c = ctxOf s t c := by
  unfold ctxOf ctxIn; rw [(h.tile t).ctxs]

theorem Steady.rowIn_eq (h : Steady s u) (t p k : Nat) : rowIn (tileOf u t) p k = rowIn (tileOf s t) p k := by
  unfold rowIn; rw [(h.tile t).xregs]

theorem Steady.fetchWord_eq (h : Steady s u) (t c a : Nat) : fetchWord u t c a = fetchWord s t c a := by
  unfold fetchWord readMem coreOf
  dsimp only
  rw [h.ctxOf_eq, h.mem, (h.tile t).image, (h.tile t).imageLen]

theorem Steady.seqAddr_eq (h : Steady s u) (t c a : Nat) : seqAddr u t c a = seqAddr s t c a := by
  unfold seqAddr; rw [h.fetchWord_eq]

theorem Steady.decodeGroup_eq (h : Steady s u) (t c a : Nat) : decodeGroup u t c a = decodeGroup s t c a := by
  simp only [decodeGroup, h.fetchWord_eq]

theorem Steady.pfxAt_eq (h : Steady s u) (t c a : Nat) : pfxAt u t c a = pfxAt s t c a := by
  simp only [pfxAt, h.fetchWord_eq]

theorem Steady.ite {p : Prop} [Decidable p] (h : Steady s u) (h' : Steady s v) : Steady s (if p then u else v) := by
  split
  · exact h
  · exact h'

theorem steady_foldl {α : Type} {f : State → α → State} (hf : ∀ u x, Steady s u → Steady s (f u x)) (l : List α)
    (h : Steady s u) : Steady s (l.foldl f u) := by
  induction l generalizing u with
  | nil => exact h
  | cons x l ih => exact ih (hf u x h)

theorem steady_modTile (t : Nat) {f : Tile → Tile} (hf : ∀ x, TileSteady x (f x)) : Steady s (modTile t f s) := by
  refine ⟨rfl, rfl, rfl, rfl, fun a => ?_⟩
  rw [tileOf_modTile]
  split
  next h => subst h; exact hf _
  next => exact .refl _

/-- A part of every entry that the change of one entry leaves. -/
theorem get_modify_part {α β : Type} (d : α) (part : α → β) {f : α → α} (hf : ∀ x, part (f x) = part x) (i j : Nat)
    (m : Sparse α) : part (Sparse.get d (Sparse.modify d i f m) j) = part (Sparse.get d m j) := by
  by_cases h : j = i
  · subst h; rw [Sparse.get_modify_same, hf]
  · rw [Sparse.get_modify_other _ h]

theorem steady_modCore (t k : Nat) {f : CoreSt → CoreSt} (hi : ∀ x, (f x).image = x.image)
    (hl : ∀ x, (f x).imageLen = x.imageLen) : Steady s (modCore t k f s) :=
  steady_modTile t fun _ => ⟨rfl, rfl, rfl, rfl, fun _ => get_modify_part _ CoreSt.image hi ..,
    fun _ => get_modify_part _ CoreSt.imageLen hl ..⟩

/-! Fingerprints, the monitor and the event counters. -/

theorem steady_modPair (t c : Nat) (f : PairCk → PairCk) : Steady s (modPair t c f s) := by
  unfold modPair
  split
  · exact .refl s
  · exact steady_modTile t fun _ => ⟨rfl, rfl, rfl, rfl, fun _ => rfl, fun _ => rfl⟩

theorem steady_notePrint (t c n v w : Nat) : Steady s (notePrint t c n v w s) := steady_modPair t c _

theorem steady_printRows (t c : Nat) : Steady s (printRows t c s) := by
  unfold printRows
  dsimp only
  split
  · exact .refl s
  · exact steady_foldl (fun _ r h => steady_foldl (fun _ k h => h.trans (steady_notePrint ..)) _ h) _ (.refl s)

/-- R405: the monitor of a tile is off. -/
def MonitorOff (s : State) (t : Nat) : Prop := wbit (Sparse.get 0 (tileOf s t).mon 0) 63 = false

theorem MonitorOff.steady {t : Nat} (h : MonitorOff s t) (hu : Steady s u) : MonitorOff u t := by
  unfold MonitorOff; rw [(hu.tile t).mon]; exact h

theorem monitorAt_off {t : Nat} (h : MonitorOff s t) (c kind code : Nat) (g : Site) (a : Nat) (q : W32) :
    monitorAt t c kind code g a q s = s := by
  exact if_neg fun hon => Bool.false_ne_true (h.symm.trans hon.1)

theorem steady_pmcAdd {t : Nat} (h : MonitorOff s t) (k i c n : Nat) (g : Site) (q : W32) :
    Steady s (pmcAdd t k i c n g q s) := by
  unfold pmcAdd
  extract_lets v s1 s2 s3
  have h1 : Steady s s1 := steady_modCore t k (fun _ => rfl) (fun _ => rfl)
  have h2 : Steady s s2 := h1.trans (steady_modCore t k (fun _ => rfl) (fun _ => rfl))
  have h3 : Steady s s3 := h2.trans (steady_modCore t k (fun _ => rfl) (fun _ => rfl))
  refine .ite h1 (.ite (.ite ?_ ?_) h2)
  · rw [monitorAt_off (h.steady h3)]; exact h3
  · exact h3.trans ⟨rfl, rfl, rfl, rfl, fun _ => .refl _⟩

theorem steady_countAt {t : Nat} (h : MonitorOff s t) (c ev n lvl : Nat) (g : Site) (q : W32) :
    Steady s (countAt t c ev n lvl g q s) :=
  steady_foldl (fun _ _ hu => .ite (hu.trans (steady_pmcAdd (h.steady hu) ..)) hu) _ (.refl s)

theorem steady_flushSamples {t : Nat} (h : MonitorOff s t) (c : Nat) : Steady s (flushSamples t c s) := by
  refine steady_foldl (fun u r hu => ?_) _ ⟨rfl, rfl, rfl, rfl, fun _ => .refl _⟩
  rw [monitorAt_off (h.steady hu)]
  exact hu

/-! Errors in the arrays. -/

theorem steady_clearErr (pa : Nat) : Steady s (clearErr pa s) :=
  steady_modTile _ fun _ => ⟨rfl, rfl, rfl, rfl, fun _ => rfl, fun _ => rfl⟩

theorem steady_relAdd (t reg lo n : Nat) : Steady s (relAdd t reg lo n s) :=
  steady_modTile _ fun _ => ⟨rfl, rfl, rfl, rfl, fun _ => rfl, fun _ => rfl⟩

theorem steady_toNominal (t : Nat) : Steady s (toNominal t s) := ⟨rfl, rfl, rfl, rfl, fun _ => .refl _⟩

theorem steady_setSegPoison (pa : Nat) (b : Bool) : Steady s (setSegPoison pa b s) := ⟨rfl, rfl, rfl, rfl, fun _ => .refl _⟩

theorem steady_flagRow (t row : Nat) : Steady s (flagRow t row s) := by
  refine steady_modTile _ fun x => ?_
  dsimp only
  split
  · exact ⟨rfl, rfl, rfl, rfl, fun _ => rfl, fun _ => rfl⟩
  · exact .refl x

theorem steady_noteCorrected (t row : Nat) : Steady s (noteCorrected t row s) := by
  unfold noteCorrected
  extract_lets l again l' s1
  have h1 : Steady s s1 := steady_modTile _ fun _ => ⟨rfl, rfl, rfl, rfl, fun _ => rfl, fun _ => rfl⟩
  exact .ite (h1.trans (steady_flagRow ..)) h1

theorem steady_checkSegment (pa : Nat) : Steady s (checkSegment pa s) := by
  unfold checkSegment
  extract_lets t row
  have h := steady_clearErr (s := s) pa
  split
  case h_1 => exact .refl s
  case h_2 => exact (h.trans (steady_relAdd ..)).trans (steady_noteCorrected ..)
  case h_3 => exact (h.trans (steady_toNominal _)).trans (steady_relAdd ..)
  case h_4 =>
    have hp := (h.trans (steady_toNominal t)).trans (steady_setSegPoison pa true)
    exact ((hp.trans (steady_relAdd ..)).trans (steady_relAdd ..)).trans (steady_flagRow ..)

/-- R381, R383: correcting what a fetch of firmware code meets leaves the code and the contexts. -/
theorem steady_firmFetch (t c : Nat) : Steady s (firmFetch t c s) :=
  .ite (steady_foldl (fun _ _ h => h.trans (steady_checkSegment _)) _ (.refl s)) (.refl s)

end Sys2Proof.Machine
end

section
/-! SUPPORT and the settling theorem of the sequencing of groups (O12): what is counted, traced and printed when a group
retires leaves what the next group finds (`Steady`), and nothing follows a quiet group. -/

namespace Sys2Proof.Machine

variable {s u : State} {t c : Nat}

/-! Sequencing outside a loop. -/

theorem pastNext_of_no_loop {y : Ctx} (h : y.loop = none) : pastNext s t c y = (seqAddr s t c y.nnpc, none) := by
  unfold pastNext loopNext
  rw [h]

/-- R66: the context `y` at its next group, with the address of the group after the next two, and their four bits. -/
def sequenced (y : Ctx) (nnpc : Nat) (n0 n1 dg0 dg1 : Bool) : Ctx :=
  { y with pc := y.npc, npc := y.nnpc, nnpc := nnpc, n0 := n0, n1 := n1, dg0 := dg0, dg1 := dg1 }

/-- R66: a group that branches nowhere. -/
theorem advance_next (h : (ctxOf s t c).loop = none) :
    let y := ctxOf s t c
    advance t c .next s = setCtx t c (sequenced y (seqAddr s t c y.nnpc) y.n1 false y.dg1 false) s := by
  simp only [advance, sequenced, pastNext_of_no_loop h, h]

/-- R66, R67: a branch. -/
theorem advance_branch (h : (ctxOf s t c).loop = none) (taken kill : Bool) (target : Nat) :
    let y := ctxOf s t c
    advance t c (.branch taken target kill) s =
      setCtx t c (sequenced y (if taken then target else seqAddr s t c y.nnpc) (y.n1 || kill) kill true true) s := by
  simp only [advance, sequenced, h, Bool.or_true]

/-! What follows a group. -/

theorem watchHit_of_unarmed {y : Ctx} (h : y.dbg = []) (i va len : Nat) (w : Bool) : watchHit y i va len w = none := by
  unfold watchHit
  rw [h]
  exact if_neg fun hw => hw.1 (wfld_zero 0 32)

theorem watchAll_of_unarmed {y : Ctx} (h : y.dbg = []) (i : Nat) (l : List (Nat × Nat × Bool)) : watchAll y i l = none := by
  unfold watchAll
  induction l with
  | nil => rfl
  | cons a l ih => rw [List.foldl_cons, watchHit_of_unarmed h]; exact ih

theorem mayWatch_of_unarmed {y : Ctx} (h : y.dbg = []) (m : Move) : mayWatch y m = false := by
  simp [mayWatch, watchAll_of_unarmed h]

/-- R396, R397, R399: nothing follows a group that raises nothing in a context that nothing observes. -/
theorem groupEnds_of_quiet (hr : (ctxOf s t c).phase = .running) (hs : ss (ctxOf s t c) = false)
    (hq : (ctxOf s t c).stepReq = false) (hd : (ctxOf s t c).dbg = []) (load : Option Nat) (w : Bool)
    (l : List (Nat × Nat × Bool)) : groupEnds t c load w none l s = s := by
  have hf : (tileOf s t).moves.find? (fun m => decide (some m.id = load) && mayWatch (ctxOf s t c) m) = none := by
    simp [mayWatch_of_unarmed hd]
  unfold groupEnds
  rw [hf]
  simp [afterGroup, watchAll_of_unarmed hd, hr, hs, hq]

/-! The end of a group. -/

/-- R66, R406: the context `z`, to which sequencing has brought a group of the context `y`, as the retired group leaves it. -/
def booked (u : State) (y z : Ctx) : Ctx :=
  { z with retired := y.retired + 1, wait := .none_, suppress := 0, heldNames := none, afterEret := false,
           lastPc := (u.grp.eret.getD (siteOf y)).pc, accs := y.accs.map (numbered u.grp.seq (y.retired + 1)) }

/-- In `v` one context is `z`, and what groups work with is otherwise as in `u`. -/
def OneCtxNow (u v : State) (t c : Nat) (z : Ctx) : Prop :=
  ctxOf v t c = z ∧ v.mem = u.mem ∧ (∀ t' c', ¬(t' = t ∧ c' = c) → ctxOf v t' c' = ctxOf u t' c') ∧
  (∀ t' p k, rowIn (tileOf v t') p k = rowIn (tileOf u t') p k) ∧ (∀ t', (tileOf v t').slots = (tileOf u t').slots)

theorem rowIn_setCtx (t c : Nat) (y : Ctx) (t' p k : Nat) :
    rowIn (tileOf (setCtx t c y s) t') p k = rowIn (tileOf s t') p k := by
  unfold setCtx
  rw [tileOf_modTile]
  split
  next h => subst h; rfl
  next => rfl

theorem slots_setCtx (t c : Nat) (y : Ctx) (t' : Nat) : (tileOf (setCtx t c y s) t').slots = (tileOf s t').slots := by
  unfold setCtx
  rw [tileOf_modTile]
  split
  next h => subst h; rfl
  next => rfl

/-- The acting context replaced, in a state that is otherwise as before. -/
theorem oneCtxNow_setCtx (h : Steady u s) (t c : Nat) (y z : Ctx) :
    OneCtxNow u (clearFrame (setCtx t c z (setCtx t c y s))) t c z :=
  ⟨ctxOf_setCtx_same .., h.mem,
    fun t' c' hne => by
      show ctxOf (setCtx t c z (setCtx t c y s)) t' c' = _
      rw [ctxOf_setCtx, if_neg hne, ctxOf_setCtx, if_neg hne, h.ctxOf_eq],
    fun t' p k => by
      show rowIn (tileOf (setCtx t c z (setCtx t c y s)) t') p k = _
      rw [rowIn_setCtx, rowIn_setCtx, h.rowIn_eq],
    fun t' => by
      show (tileOf (setCtx t c z (setCtx t c y s)) t').slots = _
      rw [slots_setCtx, slots_setCtx, (h.tile t').slots]⟩

/-- What retiring a group counts, traces and prints before sequencing moves on. -/
def retireNotes (t c : Nat) (u : State) : State :=
  let y := ctxOf u t c
  let g := u.grp.eret.getD (siteOf y)
  countAt t c 2 1 g.lvl g y.seqLast (flushSamples t c (printRows t c (notePrint t c 17 (fingerWords y) (fingerWords y) u)))

theorem steady_retireNotes (h : MonitorOff u t) (c : Nat) : Steady u (retireNotes t c u) := by
  have hp : Steady u (printRows t c (notePrint t c 17 (fingerWords (ctxOf u t c)) (fingerWords (ctxOf u t c)) u)) :=
    (steady_notePrint ..).trans (steady_printRows ..)
  have hf := hp.trans (steady_flushSamples (h.steady hp) c)
  exact hf.trans (steady_countAt (h.steady hf) ..)

/-- R66, R254: the bookkeeping of a group that no ERET ends, in the context that sequencing has moved on. -/
def bookLast (u v : State) (t c : Nat) : State :=
  let g := u.grp.eret.getD (siteOf (ctxOf u t c))
  clearFrame (modCtx t c (fun y => { y with
    retired := y.retired + 1, wait := .none_, suppress := 0, heldNames := none, lastPc := g.pc,
    accs := y.accs.map (numbered v.grp.seq (y.retired + 1)), afterEret := false }) v)

/-- A group that raises nothing and neither halts nor returns. -/
def PlainFlow (f : Flow) : Prop := f = .next ∨ ∃ taken target kill, f = .branch taken target kill

theorem retireGroup_of_plainFlow {f : Flow} (hf : PlainFlow f) (hm : MonitorOff u t) :
    retireGroup t c f u =
      groupEnds t c u.grp.load (decide ((u.grp.eret.getD (siteOf (ctxOf u t c))).lvl = 0) && decide (f ≠ .eret)) none
        u.grp.touch (bookLast u (advance t c f (retireNotes t c u)) t c) := by
  have hoff := monitorAt_off (hm.steady (steady_retireNotes hm c))
  obtain rfl | ⟨taken, target, kill, rfl⟩ := hf
  · rfl
  · cases taken with
    | false => rfl
    | true =>
      unfold retireNotes at hoff
      unfold retireGroup
      dsimp only at hoff ⊢
      rw [hoff]
      rfl

theorem settled_lone {f : Flow} (hh : s.grp.half = .lone) (ht : u.focusTile = s.focusTile) (hc : u.focusCtx = s.focusCtx)
    (hf : PlainFlow f) : settled s (.done u f) = retireGroup u.focusTile u.focusCtx f u := by
  unfold settled
  rw [hh, ht, hc]
  obtain rfl | ⟨taken, target, kill, rfl⟩ := hf <;> rfl

/-- A quiet group outside a loop, whatever sequencing makes of its context: the context is moved on and booked, and nothing
else that groups work with changes. -/
theorem oneCtxNow_retireGroup {f : Flow} {n : Nat} {a b d e : Bool} (hq : Quiet u) (hf : PlainFlow f)
    (ha : ∀ v, Steady u v →
      advance u.focusTile u.focusCtx f v = setCtx u.focusTile u.focusCtx (sequenced (cur u) n a b d e) v) :
    OneCtxNow u (retireGroup u.focusTile u.focusCtx f u) u.focusTile u.focusCtx
      (booked u (cur u) (sequenced (cur u) n a b d e)) := by
  obtain ⟨hrun, hss, hstep, hdbg, hmon⟩ := hq
  have hn := steady_retireNotes hmon u.focusCtx
  have hnow := oneCtxNow_setCtx hn u.focusTile u.focusCtx (sequenced (cur u) n a b d e)
    (booked u (cur u) (sequenced (cur u) n a b d e))
  have hb : bookLast u (setCtx u.focusTile u.focusCtx (sequenced (cur u) n a b d e) (retireNotes u.focusTile u.focusCtx u))
      u.focusTile u.focusCtx = clearFrame (setCtx u.focusTile u.focusCtx (booked u (cur u) (sequenced (cur u) n a b d e))
        (setCtx u.focusTile u.focusCtx (sequenced (cur u) n a b d e) (retireNotes u.focusTile u.focusCtx u))) := by
    unfold bookLast modCtx booked
    rw [ctxOf_setCtx_same, ← hn.seq]
    rfl
  rw [retireGroup_of_plainFlow hf hmon, ha _ hn, hb, groupEnds_of_quiet]
  · exact hnow
  all_goals rw [hnow.1]
  · exact hrun
  · exact hss
  · exact hstep
  · exact hdbg

/-- Settles O12: each of the two ways in which the group ends moves the sequencing state on by its own equation of
`advance`. -/
theorem sequencingAdvances : Obligations.SequencingAdvances := by
  intro s u taken kill target hh ht hc hq hl
  have hctx {v : State} (hv : Steady u v) : ctxOf v u.focusTile u.focusCtx = cur u := hv.ctxOf_eq ..
  rw [settled_lone hh ht hc (.inl rfl), settled_lone hh ht hc (.inr ⟨_, _, _, rfl⟩), ← ht, ← hc]
  refine ⟨oneCtxNow_retireGroup hq (.inl rfl) fun v hv => ?_,
    fun _ => oneCtxNow_retireGroup hq (.inr ⟨_, _, _, rfl⟩) fun v hv => ?_⟩
  · rw [advance_next (by rw [hctx hv, hl]), hctx hv, hv.seqAddr_eq]
  · rw [advance_branch (by rw [hctx hv, hl]), hctx hv, hv.seqAddr_eq]

end Sys2Proof.Machine
end

section
/-! SUPPORT and the settling theorems of decoding and issue (O56, O57): a step at a core in ring mode is one boundary of
its context, and a boundary that takes nothing carries out the group at PC. -/

namespace Sys2Proof.Machine

variable {run : Run} {s z u : State} {t c w v n : Nat} {i j : Instr}

/-! Patterns that are no instruction. -/

/-- R64: a pattern that is no instruction raises its cause. -/
theorem exec_reservedPattern {p : W32} {k : Cause} (h : rejectCause p.toNat = some (n, k)) :
    exec (.reservedPattern p) s = .next (settled s (.trap { cause := k })) := by
  show settle s (doReservedPattern p s) = _
  unfold doReservedPattern
  rw [h]
  rfl

/-- Settles O56: the words are decoded, and each reason for which a pattern is none has its cause. -/
theorem decodedWords : Obligations.DecodedWords :=
  ⟨by decide +kernel, fun _ _ => ⟨fun h => exec_reservedPattern (n := 3) (by rw [rejectCause, h]),
    fun h => exec_reservedPattern (n := 4) (by rw [rejectCause, h]),
    fun h => exec_reservedPattern (n := 5) (by rw [rejectCause, h])⟩⟩

/-! The causes of a word that decodes. -/

theorem wordInstr_of_ok (h : decodeWord w = .ok i) : wordInstr w = i := by
  unfold wordInstr; rw [h]

theorem wordCause_of_ok (h : decodeWord w = .ok i) : wordCause s w = staticCause s i := by
  unfold wordCause rejectCause
  rw [h, wordInstr_of_ok h]

theorem wordCause_of_reject (h : rejectCause w = some (n, k)) : wordCause s w = some (n, k) := by
  unfold wordCause; rw [h]

/-! The group at an address. -/

theorem decodeGroup_lone {a : Nat} (hw : fetchWord s t c a = some w) (hl : w / 2 ^ 31 % 2 = 1) :
    decodeGroup s t c a = .ok (.lone w) := by
  unfold decodeGroup
  rw [hw]
  exact if_pos hl

theorem decodeGroup_pair {a : Nat} (hw : fetchWord s t c a = some w) (hc : w / 2 ^ 30 % 4 = 0) (ha : a % 8 = 0)
    (hv : fetchWord s t c (a + 4) = some v) (ha' : v / 2 ^ 30 % 4 = 1) : decodeGroup s t c a = .ok (.pair w v) := by
  have hL : w / 2 ^ 31 % 2 ≠ 1 := by omega
  have hS : ¬(w / 2 ^ 30 % 2 = 1 ∨ v / 2 ^ 31 % 2 = 1 ∨ v / 2 ^ 30 % 2 = 0) := by omega
  unfold decodeGroup
  rw [hw, hv]
  dsimp only
  rw [if_neg hL, if_neg (not_not_intro ha), if_neg hS]

theorem pfxAt_of_not_isPfx {a : Nat} (hw : fetchWord s t c a = some w) (h : isPfx w = false) : pfxAt s t c a = none := by
  unfold pfxAt
  rw [hw]
  exact if_neg (Bool.eq_false_iff.mp h)

/-! The issue of a group that no PFX prefixes. -/

/-- R65: a group traps with its first cause. -/
theorem issueGroup_of_cause {g : Group} {k : Cause} (hg : decodeGroup z t c (ctxOf z t c).pc = .ok g)
    (hp : pfxAt z t c (ctxOf z t c).pc = none) (hk : firstCause (groupCause z g) = some (n, k)) :
    issueGroup run t c z = .next (trapGroup t c { cause := k } z) := by
  unfold issueGroup
  simp only [hg, hp, fetchFault, decodeRank, causesOf, firstCause, hk]

/-- R57: a group without a cause, at which no breakpoint stands, is carried out. -/
theorem issueGroup_of_no_cause {g : Group} (hg : decodeGroup z t c (ctxOf z t c).pc = .ok g)
    (hp : pfxAt z t c (ctxOf z t c).pc = none) (hk : firstCause (groupCause z g) = none) (hb : breakHits (ctxOf z t c) = 0) :
    issueGroup run t c z = runGroup run t c g z := by
  unfold issueGroup
  simp only [hg, hp, fetchFault, decodeRank, causesOf, firstCause, hk, hb, ne_eq, not_true_eq_false, if_false]

/-- R57: the words of a pair are carried out one after the other, and the group then retires once. -/
theorem runGroup_pair {u1 u2 : State} (hz : z.focusCtx = c) (hn : (ctxOf z t c).heldNames = none)
    (hi : wordInstr w = i) (hj : wordInstr v = j)
    (h1 : run i { z with grp := { half := .first, snap := some (tileOf z t), word := w } } = .next u1)
    (ht1 : u1.grp.trap = none) (hb1 : u1.grp.blocked = false)
    (h2 : run j { u1 with grp := { u1.grp with half := .second } } = .next u2)
    (ht2 : u2.grp.trap = none) (hb2 : u2.grp.blocked = false) :
    runGroup run t c (.pair w v) z = .next (retireGroup t c u2.grp.flow u2) := by
  have hf : startFrame t w none [] z = { z with grp := { half := .first, snap := some (tileOf z t), word := w } } := by
    unfold ctxOf at hn
    unfold startFrame
    rw [hz]
    dsimp only
    rw [hn]
  unfold runGroup runHalves
  dsimp only
  rw [hf, hi, hj, h1]
  dsimp only [andThen]
  rw [h2]
  simp only [ht1, hb1, ht2, hb2, Bool.false_eq_true, if_false]

/-! One boundary of a context, and the step that makes it. -/

/-- R349: the boundary of a context that nothing is due at before its group: the state in which it acts. -/
theorem attempt_of_clear (ha : (ctxOf s t c).after = none)
    (hr : replayBoundary t c { s with focusTile := t, focusCtx := c, grp := {} } = none)
    (hp : takePending t c { s with focusTile := t, focusCtx := c, grp := {} } = none) :
    attempt run t c s =
      let z0 : State := { s with focusTile := t, focusCtx := c, grp := {} }
      if (ctxOf s t c).n0 then .next (advance t c .next z0)
      else if straysHere t c z0 then .next (diverge t c z0)
      else issueGroup run t c (firmFetch t c z0) := by
  have ha' : (ctxOf { s with focusTile := t, focusCtx := c, grp := {} } t c).after = none := ha
  unfold attempt
  simp only [ha', hr, hp]
  rfl

/-- R300: a core in ring mode makes a boundary of its current context, and then keeps or gives it up. -/
theorem issueCore_of_ring {k i : Nat} (hf : (coreOf s t k).freeze = false) (hm : (coreOf s t k).mode = false)
    (hc : (coreOf s t k).cur = some i) (hi : mayIssue s t (4 * k + i) = true) :
    issueCore run t k s = andThen (attempt run t (4 * k + i) s) fun u => .next (afterRing t k i u) := by
  unfold issueCore
  simp only [hf, hm, hc, hi, Bool.false_eq_true, if_false, if_true]

/-- The step at the issue of a core in ring mode, by what the boundary of its current context gives. -/
theorem step_of_issue {rest : List Turn} (hc : c < 8) (hs : s.agenda = .issue t (coreIx c) :: rest)
    (hf : (coreOf s t (coreIx c)).freeze = false) (hm : (coreOf s t (coreIx c)).mode = false)
    (hk : (coreOf s t (coreIx c)).cur = some (c % 4)) (hi : mayIssue s t c = true)
    (ha : attempt exec t c { s with agenda := rest } = .next u) :
    step s = .next (endTurn s (noteTraffic s (afterRing t (coreIx c) (c % 4) u))) := by
  have hcore : coreIx c % 2 = coreIx c := by unfold coreIx; omega
  have hctx : 4 * coreIx c + c % 4 = c := by unfold coreIx; omega
  have ht : turn exec s = issueCore exec t (coreIx c % 2) { s with agenda := rest } := by
    unfold turn; rw [hs]
  have hcycle := issueCore_of_ring (run := exec) (s := { s with agenda := rest }) hf hm hk (by rw [hctx]; exact hi)
  unfold step
  rw [ht, hcore, hcycle, hctx, ha]
  rfl

theorem step_of_event {rest : List Turn} (hs : s.agenda = .event i :: rest) (hi : isEvent i = true) :
    step s = andThen (exec i { s with agenda := rest }) fun u => .next (endTurn s (noteTraffic s u)) := by
  unfold step turn
  rw [hs]
  dsimp only
  rw [if_pos hi]

/-- Settles O57: the boundary is that of a context at which nothing is due, the fetch leaves what it fetches and who
acts (`steady_firmFetch`), and the group at PC is decoded, checked and carried out. -/
theorem stepRunsDecoded : Obligations.StepRunsDecoded := by
  intro t c w v n i j rest s
  refine ⟨fun hs hi => step_of_event hs hi, ?_⟩
  intro k z0 z y ends hc hs hf hm hk hi hafter hrep hpend
  have hstep {u : State} (ha : attempt exec t c { s with agenda := rest } = .next u) : step s = ends u :=
    step_of_issue hc hs hf hm hk hi ha
  have hatt := attempt_of_clear (run := exec) (s := { s with agenda := rest }) hafter hrep hpend
  have hz : Steady z0 z := steady_firmFetch t c
  have hy : ctxOf z t c = y := hz.ctxOf_eq t c
  have hword {a x : Nat} (hx : fetchWord s t c a = some x) : fetchWord z t c a = some x := (hz.fetchWord_eq t c a).trans hx
  refine ⟨fun hn0 => hstep (hatt.trans (if_pos hn0)), fun hn0 hstray hw => ?_⟩
  have hissue {u : State} (hg : issueGroup exec t c z = .next u) : step s = ends u :=
    hstep (by rw [hatt]; exact (if_neg (Bool.eq_false_iff.mp hn0)).trans ((if_neg (Bool.eq_false_iff.mp hstray)).trans hg))
  have hwz : fetchWord z t c (ctxOf z t c).pc = some w := by rw [hy]; exact hword hw
  have hlone (hl : w / 2 ^ 31 % 2 = 1) := decodeGroup_lone hwz hl
  have hpfx (hp : isPfx w = false) := pfxAt_of_not_isPfx hwz hp
  refine ⟨fun hl hd hp => ⟨fun cause hcause => ?_, fun hlegal hb u hu => ?_⟩, fun cause hl hp hrej => ?_,
    fun hcl hpc hv hcl' hd hd' hp hheld hlegal hlegal' hclash hb u1 u2 h1 ht1 hb1 h2 ht2 hb2 => ?_⟩
  · refine hissue (issueGroup_of_cause (n := n) (hlone hl) (hpfx hp) ?_)
    simp only [groupCause, wordCause_of_ok hd, hcause, firstCause]
  · refine hissue ((issueGroup_of_no_cause (hlone hl) (hpfx hp) ?_ (hy ▸ hb)).trans ?_)
    · unfold Legal at hlegal
      simp only [groupCause, wordCause_of_ok hd, hlegal, firstCause]
    · show exec (wordInstr w) z = .next u
      rw [wordInstr_of_ok hd, hu]
  · refine hissue (issueGroup_of_cause (n := n) (hlone hl) (hpfx hp) ?_)
    simp only [groupCause, wordCause_of_reject hrej, firstCause]
  · have hpair := decodeGroup_pair hwz hcl (hy ▸ hpc) (by rw [hy]; exact hword hv) hcl'
    refine hissue ((issueGroup_of_no_cause hpair (hpfx hp) ?_ (hy ▸ hb)).trans
      (runGroup_pair hz.focusCtx (hy ▸ hheld) (wordInstr_of_ok hd) (wordInstr_of_ok hd') h1 ht1 hb1 h2 ht2 hb2))
    unfold Legal at hlegal hlegal'
    simp only [groupCause, wordCause_of_ok hd, wordCause_of_ok hd', wordInstr_of_ok hd, wordInstr_of_ok hd', pairCause,
      hlegal, hlegal', hclash, firstCause, Bool.false_eq_true, if_false]

end Sys2Proof.Machine
end

section
/-! SUPPORT and the settling theorems of the scalar instructions (O1 to O4, O52): scalars that are ready make an
instruction write its result, and each table's value is that of the meaning. -/

namespace Sys2Proof.Machine

variable {s : State} {d a b c : Fin 16}

/-! Operands. -/

theorem ready_iff {l : List (Fin 16)} : Ready s l ↔ ∀ r ∈ l, awaited (opCtx s) r.val = none := by
  induction l with
  | nil => simp
  | cons r l ih => rw [ready_cons, ih, List.forall_mem_cons]

/-- R81: scalars among those that are ready are ready. -/
theorem Ready.mono {l l' : List (Fin 16)} (h : Ready s l) (hl : l' ⊆ l) : Ready s l' :=
  ready_iff.mpr fun r hr => ready_iff.mp h r (hl hr)

theorem anyPoison_pair : anyPoison s [a, b] = ((rdS s a).poison || (rdS s b).poison) := by
  rw [anyPoison_cons, anyPoison_cons, anyPoison_nil, Bool.or_false]

/-! Instructions that write one scalar. -/

/-- R83: a result of two ready scalars. -/
theorem settle_scalar2 {f : Word → Word → Word} {v : Word} (h : Ready s [d, a, b])
    (hv : f (rdS s a).val (rdS s b).val = v) :
    settle s (scalar2 s d a b f) =
      .next (settled s (.done (wrS d { val := v, poison := (rdS s a).poison || (rdS s b).poison } s) .next)) := by
  unfold scalar2
  rw [ready_of h, hv, anyPoison_pair]
  rfl

/-- R83: a result of one ready scalar. -/
theorem settle_scalar1 {f : Word → Word} {v : Word} (h : Ready s [d, a]) (hv : f (rdS s a).val = v) :
    settle s (scalar1 s d a f) = .next (settled s (.done (wrS d { val := v, poison := (rdS s a).poison } s) .next)) := by
  unfold scalar1
  rw [ready_of h, hv]
  rfl

theorem word01_decide (p : Prop) [Decidable p] : word01 (decide p) = if p then 1 else 0 :=
  if_congr decide_eq_true_iff rfl rfl

/-- Settles O1: the value of each is that of its meaning, and a comparison of words is one of their numbers. -/
theorem aluTwoOperandResults : Obligations.AluTwoOperandResults := by
  intro d a b s h
  refine ⟨settle_scalar2 h rfl, settle_scalar2 h rfl, settle_scalar2 h rfl, settle_scalar2 h rfl, settle_scalar2 h rfl,
    settle_scalar2 h rfl, settle_scalar2 h rfl, settle_scalar2 h rfl, settle_scalar2 h rfl, settle_scalar2 h rfl,
    ?min, ?max, ?minn, ?maxn, ?seq, ?sne, ?slt, ?sltn⟩
  case min | max | minn | maxn => exact settle_scalar2 h (if_congr decide_eq_true_iff rfl rfl)
  case seq | sne | slt | sltn => exact settle_scalar2 h (word01_decide _)

/-! Counts of bits (Table 4.6). -/

/-- Table 4.6: CLZ, over the bits below `n`. -/
theorem leadZeros_spec (w : Word) (n : Nat) : leadZeros w n ≤ n ∧
    (∀ i, n - leadZeros w n ≤ i → i < n → w.getLsbD i = false) ∧
    (leadZeros w n < n → w.getLsbD (n - 1 - leadZeros w n) = true) := by
  induction n with
  | zero => exact ⟨le_rfl, fun i _ hi => absurd hi (Nat.not_lt_zero i), fun h => absurd h (Nat.not_lt_zero _)⟩
  | succ n ih =>
    obtain ⟨hle, hzero, hone⟩ := ih
    cases hb : wbit w n with
    | true =>
      rw [leadZeros, if_pos hb]
      exact ⟨Nat.zero_le _, fun i h hi => by omega, fun _ => hb⟩
    | false =>
      rw [leadZeros, if_neg (Bool.eq_false_iff.mp hb)]
      refine ⟨by omega, fun i h hi => ?_, fun h => ?_⟩
      · obtain rfl | hlt := Nat.eq_or_lt_of_le (Nat.le_of_lt_succ hi)
        · exact hb
        · exact hzero i (by omega) hlt
      · rw [show n + 1 - 1 - (1 + leadZeros w n) = n - 1 - leadZeros w n by omega]
        exact hone (by omega)

/-- Table 4.6: CTZ, over `n` bits from bit `i` up. -/
theorem trailZeros_spec (w : Word) (n i : Nat) : trailZeros w n i ≤ n ∧
    (∀ j, j < trailZeros w n i → w.getLsbD (i + j) = false) ∧
    (trailZeros w n i < n → w.getLsbD (i + trailZeros w n i) = true) := by
  induction n generalizing i with
  | zero => exact ⟨le_rfl, fun j hj => absurd hj (Nat.not_lt_zero j), fun h => absurd h (Nat.not_lt_zero _)⟩
  | succ n ih =>
    obtain ⟨hle, hzero, hone⟩ := ih (i + 1)
    cases hb : wbit w i with
    | true =>
      rw [trailZeros, if_pos hb]
      exact ⟨Nat.zero_le _, fun j hj => absurd hj (Nat.not_lt_zero j), fun _ => hb⟩
    | false =>
      rw [trailZeros, if_neg (Bool.eq_false_iff.mp hb)]
      refine ⟨by omega, fun j hj => ?_, fun h => ?_⟩
      · cases j with
        | zero => exact hb
        | succ j => rw [show i + (j + 1) = i + 1 + j by omega]; exact hzero j (by omega)
      · rw [← Nat.add_assoc]
        exact hone (by omega)

/-- Table 4.6: POPC, over the bits below `n`. -/
theorem popBits_eq_length (w : Word) (n : Nat) :
    popBits w.toNat n = ((List.range n).filter fun i => w.getLsbD i).length := by
  unfold popBits
  induction n with
  | zero => rfl
  | succ n ih =>
    rw [List.range_succ, List.foldl_append, ih, List.filter_append, List.length_append]
    have hbit : w.getLsbD n = decide (w.toNat / 2 ^ n % 2 = 1) := Nat.testBit_eq_decide_div_mod_eq
    obtain h | h := Nat.mod_two_eq_zero_or_one (w.toNat / 2 ^ n) <;> simp [hbit, h]

/-- Table 4.6: SEL, by the selector. -/
theorem settle_doSel (h : Ready s [d, a, b, c]) :
    settle s (doSel d a b c s) = .next (settled s (.done (wrS d
      { val := if (rdS s c).val = 0 then (rdS s b).val else (rdS s a).val,
        poison := (rdS s c).poison || (if (rdS s c).val = 0 then (rdS s b).poison else (rdS s a).poison) } s) .next)) := by
  unfold doSel
  rw [ready_of h]
  by_cases hc : (rdS s c).val = 0
  · simp only [hc, ne_eq, not_true_eq_false, if_false, if_true]; rfl
  · simp only [hc, ne_eq, not_false_eq_true, if_false, if_true]; rfl

/-- Settles O2, by what each count is of the bits of its operand. -/
theorem aluCountsAndMoves : Obligations.AluCountsAndMoves := by
  intro d a b c s h
  have h1 : Ready s [d, a] := h.mono (by simp)
  obtain ⟨hl, hlz, hlo⟩ := leadZeros_spec (rdS s a).val 64
  obtain ⟨ht, htz, hto⟩ := trailZeros_spec (rdS s a).val 64 0
  simp only [Nat.zero_add] at htz hto
  exact ⟨settle_doSel h, settle_scalar1 h1 rfl,
    settle_scalar1 h1 (congrArg (BitVec.ofNat 64) (popBits_eq_length ..)),
    ⟨_, hl, hlz, hlo, settle_scalar1 h1 rfl⟩, ⟨_, ht, htz, hto, settle_scalar1 h1 rfl⟩⟩

/-! The multiplier, the divider and the immediates. -/

/-- R95: a sign-extended IMM16. -/
theorem immS_eq (i : Fin 65536) :
    immS i = BitVec.ofInt 64 (if i.val < 32768 then (i.val : Int) else i.val - 65536) := by
  unfold immS
  rw [sext_signed]
  rfl

/-- Table 4.8: LI waits for the scalar that it writes alone. -/
theorem settle_doLi (h : Ready s [d]) (i : Fin 65536) :
    settle s (doLi d i s) = .next (settled s (.done (wrS d { val := immS i, poison := false } s) .next)) := by
  unfold doLi
  rw [ready_of h]
  rfl

/-- Settles O3: the value of each is that of its meaning, and a zero divisor leaves the dividend. -/
theorem multiplyDivideImmediateResults : Obligations.MultiplyDivideImmediateResults := by
  refine ⟨fun d a b s h => ?_, fun d a i j s h => ?_⟩
  · exact ⟨settle_scalar2 h rfl, settle_scalar2 h rfl, settle_scalar2 h rfl, settle_scalar2 h rfl, settle_scalar2 h rfl,
      settle_scalar2 h rfl, settle_scalar2 h rfl, fun hb => settle_scalar2 h (by simp [hb])⟩
  · rw [← immS_eq]
    exact ⟨settle_scalar1 h rfl, settle_scalar1 h rfl, settle_scalar1 h rfl, settle_scalar1 h rfl,
      settle_scalar1 h (word01_decide _), settle_scalar1 h rfl, settle_scalar1 h rfl, settle_scalar1 h rfl,
      settle_scalar1 h rfl, settle_doLi (h.mono (by simp)) i⟩
/-! Floats. -/

/-- R96: a result of two ready floats, rounded once. -/
theorem settle_float2 {p : Prec} {f : Num → Num → Num × Nat} {v : Num × Nat} {poison : Bool} (h : Ready s [d, a, b])
    (hv : f (precNum p (rdS s a).val) (precNum p (rdS s b).val) = v)
    (hp : ((rdS s a).poison || (rdS s b).poison) = poison) :
    settle s (float2 s d a b p f) =
      .next (settled s (.done (raiseFp (((precFmt p).round (fpMode s) v.1).2 ||| v.2) (wrS d
        { val := BitVec.ofNat 64 ((precFmt p).round (fpMode s) v.1).1, poison := poison } s)) .next)) := by
  unfold float2
  rw [ready_of h, hv, anyPoison_pair, hp]
  rfl

/-- R97: FCMP of ready scalars. -/
theorem settle_doFcmp {q : FcmpPred} {p : Prec} (h : Ready s [d, a, b]) :
    let r := fcmpHolds q (precNum p (rdS s a).val) (precNum p (rdS s b).val)
    settle s (doFcmp d a b q p s) = .next (settled s (.done (raiseFp r.2 (wrS d
      { val := if r.1 then 1 else 0, poison := (rdS s a).poison || (rdS s b).poison } s)) .next)) := by
  intro r
  have hval : BitVec.ofNat 64 (b2n r.1) = if r.1 then 1 else 0 := by cases r.1 <;> rfl
  unfold doFcmp
  rw [ready_of h, anyPoison_pair, ← hval]
  rfl

/-- R99: FCVT of a ready scalar. -/
theorem settle_doFcvt {o : FcvtOp} (h : Ready s [d, a]) :
    let r := cvtScalar o (fpMode s) (rdS s a).val
    settle s (doFcvt d a o s) = .next (settled s (.done (raiseFp r.2 (wrS d
      { val := BitVec.ofNat 64 r.1, poison := (rdS s a).poison } s)) .next)) := by
  unfold doFcvt
  rw [ready_of h]
  rfl

/-- R101: FMA of ready scalars. -/
theorem settle_doFma {n : Bool} {p : Prec} (h : Ready s [d, a, b, c]) :
    let v := fmaNum (fpMode s) n (precNum p (rdS s a).val) (precNum p (rdS s b).val) (precNum p (rdS s c).val)
    let r := (precFmt p).round (fpMode s) v.1
    settle s (doFma d a b n p c s) = .next (settled s (.done (raiseFp (r.2 ||| v.2) (wrS d
      { val := BitVec.ofNat 64 r.1, poison := (rdS s a).poison || (rdS s b).poison || (rdS s c).poison } s)) .next)) := by
  have hp : anyPoison s [a, b, c] = ((rdS s a).poison || (rdS s b).poison || (rdS s c).poison) := by
    rw [anyPoison_cons, anyPoison_pair, Bool.or_assoc]
  unfold doFma
  rw [ready_of h, hp]
  rfl

/-! Codes of f32 (R31). -/

/-- The sign of an f32 code stands above its other bits. -/
theorem signed_f32_lt (neg : Bool) {c : Nat} (h : c < 2 ^ 31) : f32Fmt.signed neg c < 2 ^ 32 := by
  have hs : f32Fmt.sign = 2 ^ 31 := rfl
  unfold Fmt.signed
  split <;> omega

theorem overflow_f32_lt (m : Mode) (neg : Bool) : f32Fmt.overflow m neg < 2 ^ 32 := by
  have hmag (big : Prop) [Decidable big] : (if big then f32Fmt.infCode else f32Fmt.maxCode) < 2 ^ 31 := by
    split <;> decide
  exact signed_f32_lt neg (hmag _)

/-- R38: the exponent of the last place is chosen so that a significand has at most `fb + 1` bits before it is rounded. -/
theorem significand_lt {m fb : Nat} {e qe : Int} (hq : (m.log2 : Int) + e - fb ≤ qe) :
    (if qe ≤ e then m * 2 ^ (e - qe).toNat else m / 2 ^ (qe - e).toNat) < 2 ^ (fb + 1) := by
  have hlog : m < 2 ^ (m.log2 + 1) := Nat.lt_log2_self
  split
  · calc m * 2 ^ (e - qe).toNat < 2 ^ (m.log2 + 1) * 2 ^ (e - qe).toNat :=
          Nat.mul_lt_mul_of_pos_right hlog (Nat.two_pow_pos _)
      _ = 2 ^ (m.log2 + 1 + (e - qe).toNat) := (Nat.pow_add ..).symm
      _ ≤ 2 ^ (fb + 1) := Nat.pow_le_pow_right (by omega) (by omega)
  · refine Nat.div_lt_of_lt_mul ?_
    calc m < 2 ^ (m.log2 + 1) := hlog
      _ ≤ 2 ^ ((qe - e).toNat + (fb + 1)) := Nat.pow_le_pow_right (by omega) (by omega)
      _ = 2 ^ (qe - e).toNat * 2 ^ (fb + 1) := Nat.pow_add ..

/-- R31, R38: a code rounded to f32 has 32 bits. -/
theorem roundFin_f32_lt (md : Mode) (neg : Bool) (m : Nat) (e : Int) : (f32Fmt.roundFin md neg m e).1 < 2 ^ 32 := by
  unfold Fmt.roundFin
  split
  next => exact signed_f32_lt neg (by decide)
  next =>
    extract_lets ex qe sh n0 rem n
    have h0 : n0 < 2 ^ (23 + 1) := significand_lt (Int.sub_le_sub_right (Int.le_max_left ..) _)
    have hn : n ≤ n0 + 1 := by
      show (if _ then n0 + 1 else n0) ≤ n0 + 1
      split
      · exact le_rfl
      · exact Nat.le_succ n0
    clear_value n n0 ex
    split
    next => exact overflow_f32_lt md neg
    next hover =>
      have hover : ¬(ex > 127 ∨ ex = 127 ∧ n = 2 ^ (23 + 1)) := hover
      refine signed_f32_lt neg ?_
      show (if n < 2 ^ 23 then n else ((ex + 127).toNat - 1) * 2 ^ 23 + n) < 2 ^ 31
      split <;> omega

theorem round_f32_lt (md : Mode) (v : Num) : (f32Fmt.round md v).1 < 2 ^ 32 := by
  cases v with
  | nan => exact (by decide : f32Fmt.nan < 2 ^ 32)
  | inf neg => exact signed_f32_lt neg (by decide)
  | fin neg m e => exact roundFin_f32_lt md neg m e

/-- Settles O4: the value of each is that of its meaning, and a code rounded to f32 has 32 bits. -/
theorem floatResults : Obligations.FloatResults := by
  refine ⟨fun d a b p s h => ?_, fun d a b c q o n p s h => ?_, fun m v w => ⟨round_f32_lt m v, ?_⟩⟩
  · exact ⟨settle_float2 h rfl rfl, settle_float2 h rfl rfl, settle_float2 h rfl rfl, settle_float2 h rfl rfl,
      settle_float2 h rfl rfl, settle_float2 h rfl rfl, settle_float2 (h.mono (by simp)) rfl (Bool.or_self _)⟩
  · exact ⟨settle_doFcmp (h.mono (by simp)), settle_doFcvt (h.mono (by simp)), settle_doFma h⟩
  · simp only [List.forall_mem_cons]
    exact ⟨round_f32_lt .., round_f32_lt .., round_f32_lt .., fun _ h => nomatch h⟩

/-! FCLASS. -/

/-- R100: the class of each kind of number, and of each exponent field of a finite one that is not zero. -/
theorem classBit_eq (f : Fmt) (code : Nat) : classBit f code =
    match f.decode code with
    | .nan sig => if sig then 8 else 9
    | .inf neg => if neg then 0 else 7
    | .fin neg m _ =>
      if m = 0 then (if neg then 3 else 4)
      else if code / 2 ^ f.fb % 2 ^ f.eb = 0 then (if neg then 2 else 5) else (if neg then 1 else 6) := by
  unfold classBit
  cases f.decode code with
  | nan => rfl
  | inf => rfl
  | fin neg m e => by_cases hsub : code / 2 ^ f.fb % 2 ^ f.eb = 0 <;> cases neg <;> simp [hsub]

/-- Settles O52: the mask is the one bit that the class names. -/
theorem fclassMask : Obligations.FclassMask := by
  intro d a p s h f code k
  have hk : classBit f code = k := classBit_eq f code
  show settle s (doFclass d a p s) = _
  unfold doFclass
  rw [ready_of h, ← hk]
  rfl

end Sys2Proof.Machine
end

section
/-! SUPPORT and the settling theorem of branches, jumps and LOOP (O5): what each does with operands that are ready, by
whether they are poisoned. -/

namespace Sys2Proof.Machine

variable {s : State} {a b c : Fin 16} {l : List (Fin 16)}

theorem ready_zero : Ready s [0] := ready_cons.mpr ⟨rfl, ready_nil⟩

theorem clean_zero : Clean s [0] := clean_cons.mpr ⟨rfl, clean_nil⟩

/-- R84: the trap of a poisoned operand that decides where a context goes on. -/
theorem unpoisoned_of_poison (h : anyPoison s l = true) (k : Eff) :
    unpoisoned s l k = .trap { cause := .poisonConsumed } := by
  unfold unpoisoned
  rw [h]
  rfl

theorem anyPoison_single : anyPoison s [a] = (rdS s a).poison := Bool.or_false _

/-! Branches. -/

theorem not_decide {p q : Prop} [Decidable p] [Decidable q] (h : ¬p ↔ q) : (!decide p) = decide q :=
  decide_not.symm.trans (decide_eq_decide.mpr h)

/-- R86: a branch displacement. -/
theorem branchTarget_eq (d : Fin 16384) : branchTarget s d = (BitVec.ofNat 64 (opCtx s).pc +
    BitVec.ofInt 64 ((if d.val < 8192 then (d.val : Int) else d.val - 16384) * 4)).toNat := by
  unfold branchTarget
  rw [sext_signed]
  rfl

/-- R84, R85: a branch on ready, clean scalars, taken as `taken` says. -/
theorem settle_branch2 {n : NullCode} {d : Fin 16384} {f : Word → Word → Bool} {taken : Bool} (hr : Ready s [a, b])
    (hc : Clean s [a, b]) (ht : f (rdS s a).val (rdS s b).val = taken) :
    settle s (branch2 s n a b d f) =
      .next (settled s (.done s (.branch taken (branchTarget s d) (kills n taken)))) := by
  unfold branch2
  rw [ready_of hr, unpoisoned_of_clean hc, ht]
  rfl

/-- R84: a branch on a poisoned scalar. -/
theorem settle_branch2_of_poison {n : NullCode} {d : Fin 16384} {f : Word → Word → Bool} (hr : Ready s [a, b])
    (hp : anyPoison s [a, b] = true) :
    settle s (branch2 s n a b d f) = .next (settled s (.trap { cause := .poisonConsumed })) := by
  unfold branch2
  rw [ready_of hr, unpoisoned_of_poison hp]
  rfl

/-! Jumps. -/

/-- R88: a jump displacement. -/
theorem jumpTarget_eq (d : Fin 16777216) : jumpTarget s d = (BitVec.ofNat 64 (opCtx s).pc +
    BitVec.ofInt 64 ((if d.val < 8388608 then (d.val : Int) else d.val - 16777216) * 4)).toNat := by
  unfold jumpTarget
  rw [sext_signed]
  rfl

/-- R84: a jump through a poisoned scalar, whatever its alignment (log 58). -/
theorem jumpReg_of_poison (hr : Ready s [a]) (hp : (rdS s a).poison = true) (k : Nat → Eff) :
    jumpReg s a k = .trap { cause := .poisonConsumed } := by
  unfold jumpReg
  rw [ready_of hr, unpoisoned_of_poison (anyPoison_single.trans hp)]

/-- R88: a jump through a scalar that is a multiple of 4. -/
theorem jumpReg_of_aligned (hr : Ready s [a]) (hc : Clean s [a]) (h : (rdS s a).val.toNat % 4 = 0) (k : Nat → Eff) :
    jumpReg s a k = k (rdS s a).val.toNat := by
  have hlow : wfld (rdS s a).val 0 2 = 0 := by simpa [wfld] using h
  unfold jumpReg
  rw [ready_of hr, unpoisoned_of_clean hc]
  exact if_neg (not_not_intro hlow)

/-- R67: a jump through a scalar that is no multiple of 4. -/
theorem jumpReg_of_misaligned (hr : Ready s [a]) (hc : Clean s [a]) (h : (rdS s a).val.toNat % 4 ≠ 0) (k : Nat → Eff) :
    jumpReg s a k = .trap { cause := .align, eval := (rdS s a).val } := by
  have hlow : wfld (rdS s a).val 0 2 ≠ 0 := by simpa [wfld] using h
  unfold jumpReg
  rw [ready_of hr, unpoisoned_of_clean hc]
  exact if_pos hlow

/-- R88, R89: JLR waits for s15 and then jumps as JR does, with the link. -/
theorem doJlr_of_ready (h : Ready s [15]) :
    doJlr a s = jumpReg s a fun t => .done (wrS 15 { val := linkOf s } s) (.branch true t false) := ready_of h _

theorem settle_doJl (h : Ready s [15]) (d : Fin 16777216) :
    settle s (doJl d s) =
      .next (settled s (.done (wrS 15 { val := linkOf s } s) (.branch true (jumpTarget s d) false))) := by
  unfold doJl
  rw [ready_of h]
  rfl

/-! LOOP. -/

/-- R91: a body whose words can all be fetched. -/
theorem bodyWords_eq {bs n : Nat} {words : List Nat} (hlen : words.length = n)
    (h : ∀ k, k < n → fetchWord s s.focusTile s.focusCtx (bs + 4 * k) = some (words.getD k 0)) :
    bodyWords s bs n = words.map some := by
  subst hlen
  refine List.ext_getElem (by simp [bodyWords]) fun k hk _ => ?_
  have hk : k < words.length := by simpa [bodyWords] using hk
  simp [bodyWords, h k hk, hk]

/-- R91: no word of such a body stops the LOOP. -/
theorem bodyFault_map_some (bs : Nat) (words : List Nat) : bodyFault bs (words.map some) = none := by
  have hnone : (words.map some).zipIdx.find? (fun wi => wi.1.isNone) = none := by
    refine List.find?_eq_none.mpr fun wi hwi => ?_
    obtain ⟨w, -, hw⟩ := List.mem_map.mp (List.fst_mem_of_mem_zipIdx hwi)
    simp [← hw]
  unfold bodyFault
  rw [hnone]
  rfl

theorem map_some_getD (words : List Nat) : (words.map some).map (fun x => x.getD 0) = words := by
  rw [List.map_map]
  exact List.map_id _

/-- R74: no word of a body is one that it may not hold. -/
theorem bodyForbids_any {words : List Nat} (h : ∀ w ∈ words, bodyForbids w = false) :
    (words.map some).any (fun x => bodyForbids (x.getD 0xC0000000)) = false := by
  rw [List.any_map]
  exact List.any_eq_false.mpr fun w hw => Bool.eq_false_iff.mp (h w hw)

/-- R73, R74, R91: a LOOP whose body it accepts looks at its count. -/
theorem doLoop_of_body {n : Fin 64} {r : Fin 16} {w : Fin 4} {st : Fin 16} {words : List Nat}
    (hlegal : Legal s (.loop c n r w st)) (hr : Ready s [c])
    (hbody : bodyWords s (seqAddr s s.focusTile s.focusCtx (opCtx s).pc) (n.val + 1) = words.map some)
    (hfree : ∀ w ∈ words, bodyForbids w = false)
    (hend : endsInPair (seqAddr s s.focusTile s.focusCtx (opCtx s).pc) (words.map some) = false) :
    doLoop c n r w st s = unpoisoned s [c] (.done s (.loopStart
      { bs := seqAddr s s.focusTile s.focusCtx (opCtx s).pc, len := n.val + 1, rem := (rdS s c).val.toNat % 2 ^ 32 - 1,
        pass := 0, rotb := r.val, rotw := w.val, stride := st.val, words := words } ((rdS s c).val.toNat % 2 ^ 32))) := by
  unfold doLoop
  rw [static_of_legal hlegal, ready_of hr]
  dsimp only
  rw [hbody, bodyForbids_any hfree, hend, bodyFault_map_some, map_some_getD]
  rfl

/-- Settles O5: a branch or a jump does what its operands say once they are ready; a LOOP fetches its body first. -/
theorem branchesJumpsAndLoops : Obligations.BranchesJumpsAndLoops := by
  refine ⟨?branches, ?poison, ?jumps, ?loops⟩
  case branches =>
    intro n a b d s hr tgt kill
    have htgt : branchTarget s d = tgt := branchTarget_eq d
    have hkill : kills n = kill := by cases n <;> rfl
    have hrz : Ready s [a, 0] := ready_cons.mpr ⟨(ready_cons.mp hr).1, ready_zero⟩
    rw [← htgt, ← hkill]
    refine ⟨fun hc => ?_, fun hp => ?_, fun hp => ?_⟩
    · have hcz : Clean s [a, 0] := clean_cons.mpr ⟨(clean_cons.mp hc).1, clean_zero⟩
      exact ⟨settle_branch2 hr hc rfl, settle_branch2 hr hc rfl, settle_branch2 hr hc rfl,
        settle_branch2 hr hc (not_decide not_lt), settle_branch2 hr hc rfl, settle_branch2 hr hc (not_decide not_lt),
        settle_branch2 hrz hcz rfl, settle_branch2 hrz hcz rfl⟩
    · have htrap {f : Word → Word → Bool} := settle_branch2_of_poison (n := n) (d := d) (f := f) hr
        (anyPoison_pair.trans (Bool.or_eq_true_iff.mpr hp))
      simp only [List.forall_mem_cons]
      exact ⟨htrap, htrap, htrap, htrap, htrap, htrap, fun _ h => nomatch h⟩
    · have htrap {f : Word → Word → Bool} := settle_branch2_of_poison (n := n) (d := d) (f := f) hrz
        (anyPoison_pair.trans (Bool.or_eq_true_iff.mpr (.inl hp)))
      simp only [List.forall_mem_cons]
      exact ⟨htrap, htrap, fun _ h => nomatch h⟩
  case poison =>
    intro a s h15 hr hp
    have hjr : settle s (doJr a s) = .next (settled s (.trap { cause := .poisonConsumed })) :=
      congrArg (settle s) (jumpReg_of_poison hr hp _)
    have hjlr : settle s (doJlr a s) = .next (settled s (.trap { cause := .poisonConsumed })) :=
      congrArg (settle s) ((doJlr_of_ready h15).trans (jumpReg_of_poison hr hp _))
    simp only [List.forall_mem_cons]
    exact ⟨hjr, hjlr, fun _ h => nomatch h⟩
  case jumps =>
    intro a d s h15 hr hc tgt link
    have htgt : jumpTarget s d = tgt := jumpTarget_eq d
    rw [← htgt]
    exact ⟨rfl, settle_doJl h15 d,
      fun h => ⟨congrArg (settle s) (jumpReg_of_aligned hr hc h _),
        congrArg (settle s) ((doJlr_of_ready h15).trans (jumpReg_of_aligned hr hc h _))⟩,
      fun h => ⟨congrArg (settle s) (jumpReg_of_misaligned hr hc h _),
        congrArg (settle s) ((doJlr_of_ready h15).trans (jumpReg_of_misaligned hr hc h _))⟩⟩
  case loops =>
    intro c n b w st s hlegal hr bs words hlen hwords hend
    have hfree : ∀ w ∈ words, bodyForbids w = false := fun w hw => by
      obtain ⟨k, hk, rfl⟩ := List.getElem_of_mem hw
      rw [← List.getD_eq_getElem _ 0 hk]
      exact (hwords k (hlen ▸ hk)).2
    have hloop := doLoop_of_body hlegal hr (bodyWords_eq hlen fun k hk => (hwords k hk).1) hfree hend
    exact ⟨fun hp => congrArg (settle s) (hloop.trans (unpoisoned_of_poison (anyPoison_single.trans hp) _)),
      fun hc => congrArg (settle s) (hloop.trans (unpoisoned_of_clean hc _))⟩

end Sys2Proof.Machine
end

section
/-! SUPPORT and the settling theorems of the frame of scalar instructions (O24, O26): what is counted, traced and printed
leaves everything but fingerprints, event counters and the frame (`Noted`), a group that retires or waits changes nothing
else but its context's sequencing (`Around`), and a scalar instruction writes one scalar before that. -/

namespace Sys2Proof.Machine

variable {s u v : State} {t c : Nat}

/-! What notes leave. -/

/-- A tile as before, but for its fingerprints and event counters. -/
structure TileNoted (x y : Tile) : Prop where
  rest : ({ y with ctxs := [], cores := [], pairs := [] } : Tile) = { x with ctxs := [], cores := [], pairs := [] }
  core : ∀ k, ({ Sparse.get ({} : CoreSt) y.cores k with pmc := [], pmsel := [], freeze := false } : CoreSt) =
    { Sparse.get ({} : CoreSt) x.cores k with pmc := [], pmsel := [], freeze := false }
  ctxs : y.ctxs = x.ctxs

theorem TileNoted.refl (x : Tile) : TileNoted x x := ⟨rfl, fun _ => rfl, rfl⟩

theorem TileNoted.trans {x y z : Tile} (h : TileNoted x y) (h' : TileNoted y z) : TileNoted x z :=
  ⟨h'.rest.trans h.rest, fun k => (h'.core k).trans (h.core k), h'.ctxs.trans h.ctxs⟩

/-- A state as before, but for what notes about groups change. -/
structure Noted (s u : State) : Prop where
  rest : ({ u with tiles := [], grp := {} } : State) = { s with tiles := [], grp := {} }
  tile : ∀ t, TileNoted (tileOf s t) (tileOf u t)

theorem Noted.refl (s : State) : Noted s s := ⟨rfl, fun _ => .refl _⟩

theorem Noted.trans (h : Noted s u) (h' : Noted u v) : Noted s v :=
  ⟨h'.rest.trans h.rest, fun t => (h.tile t).trans (h'.tile t)⟩

theorem Noted.ite {p : Prop} [Decidable p] (h : Noted s u) (h' : Noted s v) : Noted s (if p then u else v) := by
  split
  · exact h
  · exact h'

theorem Noted.ctxOf_eq (h : Noted s u) (t c : Nat) : ctxOf u t c = ctxOf s t c := by
  unfold ctxOf ctxIn; rw [(h.tile t).ctxs]

theorem MonitorOff.noted (h : MonitorOff s t) (hu : Noted s u) : MonitorOff u t := by
  have hmon : (tileOf u t).mon = (tileOf s t).mon := (congrArg Tile.mon (hu.tile t).rest :)
  unfold MonitorOff
  rw [hmon]
  exact h

theorem noted_grp (g : Frame) : Noted s { s with grp := g } := ⟨rfl, fun _ => .refl _⟩

theorem noted_foldl {α : Type} {f : State → α → State} (hf : ∀ u x, Noted s u → Noted s (f u x)) (l : List α)
    (h : Noted s u) : Noted s (l.foldl f u) := by
  induction l generalizing u with
  | nil => exact h
  | cons x l ih => exact ih (hf u x h)

theorem noted_modTile (t : Nat) {f : Tile → Tile} (hf : ∀ x, TileNoted x (f x)) : Noted s (modTile t f s) := by
  refine ⟨rfl, fun a => ?_⟩
  rw [tileOf_modTile]
  split
  next h => subst h; exact hf _
  next => exact .refl _

/-- A core whose event counters change. -/
theorem noted_modCore (t k : Nat) {f : CoreSt → CoreSt}
    (hf : ∀ x, ({ f x with pmc := [], pmsel := [], freeze := false } : CoreSt) =
      { x with pmc := [], pmsel := [], freeze := false }) : Noted s (modCore t k f s) :=
  noted_modTile t fun _ => ⟨rfl, fun _ =>
    get_modify_part _ (fun x : CoreSt => ({ x with pmc := [], pmsel := [], freeze := false } : CoreSt)) hf .., rfl⟩

theorem noted_notePrint (t c n v w : Nat) : Noted s (notePrint t c n v w s) := by
  unfold notePrint modPair
  split
  · exact .refl s
  · exact noted_modTile t fun _ => ⟨rfl, fun _ => rfl, rfl⟩

theorem noted_printRows (t c : Nat) : Noted s (printRows t c s) := by
  unfold printRows
  dsimp only
  split
  · exact .refl s
  · exact noted_foldl (fun _ r h => noted_foldl (fun _ k h => h.trans (noted_notePrint ..)) _ h) _ (.refl s)

theorem noted_pmcAdd (h : MonitorOff s t) (k i c n : Nat) (g : Site) (q : W32) : Noted s (pmcAdd t k i c n g q s) := by
  unfold pmcAdd
  extract_lets v s1 s2 s3
  have h1 : Noted s s1 := noted_modCore t k fun _ => rfl
  have h2 : Noted s s2 := h1.trans (noted_modCore t k fun _ => rfl)
  have h3 : Noted s s3 := h2.trans (noted_modCore t k fun _ => rfl)
  refine .ite h1 (.ite (.ite ?_ (h3.trans (noted_grp _))) h2)
  rw [monitorAt_off (h.noted h3)]
  exact h3

theorem noted_countAt (h : MonitorOff s t) (c ev n lvl : Nat) (g : Site) (q : W32) :
    Noted s (countAt t c ev n lvl g q s) :=
  noted_foldl (fun _ _ hu => .ite (hu.trans (noted_pmcAdd (h.noted hu) ..)) hu) _ (.refl s)

theorem noted_flushSamples (h : MonitorOff s t) (c : Nat) : Noted s (flushSamples t c s) := by
  refine noted_foldl (fun u r hu => ?_) _ (noted_grp _)
  rw [monitorAt_off (h.noted hu)]
  exact hu

theorem noted_retireNotes (h : MonitorOff s t) (c : Nat) : Noted s (retireNotes t c s) := by
  have hp : Noted s (printRows t c (notePrint t c 17 (fingerWords (ctxOf s t c)) (fingerWords (ctxOf s t c)) s)) :=
    (noted_notePrint ..).trans (noted_printRows ..)
  have hf := hp.trans (noted_flushSamples (h.noted hp) c)
  exact hf.trans (noted_countAt (h.noted hf) ..)

/-! What lies around the acting context. -/

/-- Nothing differs but the acting context, event counters, fingerprints and the frame. -/
def Around (s u : State) : Prop := DeviceKept s u ∧ OthersKept s u

theorem Around.rest (h : Around s u) : ({ u with tiles := [], grp := {} } : State) = { s with tiles := [], grp := {} } :=
  h.1.1

theorem Around.focusTile (h : Around s u) : u.focusTile = s.focusTile := (congrArg State.focusTile h.rest :)

theorem Around.focusCtx (h : Around s u) : u.focusCtx = s.focusCtx := (congrArg State.focusCtx h.rest :)

theorem Around.mem (h : Around s u) : u.mem = s.mem := (congrArg State.mem h.rest :)

theorem Noted.around (h : Noted s u) : Around s u :=
  ⟨⟨h.rest, fun a => (h.tile a).rest⟩, fun a k => (h.tile a).core k, fun a c _ => h.ctxOf_eq a c⟩

theorem Around.refl (s : State) : Around s s := (Noted.refl s).around

theorem Around.trans (h : Around s u) (h' : Around u v) : Around s v := by
  have ht := h.focusTile
  have hc := h.focusCtx
  obtain ⟨⟨hrest, htile⟩, hcore, hctx⟩ := h
  obtain ⟨⟨hrest', htile'⟩, hcore', hctx'⟩ := h'
  rw [ht, hc] at hctx'
  exact ⟨⟨hrest'.trans hrest, fun a => (htile' a).trans (htile a)⟩, fun a k => (hcore' a k).trans (hcore a k),
    fun a c hne => (hctx' a c hne).trans (hctx a c hne)⟩

theorem around_setCtx (h : Around s u) (y : Ctx) : Around s (setCtx s.focusTile s.focusCtx y u) := by
  refine h.trans ?_
  rw [← h.focusTile, ← h.focusCtx]
  refine ⟨⟨rfl, fun a => ?_⟩, fun a k => ?_, fun a c hne => ?_⟩
  · unfold setCtx
    rw [tileOf_modTile]
    split
    next e => subst e; rfl
    next => rfl
  · rw [coreOf_setCtx]
  · rw [ctxOf_setCtx, if_neg hne]

theorem around_modCur (f : Ctx → Ctx) : Around s (modCur f s) := around_setCtx (.refl s) _

theorem around_clearFrame : Around s (clearFrame s) := (noted_grp _).around

/-- R396 to R405: a context that nothing observes is observed by nothing while what is observed of it stays. -/
theorem Quiet.around (hq : Quiet s) (h : Around s u) (hphase : (cur u).phase = (cur s).phase)
    (hstatus : (cur u).status = (cur s).status) (hstep : (cur u).stepReq = (cur s).stepReq)
    (hdbg : (cur u).dbg = (cur s).dbg) : Quiet u := by
  obtain ⟨hrun, hss, hreq, hunarmed, hmon⟩ := hq
  have hmon' : (curTile u).mon = (curTile s).mon := by
    unfold curTile
    rw [h.focusTile]
    exact (congrArg Tile.mon (h.1.2 s.focusTile) :)
  refine ⟨hphase.trans hrun, ?_, hstep.trans hreq, hdbg.trans hunarmed, ?_⟩
  · unfold ss at hss ⊢
    rw [hstatus]
    exact hss
  · rw [hmon']
    exact hmon

/-! A group that retires, and one that waits. -/

/-- R74, R91: a branch in a loop goes on as any group of the body. -/
theorem advance_branch_of_loop {l : LoopSt} (h : (ctxOf s t c).loop = some l) (taken kill : Bool) (target : Nat) :
    advance t c (.branch taken target kill) s = advance t c .next s := by
  unfold advance
  simp only [h]

/-- R66: sequencing after a group that raises nothing moves its context on, in a loop or outside one. -/
theorem advance_unsequenced {f : Flow} (hf : PlainFlow f) :
    ∃ z, advance t c f s = setCtx t c z s ∧ unsequenced z = unsequenced (ctxOf s t c) := by
  obtain rfl | ⟨taken, target, kill, rfl⟩ := hf
  · exact ⟨_, rfl, rfl⟩
  · cases hl : (ctxOf s t c).loop with
    | none => exact ⟨_, advance_branch hl taken kill target, rfl⟩
    | some l => exact ⟨_, advance_branch_of_loop hl .., rfl⟩

/-- R393: the sequence number that a group took is no part of what `unsequenced` shows. -/
theorem unsequenced_numbered (y : Ctx) (q : Option W32) (n : Nat) :
    unsequenced { y with accs := y.accs.map (numbered q n) } = unsequenced y := by
  have hacc (a : Acc) : ({ numbered q n a with seq := 0 } : Acc) = { a with seq := 0 } := by
    unfold numbered
    split
    · split <;> rfl
    · rfl
  simp only [unsequenced, List.map_map, Function.comp_def, hacc]

@[simp] theorem ctxOf_clearFrame : ctxOf (clearFrame s) t c = ctxOf s t c := rfl

/-- R66, R254: what a retired group books is no part of what `unsequenced` shows. -/
theorem unsequenced_bookLast : unsequenced (ctxOf (bookLast u v t c) t c) = unsequenced (ctxOf v t c) := by
  unfold bookLast
  dsimp only
  rw [ctxOf_clearFrame, ctxOf_modCtx_same]
  exact unsequenced_numbered (ctxOf v t c) _ _

/-- R66, R404, R406: what is noted of a group that raises nothing, and its booking, change its context's sequencing alone. -/
theorem bookLast_frame {f : Flow} (hm : MonitorOff u u.focusTile) (hf : PlainFlow f) :
    let v := bookLast u (advance u.focusTile u.focusCtx f (retireNotes u.focusTile u.focusCtx u)) u.focusTile u.focusCtx
    Around u v ∧ unsequenced (ctxOf v u.focusTile u.focusCtx) = unsequenced (cur u) := by
  have hn := noted_retireNotes hm u.focusCtx
  obtain ⟨z, hz, hzu⟩ := advance_unsequenced (s := retireNotes u.focusTile u.focusCtx u) (t := u.focusTile)
    (c := u.focusCtx) hf
  rw [hz]
  refine ⟨(around_setCtx (around_setCtx hn.around z) _).trans around_clearFrame, ?_⟩
  rw [unsequenced_bookLast, ctxOf_setCtx_same, hzu, hn.ctxOf_eq]
  rfl

/-- R66, R404, R406: a quiet group that raises nothing changes its context's sequencing alone when it retires. -/
theorem retireGroup_frame {f : Flow} (hq : Quiet u) (hf : PlainFlow f) :
    let v := retireGroup u.focusTile u.focusCtx f u
    Around u v ∧ unsequenced (ctxOf v u.focusTile u.focusCtx) = unsequenced (cur u) := by
  obtain ⟨hrun, hss, hstep, hdbg, hmon⟩ := hq
  have hb := bookLast_frame hmon hf
  have hctx := hb.2
  rw [retireGroup_of_plainFlow hf hmon, groupEnds_of_quiet]
  · exact hb
  · exact (congrArg Ctx.phase hctx :).trans hrun
  · exact (congrArg ss hctx :).trans hss
  · exact (congrArg Ctx.stepReq hctx :).trans hstep
  · exact (congrArg Ctx.dbg hctx :).trans hdbg

/-- R221, R299: a group that waits changes its context's wait alone. -/
theorem waitGroup_frame (w : Wait) :
    let v := waitGroup s.focusTile s.focusCtx w s
    Around s v ∧ unsequenced (ctxOf v s.focusTile s.focusCtx) = unsequenced (cur s) := by
  refine ⟨around_clearFrame.trans (around_setCtx (s := clearFrame s) (.refl _) _), ?_⟩
  unfold waitGroup
  rw [ctxOf_modCtx_same]
  split <;> rfl

/-! Scalar instructions. -/

/-- A lone group that waits. -/
theorem settled_wait_frame (hh : s.grp.half = .lone) (w : Wait) :
    let t := settled s (.wait s w)
    Around s t ∧ unsequenced (ctxOf t s.focusTile s.focusCtx) = unsequenced (cur s) := by
  have h : settled s (.wait s w) = waitGroup s.focusTile s.focusCtx w s := by unfold settled; rw [hh]
  rw [h]
  exact waitGroup_frame w

/-- A lone, quiet group whose instruction has changed its context alone. -/
theorem settled_done_frame (hh : s.grp.half = .lone) (ha : Around s u) (hq : Quiet u) :
    let t := settled s (.done u .next)
    Around s t ∧ unsequenced (ctxOf t s.focusTile s.focusCtx) = unsequenced (cur u) := by
  have hr := retireGroup_frame hq (.inl rfl)
  have h := settled_lone hh ha.focusTile ha.focusCtx (.inl rfl)
  rw [← h, ha.focusTile, ha.focusCtx] at hr
  exact ⟨ha.trans hr.1, hr.2⟩

/-! What the scalar instructions do (R82, R83). -/

/-- An instruction waits for its scalars, or writes one. -/
def WritesScalar (s : State) (d : Fin 16) (o : Host.Outcome State Fault Refusal) : Prop :=
  (∃ w, o = .next (settled s (.wait s w))) ∨ ∃ v, o = .next (settled s (.done (wrS d v s) .next))

/-- An instruction waits for its scalars, or writes one and raises flags in FPFLAGS. -/
def WritesFloat (s : State) (d : Fin 16) (o : Host.Outcome State Fault Refusal) : Prop :=
  (∃ w, o = .next (settled s (.wait s w))) ∨ ∃ v n, o = .next (settled s (.done (raiseFp n (wrS d v s)) .next))

/-- R81: a group that waits for scalars goes on or waits. -/
theorem ready_cases (s : State) (l : List (Fin 16)) (k : Eff) : (∃ w, ready s l k = .wait s w) ∨ ready s l k = k := by
  unfold ready
  split
  · exact .inl ⟨_, rfl⟩
  · exact .inr rfl

theorem writesScalar_ready {d : Fin 16} (l : List (Fin 16)) (v : Scalar) :
    WritesScalar s d (settle s (ready s l (.done (wrS d v s) .next))) := by
  obtain ⟨w, h⟩ | h := ready_cases s l (.done (wrS d v s) .next)
  · exact .inl ⟨w, congrArg (settle s) h⟩
  · exact .inr ⟨v, congrArg (settle s) h⟩

theorem writesFloat_ready {d : Fin 16} (l : List (Fin 16)) (code flags : Nat) (p : Bool) :
    WritesFloat s d (settle s (ready s l (putFloat s d code flags p))) := by
  obtain ⟨w, h⟩ | h := ready_cases s l (putFloat s d code flags p)
  · exact .inl ⟨w, congrArg (settle s) h⟩
  · exact .inr ⟨_, flags, congrArg (settle s) h⟩

/-- R93 to R95: the ALU, the multiplier and divider, and the immediates. -/
theorem writesScalar_exec {d a b c : Fin 16} {i : Fin 65536} {j : Fin 64} :
    ∀ w ∈ scalarForms d a b c i j, WritesScalar s d (exec w s) := by
  have two {f : Word → Word → Word} : WritesScalar s d (settle s (scalar2 s d a b f)) := writesScalar_ready ..
  have one {f : Word → Word} : WritesScalar s d (settle s (scalar1 s d a f)) := writesScalar_ready ..
  have sel : WritesScalar s d (settle s (doSel d a b c s)) := writesScalar_ready ..
  have li : WritesScalar s d (settle s (doLi d i s)) := writesScalar_ready ..
  simp only [scalarForms, List.forall_mem_cons]
  exact ⟨two, two, two, two, two, two, two, two, two, two, two, two, two, two, two, two, two, two, sel, one, one, one, one,
    two, two, two, two, two, two, two, one, one, one, one, one, one, one, one, li, one, fun _ h => nomatch h⟩

/-- R96 to R101: the floats in scalars. -/
theorem writesFloat_exec {d a b c : Fin 16} {p : Prec} {o : FcmpPred} {v : FcvtOp} {n : Bool} :
    ∀ w ∈ floatForms d a b c p o v n, WritesFloat s d (exec w s) := by
  have two {b : Fin 16} {f : Num → Num → Num × Nat} : WritesFloat s d (settle s (float2 s d a b p f)) :=
    writesFloat_ready ..
  have fcmp : WritesFloat s d (settle s (doFcmp d a b o p s)) := writesFloat_ready ..
  have fcvt : WritesFloat s d (settle s (doFcvt d a v s)) := writesFloat_ready ..
  have fclass : WritesFloat s d (settle s (doFclass d a p s)) := writesFloat_ready ..
  have fma : WritesFloat s d (settle s (doFma d a b n p c s)) := writesFloat_ready ..
  simp only [floatForms, List.forall_mem_cons]
  exact ⟨two, two, two, two, two, two, two, fcmp, fcvt, fclass, fma, fun _ h => nomatch h⟩

/-! The frame. -/

theorem cur_wrS (d : Fin 16) (v : Scalar) : cur (wrS d v s) = putScalar d.val v (cur s) := cur_modCur ..

theorem cur_raiseFp (n : Nat) :
    cur (raiseFp n s) = { cur s with fpflags := (cur s).fpflags ||| BitVec.ofNat 64 n } := cur_modCur ..

theorem around_wrS (d : Fin 16) (v : Scalar) : Around s (wrS d v s) := around_modCur _

theorem around_raiseFp (n : Nat) : Around s (raiseFp n s) := around_modCur _

theorem putScalar_other_fields (r : Nat) (v : Scalar) (y : Ctx) :
    ({ putScalar r v y with sregs := [] } : Ctx) = { y with sregs := [] } := by
  unfold putScalar
  split <;> rfl

/-- R83: a scalar other than the one written. -/
theorem scalarIn_putScalar_other {r r' : Nat} (h : r' ≠ r) (v : Scalar) (y : Ctx) :
    scalarIn (putScalar r v y) r' = scalarIn y r' := by
  rw [scalarIn_putScalar, if_neg fun hr => h hr.1]

/-- A quiet context stays quiet when scalars and flags change. -/
theorem Quiet.modCur_of_masked {g : Ctx → Ctx} (hq : Quiet s)
    (hg : ({ g (cur s) with sregs := [], fpflags := 0 } : Ctx) = { cur s with sregs := [], fpflags := 0 }) :
    Quiet (modCur g s) := by
  refine hq.around (around_modCur g) ?_ ?_ ?_ ?_ <;> rw [cur_modCur]
  · exact (congrArg Ctx.phase hg :)
  · exact (congrArg Ctx.status hg :)
  · exact (congrArg Ctx.stepReq hg :)
  · exact (congrArg Ctx.dbg hg :)

theorem Quiet.wrS (hq : Quiet s) (d : Fin 16) (v : Scalar) : Quiet (wrS d v s) :=
  hq.modCur_of_masked (congrArg (fun y : Ctx => ({ y with fpflags := 0 } : Ctx)) (putScalar_other_fields d.val v (cur s)) :)

theorem Quiet.raiseFp (hq : Quiet s) (n : Nat) : Quiet (raiseFp n s) := hq.modCur_of_masked rfl

/-- R83: what a scalar instruction leaves: its context `z` before the group ends differs from the old one in s[D] alone. -/
theorem WritesScalar.frame {d : Fin 16} {t : State} (hq : Quiet s) (hh : s.grp.half = .lone)
    (h : WritesScalar s d (.next t)) :
    Around s t ∧ ∃ z, unsequenced (ctxOf t s.focusTile s.focusCtx) = unsequenced z ∧
      (∀ r, r ≠ d.val → scalarIn z r = scalarIn (cur s) r) ∧
      ({ z with sregs := [] } : Ctx) = { cur s with sregs := [] } := by
  obtain ⟨w, h⟩ | ⟨v, h⟩ := h <;> cases h
  · obtain ⟨ha, hz⟩ := settled_wait_frame hh w
    exact ⟨ha, _, hz, fun _ _ => rfl, rfl⟩
  · obtain ⟨ha, hz⟩ := settled_done_frame hh (around_wrS d v) (hq.wrS d v)
    rw [cur_wrS] at hz
    exact ⟨ha, _, hz, fun r hr => scalarIn_putScalar_other hr v (cur s), putScalar_other_fields ..⟩

/-- R45, R83: what a float instruction leaves: its context `z` before the group ends differs from the old one in s[D] and
FPFLAGS alone. -/
theorem WritesFloat.frame {d : Fin 16} {t : State} (hq : Quiet s) (hh : s.grp.half = .lone)
    (h : WritesFloat s d (.next t)) :
    Around s t ∧ ∃ z, unsequenced (ctxOf t s.focusTile s.focusCtx) = unsequenced z ∧
      (∀ r, r ≠ d.val → scalarIn z r = scalarIn (cur s) r) ∧
      ({ z with sregs := [], fpflags := 0 } : Ctx) = { cur s with sregs := [], fpflags := 0 } := by
  obtain ⟨w, h⟩ | ⟨v, n, h⟩ := h <;> cases h
  · obtain ⟨ha, hz⟩ := settled_wait_frame hh w
    exact ⟨ha, _, hz, fun _ _ => rfl, rfl⟩
  · obtain ⟨ha, hz⟩ := settled_done_frame hh ((around_wrS d v).trans (around_raiseFp n)) ((hq.wrS d v).raiseFp n)
    rw [cur_raiseFp, cur_wrS] at hz
    exact ⟨ha, _, hz, fun r hr => scalarIn_putScalar_other hr v (cur s),
      (congrArg (fun y : Ctx => ({ y with fpflags := 0 } : Ctx)) (putScalar_other_fields d.val v (cur s)) :)⟩

/-- What the statements of this family keep. -/
def ScalarsKept (s t : State) (d : Fin 16) : Prop :=
  (∀ r, r ≠ d.val → scalarIn (ctxOf t s.focusTile s.focusCtx) r = scalarIn (cur s) r) ∧
  scalarIn (ctxOf t s.focusTile s.focusCtx) 0 = {} ∧ (∀ x, t.mem.read x = s.mem.read x) ∧ DeviceKept s t ∧ OthersKept s t

theorem scalarsKept_of_around {d : Fin 16} {t : State} {z : Ctx} (ha : Around s t)
    (hz : unsequenced (ctxOf t s.focusTile s.focusCtx) = unsequenced z)
    (hr : ∀ r, r ≠ d.val → scalarIn z r = scalarIn (cur s) r) : ScalarsKept s t d := by
  have hsregs (r : Nat) : scalarIn (ctxOf t s.focusTile s.focusCtx) r = scalarIn z r :=
    (congrArg (fun y => scalarIn y r) hz :)
  exact ⟨fun r h => (hsregs r).trans (hr r h), rfl, fun x => by rw [ha.mem], ha.1, ha.2⟩

/-- Settles O24: a scalar instruction waits or writes s[D], and the end of its group leaves everything around its
context. -/
theorem scalarFrame : Obligations.ScalarFrame := by
  intro d a b c i j p o v n s t hq hh kept
  refine ⟨fun w hw ht => ?_, fun w hw ht => ?_⟩
  · obtain ⟨ha, z, hz, hr, hm⟩ := WritesScalar.frame hq hh (ht ▸ writesScalar_exec w hw)
    exact ⟨scalarsKept_of_around ha hz hr,
      (congrArg (fun y : Ctx => ({ y with sregs := [] } : Ctx)) hz :).trans (congrArg unsequenced hm)⟩
  · obtain ⟨ha, z, hz, hr, hm⟩ := WritesFloat.frame hq hh (ht ▸ writesFloat_exec w hw)
    exact ⟨scalarsKept_of_around ha hz hr,
      (congrArg (fun y : Ctx => ({ y with sregs := [], fpflags := 0 } : Ctx)) hz :).trans (congrArg unsequenced hm)⟩

/-- Settles O26: by the frame, every scalar but s0 reads as before, and s0 reads zero in every context. -/
theorem zeroRegisterDiscards : Obligations.ZeroRegisterDiscards := by
  intro a b c i j s hq hh _ w hw
  obtain ⟨t, ht, -⟩ := goes_exec w s
  obtain ⟨ha, z, hz, hr, -⟩ := WritesScalar.frame hq hh (ht ▸ writesScalar_exec w hw)
  obtain ⟨hother, hzero, -⟩ := scalarsKept_of_around ha hz hr
  refine ⟨t, ht, fun r => ?_, hzero⟩
  by_cases h0 : r = 0
  · subst h0; rfl
  · exact hother r h0

end Sys2Proof.Machine
end

section
/-! SUPPORT and the settling theorems of the whole-tile instructions and of the frame of row instructions (O23, O25): a
write of rows changes tile registers of the acting tile alone (`RegsOnly`), and a row instruction of two sources waits or
writes one row (`OneRow`) before its group ends. -/

namespace Sys2Proof.Machine

variable {s u v : State}

/-! What writes of rows leave. -/

/-- Nothing differs but tile registers of the acting tile. -/
structure RegsOnly (s u : State) : Prop where
  rest : ({ u with tiles := [] } : State) = { s with tiles := [] }
  tile : ({ curTile u with xregs := [] } : Tile) = { curTile s with xregs := [] }
  other : ∀ t, t ≠ s.focusTile → tileOf u t = tileOf s t

theorem RegsOnly.focusTile (h : RegsOnly s u) : u.focusTile = s.focusTile := (congrArg State.focusTile h.rest :)

theorem RegsOnly.focusCtx (h : RegsOnly s u) : u.focusCtx = s.focusCtx := (congrArg State.focusCtx h.rest :)

theorem RegsOnly.refl (s : State) : RegsOnly s s := ⟨rfl, rfl, fun _ _ => rfl⟩

theorem RegsOnly.trans (h : RegsOnly s u) (h' : RegsOnly u v) : RegsOnly s v :=
  ⟨h'.rest.trans h.rest, h'.tile.trans h.tile,
    fun t ht => (h'.other t (h.focusTile ▸ ht)).trans (h.other t ht)⟩

theorem regsOnly_modCurTile {f : Tile → Tile} (hf : ∀ x, ({ f x with xregs := [] } : Tile) = { x with xregs := [] }) :
    RegsOnly s (modCurTile f s) := by
  refine ⟨rfl, ?_, fun t ht => ?_⟩
  · rw [curTile_modCurTile, hf]
  · unfold modCurTile
    rw [tileOf_modTile, if_neg ht]

theorem regsOnly_wrRow (p k : Nat) (w : Row) : RegsOnly s (wrRow p k w s) := regsOnly_modCurTile fun _ => rfl

theorem regsOnly_touchReg (p : Nat) : RegsOnly s (touchReg p s) := regsOnly_modCurTile fun _ => rfl

theorem rowIn_curTile_wrRow (p k : Nat) (w : Row) (p' k' : Nat) :
    rowIn (curTile (wrRow p k w s)) p' k' = if p' = p ∧ k' = k then w else rowIn (curTile s) p' k' := by
  unfold wrRow
  rw [curTile_modCurTile, rowIn_putRow]

theorem curTile_touchReg_reg {α : Type} (part : TileReg → α)
    (hp : ∀ (g : TileReg) n, part { g with lastUse := n, drowsy := false } = part g) (p p' : Nat) :
    part (Sparse.get {} (curTile (touchReg p s)).xregs p') = part (Sparse.get {} (curTile s).xregs p') := by
  unfold touchReg
  rw [curTile_modCurTile]
  exact get_modify_part _ part (fun g => hp g _) ..

theorem rowIn_curTile_touchReg (p p' k' : Nat) : rowIn (curTile (touchReg p s)) p' k' = rowIn (curTile s) p' k' :=
  curTile_touchReg_reg (fun g => Sparse.get ({} : Row) g.rows k') (fun _ _ => rfl) p p'

/-! Whole registers (R152). -/

theorem regsOnly_wrAll (p : Nat) (l : List Row) : RegsOnly s (wrAll p l s) := by
  unfold wrAll
  exact List.foldlRecOn (motive := RegsOnly s) _ _ (.refl s) fun _ hu _ _ => hu.trans (regsOnly_wrRow ..)

/-- R152: the rows of a register from `n` on replaced. -/
theorem rowIn_curTile_wrFrom (p : Nat) (l : List Row) (n p' k : Nat) (s : State) :
    rowIn (curTile ((l.zipIdx n).foldl (fun s rk => wrRow p rk.2 rk.1 s) s)) p' k =
      if p' = p ∧ n ≤ k ∧ k < n + l.length then l.getD (k - n) {} else rowIn (curTile s) p' k := by
  induction l generalizing n s with
  | nil => rw [if_neg (by rintro ⟨-, h, h'⟩; simp at h'; omega)]; rfl
  | cons w l ih =>
    rw [List.zipIdx_cons, List.foldl_cons, ih, rowIn_curTile_wrRow, List.length_cons]
    by_cases hp : p' = p
    · obtain h | rfl | h := Nat.lt_trichotomy k n
      · rw [if_neg (by omega), if_neg (by omega), if_neg (by omega)]
      · rw [if_neg (by omega), if_pos ⟨hp, rfl⟩, if_pos (by omega), Nat.sub_self, List.getD_cons_zero]
      · have hk : k - n = k - (n + 1) + 1 := by omega
        rw [hk, List.getD_cons_succ, if_neg (show ¬(p' = p ∧ k = n) by omega)]
        exact if_congr (by omega) rfl rfl
    · rw [if_neg (by tauto), if_neg (by tauto), if_neg (by tauto)]

theorem rowIn_curTile_wrAll (p : Nat) (l : List Row) (p' k : Nat) : rowIn (curTile (wrAll p l s)) p' k =
    if p' = p ∧ k < l.length then l.getD k {} else rowIn (curTile s) p' k := by
  unfold wrAll
  rw [rowIn_curTile_wrFrom]
  simp only [Nat.zero_le, true_and, Nat.zero_add, Nat.sub_zero]

/-- R152: a register whose 16 rows are replaced, in a state that differs from `s` in the use of registers alone. -/
theorem wrAll_frame {l : List Row} {q : Nat} {P : Nat → Row → Prop} (hl : l.length = 16) (hP : ∀ j, j < 16 → P j (l.getD j {}))
    (hu : RegsOnly s u) (hrows : ∀ p k, rowIn (curTile u) p k = rowIn (curTile s) p k) :
    let w := wrAll q l u
    (∀ j, j < 16 → P j (rowIn (curTile w) q j)) ∧ (∀ g j, g ≠ q → rowIn (curTile w) g j = rowIn (curTile s) g j) ∧
    ({ w with tiles := [] } : State) = { s with tiles := [] } ∧
    ({ curTile w with xregs := [] } : Tile) = { curTile s with xregs := [] } ∧
    ∀ t', t' ≠ s.focusTile → tileOf w t' = tileOf s t' := by
  obtain ⟨hrest, htile, hother⟩ := hu.trans (regsOnly_wrAll q l)
  refine ⟨fun j hj => ?_, fun g j hg => ?_, hrest, htile, hother⟩
  · rw [rowIn_curTile_wrAll, if_pos ⟨rfl, hl ▸ hj⟩]
    exact hP j hj
  · rw [rowIn_curTile_wrAll, if_neg fun h => hg h.1, hrows]

theorem length_rdAll (s : State) (p : Nat) : (rdAll s p).length = 16 := by simp [rdAll]

theorem getD_rdAll {j : Nat} (hj : j < 16) (p : Nat) : (rdAll s p).getD j {} = rdRow s p j := by
  simp [rdAll, List.getD, hj]

theorem getD_replicate {α : Type} {n j : Nat} (hj : j < n) (x y : α) : (List.replicate n x).getD j y = x := by
  simp [List.getD, hj]

theorem rowsPoison_rdAll (p : Nat) : rowsPoison (rdAll s p) = (List.range 16).any fun j => (rdRow s p j).poison := by
  unfold rowsPoison rdAll
  rw [List.any_map]
  rfl

/-- R152: XFILL fills a row with eight copies of a word. -/
theorem elem_fill (v : Word) {j : Nat} (hj : j < 8) :
    elem 64 (BitVec.ofNat 512 (packElems 64 (List.replicate 8 v.toNat))) j = v.toNat := by
  rw [elem_pack (by simp), getD_replicate hj, Nat.mod_eq_of_lt v.isLt]

/-- R152: XTRN. -/
theorem elem_transpose32 {l : List Row} (hl : l.length = 16) {i j : Nat} (hi : i < 16) (hj : j < 16) :
    elem 32 ((transpose32 l).getD i {}).bits j = elem 32 (l.getD j {}).bits i := by
  have hrow : (transpose32 l).getD i {} =
      { bits := BitVec.ofNat 512 (packElems 32 (l.map fun r => elem 32 r.bits i)), poison := rowsPoison l } := by
    simp [transpose32, List.getD, hi]
  rw [hrow, elem_pack (by simp [hl])]
  simp [List.getD, hl, hj, elem]

theorem poison_transpose32 (l : List Row) {i : Nat} (hi : i < 16) :
    ((transpose32 l).getD i {}).poison = rowsPoison l := by
  simp [transpose32, List.getD, hi]

/-- R152: the form of one source register with bound names and ready rows. -/
theorem tile1_of {d a : Fin 16} {p q : Nat} (ha : nameOf s a = some p) (hd : nameOf s d = some q)
    (h : RowsReady s (allRows p) (allRows q)) (f : List Row → List Row) :
    tile1 s d a f = .done (wrAll q (f (rdAll s p)) (touchReg p s)) .next := by
  unfold tile1
  rw [withName_of ha, withName_of hd]
  exact readyRows_of h _

/-- R152: XZERO with its name bound and its rows ready. -/
theorem doXzero_of {d : Fin 16} {q : Nat} (hd : nameOf s d = some q) (h : RowsReady s [] (allRows q)) :
    doXzero d s = .done (wrAll q (List.replicate 16 {}) s) .next := by
  unfold doXzero
  rw [withName_of hd]
  exact readyRows_of h _

/-- R152: XFILL with its name bound, its scalar and its rows ready. -/
theorem doXfill_of {d a : Fin 16} {q : Nat} (hd : nameOf s d = some q) (hr : Ready s [a])
    (h : RowsReady s [] (allRows q)) :
    doXfill d a s = .done (wrAll q (List.replicate 16
      { bits := BitVec.ofNat 512 (packElems 64 (List.replicate 8 (rdS s a).val.toNat)), poison := (rdS s a).poison }) s)
      .next := by
  unfold doXfill
  rw [withName_of hd, ready_of hr]
  exact readyRows_of h _

/-- Settles O23: each instruction replaces the 16 rows of one register. -/
theorem tileInstructionsComplete : Obligations.TileInstructionsComplete := by
  intro d a p q s hd done
  have fills {i : Instr} {P : Nat → Row → Prop} {l : List Row} {u : State} (hu : RegsOnly s u)
      (hrows : ∀ p k, rowIn (curTile u) p k = rowIn (curTile s) p k)
      (he : exec i s = settle s (.done (wrAll q l u) .next)) (hl : l.length = 16)
      (hP : ∀ j, j < 16 → P j (l.getD j {})) : done i P := ⟨_, he, wrAll_frame (P := P) hl hP hu hrows⟩
  clear_value done -- from here on used through `fills` alone
  refine ⟨fun h => ?xzero, fun hr h => ?xfill, fun ha h => ⟨?xcpy, ?xtrn⟩⟩
  case xzero =>
    exact fills (.refl s) (fun _ _ => rfl) (congrArg (settle s) (doXzero_of hd h)) List.length_replicate
      fun j hj => getD_replicate hj ..
  case xfill =>
    refine fills (.refl s) (fun _ _ => rfl) (congrArg (settle s) (doXfill_of hd hr h)) List.length_replicate fun j hj => ?_
    rw [getD_replicate hj]
    exact ⟨rfl, fun _ => elem_fill _⟩
  case xcpy =>
    exact fills (regsOnly_touchReg p) (rowIn_curTile_touchReg p) (congrArg (settle s) (tile1_of ha hd h _))
      (length_rdAll s p) fun j hj => getD_rdAll hj p
  case xtrn =>
    refine fills (regsOnly_touchReg p) (rowIn_curTile_touchReg p) (congrArg (settle s) (tile1_of ha hd h _))
      (by simp [transpose32]) fun i hi => ⟨?_, fun j hj => ?_⟩
    · rw [poison_transpose32 _ hi, rowsPoison_rdAll]
    · rw [elem_transpose32 (length_rdAll s p) hi hj, getD_rdAll hj]

/-! One row of one register (R137, R138, R168). -/

/-- Nothing differs but row `k` of register `p` of the acting tile, the stamp of that register, and the use of registers. -/
structure OneRow (p k : Nat) (s u : State) : Prop extends RegsOnly s u where
  row : ∀ p' k', ¬(p' = p ∧ k' = k) → rowIn (curTile u) p' k' = rowIn (curTile s) p' k'
  stamp : ∀ p', p' ≠ p → (Sparse.get {} (curTile u).xregs p').stamp = (Sparse.get {} (curTile s).xregs p').stamp
  srec : ∀ p', (Sparse.get {} (curTile u).xregs p').srec = (Sparse.get {} (curTile s).xregs p').srec
  bound : ∀ p', (Sparse.get {} (curTile u).xregs p').bound = (Sparse.get {} (curTile s).xregs p').bound

variable {p k : Nat}

theorem OneRow.refl (p k : Nat) (s : State) : OneRow p k s s :=
  ⟨.refl s, fun _ _ _ => rfl, fun _ _ => rfl, fun _ => rfl, fun _ => rfl⟩

theorem OneRow.trans (h : OneRow p k s u) (h' : OneRow p k u v) : OneRow p k s v :=
  ⟨h.toRegsOnly.trans h'.toRegsOnly, fun p' k' hne => (h'.row p' k' hne).trans (h.row p' k' hne),
    fun p' hne => (h'.stamp p' hne).trans (h.stamp p' hne), fun p' => (h'.srec p').trans (h.srec p'),
    fun p' => (h'.bound p').trans (h.bound p')⟩

theorem oneRow_touchReg (p k q : Nat) : OneRow p k s (touchReg q s) :=
  ⟨regsOnly_touchReg q, fun p' k' _ => rowIn_curTile_touchReg q p' k',
    fun p' _ => curTile_touchReg_reg TileReg.stamp (fun _ _ => rfl) q p',
    fun p' => curTile_touchReg_reg TileReg.srec (fun _ _ => rfl) q p',
    fun p' => curTile_touchReg_reg TileReg.bound (fun _ _ => rfl) q p'⟩

theorem oneRow_wrRow (p k : Nat) (w : Row) : OneRow p k s (wrRow p k w s) := by
  refine ⟨regsOnly_wrRow p k w, fun p' k' hne => ?_, fun p' hne => ?_, fun p' => ?_, fun p' => ?_⟩
  · rw [rowIn_curTile_wrRow, if_neg hne]
  all_goals simp only [wrRow, putRow, curTile_modCurTile]
  · exact congrArg TileReg.stamp (Sparse.get_modify_other _ hne ..)
  · exact get_modify_part _ TileReg.srec (fun _ => by rfl) ..
  · exact get_modify_part _ TileReg.bound (fun _ => by rfl) ..

/-! The end of the group. -/

/-- A part of a tile that is none of its registers. -/
theorem RegsOnly.tile_part {α : Type} (h : RegsOnly s u) (part : Tile → α)
    (hp : ∀ x : Tile, part { x with xregs := [] } = part x) (t : Nat) : part (tileOf u t) = part (tileOf s t) := by
  by_cases ht : t = s.focusTile
  · have hcur := congrArg part h.tile
    rw [hp, hp] at hcur
    unfold curTile at hcur
    rw [h.focusTile] at hcur
    rw [ht, hcur]
  · rw [h.other t ht]

theorem RegsOnly.ctxOf_eq (h : RegsOnly s u) (t c : Nat) : ctxOf u t c = ctxOf s t c :=
  h.tile_part (fun x => ctxIn x c) (fun _ => rfl) t

theorem RegsOnly.cur_eq (h : RegsOnly s u) : cur u = cur s := by
  unfold cur
  rw [h.focusTile, h.focusCtx, h.ctxOf_eq]

theorem RegsOnly.othersKept (h : RegsOnly s u) (ho : OthersKept u v) : OthersKept s v := by
  obtain ⟨hcore, hctx⟩ := ho
  rw [h.focusTile, h.focusCtx] at hctx
  refine ⟨fun t i => (hcore t i).trans ?_, fun t c hne => (hctx t c hne).trans (h.ctxOf_eq t c)⟩
  unfold coreOf
  rw [h.tile_part Tile.cores (fun _ => rfl) t]

theorem Quiet.regsOnly (hq : Quiet s) (h : RegsOnly s u) : Quiet u := by
  obtain ⟨hrun, hss, hreq, hunarmed, hmon⟩ := hq
  have hmon' : (curTile u).mon = (curTile s).mon := (congrArg Tile.mon h.tile :)
  unfold Quiet
  rw [h.cur_eq, hmon']
  exact ⟨hrun, hss, hreq, hunarmed, hmon⟩

/-- R45, R66: a lone, quiet group that has changed tile registers and raised flags in FPFLAGS. -/
theorem settled_regs_frame (hq : Quiet s) (hh : s.grp.half = .lone) (hr : RegsOnly s u) (n : Nat) :
    let t := settled s (.done (raiseFp n u) .next)
    Around u t ∧ unsequenced { ctxOf t s.focusTile s.focusCtx with fpflags := 0 } =
      unsequenced { cur s with fpflags := 0 } := by
  have hend := retireGroup_frame ((hq.regsOnly hr).raiseFp n) (.inl rfl)
  have hlone := settled_lone (u := raiseFp n u) hh hr.focusTile hr.focusCtx (.inl rfl)
  obtain ⟨ha, hctx⟩ := hlone ▸ hend
  refine ⟨(around_raiseFp n).trans ha, ?_⟩
  rw [cur_raiseFp, hr.cur_eq] at hctx
  have hfocus : (raiseFp n u).focusTile = s.focusTile ∧ (raiseFp n u).focusCtx = s.focusCtx := ⟨hr.focusTile, hr.focusCtx⟩
  rw [hfocus.1, hfocus.2] at hctx
  exact (congrArg (fun y : Ctx => ({ y with fpflags := 0 } : Ctx)) hctx :)

/-- R136 to R141: each row instruction of two sources is of one form. -/
theorem exec_rowForms (d a b r k : Fin 16) (t : Ty) (s : State) :
    ∀ i ∈ rowForms d a b r k t, ∃ z f, exec i s = settle s (row2 s d a b r k z f) := by
  simp only [rowForms, List.forall_mem_cons]
  exact ⟨⟨_, _, rfl⟩, ⟨_, _, rfl⟩, ⟨_, _, rfl⟩, ⟨_, _, rfl⟩, ⟨_, _, rfl⟩, ⟨_, _, rfl⟩, ⟨_, _, rfl⟩, ⟨_, _, rfl⟩, ⟨_, _, rfl⟩,
    ⟨_, _, rfl⟩, ⟨_, _, rfl⟩, ⟨_, _, rfl⟩, ⟨_, _, rfl⟩, ⟨_, _, rfl⟩, ⟨_, _, rfl⟩, ⟨_, _, rfl⟩, ⟨_, _, rfl⟩,
    fun _ h => nomatch h⟩

/-- R137: a group that waits for rows goes on or waits. -/
theorem readyRows_cases (s : State) (reads writes : List (Nat × Nat)) (e : Eff) :
    (∃ w, readyRows s reads writes e = .wait s w) ∨ readyRows s reads writes e = e := by
  unfold readyRows
  dsimp only
  split
  · exact .inl ⟨_, rfl⟩
  · exact .inr rfl

/-- R136 to R141: a row instruction of two sources with bound names waits, or writes one row and raises flags. -/
theorem row2_cases {d a b r k : Fin 16} {pa pb pd : Nat} (ha : nameOf s a = some pa) (hb : nameOf s b = some pb)
    (hd : nameOf s d = some pd) (z : Bool) (f : BitVec 512 → BitVec 512 → BitVec 512 → BitVec 512 × Nat) :
    (∃ w, row2 s d a b r k z f = .wait s w) ∨
      ∃ u n, row2 s d a b r k z f = .done (raiseFp n u) .next ∧ OneRow pd r.val s u := by
  unfold row2
  rw [withName_of ha, withName_of hb, withName_of hd]
  obtain ⟨w, h⟩ | h := readyRows_cases s [(pa, k.val), (pb, k.val)] [(pd, r.val)] _
  · exact .inl ⟨w, h⟩
  · exact .inr ⟨_, _, h, ((oneRow_touchReg ..).trans (oneRow_touchReg ..)).trans (oneRow_wrRow ..)⟩

/-- R137, R138: what the group of a row instruction leaves around the state `u` in which its row is written. -/
theorem rowForm_frame {d a b r k : Fin 16} {ty : Ty} {pa pb pd : Nat} {t : State} {i : Instr} (hq : Quiet s)
    (hh : s.grp.half = .lone) (ha : nameOf s a = some pa) (hb : nameOf s b = some pb) (hd : nameOf s d = some pd)
    (hi : i ∈ rowForms d a b r k ty) (ht : exec i s = .next t) :
    ∃ u, OneRow pd r.val s u ∧ Around u t ∧
      unsequenced { ctxOf t s.focusTile s.focusCtx with fpflags := 0 } = unsequenced { cur s with fpflags := 0 } := by
  obtain ⟨z, f, he⟩ := exec_rowForms d a b r k ty s i hi
  rw [he] at ht
  obtain ⟨w, h⟩ | ⟨u, n, h, hu⟩ := row2_cases (r := r) (k := k) ha hb hd z f <;> rw [h] at ht <;> cases ht
  · obtain ⟨haround, hctx⟩ := settled_wait_frame hh w
    exact ⟨s, .refl .., haround, (congrArg (fun y : Ctx => ({ y with fpflags := 0 } : Ctx)) hctx :)⟩
  · exact ⟨u, hu, settled_regs_frame hq hh hu.toRegsOnly n⟩

/-- Settles O25: the row is written, and the end of the group changes no tile register. -/
theorem rowFrame : Obligations.RowFrame := by
  intro d a b r k ty s t hq hh ha hb hd i hi ht x y
  obtain ⟨pa, ha⟩ := Option.ne_none_iff_exists'.mp ha
  obtain ⟨pb, hb⟩ := Option.ne_none_iff_exists'.mp hb
  obtain ⟨pd, hd⟩ := Option.ne_none_iff_exists'.mp hd
  obtain ⟨u, hu, haround, hctx⟩ := rowForm_frame hq hh ha hb hd hi ht
  obtain ⟨⟨hrest, htile⟩, hothers⟩ := haround
  have hregs (q : Nat) : (tileOf t q).xregs = (tileOf u q).xregs := (congrArg Tile.xregs (htile q) :)
  have hy : y.xregs = (curTile u).xregs := by
    unfold curTile
    rw [hu.focusTile]
    exact hregs s.focusTile
  have hstate : ({ t with tiles := [], grp := {} } : State) = { s with tiles := [], grp := {} } :=
    hrest.trans (congrArg (fun w : State => ({ w with grp := {} } : State)) hu.rest :)
  rw [hy]
  refine ⟨fun p j hne => ?_, fun p hne => hu.stamp p fun h => hne (h ▸ hd), fun p => ⟨hu.srec p, hu.bound p⟩,
    fun q => (congrArg (fun c => scalarIn c q) hctx :), hctx, hu.othersKept hothers, fun q => ?_, hstate,
    fun q hne => ?_, fun q => ?_⟩
  · have hrow : rowIn y p j = rowIn (curTile u) p j := by
      unfold rowIn
      rw [hy]
    rw [hrow]
    exact hu.row p j fun h => hne ⟨h.1 ▸ hd, h.2⟩
  · rw [(congrArg State.mem hstate :)]
  · rw [hregs, hu.other q hne]
  · refine (congrArg (fun w : Tile => ({ w with xregs := [] } : Tile)) (htile q)).trans ?_
    exact hu.tile_part (fun w : Tile => ({ w with ctxs := [], cores := [], xregs := [], pairs := [] } : Tile))
      (fun _ => rfl) q

end Sys2Proof.Machine
end

section
/-! SUPPORT and the settling theorem of the row instructions of two sources (O21): the row that each computes has the
codes and flags of Table 6.4, element by element (`HasElems`). -/

namespace Sys2Proof.Machine

variable {s : State} {t : Ty} {x : BitVec 512 × Nat} {v : Nat → Nat × Nat}

/-! Computed rows, element by element. -/

/-- R140: a computed row has at each element the code, and over all elements the flags, that `v` gives. -/
structure HasElems (t : Ty) (x : BitVec 512 × Nat) (v : Nat → Nat × Nat) : Prop where
  code : ∀ j, j < tyCount t → elem (tyWidth t) x.1 j = (v j).1 % 2 ^ tyWidth t
  flags : x.2 = (List.range (tyCount t)).foldl (fun f j => f ||| (v j).2) 0

/-- R140: a row computed element by element. -/
theorem hasElems_rowOf (t : Ty) (v : Nat → Nat × Nat) :
    HasElems t (rowOf (tyWidth t) ((List.range (tyCount t)).map v)) v :=
  ⟨fun _ => rowOf_elem, rowOf_flags⟩

/-- Elements that agree modulo the width, with the same flags. -/
theorem HasElems.congr {v' : Nat → Nat × Nat} (h : HasElems t x v)
    (hc : ∀ j, (v j).1 % 2 ^ tyWidth t = (v' j).1 % 2 ^ tyWidth t) (hf : ∀ j, (v j).2 = (v' j).2) : HasElems t x v' := by
  refine ⟨fun j hj => (h.code j hj).trans (hc j), ?_⟩
  rw [h.flags]
  simp only [hf]

/-- R141: a row whose elements are known and whose flags are none. -/
theorem hasElems_bitRow {f : BitVec 512 → BitVec 512 → BitVec 512 → BitVec 512} {a b d : BitVec 512} {c : Nat → Nat}
    (h : ∀ j, j < tyCount t → elem (tyWidth t) (f a b d) j = c j) : HasElems t (bitRow f a b d) fun j => (c j, 0) := by
  refine ⟨fun j hj => ?_, ?_⟩
  · dsimp only [bitRow]
    rw [← h j hj, elem_mod]
  · simp only [bitRow, Nat.or_zero]
    exact (List.foldl_fixed _).symm

/-- R141: the magnitude of a difference, as the statement writes it. -/
theorem natAbs_sub_eq_ite (a b : Int) : ((a - b).natAbs : Int) = if a ≤ b then b - a else a - b := by
  split <;> omega

/-- R141: an arithmetic shift as the statement writes it. -/
theorem sraCode_eq (w c n : Nat) : sraCode w c n = codeOf w (signed w c / 2 ^ n) := by
  unfold sraCode signed
  by_cases h : c < 2 ^ (w - 1)
  · rw [if_pos h, if_neg (by omega)]
  · rw [if_neg h, if_pos (by omega)]

/-! The form of two source rows. -/

/-- R138, R139: a row instruction of two sources with bound names and ready rows writes the row of its elements. -/
theorem settle_row2 {d a b r k : Fin 16} {pa pb pd : Nat} (ha : nameOf s a = some pa) (hb : nameOf s b = some pb)
    (hd : nameOf s d = some pd) (h : RowsReady s [(pa, k.val), (pb, k.val)] [(pd, r.val)]) (z : Bool)
    {f : BitVec 512 → BitVec 512 → BitVec 512 → BitVec 512 × Nat}
    (hv : HasElems t (f (rdRow s pa k.val).bits (rdRow s pb k.val).bits (rdRow s pd r.val).bits) v) :
    ∃ row : BitVec 512,
      settle s (row2 s d a b r k z f) =
        .next (settled s (.done (raiseFp ((List.range (tyCount t)).foldl (fun f j => f ||| (v j).2) 0)
          (wrRow pd r.val { bits := row, poison := (rdRow s pa k.val).poison || (rdRow s pb k.val).poison ||
            (z && (rdRow s pd r.val).poison) } (touchReg pb (touchReg pa s)))) .next)) ∧
      ∀ j, j < tyCount t → elem (tyWidth t) row j = (v j).1 % 2 ^ tyWidth t := by
  refine ⟨_, ?_, hv.code⟩
  rw [row2_of ha hb hd h, hv.flags]
  cases z <;> simp [settle, rowsPoison, Bool.or_assoc]

/-- R136: a row instruction of two sources with a name that is not bound. -/
theorem row2_unbound {d a b r k : Fin 16} (h : nameOf s a = none ∨ nameOf s b = none ∨ nameOf s d = none) (z : Bool)
    (f : BitVec 512 → BitVec 512 → BitVec 512 → BitVec 512 × Nat) :
    row2 s d a b r k z f = .trap { cause := .regUnbound } := by
  unfold row2 withName
  cases ha : nameOf s a with
  | none => rfl
  | some pa =>
    cases hb : nameOf s b with
    | none => rfl
    | some pb =>
      cases hd : nameOf s d with
      | none => rfl
      | some pd => simp [ha, hb, hd] at h

/-- R136: any row instruction of two sources with a name that is not bound. -/
theorem exec_rowForms_unbound {d a b r k : Fin 16} (h : nameOf s a = none ∨ nameOf s b = none ∨ nameOf s d = none) :
    ∀ i ∈ rowForms d a b r k t, exec i s = .next (settled s (.trap { cause := .regUnbound })) := by
  intro i hi
  obtain ⟨z, f, he⟩ := exec_rowForms d a b r k t s i hi
  rw [he, row2_unbound h]
  rfl

/-- Settles O21: each instruction computes its row element by element, as Table 6.4 has it. -/
theorem rowResults : Obligations.RowResults := by
  intro d a b r k t s
  refine ⟨?bound, fun h => exec_rowForms_unbound (.inl h), fun _ h => exec_rowForms_unbound (.inr (.inl h)),
    fun _ _ h => exec_rowForms_unbound (.inr (.inr h))⟩
  intro pa pb pd ha hb hd hrows ra rb rd x y z ix iy iz cx cy cz sh rounded done
  have writes {i : Instr} {readsD : Bool} {v : Nat → Nat × Nat}
      {f : BitVec 512 → BitVec 512 → BitVec 512 → BitVec 512 × Nat}
      (he : exec i s = settle s (row2 s d a b r k readsD f)) (hv : HasElems t (f ra.bits rb.bits rd.bits) v) :
      done i readsD t v := by
    have h := settle_row2 ha hb hd hrows readsD hv
    rwa [← he] at h
  clear_value done -- from here on used through `writes` alone
  have computed (v : Nat → Nat × Nat) := hasElems_rowOf t v
  have hand (j : Nat) (_ : j < tyCount t) := elem_and (tyWidth t) ra.bits rb.bits j
  have hor (j : Nat) (_ : j < tyCount t) := elem_or (tyWidth t) ra.bits rb.bits j
  have hxor (j : Nat) (_ : j < tyCount t) := elem_xor (tyWidth t) ra.bits rb.bits j
  have hsel (j : Nat) (hj : j < tyCount t) : elem (tyWidth t) ((rd.bits &&& ra.bits) ||| (~~~rd.bits &&& rb.bits)) j =
      ((cz j &&& cx j) ||| ((2 ^ tyWidth t - 1 - cz j) &&& cy j)) := by
    rw [elem_or, elem_and, elem_and, elem_not t _ hj]
  refine ⟨?vadd, ?vsub, ?vmul, ?vfma, ?vmin, ?vmax, ?vabsd, ?vand, ?vor, ?vxor, ?vsel, ?vshl, ?vshr, ?vshra, ?vceq, ?vclt,
    ?vshuf⟩
  case vadd | vsub | vmul | vfma | vmin | vmax | vshr | vceq | vclt | vshuf => exact writes rfl (computed _)
  case vabsd =>
    refine writes rfl ((computed _).congr (fun j => ?_) fun j => ?_)
    all_goals
      simp only [natAbs_sub_eq_ite]
      rfl
  case vand => exact writes rfl (hasElems_bitRow hand)
  case vor => exact writes rfl (hasElems_bitRow hor)
  case vxor => exact writes rfl (hasElems_bitRow hxor)
  case vsel => exact writes rfl (hasElems_bitRow hsel)
  case vshl => exact writes rfl ((computed _).congr (fun j => Nat.mod_mod _ _) fun _ => rfl)
  case vshra =>
    refine writes rfl ((computed _).congr (fun j => ?_) fun _ => rfl)
    simp only [sraCode_eq]
    rfl

end Sys2Proof.Machine
end

section
/-! SUPPORT and the settling theorem of the row instructions of one source and of those that take or give a scalar (O22):
least matching indices, conversions, reductions, votes, and an element taken or put. -/

namespace Sys2Proof.Machine

variable {s : State} {t : Ty}

/-! Elements and their numbers. -/

theorem tyCount_pos (t : Ty) : 0 < tyCount t := by cases t <;> decide

/-- R141, R145: the types other than q4 and bit have elements enough bits wide to number the elements. -/
theorem tyCount_le_of_numeric (h : t.numeric = true) : tyCount t ≤ 2 ^ tyWidth t ∧ tyCount t ≤ 64 := by
  cases t <;> revert h <;> decide

/-- R143: the element of a row that a shorter list fills in part. -/
theorem elem_rowOf_prefix {w m j : Nat} (hw : w * m ≤ 512) (v : Nat → Nat × Nat) :
    elem w (rowOf w ((List.range m).map v)).1 j = if j < m then (v j).1 % 2 ^ w else 0 := by
  rw [rowOf, elem_pack (by simpa using hw)]
  by_cases h : j < m <;> simp [List.getD, h]

/-! VMATCH (R146). -/

/-- R146: the least index below `n` at which `e` is as at `j`. -/
def firstMatch (n : Nat) (e : Nat → Nat) (j : Nat) : Nat := ((List.range n).map e).findIdx fun c => decide (c = e j)

theorem firstMatch_spec {n j : Nat} (e : Nat → Nat) (hj : j < n) :
    e (firstMatch n e j) = e j ∧ firstMatch n e j ≤ j ∧ ∀ i, i < firstMatch n e j → e i ≠ e j := by
  have hat {i : Nat} (hi : i < ((List.range n).map e).length) : ((List.range n).map e)[i] = e i := by simp
  have hlen : j < ((List.range n).map e).length := by simpa using hj
  have hlt : firstMatch n e j < ((List.range n).map e).length :=
    List.findIdx_lt_length_of_exists ⟨e j, by simpa using ⟨j, hj, rfl⟩, by simp⟩
  have hfound : decide (((List.range n).map e)[firstMatch n e j] = e j) = true :=
    List.findIdx_getElem (p := fun c => decide (c = e j)) (w := hlt)
  refine ⟨?_, ?_, fun i hi => ?_⟩
  · rw [hat] at hfound
    exact of_decide_eq_true hfound
  · by_contra hgt
    have hnot := List.not_of_lt_findIdx (Nat.lt_of_not_le hgt)
    rw [hat] at hnot
    simp at hnot
  · have hnot := List.not_of_lt_findIdx hi
    rw [hat] at hnot
    simpa using hnot

theorem matchRow_eq (t : Ty) (a : BitVec 512) : matchRow t a =
    rowOf (tyWidth t) ((List.range (tyCount t)).map fun j => (firstMatch (tyCount t) (elem (tyWidth t) a) j, 0)) := by
  simp only [matchRow, List.map_map]
  rfl

theorem flags_matchRow (t : Ty) (a : BitVec 512) : (matchRow t a).2 = 0 := by
  rw [matchRow_eq, rowOf_flags]
  simp

theorem elem_matchRow (h : t.numeric = true) {j : Nat} (hj : j < tyCount t) (a : BitVec 512) :
    elem (tyWidth t) (matchRow t a).1 j = firstMatch (tyCount t) (elem (tyWidth t) a) j := by
  rw [matchRow_eq, rowOf_elem hj]
  exact Nat.mod_eq_of_lt (((firstMatch_spec _ hj).2.1.trans_lt hj).trans_le (tyCount_le_of_numeric h).1)

/-! Reductions (R144). -/

/-- R144: the least of several integers. -/
theorem reduceInt_min {l : List Int} (h : l ≠ []) : reduceInt min l ∈ l ∧ ∀ y ∈ l, reduceInt min l ≤ y := by
  cases l with
  | nil => exact absurd rfl h
  | cons x l => exact List.min?_eq_some_iff.mp rfl

/-- R144: the greatest of several integers. -/
theorem reduceInt_max {l : List Int} (h : l ≠ []) : reduceInt max l ∈ l ∧ ∀ y ∈ l, y ≤ reduceInt max l := by
  cases l with
  | nil => exact absurd rfl h
  | cons x l => exact List.max?_eq_some_iff.mp rfl

/-- An element of a listed function that stands in a relation to every element is the value at an index. -/
theorem exists_index_of_best {R : Int → Int → Prop} {n : Nat} {v : Nat → Int} {m : Int}
    (h : m ∈ (List.range n).map v ∧ ∀ y ∈ (List.range n).map v, R m y) :
    ∃ j, j < n ∧ m = v j ∧ ∀ i, i < n → R (v j) (v i) := by
  obtain ⟨hmem, hall⟩ := h
  obtain ⟨j, hj, rfl⟩ := List.mem_map.mp hmem
  exact ⟨j, List.mem_range.mp hj, rfl, fun i hi => hall _ (List.mem_map_of_mem (List.mem_range.mpr hi))⟩

theorem reduceInt_add (l : List Int) : reduceInt (fun x y => x + y) l = l.foldl (fun x y => x + y) 0 := by
  cases l with
  | nil => rfl
  | cons x l => simp [reduceInt]

/-- R144: an integer type is reduced as integers. -/
theorem reduceRow_int (h : t.isInt = true) (a : BitVec 512) :
    let ints := (List.range (tyCount t)).map fun j => intOf t (elem (tyWidth t) a j)
    reduceRow .add t a = (codeOf 64 (reduceInt (fun x y => x + y) ints), 0) ∧
    reduceRow .min t a = (codeOf 64 (reduceInt min ints), 0) ∧ reduceRow .max t a = (codeOf 64 (reduceInt max ints), 0) := by
  have hfloat : t.isFloat = false := by cases t <;> revert h <;> decide
  have hq4 : t ≠ .q4 := by rintro rfl; exact Bool.false_ne_true h
  have hbit : t ≠ .bit := by rintro rfl; exact Bool.false_ne_true h
  simp [reduceRow, hfloat, hq4, hbit, Function.comp_def]

/-! Votes (R145). -/

/-- R145: how many elements are not zero by value. -/
def onesOf (t : Ty) (a : BitVec 512) : Nat := ((List.range (tyCount t)).filter fun j => !(elemNum t a j).isZero).length

theorem nonZero_filter (t : Ty) (a : BitVec 512) : ((nonZero t a).filter id).length = onesOf t a := by
  simp [nonZero, onesOf, List.filter_map]

theorem length_nonZero (t : Ty) (a : BitVec 512) : (nonZero t a).length = tyCount t := by simp [nonZero]

theorem voteRow_any (t : Ty) (a : BitVec 512) : voteRow .any t a = (if onesOf t a = 0 then 0 else 1, 0) := by
  have h : (nonZero t a).any id = !decide (onesOf t a = 0) := by
    rw [← nonZero_filter, Bool.eq_iff_iff]
    simp
  simp [voteRow, h, b2n]

theorem voteRow_all (t : Ty) (a : BitVec 512) : voteRow .all t a = (if onesOf t a = tyCount t then 1 else 0, 0) := by
  have h : (nonZero t a).all id = decide (onesOf t a = tyCount t) := by
    rw [← nonZero_filter, ← length_nonZero t a, Bool.eq_iff_iff]
    simp
  simp [voteRow, h, b2n]

theorem voteRow_count (t : Ty) (a : BitVec 512) : voteRow .count t a = (onesOf t a, 0) := by
  rw [← nonZero_filter]
  rfl

/-- R145: a ballot of at most 64 elements has the bit of each. -/
theorem voteRow_ballot (h : tyCount t ≤ 64) (a : BitVec 512) :
    ∃ m, voteRow .ballot t a = (m, 0) ∧ m < 2 ^ tyCount t ∧ ∀ j, j < tyCount t → m.testBit j = !(elemNum t a j).isZero := by
  have hlt : packElems 1 ((nonZero t a).map b2n) < 2 ^ tyCount t := by
    simpa [length_nonZero] using packElems_lt 1 ((nonZero t a).map b2n)
  refine ⟨packElems 1 ((nonZero t a).map b2n), ?_, hlt, fun j hj => ?_⟩
  · have hmod := Nat.mod_eq_of_lt (hlt.trans_le (Nat.pow_le_pow_right (by decide) h))
    simp only [voteRow, hmod]
  · have hbit := packElems_div 1 ((nonZero t a).map b2n) j
    have hget : ((nonZero t a).map b2n).getD j 0 = b2n (!(elemNum t a j).isZero) := by simp [nonZero, List.getD, hj]
    rw [hget, Nat.one_mul, Nat.pow_one] at hbit
    rw [Nat.testBit_eq_decide_div_mod_eq, hbit]
    cases (elemNum t a j).isZero <;> rfl

/-! An element put (R148). -/

/-- A number whose digit of base `q` at weight `p` is replaced. -/
theorem replaceDigit_eq (p q d c : Nat) : d - d / p % q * p + c * p = p * (q * (d / p / q) + c) + d % p := by
  have hd := Nat.div_add_mod d p
  have hq := Nat.div_add_mod (d / p) q
  have hold : p * (d / p) = p * (q * (d / p / q)) + d / p % q * p := by
    conv_lhs => rw [← hq]
    ring
  have hnew : p * (q * (d / p / q) + c) = p * (q * (d / p / q)) + c * p := by ring
  omega

/-- A replaced digit leaves the number below a bound that is a multiple of the next weight. -/
theorem replaceDigit_lt {p q d c n : Nat} (hp : 0 < p) (hc : c < q) (hd : d < p * q * n) :
    p * (q * (d / p / q) + c) + d % p < p * q * n := by
  have hhigh : d / p / q + 1 ≤ n := by
    rw [Nat.div_div_eq_div_mul]
    exact Nat.div_lt_of_lt_mul hd
  have hlow := Nat.mod_lt d hp
  calc p * (q * (d / p / q) + c) + d % p < p * (q * (d / p / q) + c + 1) := by rw [Nat.mul_succ]; omega
    _ ≤ p * (q * (d / p / q + 1)) := Nat.mul_le_mul_left _ (by rw [Nat.mul_succ]; omega)
    _ ≤ p * (q * n) := Nat.mul_le_mul_left _ (Nat.mul_le_mul_left _ hhigh)
    _ = p * q * n := (Nat.mul_assoc ..).symm

/-- Each digit of a number after the one at `i` is replaced. -/
theorem digit_replaceDigit (w d c i j : Nat) (hc : c < 2 ^ w) :
    (2 ^ (w * i) * (2 ^ w * (d / 2 ^ (w * i) / 2 ^ w) + c) + d % 2 ^ (w * i)) / 2 ^ (w * j) % 2 ^ w =
      if j = i then c else d / 2 ^ (w * j) % 2 ^ w := by
  have hlow := Nat.mod_lt d (Nat.two_pow_pos (w * i))
  obtain h | rfl | h := Nat.lt_trichotomy j i
  · obtain ⟨n, rfl⟩ := Nat.exists_eq_add_of_lt h
    have hweight : 2 ^ (w * (j + n + 1)) = 2 ^ (w * j) * (2 ^ w * 2 ^ (w * n)) := by
      rw [← pow_add, ← pow_add]
      ring_nf
    have hdigit (x y : Nat) : (2 ^ (w * (j + n + 1)) * x + y) / 2 ^ (w * j) % 2 ^ w = y / 2 ^ (w * j) % 2 ^ w := by
      rw [hweight, Nat.mul_assoc, Nat.mul_add_div (Nat.two_pow_pos _), Nat.mul_assoc, Nat.mul_add_mod]
    rw [hdigit, if_neg (by omega)]
    conv_rhs => rw [← Nat.div_add_mod d (2 ^ (w * (j + n + 1))), hdigit]
  · rw [if_pos rfl, Nat.mul_add_div (Nat.two_pow_pos _), Nat.div_eq_of_lt hlow, Nat.add_zero, Nat.mul_add_mod,
      Nat.mod_eq_of_lt hc]
  · obtain ⟨n, rfl⟩ := Nat.exists_eq_add_of_lt h
    have hweight : 2 ^ (w * (i + n + 1)) = 2 ^ (w * i) * 2 ^ w * 2 ^ (w * n) := by
      rw [← pow_add, ← pow_add]
      ring_nf
    rw [if_neg (by omega), hweight, ← Nat.div_div_eq_div_mul, ← Nat.div_div_eq_div_mul, ← Nat.div_div_eq_div_mul,
      ← Nat.div_div_eq_div_mul, Nat.mul_add_div (Nat.two_pow_pos _), Nat.div_eq_of_lt hlow, Nat.add_zero,
      Nat.mul_add_div (Nat.two_pow_pos _), Nat.div_eq_of_lt hc, Nat.add_zero]

/-- R148: a row with the element at `i` replaced. -/
theorem elem_insertElem {i : Nat} (hi : i < tyCount t) (c : Nat) (d : BitVec 512) (j : Nat) :
    elem (tyWidth t) (insertElem (tyWidth t) i c d) j = (if j = i then c else elem (tyWidth t) d j) % 2 ^ tyWidth t := by
  have hc : c % 2 ^ tyWidth t < 2 ^ tyWidth t := Nat.mod_lt _ (Nat.two_pow_pos _)
  have hsize : tyWidth t * i + tyWidth t + tyWidth t * (tyCount t - (i + 1)) = 512 := by
    rw [← width_count t, ← Nat.mul_succ, ← Nat.mul_add, Nat.add_sub_cancel' hi]
  have hbound : d.toNat < 2 ^ (tyWidth t * i) * 2 ^ tyWidth t * 2 ^ (tyWidth t * (tyCount t - (i + 1))) := by
    rw [← pow_add, ← pow_add, hsize]
    exact d.isLt
  have hfits := replaceDigit_lt (Nat.two_pow_pos _) hc hbound
  rw [← pow_add, ← pow_add, hsize] at hfits
  unfold insertElem elem
  rw [replaceDigit_eq, BitVec.toNat_ofNat, Nat.mod_eq_of_lt hfits, digit_replaceDigit _ _ _ _ _ hc]
  split <;> simp

/-! The forms with one row. -/

variable {d a b r k : Fin 16} {p q : Nat}

/-- R138, R139: a row instruction of one source with bound names and ready rows. -/
theorem settle_row1 (ha : nameOf s a = some p) (hd : nameOf s d = some q) (h : RowsReady s [(p, k.val)] [(q, r.val)])
    {f : BitVec 512 → BitVec 512 × Nat} {x : BitVec 512 × Nat} (hx : f (rdRow s p k.val).bits = x) :
    settle s (row1 s d a r k f) = .next (settled s (.done (raiseFp x.2
      (wrRow q r.val { bits := x.1, poison := (rdRow s p k.val).poison } (touchReg p s))) .next)) := by
  rw [row1_of ha hd h, hx]
  rfl

/-- R138: an instruction that takes a scalar from a row, with its name bound and its scalars and row ready. -/
theorem settle_rowScalar {idx : List (Fin 16)} (ha : nameOf s a = some p) (h : RowsReady s [(p, k.val)] [])
    (hr : Ready s (d :: idx)) {f : BitVec 512 → Nat × Nat} {x : Nat × Nat} (hx : f (rdRow s p k.val).bits = x) :
    settle s (rowScalar s d a k idx f) = .next (settled s (.done (raiseFp x.2 (wrS d
      { val := BitVec.ofNat 64 x.1, poison := (rdRow s p k.val).poison || anyPoison s idx } (touchReg p s))) .next)) := by
  rw [rowScalar_of ha h hr, hx]
  rfl

/-- R148: VBCST with its name bound, its scalar and its row ready. -/
theorem settle_vbcst (hd : nameOf s d = some q) (hr : Ready s [a]) (h : RowsReady s [] [(q, r.val)]) :
    settle s (doVbcst d a r t s) = .next (settled s (.done (raiseFp (scalarElem t (rdS s a).val).2 (wrRow q r.val
      { bits := (rowOf (tyWidth t) ((List.range (tyCount t)).map fun _ => scalarElem t (rdS s a).val)).1,
        poison := (rdS s a).poison } s)) .next)) := by
  unfold doVbcst
  rw [withName_of hd, ready_of hr, readyRows_of h]
  rfl

/-- R148: VINS with its name bound, its scalars and its row ready. -/
theorem settle_vins (hd : nameOf s d = some q) (hr : Ready s [a, b]) (h : RowsReady s [(q, r.val)] [(q, r.val)]) :
    settle s (doVins d a b r t s) = .next (settled s (.done (raiseFp (scalarElem t (rdS s a).val).2 (wrRow q r.val
      { bits := insertElem (tyWidth t) ((rdS s b).val.toNat % tyCount t) (scalarElem t (rdS s a).val).1 (rdRow s q r.val).bits,
        poison := (rdRow s q r.val).poison || (rdS s a).poison || (rdS s b).poison } s)) .next)) := by
  unfold doVins
  rw [withName_of hd, ready_of hr, readyRows_of h, anyPoison_pair, Bool.or_assoc]
  rfl

/-! VCVT (R143). -/

theorem convertRow_same (t : Ty) (x : BitVec 512) : convertRow t t x = (x, 0) := if_pos rfl

theorem convertRow_q4 (h : t ≠ .q4) (x : BitVec 512) : convertRow t .q4 x =
    rowOf 8 ((List.range (min (tyCount t) (tyCount .q4) / 2)).map fun j =>
      encodeQ4 (elemNum t x (2 * j)) (elemNum t x (2 * j + 1))) := by
  simp [convertRow, h]

theorem convertRow_other {y : Ty} (h : t ≠ y) (hy : y ≠ .q4) (x : BitVec 512) : convertRow t y x =
    rowOf (tyWidth y) ((List.range (min (tyCount t) (tyCount y))).map fun j => toCode y .ne (elemNum t x j)) := by
  simp [convertRow, h, hy]

/-- Settles O22: each instruction is of one of the forms with one row, and its value is that of the lemma of its rule. -/
theorem rowMovesComplete : Obligations.RowMovesComplete := by
  intro d a b r k t y o p q s src e rowDone each scalarDone ones flags func
  refine ⟨fun ha hd h => ?moves, fun ha h hr => ?reduced, fun ha h hr => ?extracted, fun hd hr h _ => ?broadcast,
    fun hd hr h _ => ?inserted⟩
  case moves =>
    have writes {i : Instr} {f : BitVec 512 → BitVec 512 × Nat} {x : BitVec 512 × Nat} {fl : Nat} {P : BitVec 512 → Prop}
        (he : exec i s = settle s (row1 s d a r k f)) (hx : f src.bits = x) (hfl : x.2 = fl) (hP : P x.1) :
        rowDone i fl src.poison (touchReg p s) P :=
      ⟨x.1, hfl ▸ he.trans (settle_row1 ha hd h hx), hP⟩
    clear_value rowDone -- from here on used through `writes` alone
    have mapped {i : Instr} {f : Num → Num × Nat} (he : exec i s = settle s (row1 s d a r k (mapRow t f))) : func i f :=
      have hv := hasElems_rowOf t fun j =>
        (((tyFmt t).round .ne (f (elemNum t src.bits j)).1).1,
          ((tyFmt t).round .ne (f (elemNum t src.bits j)).1).2 ||| (f (elemNum t src.bits j)).2)
      writes he rfl hv.flags hv.code
    clear_value func -- from here on used through `mapped` alone
    refine ⟨settle_row1 ha hd h (x := (src.bits, 0)) rfl, fun hw => ?_, fun _ => mapped rfl, fun _ => mapped rfl, fun _ => mapped rfl, ?_, ?_, ?_⟩
    · refine writes rfl rfl (flags_matchRow t src.bits) fun j hj => ?_
      rw [elem_matchRow hw hj]
      exact firstMatch_spec e hj
    · rintro rfl
      exact settle_row1 ha hd h (x := (src.bits, 0)) (convertRow_same ..)
    · intro hty hy
      refine writes rfl (convertRow_other hty hy _) rowOf_flags fun j hj => ?_
      rw [elem_rowOf_prefix ((Nat.mul_le_mul_left _ (min_le_right ..)).trans (width_count y).le)]
      exact if_congr (by omega) rfl rfl
    · intro hty
      refine writes rfl (convertRow_q4 hty _) rowOf_flags fun j hj => ?_
      have hcount : tyCount .q4 = 128 := rfl
      rw [elem_rowOf_prefix (by omega)]
      exact if_congr (by omega) rfl rfl
  case reduced =>
    have gives {i : Instr} {f : BitVec 512 → Nat × Nat} {x : Nat × Nat}
        (he : exec i s = settle s (rowScalar s d a k [] f)) (hx : f src.bits = x) : scalarDone i x src.poison := by
      have hs := he.trans (settle_rowScalar ha h hr hx)
      rwa [anyPoison_nil, Bool.or_false] at hs
    clear_value scalarDone -- from here on used through `gives` alone
    refine ⟨gives rfl rfl, fun ht => ?_, gives rfl (voteRow_any ..), gives rfl (voteRow_all ..),
      gives rfl (voteRow_count ..), fun hw => ?_⟩
    · obtain ⟨hadd, hmin, hmax⟩ := reduceRow_int ht src.bits
      have hne : (List.range (tyCount t)).map (fun j => intOf t (e j)) ≠ [] := by simpa using (tyCount_pos t).ne'
      obtain ⟨i, hi, hleast, hle⟩ := exists_index_of_best (R := (· ≤ ·)) (reduceInt_min hne)
      obtain ⟨j, hj, hmost, hge⟩ := exists_index_of_best (R := (· ≥ ·)) (reduceInt_max hne)
      rw [reduceInt_add, List.foldl_map] at hadd
      rw [hleast] at hmin
      rw [hmost] at hmax
      exact ⟨gives rfl hadd, ⟨i, hi, hle, gives rfl hmin⟩, ⟨j, hj, hge, gives rfl hmax⟩⟩
    · obtain ⟨m, hm, hlt, hbits⟩ := voteRow_ballot (tyCount_le_of_numeric hw).2 src.bits
      exact ⟨m, gives rfl hm, hlt, hbits⟩
  case extracted =>
    have hs := settle_rowScalar ha h hr (f := fun x => (extractElem t x ((rdS s b).val.toNat % tyCount t), 0)) rfl
    rwa [anyPoison_cons, anyPoison_nil, Bool.or_false] at hs
  case broadcast => exact ⟨_, settle_vbcst hd hr h, fun j hj => rowOf_elem hj⟩
  case inserted => exact ⟨_, settle_vins hd hr h, fun j _ => elem_insertElem (Nat.mod_lt _ (tyCount_pos t)) _ _ j⟩

end Sys2Proof.Machine
end

section
/-! SUPPORT. What the records for an observer (R403 to R406), the prints of a pair (R388) and the handling of errors in the
arrays (R381 to R385) leave: every context, register, slot and queue of every tile, and the sequence numbers of its cores
(`Observed`). -/

namespace Sys2Proof.Machine

variable {s u v : State} {t c : Nat}

/-- A tile as before, but for its event counters, TLBs, vault, monitor, reliability counters and checkpoints. -/
structure TileObserved (x y : Tile) : Prop where
  rest : ({ y with cores := [], tlb := [], agentTlb := [], vault := {}, mon := [], relc := [], pairs := [] } : Tile) =
    { x with cores := [], tlb := [], agentTlb := [], vault := {}, mon := [], relc := [], pairs := [] }
  seqno : ∀ k, (Sparse.get ({} : CoreSt) y.cores k).seqno = (Sparse.get ({} : CoreSt) x.cores k).seqno

theorem TileObserved.refl (x : Tile) : TileObserved x x := ⟨rfl, fun _ => rfl⟩

theorem TileObserved.trans {x y z : Tile} (h : TileObserved x y) (h' : TileObserved y z) : TileObserved x z :=
  ⟨h'.rest.trans h.rest, fun k => (h'.seqno k).trans (h.seqno k)⟩

/-- A state as before, but for what observing it changes: parts of its tiles, the memory that records go to, the voltage that
an error raises, and the samples that the group has to write. -/
structure Observed (s u : State) : Prop where
  rest : ({ u with tiles := [], grp := {}, mem := [], poison := [], hist := [], volts := [] } : State) =
    { s with tiles := [], grp := {}, mem := [], poison := [], hist := [], volts := [] }
  half : u.grp.half = s.grp.half
  tile : ∀ t, TileObserved (tileOf s t) (tileOf u t)

theorem Observed.refl (s : State) : Observed s s := ⟨rfl, rfl, fun _ => .refl _⟩

theorem Observed.trans (h : Observed s u) (h' : Observed u v) : Observed s v :=
  ⟨h'.rest.trans h.rest, h'.half.trans h.half, fun t => (h.tile t).trans (h'.tile t)⟩

theorem Observed.ite {p : Prop} [Decidable p] (h : Observed s u) (h' : Observed s v) :
    Observed s (if p then u else v) := by
  split
  · exact h
  · exact h'

/-- A part of a tile that observing leaves. -/
theorem Observed.part {α : Type} (h : Observed s u) (part : Tile → α)
    (hp : ∀ x : Tile, part { x with cores := [], tlb := [], agentTlb := [], vault := {}, mon := [], relc := [], pairs := [] } = part x) (t : Nat) :
    part (tileOf u t) = part (tileOf s t) := by
  rw [← hp, (h.tile t).rest, hp]

theorem Observed.ctxOf_eq (h : Observed s u) (t c : Nat) : ctxOf u t c = ctxOf s t c :=
  h.part (fun x => ctxIn x c) (fun _ => rfl) t

theorem Observed.focusTile (h : Observed s u) : u.focusTile = s.focusTile := (congrArg State.focusTile h.rest :)

theorem Observed.focusCtx (h : Observed s u) : u.focusCtx = s.focusCtx := (congrArg State.focusCtx h.rest :)

theorem Observed.cur_eq (h : Observed s u) : cur u = cur s := by
  unfold cur
  rw [h.focusTile, h.focusCtx, h.ctxOf_eq]

theorem Observed.curTile_part {α : Type} (h : Observed s u) (part : Tile → α)
    (hp : ∀ x : Tile, part { x with cores := [], tlb := [], agentTlb := [], vault := {}, mon := [], relc := [], pairs := [] } = part x) :
    part (curTile u) = part (curTile s) := by
  unfold curTile
  rw [h.focusTile, h.part part hp]

theorem Observed.slots (h : Observed s u) (t : Nat) : (tileOf u t).slots = (tileOf s t).slots :=
  h.part Tile.slots (fun _ => rfl) t

theorem Observed.matq (h : Observed s u) (t : Nat) : (tileOf u t).matq = (tileOf s t).matq :=
  h.part Tile.matq (fun _ => rfl) t

theorem Observed.xregs (h : Observed s u) (t : Nat) : (tileOf u t).xregs = (tileOf s t).xregs :=
  h.part Tile.xregs (fun _ => rfl) t

theorem observed_foldl {α : Type} {f : State → α → State} (hf : ∀ u x, Observed u (f u x)) (l : List α) (s : State) :
    Observed s (l.foldl f s) :=
  List.foldlRecOn (motive := Observed s) l f (.refl s) fun u h x _ => h.trans (hf u x)

theorem observed_modTile (t : Nat) {f : Tile → Tile} (hf : ∀ x, TileObserved x (f x)) : Observed s (modTile t f s) := by
  refine ⟨rfl, rfl, fun a => ?_⟩
  rw [tileOf_modTile]
  split
  next h => subst h; exact hf _
  next => exact .refl _

theorem observed_modCore (t k : Nat) {f : CoreSt → CoreSt} (hf : ∀ x, (f x).seqno = x.seqno) :
    Observed s (modCore t k f s) :=
  observed_modTile t fun _ => ⟨rfl, fun _ => get_modify_part _ CoreSt.seqno hf ..⟩

theorem observed_modPair (t c : Nat) (f : PairCk → PairCk) : Observed s (modPair t c f s) := by
  unfold modPair
  split
  · exact .refl s
  · exact observed_modTile t fun _ => ⟨rfl, fun _ => rfl⟩

theorem observed_notePrint (t c n v w : Nat) : Observed s (notePrint t c n v w s) := observed_modPair t c _

/-! Errors in the arrays, and the stores of the machine itself. -/

theorem observed_clearErr (pa : Nat) : Observed s (clearErr pa s) := observed_modTile _ fun _ => ⟨rfl, fun _ => rfl⟩

theorem observed_relAdd (t reg lo n : Nat) : Observed s (relAdd t reg lo n s) :=
  observed_modTile _ fun _ => ⟨rfl, fun _ => rfl⟩

theorem observed_toNominal (t : Nat) : Observed s (toNominal t s) := ⟨rfl, rfl, fun _ => .refl _⟩

theorem observed_setSegPoison (pa : Nat) (b : Bool) : Observed s (setSegPoison pa b s) := ⟨rfl, rfl, fun _ => .refl _⟩

theorem observed_flagRow (t row : Nat) : Observed s (flagRow t row s) := by
  refine observed_modTile _ fun x => ?_
  dsimp only
  split
  · exact ⟨rfl, fun _ => rfl⟩
  · exact .refl x

theorem observed_noteCorrected (t row : Nat) : Observed s (noteCorrected t row s) := by
  unfold noteCorrected
  extract_lets l again l' s1
  have h1 : Observed s s1 := observed_modTile _ fun _ => ⟨rfl, fun _ => rfl⟩
  exact .ite (h1.trans (observed_flagRow ..)) h1

theorem observed_checkSegment (pa : Nat) : Observed s (checkSegment pa s) := by
  unfold checkSegment
  extract_lets t row
  have h := observed_clearErr (s := s) pa
  split
  case h_1 => exact .refl s
  case h_2 => exact (h.trans (observed_relAdd ..)).trans (observed_noteCorrected ..)
  case h_3 => exact (h.trans (observed_toNominal _)).trans (observed_relAdd ..)
  case h_4 =>
    have hp := (h.trans (observed_toNominal t)).trans (observed_setSegPoison pa true)
    exact ((hp.trans (observed_relAdd ..)).trans (observed_relAdd ..)).trans (observed_flagRow ..)

theorem observed_checkStore (pa n : Nat) : Observed s (checkStore pa n s) := by
  unfold checkStore
  split
  · exact .refl s
  · exact .ite (observed_clearErr pa) (observed_checkSegment pa)

theorem observed_storeMem (pa n v : Nat) (p : Bool) : Observed s (storeMem pa n v p s) := by
  have hw : Observed s (writeMem pa n v s) := ⟨rfl, rfl, fun _ => .refl _⟩
  unfold storeMem
  exact .ite (hw.trans (observed_setSegPoison ..)) (.ite (hw.trans (observed_setSegPoison ..)) hw)

theorem observed_vaultStore (pa n v : Nat) : Observed s (vaultStore pa n v s) :=
  ((observed_checkStore pa n).trans (observed_storeMem pa n v false)).trans ⟨rfl, rfl, fun _ => .refl _⟩

/-! Records for an observer. -/

theorem observed_monitorPut (t w0 w1 w2 w3 : Nat) : Observed s (monitorPut t w0 w1 w2 w3 s) := by
  have hmon {u : State} {f : Sparse Word → Sparse Word} : Observed u (modTile t (fun x => { x with mon := f x.mon }) u) :=
    observed_modTile t fun _ => ⟨rfl, fun _ => rfl⟩
  unfold monitorPut
  exact .ite hmon ((observed_vaultStore ..).trans hmon)

theorem observed_monitorAt (t c kind code : Nat) (g : Site) (a : Nat) (q : W32) :
    Observed s (monitorAt t c kind code g a q s) := .ite (observed_monitorPut ..) (.refl s)

theorem observed_pmcAdd (t k i c n : Nat) (g : Site) (q : W32) : Observed s (pmcAdd t k i c n g q s) := by
  unfold pmcAdd
  extract_lets v s1 s2 s3
  have h1 : Observed s s1 := observed_modCore t k fun _ => rfl
  have h2 : Observed s s2 := h1.trans (observed_modCore t k fun _ => rfl)
  have h3 : Observed s s3 := h2.trans (observed_modCore t k fun _ => rfl)
  exact .ite h1 (.ite (.ite (h3.trans (observed_monitorAt ..)) (h3.trans ⟨rfl, rfl, fun _ => .refl _⟩)) h2)

theorem observed_countAt (t c ev n lvl : Nat) (g : Site) (q : W32) : Observed s (countAt t c ev n lvl g q s) :=
  observed_foldl (fun _ _ => .ite (observed_pmcAdd ..) (.refl _)) _ s

/-! Translations and banks. -/

theorem observed_fillTlb (via : Via) (t : Nat) (e : TlbEntry) : Observed s (fillTlb via t e s) := by
  unfold fillTlb
  split
  case h_1 k =>
    refine observed_modTile _ fun x => ⟨rfl, fun j => ?_⟩
    exact get_modify_part _ CoreSt.seqno (f := fun c => { c with tlb := tlbAdd 128 e c.tlb }) (fun _ => rfl) ..
  case h_2 | h_3 => exact observed_modTile _ fun _ => ⟨rfl, fun _ => rfl⟩
  case h_4 => exact .refl s

theorem observed_fillAll (via : Via) (t : Nat) (l : List Resolved) : Observed s (fillAll via t l s) := by
  refine observed_foldl (fun u r => ?_) l s
  split
  · exact observed_fillTlb ..
  · exact .refl u

theorem observed_touchBank (t off len : Nat) (pol : Pol) : Observed s (touchBank t off len pol s) := by
  unfold touchBank
  exact observed_modTile _ fun _ => ⟨rfl, fun _ => rfl⟩

theorem observed_useBank (t c off n : Nat) (pol : Pol) (g : Site) (q : W32) :
    Observed s (useBank t c off n pol g q s) := by
  have hcount : Observed s (countVault t c off g q s) := by
    unfold countVault
    extract_lets old s1
    have h1 : Observed s s1 := observed_countAt ..
    clear_value old
    cases old with
    | none => exact h1
    | some r => exact h1.trans (observed_countAt ..)
  exact hcount.trans (observed_touchBank ..)

end Sys2Proof.Machine
end

section
/-! SUPPORT and the settling theorem of the issue of matrix operations (O27): an operation with room joins the queue with the
next number of its core (`Issued`), and what an instruction does beside that leaves the queue and the number. -/

namespace Sys2Proof.Machine

variable {s u v : State} {o : MatOp} {j : Fin 4} {e : Fin 8} {a d f n c : Fin 16} {p : Nat} {t : Ty}

/-! The number and the place that an operation takes. -/

/-- R159: an operation as it joins the queue. -/
def issuedOp (s : State) (o : MatOp) : MatOp :=
  { o with
    id := s.nextId
    ctx := s.focusCtx
    seq := (coreOf s s.focusTile (coreIx s.focusCtx)).seqno
    after := acquiring s
    sight := (cur s).sight
    kindAt := (Sparse.get ({} : MSlot) (curTile s).slots o.slot).kind
    site := siteOf (cur s) }

/-- R159: an operation of the acting context is the last of its queue and has taken the next number of its core; scalars, rows
and the alloy table are as before. -/
structure Issued (s : State) (o : MatOp) (u : State) : Prop where
  focusTile : u.focusTile = s.focusTile
  focusCtx : u.focusCtx = s.focusCtx
  half : u.grp.half = s.grp.half
  matq : (curTile u).matq = (curTile s).matq ++ [issuedOp s o]
  seqno : (coreOf u s.focusTile (coreIx s.focusCtx)).seqno = (coreOf s s.focusTile (coreIx s.focusCtx)).seqno + 1
  ctx : cur u = { cur s with seqLast := (coreOf s s.focusTile (coreIx s.focusCtx)).seqno }
  alloy : (curTile u).alloy = (curTile s).alloy
  rows : ∀ p r, rowIn (curTile u) p r = rowIn (curTile s) p r

theorem Issued.observed (h : Issued s o u) (hv : Observed u v) : Issued s o v where
  focusTile := hv.focusTile.trans h.focusTile
  focusCtx := hv.focusCtx.trans h.focusCtx
  half := hv.half.trans h.half
  matq := (hv.curTile_part Tile.matq fun _ => rfl).trans h.matq
  seqno := ((hv.tile _).seqno _).trans h.seqno
  ctx := hv.cur_eq.trans h.ctx
  alloy := (hv.curTile_part Tile.alloy fun _ => rfl).trans h.alloy
  rows p r := (hv.curTile_part (fun x => rowIn x p r) fun _ => rfl).trans (h.rows p r)

/-- What changes neither contexts, cores, queue, alloy table nor rows of the acting tile leaves an issued operation. -/
theorem Issued.modCurTile (h : Issued s o u) {g : Tile → Tile} (hctxs : ∀ x, (g x).ctxs = x.ctxs)
    (hcores : ∀ x, (g x).cores = x.cores) (hmatq : ∀ x, (g x).matq = x.matq) (halloy : ∀ x, (g x).alloy = x.alloy)
    (hrows : ∀ x p r, rowIn (g x) p r = rowIn x p r) : Issued s o (modCurTile g u) where
  focusTile := h.focusTile
  focusCtx := h.focusCtx
  half := h.half
  matq := by rw [curTile_modCurTile, hmatq, h.matq]
  seqno := by
    rw [← h.seqno]
    unfold coreOf Machine.modCurTile
    rw [h.focusTile, tileOf_modTile_same, hcores]
  ctx := by
    rw [← h.ctx]
    unfold cur ctxOf ctxIn Machine.modCurTile
    rw [modTile_focusTile, modTile_focusCtx, tileOf_modTile_same, hctxs]
  alloy := by rw [curTile_modCurTile, halloy, h.alloy]
  rows p r := by rw [curTile_modCurTile, hrows, h.rows]

theorem Issued.touchReg (h : Issued s o u) (p : Nat) : Issued s o (touchReg p u) :=
  h.modCurTile (fun _ => rfl) (fun _ => rfl) (fun _ => rfl) (fun _ => rfl) fun x p' r =>
    get_modify_part ({} : TileReg) (fun y : TileReg => Sparse.get ({} : Row) y.rows r)
      (f := fun y => { y with lastUse := u.time, drowsy := false }) (fun _ => rfl) p p' x.xregs

/-- R159: an operation put at the end of the queue of the acting tile, with the number `q` and the name `id`. -/
def enqueued (o : MatOp) (q : W32) (id : Nat) (w : State) : State :=
  modCurTile (fun x => { x with matq := x.matq ++ [{ o with
    id := id, ctx := w.focusCtx, seq := q, after := acquiring w, sight := (cur w).sight,
    kindAt := (Sparse.get ({} : MSlot) x.slots o.slot).kind, site := siteOf (cur w) }] }) w

theorem issueMat_eq (hroom : ((curTile s).matq.filter fun o => !o.started).length < 8) (o : MatOp) :
    ∃ code, ∀ k, issueMat s o k =
      let w := (freshId (takeSeqCur s).2).2
      .done (k (enqueued o (takeSeqCur s).1 (takeSeqCur s).2.nextId
        (monitor w.focusTile w.focusCtx 4 code (cur w).pc 0 (takeSeqCur s).1 w))) .next :=
  ⟨_, fun _ => if_neg (Nat.not_le_of_lt hroom)⟩

/-- R159: the acting context and its core once they have taken a number. -/
def withNumber (s : State) : State :=
  let q := (coreOf s s.focusTile (coreIx s.focusCtx)).seqno
  modCur (fun y => { y with seqLast := q }) (modCore s.focusTile (coreIx s.focusCtx) (fun x => { x with seqno := q + 1 }) s)

theorem observed_takeSeqCur : Observed (withNumber s) (takeSeqCur s).2 :=
  (observed_modPair ..).trans ⟨rfl, rfl, fun _ => .refl _⟩

theorem cur_withNumber :
    cur (withNumber s) = { cur s with seqLast := (coreOf s s.focusTile (coreIx s.focusCtx)).seqno } := by
  have h : cur (modCore s.focusTile (coreIx s.focusCtx)
      (fun x => { x with seqno := (coreOf s s.focusTile (coreIx s.focusCtx)).seqno + 1 }) s) = cur s := ctxOf_modCore ..
  unfold withNumber
  rw [cur_modCur, h]

theorem seqno_withNumber : (coreOf (withNumber s) s.focusTile (coreIx s.focusCtx)).seqno =
    (coreOf s s.focusTile (coreIx s.focusCtx)).seqno + 1 := by
  unfold withNumber modCur
  rw [coreOf_modCtx, coreOf_modCore_same]

/-- A part of the acting tile that is neither a context nor a core. -/
theorem curTile_withNumber {α : Type} (part : Tile → α)
    (hp : ∀ x : Tile, part { x with ctxs := [], cores := [] } = part x) :
    part (curTile (withNumber s)) = part (curTile s) := by
  rw [← hp, ← hp (curTile s)]
  simp [withNumber, modCur, modCtx, setCtx, modCore, curTile]

/-- R159: what a trace of the numbered operation leaves is as `Issued` has it, once the operation stands in the queue. -/
theorem issued_enqueued {w : State} (h : Observed (freshId (takeSeqCur s).2).2 w) (o : MatOp) :
    Issued s o (enqueued o (takeSeqCur s).1 (takeSeqCur s).2.nextId w) ∧
      (curTile (enqueued o (takeSeqCur s).1 (takeSeqCur s).2.nextId w)).slots = (curTile s).slots := by
  have h1 : Observed (withNumber s) (takeSeqCur s).2 := observed_takeSeqCur
  have hft : w.focusTile = s.focusTile := h.focusTile.trans h1.focusTile
  have hfc : w.focusCtx = s.focusCtx := h.focusCtx.trans h1.focusCtx
  have hcur : cur w = { cur s with seqLast := (coreOf s s.focusTile (coreIx s.focusCtx)).seqno } :=
    (h.cur_eq.trans h1.cur_eq).trans cur_withNumber
  have hpart {α : Type} (part : Tile → α) (hp : ∀ x : Tile, part { x with
      ctxs := [], cores := [], tlb := [], agentTlb := [], vault := {}, mon := [], relc := [], pairs := [] } = part x) :
      part (curTile w) = part (curTile s) :=
    (h.curTile_part part fun x => (hp _).symm.trans (hp x)).trans
      ((h1.curTile_part part fun x => (hp _).symm.trans (hp x)).trans
        (curTile_withNumber part fun x => (hp _).symm.trans (hp x)))
  have hmatq := hpart Tile.matq fun _ => rfl
  have hslots := hpart Tile.slots fun _ => rfl
  have hid : (takeSeqCur s).2.nextId = s.nextId := (congrArg State.nextId h1.rest :)
  have hacq : acquiring w = acquiring s := by
    unfold acquiring curMoves
    rw [hcur, hpart Tile.moves fun _ => rfl, hfc]
  refine ⟨⟨hft, hfc, h.half.trans h1.half, ?_, ?_, ?_, ?_, fun p r => ?_⟩, ?_⟩
  · unfold enqueued issuedOp
    rw [curTile_modCurTile, hmatq, hslots, hfc, hcur, hid, hacq]
    rfl
  · refine Eq.trans ?_ (((h.tile _).seqno _).trans (((h1.tile _).seqno _).trans seqno_withNumber))
    unfold enqueued coreOf modCurTile
    rw [hft, tileOf_modTile_same]
  · rw [← hcur]
    unfold enqueued cur ctxOf ctxIn modCurTile
    rw [modTile_focusTile, modTile_focusCtx, tileOf_modTile_same]
  · exact (congrArg Tile.alloy (curTile_modCurTile ..)).trans (hpart Tile.alloy fun _ => rfl)
  · exact (congrArg (fun x => rowIn x p r) (curTile_modCurTile ..)).trans (hpart (fun x => rowIn x p r) fun _ => rfl)
  · exact (congrArg Tile.slots (curTile_modCurTile ..)).trans hslots

/-- R159: the state in which an operation with room has joined the queue, from which its instruction goes on. -/
theorem issueMat_of_room (hroom : ((curTile s).matq.filter fun o => !o.started).length < 8) (o : MatOp) :
    ∃ v, Issued s o v ∧ (curTile v).slots = (curTile s).slots ∧ ∀ k, issueMat s o k = .done (k v) .next := by
  obtain ⟨code, hk⟩ := issueMat_eq hroom o
  obtain ⟨hissued, hslots⟩ := issued_enqueued (s := s) (observed_monitorAt ..) o
  exact ⟨_, hissued, hslots, hk⟩

/-! The guards of the matrix instructions. -/

theorem withSlot_of_held (h : holdsSlot (opTile s) s.focusCtx j.val = true) (k : Eff) : withSlot s j k = k := if_pos h

theorem withSlot_of_not_held (h : holdsSlot (opTile s) s.focusCtx j.val = false) (k : Eff) :
    withSlot s j k = .trap { cause := .slotNotHeld } := if_neg (Bool.eq_false_iff.mp h)

theorem fillReady_of {i : Nat} (h : stoppedFill (opCtx s) ≠ some i) (k : Eff) : fillReady s i k = k := if_neg h

/-- R173: an MMUL whose entry, formats and kind are accepted joins the queue with its scale arrays. -/
theorem doMmul_of {ra rb : Option Nat} (hl : Legal s (.mmul j e a f n c)) (ha : nameOf s a = some p)
    (hh : holdsSlot (opTile s) s.focusCtx j.val = true) (hv : eValid (alloyOf s e) = true)
    (hfa : wfld (opCtx s).fmta 0 4 = wfld (alloyOf s e) 4 4) (hfb : wfld (opCtx s).fmtb 0 4 = wfld (alloyOf s e) 4 4)
    (hr : restoring (curTile s) j.val = false)
    (hk : (Sparse.get ({} : MSlot) (curTile s).slots j.val).kind = some (eCat (alloyOf s e), eAcc (alloyOf s e)))
    (hs : if eScl (alloyOf s e) then
        scaleArray s (opCtx s).fmta (opCtx s).scla = .ok ra ∧ scaleArray s (opCtx s).fmtb (opCtx s).sclb = .ok rb ∧
          accWait (curTile s) ((opCtx s).accs.filter fun a => unperformed a && acquires a.ord)
            ((opMoves s).filter fun m => m.acq) = none
      else ra = none ∧ rb = none) :
    doMmul j e a f n c s = issueMat s
      { slot := j.val, kind := .mmul, entry := alloyOf s e, reg := p, first := f.val, nrow := n.val + 1, ncol := c.val + 1,
        mck := mck (opCtx s) && decide (c.val < 8), arrA := ra, arrB := rb } (touchReg p) := by
  unfold doMmul
  rw [static_of_legal hl, withName_of ha, withSlot_of_held hh]
  simp only [hv, hfa, hfb, hr, hk, Bool.not_true, Bool.false_eq_true, ne_eq, not_true_eq_false, or_self, if_false]
  split at hs
  next hscl =>
    obtain ⟨ha, hb, hacq⟩ := hs
    rw [if_pos hscl, ha, hb]
    exact acquired_of hacq _
  next hscl =>
    obtain ⟨rfl, rfl⟩ := hs
    exact if_neg hscl

/-- R174: an MDRAIN of a slot that restores nothing and has a kind. -/
theorem doMdrain_of_kind {cat : Nat} {i32 : Bool} (hl : Legal s (.mdrain j d t)) (hd : nameOf s d = some p)
    (hh : holdsSlot (opTile s) s.focusCtx j.val = true) (hr : restoring (curTile s) j.val = false)
    (hrows : RowsReady s [] (allRows p)) (hk : (Sparse.get ({} : MSlot) (curTile s).slots j.val).kind = some (cat, i32)) :
    doMdrain j d t s = if drainAllowed cat i32 t then issueMat s { slot := j.val, kind := .mdrain, reg := p, ty := t } id
      else .trap { cause := .drainFormat } := by
  unfold doMdrain
  rw [static_of_legal hl, withName_of hd, withSlot_of_held hh, hk]
  dsimp only
  rw [if_neg (Bool.eq_false_iff.mp hr), readyRows_of hrows]
  cases drainAllowed cat i32 t <;> rfl

/-- R174: an MDRAIN of a slot without a kind that restores nothing. -/
theorem doMdrain_of_no_kind (hl : Legal s (.mdrain j d t)) (hd : nameOf s d = some p)
    (hh : holdsSlot (opTile s) s.focusCtx j.val = true) (hr : restoring (curTile s) j.val = false)
    (hk : (Sparse.get ({} : MSlot) (curTile s).slots j.val).kind = none) :
    doMdrain j d t s = .trap { cause := .drainFormat } := by
  unfold doMdrain
  rw [static_of_legal hl, withName_of hd, withSlot_of_held hh, hk]
  exact if_neg (Bool.eq_false_iff.mp hr)

theorem doMldw_of (ha : nameOf s a = some p) (hh : holdsSlot (opTile s) s.focusCtx j.val = true)
    (hf : stoppedFill (opCtx s) ≠ some j.val) :
    doMldw j a s = issueMat s { slot := j.val, kind := .mldw, reg := p } (touchReg p) := by
  unfold doMldw
  rw [withName_of ha, withSlot_of_held hh, fillReady_of hf]

theorem doMswap_of (hl : Legal s (.mswap j)) (hh : holdsSlot (opTile s) s.focusCtx j.val = true) :
    doMswap j s = issueMat s { slot := j.val, kind := .mswap } id := by
  unfold doMswap
  rw [static_of_legal hl, withSlot_of_held hh]

/-- R170: a slot whose kind changes. -/
def setKind (j : Nat) (k : Option (Nat × Bool)) (x : Tile) : Tile :=
  { x with slots := Sparse.modify {} j (fun (z : MSlot) => { z with kind := k }) x.slots }

theorem doMacz_of (hl : Legal s (.macz j e)) (hh : holdsSlot (opTile s) s.focusCtx j.val = true)
    (hv : eValid (alloyOf s e) = true) :
    doMacz j e s = issueMat s { slot := j.val, kind := .macz, entry := alloyOf s e }
      (modCurTile (setKind j.val (some (eCat (alloyOf s e), eAcc (alloyOf s e))))) := by
  unfold doMacz
  rw [static_of_legal hl, withSlot_of_held hh]
  simp only [hv, Bool.not_true, Bool.false_eq_true, if_false]
  rfl

/-- R163: MOPW writes the entry that its scalar names. -/
theorem doMopw_of_entry {w : Word} (hl : Legal s (.mopw e a)) (hr : Ready s [a]) (hc : Clean s [a])
    (hw : alloyEntry ((rdS s a).val.toNat % 1024) = some w) :
    doMopw e a s = .done (modPair s.focusTile s.focusCtx
      (fun k => { k with alloy := (e.val, Sparse.get 0 (curTile s).alloy e.val) :: k.alloy })
      (modCurTile (fun x => { x with alloy := Sparse.set e.val w x.alloy }) s)) .next := by
  unfold doMopw
  rw [static_of_legal hl, ready_of hr, clean_any hc, hw]
  rfl

/-- R163: MOPW of a scalar that is poisoned or names no entry. -/
theorem doMopw_of_no_entry (hl : Legal s (.mopw e a)) (hr : Ready s [a])
    (h : (rdS s a).poison = true ∨ alloyEntry ((rdS s a).val.toNat % 1024) = none) :
    doMopw e a s = .trap { cause := .alloyEntry } := by
  have hw : (if anyPoison s [a] then none else alloyEntry ((rdS s a).val.toNat % 1024)) = none := by
    rw [anyPoison_cons, anyPoison_nil, Bool.or_false]
    obtain h | h := h
    · exact if_pos h
    · rw [h, ite_self]
  unfold doMopw
  rw [static_of_legal hl, ready_of hr, hw]
  rfl

/-- R175: what an image operation that has joined the queue fills and touches. -/
def imageTouched (rs : List Resolved) (va : Nat) (write : Bool) (u : State) : State :=
  let u := fillAll (.core (coreIx u.focusCtx)) u.focusTile rs u
  { u with grp := { u.grp with touch := u.grp.touch ++ (List.range 50).map fun k => (segVa va 64 k, 64, write) } }

theorem observed_imageTouched (rs : List Resolved) (va : Nat) (write : Bool) :
    Observed u (imageTouched rs va write u) := (observed_fillAll ..).trans ⟨rfl, rfl, fun _ => .refl _⟩

/-- R175: an image operation whose 50 segments pass and wait for nothing. -/
theorem doImage_of {write : Bool} {l : List Resolved} (kind : MatKind) (hr : Ready s [a]) (hc : Clean s [a])
    (hh : holdsSlot (opTile s) s.focusCtx j.val = true) (hf : stoppedFill (opCtx s) ≠ some j.val)
    (hl : checkSegs s (curView s) (.core (coreIx s.focusCtx)) write .dflt (rdS s a).val.toNat 64 (List.range 50) none = .ok l)
    (hwb : write = true → l.any (fun r => r.wb) = false)
    (hst : overlapsStopped (opCtx s) (rdS s a).val.toNat 3200 = false)
    (hmv : l.any (fun r => moveMeets s write r.pa 64) = false)
    (hacq : accWait (curTile s) ((opCtx s).accs.filter fun a => unperformed a && acquires a.ord)
      ((opMoves s).filter fun m => m.acq) = none) :
    doImage s j a kind write = issueMat s { slot := j.val, kind := kind, pas := l.map fun r => r.pa, left := List.range 50 }
      (imageTouched l (rdS s a).val.toNat write) := by
  have hwb' : ¬(write = true ∧ l.any (fun r => r.wb) = true) := fun h => by simp [hwb h.1] at h
  unfold doImage
  rw [ready_of hr, withSlot_of_held hh, fillReady_of hf, unpoisoned_of_clean hc]
  dsimp only
  rw [hl]
  dsimp only
  rw [if_neg hwb', if_neg (Bool.eq_false_iff.mp hst), if_neg (Bool.eq_false_iff.mp hmv), acquired_of hacq]
  rfl

/-! Operations that stop. -/

/-- R157, R163: MMUL on a slot that its context does not hold, or with an entry that is not valid. -/
theorem doMmul_not_held (hl : Legal s (.mmul j e a f n c)) (ha : nameOf s a = some p)
    (hh : holdsSlot (opTile s) s.focusCtx j.val = false) : doMmul j e a f n c s = .trap { cause := .slotNotHeld } := by
  unfold doMmul
  rw [static_of_legal hl, withName_of ha, withSlot_of_not_held hh]

theorem doMmul_invalid (hl : Legal s (.mmul j e a f n c)) (ha : nameOf s a = some p)
    (hh : holdsSlot (opTile s) s.focusCtx j.val = true) (hv : eValid (alloyOf s e) = false) :
    doMmul j e a f n c s = .trap { cause := .alloyEntry } := by
  unfold doMmul
  rw [static_of_legal hl, withName_of ha, withSlot_of_held hh]
  exact if_pos (by rw [hv]; rfl)

theorem doMdrain_not_held (hl : Legal s (.mdrain j d t)) (hd : nameOf s d = some p)
    (hh : holdsSlot (opTile s) s.focusCtx j.val = false) : doMdrain j d t s = .trap { cause := .slotNotHeld } := by
  unfold doMdrain
  rw [static_of_legal hl, withName_of hd, withSlot_of_not_held hh]

theorem doMldw_not_held (ha : nameOf s a = some p) (hh : holdsSlot (opTile s) s.focusCtx j.val = false) :
    doMldw j a s = .trap { cause := .slotNotHeld } := by
  unfold doMldw
  rw [withName_of ha, withSlot_of_not_held hh]

theorem doMswap_not_held (hl : Legal s (.mswap j)) (hh : holdsSlot (opTile s) s.focusCtx j.val = false) :
    doMswap j s = .trap { cause := .slotNotHeld } := by
  unfold doMswap
  rw [static_of_legal hl, withSlot_of_not_held hh]

theorem doMacz_not_held (hl : Legal s (.macz j e)) (hh : holdsSlot (opTile s) s.focusCtx j.val = false) :
    doMacz j e s = .trap { cause := .slotNotHeld } := by
  unfold doMacz
  rw [static_of_legal hl, withSlot_of_not_held hh]

theorem doMacz_invalid (hl : Legal s (.macz j e)) (hh : holdsSlot (opTile s) s.focusCtx j.val = true)
    (hv : eValid (alloyOf s e) = false) : doMacz j e s = .trap { cause := .alloyEntry } := by
  unfold doMacz
  rw [static_of_legal hl, withSlot_of_held hh]
  exact if_pos (by rw [hv]; rfl)

theorem doImage_not_held (hr : Ready s [a]) (hh : holdsSlot (opTile s) s.focusCtx j.val = false) (kind : MatKind)
    (write : Bool) : doImage s j a kind write = .trap { cause := .slotNotHeld } := by
  unfold doImage
  rw [ready_of hr, withSlot_of_not_held hh]

/-- Settles O27: once its guards pass, each operation is one `issueMat`, whose operation joins the queue (`Issued`), and what
the instruction then does leaves the queue. -/
theorem matrixIssue : Obligations.MatrixIssue := by
  intro j e a f n c d t p ra rb l s queued stops w y z held room filled first
  have joins {i : Instr} {o : MatOp} {k : State → State} (ho : o.slot = j.val) (hroom : room)
      (he : exec i s = settle s (issueMat s o k)) (hk : ∀ v, Issued s o v → Issued s o (k v)) : queued i o := by
    obtain ⟨v, hv, -, hi⟩ := issueMat_of_room hroom o
    obtain ⟨hft, hfc, hhalf, hmatq, hseqno, hctx, halloy, hrows⟩ := hk v hv
    refine ⟨k v, he.trans (congrArg (settle s) (hi k)), ?_, hseqno, ?_, hhalf, fun q => ?_, halloy, hrows⟩
    · rw [hmatq, ← ho]
      rfl
    · rw [hctx]
    · rw [hctx]
      rfl
  clear_value queued -- from here on used through `joins` alone
  have touched {o : MatOp} (v : State) (h : Issued s o v) : Issued s o (touchReg p v) := h.touchReg p
  have stopped {i : Instr} {x : Eff} {k : Cause} (he : exec i s = settle s x) (hx : x = .trap { cause := k }) :
      stops i k := he.trans (congrArg (settle s) hx)
  refine ⟨fun hl ha hh hv hfa hfb hr hk hroom hs =>
      joins rfl hroom (congrArg (settle s) (doMmul_of hl ha hh hv hfa hfb hr hk hs)) touched,
    fun hl hd hh hr hrows hroom => ⟨fun cat i32 hk hok => ?mdrain, fun cat i32 hk hno => ?noDrain,
      fun hk => stopped rfl (doMdrain_of_no_kind hl hd hh hr hk)⟩,
    fun ha hh hf hroom => joins rfl hroom (congrArg (settle s) (doMldw_of ha hh hf)) touched,
    fun hl hh hroom => joins rfl hroom (congrArg (settle s) (doMswap_of hl hh)) fun _ h => h,
    fun hl hh hv hroom => ⟨?macz, ?kind⟩,
    fun write hr hc hh hf hsegs hwb hst hmv hacq hroom => ⟨?msave, ?mrest⟩,
    fun hl hr => ⟨fun v hc hv => congrArg (settle s) (doMopw_of_entry hl hr hc hv),
      fun h => stopped rfl (doMopw_of_no_entry hl hr h)⟩,
    fun hr => congrArg (settle s) (ready_of hr _),
    fun hl hh => stopped rfl (doMacz_not_held hl hh), fun hh ha => stopped rfl (doMldw_not_held ha hh),
    fun hl hh => stopped rfl (doMswap_not_held hl hh), fun hl ha hh => stopped rfl (doMmul_not_held hl ha hh),
    fun hl hd hh => stopped rfl (doMdrain_not_held hl hd hh),
    fun hr hh => ⟨stopped rfl (doImage_not_held hr hh ..), stopped rfl (doImage_not_held hr hh ..)⟩,
    fun hl hh hv => stopped rfl (doMacz_invalid hl hh hv), fun hl ha hh hv => stopped rfl (doMmul_invalid hl ha hh hv)⟩
  case mdrain =>
    exact joins rfl hroom (congrArg (settle s) ((doMdrain_of_kind hl hd hh hr hrows hk).trans (if_pos hok))) fun _ h => h
  case noDrain =>
    exact stopped rfl ((doMdrain_of_kind hl hd hh hr hrows hk).trans (if_neg (Bool.eq_false_iff.mp hno)))
  case macz =>
    exact joins rfl hroom (congrArg (settle s) (doMacz_of hl hh hv)) fun _ h =>
      h.modCurTile (fun _ => rfl) (fun _ => rfl) (fun _ => rfl) (fun _ => rfl) fun _ _ _ => rfl
  case kind =>
    obtain ⟨v, -, hslots, hi⟩ := issueMat_of_room hroom { slot := j.val, kind := .macz, entry := w }
    refine ⟨_, congrArg (settle s) ((doMacz_of hl hh hv).trans (hi _)), ?_⟩
    rw [curTile_modCurTile]
    unfold setKind
    rw [hslots, Sparse.get_modify_same]
    rfl
  case msave =>
    rintro rfl
    exact joins rfl hroom (congrArg (settle s) (doImage_of .msave hr hc hh hf hsegs hwb hst hmv hacq)) fun _ h =>
      h.observed (observed_imageTouched ..)
  case mrest =>
    rintro rfl
    exact joins rfl hroom (congrArg (settle s) (doImage_of .mrest hr hc hh hf hsegs hwb hst hmv hacq)) fun _ h =>
      h.observed (observed_imageTouched ..)

end Sys2Proof.Machine
end

section
/-! SUPPORT. Numbers of several bytes in memory, and one full segment read or stored at its home (R2, R111). -/

namespace Sys2Proof

/-- R2: a number written and read back. -/
theorem Memory.readN_writeN_same (m : Memory) (a v n : Nat) : (Memory.writeN a v n m).readN a n = v % 2 ^ (8 * n) := by
  induction n generalizing a v m with
  | zero => simp [Memory.readN, Nat.mod_one]
  | succ n ih =>
    have hfirst : (Memory.writeN (a + 1) (v / 2 ^ 8) n (Memory.write a (BitVec.ofNat 8 v) m)).read a = BitVec.ofNat 8 v := by
      rw [Memory.read_writeN, if_neg (by omega), Memory.read_write, if_pos rfl]
    rw [Memory.writeN, Memory.readN, ih, hfirst, BitVec.toNat_ofNat, Nat.mul_succ, Nat.add_comm (8 * n), Nat.pow_add,
      Nat.mod_mul]

/-- R2: each byte of a number read from memory. -/
theorem Memory.byte_readN (m : Memory) (a : Nat) {n i : Nat} (hi : i < n) :
    BitVec.ofNat 8 (m.readN a n / 2 ^ (8 * i)) = m.read (a + i) := by
  induction n generalizing a i with
  | zero => omega
  | succ n ih =>
    have hlt := (m.read a).isLt
    rw [Memory.readN]
    cases i with
    | zero =>
      apply BitVec.eq_of_toNat_eq
      rw [BitVec.toNat_ofNat, Nat.mul_zero, Nat.pow_zero, Nat.div_one, Nat.add_mul_mod_self_left, Nat.mod_eq_of_lt hlt,
        Nat.add_zero]
    | succ i =>
      rw [Nat.mul_succ, Nat.add_comm (8 * i), Nat.pow_add, ← Nat.div_div_eq_div_mul, Nat.add_mul_div_left _ _ (by decide),
        Nat.div_eq_of_lt hlt, Nat.zero_add, ih (a + 1) (by omega), Nat.add_right_comm, Nat.add_assoc]

theorem Memory.readN_lt (m : Memory) (a n : Nat) : m.readN a n < 2 ^ (8 * n) := by
  induction n generalizing a with
  | zero => simp [Memory.readN]
  | succ n ih =>
    have hlt := (m.read a).isLt
    have hrest := ih (a + 1)
    rw [Memory.readN, Nat.mul_succ, Nat.pow_add]
    omega

end Sys2Proof

namespace Sys2Proof.Machine

variable {s : State} {pa : Nat}

/-- R381: a segment that holds no error. -/
theorem checkSegment_of_no_err (h : errAt s pa = none) : checkSegment pa s = s := by
  unfold checkSegment
  rw [h]

theorem checkStore_of_no_err (h : errAt s pa = none) (n : Nat) : checkStore pa n s = s := by
  unfold checkStore
  rw [h]

theorem homeStore_mem (pa n v : Nat) (p : Bool) (s : State) : (homeStore pa n v p s).mem = Memory.writeN pa v n s.mem := by
  unfold homeStore
  rw [storeMem_mem]
  exact congrArg (Memory.writeN pa v n) (checkStore_mem pa n)

/-- R111: a full segment stored without poison is not poisoned. -/
theorem segPoison_homeStore_full (ha : pa % 64 = 0) (v : Nat) (s : State) :
    segPoison (homeStore pa 64 v false s) pa = false := by
  unfold homeStore storeMem
  simp [ha, segPoison, setSegPoison]

/-- R111: a part of a tile that a store at its home leaves. -/
theorem homeStore_part {α : Type} (part : Tile → α) (hp : ∀ x : Tile, part { x with
    cores := [], tlb := [], agentTlb := [], vault := {}, mon := [], relc := [], pairs := [] } = part x)
    (pa n v : Nat) (p : Bool) (s : State) (t : Nat) :
    part (tileOf (homeStore pa n v p s) t) = part (tileOf s t) :=
  ((observed_storeMem pa n v p).part part hp t).trans ((observed_checkStore pa n).part part hp t)

/-- R387: what is not in the memory of a paired tile is not mirrored. -/
theorem mirrorOf_of_unpaired (h : paRegion pa ≤ 1 → (tileOf s (paTile pa)).pairOf = none) : mirrorOf s pa = none := by
  unfold mirrorOf
  split
  next hr =>
    unfold shadowOf
    simp [h hr]
  next => rfl

end Sys2Proof.Machine
end

section
/-! SUPPORT and the settling theorem of the debug port (O49): every command ends with `dbgEnd`, whose report stands in DBGST,
or waits, and what it does before that is one access of a context, a row, a slot or a segment. -/

namespace Sys2Proof.Machine

variable {s u : State} {t c n k i : Nat}

/-! The report of a command (R400, Table 23.4). -/

/-- DBGST. -/
def portStatus (s : State) : Word := Sparse.get 0 s.regs 0xC20

theorem wbit_ofNat (m : Nat) (hi : i < 64) : wbit (BitVec.ofNat 64 m) i = decide (m / 2 ^ i % 2 = 1) := by
  unfold wbit
  rw [BitVec.getLsbD_ofNat, decide_eq_true hi, Bool.true_and, Nat.testBit_eq_decide_div_mod_eq]

/-- R400: the number that DBGST holds once a command has ended. -/
theorem portStatus_dbgEnd (r : DbgReport) (s : State) : portStatus (dbgEnd r s) =
    BitVec.ofNat 64 (b2n (decide (r.err ≠ 0)) * 2 + b2n r.unbound * 4 + b2n r.poison * 8 + b2n r.woke * 16 +
      b2n s.dbgWaited * 32 + r.err * 2 ^ 8) := Sparse.get_set_same ..

theorem b2n_cases (b : Bool) : b = false ∧ b2n b = 0 ∨ b = true ∧ b2n b = 1 := by cases b <;> simp [b2n]

/-- R400: the bits of DBGST that tell of an error, of a name or slot that is not bound, and of poison. -/
theorem bits_dbgEnd (r : DbgReport) (s : State) :
    wbit (portStatus (dbgEnd r s)) 1 = decide (r.err ≠ 0) ∧ wbit (portStatus (dbgEnd r s)) 2 = r.unbound ∧
      wbit (portStatus (dbgEnd r s)) 3 = r.poison := by
  rw [portStatus_dbgEnd, wbit_ofNat _ (by decide), wbit_ofNat _ (by decide), wbit_ofNat _ (by decide)]
  have he := b2n_cases (decide (r.err ≠ 0))
  have hu := b2n_cases r.unbound
  have hp := b2n_cases r.poison
  have hw := b2n_cases r.woke
  have hd := b2n_cases s.dbgWaited
  generalize b2n (decide (r.err ≠ 0)) = e at he ⊢
  generalize b2n r.unbound = x at hu ⊢
  generalize b2n r.poison = y at hp ⊢
  generalize b2n r.woke = z at hw ⊢
  generalize b2n s.dbgWaited = w at hd ⊢
  refine ⟨?_, ?_, ?_⟩
  · obtain ⟨h, rfl⟩ | ⟨h, rfl⟩ := he <;> rw [h] <;> simp only [decide_eq_true_eq, decide_eq_false_iff_not] <;> omega
  · obtain ⟨h, rfl⟩ | ⟨h, rfl⟩ := hu <;> rw [h] <;> simp only [decide_eq_true_eq, decide_eq_false_iff_not] <;> omega
  · obtain ⟨h, rfl⟩ | ⟨h, rfl⟩ := hp <;> rw [h] <;> simp only [decide_eq_true_eq, decide_eq_false_iff_not] <;> omega

/-- R400: ERRC of a command that ends with an error. -/
theorem errc_dbgEnd {e : Nat} (he : e < 256) (s : State) : wfld (portStatus (dbgEnd { err := e } s)) 8 8 = e := by
  rw [portStatus_dbgEnd]
  unfold wfld
  rw [BitVec.toNat_ofNat]
  have h1 := b2n_cases (decide (e ≠ 0))
  have h2 := b2n_cases s.dbgWaited
  simp only [b2n, Bool.false_eq_true, if_false] at h1 h2 ⊢
  omega

/-! Commands on a context. -/

theorem ctxOf_dbgEnd (r : DbgReport) (s : State) (t c : Nat) : ctxOf (dbgEnd r s) t c = ctxOf s t c := rfl

theorem whenHalted_of_halted (h : (ctxOf s (cmdTile s) (cmdCtx s)).debugHalt = true) (k : State → State) :
    whenHalted s k = k s := if_pos h

theorem whenHalted_of_running (h : (ctxOf s (cmdTile s) (cmdCtx s)).debugHalt = false) (k : State → State) :
    whenHalted s k = dbgEnd { err := 1 } s := if_neg (Bool.eq_false_iff.mp h)

/-- R363: what stopping for the debugger leaves of a context. -/
theorem ctxOf_debugStop (t c reason : Nat) (s : State) : ctxOf (debugStop t c reason s) t c =
    { ctxOf s t c with
      debugHalt := true, resumeReq := false, stepReq := false, haltReason := reason, wait := .none_, priFail := false,
      wl := none, heldNames := none, wlKept := keptAnswer (ctxOf s t c) } := by
  unfold debugStop leaveQueues
  rw [ctxOf_modCtx_same, ctxOf_modCtx_same]
  unfold ctxOf
  rw [tileOf_modTile_same]
  rfl

/-- R363: HALT of a running context. -/
theorem dbgHalt_of_running (hd : (ctxOf s (cmdTile s) (cmdCtx s)).debugHalt = false)
    (hrun : (ctxOf s (cmdTile s) (cmdCtx s)).phase = .running) : dbgHalt s =
      if mustAnswer s (cmdTile s) (cmdCtx s) then dbgWait 1 s
      else dbgEnd {} (debugStop (cmdTile s) (cmdCtx s) 1 (modCtx (cmdTile s) (cmdCtx s) issueMerged s)) :=
  (if_neg (Bool.eq_false_iff.mp hd)).trans (if_neg (not_not.mpr hrun))

theorem requestResume_of_running (h : (ctxOf s (cmdTile s) (cmdCtx s)).debugHalt = false) (one : Bool) :
    requestResume one s = dbgEnd { err := 1 } s := whenHalted_of_running h _

section
variable (h : (ctxOf s (cmdTile s) (cmdCtx s)).debugHalt = true)
include h

theorem dbgHalt_of_halted : dbgHalt s = dbgEnd {} (setCtx (cmdTile s) (cmdCtx s)
    { ctxOf s (cmdTile s) (cmdCtx s) with resumeReq := false, stepReq := false } s) := if_pos h

theorem requestResume_of_halted (one : Bool) : requestResume one s =
    dbgEnd {} (modCtx (cmdTile s) (cmdCtx s) (fun y => { y with resumeReq := true, stepReq := one }) s) :=
  whenHalted_of_halted h _

theorem ctxOf_requestResume (one : Bool) : ctxOf (requestResume one s) (cmdTile s) (cmdCtx s) =
    { ctxOf s (cmdTile s) (cmdCtx s) with resumeReq := true, stepReq := one } := by
  rw [requestResume_of_halted h, ctxOf_dbgEnd, ctxOf_modCtx_same]

/-! RDREG and WRREG (R401). -/

theorem rdreg_scalar (hi : i < 16) : rdreg i s =
    let r := scalarIn (ctxOf s (cmdTile s) (cmdCtx s)) i
    dbgEnd { poison := r.poison } { s with dbgDat := r.val } := by
  unfold rdreg
  rw [whenHalted_of_halted h]
  exact if_pos hi

theorem rdreg_creg {r : CReg} (hi : 16 ≤ i) (hi' : i < 51) (hr : CReg.ofCode (i - 16) = some r) : rdreg i s =
    dbgEnd {} { s with
      dbgDat := cregIn s (cmdTile s) (cmdCtx s) (ctxOf s (cmdTile s) (cmdCtx s))
        (coreOf s (cmdTile s) (coreIx (cmdCtx s))) r } := by
  unfold rdreg
  rw [whenHalted_of_halted h]
  dsimp only
  rw [if_neg (Nat.not_lt_of_le hi), if_pos ⟨hi, hi'⟩, hr]

theorem rdreg_future (hi : 64 ≤ i) (hi' : i < 128) (hw : i % 8 < 6) : rdreg i s =
    let f := Sparse.get ({} : Fut) (ctxOf s (cmdTile s) (cmdCtx s)).futs ((i - 64) / 8)
    dbgEnd { poison := f.poison && decide (2 ≤ i % 8) } { s with dbgDat := futWord f (i % 8) } := by
  unfold rdreg
  rw [whenHalted_of_halted h]
  dsimp only
  rw [if_neg (by omega), if_neg (by omega), if_pos ⟨hi, hi', hw⟩]

theorem rdreg_bad (hi : 128 ≤ i) : rdreg i s = dbgEnd { err := 2 } s := by
  unfold rdreg
  rw [whenHalted_of_halted h]
  dsimp only
  rw [if_neg (by omega), if_neg (by omega), if_neg (by omega)]

theorem wrreg_scalar (hi : i < 16) : wrreg i s =
    dbgEnd {} (modCtx (cmdTile s) (cmdCtx s) (putScalar i { val := s.dbgDat }) s) := by
  unfold wrreg
  rw [whenHalted_of_halted h]
  exact if_pos hi

theorem wrreg_creg {r : CReg} (hi : 16 ≤ i) (hi' : i < 51) (hr : CReg.ofCode (i - 16) = some r) : wrreg i s =
    if cregBits r = (0, 0) ∨ cregRefuses r s.dbgDat ∨ (r = .status ∧ wfld s.dbgDat 2 2 > 2) then dbgEnd { err := 2 } s
    else dbgEnd {} (putCreg (cmdTile s) (cmdCtx s) r s.dbgDat s) := by
  unfold wrreg
  rw [whenHalted_of_halted h]
  dsimp only
  rw [if_neg (Nat.not_lt_of_le hi), if_pos ⟨hi, hi'⟩, hr]

theorem wrreg_bad (hi : 51 ≤ i) : wrreg i s = dbgEnd { err := 2 } s := by
  unfold wrreg
  rw [whenHalted_of_halted h]
  dsimp only
  rw [if_neg (by omega), if_neg (by omega)]

/-! RDROW and WRROW (R154, R401). -/

theorem rdrow_bad (hi : 16 ≤ i) (k : Nat) : rdrow i k s = dbgEnd { err := 2 } s := by
  unfold rdrow
  rw [whenHalted_of_halted h]
  exact if_pos hi

theorem rdrow_unbound (hi : i < 16) (hp : physOf (ctxOf s (cmdTile s) (cmdCtx s)) i = none) (k : Nat) :
    rdrow i k s = dbgEnd { unbound := true } { s with dbgRow := 0 } := by
  unfold rdrow
  rw [whenHalted_of_halted h]
  dsimp only
  rw [if_neg (Nat.not_le_of_lt hi), hp]

theorem rdrow_bound {p : Nat} (hi : i < 16) (hp : physOf (ctxOf s (cmdTile s) (cmdCtx s)) i = some p)
    (hk : rowInFlight s p k = false) : rdrow i k s =
      let g := Sparse.get ({} : TileReg) (tileOf s (cmdTile s)).xregs p
      let r := rowIn (tileOf s (cmdTile s)) p k
      let u := modTile (cmdTile s) (fun x =>
        { x with xregs := Sparse.set p { g with drowsy := false, lastUse := s.time } x.xregs }) s
      dbgEnd { poison := r.poison, woke := g.drowsy } { u with dbgRow := r.bits } := by
  unfold rdrow
  rw [whenHalted_of_halted h]
  dsimp only
  rw [if_neg (Nat.not_le_of_lt hi), hp]
  exact if_neg (Bool.eq_false_iff.mp hk)

theorem wrrow_bad (hi : 16 ≤ i) (k : Nat) : wrrow i k s = dbgEnd { err := 2 } s := by
  unfold wrrow
  rw [whenHalted_of_halted h]
  exact if_pos hi

theorem wrrow_unbound (hi : i < 16) (hp : physOf (ctxOf s (cmdTile s) (cmdCtx s)) i = none) (k : Nat) :
    wrrow i k s = dbgEnd { unbound := true } s := by
  unfold wrrow
  rw [whenHalted_of_halted h]
  dsimp only
  rw [if_neg (Nat.not_le_of_lt hi), hp]

theorem wrrow_bound {p : Nat} (hi : i < 16) (hp : physOf (ctxOf s (cmdTile s) (cmdCtx s)) i = some p)
    (hk : rowInFlight s p k = false) : wrrow i k s =
      dbgEnd { woke := (Sparse.get ({} : TileReg) (tileOf s (cmdTile s)).xregs p).drowsy }
        (modTile (cmdTile s) (putRow p k { bits := s.dbgRow } s.time) s) := by
  unfold wrrow
  rw [whenHalted_of_halted h]
  dsimp only
  rw [if_neg (Nat.not_le_of_lt hi), hp]
  exact if_neg (Bool.eq_false_iff.mp hk)

/-! RDSLOT (R401). -/

theorem rdslot_bad (hi : 50 ≤ i) (j : Nat) : rdslot i j s = dbgEnd { err := 2 } s := by
  unfold rdslot
  rw [whenHalted_of_halted h]
  exact if_pos hi

theorem rdslot_held {j : Nat} (hi : i < 50) (hj : holdsSlot (tileOf s (cmdTile s)) (cmdCtx s) j = true) : rdslot i j s =
    dbgEnd {} { s with
      dbgRow := BitVec.ofNat 512 ((slotImage (Sparse.get {} (tileOf s (cmdTile s)).slots j)).readN (64 * i) 64) } := by
  unfold rdslot
  rw [whenHalted_of_halted h]
  exact (if_neg (Nat.not_le_of_lt hi)).trans (if_pos hj)

theorem rdslot_not_held {j : Nat} (hi : i < 50) (hj : holdsSlot (tileOf s (cmdTile s)) (cmdCtx s) j = false) :
    rdslot i j s = dbgEnd { unbound := true } { s with dbgRow := 0 } := by
  unfold rdslot
  rw [whenHalted_of_halted h]
  exact (if_neg (Nat.not_le_of_lt hi)).trans (if_neg (Bool.eq_false_iff.mp hj))

end

/-! RDMEM and WRMEM (R402). -/

variable {r : Resolved}

/-- R341, R402: the TLB of the selected tile filled by the translation of a memory command. -/
def portFill (r : Resolved) (s : State) : State := r.entry.elim s fun e => fillTlb .tile (cmdTile s) e s

theorem observed_portFill (r : Resolved) : Observed s (portFill r s) := by
  unfold portFill
  cases r.entry with
  | none => exact .refl s
  | some e => exact observed_fillTlb .tile (cmdTile s) e

theorem portFill_mem (r : Resolved) : (portFill r s).mem = s.mem ∧ (portFill r s).poison = s.poison := by
  unfold portFill
  cases r.entry with
  | none => exact ⟨rfl, rfl⟩
  | some e => exact ⟨rfl, rfl⟩

theorem errAt_portFill (r : Resolved) (pa : Nat) : errAt (portFill r s) pa = errAt s pa := by
  have hvault : (tileOf (portFill r s) (paTile pa)).vault = (tileOf s (paTile pa)).vault := by
    unfold portFill
    cases r.entry with
    | none => rfl
    | some e =>
      simp only [Option.elim, fillTlb, tileOf_modTile]
      split
      next ht => rw [ht]
      next => rfl
  unfold errAt
  rw [hvault]

/-- R126: the bank that a memory command opens in a vault. -/
def portBank (r : Resolved) (s : State) : State :=
  if r.tgt = .vault then touchBank (paTile r.pa) (paOff r.pa) 64 .keep s else s

theorem portBank_mem (r : Resolved) : (portBank r s).mem = s.mem ∧ (portBank r s).poison = s.poison := by
  unfold portBank
  split <;> exact ⟨rfl, rfl⟩

theorem rdmem_error {e : Nat} (h : portReach s false = .error (some e)) : rdmem s = dbgEnd { err := e } s := by
  unfold rdmem
  rw [h]

theorem wrmem_error {e : Nat} (h : portReach s true = .error (some e)) : wrmem s = dbgEnd { err := e } s := by
  unfold wrmem
  rw [h]

/-- R402: RDMEM of a segment without an error reads it. -/
theorem rdmem_of (h : portReach s false = .ok r) (hc : r.tgt ≠ .control) (he : errAt s r.pa = none) :
    rdmem s = dbgEnd { poison := segPoison s (r.pa / 64 * 64) }
      { portBank r (portFill r s) with dbgRow := BitVec.ofNat 512 (s.mem.readN (r.pa / 64 * 64) 64) } := by
  have hread : homeRead r.pa (portFill r s) = (readSeg s (r.pa / 64 * 64), portFill r s) := by
    obtain ⟨hm, hp⟩ := portFill_mem (s := s) r
    unfold homeRead
    rw [checkSegment_of_no_err ((errAt_portFill r r.pa).trans he)]
    unfold readSeg readMem segPoison
    dsimp only
    rw [hm, hp]
  have hfill : rdmem s = (let (w, u) := homeRead r.pa (portFill r s)
      dbgEnd { poison := w.poison } { portBank r u with dbgRow := w.bits }) := by
    unfold rdmem portFill
    rw [h]
    dsimp only
    rw [if_neg hc]
    cases r.entry <;> rfl
  rw [hfill, hread]
  rfl

/-- R402: WRMEM of a segment that is not mirrored stores it. -/
theorem wrmem_of (h : portReach s true = .ok r) (hc : r.tgt ≠ .control)
    (hm : paRegion r.pa ≤ 1 → (tileOf s (paTile r.pa)).pairOf = none) :
    wrmem s = dbgEnd {} (portBank r (homeStore r.pa 64 s.dbgRow.toNat false (portFill r s))) := by
  have hpair : (tileOf (homeStore r.pa 64 s.dbgRow.toNat false (portFill r s)) (paTile r.pa)).pairOf =
      (tileOf s (paTile r.pa)).pairOf :=
    (homeStore_part Tile.pairOf (fun _ => rfl) ..).trans ((observed_portFill r).part Tile.pairOf (fun _ => rfl) _)
  have hmirror : mirrorWrite r.pa 64 s.dbgRow.toNat false (homeStore r.pa 64 s.dbgRow.toNat false (portFill r s)) =
      homeStore r.pa 64 s.dbgRow.toNat false (portFill r s) := by
    unfold mirrorWrite
    rw [mirrorOf_of_unpaired fun hr => hpair.trans (hm hr)]
  rw [← hmirror]
  have hrow : (portFill r s).dbgRow = s.dbgRow := (congrArg State.dbgRow (observed_portFill r).rest :)
  unfold wrmem
  rw [h]
  dsimp only
  rw [if_neg hc, ← hrow]
  unfold portFill
  cases r.entry <;> rfl

/-- Settles O49: each command is one `dbgEnd` by its equation, of which DBGST tells what it reports. -/
theorem debugPort : Obligations.DebugPort := by
  intro n k j s t c y st ok fails
  have completes {i : Instr} {r : DbgReport} {u : State} {P : State → Prop} (he : exec i s = .next (dbgEnd r u))
      (hr : r.err = 0) (hP : P (dbgEnd r u)) : ok i P := by
    refine ⟨_, he, rfl, (bits_dbgEnd r u).1.trans ?_, hP⟩
    rw [hr]
    rfl
  have failed {i : Instr} {e : Nat} (he : exec i s = .next (dbgEnd { err := e } s)) (h0 : e ≠ 0) (hlt : e < 256) :
      fails i e :=
    ⟨_, he, rfl, (bits_dbgEnd _ s).1.trans (decide_eq_true h0), errc_dbgEnd hlt s, rfl, rfl⟩
  have unbound (r : DbgReport) (u : State) : wbit (st (dbgEnd r u)) 2 = r.unbound := (bits_dbgEnd r u).2.1
  have poisoned (r : DbgReport) (u : State) : wbit (st (dbgEnd r u)) 3 = r.poison := (bits_dbgEnd r u).2.2
  clear_value ok fails st -- from here on used through these four alone
  have next {f : State → State} {u : State} (h : f s = u) : (.next (f s) : Host.Outcome State Fault Refusal) = .next u :=
    congrArg _ h
  refine ⟨fun hd hrun hans => ?halts, fun hd hrun hans => ?waits, fun hd => ?cancels, fun hd => ?running, fun hd => ?halted,
    fun e h h0 hlt => failed (next (rdmem_error h)) h0 hlt, fun e h h0 hlt => failed (next (wrmem_error h)) h0 hlt,
    fun r h hc he => ?rdmem, fun r h hc hm ha => ?wrmem⟩
  case halts =>
    have he := (dbgHalt_of_running hd hrun).trans (if_neg (Bool.eq_false_iff.mp hans))
    have hy : ctxOf (dbgEnd {} (debugStop t c 1 (modCtx t c issueMerged s))) t c = _ := ctxOf_debugStop ..
    refine completes (next he) rfl ?_
    rw [hy, ctxOf_modCtx_same]
    exact ⟨rfl, rfl, rfl, rfl, rfl, rfl⟩
  case waits => exact next ((dbgHalt_of_running hd hrun).trans (if_pos hans))
  case cancels => exact completes (next (dbgHalt_of_halted hd)) rfl (ctxOf_setCtx_same ..)
  case running =>
    have refused : ∀ f, whenHalted s f = dbgEnd { err := 1 } s := whenHalted_of_running hd
    have fails1 {i : Instr} (he : exec i s = .next (dbgEnd { err := 1 } s)) : fails i 1 := failed he (by decide) (by decide)
    simp only [List.forall_mem_cons]
    exact ⟨fails1 (next (requestResume_of_running hd false)), fails1 (next (requestResume_of_running hd true)), fails1 (next (refused _)),
      fails1 (next (refused _)), fails1 (next (refused _)), fails1 (next (refused _)), fails1 (next (refused _)),
      fun _ h => nomatch h⟩
  case rdmem =>
    have hrow := rdmem_of h hc he
    generalize BitVec.ofNat 512 (s.mem.readN (r.pa / 64 * 64) 64) = row at hrow ⊢
    exact completes (next hrow) rfl ⟨rfl, poisoned .., (portBank_mem r).1.trans (portFill_mem r).1⟩
  case wrmem =>
    obtain ⟨hmem, hpoison⟩ := portBank_mem (s := homeStore r.pa 64 s.dbgRow.toNat false (portFill r s)) r
    have hbytes := hmem.trans ((homeStore_mem ..).trans (congrArg (Memory.writeN r.pa s.dbgRow.toNat 64) (portFill_mem r).1))
    refine completes (next (wrmem_of h hc hm)) rfl ⟨?_, ?_, fun a houtside => ?_⟩
    · refine (congrArg (fun m : Memory => m.readN r.pa 64) hbytes).trans ?_
      rw [Memory.readN_writeN_same]
      exact Nat.mod_eq_of_lt (show s.dbgRow.toNat < 2 ^ (8 * 64) from s.dbgRow.isLt)
    · refine Eq.trans ?_ (segPoison_homeStore_full ha s.dbgRow.toNat (portFill r s))
      exact congrArg (fun l : List Nat => l.contains (r.pa / 64)) hpoison
    · refine (congrArg (fun m : Memory => m.read a) hbytes).trans ?_
      rw [Memory.read_writeN, if_neg (by omega)]
  case halted =>
    have fails2 {i : Instr} (he : exec i s = .next (dbgEnd { err := 2 } s)) : fails i 2 :=
      failed he (by decide) (by decide)
    have resumes (one : Bool) : ctxOf (dbgEnd {} (modCtx t c (fun y => { y with resumeReq := true, stepReq := one }) s)) t c =
        { y with resumeReq := true, stepReq := one } :=
      (congrArg (fun u => ctxOf u t c) (requestResume_of_halted hd one)).symm.trans (ctxOf_requestResume hd one)
    refine ⟨completes (next (requestResume_of_halted hd false)) rfl (resumes false),
      completes (next (requestResume_of_halted hd true)) rfl (resumes true),
      fun hn => ⟨completes (next (rdreg_scalar hd hn)) rfl ⟨rfl, poisoned ..⟩,
        completes (next (wrreg_scalar hd hn)) rfl ?wrScalar⟩,
      fun r hn hn' hr => ⟨completes (next (rdreg_creg hd hn hn' hr)) rfl rfl,
        fun href => fails2 (next ((wrreg_creg hd hn hn' hr).trans (if_pos href))),
        fun hok => completes (next ((wrreg_creg hd hn hn' hr).trans (if_neg hok))) rfl rfl⟩,
      fun hn hn' hw => ⟨completes (next (rdreg_future hd hn hn' hw)) rfl rfl, fails2 (next (wrreg_bad hd (by omega)))⟩,
      fun hn => ⟨fails2 (next (rdreg_bad hd hn)), fails2 (next (wrreg_bad hd (by omega)))⟩,
      fun hn => ⟨fails2 (next (rdrow_bad hd hn k)), fails2 (next (wrrow_bad hd hn k))⟩,
      fun hn hp => ⟨completes (next (rdrow_unbound hd hn hp k)) rfl ⟨rfl, unbound ..⟩,
        completes (next (wrrow_unbound hd hn hp k)) rfl ⟨unbound .., rfl⟩⟩,
      fun p hn hp hk => ⟨completes (next (rdrow_bound hd hn hp hk)) rfl ⟨rfl, poisoned ..⟩,
        completes (next (wrrow_bound hd hn hp hk)) rfl fun p' k' => ?wrRow⟩,
      fun hn hj => completes (next (rdslot_held hd hn hj)) rfl rfl,
      fun hn hj => completes (next (rdslot_not_held hd hn hj)) rfl ⟨rfl, unbound ..⟩,
      fun hn => fails2 (next (rdslot_bad hd hn j))⟩
    case wrScalar =>
      refine (congrArg (fun x => scalarIn x n.val) (ctxOf_modCtx_same ..)).trans ?_
      rw [scalarIn_putScalar]
      by_cases h0 : n.val = 0
      · rw [if_neg (by simp [h0]), if_pos h0, h0]
        rfl
      · rw [if_pos ⟨rfl, h0⟩, if_neg h0]
    case wrRow =>
      refine (congrArg (fun x => rowIn x p' k') (tileOf_modTile_same ..)).trans ?_
      exact rowIn_putRow ..

end Sys2Proof.Machine
end

section
/-! SUPPORT. How a matrix operation leaves its queue (R160, R161, R177): what the reads of its image and of its scales leave,
the deferred traps, and one equation for each way to leave the head. -/

namespace Sys2Proof.Machine

variable {s u v : State} {t c : Nat} {o : MatOp}

theorem tileOf_modCtx_same (t c : Nat) (f : Ctx → Ctx) (s : State) :
    tileOf (modCtx t c f s) t = { tileOf s t with ctxs := Sparse.set c (f (ctxOf s t c)) (tileOf s t).ctxs } :=
  tileOf_modTile_same ..

/-! What the reads of an operation leave. -/

/-- The slots, registers and queue of a tile as before, and of a context its phase and the traps that are pending in it. -/
structure OperandsKept (t c : Nat) (s u : State) : Prop where
  slots : (tileOf u t).slots = (tileOf s t).slots
  xregs : (tileOf u t).xregs = (tileOf s t).xregs
  matq : (tileOf u t).matq = (tileOf s t).matq
  phase : (ctxOf u t c).phase = (ctxOf s t c).phase
  pend : (ctxOf u t c).pend = (ctxOf s t c).pend

theorem OperandsKept.refl (t c : Nat) (s : State) : OperandsKept t c s s := ⟨rfl, rfl, rfl, rfl, rfl⟩

theorem OperandsKept.trans (h : OperandsKept t c s u) (h' : OperandsKept t c u v) : OperandsKept t c s v :=
  ⟨h'.slots.trans h.slots, h'.xregs.trans h.xregs, h'.matq.trans h.matq, h'.phase.trans h.phase, h'.pend.trans h.pend⟩

theorem Observed.operandsKept (h : Observed s u) (t c : Nat) : OperandsKept t c s u :=
  ⟨h.slots t, h.xregs t, h.matq t, congrArg Ctx.phase (h.ctxOf_eq t c), congrArg Ctx.pend (h.ctxOf_eq t c)⟩

theorem modSight_operandsKept (t c id : Nat) (f : Sight → Sight) (s : State) : OperandsKept t c s (modSight t c id f s) := by
  have hctx : OperandsKept t c s (modCtx t c (fun y => { y with sight := f y.sight }) s) := by
    constructor <;> simp [tileOf_modCtx_same]
  exact hctx.trans ((observed_modPair t c _).operandsKept t c)

/-- R273: a relaxed read changes at most the sight of its context. -/
theorem ctxRead_relaxed (t c id : Nat) (v : Sight) (sc : Scope) (pa n : Nat) (s : State) :
    (ctxRead t c id v .relaxed sc pa n s).2 = s ∨ ∃ f, (ctxRead t c id v .relaxed sc pa n s).2 = modSight t c id f s := by
  have hstate : (ctxRead t c id v .relaxed sc pa n s).2 =
      let got := (readFrom s (ctxKnows t c id v) pa n).flatMap fun e => e.msgs
      if got.isEmpty then s else modSight t c id (Sight.remember got) s := rfl
  rw [hstate]
  dsimp only
  split
  · exact .inl rfl
  · exact .inr ⟨_, rfl⟩

/-- R270: a read for which the turn asks for no earlier write returns what stands in memory. -/
theorem ctxRead_latest (h : s.asOf = none) (t c id : Nat) (v : Sight) (r : Ord) (sc : Scope) (pa n : Nat) :
    (ctxRead t c id v r sc pa n s).1 = (s.mem.readN pa n, segPoison s pa) := by
  unfold ctxRead readAs passedOver
  dsimp only
  rw [h]
  rfl

/-- R169, R175: an operation reads one unit of its image or of a scale array. -/
def operandRead (t : Nat) (o : MatOp) (pa n : Nat) (s : State) : (Nat × Bool) × State :=
  let s := noteRead t o.ctx pa n (checkSegment pa (opBank t o pa n s))
  ctxRead t o.ctx o.id (opSight s t o) .relaxed .device pa n s

theorem readScale_some (t : Nat) (o : MatOp) (pa : Nat) (s : State) :
    readScale t o (some pa) s = (some (operandRead t o pa 32 s).1, (operandRead t o pa 32 s).2) := rfl

theorem observed_noteRead (t c pa n : Nat) : Observed s (noteRead t c pa n s) := by
  unfold noteRead
  dsimp only
  split
  · split
    · exact (observed_checkSegment _).trans (observed_notePrint ..)
    · exact observed_notePrint ..
  · exact .refl s

theorem observed_opBank (t : Nat) (o : MatOp) (pa n : Nat) : Observed s (opBank t o pa n s) := .ite (observed_useBank ..) (.refl s)

theorem operandRead_kept (t : Nat) (o : MatOp) (pa n : Nat) (s : State) :
    OperandsKept t o.ctx s (operandRead t o pa n s).2 := by
  have hnote : Observed s (noteRead t o.ctx pa n (checkSegment pa (opBank t o pa n s))) :=
    ((observed_opBank t o pa n).trans (observed_checkSegment pa)).trans (observed_noteRead ..)
  refine (hnote.operandsKept t o.ctx).trans ?_
  unfold operandRead
  obtain hsame | ⟨f, hsight⟩ := ctxRead_relaxed t o.ctx o.id (opSight _ t o) .device pa n _
  · rw [hsame]
    exact .refl ..
  · rw [hsight]
    exact modSight_operandsKept ..

theorem readScale_kept (t : Nat) (o : MatOp) (arr : Option Nat) (s : State) :
    OperandsKept t o.ctx s (readScale t o arr s).2 := by
  cases arr with
  | none => exact .refl ..
  | some pa => exact operandRead_kept ..

/-- What the read of a scratchpad by a context without a pair leaves: memory as well. -/
structure ScratchRead (t c : Nat) (s u : State) : Prop extends OperandsKept t c s u where
  mem : u.mem = s.mem
  poison : u.poison = s.poison
  asOf : u.asOf = s.asOf
  unpaired : Sparse.get none (tileOf u t).pairs c = none

theorem errAt_scratch {pa : Nat} (h : paRegion pa = 1) (s : State) : errAt s pa = none := if_neg (by omega)

theorem opBank_scratch {pa : Nat} (h : paRegion pa = 1) (t : Nat) (o : MatOp) (n : Nat) (s : State) : opBank t o pa n s = s :=
  if_neg (by omega)

theorem noteRead_unpaired (h : Sparse.get none (tileOf s t).pairs c = none) (pa n : Nat) : noteRead t c pa n s = s := by
  unfold noteRead
  rw [h]

theorem modPair_unpaired (h : Sparse.get none (tileOf s t).pairs c = none) (f : PairCk → PairCk) : modPair t c f s = s := by
  unfold modPair
  rw [h]

theorem modSight_scratchRead (h : Sparse.get none (tileOf s t).pairs c = none) (id : Nat) (f : Sight → Sight) :
    ScratchRead t c s (modSight t c id f s) := by
  have hpairs : (tileOf (modCtx t c (fun y => { y with sight := f y.sight }) s) t).pairs = (tileOf s t).pairs := by
    rw [tileOf_modCtx_same]
  have hland : modSight t c id f s = modCtx t c (fun y => { y with sight := f y.sight }) s :=
    modPair_unpaired ((congrArg (fun m => Sparse.get none m c) hpairs).trans h) _
  refine { modSight_operandsKept t c id f s with mem := ?_, poison := ?_, asOf := ?_, unpaired := ?_ } <;> rw [hland]
  · rfl
  · rfl
  · rfl
  · rw [hpairs, h]

/-- R270: what an operation of a context without a pair reads in a scratchpad, and what the read leaves. -/
theorem operandRead_scratch {pa : Nat} (hr : paRegion pa = 1) (ha : s.asOf = none)
    (hp : Sparse.get none (tileOf s t).pairs o.ctx = none) (n : Nat) :
    (operandRead t o pa n s).1 = (s.mem.readN pa n, segPoison s pa) ∧ ScratchRead t o.ctx s (operandRead t o pa n s).2 := by
  have hread : operandRead t o pa n s = ctxRead t o.ctx o.id (opSight s t o) .relaxed .device pa n s := by
    unfold operandRead
    rw [opBank_scratch hr, checkSegment_of_no_err (errAt_scratch hr s), noteRead_unpaired hp]
  rw [hread]
  refine ⟨ctxRead_latest ha .., ?_⟩
  obtain hsame | ⟨f, hsight⟩ := ctxRead_relaxed t o.ctx o.id (opSight s t o) .device pa n s
  · rw [hsame]
    exact { OperandsKept.refl t o.ctx s with mem := rfl, poison := rfl, asOf := rfl, unpaired := hp }
  · rw [hsight]
    exact modSight_scratchRead hp ..

/-! The deferred traps (R177). -/

/-- R177: a deferred trap takes the operation out of its queue, leaves the slots, and is pending in a context that runs. -/
theorem deferMat_effect {m : MatOp} {k : Cause} (hphase : (ctxOf s t o.ctx).phase = .running) (hid : m.id = o.id)
    (hctx : m.ctx = o.ctx) (hslot : m.slot = o.slot) :
    m ∉ (tileOf (deferMat t o k s) t).matq ∧ (tileOf (deferMat t o k s) t).slots = (tileOf s t).slots ∧
      (ctxOf (deferMat t o k s) t o.ctx).pend =
        (ctxOf s t o.ctx).pend ++ [{ cause := k, seq := o.seq, eval := BitVec.ofNat 64 o.slot }] := by
  unfold deferMat
  dsimp only
  rw [tileOf_modCtx_same, ctxOf_modCtx_same]
  unfold ctxOf
  rw [tileOf_modTile_same]
  refine ⟨?_, rfl, ?_⟩
  · simp [hid, hctx, hslot]
  · exact congrArg Ctx.pend (if_pos (.inl hphase))

/-! How an operation leaves the head (R160). -/

/-- R160: an operation that leaves the head as `q`. -/
def leaveAs (t : Nat) (o q : MatOp) (s : State) : State := modOp t o.id (fun _ => { q with started := true, since := 0 }) s

theorem exec_matrixOpStart (hfind : (tileOf s t).matq.find? (fun x => !x.started) = some o)
    (hready : matReady (tileOf s t) o = true) (himage : imageBlocked s t o = none) :
    exec (.matrixOpStart t) s = .next (startMat t o s) := by
  have hstart : matrixOpStart t s = startMat t o s := by
    unfold matrixOpStart
    dsimp only
    rw [hfind]
    dsimp only
    rw [hready, himage]
    rfl
  exact congrArg _ hstart

/-- The active plane of the slot of an operation. -/
def activePlane (t : Nat) (o : MatOp) (s : State) : Plane := (Sparse.get ({} : MSlot) (tileOf s t).slots o.slot).active

/-- The tile register that an operation reads. -/
def aRegister (t : Nat) (o : MatOp) (s : State) : TileReg := Sparse.get {} (tileOf s t).xregs o.reg

theorem readScale_none (h : o.arrA = none) (h' : o.arrB = none) :
    readScale t o o.arrA s = (none, s) ∧ readScale t o o.arrB s = (none, s) := by
  rw [h, h']
  exact ⟨rfl, rfl⟩

theorem startMat_plain (hk : o.kind = .mdrain ∨ o.kind = .mswap ∨ o.kind = .macz ∨ o.kind = .msave) (hA : o.arrA = none)
    (hB : o.arrB = none) : startMat t o s = leaveAs t o o s := by
  obtain ⟨hrA, hrB⟩ := readScale_none (t := t) (s := s) hA hB
  unfold startMat
  rw [hrA]
  dsimp only
  rw [hrB]
  split
  case h_1 h | h_2 h | h_3 h => simp [h] at hk
  all_goals rfl

theorem startMat_mldw (hk : o.kind = .mldw) (hA : o.arrA = none) (hB : o.arrB = none) :
    startMat t o s = leaveAs t o { o with
      aRows := (aRegister t o s).rows, aStamp := (aRegister t o s).stamp, aRec := (aRegister t o s).srec } s := by
  obtain ⟨hrA, hrB⟩ := readScale_none (t := t) (s := s) hA hB
  unfold startMat
  rw [hrA]
  dsimp only
  rw [hrB]
  split
  case h_2 => rfl
  all_goals next h => exact nomatch hk.symm.trans h

theorem startMat_mrest (hk : o.kind = .mrest) (hA : o.arrA = none) (hB : o.arrB = none) :
    startMat t o s = readImage t o s := by
  obtain ⟨hrA, hrB⟩ := readScale_none (t := t) (s := s) hA hB
  unfold startMat
  rw [hrA]
  dsimp only
  rw [hrB]
  split
  case h_3 => rfl
  all_goals next h => exact nomatch hk.symm.trans h

/-- The state in which an operation has read its scales. -/
def scalesRead (t : Nat) (o : MatOp) (s : State) : State := (readScale t o o.arrB (readScale t o o.arrA s).2).2

theorem scalesRead_kept (t : Nat) (o : MatOp) (s : State) : OperandsKept t o.ctx s (scalesRead t o s) :=
  (readScale_kept t o o.arrA s).trans (readScale_kept ..)

/-- R169: the scales of A, from their array or from the record beside the register. -/
def scalesOfA (t : Nat) (o : MatOp) (s : State) : Except Cause (BitVec 256 × Bool) :=
  scalesOf (readScale t o o.arrA s).1 (aRegister t o s).stamp (aRegister t o s).srec

/-- R169: the scales of B, from their array or from the record beside the active plane. -/
def scalesOfB (t : Nat) (o : MatOp) (s : State) : Except Cause (BitVec 256 × Bool) :=
  scalesOf (readScale t o o.arrB (readScale t o o.arrA s).2).1 (activePlane t o s).stamp (activePlane t o s).srec

section
variable (hk : o.kind = .mmul)
include hk

theorem startMat_unscaled (he : eScl o.entry = false) (hA : o.arrA = none) (hB : o.arrB = none) :
    startMat t o s = leaveAs t o { o with aRows := (aRegister t o s).rows } s := by
  obtain ⟨hrA, hrB⟩ := readScale_none (t := t) (s := s) hA hB
  unfold startMat
  rw [hrA]
  dsimp only
  rw [hrB]
  split
  case h_1 => exact if_neg (Bool.eq_false_iff.mp he)
  all_goals next h => exact nomatch hk.symm.trans h

variable (he : eScl o.entry = true)
include he

theorem startMat_scaled : startMat t o s =
    let q := { o with aRows := (aRegister t o s).rows }
    match scalesOfA t o s with
    | .error k => deferMat t q k (scalesRead t o s)
    | .ok a =>
      match scalesOfB t o s with
      | .error k => deferMat t q k (scalesRead t o s)
      | .ok b => leaveAs t o { q with scA := a.1, scB := b.1, scPoison := a.2 || b.2 } (scalesRead t o s) := by
  have hkept := scalesRead_kept t o s
  unfold scalesOfA scalesOfB aRegister activePlane
  rw [← hkept.xregs, ← hkept.slots]
  unfold startMat
  dsimp only
  split
  case h_1 => exact if_pos he
  all_goals next h => exact nomatch hk.symm.trans h

/-- R169, R177: a fault of the scales of A defers an MMUL, whatever those of B are. -/
theorem startMat_defers {k : Cause} (h : scalesOfA t o s = .error k) :
    startMat t o s = deferMat t { o with aRows := (aRegister t o s).rows } k (scalesRead t o s) := by
  rw [startMat_scaled hk he, h]

theorem startMat_scales {a b : BitVec 256 × Bool} (ha : scalesOfA t o s = .ok a) (hb : scalesOfB t o s = .ok b) :
    startMat t o s = leaveAs t o { o with
      aRows := (aRegister t o s).rows, scA := a.1, scB := b.1, scPoison := a.2 || b.2 } (scalesRead t o s) := by
  rw [startMat_scaled hk he, ha, hb]

end

/-! The scales of an MMUL (R169). -/

/-- R169: the scales of a record that belongs to its data. -/
theorem scalesOf_record {stamp : W32} {r : ScaleRec} (h : r.stamp = stamp) (hn : stamp ≠ 0xFFFFFFFF) :
    scalesOf none stamp (some r) = .ok (r.bits, r.poison) := if_neg fun hx => hx.elim (absurd h) hn

theorem scalesOfA_absent (hA : o.arrA = none) (hr : (aRegister t o s).srec = none) :
    scalesOfA t o s = .error .scaleAbsent := by
  unfold scalesOfA
  rw [hA, hr]
  rfl

theorem scalesOfA_other {r : ScaleRec} (hA : o.arrA = none) (hr : (aRegister t o s).srec = some r)
    (h : r.stamp ≠ (aRegister t o s).stamp ∨ (aRegister t o s).stamp = 0xFFFFFFFF) :
    scalesOfA t o s = .error .scaleSequence := by
  unfold scalesOfA
  rw [hA, hr]
  exact if_pos h

/-- R169: the scales of two records that belong to their data. -/
theorem scales_records {ra rb : ScaleRec} (hA : o.arrA = none) (hB : o.arrB = none)
    (hra : (aRegister t o s).srec = some ra) (hsa : ra.stamp = (aRegister t o s).stamp)
    (hna : (aRegister t o s).stamp ≠ 0xFFFFFFFF) (hrb : (activePlane t o s).srec = some rb)
    (hsb : rb.stamp = (activePlane t o s).stamp) (hnb : (activePlane t o s).stamp ≠ 0xFFFFFFFF) :
    scalesOfA t o s = .ok (ra.bits, ra.poison) ∧ scalesOfB t o s = .ok (rb.bits, rb.poison) ∧ scalesRead t o s = s := by
  obtain ⟨hrA, hrB⟩ := readScale_none (t := t) (s := s) hA hB
  unfold scalesOfA scalesOfB scalesRead
  rw [hrA, hrB, hra, hrb]
  exact ⟨scalesOf_record hsa hna, scalesOf_record hsb hnb, rfl⟩

/-- R169: the scales of arrays in a scratchpad. -/
theorem scales_scratch {pa pb : Nat} (hA : o.arrA = some pa) (hB : o.arrB = some pb) (hpa : paRegion pa = 1)
    (hpb : paRegion pb = 1) (ha : s.asOf = none) (hp : Sparse.get none (tileOf s t).pairs o.ctx = none) :
    scalesOfA t o s = .ok (BitVec.ofNat 256 (s.mem.readN pa 32), segPoison s pa) ∧
      scalesOfB t o s = .ok (BitVec.ofNat 256 (s.mem.readN pb 32), segPoison s pb) ∧ (scalesRead t o s).mem = s.mem := by
  obtain ⟨hvalA, hkeptA⟩ := operandRead_scratch (t := t) (o := o) hpa ha hp 32
  obtain ⟨hvalB, hkeptB⟩ := operandRead_scratch (t := t) (o := o) hpb (hkeptA.asOf.trans ha) hkeptA.unpaired 32
  unfold scalesOfA scalesOfB scalesRead
  rw [hA, hB, readScale_some, readScale_some, hvalA, hvalB, hkeptA.mem]
  refine ⟨rfl, ?_, hkeptB.mem.trans hkeptA.mem⟩
  unfold segPoison
  rw [hkeptA.poison]
  rfl

end Sys2Proof.Machine
end

section
/-! SUPPORT. MREST (R175): the segments of its image, and the slot that the whole image loads. -/

namespace Sys2Proof.Machine

variable {s : State} {t : Nat} {o : MatOp}

/-- A table given for the keys of a list. -/
theorem get_map_key {α : Type} (d : α) (f : Nat → α) {l : List Nat} {r : Nat} (h : r ∈ l) :
    Sparse.get d (l.map fun k => (k, f k)) r = f r := by
  induction l with
  | nil => simp at h
  | cons k l ih =>
    rw [List.map_cons, Sparse.get]
    by_cases hk : k = r
    · rw [if_pos hk, hk]
    · rw [if_neg hk]
      exact ih ((List.mem_cons.mp h).resolve_left (Ne.symm hk))

/-- R175: a row of an image, poisoned with its bit or with the segment that held it. -/
theorem get_poisonRows_rowsFrom (bad : List Nat) (m : Memory) (off bits : Nat) {r : Nat} (hr : r < 16) :
    Sparse.get ({} : Row) (poisonRows bad off (rowsFrom m off bits)) r =
      { bits := BitVec.ofNat 512 (m.readN (off + 64 * r) 64), poison := bits.testBit r || bad.contains (off / 64 + r) } := by
  unfold poisonRows rowsFrom
  rw [List.map_map]
  refine (get_map_key ({} : Row) _ (List.mem_range.mpr hr)).trans ?_
  rw [Nat.testBit_eq_decide_div_mod_eq]

/-! One segment of the image. -/

/-- R266: the segment of an image that the turn moves next. -/
def nextSegment (s : State) (o : MatOp) : Nat := o.left.getD (s.pick % o.left.length) 0

theorem imageNext_of_left (h : o.left ≠ []) : imageNext s o =
    some (nextSegment s o, o.pas.getD (nextSegment s o) 0, o.left.eraseIdx (s.pick % o.left.length)) := by
  have hlt : s.pick % o.left.length < o.left.length := Nat.mod_lt _ (List.length_pos_iff.mpr h)
  unfold imageNext pickOne pickOf nextSegment
  simp [hlt]

theorem imageNext_of_done (h : o.left = []) : imageNext s o = none := by
  unfold imageNext pickOne
  simp [h]

/-- R175: an MREST that has read the segment `n`, its bytes and its poison. -/
def segmentRead (s : State) (o : MatOp) (n : Nat) (v : Nat × Bool) : MatOp :=
  { o with
    left := o.left.eraseIdx (s.pick % o.left.length), since := 0, buf := Memory.writeN (64 * n) v.1 64 o.buf
    bad := if v.2 then insertNat n o.bad else o.bad }

theorem readImage_of_left (h : o.left ≠ []) : readImage t o s =
    let r := operandRead t o (o.pas.getD (nextSegment s o) 0) 64 s
    modOp t o.id (fun _ => segmentRead s o (nextSegment s o) r.1) r.2 := by
  unfold readImage
  rw [imageNext_of_left h]
  rfl

theorem readImage_segment {pa : Nat} (h : o.left ≠ []) (hpa : o.pas.getD (nextSegment s o) 0 = pa) (hr : paRegion pa = 1)
    (ha : s.asOf = none) (hp : Sparse.get none (tileOf s t).pairs o.ctx = none) :
    (readImage t o s).mem = s.mem ∧ (tileOf (readImage t o s) t).slots = (tileOf s t).slots ∧
      (tileOf (readImage t o s) t).matq = (tileOf s t).matq.map fun m =>
        if m.id = o.id then segmentRead s o (nextSegment s o) (s.mem.readN pa 64, segPoison s pa) else m := by
  obtain ⟨hval, hkept⟩ := operandRead_scratch (t := t) (o := o) hr ha hp 64
  rw [readImage_of_left h, hpa]
  unfold modOp
  dsimp only
  rw [hval, tileOf_modTile_same]
  refine ⟨hkept.mem, hkept.slots, ?_⟩
  rw [hkept.matq]

theorem readImage_done (h : o.left = []) : readImage t o s = restoreSlot t o s := by
  unfold readImage
  rw [imageNext_of_done h]

/-! The slot that a whole image loads. -/

theorem readN_one (m : Memory) (a : Nat) : m.readN a 1 = (m.read a).toNat := by simp [Memory.readN]

/-- R175: an image whose header is poisoned, or of another version. -/
theorem restoreSlot_defers (h : o.bad.contains 0 = true ∨ o.bad.contains 1 = true ∨ (o.buf.read 0).toNat ≠ 3) :
    restoreSlot t o s = deferMat t o .accImage s := by
  unfold restoreSlot
  rw [readN_one]
  exact if_pos h

/-- R175: the slot of an image without a MACZ behind it. -/
def restored (o : MatOp) (owner : Option Nat) : MSlot :=
  let z := slotFrom o.buf 0 owner
  { z with
    active := { z.active with rows := poisonRows o.bad 128 z.active.rows }
    shadow := { z.shadow with rows := poisonRows o.bad 1152 z.shadow.rows }
    acc := poisonRows o.bad 2176 z.acc }

theorem restoreSlot_loads (h0 : o.bad.contains 0 = false) (h1 : o.bad.contains 1 = false) (hv : (o.buf.read 0).toNat = 3)
    (hmacz : (tileOf s t).matq.any (fun p => decide (p.kind = .macz) && decide (p.slot = o.slot) && decide (o.id < p.id)) = false) :
    (restoreSlot t o s).mem = s.mem ∧ Sparse.get {} (tileOf (restoreSlot t o s) t).slots o.slot =
      restored o (Sparse.get ({} : MSlot) (tileOf s t).slots o.slot).owner := by
  have hok : ¬(o.bad.contains 0 = true ∨ o.bad.contains 1 = true ∨ o.buf.readN 0 1 ≠ 3) := by
    rw [h0, h1, readN_one, hv]
    simp
  unfold restoreSlot
  rw [if_neg hok, hmacz]
  refine ⟨rfl, ?_⟩
  rw [tileOf_modTile_same]
  unfold passKind
  refine (Sparse.get_set_same ..).trans ?_
  unfold modOp
  rw [tileOf_modTile_same]
  rfl

theorem getLsbD_byte (x : Byte) (i : Nat) : x.getLsbD i = decide (x.toNat / 2 ^ i % 2 = 1) :=
  (BitVec.testBit_toNat x).symm.trans (Nat.testBit_eq_decide_div_mod_eq ..)

/-- R175: the kind that the header of an image gives. -/
theorem restored_kind (o : MatOp) (owner : Option Nat) : (restored o owner).kind =
    if (o.buf.read 1).getLsbD 5 then some ((o.buf.read 1).toNat % 16, (o.buf.read 1).getLsbD 4) else none := by
  rw [getLsbD_byte, getLsbD_byte, ← readN_one]
  simp only [decide_eq_true_eq]
  rfl

/-- A bit of the first byte of two. -/
theorem bit_readN_two (m : Memory) (a : Nat) {i : Nat} (hi : i < 8) :
    decide (m.readN a 2 / 2 ^ i % 2 = 1) = (m.read a).getLsbD i := by
  have hbyte : m.readN a 2 = 2 ^ 8 * (m.read (a + 1)).toNat + (m.read a).toNat := by
    simp [Memory.readN, Nat.add_comm]
  rw [← Nat.testBit_eq_decide_div_mod_eq, hbyte, Nat.testBit_two_pow_mul_add _ (m.read a).isLt, if_pos hi]
  exact BitVec.testBit_toNat _

theorem restored_active_srec (o : MatOp) (owner : Option Nat) : (restored o owner).active.srec =
    if (o.buf.read 2).getLsbD 0 then some {
      bits := BitVec.ofNat 256 (o.buf.readN 32 32), stamp := BitVec.ofNat 32 (o.buf.readN 24 4)
      poison := (o.buf.read 2).getLsbD 2 } else none := by
  rw [← bit_readN_two _ _ (by decide), ← bit_readN_two _ _ (by decide), Nat.pow_zero, Nat.div_one]
  rfl

theorem restored_shadow_srec (o : MatOp) (owner : Option Nat) : (restored o owner).shadow.srec =
    if (o.buf.read 2).getLsbD 1 then some {
      bits := BitVec.ofNat 256 (o.buf.readN 64 32), stamp := BitVec.ofNat 32 (o.buf.readN 28 4)
      poison := (o.buf.read 2).getLsbD 3 } else none := by
  rw [← bit_readN_two _ _ (by decide), ← bit_readN_two _ _ (by decide)]
  rfl

end Sys2Proof.Machine
end

section
/-! SUPPORT. What a matrix operation does when it completes (R161, R170 to R175): to its slot, to the register of a drain and to
the flags of its context. -/

namespace Sys2Proof.Machine

variable {s u : State} {t k : Nat} {o : MatOp}

/-! The end of an operation (R161). -/

/-- R161: a state in which the operation has left the queue. -/
def dequeue (t k : Nat) (s : State) : State :=
  modTile t (fun x => { x with matq := x.matq.filter fun p => decide (p.id ≠ k) }) s

theorem tileOf_dequeue (t k : Nat) (s : State) : tileOf (dequeue t k s) t =
    { tileOf s t with matq := (tileOf s t).matq.filter fun p => decide (p.id ≠ k) } := tileOf_modTile_same ..

theorem xregs_dequeue (t k : Nat) (s : State) : (tileOf (dequeue t k s) t).xregs = (tileOf s t).xregs := by
  rw [tileOf_dequeue]

theorem ctxOf_dequeue (t k c : Nat) (s : State) : ctxOf (dequeue t k s) t c = ctxOf s t c := by
  unfold ctxOf
  rw [tileOf_dequeue]
  rfl

section
variable (hfind : (tileOf s t).matq.find? (fun x => decide (x.id = k) && x.started) = some o) (hfail : o.fail = .none_)
include hfind hfail

theorem exec_matrixOpComplete (h : o.kind = .msave → o.left = []) :
    exec (.matrixOpComplete t k) s = .next (dequeue t k (finishMat t o s)) := by
  have hnext : (if o.kind = .msave then imageNext s o else none) = none := ite_eq_right_iff.mpr fun hk => imageNext_of_done (h hk)
  have hblocked : (if o.kind = .msave then imageBlocked s t o else none) = none := by
    refine ite_eq_right_iff.mpr fun hk => ?_
    unfold imageBlocked
    rw [imageNext_of_done (h hk)]
  have hend : matrixOpComplete t k s = dequeue t k (finishMat t o s) := by
    unfold matrixOpComplete
    rw [hfind]
    dsimp only
    rw [if_neg (not_not.mpr hfail), hblocked, hnext]
    rfl
  exact congrArg _ hend

theorem exec_matrixOpComplete_segment {b : Nat} (hk : o.kind = .msave) (hleft : o.left ≠ [])
    (hb : o.pas.getD (nextSegment s o) 0 = b) (hr : paRegion b = 1) : exec (.matrixOpComplete t k) s =
      .next (saveSegment t o (nextSegment s o) b (o.left.eraseIdx (s.pick % o.left.length)) s) := by
  have hnext := imageNext_of_left (s := s) hleft
  rw [hb] at hnext
  have hblocked : imageBlocked s t o = none := by
    unfold imageBlocked
    rw [hnext]
    exact if_neg (by omega)
  have hend : matrixOpComplete t k s =
      saveSegment t o (nextSegment s o) b (o.left.eraseIdx (s.pick % o.left.length)) s := by
    unfold matrixOpComplete
    rw [hfind]
    dsimp only
    rw [if_neg (not_not.mpr hfail), if_pos hk, if_pos hk, hblocked, hnext]
  exact congrArg _ hend

end

/-! Effects on the slot alone. -/

/-- R170 to R172: a slot replaced. -/
def putSlot (t j : Nat) (z : MSlot) (s : State) : State := modTile t (fun x => { x with slots := Sparse.set j z x.slots }) s

theorem slot_putSlot (t j : Nat) (z : MSlot) (s : State) : Sparse.get {} (tileOf (putSlot t j z s) t).slots j = z := by
  unfold putSlot
  rw [tileOf_modTile_same]
  exact Sparse.get_set_same ..

theorem matq_putSlot (t j : Nat) (z : MSlot) (s : State) : (tileOf (putSlot t j z s) t).matq = (tileOf s t).matq := by
  unfold putSlot
  rw [tileOf_modTile_same]

theorem ctxOf_putSlot (t j : Nat) (z : MSlot) (s : State) (c : Nat) : ctxOf (putSlot t j z s) t c = ctxOf s t c := by
  unfold ctxOf putSlot
  rw [tileOf_modTile_same]
  rfl

/-- The slot of an operation. -/
def opSlot (t : Nat) (o : MatOp) (s : State) : MSlot := Sparse.get {} (tileOf s t).slots o.slot

theorem finishMat_mldw (hk : o.kind = .mldw) : finishMat t o s = putSlot t o.slot
    { opSlot t o s with shadow := { rows := o.aRows, stamp := o.aStamp, srec := o.aRec } } s := by
  unfold finishMat
  rw [hk]
  rfl

theorem finishMat_mswap (hk : o.kind = .mswap) : finishMat t o s = putSlot t o.slot
    { opSlot t o s with active := (opSlot t o s).shadow, shadow := (opSlot t o s).active } s := by
  unfold finishMat
  rw [hk]
  rfl

theorem finishMat_image (hk : o.kind = .msave ∨ o.kind = .mrest) : finishMat t o s = s := by
  unfold finishMat
  obtain hk | hk := hk <;> rw [hk]

/-- R170: a row of which every element is IDENT. -/
def identRow (e : Word) : Row := { bits := BitVec.ofNat 512 (packElems 32 (List.replicate 16 (eIdent e))) }

theorem finishMat_macz (hk : o.kind = .macz) : finishMat t o s = putSlot t o.slot
    { opSlot t o s with acc := (List.range 16).map fun r => (r, identRow o.entry) } s := by
  unfold finishMat
  rw [hk]
  rfl

theorem accElem_identRow (e : Word) {n : Nat} (hn : n < 16) : accElem (identRow e) n = eIdent e := by
  have hlt : eIdent e < 2 ^ 32 := Nat.mod_lt _ (by decide)
  unfold accElem identRow
  rw [elem_pack (by simp), List.getD_eq_getElem _ _ (by simpa using hn), List.getElem_replicate, Nat.mod_eq_of_lt hlt]

/-! Flags. -/

/-- The bits of flags collected over a list. -/
theorem testBit_foldl_or {α : Type} (f : α → Nat) (l : List α) (n i : Nat) :
    (l.foldl (fun a x => a ||| f x) n).testBit i = (n.testBit i || l.any fun x => (f x).testBit i) := by
  induction l generalizing n with
  | nil => simp
  | cons x l ih => rw [List.foldl_cons, ih, Nat.testBit_or, List.any_cons, Bool.or_assoc]

theorem any_range_of_le {k m : Nat} (h : k ≤ m) (p : Nat → Bool) :
    ((List.range m).any fun n => decide (n < k) && p n) = (List.range k).any p := by
  rw [Bool.eq_iff_iff]
  simp only [List.any_eq_true, List.mem_range, Bool.and_eq_true, decide_eq_true_eq]
  constructor
  · rintro ⟨n, -, hn, hp⟩
    exact ⟨n, hn, hp⟩
  · rintro ⟨n, hn, hp⟩
    exact ⟨n, by omega, hn, hp⟩

/-- R262: the flags of MXFLAGS that a context gains. -/
theorem mxflags_raiseMx (t c f : Nat) (s : State) {i : Nat} (hi : i < 64) :
    (ctxOf (raiseMx t c f s) t c).mxflags.getLsbD i =
      ((ctxOf s t c).mxflags.getLsbD i || ((0x5D : Nat).testBit i && f.testBit i)) := by
  unfold raiseMx
  rw [ctxOf_modCtx_same]
  dsimp only
  rw [BitVec.getLsbD_or, BitVec.getLsbD_ofNat, decide_eq_true hi, Bool.true_and, Nat.testBit_and, Bool.and_comm (f.testBit i)]

theorem fpflags_raiseMx (t c f : Nat) (s : State) : (ctxOf (raiseMx t c f s) t c).fpflags = (ctxOf s t c).fpflags := by
  unfold raiseMx
  rw [ctxOf_modCtx_same]

theorem ctxOf_raiseMx_congr {c : Nat} (h : ctxOf u t c = ctxOf s t c) (f : Nat) :
    ctxOf (raiseMx t c f u) t c = ctxOf (raiseMx t c f s) t c := by
  unfold raiseMx
  rw [ctxOf_modCtx_same, ctxOf_modCtx_same, h]

theorem tileOf_raiseMx (t c f : Nat) (s : State) :
    (tileOf (raiseMx t c f s) t).slots = (tileOf s t).slots ∧ (tileOf (raiseMx t c f s) t).matq = (tileOf s t).matq ∧
      (tileOf (raiseMx t c f s) t).xregs = (tileOf s t).xregs := by
  unfold raiseMx
  rw [tileOf_modCtx_same]
  exact ⟨rfl, rfl, rfl⟩

/-! The row passes of an MMUL (R173). -/

/-- R173: one element of an MMUL: what the row pass gives, with its flags. -/
def mulElem (o : MatOp) (z : MSlot) (r n : Nat) : Nat × Nat :=
  rowPass o.entry (accElem (Sparse.get ({} : Row) z.acc r) n) (Sparse.get ({} : Row) o.aRows r).bits
    (Sparse.get ({} : Row) z.active.rows n).bits (if eScl o.entry then scaleNum o.scA r else .fin false 1 0)
    (if eScl o.entry then scaleNum o.scB n else .fin false 1 0)

/-- R173: an element of an accumulator row and its flags, in a column of the operation or beside its columns. -/
def mulCell (o : MatOp) (z : MSlot) (r n : Nat) : Nat × Nat :=
  if n < o.ncol then mulElem o z r n else (accElem (Sparse.get ({} : Row) z.acc r) n, 0)

theorem mulRow_elem (o : MatOp) (z : MSlot) (r : Nat) {n : Nat} (hn : n < 16) : accElem (mulRow o z r).1 n =
    if n < o.ncol then (mulElem o z r n).1 % 2 ^ 32 else accElem (Sparse.get ({} : Row) z.acc r) n := by
  have hcell : accElem (mulRow o z r).1 n = (mulCell o z r n).1 % 2 ^ 32 := by
    refine (elem_pack (by simp)).trans ?_
    rw [List.getD_eq_getElem _ _ (by simpa using hn)]
    simp only [List.getElem_map, List.getElem_range]
    rfl
  rw [hcell, mulCell]
  split
  · rfl
  · exact elem_mod ..

theorem mulRow_flags (o : MatOp) (z : MSlot) (r i : Nat) (h : o.ncol ≤ 16) :
    (mulRow o z r).2.testBit i = (List.range o.ncol).any fun n => (mulElem o z r n).2.testBit i := by
  have hcells : (mulRow o z r).2 = ((List.range 16).map (mulCell o z r)).foldl (fun f x => f ||| x.2) 0 := rfl
  rw [hcells, testBit_foldl_or, Nat.zero_testBit, Bool.false_or, List.any_map, ← any_range_of_le h]
  congr 1
  funext n
  simp only [Function.comp, mulCell]
  split <;> simp [*]

theorem mulRow_poison (o : MatOp) (z : MSlot) (r : Nat) (h : o.ncol ≤ 16) : (mulRow o z r).1.poison =
    ((Sparse.get ({} : Row) z.acc r).poison || (Sparse.get ({} : Row) o.aRows r).poison || o.scPoison ||
      (List.range o.ncol).any (fun n => (Sparse.get ({} : Row) z.active.rows n).poison) ||
      (eExc o.entry && (List.range o.ncol).any fun n => decide ((mulElem o z r n).2 % 2 = 1))) := by
  have hflag : decide ((mulRow o z r).2 % 2 = 1) = (List.range o.ncol).any fun n => decide ((mulElem o z r n).2 % 2 = 1) := by
    simp only [← Nat.testBit_zero]
    exact mulRow_flags o z r 0 h
  rw [← hflag]
  simp only [mulRow, Bool.or_assoc]

/-- R173: a slot after the first `k` rows of an MMUL, and their flags; `mulSlot` is this after all its rows. -/
def mulRows (o : MatOp) (z : MSlot) (k : Nat) : MSlot × Nat :=
  (List.range k).foldl (fun zf k =>
    let v := mulRow o z (o.first + k)
    ({ zf.1 with acc := Sparse.set (o.first + k) v.1 zf.1.acc }, zf.2 ||| v.2)) (z, 0)

theorem mulRows_succ (o : MatOp) (z : MSlot) (k : Nat) : mulRows o z (k + 1) =
    ({ (mulRows o z k).1 with acc := Sparse.set (o.first + k) (mulRow o z (o.first + k)).1 (mulRows o z k).1.acc },
      (mulRows o z k).2 ||| (mulRow o z (o.first + k)).2) := by
  unfold mulRows
  rw [List.range_succ, List.foldl_append]
  rfl

theorem mulRows_acc (o : MatOp) (z : MSlot) (k r : Nat) : Sparse.get ({} : Row) (mulRows o z k).1.acc r =
    if o.first ≤ r ∧ r < o.first + k then (mulRow o z r).1 else Sparse.get {} z.acc r := by
  induction k with
  | zero => exact (if_neg (by omega)).symm
  | succ k ih =>
    rw [mulRows_succ]
    dsimp only
    rw [Sparse.get_set, ih]
    by_cases hr : r = o.first + k
    · rw [if_pos hr, if_pos (by omega), hr]
    · rw [if_neg hr]
      exact if_congr (by omega) rfl rfl

theorem mulRows_rest (o : MatOp) (z : MSlot) (k : Nat) : (mulRows o z k).1.kind = z.kind ∧
    (mulRows o z k).1.active = z.active ∧ (mulRows o z k).1.shadow = z.shadow := by
  induction k with
  | zero => exact ⟨rfl, rfl, rfl⟩
  | succ k ih => rwa [mulRows_succ]

theorem mulRows_flags (o : MatOp) (z : MSlot) (k i : Nat) (h : o.ncol ≤ 16) : (mulRows o z k).2.testBit i =
    (List.range k).any fun r => (List.range o.ncol).any fun n => (mulElem o z (o.first + r) n).2.testBit i := by
  induction k with
  | zero => exact Nat.zero_testBit i
  | succ k ih =>
    rw [mulRows_succ, List.range_succ, List.any_append, Nat.testBit_or, ih, mulRow_flags _ _ _ _ h]
    simp

theorem finishMat_mmul (hk : o.kind = .mmul) :
    let v := mulRows o (opSlot t o s) o.nrow
    opSlot t o (finishMat t o s) = v.1 ∧ (tileOf (finishMat t o s) t).matq = (tileOf s t).matq ∧
      ctxOf (finishMat t o s) t o.ctx = ctxOf (raiseMx t o.ctx v.2 s) t o.ctx := by
  intro v
  have hchecked (u : State) : Observed u (if o.mck = true then relAdd t 2 32 32 u else u) := .ite (observed_relAdd ..) (.refl u)
  have hretried (u : State) : Observed u (if o.retried = true then relAdd t 2 16 16 u else u) :=
    .ite (observed_relAdd ..) (.refl u)
  have hseen : Observed (raiseMx t o.ctx v.2 (putSlot t o.slot v.1 s)) (finishMat t o s) := by
    unfold finishMat
    rw [hk]
    exact ((hchecked _).trans (hretried _)).trans (observed_countAt ..)
  obtain ⟨hslots, hmatq, -⟩ := tileOf_raiseMx t o.ctx v.2 (putSlot t o.slot v.1 s)
  refine ⟨?_, (hseen.matq t).trans (hmatq.trans (matq_putSlot ..)),
    (hseen.ctxOf_eq t o.ctx).trans (ctxOf_raiseMx_congr (ctxOf_putSlot ..) _)⟩
  unfold opSlot
  rw [hseen.slots, hslots]
  exact slot_putSlot ..

/-! The rows of a drain (R174). -/

/-- An element of a row packed from elements of which some may lie beyond it. -/
theorem elem_pack_of_fits {w n : Nat} (l : List Nat) (h : w * (n + 1) ≤ 512) :
    elem w (BitVec.ofNat 512 (packElems w l)) n = l.getD n 0 % 2 ^ w := by
  rw [← packElems_div, elem, BitVec.toNat_ofNat]
  apply Nat.eq_of_testBit_eq
  intro i
  rw [Nat.mul_succ] at h
  simp only [Nat.testBit_mod_two_pow, Nat.testBit_div_two_pow]
  by_cases hi : i < w
  · rw [decide_eq_true (show i + w * n < 512 by omega), Bool.true_and]
  · rw [decide_eq_false hi, Bool.false_and, Bool.false_and]

theorem drainRow_elem (cat : Nat) (i32 : Bool) (ty : Ty) (r : Row) {n : Nat} (hn : n < tyCount ty) :
    elem (tyWidth ty) (drainRow cat i32 ty r).1.bits n =
      if n < 16 then (drainElem cat i32 ty (accElem r n)).1 % 2 ^ tyWidth ty else 0 := by
  have hfit : tyWidth ty * (n + 1) ≤ 512 := (Nat.mul_le_mul_left _ hn).trans_eq (width_count ty)
  refine (elem_pack_of_fits _ hfit).trans ?_
  split
  next h => rw [List.getD_eq_getElem _ _ (by simpa using h)]; simp
  next h => rw [List.getD_eq_default _ _ (by simpa using h), Nat.zero_mod]

theorem drainRow_poison (cat : Nat) (i32 : Bool) (ty : Ty) (r : Row) : (drainRow cat i32 ty r).1.poison = r.poison := by
  simp only [drainRow]

theorem drainRow_flags (cat : Nat) (i32 : Bool) (ty : Ty) (r : Row) (i : Nat) : (drainRow cat i32 ty r).2.testBit i =
    (List.range 16).any fun n => (drainElem cat i32 ty (accElem r n)).2.testBit i := by
  unfold drainRow
  dsimp only
  rw [testBit_foldl_or, Nat.zero_testBit, Bool.false_or, List.any_map]
  rfl

theorem drainRows_flags (cat : Nat) (i32 : Bool) (ty : Ty) (acc : Sparse Row) (i : Nat) :
    (drainRows cat i32 ty acc).2.testBit i = (List.range 16).any fun r => (List.range 16).any fun n =>
      (drainElem cat i32 ty (accElem (Sparse.get ({} : Row) acc r) n)).2.testBit i := by
  unfold drainRows
  dsimp only
  rw [testBit_foldl_or, Nat.zero_testBit, Bool.false_or, List.any_map]
  exact congrArg (List.range 16).any (funext fun r => drainRow_flags ..)

theorem drainRows_getD (cat : Nat) (i32 : Bool) (ty : Ty) (acc : Sparse Row) (d : Row) {r : Nat} (hr : r < 16) :
    (drainRows cat i32 ty acc).1.getD r d = (drainRow cat i32 ty (Sparse.get {} acc r)).1 := by
  unfold drainRows
  dsimp only
  rw [List.getD_eq_getElem _ _ (by simpa using hr), List.getElem_map, List.getElem_map, List.getElem_range]

/-- R174: rows written to a register from row 0 on. -/
def putRows (p : Nat) (l : List Row) (now : Nat) (x : Tile) : Tile := l.zipIdx.foldl (fun x rk => putRow p rk.2 rk.1 now x) x

theorem putRows_append (p : Nat) (l : List Row) (v : Row) (now : Nat) (x : Tile) :
    putRows p (l ++ [v]) now x = putRow p l.length v now (putRows p l now x) := by
  unfold putRows
  rw [List.zipIdx_append, List.foldl_append]
  simp

theorem rowIn_putRows (p : Nat) (l : List Row) (now : Nat) (x : Tile) (r : Nat) :
    rowIn (putRows p l now x) p r = l.getD r (rowIn x p r) := by
  induction l using List.reverseRecOn with
  | nil => rfl
  | append_singleton l v ih =>
    rw [putRows_append, rowIn_putRow, ih]
    by_cases hr : r = l.length
    · simp [hr]
    · simp only [hr, and_false, if_false, List.getD_eq_getElem?_getD, List.getElem?_append]
      split
      · rfl
      · rw [List.getElem?_eq_none (by omega), List.getElem?_eq_none (by simp; omega)]

theorem rowIn_congr {x y : Tile} (h : x.xregs = y.xregs) (p r : Nat) : rowIn x p r = rowIn y p r :=
  congrArg (fun m => Sparse.get ({} : Row) (Sparse.get ({} : TileReg) m p).rows r) h

/-- R168: a register of which a row was written has no stamp. -/
theorem stamp_putRows (p : Nat) {l : List Row} (h : l ≠ []) (now : Nat) (x : Tile) :
    (Sparse.get {} (putRows p l now x).xregs p).stamp = 0xFFFFFFFF := by
  obtain rfl | ⟨l', v, rfl⟩ := l.eq_nil_or_concat
  · exact absurd rfl h
  rw [List.concat_eq_append, putRows_append]
  unfold putRow
  rw [Sparse.get_modify_same]

/-- A part of a tile beside its registers. -/
theorem part_putRows {α : Type} (part : Tile → α) (hp : ∀ (x : Tile) m, part { x with xregs := m } = part x) (p : Nat)
    (l : List Row) (now : Nat) (x : Tile) : part (putRows p l now x) = part x :=
  List.foldlRecOn (motive := fun y => part y = part x) _ _ rfl fun y h _ _ => (hp y _).trans h

/-- R388: the rows of a drain in the fingerprint of a pair. -/
def printDrained (t c : Nat) (l : List Row) (s : State) : State :=
  l.foldl (fun s r => notePrint t c 8 r.bits.toNat r.bits.toNat s) s

theorem observed_printDrained (t c : Nat) (l : List Row) : Observed s (printDrained t c l s) :=
  observed_foldl (fun _ _ => observed_notePrint ..) l s

theorem printDrained_mem (t c : Nat) (l : List Row) (s : State) : (printDrained t c l s).mem = s.mem :=
  List.foldlRecOn (motive := fun u : State => u.mem = s.mem) _ _ rfl fun _ h _ _ => (notePrint_mem ..).trans h

theorem finishMat_mdrain {cat : Nat} {i32 : Bool} (hk : o.kind = .mdrain) (hat : o.kindAt = some (cat, i32)) :
    let v := drainRows cat i32 o.ty (opSlot t o s).acc
    (finishMat t o s).mem = s.mem ∧ (tileOf (finishMat t o s) t).slots = (tileOf s t).slots ∧
      (tileOf (finishMat t o s) t).matq = (tileOf s t).matq ∧
      (Sparse.get {} (tileOf (finishMat t o s) t).xregs o.reg).stamp = 0xFFFFFFFF ∧
      (∀ r, r < 16 → rowIn (tileOf (finishMat t o s) t) o.reg r = (drainRow cat i32 o.ty (Sparse.get {} (opSlot t o s).acc r)).1) ∧
      ctxOf (finishMat t o s) t o.ctx = ctxOf (raiseMx t o.ctx v.2 s) t o.ctx := by
  intro v
  have hprinted : Observed s (printDrained t o.ctx v.1 s) := observed_printDrained ..
  have hmem := printDrained_mem t o.ctx v.1 s
  have hend : finishMat t o s = raiseMx t o.ctx v.2 (modTile t (putRows o.reg v.1 (printDrained t o.ctx v.1 s).time)
      (printDrained t o.ctx v.1 s)) := by
    unfold finishMat
    rw [hk, hat]
    rfl
  rw [hend]
  have hrows (d : Row) {r : Nat} (hr : r < 16) : v.1.getD r d = (drainRow cat i32 o.ty (Sparse.get {} (opSlot t o s).acc r)).1 :=
    drainRows_getD _ _ _ _ d hr
  have hne : v.1 ≠ [] := List.ne_nil_of_length_pos (by simp [v, drainRows])
  clear_value v
  generalize printDrained t o.ctx v.1 s = u at *
  have hpart {α : Type} (part : Tile → α) (hp : ∀ (x : Tile) m, part { x with xregs := m } = part x) :
      part (tileOf (modTile t (putRows o.reg v.1 u.time) u) t) = part (tileOf u t) :=
    (congrArg part (tileOf_modTile_same ..)).trans (part_putRows part hp ..)
  obtain ⟨hslots, hmatq, hxregs⟩ := tileOf_raiseMx t o.ctx v.2 (modTile t (putRows o.reg v.1 u.time) u)
  rw [tileOf_modTile_same] at hxregs
  refine ⟨hmem, hslots.trans ((hpart Tile.slots fun _ _ => rfl).trans (hprinted.slots t)),
    hmatq.trans ((hpart Tile.matq fun _ _ => rfl).trans (hprinted.matq t)),
    ?_, fun r hr => ?_, ctxOf_raiseMx_congr ?_ _⟩
  · rw [hxregs]
    exact stamp_putRows o.reg hne ..
  · rw [rowIn_congr hxregs, rowIn_putRows]
    exact hrows _ hr
  exact (hpart (fun x => ctxIn x o.ctx) fun _ _ => rfl).trans (hprinted.ctxOf_eq t o.ctx)

/-! The segments of an MSAVE (R175). -/

/-- R175: the image that an MSAVE writes, with the kind of its place in the queue. -/
def savedImage (t : Nat) (o : MatOp) (s : State) : Memory := slotImage { opSlot t o s with kind := o.kindAt }

theorem ctxStore_scratch {b : Nat} (hp : Sparse.get none (tileOf s t).pairs o.ctx = none)
    (hpair : (tileOf s t).pairOf = none) (n v : Nat) : ctxStore t o.ctx b n v false s = homeStore b n v false s := by
  have hstored : (tileOf (homeStore b n v false s) t).pairOf = none :=
    (homeStore_part Tile.pairOf (fun _ => rfl) ..).trans hpair
  have hshadow : shadowOf (homeStore b n v false s) t = none := by
    unfold shadowOf
    dsimp only
    rw [hstored]
    exact ite_self _
  have hprint (k x y : Nat) : notePrint t o.ctx k x y s = s := modPair_unpaired hp _
  have hundo : noteUndo t o.ctx b n s = s := modPair_unpaired hp _
  unfold ctxStore
  dsimp only
  rw [hprint, hundo, hshadow]

/-- R175: an MSAVE that has written a segment. -/
theorem saveSegment_scratch {b n : Nat} {rest : List Nat} (hr : paRegion b = 1)
    (hp : Sparse.get none (tileOf s t).pairs o.ctx = none) (hpair : (tileOf s t).pairOf = none) :
    ∃ w, w.mem = Memory.writeN b ((savedImage t o s).readN (64 * n) 64) 64 s.mem ∧
      (b % 64 = 0 → segPoison w b = false) ∧ (tileOf w t).slots = (tileOf s t).slots ∧
      (tileOf w t).matq = (tileOf s t).matq ∧
      saveSegment t o n b rest s = modOp t o.id (fun p => { p with left := rest, since := 0 }) w := by
  refine ⟨ctxWrites t o.ctx o.id o.sight (homeStore b 64 ((savedImage t o s).readN (64 * n) 64) false) s,
    homeStore_mem .., fun hb => segPoison_homeStore_full hb _ s, homeStore_part Tile.slots (fun _ => rfl) ..,
    homeStore_part Tile.matq (fun _ => rfl) .., ?_⟩
  have hstore := ctxStore_scratch (b := b) hp hpair 64 ((savedImage t o s).readN (64 * n) 64)
  unfold savedImage opSlot at hstore
  unfold saveSegment ctxWrites tagged savedImage opSlot
  dsimp only
  rw [opBank_scratch hr, hstore]

end Sys2Proof.Machine
end

section
/-! The events of the matrix queue (O29). -/

namespace Sys2Proof.Machine

/-- Settles O29: what leaves the head is one `leaveAs` or one `deferMat`, by the kind of the operation and its scales; what
completes leaves the queue after the effect of its kind, whose lemmas stand above. -/
theorem matrixQueueEvents : Obligations.MatrixQueueEvents := by
  refine ⟨fun t o s hfind hready himage => ?starts, fun t k o s hfind hfail => ?completes⟩
  case starts =>
    intro g plane defers left
    have hexec := exec_matrixOpStart hfind hready himage
    have leaves {q : MatOp} (h : startMat t o s = leaveAs t o q s) : left q := hexec.trans (congrArg _ h)
    have defer {q : MatOp} {k : Cause} {u : State} (h : startMat t o s = deferMat t q k u) (hid : o.id = q.id)
        (hctx : o.ctx = q.ctx) (hslot : o.slot = q.slot) (hseq : q.seq = o.seq) (hu : OperandsKept t q.ctx s u)
        (hrun : (ctxOf s t o.ctx).phase = .running) : defers k := by
      rw [hctx] at hrun
      obtain ⟨hout, hslots, hpend⟩ := deferMat_effect (k := k) (hu.phase.trans hrun) hid hctx hslot
      rw [hu.pend, ← hctx, ← hslot, hseq] at hpend
      exact ⟨_, hexec.trans (congrArg _ h), hout, hslots.trans hu.slots, hpend⟩
    refine ⟨fun hk hA hB => leaves (startMat_plain hk hA hB), fun hk hA hB => leaves (startMat_mldw hk hA hB),
      fun hk he hA hB => leaves (startMat_unscaled hk he hA hB), fun hk he hA _ hg hrun => ?absent,
      fun ra hk he hA _ hg hra hrun => ?sequence, fun ra rb hk he hA hB hg hra hn hp hrb hn' => ?records,
      fun pa pb hk he hA hB hpa hpb has hpairs => ?arrays, fun hk hA hB hleft => ?segment, fun hk hA hB hleft => ⟨?bad, ?loads⟩⟩
    case absent =>
      exact defer (startMat_defers hk he (scalesOfA_absent hA hg)) rfl rfl rfl rfl (scalesRead_kept t o s) hrun
    case sequence =>
      exact defer (startMat_defers hk he (scalesOfA_other hA hg hra)) rfl rfl rfl rfl (scalesRead_kept t o s) hrun
    case records =>
      obtain ⟨hscA, hscB, hread⟩ := scales_records hA hB hg hra hn hp hrb hn'
      have h := startMat_scales hk he hscA hscB
      rw [hread] at h
      exact leaves h
    case arrays =>
      obtain ⟨hscA, hscB, hmem⟩ := scales_scratch hA hB hpa hpb has hpairs
      refine ⟨_, hexec.trans (congrArg _ (startMat_scales hk he hscA hscB)), hmem, ?_⟩
      unfold leaveAs modOp
      rw [tileOf_modTile_same, (scalesRead_kept t o s).matq]
      rfl
    case segment =>
      intro i n pa hpa has hpairs
      obtain ⟨hmem, hslots, hmatq⟩ := readImage_segment (pa := pa) hleft rfl hpa has hpairs
      exact ⟨_, hexec.trans (congrArg _ (startMat_mrest hk hA hB)), hmem, hslots, hmatq⟩
    case bad =>
      intro hbad hrun
      have hrestore := (startMat_mrest (t := t) (s := s) hk hA hB).trans (readImage_done hleft)
      exact defer (hrestore.trans (restoreSlot_defers hbad)) rfl rfl rfl rfl (.refl ..) hrun
    case loads =>
      intro h0 h1 hv hmacz
      have hrestore := (startMat_mrest (t := t) (s := s) hk hA hB).trans (readImage_done hleft)
      obtain ⟨hmem, hslot⟩ := restoreSlot_loads (t := t) (s := s) h0 h1 hv hmacz
      refine ⟨_, hexec.trans (congrArg _ hrestore), hmem, ?_⟩
      rw [hslot]
      exact ⟨rfl, fun r hr => get_poisonRows_rowsFrom _ _ _ _ hr, fun r hr => get_poisonRows_rowsFrom _ _ _ _ hr,
        fun r hr => get_poisonRows_rowsFrom _ _ _ _ hr, rfl, rfl, restored_kind .., restored_active_srec .., restored_shadow_srec ..⟩
  case completes =>
    intro z pass done gains
    have finish {P : MSlot → State → Prop} (hnot : o.kind = .msave → o.left = [])
        (hmatq : (tileOf (finishMat t o s) t).matq = (tileOf s t).matq)
        (hP : P (opSlot t o (finishMat t o s)) (dequeue t k (finishMat t o s))) : done P := by
      refine ⟨_, exec_matrixOpComplete hfind hfail hnot, ?_, ?_⟩
      · rw [tileOf_dequeue, hmatq]
      · rw [tileOf_dequeue]
        exact hP
    have finishSlot {P : MSlot → State → Prop} {w : MSlot} (hnot : o.kind ≠ .msave) (h : finishMat t o s = putSlot t o.slot w s)
        (hP : P w (dequeue t k (putSlot t o.slot w s))) : done P := by
      refine finish (fun hk => absurd hk hnot) ?_ ?_
      · rw [h, matq_putSlot]
      · rw [h, opSlot, slot_putSlot]
        exact hP
    clear_value done -- from here on proved by `finish` alone
    refine ⟨fun hk => ?mldw, fun hk => ?mswap, fun hk => ?macz, fun hk hcol hrow => ?mmul, fun cat i32 hk hat => ?mdrain,
      fun hk hleft => ?msave, fun himg => ?image⟩
    case mldw => exact finishSlot (by simp [hk]) (finishMat_mldw hk) ⟨rfl, rfl⟩
    case mswap => exact finishSlot (by simp [hk]) (finishMat_mswap hk) ⟨rfl, rfl⟩
    case macz =>
      refine finishSlot (by simp [hk]) (finishMat_macz hk) ⟨rfl, rfl, rfl, rfl, fun r hr => ?_⟩
      rw [get_map_key _ _ (List.mem_range.mpr hr)]
      exact ⟨rfl, fun n hn => accElem_identRow _ hn⟩
    case mmul =>
      obtain ⟨hslot, hmatq, hctx⟩ := finishMat_mmul (t := t) (s := s) hk
      obtain ⟨hkind, hactive, hshadow⟩ := mulRows_rest o z o.nrow
      refine finish (by simp [hk]) hmatq ?_
      rw [hslot, ctxOf_dequeue, hctx]
      refine ⟨hkind, hactive, hshadow, fun r hr => ?_, fun r n hr hr' hn => ?_, fun r hr hr' => ?_,
        fpflags_raiseMx .., fun i hi => ?_⟩
      · exact (mulRows_acc ..).trans (if_neg (by omega))
      · rw [(mulRows_acc ..).trans (if_pos ⟨hr, hr'⟩)]
        exact mulRow_elem _ _ _ hn
      · rw [(mulRows_acc ..).trans (if_pos ⟨hr, hr'⟩)]
        exact mulRow_poison _ _ _ hcol
      · rw [ctxOf_dequeue, hctx, mxflags_raiseMx _ _ _ _ hi, mulRows_flags _ _ _ _ hcol]
        rfl
    case mdrain =>
      obtain ⟨hmem, hslots, hmatq, hstamp, hrows, hctx⟩ := finishMat_mdrain (t := t) (s := s) hk hat
      have hslot : opSlot t o (finishMat t o s) = z := congrArg (fun m => Sparse.get ({} : MSlot) m o.slot) hslots
      refine finish (by simp [hk]) hmatq ⟨hslot, hmem, ?_, fun i hi => ?_, fun r hr => ?_⟩
      · rw [xregs_dequeue]
        exact hstamp
      · rw [ctxOf_dequeue, hctx, mxflags_raiseMx _ _ _ _ hi, drainRows_flags]
        rfl
      · rw [rowIn_congr (xregs_dequeue ..), hrows r hr]
        exact ⟨drainRow_poison .., fun n hn => drainRow_elem _ _ _ _ hn⟩
    case msave =>
      intro j n b hb hr hpairs hpair herr
      obtain ⟨w, hmem, hpoison, hslots, hmatq, hsave⟩ := saveSegment_scratch (n := nextSegment s o)
        (rest := o.left.eraseIdx (s.pick % o.left.length)) hr hpairs hpair
      refine ⟨_, (exec_matrixOpComplete_segment hfind hfail hk hleft rfl hr).trans (congrArg _ hsave), fun i hi => ?_,
        fun q hq => ?_, hpoison hb, ?_, ?_⟩
      · refine (congrArg (fun m : Memory => m.read (b + i)) hmem).trans ?_
        rw [Memory.read_writeN, if_pos (by omega), Nat.add_sub_cancel_left]
        exact Memory.byte_readN _ _ hi
      · refine (congrArg (fun m : Memory => m.read q) hmem).trans ?_
        rw [Memory.read_writeN, if_neg (by omega)]
      · unfold modOp
        rw [tileOf_modTile_same]
        exact hslots
      · unfold modOp
        rw [tileOf_modTile_same, hmatq]
    case image =>
      have hend : finishMat t o s = s := finishMat_image (himg.imp_left And.left)
      refine finish (fun hk => ?_) ?_ ?_
      · exact himg.elim And.right fun h => nomatch hk.symm.trans h
      · rw [hend]
      · rw [hend]
        exact ⟨rfl, rfl⟩

end Sys2Proof.Machine
end

section
/-! SUPPORT. How the commands of the engines issue (R183): what the reading of a block leaves (`BlockKept`), and the number, the
identity and the pending future that a command takes (`CommandTaken`). -/

namespace Sys2Proof.Machine

variable {s u v : State} {h : Option (Fin 8)} {a : Fin 16} {b n : Nat} {l : List Resolved}

/-- R183: the next engine sequence number of the core of the acting context. -/
abbrev nextNumber (s : State) : W32 := (coreOf s s.focusTile (coreIx s.focusCtx)).seqno

/-! What the reading of a block leaves. -/

/-- What a command takes and where it goes, as before. -/
structure BlockKept (s u : State) : Prop where
  focusTile : u.focusTile = s.focusTile
  focusCtx : u.focusCtx = s.focusCtx
  nextId : u.nextId = s.nextId
  agentReqs : u.agentReqs = s.agentReqs
  copies : (curTile u).copies = (curTile s).copies
  number : nextNumber u = nextNumber s

theorem BlockKept.trans (h : BlockKept s u) (h' : BlockKept u v) : BlockKept s v :=
  ⟨h'.focusTile.trans h.focusTile, h'.focusCtx.trans h.focusCtx, h'.nextId.trans h.nextId, h'.agentReqs.trans h.agentReqs,
    h'.copies.trans h.copies, h'.number.trans h.number⟩

theorem Observed.nextId (h : Observed s u) : u.nextId = s.nextId := (congrArg State.nextId h.rest :)

theorem Observed.agentReqs (h : Observed s u) : u.agentReqs = s.agentReqs := (congrArg State.agentReqs h.rest :)

theorem Observed.copies (h : Observed s u) (t : Nat) : (tileOf u t).copies = (tileOf s t).copies :=
  h.part Tile.copies (fun _ => rfl) t

theorem Observed.blockKept (h : Observed s u) : BlockKept s u where
  focusTile := h.focusTile
  focusCtx := h.focusCtx
  nextId := h.nextId
  agentReqs := h.agentReqs
  copies := h.curTile_part Tile.copies fun _ => rfl
  number := by
    unfold nextNumber
    rw [h.focusTile, h.focusCtx]
    exact (h.tile _).seqno _

/-- A part of every tile that a change of one tile leaves. -/
theorem part_modTile {α : Type} (part : Tile → α) (t : Nat) {f : Tile → Tile} (hp : ∀ x, part (f x) = part x) (s : State)
    (a : Nat) : part (tileOf (modTile t f s) a) = part (tileOf s a) := by
  rw [tileOf_modTile]
  split
  next h => rw [hp, h]
  next => rfl

theorem ctxOf_modTile (t : Nat) {f : Tile → Tile} (hf : ∀ x, (f x).ctxs = x.ctxs) (s : State) (a c : Nat) :
    ctxOf (modTile t f s) a c = ctxOf s a c :=
  congrArg (fun m => Sparse.get ({} : Ctx) m c) (part_modTile Tile.ctxs t hf s a)

theorem coreOf_modTile (t : Nat) {f : Tile → Tile} (hf : ∀ x, (f x).cores = x.cores) (s : State) (a k : Nat) :
    coreOf (modTile t f s) a k = coreOf s a k :=
  congrArg (fun m => Sparse.get ({} : CoreSt) m k) (part_modTile Tile.cores t hf s a)

/-- A part of every tile that a change of one context leaves. -/
theorem part_modCtx {α : Type} (part : Tile → α) (hp : ∀ (x : Tile) m, part { x with ctxs := m } = part x) (t c : Nat)
    (f : Ctx → Ctx) (s : State) (a : Nat) : part (tileOf (modCtx t c f s) a) = part (tileOf s a) :=
  part_modTile part t (fun x => hp x _) s a

theorem modCur_blockKept (f : Ctx → Ctx) (s : State) : BlockKept s (modCur f s) where
  focusTile := rfl
  focusCtx := rfl
  nextId := rfl
  agentReqs := rfl
  copies := part_modCtx Tile.copies (fun _ _ => rfl) ..
  number := congrArg CoreSt.seqno (coreOf_modCtx ..)

/-- R183: reading its block changes nothing that a command takes. -/
theorem BlockMet.kept (m : BlockMet s h a n l u b) : BlockKept s u := by
  obtain ⟨-, -, -, -, -, -, -, rfl⟩ := m
  exact (modCur_blockKept issueMerged s).trans (observed_notePrint ..).blockKept

/-- R183: a command whose handle is in use. -/
theorem withBlock_used {g : Fin 8} (hr : Ready s [a]) (hg : (futOf s g).st ≠ .free) (n : Nat)
    (k : State → List Resolved → Nat → Eff) : withBlock s (some g) a n k = .trap { cause := .handleInvalid } := by
  unfold withBlock
  rw [ready_of hr]
  exact if_pos hg

/-! What a command takes. -/

/-- R183: a command has taken the next number of its core and the next identity, and its future, if it has one, is pending;
the queues are as before. -/
structure CommandTaken (s : State) (h : Option (Fin 8)) (u : State) : Prop where
  focusTile : u.focusTile = s.focusTile
  focusCtx : u.focusCtx = s.focusCtx
  agentReqs : u.agentReqs = s.agentReqs
  copies : (curTile u).copies = (curTile s).copies
  number : (coreOf u s.focusTile (coreIx s.focusCtx)).seqno = nextNumber s + 1
  future : ∀ g, h = some g → futOf u g = { st := .pending, cmd := s.nextId }

theorem CommandTaken.observed (ht : CommandTaken s h u) (hv : Observed u v) : CommandTaken s h v where
  focusTile := hv.focusTile.trans ht.focusTile
  focusCtx := hv.focusCtx.trans ht.focusCtx
  agentReqs := hv.agentReqs.trans ht.agentReqs
  copies := hv.blockKept.copies.trans ht.copies
  number := ((hv.tile _).seqno _).trans ht.number
  future g hg := by
    unfold futOf
    rw [hv.cur_eq]
    exact ht.future g hg

/-- A command that has taken what it takes from a state that keeps the block. -/
theorem CommandTaken.of_kept (hk : BlockKept s u) (ht : CommandTaken u h v) : CommandTaken s h v where
  focusTile := ht.focusTile.trans hk.focusTile
  focusCtx := ht.focusCtx.trans hk.focusCtx
  agentReqs := ht.agentReqs.trans hk.agentReqs
  copies := ht.copies.trans hk.copies
  number := by
    rw [← hk.focusTile, ← hk.focusCtx, ← hk.number]
    exact ht.number
  future g hg := hk.nextId ▸ ht.future g hg

/-- R183: the future of a command made pending. -/
def pendFuture (h : Option (Fin 8)) (id : Nat) (u : State) : State :=
  match h with
  | some g => putFut g { st := .pending, cmd := id } u
  | none => u

theorem pendFuture_blockKept (h : Option (Fin 8)) (id : Nat) (u : State) : BlockKept u (pendFuture h id u) := by
  cases h with
  | none => exact (Observed.refl u).blockKept
  | some g => exact modCur_blockKept (fun y => { y with futs := Sparse.set g.val { st := .pending, cmd := id } y.futs }) u

theorem futOf_putFut (g : Fin 8) (f : Fut) (s : State) : futOf (putFut g f s) g = f := by
  unfold futOf putFut
  rw [cur_modCur]
  exact Sparse.get_set_same ..

theorem futOf_pendFuture {g : Fin 8} (hg : h = some g) (id : Nat) (u : State) :
    futOf (pendFuture h id u) g = { st := .pending, cmd := id } := by
  subst hg
  exact futOf_putFut ..

/-- R183: the command numbered and traced, before its future is pending. -/
theorem commandTaken_pendFuture (hw : Observed (freshId (takeSeqCur s).2).2 u) : CommandTaken s h (pendFuture h s.nextId u) := by
  have hnumbered : Observed (withNumber s) (takeSeqCur s).2 := observed_takeSeqCur
  have hk := pendFuture_blockKept h s.nextId u
  have htile : u.focusTile = s.focusTile := hw.focusTile.trans hnumbered.focusTile
  have hctx : u.focusCtx = s.focusCtx := hw.focusCtx.trans hnumbered.focusCtx
  refine ⟨hk.focusTile.trans htile, hk.focusCtx.trans hctx, hk.agentReqs.trans (hw.agentReqs.trans hnumbered.agentReqs), ?_,
    ?_, fun g hg => futOf_pendFuture hg ..⟩
  · refine (hk.copies.trans hw.blockKept.copies).trans (hnumbered.blockKept.copies.trans ?_)
    exact curTile_withNumber Tile.copies fun _ => rfl
  · have hnumber := hk.number.trans (hw.blockKept.number.trans hnumbered.blockKept.number)
    unfold nextNumber at hnumber
    rw [hk.focusTile, hk.focusCtx, htile, hctx] at hnumber
    exact hnumber.trans seqno_withNumber

/-- R183, R403, R405: a command of a major code, numbered, counted and traced. -/
def tracedCommand (major : Nat) (s : State) : State :=
  let w := (freshId (takeSeqCur s).2).2
  countEvent w.focusTile w.focusCtx 15 1 (monitor w.focusTile w.focusCtx 4 major (cur w).pc 0 (takeSeqCur s).1 w)

theorem observed_tracedCommand (major : Nat) : Observed (freshId (takeSeqCur s).2).2 (tracedCommand major s) := by
  unfold tracedCommand countEvent monitor
  exact (observed_monitorAt ..).trans (observed_countAt ..)

theorem takeCommand_eq (h : Option (Fin 8)) (major : Nat) (l : List Resolved) (s : State) :
    takeCommand h major l s =
      let u := pendFuture h (takeSeqCur s).2.nextId (tracedCommand major s)
      ((takeSeqCur s).2.nextId, (takeSeqCur s).1, fillAll (.core (coreIx u.focusCtx)) u.focusTile l u) := by
  cases h <;> rfl

/-- R183: the state in which a command has taken what it takes, with its identity and its number. -/
theorem takeCommand_taken (h : Option (Fin 8)) (major : Nat) (l : List Resolved) (s : State) :
    ∃ u, CommandTaken s h u ∧ takeCommand h major l s = (s.nextId, nextNumber s, u) := by
  have hid : (takeSeqCur s).2.nextId = s.nextId := observed_takeSeqCur.nextId
  have htake := takeCommand_eq h major l s
  rw [hid] at htake
  exact ⟨_, (commandTaken_pendFuture (observed_tracedCommand major)).observed (observed_fillAll ..), htake⟩

end Sys2Proof.Machine
end

section
/-! SUPPORT and the settling theorem of CPY and CPYS (O28): a CPY takes what a command takes and joins the copy queue, a CPYS
reserves entries of the schedule. -/

namespace Sys2Proof.Machine

variable {s s' : State} {h : Fin 8} {a : Fin 16} {n t : Bool} {i : Fin 65536} {b : Nat} {l : List Resolved}

/-! Copies (R192). -/

/-- R192: a copy as it joins the queue. -/
def queuedCopy (s : State) (n t : Bool) (v : View) (d : CopyDesc) : Copy :=
  { id := s.nextId, ctx := s.focusCtx, launch := v.launch, seq := nextNumber s, trap := t, nf := n, desc := d, view := v }

/-- R192: a copy at the end of the queue of a tile. -/
def joinCopies (k : Copy) (x : Tile) : Tile := { x with copies := x.copies ++ [k] }

/-- R192, R196: a CPY whose descriptor passes joins the queue, while there is room. -/
theorem doCpy_of {d : CopyDesc} {e : Option Resolved} (hl : Legal s (.cpy h a n t))
    (m : BlockMet s (if n then none else some h) a 2 l s' b) (hd : parseCopy (opTile s').alloy b = some d)
    (hast : astCheck s' (commandView s') (.core (coreIx s'.focusCtx)) d = .ok e)
    (harm : armingHolds s' (commandView s') d = true) (hroom : (curTile s').copies.length < 1024) :
    ∃ u, CommandTaken s (if n then none else some h) u ∧ doCpy h a n t s = .done
      (modCurTile (joinCopies (queuedCopy s n t (commandView s') d)) u) .next := by
  obtain ⟨u, hu, htake⟩ := takeCommand_taken (if n then none else some h) 0x20 (l ++ e.toList) s'
  refine ⟨u, hu.of_kept m.kept, ?_⟩
  have hcopy : queuedCopy s n t (commandView s') d =
      { queuedCopy s' n t (commandView s') d with ctx := u.focusCtx } := by
    unfold queuedCopy
    rw [hu.focusCtx, m.kept.nextId, m.kept.number, m.kept.focusCtx]
  unfold doCpy
  dsimp only
  rw [static_of_legal hl, withBlock_of m, hd]
  dsimp only
  rw [harm, hast]
  dsimp only
  rw [if_neg (by simp), if_neg (by omega), htake, hcopy]
  rfl

/-- R195, R196: a CPY whose descriptor breaks its rules, or whose arrival set is not armed over the destination. -/
theorem doCpy_malformed (hl : Legal s (.cpy h a n t)) (m : BlockMet s (if n then none else some h) a 2 l s' b)
    (hbad : parseCopy (opTile s').alloy b = none ∨
      ∃ d, parseCopy (opTile s').alloy b = some d ∧ armingHolds s' (commandView s') d = false) :
    doCpy h a n t s = .trap { cause := .copyDescriptor } := by
  unfold doCpy
  dsimp only
  rw [static_of_legal hl, withBlock_of m]
  obtain hnone | ⟨d, hd, harm⟩ := hbad
  · rw [hnone]
    rfl
  · rw [hd]
    dsimp only
    rw [harm]
    rfl

theorem doCpy_used (hl : Legal s (.cpy h a n t)) (hn : n = false) (hr : Ready s [a]) (hf : (futOf s h).st ≠ .free) :
    doCpy h a n t s = .trap { cause := .handleInvalid } := by
  subst hn
  unfold doCpy
  rw [static_of_legal hl]
  exact withBlock_used hr hf ..

/-! The copy schedule (R200). -/

theorem doCpys_done (hl : Legal s (.cpys i)) (hd : (cur s).cpysDone = true) :
    doCpys i s = .done (modCur (fun y => { setPm false y with cpysDone := false }) s) .next := by
  unfold doCpys
  rw [static_of_legal hl]
  exact if_pos hd

section
variable (hl : Legal s (.cpys i)) (hd : (cur s).cpysDone = false) (hleft : (cur s).cpysLeft = 0)
  (he : (cur s).afterEret = false)
include hl hd hleft he

theorem doCpys_zero (hi : i.val = 0) : doCpys i s = .done s .next := by
  unfold doCpys
  simp [static_of_legal hl, hd, hleft, he, hi]

theorem doCpys_past_end (hi : i.val ≠ 0) (hend : (curTile s).sched.length < (curTile s).stage + i.val) :
    doCpys i s = .trap { cause := .copyScheduleEnd } := by
  unfold doCpys
  simp [static_of_legal hl, hd, hleft, he, hi, hend, fail]

/-- R200: the tile of a CPYS that has reserved its entries. -/
def reserved (r : Reserve) (x : Tile) : Tile :=
  { x with stage := x.stage + r.left, reserves := insertReserve r x.reserves }

/-- R200: a CPYS once the earlier accesses of its context are performed. -/
theorem doCpys_reserves (hi : i.val ≠ 0) (hend : (curTile s).stage + i.val ≤ (curTile s).sched.length)
    (hrel : ReleaseMet s s') : doCpys i s = .wait (modCur (fun y =>
      { y with cpysLeft := i.val, cpysNext := (curTile s).stage, afterEret := false })
        (modCurTile (reserved { ctx := s.focusCtx, next := (curTile s).stage, left := i.val }) s')) .offcore := by
  have hctx : s'.focusCtx = s.focusCtx := by
    obtain ⟨rfl, -, -⟩ := hrel
    rfl
  unfold doCpys
  rw [static_of_legal hl]
  dsimp only
  rw [if_neg (Bool.eq_false_iff.mp hd), if_neg (by simp [hleft]), if_neg (Bool.eq_false_iff.mp he), if_neg hi,
    if_neg (by omega), released_of hrel, hctx]
  rfl

end

theorem mem_insertReserve (r : Reserve) (l : List Reserve) : r ∈ insertReserve r l := by
  induction l with
  | nil => exact List.mem_singleton_self r
  | cons k l ih =>
    unfold insertReserve
    split
    · exact List.mem_cons_self
    · exact List.mem_cons_of_mem k ih

/-- Settles O28: CPY takes what a command takes and joins the queue; CPYS reserves its entries in the acting tile. -/
theorem copiesIssue : Obligations.CopiesIssue := by
  intro h a n t i l b d r s s'
  refine ⟨fun hl => ⟨fun m => ⟨fun hd hast harm hroom => ?copy, fun hbad => congrArg (settle s) (doCpy_malformed hl m hbad)⟩,
      fun hn hr hf => congrArg (settle s) (doCpy_used hl hn hr hf)⟩,
    fun hl => ⟨fun hd => congrArg (settle s) (doCpys_done hl hd), fun hd hleft he =>
      ⟨fun hi => congrArg (settle s) (doCpys_zero hl hd hleft he hi),
        fun hi hend => congrArg (settle s) (doCpys_past_end hl hd hleft he hi hend), fun hi hend hrel => ?reserves⟩⟩⟩
  case copy =>
    obtain ⟨u, hu, hdo⟩ := doCpy_of hl m hd hast harm hroom
    refine ⟨_, congrArg (settle s) hdo, ?_, ?_, fun hn => ?_⟩
    · rw [curTile_modCurTile, joinCopies, hu.copies]
      rfl
    · unfold modCurTile
      rw [coreOf_modTile (f := joinCopies _) _ fun _ => rfl]
      exact hu.number
    · unfold futOf cur modCurTile
      rw [ctxOf_modTile (f := joinCopies _) _ fun _ => rfl]
      exact hu.future h (if_neg (by simp [hn]))
  case reserves =>
    obtain ⟨rfl, -, -⟩ := id hrel
    have hstage : (curTile (modCur issueMerged s)).stage = (curTile s).stage := part_modCtx Tile.stage (fun _ _ => rfl) ..
    refine ⟨_, congrArg (settle s) (doCpys_reserves hl hd hleft he hi hend hrel), ?_, ?_, ?_, ?_⟩
    · refine (part_modCtx Tile.stage (fun _ _ => rfl) ..).trans ((congrArg Tile.stage (curTile_modCurTile ..)).trans ?_)
      exact congrArg (· + i.val) hstage
    · rw [cur_modCur]
    · rw [cur_modCur]
    · refine (part_modCtx Tile.reserves (fun _ _ => rfl) ..).trans (congrArg Tile.reserves (curTile_modCurTile ..)) ▸ ?_
      exact mem_insertReserve ..

end Sys2Proof.Machine
end

section
/-! SUPPORT and the settling theorem of the RPCs as they issue (O30): a command takes what a command takes and leaves for the
agent of its target (`CommandSent`). -/

namespace Sys2Proof.Machine

variable {s s' : State} {h : Fin 8} {a : Fin 16} {n t : Bool} {b : Nat} {l : List Resolved} {r : Resolved}

/-! Commands on their way (R183, R201). -/

/-- R183, R201: a command as it leaves for its agent. -/
def sentCommand (s : State) (future : Option (Fin 8)) (q : AReq) : AReq :=
  { q with id := s.nextId, seq := nextNumber s, view := commandView s, handle := (future.map fun h => h.val).getD 0 }

/-- R183, R218: a command leaves for the agent of tile `dest`, whose queue has room, while fewer than 32 of its context are
outstanding. -/
theorem sendCommand_of (ho : outstanding s s.focusTile s.focusCtx < 32) {dest : Nat} (hq : (tileOf s dest).agentq.length < 64)
    (future : Option (Fin 8)) (major : Nat) (q : AReq) (l : List Resolved) :
    ∃ u, CommandTaken s future u ∧ sendCommand s future major dest q l =
      .done { u with agentReqs := s.agentReqs ++ [(dest, sentCommand s future q)] } .next := by
  obtain ⟨u, hu, htake⟩ := takeCommand_taken future major l s
  refine ⟨u, hu, ?_⟩
  unfold sendCommand
  dsimp only
  rw [if_neg (by omega), htake]
  dsimp only
  rw [hu.agentReqs]
  rfl

/-- R183: what a command leaves that read its block and left for an agent. -/
structure CommandSent (s : State) (future : Option (Fin 8)) (dest : Nat) (q : AReq) (w : State) : Prop where
  agentReqs : w.agentReqs = s.agentReqs ++ [(dest, q)]
  number : (coreOf w s.focusTile (coreIx s.focusCtx)).seqno = nextNumber s + 1
  future : ∀ g, future = some g → futOf w g = { st := .pending, cmd := s.nextId }

/-- R183, R218: a command whose block passes leaves for its agent. -/
theorem BlockMet.sends {g : Option (Fin 8)} {k : Nat} (m : BlockMet s g a k l s' b)
    (ho : outstanding s' s'.focusTile s'.focusCtx < 32) {dest : Nat} (hq : (tileOf s' dest).agentq.length < 64)
    (future : Option (Fin 8)) (major : Nat) (q : AReq) (r : List Resolved) :
    ∃ w, sendCommand s' future major dest q r = .done w .next ∧ CommandSent s future dest { q with
      id := s.nextId, seq := nextNumber s, view := commandView s', handle := (future.map fun h => h.val).getD 0 } w := by
  obtain ⟨u, hu, hsend⟩ := sendCommand_of ho hq future major q r
  have htaken := hu.of_kept m.kept
  have hsent : sentCommand s' future q = { q with
      id := s.nextId, seq := nextNumber s, view := commandView s', handle := (future.map fun h => h.val).getD 0 } := by
    unfold sentCommand
    rw [m.kept.nextId, m.kept.number]
  refine ⟨_, hsend, ?_, htaken.number, htaken.future⟩
  rw [hsent, m.kept.agentReqs]

theorem areas_pass {c : List (Option Trap)} (hc : ∀ x ∈ c, x = none) (k : Eff) : areas c k = k := by
  have hnone : c.findSome? id = none := List.findSome?_eq_none_iff.mpr hc
  unfold areas
  rw [hnone]

/-! Remote procedure calls (R201 to R203). -/

section
variable {i : Instr} {proc reply m dest : Nat} (hl : Legal s i)
include hl

/-- R202, R203: an RPC whose block and areas pass, up to its target. -/
theorem doRpc_of (hb : BlockMet s (if n then none else some h) a 1 l s' b) (hp : rpcParse s' proc b n = some (reply, m))
    (hr : blk b 16 8 ≠ 0 → reply ≠ 0 → ownArea s' (blk b 16 8) reply true = none)
    (hi : blk b 28 1 / 2 % 2 = 1 → ownArea s' (blk b 32 8) (indBytes proc (blk b 24 4)) false = none)
    (hs : serving s' (blk b 8 8) (rpcWrites proc) true = .ok (dest, r)) :
    doRpc proc i h a n t s = sendCommand s' (if n then none else some h) 0x22 dest
      { kind := .rpc proc, block := BitVec.ofNat 512 b, blockVa := (rdS s' a).val.toNat, trap := t, nf := n } (l ++ [r]) := by
  have hareas : ∀ x ∈ [if blk b 16 8 ≠ 0 ∧ reply ≠ 0 then ownArea s' (blk b 16 8) reply true else none,
      if decide (blk b 28 1 / 2 % 2 = 1) then ownArea s' (blk b 32 8) (indBytes proc (blk b 24 4)) false else none],
      x = none := by
    intro x hx
    simp only [decide_eq_true_eq, List.mem_cons, List.not_mem_nil, or_false] at hx
    obtain rfl | rfl := hx
    · split
      next hc => exact hr hc.1 hc.2
      next => rfl
    · split
      next hc => exact hi hc
      next => rfl
  unfold doRpc
  dsimp only
  rw [static_of_legal hl, withBlock_of hb, hp]
  dsimp only
  rw [areas_pass hareas, hs]

theorem doRpc_malformed (hb : BlockMet s (if n then none else some h) a 1 l s' b) (hp : rpcParse s' proc b n = none) :
    doRpc proc i h a n t s = .trap { cause := .rpcProcedure } := by
  unfold doRpc
  dsimp only
  rw [static_of_legal hl, withBlock_of hb, hp]
  rfl

theorem doRpc_used (hn : n = false) (hr : Ready s [a]) (hf : (futOf s h).st ≠ .free) :
    doRpc proc i h a n t s = .trap { cause := .handleInvalid } := by
  subst hn
  unfold doRpc
  rw [static_of_legal hl]
  exact withBlock_used hr hf ..

end

/-- Settles O30: each of the twelve is one `doRpc`, which sends the request to the agent of its target. -/
theorem rpcCommandsIssue : Obligations.RpcCommandsIssue := by
  intro h a n t l b reply m u r s s' future issues
  have issue {i : Instr} {proc : Nat} (he : exec i s = settle s (doRpc proc i h a n t s)) : issues i proc := by
    intro hl
    refine ⟨fun hb => ⟨fun hp hr hi hs ho hq => ?_, fun hp => he.trans (congrArg (settle s) (doRpc_malformed hl hb hp))⟩,
      fun hn hr hf => he.trans (congrArg (settle s) (doRpc_used hl hn hr hf))⟩
    obtain ⟨w, hsend, hw⟩ := hb.sends ho hq future 0x22
      { kind := .rpc proc, block := BitVec.ofNat 512 b, blockVa := (rdS s' a).val.toNat, trap := t, nf := n } (l ++ [r])
    refine ⟨w, he.trans (congrArg (settle s) ((doRpc_of hl hb hp hr hi hs).trans hsend)), ?_, hw.number,
      fun hn => hw.future h (if_neg (by simp [hn]))⟩
    rw [hw.agentReqs]
    cases n <;> rfl
  clear_value issues -- from here on proved by `issue` alone
  exact ⟨issue rfl, issue rfl, issue rfl, issue rfl, issue rfl, issue rfl, issue rfl, issue rfl, issue rfl, issue rfl,
    issue rfl, issue rfl⟩

end Sys2Proof.Machine
end

section
/-! SUPPORT and the settling theorem of TRAV, TRAV.res, GPOOL and ATTN as they issue (O31): one equation for each, up to the
command that leaves for its agent. -/

namespace Sys2Proof.Machine

variable {s s' : State} {h : Fin 8} {a : Fin 16} {t : Bool} {b dest : Nat} {l : List Resolved} {r : Resolved}

/-- R206: a walk block within its limits, with its rules and its results in the own scratchpad. -/
def Walkable (s : State) (b : Nat) : Prop :=
  walkBad b = none ∧ ownArea s (blk b 0 8) 128 false = none ∧ ownArea s (blk b 56 8) 256 true = none

/-- R183: what a command to an agent says of itself, but for what it takes as it leaves. -/
def commandOf (s : State) (a : Fin 16) (t : Bool) (b : Nat) (k : AgentKind) (token : Nat) : AReq :=
  { kind := k, block := BitVec.ofNat 512 b, blockVa := (rdS s a).val.toNat, token := BitVec.ofNat 512 token, trap := t }

section
variable (m : BlockMet s (some h) a 1 l s' b)
include m

theorem withWalk_of {i : Instr} (hl : Legal s i) (hw : Walkable s' b) (k : State → List Resolved → Nat → Eff) :
    withWalk s i h a k = k s' l b := by
  obtain ⟨hbad, hrules, hres⟩ := hw
  unfold withWalk
  rw [static_of_legal hl, withBlock_of m, hbad]
  exact areas_pass (by simp [hrules, hres]) _

theorem withWalk_bad {i : Instr} (hl : Legal s i) {off : Nat} (hbad : walkBad b = some off)
    (k : State → List Resolved → Nat → Eff) :
    withWalk s i h a k = .trap { cause := .traversal, eval := BitVec.ofNat 64 off } := by
  unfold withWalk
  rw [static_of_legal hl, withBlock_of m, hbad]
  rfl

theorem doTrav_of (hl : Legal s (.trav h a t)) (hw : Walkable s' b) : doTrav h a t s =
    sendCommand s' (some h) 0x23 (walkAgent s' (blk b 8 8)) (commandOf s' a t b .trav 0) l := withWalk_of m hl hw _

theorem doTravRes_of (hl : Legal s (.travRes h a t)) (hw : Walkable s' b)
    (hr : resolve s' (curView s') (.core (coreIx s'.focusCtx)) (blk b 56 8) false = .ok r) (hp : segPoison s' r.pa = false)
    (ht : tokenFits (readMem s' r.pa 64) s'.focusTile (rdS s' a).val.toNat = true) : doTravRes h a t s =
      sendCommand s' (some h) 0x23 (walkAgent s' (blk (readMem s' r.pa 64) 16 8))
        (commandOf s' a t b .travRes (readMem s' r.pa 64)) (l ++ [r]) := by
  unfold doTravRes
  rw [withWalk_of m hl hw]
  dsimp only
  rw [hr]
  dsimp only
  rw [hp, ht]
  rfl

theorem doGpool_of (hl : Legal s (.gpool h a t)) (hok : poolOk b = true)
    (hi : ownArea s' (blk b 0 8) (4 * blk b 24 4) false = none)
    (hw : blk b 8 8 ≠ 0 → ownArea s' (blk b 8 8) (4 * blk b 24 4) false = none)
    (ho : ownArea s' (blk b 40 8) (4 * blk b 32 2) true = none) (hs : serving s' (blk b 16 8) false false = .ok (dest, r)) :
    doGpool h a t s = sendCommand s' (some h) 0x24 dest (commandOf s' a t b .gpool 0) (l ++ [r]) := by
  have hweights : (if blk b 8 8 ≠ 0 then ownArea s' (blk b 8 8) (4 * blk b 24 4) false else none) = none := by
    split
    next hne => exact hw hne
    next => rfl
  unfold doGpool
  rw [static_of_legal hl, withBlock_of m, hok]
  refine (areas_pass (by simpa [hi, ho] using hweights) _).trans ?_
  rw [hs]
  rfl

theorem doGpool_malformed (hl : Legal s (.gpool h a t)) (hok : poolOk b = false) :
    doGpool h a t s = .trap { cause := .gather } := by
  unfold doGpool
  rw [static_of_legal hl, withBlock_of m, hok]
  rfl

theorem doAttn_of (hl : Legal s (.attn h a t)) (hok : attnOk b = true)
    (hq : ownArea s' (blk b 0 8) (2 * ((blk b 35 1 % 16 + 1) * blk b 32 2)) false = none)
    (ho : ownArea s' (blk b 56 8) (4 * ((blk b 35 1 % 16 + 1) * blk b 32 2)) true = none)
    (hs : serving s' (blk b 8 8) false false = .ok (dest, r)) :
    doAttn h a t s = sendCommand s' (some h) 0x25 dest (commandOf s' a t b .attn 0) (l ++ [r]) := by
  unfold doAttn
  rw [static_of_legal hl, withBlock_of m, hok]
  refine (areas_pass (by simp [hq, ho]) _).trans ?_
  rw [hs]
  rfl

theorem doAttn_malformed (hl : Legal s (.attn h a t)) (hok : attnOk b = false) :
    doAttn h a t s = .trap { cause := .attention } := by
  unfold doAttn
  rw [static_of_legal hl, withBlock_of m, hok]
  rfl

end

/-- Settles O31: each command, once its block passes, is one `sendCommand` by its equation. -/
theorem walkCommandsIssue : Obligations.WalkCommandsIssue := by
  intro h a t l b u r s s' m sends walkable
  have sent {i : Instr} {x : Eff} {k : AgentKind} {dest token major : Nat} {c : List Resolved} (he : exec i s = settle s x)
      (hx : x = sendCommand s' (some h) major dest (commandOf s' a t b k token) c) : sends i k dest token := by
    intro ho hq
    obtain ⟨w, hsend, hw⟩ := m.sends ho hq (some h) major (commandOf s' a t b k token) c
    exact ⟨w, he.trans (congrArg (settle s) (hx.trans hsend)), hw.agentReqs, hw.future h rfl⟩
  clear_value sends -- from here on proved by `sent` alone
  exact ⟨fun hl => ⟨fun hw => sent rfl (doTrav_of m hl hw), fun off hbad => congrArg (settle s) (withWalk_bad m hl hbad _)⟩,
    fun hl hw hr hp ht => sent rfl (doTravRes_of m hl hw hr hp ht),
    fun hl => ⟨fun hok hi hw ho hs => sent rfl (doGpool_of m hl hok hi hw ho hs),
      fun hok => congrArg (settle s) (doGpool_malformed m hl hok)⟩,
    fun hl => ⟨fun hok hq ho hs => sent rfl (doAttn_of m hl hok hq ho hs),
      fun hok => congrArg (settle s) (doAttn_malformed m hl hok)⟩⟩

end Sys2Proof.Machine
end

section
/-! SUPPORT and the settling theorem of FWAIT, FGET, FTEST, FCANCEL and FXFER (O32): one equation for each state of the handle. -/

namespace Sys2Proof.Machine

variable {s : State} {h g : Fin 8} {d : Fin 16} {w : Fin 6} {rel : Bool}

/-! A handle by its state (R187). -/

theorem terminal_free (hf : (futOf s h).st = .free) (k : Fut → State → Eff) :
    terminal s h k = .trap { cause := .handleInvalid } := by
  unfold terminal
  rw [hf]
  rfl

theorem terminal_pending (hf : (futOf s h).st = .pending) (k : Fut → State → Eff) : terminal s h k = .wait s .offcore := by
  unfold terminal
  rw [hf]

theorem terminal_terminal (hf : (futOf s h).st = .terminal) (k : Fut → State → Eff) : terminal s h k =
    k (futOf s h) (modCur (fun y => { y with sight := y.sight.know (futOf s h).seen }) s) := by
  unfold terminal
  rw [hf]

/-! FGET, FTEST, FCANCEL and FXFER (R187 to R190). -/

theorem doFget_of (hr : Ready s [d]) : doFget h d w rel s = terminal s h fun f u =>
    if 2 ≤ w.val ∧ f.code = 6 then fail .futureCancelled
    else .done (release rel h (wrS d { val := futWord f w.val, poison := f.poison && decide (2 ≤ w.val) } u)) .next :=
  ready_of hr _

theorem doFtest_free (hr : Ready s [d]) (hf : (futOf s h).st = .free) :
    doFtest h d s = .trap { cause := .handleInvalid } := (ready_of hr _).trans (if_pos hf)

theorem doFtest_of (hr : Ready s [d]) (hf : (futOf s h).st ≠ .free) (hl : Unlogged s) :
    doFtest h d s = .done (wrS d { val := if (futOf s h).st = .terminal then 1 else 0 } s) .next :=
  (ready_of hr _).trans ((if_neg hf).trans (logged_of hl ..))

theorem doFcancel_free (hf : (futOf s h).st = .free) : doFcancel h s = .trap { cause := .handleInvalid } := by
  unfold doFcancel
  dsimp only
  rw [hf]
  rfl

theorem doFcancel_terminal (hf : (futOf s h).st = .terminal) : doFcancel h s = .done s .next := by
  unfold doFcancel
  dsimp only
  rw [hf]

theorem doFcancel_pending (hf : (futOf s h).st = .pending) : doFcancel h s = .done
    { s with nextId := s.nextId + 1, cancels := s.cancels ++ [(s.nextId, s.focusTile, (futOf s h).cmd)] } .next := by
  unfold doFcancel
  dsimp only
  rw [hf]
  rfl

theorem doFxfer_free (hr : Ready s [d]) (hf : (futOf s h).st = .free) :
    doFxfer h d g s = .trap { cause := .handleInvalid } := (ready_of hr _).trans (if_pos hf)

/-- A word below 8 by its low and high fields. -/
theorem wfld_of_lt_eight {v : Word} (hv : v.toNat < 8) : wfld v 0 3 = v.toNat ∧ wfld v 3 61 = 0 := by
  unfold wfld
  omega

/-- R190: a future moves to a free handle of another context of the launch, one that runs or that has halted. -/
theorem doFxfer_of (hr : Ready s [d]) (hc : Clean s [d]) (hf : (futOf s h).st ≠ .free) {c : Nat}
    (hd : (rdS s d).val.toNat = c) (hlt : c < 8) (hne : c ≠ s.focusCtx)
    (hfree : (Sparse.get ({} : Fut) (ctxOf s s.focusTile c).futs g.val).st = .free)
    (hphase : (ctxOf s s.focusTile c).phase = .running ∨ (ctxOf s s.focusTile c).phase = .halted)
    (hlaunch : (ctxOf s s.focusTile c).launch = (cur s).launch) : doFxfer h d g s = .done
      (modCtx s.focusTile c (fun y => { y with futs := Sparse.set g.val (futOf s h) y.futs }) (putFut h {} s)) .next := by
  obtain ⟨hlow, hhigh⟩ := wfld_of_lt_eight (v := (rdS s d).val) (by omega)
  rw [hd] at hlow
  unfold doFxfer
  rw [ready_of hr]
  dsimp only
  rw [if_neg hf, unpoisoned_of_clean hc, hlow]
  refine if_neg ?_
  rintro (hbad | hbad | hbad | hbad | hbad)
  · exact hbad hhigh
  · exact hne hbad
  · exact hbad hfree
  · exact hphase.elim hbad.1 hbad.2
  · exact hbad hlaunch

/-- Settles O32: by the state of the handle, each instruction is its equation. -/
theorem futuresComplete : Obligations.FuturesComplete := by
  intro h g d w rel s f after acquire invalid
  refine ⟨fun hf => ⟨?_, ?_, fun hr => ⟨?_, ?_, ?_⟩⟩, fun hf => ⟨?_, ?_, fun hr hw => ?_, fun hr hw hcode => ?_⟩,
    fun hf => ⟨?_, fun hr => ?_, ?_⟩, fun hf hr hl => ?_, fun hf hr hc hlt hne hfree hphase hlaunch => ?_⟩ <;>
    refine congrArg (settle s) ?_
  · exact terminal_free hf _
  · exact doFcancel_free hf
  · exact (doFget_of hr).trans (terminal_free hf _)
  · exact doFtest_free hr hf
  · exact doFxfer_free hr hf
  · exact terminal_terminal hf _
  · exact doFcancel_terminal hf
  · refine ((doFget_of hr).trans (terminal_terminal hf _)).trans (if_neg ?_)
    rintro ⟨hle, hcode⟩
    exact hw.elim (by omega) fun hne => hne hcode
  · exact ((doFget_of hr).trans (terminal_terminal hf _)).trans (if_pos ⟨hw, hcode⟩)
  · exact terminal_pending hf _
  · exact (doFget_of hr).trans (terminal_pending hf _)
  · exact doFcancel_pending hf
  · exact doFtest_of hr hf hl
  · exact doFxfer_of hr hc hf rfl hlt hne hfree hphase hlaunch

end Sys2Proof.Machine
end

section
/-! SUPPORT. What an engine does at one end of a transfer: reaching it (`Reached`), landing one unit (`Stored`), and what the end of
a command leaves beside its future (`FuturesKept`). -/

namespace Sys2Proof.Machine

variable {s u v : State} {pa n x : Nat}

/-! Reaching an end (R126, R341). -/

/-- A vault and a monitor as before, but for the open rows. -/
structure TileReached (x y : Tile) : Prop where
  vault : ({ y.vault with openRow := [] } : Vault) = { x.vault with openRow := [] }
  mon : y.mon = x.mon

/-- A state as before, but for what the translation of an address and the opening of its row change. -/
structure Reached (s u : State) : Prop where
  observed : Observed s u
  mem : u.mem = s.mem
  poison : u.poison = s.poison
  tile : ∀ t, TileReached (tileOf s t) (tileOf u t)

theorem Reached.refl (s : State) : Reached s s := ⟨.refl s, rfl, rfl, fun _ => ⟨rfl, rfl⟩⟩

theorem Reached.trans (h : Reached s u) (h' : Reached u v) : Reached s v :=
  ⟨h.observed.trans h'.observed, h'.mem.trans h.mem, h'.poison.trans h.poison, fun t =>
    ⟨(h'.tile t).vault.trans (h.tile t).vault, (h'.tile t).mon.trans (h.tile t).mon⟩⟩

theorem reached_modTile {t : Nat} {f : Tile → Tile} (ho : Observed s (modTile t f s)) (hf : ∀ x, TileReached x (f x)) :
    Reached s (modTile t f s) := by
  refine ⟨ho, rfl, rfl, fun a => ?_⟩
  rw [tileOf_modTile]
  split
  next h => subst h; exact hf _
  next => exact ⟨rfl, rfl⟩

theorem reached_fillTlb (via : Via) (t : Nat) (e : TlbEntry) : Reached s (fillTlb via t e s) := by
  have ho := observed_fillTlb (s := s) via t e
  cases via
  case none_ => exact .refl s
  all_goals
    unfold fillTlb at ho ⊢
    refine reached_modTile ho ?_
    exact fun _ => ⟨rfl, rfl⟩

theorem reached_touchBank (t off len : Nat) (pol : Pol) : Reached s (touchBank t off len pol s) := by
  have ho := observed_touchBank (s := s) t off len pol
  unfold touchBank at ho ⊢
  refine reached_modTile ho ?_
  exact fun _ => ⟨rfl, rfl⟩

/-- A part of every vault that reaching an end leaves. -/
theorem Reached.part (h : Reached s u) {α : Type} (part : Vault → α) (hp : ∀ v : Vault, part { v with openRow := [] } = part v)
    (t : Nat) : part (tileOf u t).vault = part (tileOf s t).vault := by
  rw [← hp, (h.tile t).vault, hp]

theorem Reached.errAt (h : Reached s u) (pa : Nat) : errAt u pa = errAt s pa := by
  unfold Machine.errAt
  rw [h.part Vault.errs fun _ => rfl]

theorem Reached.segPoison (h : Reached s u) (pa : Nat) : segPoison u pa = segPoison s pa := by
  unfold Machine.segPoison
  rw [h.poison]

theorem Observed.asOf (h : Observed s u) : u.asOf = s.asOf := (congrArg State.asOf h.rest :)

theorem Observed.launches (h : Observed s u) : u.launches = s.launches := (congrArg State.launches h.rest :)

theorem Observed.replies (h : Observed s u) : u.replies = s.replies := (congrArg State.replies h.rest :)

theorem Observed.launchOf_eq (h : Observed s u) (l : Nat) : launchOf u l = launchOf s l := by
  unfold launchOf
  rw [h.launches]

theorem mirrorOf_of_no_pair (h : (tileOf s (paTile pa)).pairOf = none) : mirrorOf s pa = none :=
  mirrorOf_of_unpaired fun _ => h

/-- R270: a read that passes over no write returns what stands in memory. -/
theorem readAs_latest {mine : WriteEv → Bool} (h : s.asOf = none ∨ mine = fun _ => true) :
    readAs s mine pa n = (s.mem.readN pa n, segPoison s pa) := by
  have hpass : passedOver s mine pa n = [] := by
    unfold passedOver
    obtain h | rfl := h
    · rw [h]
    · cases s.asOf with
      | none => rfl
      | some cut => cases s.hist.filter fun e => e.meets pa n <;> simp
  unfold readAs
  rw [hpass]
  rfl

/-! Landing one unit (R111, R382). -/

/-- A state as before, but for `n` bytes of memory and what is known of the writes to it. -/
structure Stored (s : State) (pa n x : Nat) (u : State) : Prop where
  mem : u.mem = Memory.writeN pa x n s.mem
  rest : ({ u with mem := [], poison := [], hist := [], writes := 0 } : State) =
    { s with mem := [], poison := [], hist := [], writes := 0 }

theorem Stored.tiles (h : Stored s pa n x u) : u.tiles = s.tiles := (congrArg State.tiles h.rest :)

theorem Stored.tileOf_eq (h : Stored s pa n x u) (t : Nat) : tileOf u t = tileOf s t := by
  unfold tileOf
  rw [h.tiles]

theorem Stored.replies (h : Stored s pa n x u) : u.replies = s.replies := (congrArg State.replies h.rest :)

theorem Stored.readN_eq (h : Stored s pa n x u) : u.mem.readN pa n = x % 2 ^ (8 * n) := by
  rw [h.mem, Memory.readN_writeN_same]

theorem Stored.read_other (h : Stored s pa n x u) {a : Nat} (ha : a < pa ∨ pa + n ≤ a) : u.mem.read a = s.mem.read a := by
  rw [h.mem, Memory.read_writeN, if_neg (by omega)]

theorem Stored.tagged {f : State → State} (h : Stored s pa n x (f s)) (g : WriteEv → WriteEv) :
    Stored s pa n x (tagged g f s) := ⟨h.mem, h.rest⟩

theorem Stored.atomicWrite {f : State → State} (h : Stored s pa n x (f s)) (a m : Nat) (past : Known) :
    Stored s pa n x (atomicWrite a m past f s) := h.tagged _

/-- R111: one unit that lands in a segment without errors. -/
theorem stored_landSeg (he : errAt s (pa / 64 * 64) = none) (n x : Nat) (p : Bool) :
    Stored s pa n x (landSeg [(pa, n, x, p)] s) := by
  have hwritten : Stored s pa n x (writeMem pa n x (noteWrite pa n s)) := ⟨rfl, rfl⟩
  have hpoison (b : Bool) : Stored s pa n x (setSegPoison (pa / 64 * 64) b (writeMem pa n x (noteWrite pa n s))) := ⟨rfl, rfl⟩
  unfold landSeg
  dsimp only
  rw [checkStore_of_no_err he]
  split
  · exact hpoison true
  · split
    · exact hpoison false
    · exact hwritten

/-- R382, R387: one unit that lands in the memory of a tile without a pair. -/
theorem stored_landUnits (hp : (tileOf s (paTile pa)).pairOf = none) (he : errAt s (pa / 64 * 64) = none) (n x : Nat) (p : Bool) :
    Stored s pa n x (landUnits [(pa, n, x, p)] s) := by
  have hnone : (([(pa, n, x, p)] : List Landed).head?.map fun u => u.1).bind (mirrorOf s) = none := mirrorOf_of_no_pair hp
  unfold landUnits
  rw [hnone]
  exact stored_landSeg he n x p

/-- The error of an address is that of its segment. -/
theorem errAt_segment (s : State) (pa : Nat) : errAt s (pa / 64 * 64) = errAt s pa := by
  have hregion : paRegion (pa / 64 * 64) = paRegion pa := by unfold paRegion; omega
  have htile : paTile (pa / 64 * 64) = paTile pa := by unfold paTile; omega
  have hoff : paOff (pa / 64 * 64) / 64 = paOff pa / 64 := by unfold paOff; omega
  unfold errAt
  rw [hregion, htile, hoff]

/-! The end of a command (R181, R184). -/

/-- The futures of every context, the copies of every tile and the replies on their way, as before. -/
structure FuturesKept (s u : State) : Prop where
  futs : ∀ t c, (ctxOf u t c).futs = (ctxOf s t c).futs
  copies : ∀ t, (tileOf u t).copies = (tileOf s t).copies
  replies : u.replies = s.replies

theorem FuturesKept.refl (s : State) : FuturesKept s s := ⟨fun _ _ => rfl, fun _ => rfl, rfl⟩

theorem FuturesKept.trans (h : FuturesKept s u) (h' : FuturesKept u v) : FuturesKept s v :=
  ⟨fun t c => (h'.futs t c).trans (h.futs t c), fun t => (h'.copies t).trans (h.copies t), h'.replies.trans h.replies⟩

theorem Observed.futuresKept (h : Observed s u) : FuturesKept s u :=
  ⟨fun t c => congrArg Ctx.futs (h.ctxOf_eq t c), h.copies, h.replies⟩

theorem modCtx_futuresKept {t c : Nat} {f : Ctx → Ctx} (hf : ∀ y, (f y).futs = y.futs) (s : State) :
    FuturesKept s (modCtx t c f s) := by
  refine ⟨fun a d => ?_, part_modCtx Tile.copies (fun _ _ => rfl) t c f s, rfl⟩
  rw [ctxOf_modCtx]
  split
  next h => rw [hf, h.1, h.2]
  next => rfl

/-- R184: a trap that is pending leaves the futures. -/
theorem pendTrap_kept (w : View) (c : Cause) (seq : W32) (eval : Word) (s : State) : FuturesKept s (pendTrap w c seq eval s) := by
  unfold pendTrap pendImage
  dsimp only
  split
  · split
    · exact (observed_vaultStore ..).futuresKept
    · exact ⟨fun _ _ => rfl, fun _ => rfl, rfl⟩
  · split
    · refine FuturesKept.trans (modCtx_futuresKept ?_ s) (observed_modPair ..).futuresKept
      exact fun _ => rfl
    · exact .refl s

/-- R181: the record of a command that ended. -/
def endedFuture (s : State) (k : Nat) (f : Fut) : Fut := { f with st := .terminal, cmd := 0, seen := commandWrites s k }

/-- R181: the future of a command ends in the handle that holds it. -/
theorem endFuture_holder {w : View} {k c h : Nat} (hh : futHolder (tileOf s w.tile) k = some (c, h)) (seq : W32) (f : Fut) :
    Sparse.get {} (ctxOf (endFuture w k seq f s) w.tile c).futs h = endedFuture s k f ∧
      (∀ t, (tileOf (endFuture w k seq f s) t).copies = (tileOf s t).copies) ∧ (endFuture w k seq f s).replies = s.replies := by
  have hkept : FuturesKept (modCtx w.tile c (fun y => { y with futs := Sparse.set h (endedFuture s k f) y.futs }) s)
      (endFuture w k seq f s) := by
    unfold endFuture
    rw [hh]
    exact ((observed_modPair ..).trans (observed_monitorAt ..)).futuresKept
  refine ⟨?_, fun t => (hkept.copies t).trans (part_modCtx Tile.copies (fun _ _ => rfl) ..), hkept.replies⟩
  rw [hkept.futs, ctxOf_modCtx_same, Sparse.get_set_same]

end Sys2Proof.Machine
end

section
/-! SUPPORT and the settling theorem of the events of a copy (O42): one element moved within the scratchpads, the end of a copy, its
cancellation, and the release of a schedule entry. -/

namespace Sys2Proof.Machine

variable {s u : State} {t k i c h : Nat} {q : Copy} {r d : Resolved}

/-! One element (R194, R197, R198). -/

theorem toMove_of (hi : i < boxCount q.desc) (hland : hasLanded q i = false) (hfly : q.flying = []) : toMove q i = true := by
  unfold toMove
  simp [hi, hland, hfly]

theorem sameAccess_refl (a : Nat × Nat × Bool) : sameAccess a a = true := by
  unfold sameAccess
  simp

theorem accessElems_singleton (h : toMove q i = true) : accessElems q [i] = [i] := by
  unfold accessElems
  simp [h, sameAccess_refl]

/-- R197: an end that passes its checks resolves to where they found it. -/
theorem resolve_of_endCheck {v : View} {via : Via} {va n : Nat} {write : Bool} (h : endCheck s v via va n write = .ok r) :
    resolve s v via va write = .ok r := by
  unfold endCheck at h
  split at h
  case h_1 => exact nomatch h
  case h_2 x hx =>
    have hxr : x = r := by
      dsimp only at h
      repeat' split at h
      all_goals simp only [Except.ok.injEq, reduceCtorEq] at h
      all_goals exact h
    rw [hx, hxr]

theorem endRoute_direct {va n : Nat} {write : Bool} (h : endCheck s q.view .tile va n write = .ok r) (ht : r.tgt = .scratch) :
    endRoute s q va n write = .ok (.direct r) := by
  unfold endRoute
  rw [resolve_of_endCheck h]
  dsimp only
  rw [if_neg (by simp [ht]), h]
  rfl

/-- R126, R341, R343: an access of a scratchpad that no counter counts. -/
theorem reached_sendEnd {v : View} {va n : Nat} (ht : r.tgt = .scratch) (ha : r.ace = none) : Reached s (sendEnd v r va n s) := by
  unfold sendEnd sendAccess
  dsimp only
  rw [ha, if_neg (by simp [ht])]
  dsimp only
  split
  · exact reached_fillTlb ..
  · exact .refl s

/-- R220: where a byte of a launch that is not saved lies. -/
theorem lateAddr_of_unsaved {v : View} {pa : Nat} (h : ∀ l, launchOf s v.launch = some l → l.saved = none) :
    lateAddr s v pa = pa := by
  have hbase : lateBase s v.launch (paTile pa) = none := by
    unfold lateBase
    split
    · rfl
    next l hl =>
      rw [h l hl]
  unfold lateAddr
  rw [hbase]
  exact ite_self _

/-! The copy once an element has landed (R198). -/

theorem compactCopy_id (n : Nat) (q : Copy) : (compactCopy n q).id = q.id := by
  induction n generalizing q with
  | zero => rfl
  | succ n ih =>
    unfold compactCopy
    split
    · exact ih _
    · rfl

theorem compactCopy_desc (n : Nat) (q : Copy) : (compactCopy n q).desc = q.desc := by
  induction n generalizing q with
  | zero => rfl
  | succ n ih =>
    unfold compactCopy
    split
    · exact ih _
    · rfl

/-- R198: passing over landed elements forgets none of them. -/
theorem hasLanded_compactCopy (n : Nat) {q : Copy} (h : hasLanded q i = true) : hasLanded (compactCopy n q) i = true := by
  induction n generalizing q with
  | zero => exact h
  | succ n ih =>
    unfold compactCopy
    split
    · refine ih ?_
      unfold hasLanded at h ⊢
      simp only [Bool.or_eq_true, decide_eq_true_eq, List.contains_iff_mem, List.mem_filter] at h ⊢
      by_cases hi : i = q.next
      · exact .inl (by omega)
      · exact h.imp (by omega) fun hm => ⟨hm, hi⟩
    · exact h

/-- R198: a copy with one more element landed. -/
def landedCopy (q : Copy) (i : Nat) : Copy :=
  compactCopy (q.done.length + 1)
    { q with
      done := q.done ++ [i], stall := none, heldSince := none, priFail := false, pri := none
      flying := q.flying.filter (fun j => !([i] : List Nat).contains j), got := q.got.filter fun g => decide (g.1 ≠ [i]) }

theorem landedCopy_id (q : Copy) (i : Nat) : (landedCopy q i).id = q.id := compactCopy_id ..

theorem hasLanded_landedCopy (q : Copy) (i : Nat) : hasLanded (landedCopy q i) i = true := by
  refine hasLanded_compactCopy _ ?_
  unfold hasLanded
  simp

/-- R198: an element of a copy without an arrival set has landed. -/
theorem elemsDone_unmarked (ha : q.desc.asv = false) (t i : Nat) (s : State) :
    elemsDone t q [i] s = modCopy t q.id (fun _ => landedCopy q i) s := by
  have hdesc : (landedCopy q i).desc.asv = false := (congrArg CopyDesc.asv (compactCopy_desc ..)).trans ha
  unfold elemsDone markElems
  exact if_pos (by simpa [landedCopy] using hdesc)

theorem id_of_find {l : List Copy} (hfind : l.find? (fun r => decide (r.id = k)) = some q) : q.id = k := by
  have hp := List.find?_some hfind
  exact of_decide_eq_true hp

/-- The copy of a queue after a change that keeps its name. -/
theorem find_copies_map {l : List Copy} {q q' : Copy} (hfind : l.find? (fun r => decide (r.id = k)) = some q) (hid : q'.id = k) :
    (l.map fun r => if r.id = k then q' else r).find? (fun r => decide (r.id = k)) = some q' := by
  have hp : (fun r : Copy => decide (r.id = k)) ∘ (fun r => if r.id = k then q' else r) = fun r => decide (r.id = k) := by
    funext r
    by_cases hr : r.id = k <;> simp [hr, hid]
  rw [List.find?_map, hp, hfind]
  exact congrArg some (if_pos (id_of_find hfind))

/-- R194, R197: one element that is read and written within the scratchpads. -/
theorem copyAccess_scratch (hfind : (tileOf s t).copies.find? (fun r => decide (r.id = k)) = some q)
    (hheld : heldByPair s t q.ctx k = false) (hcause : q.cause = .none_) (hcan : q.cancelled = false) (hpri : q.pri = none)
    (hgot : q.got = []) (hmove : toMove q i = true) (hread : (element q.desc i).2.2 = true)
    (hr : endCheck s q.view .tile (element q.desc i).1 (2 ^ q.desc.esz) false = .ok r) (hrt : r.tgt = .scratch)
    (hd : endCheck s q.view .tile (element q.desc i).2.1 (2 ^ q.desc.esz) true = .ok d) (hdt : d.tgt = .scratch) :
    copyAccess t k [i] s =
      let w := readElems q [i] (element q.desc i).1 r s
      landElems t q [i] w.1 (element q.desc i).2.1 d w.2 := by
  have hstop : ¬(q.cause ≠ .none_ ∨ q.cancelled = true ∨ q.pri.isSome = true ∨ heldByPair s t q.ctx q.id = true) := by
    rw [id_of_find hfind]
    simp [hcause, hcan, hpri, hheld]
  unfold copyAccess
  rw [hfind]
  dsimp only
  rw [if_neg hstop, hgot, accessElems_singleton hmove]
  dsimp only [List.find?_nil]
  rw [if_pos hread]
  unfold writeElems
  have hleast (f : Nat × Nat × Bool → Nat) : leastOf q f [i] = f (element q.desc i) := rfl
  rw [hleast, hleast, endRoute_direct hr hrt]
  dsimp only
  rw [endRoute_direct hd hdt]

/-- R194, R270: what one element reads within a scratchpad. -/
theorem readElems_scratch (hrt : r.tgt = .scratch) (hra : r.ace = none) (hl : ∀ l, launchOf s q.view.launch = some l → l.saved = none)
    (has : s.asOf = none) : ∃ w, Reached s w ∧ readElems q [i] (element q.desc i).1 r s =
      ([(s.mem.readN r.pa (2 ^ q.desc.esz), segPoison s r.pa)], w) := by
  have hw := reached_sendEnd (s := s) (v := q.view) (va := (element q.desc i).1) (n := 2 ^ q.desc.esz) hrt hra
  refine ⟨_, hw, ?_⟩
  unfold readElems
  dsimp only
  rw [if_neg (by simp [hrt]), if_neg (by simp [hrt]), List.map_singleton, lateAddr_of_unsaved (by rw [hw.observed.launchOf_eq]; exact hl),
    Nat.add_sub_cancel, readAs_latest (.inl (hw.observed.asOf.trans has)), hw.mem, hw.segPoison]

/-- R194, R198: one value that lands in a scratchpad of a tile without a pair. -/
theorem landElems_scratch (hdt : d.tgt = .scratch) (hda : d.ace = none) (hreg : paRegion d.pa = 1)
    (hl : ∀ l, launchOf s q.view.launch = some l → l.saved = none) (hpair : (tileOf s (paTile d.pa)).pairOf = none)
    (has : q.desc.asv = false) (x : Nat) (p : Bool) : ∃ w w', Reached s w ∧ Stored w d.pa (2 ^ q.desc.esz) x w' ∧
      landElems t q [i] [(x, p)] (element q.desc i).2.1 d s = modCopy t q.id (fun _ => landedCopy q i) w' := by
  have hw := reached_sendEnd (s := s) (v := q.view) (va := (element q.desc i).2.1) (n := 2 ^ q.desc.esz) hdt hda
  have hstored := stored_landUnits ((hw.observed.part Tile.pairOf (fun _ => rfl) _).trans hpair)
    ((errAt_segment ..).trans (errAt_scratch hreg _)) (2 ^ q.desc.esz) x p
  refine ⟨_, _, hw, hstored.tagged fun e => { e with writer := .copy q.id }, ?_⟩
  unfold landElems
  dsimp only
  rw [if_neg (by simp [hdt]), if_neg (by simp [hdt]), elemsDone_unmarked has, List.zip_cons_cons, List.zip_nil_left,
    List.map_singleton, lateAddr_of_unsaved (by rw [hw.observed.launchOf_eq]; exact hl), Nat.add_sub_cancel]

/-! The end of a copy (R198, R199). -/

/-- R198: a copy that has left its queue. -/
def withoutCopy (t k : Nat) (s : State) : State :=
  modTile t (fun x => { x with copies := x.copies.filter fun r => decide (r.id ≠ k) }) s

section
variable (hfind : (tileOf s t).copies.find? (fun r => decide (r.id = k)) = some q) (hheld : heldByPair s t q.ctx k = false)
include hfind hheld

theorem copyComplete_cancelled (hcan : q.cancelled = true) :
    copyComplete t k s = withoutCopy t k (endFuture q.view k q.seq { code := 6 } s) := by
  unfold copyComplete
  rw [hfind]
  dsimp only
  rw [if_neg (by rw [id_of_find hfind, hheld]; simp), if_pos hcan]
  rfl

theorem copyComplete_faulted (hcan : q.cancelled = false) (hcause : q.cause ≠ .none_) (hfly : copyFlies s k = false) :
    copyComplete t k s = withoutCopy t k (deliverCopy q s) := by
  unfold copyComplete
  rw [hfind]
  dsimp only
  rw [if_neg (by rw [id_of_find hfind, hheld]; simp), if_neg (by simp [hcan]), if_pos hcause, if_neg (by simp [hfly])]
  rfl

theorem copyComplete_landed (hcan : q.cancelled = false) (hcause : q.cause = .none_) (hall : boxCount q.desc ≤ q.next) :
    copyComplete t k s = withoutCopy t k (endFuture q.view k q.seq { code := 1, count := landedBytes q } s) := by
  unfold copyComplete
  rw [hfind]
  dsimp only
  rw [if_neg (by rw [id_of_find hfind, hheld]; simp), if_neg (by simp [hcan]), if_neg (by simp [hcause]), if_pos hall]
  rfl

end

/-- R184: a copy of a CPY that ended in a fault delivers it to its future, and beside that at most as a trap. -/
theorem deliverCopy_kept (hsched : q.sched = false) :
    FuturesKept (endFuture q.view q.id q.seq { code := 5, cause := q.cause.code, count := landedBytes q, aux := q.aux } s)
      (deliverCopy q s) := by
  unfold deliverCopy
  dsimp only
  rw [if_neg (by simp [hsched])]
  split
  · exact pendTrap_kept ..
  · exact .refl _

/-- R198: what a copy leaves that ended in the handle that holds its future. -/
theorem withoutCopy_ended {f : Fut} (hh : futHolder (tileOf s q.view.tile) k = some (c, h))
    (hu : FuturesKept (endFuture q.view k q.seq f s) u) :
    (tileOf (withoutCopy t k u) t).copies = (tileOf s t).copies.filter (fun r => decide (r.id ≠ k)) ∧
      Sparse.get {} (ctxOf (withoutCopy t k u) q.view.tile c).futs h = endedFuture s k f := by
  obtain ⟨hfut, hcopies, -⟩ := endFuture_holder hh q.seq f
  unfold withoutCopy
  rw [tileOf_modTile_same, hu.copies, hcopies, ctxOf_modTile, hu.futs, hfut]
  · exact ⟨rfl, rfl⟩
  · exact fun _ => rfl

/-! Cancellation (R189). -/

theorem cancelArrival_of (hcan : s.cancels.find? (fun r => decide (r.1 = i)) = some (i, t, k))
    (hreq : s.agentReqs.any (fun r => decide (r.2.id = k)) = false) (hheld : cancelHeld s t i k = false)
    (hsent : sentBefore s t (cancelTile s t k) i = false)
    (hfind : (tileOf s t).copies.find? (fun r => decide (r.id = k)) = some q) (hnext : q.next = 0) (hdone : q.done = [])
    (hcause : q.cause = .none_) (hcount : boxCount q.desc ≠ 0) :
    cancelArrival i s = modCopy t k (fun q => { q with cancelled := true })
      { s with cancels := s.cancels.filter fun r => decide (r.1 ≠ i) } := by
  have hcopies : (tileOf { s with cancels := s.cancels.filter fun r => decide (r.1 ≠ i) } t).copies = (tileOf s t).copies := rfl
  unfold cancelArrival
  rw [hcan]
  dsimp only
  rw [if_neg (by simp [hreq]), if_neg (by simp [hheld, hsent]), hcopies, hfind]
  exact if_pos ⟨hnext, hdone, hcause, hcount⟩

/-! The copy schedule (R200). -/

/-- R200: the copy of a released entry counts as one of a schedule, without a future. -/
theorem releasedCopy_fields (s : State) (t : Nat) (r : Reserve) (id : Nat) (n : W32) :
    (releasedCopy s t r id n).1.sched = true ∧ (releasedCopy s t r id n).1.nf = true ∧ (releasedCopy s t r id n).1.seq = n := by
  unfold releasedCopy
  dsimp only
  split
  · exact ⟨rfl, rfl, rfl⟩
  · split
    · exact ⟨rfl, rfl, rfl⟩
    · split
      · exact ⟨rfl, rfl, rfl⟩
      · exact ⟨rfl, rfl, rfl⟩

/-- R200: the context of a CPYS one of whose entries has been released. -/
def entryReleased (n : W32) (r : Reserve) (y : Ctx) : Ctx :=
  { y with seqLast := n, cpysLeft := r.left - 1, cpysNext := r.next + 1, cpysDone := decide (r.left = 1) }

/-- R200: a tile with one more copy, and the reserves that are left. -/
def releasedInto (e : Copy) (l : List Reserve) (x : Tile) : Tile := { x with copies := x.copies ++ [e], reserves := l }

/-- R200: the state in which a released entry is numbered and traced. -/
def numberedEntry (t : Nat) (r : Reserve) (s : State) : State :=
  let v := (freshId (takeSeq t 0 s).2).2
  countEvent t r.ctx 15 1 (monitor t r.ctx 4 0x21 (ctxOf s t r.ctx).pc 0 (coreOf s t 0).seqno v)

theorem observed_numberedEntry (t : Nat) (r : Reserve) (s : State) :
    Observed (freshId (takeSeq t 0 s).2).2 (numberedEntry t r s) := by
  unfold numberedEntry countEvent monitor
  exact (observed_monitorAt ..).trans (observed_countAt ..)

/-- R341: the translation that a released entry used. -/
def fillEntry (t : Nat) (e : Option Resolved) (s : State) : State :=
  match e with
  | some e => (match e.entry with | some e => fillTlb .tile t e s | none => s)
  | none => s

theorem observed_fillEntry (t : Nat) (e : Option Resolved) (s : State) : Observed s (fillEntry t e s) := by
  unfold fillEntry
  split
  · split
    · exact observed_fillTlb ..
    · exact .refl s
  · exact .refl s

theorem scheduleEntryRelease_of {rest : List Reserve} {r : Reserve} (hres : (tileOf s t).reserves = r :: rest)
    (hleft : (ctxOf s t r.ctx).cpysLeft ≠ 0) (hnext : (ctxOf s t r.ctx).cpysNext = r.next)
    (hstop : (ctxOf s t r.ctx).stopped = false) (hroom : (tileOf s t).copies.length < 1024) :
    scheduleEntryRelease t s =
      let v := numberedEntry t r s
      let p := releasedCopy v t r (takeSeq t 0 s).2.nextId (coreOf s t 0).seqno
      modTile t (releasedInto p.1 (if r.left = 1 then rest else { r with next := r.next + 1, left := r.left - 1 } :: rest))
        (modCtx t r.ctx (entryReleased (coreOf s t 0).seqno r) (fillEntry t p.2 v)) := by
  have hguard : ¬((ctxIn (tileOf s t) r.ctx).cpysLeft = 0 ∨ (ctxIn (tileOf s t) r.ctx).cpysNext ≠ r.next ∨
      (ctxIn (tileOf s t) r.ctx).stopped = true ∨ (tileOf s t).copies.length ≥ 1024) := by
    rintro (h | h | h | h)
    · exact hleft h
    · exact h hnext
    · exact Bool.false_ne_true (hstop.symm.trans h)
    · omega
  unfold scheduleEntryRelease
  dsimp only
  rw [hres]
  dsimp only
  rw [if_neg hguard]
  rfl

/-- R200: what the release of an entry leaves of the queue, the number and the context. -/
theorem releasedInto_fields {v : State} {r : Reserve} {e : Copy} {l : List Reserve} {m : W32} (hv : Observed (freshId (takeSeq t 0 s).2).2 v) :
    let u := modTile t (releasedInto e l) (modCtx t r.ctx (entryReleased m r) v)
    (tileOf u t).copies = (tileOf s t).copies ++ [e] ∧ (coreOf u t 0).seqno = (coreOf s t 0).seqno + 1 ∧
      (ctxOf u t r.ctx).cpysLeft = r.left - 1 ∧ ((ctxOf u t r.ctx).cpysDone = true ↔ r.left = 1) := by
  have hnumbered : (tileOf (modCore t 0 (fun x => { x with seqno := (coreOf s t 0).seqno + 1 }) s) t).copies = (tileOf s t).copies :=
    (congrArg Tile.copies (tileOf_modTile_same ..) :)
  have hcopies : (tileOf v t).copies = (tileOf s t).copies := (hv.copies t).trans hnumbered
  have hseq : (coreOf v t 0).seqno = (coreOf s t 0).seqno + 1 :=
    ((hv.tile t).seqno 0).trans (congrArg CoreSt.seqno (coreOf_modCore_same ..))
  dsimp only
  rw [tileOf_modTile_same, ctxOf_modTile t (f := releasedInto e l) (fun _ => rfl), coreOf_modTile t (f := releasedInto e l) (fun _ => rfl),
    ctxOf_modCtx_same, coreOf_modCtx]
  refine ⟨?_, hseq, rfl, decide_eq_true_iff⟩
  unfold releasedInto
  dsimp only
  rw [part_modCtx Tile.copies (fun _ _ => rfl), hcopies]

/-- Settles O42: a read and a write of one element, one end of a copy, one cancellation and one release, each by its equation. -/
theorem copyEvents : Obligations.CopyEvents := by
  intro t k c h i q s x n ended
  refine ⟨fun hfind hheld => ⟨fun r d hcause hcan hpri hasv hi hland hfly hgot has hread hr hd hrt hdt hrr hdr hra hda hl hpair => ?access,
      fun hcause hcan hall hh => ?landed, fun hcan hh => ?cancelled, fun hcan hcause hsched hfly hh => ?faulted,
      fun hcan hreq hch hsent hnext hdone hcause hcount => ?cancel⟩,
    fun r rest hres hleft hnext hstop hroom => ?release⟩
  case access =>
    obtain ⟨w, hw, hreadElems⟩ := readElems_scratch (i := i) hrt hra hl has
    have hlw : ∀ l, launchOf w q.view.launch = some l → l.saved = none := fun l h => hl l (hw.observed.launchOf_eq _ ▸ h)
    obtain ⟨w1, u, hw1, hstored, hland'⟩ := landElems_scratch (i := i) (q := q) hdt hda hdr hlw
      ((hw.observed.part Tile.pairOf (fun _ => rfl) _).trans hpair) hasv (s.mem.readN r.pa n) (segPoison s r.pa)
    have haccess := copyAccess_scratch hfind hheld hcause hcan hpri hgot (toMove_of hi hland hfly) hread hr hrt hd hdt
    rw [hreadElems] at haccess
    have hmem : w1.mem = s.mem := hw1.mem.trans hw.mem
    refine ⟨_, congrArg Host.Outcome.next (haccess.trans hland'), ?_, fun b hb => ?_, landedCopy q i, ?_, hasLanded_landedCopy q i⟩
    · exact hstored.readN_eq.trans (Nat.mod_eq_of_lt (Memory.readN_lt ..))
    · exact (hstored.read_other hb).trans (congrArg (fun m : Memory => m.read b) hmem)
    · unfold modCopy
      rw [tileOf_modTile_same, hstored.tileOf_eq, hw1.observed.copies, hw.observed.copies, id_of_find hfind]
      exact find_copies_map hfind ((landedCopy_id q i).trans (id_of_find hfind))
  case landed =>
    obtain ⟨hcopies, hfut⟩ := withoutCopy_ended (t := t) hh (.refl _)
    refine ⟨_, congrArg Host.Outcome.next (copyComplete_landed hfind hheld hcan hcause hall), hcopies, ?_⟩
    rw [hfut]
    exact ⟨rfl, rfl, rfl⟩
  case cancelled =>
    obtain ⟨hcopies, hfut⟩ := withoutCopy_ended (t := t) hh (.refl _)
    refine ⟨_, congrArg Host.Outcome.next (copyComplete_cancelled hfind hheld hcan), hcopies, ?_⟩
    rw [hfut]
    exact ⟨rfl, rfl⟩
  case faulted =>
    have hkept := deliverCopy_kept (s := s) hsched
    rw [id_of_find hfind] at hkept
    obtain ⟨hcopies, hfut⟩ := withoutCopy_ended (t := t) hh hkept
    refine ⟨_, congrArg Host.Outcome.next (copyComplete_faulted hfind hheld hcan hcause hfly), hcopies, ?_⟩
    rw [hfut]
    exact ⟨rfl, rfl, rfl, rfl⟩
  case cancel =>
    exact congrArg Host.Outcome.next (cancelArrival_of hcan hreq hch hsent hfind hnext hdone hcause hcount)
  case release =>
    obtain ⟨hsched, hnf, hseq⟩ := releasedCopy_fields (numberedEntry t r s) t r (takeSeq t 0 s).2.nextId (coreOf s t 0).seqno
    obtain ⟨hcopies, hnumber, hcount, hdone⟩ :=
      releasedInto_fields ((observed_numberedEntry t r s).trans (observed_fillEntry t _ (numberedEntry t r s)))
    exact ⟨_, _, congrArg Host.Outcome.next (scheduleEntryRelease_of hres hleft hnext hstop hroom), hcopies, hsched, hnf, hseq,
      hnumber, hcount, hdone⟩

end Sys2Proof.Machine
end

section
/-! SUPPORT and the settling theorem of the events of an agent (O43): the service of an RPC over one piece of its vault, the end of a
request held for too long, and the arrival of a reply. -/

namespace Sys2Proof.Machine

variable {s s1 v : State} {u p pa n x : Nat} {q : AReq} {a r : Reply}

/-! What the end of a service leaves (R182, R204). -/

theorem observed_countCore (t k ev n : Nat) (s : State) : Observed s (countCore t k ev n s) :=
  observed_foldl (fun _ _ => .ite (observed_pmcAdd ..) (.refl _)) _ s

theorem steady_countCore {t : Nat} (h : MonitorOff s t) (k ev n : Nat) : Steady s (countCore t k ev n s) :=
  steady_foldl (fun _ _ hu => .ite (hu.trans (steady_pmcAdd (h.steady hu) ..)) hu) _ (.refl s)

/-- The replies on their way and the requests of every agent, as before. -/
structure RequestsKept (s v : State) : Prop where
  replies : v.replies = s.replies
  agentq : ∀ t, (tileOf v t).agentq = (tileOf s t).agentq

theorem RequestsKept.trans {w : State} (h : RequestsKept s v) (h' : RequestsKept v w) : RequestsKept s w :=
  ⟨h'.replies.trans h.replies, fun t => (h'.agentq t).trans (h.agentq t)⟩

theorem Observed.requestsKept (h : Observed s v) : RequestsKept s v := ⟨h.replies, h.part Tile.agentq fun _ => rfl⟩

theorem modTile_requestsKept (t : Nat) {f : Tile → Tile} (hf : ∀ x, (f x).agentq = x.agentq) (s : State) :
    RequestsKept s (modTile t f s) := ⟨rfl, part_modTile Tile.agentq t hf s⟩

/-- R411: an entry of the log goes to the vault, not to a queue. -/
theorem logPut_requestsKept (t kind c code count value : Nat) (s : State) : RequestsKept s (logPut t kind c code count value s) := by
  have hrefl : RequestsKept s s := ⟨rfl, fun _ => rfl⟩
  unfold logPut
  split
  case h_2 => exact hrefl
  case h_1 l _ =>
    split
    · dsimp only
      split
      · refine ⟨rfl, fun a => ?_⟩
        exact part_modTile Tile.agentq t (f := fun x => { x with logFull := true }) (fun _ => rfl) s a
      · refine ((observed_vaultStore ..).trans (observed_vaultStore ..)).requestsKept.trans (modTile_requestsKept t ?_ _)
        exact fun _ => rfl
    · exact hrefl

/-- R182: a served request has left the queue, and nothing else of the queues has changed. -/
theorem servedBy_requests (u : Nat) (q : AReq) (s : State) : (servedBy u q s).replies = s.replies ∧
    (tileOf (servedBy u q s) u).agentq = (tileOf s u).agentq.filter fun r => decide (r.id ≠ q.id) := by
  have hkept := (logPut_requestsKept u 1 0 0 (tileOf s u).serves (q.view.tile + q.view.ctx * 2 ^ 11 + q.seq.toNat * 2 ^ 32) s).trans
    ((observed_countCore u 1 16 1 _).trans (observed_countCore u 0 16 1 _)).requestsKept
  refine ⟨hkept.replies, ?_⟩
  unfold servedBy
  dsimp only
  rw [tileOf_modTile_same, hkept.agentq]

/-- R405, R410: an agent that neither records nor replays, on a tile without monitor. -/
structure AgentQuiet (s : State) (u : Nat) : Prop where
  log : ∀ l, launchOf s (tileOf s u).launch = some l → l.recording = none
  mon : MonitorOff s u

theorem AgentQuiet.not_replaying (h : AgentQuiet s u) : replaying s u = false := by
  unfold replaying
  split
  next l hl => simp [h.log l hl]
  next => rfl

theorem AgentQuiet.logPut_eq (h : AgentQuiet s u) (kind c code count value : Nat) : logPut u kind c code count value s = s := by
  unfold logPut
  split
  next l hl => exact if_neg (by simp [h.log l hl])
  next => rfl

theorem AgentQuiet.servedBy_mem (h : AgentQuiet s u) (q : AReq) : (servedBy u q s).mem = s.mem := by
  have hcounted := steady_countCore h.mon 1 16 1
  unfold servedBy
  rw [h.logPut_eq]
  exact (hcounted.trans (steady_countCore (h.mon.steady hcounted) 0 16 1)).mem

/-- A state as before but for `n` bytes of memory, and for what an agent changes on its way there. -/
structure PieceServed (s : State) (u pa n : Nat) (v : State) : Prop where
  requests : RequestsKept s v
  quiet : AgentQuiet s u → AgentQuiet v u
  frame : ∀ a, a < pa ∨ pa + n ≤ a → v.mem.read a = s.mem.read a

theorem Reached.pieceServed (h : Reached s v) (u pa n : Nat) : PieceServed s u pa n v where
  requests := h.observed.requestsKept
  quiet hq := by
    refine ⟨fun l hl => hq.log l ?_, ?_⟩
    · rwa [h.observed.launchOf_eq, h.observed.part Tile.launch fun _ => rfl] at hl
    · unfold MonitorOff
      rw [(h.tile u).mon]
      exact hq.mon
  frame _ _ := by rw [h.mem]

theorem Stored.pieceServed (h : Stored s pa n x v) (u : Nat) : PieceServed s u pa n v where
  requests := ⟨h.replies, fun t => congrArg Tile.agentq (h.tileOf_eq t)⟩
  quiet hq := by
    have hlaunches : v.launches = s.launches := (congrArg State.launches h.rest :)
    refine ⟨fun l hl => hq.log l ?_, ?_⟩
    · unfold launchOf at hl ⊢
      rwa [hlaunches, h.tileOf_eq] at hl
    · unfold MonitorOff
      rw [h.tileOf_eq]
      exact hq.mon
  frame _ ha := h.read_other ha

theorem PieceServed.trans {w : State} (h : PieceServed s u pa n v) (h' : PieceServed v u pa n w) : PieceServed s u pa n w :=
  ⟨h.requests.trans h'.requests, fun hq => h'.quiet (h.quiet hq), fun a ha => (h'.frame a ha).trans (h.frame a ha)⟩

/-- R182, R204: what the agent leaves when it has replied. -/
theorem PieceServed.replied (h : PieceServed s u pa n v) (hq : AgentQuiet s u) (q : AReq) (a : Reply) :
    let w := servedBy u q (sendReply u a v)
    w.replies = s.replies ++ [{ a with src := u, sent := v.nextId }] ∧ w.mem = v.mem ∧
      (tileOf w u).agentq = (tileOf s u).agentq.filter (fun r => decide (r.id ≠ q.id)) ∧
      ∀ b, b < pa ∨ pa + n ≤ b → w.mem.read b = s.mem.read b := by
  obtain ⟨hreplies, hagentq⟩ := servedBy_requests u q (sendReply u a v)
  have hquiet : AgentQuiet (sendReply u a v) u := ⟨(h.quiet hq).log, (h.quiet hq).mon⟩
  have hmem : (servedBy u q (sendReply u a v)).mem = v.mem := hquiet.servedBy_mem q
  refine ⟨hreplies.trans ?_, hmem, hagentq.trans ?_, fun b hb => ?_⟩
  · exact congrArg (· ++ [_]) h.requests.replies
  · exact congrArg (List.filter _) (h.requests.agentq u)
  · exact (congrArg (Memory.read · b) hmem).trans (h.frame b hb)

/-! One piece of the vault (R204). -/

/-- R204: the bytes that the target of an RPC has. -/
def rpcBytes (p : Nat) (q : AReq) : Nat :=
  ((rpcShape p (blk q.block.toNat 24 4) (blk q.block.toNat 28 1) (blk q.block.toNat 8 8)).getD (0, 0)).2

/-- R205: the reply of an RPC whose bytes were read. -/
def rpcReply (p : Nat) (q : AReq) (old : Nat × Bool) : Reply :=
  let back := p = 0 ∨ (2 ≤ p ∧ p ≤ 5 ∧ blk q.block.toNat 28 1 % 2 = 1) ∨ p = 6 ∨ p = 7
  { replyOf q 1 .none_ 0 (rpcBytes p q) 0 (if back then natBytes (if p = 0 then old.1 else 0) (rpcBytes p q) else []) (decide (p = 0) && old.2) with
    rply := blk q.block.toNat 16 8, arv := if q.nf then some (blk q.block.toNat 29 1 % 64) else none }

/-- R341, R381: the state in which an RPC meets its piece. -/
def rpcOpened (p u pa n : Nat) (q : AReq) (s : State) : State :=
  openPieces u [(pa, 0, n)] (checkPieces [(pa, 0, n)] (agentFill q.view u (blk q.block.toNat 8 8) (rpcWrites p) s))

theorem reached_agentFill (w : View) (u va : Nat) (write : Bool) : Reached s (agentFill w u va write s) := by
  unfold agentFill
  split
  · split
    · exact reached_fillTlb ..
    · exact .refl s
  · exact .refl s

theorem reached_rpcOpened (h : errAt s pa = none) (p u n : Nat) (q : AReq) : Reached s (rpcOpened p u pa n q s) := by
  have hfill := reached_agentFill (s := s) q.view u (blk q.block.toNat 8 8) (rpcWrites p)
  unfold rpcOpened checkPieces openPieces
  rw [List.foldl_cons, List.foldl_nil, List.foldl_cons, List.foldl_nil, checkSegment_of_no_err ((hfill.errAt pa).trans h)]
  exact hfill.trans (reached_touchBank ..)

/-- R270: one piece, read where a read passes over no write. -/
theorem readPieces_latest {mine : WriteEv → Bool} (h : s.asOf = none ∨ mine = fun _ => true) :
    readPieces s mine [(pa, 0, n)] = (s.mem.readN pa n, segPoison s pa) := by
  unfold readPieces
  rw [List.foldl_cons, List.foldl_nil, readAs_latest h]
  simp

/-- R131, R132: a piece that the vault lets pass lies in a row that takes accesses. -/
theorem vaultPieces_head_free {w : View} {write : Bool} {l m : List (Nat × Nat × Nat)} {y : Nat × Nat × Nat}
    (h : vaultPieces s w u write l = .ok (y :: m)) : vaultHindrance s u (paOff y.1) .rpcRemote = none := by
  cases l with
  | nil => exact nomatch h
  | cons z l =>
    unfold vaultPieces at h
    split at h
    · exact nomatch h
    · split at h
      · exact nomatch h
      · split at h
        · exact nomatch h
        · split at h
          · exact nomatch h
          next hfree =>
            split at h
            · exact nomatch h
            · obtain ⟨rfl, -⟩ := List.cons.inj (Except.ok.inj h)
              exact hfree

theorem partHindrance_of_free {x : Landed} (h : vaultHindrance s u (paOff x.1) .rpcRemote = none) :
    partHindrance s u [x] = none := by
  unfold vaultHindrance at h
  dsimp only at h
  split at h
  · exact nomatch h
  · split at h
    · exact nomatch h
    next hflag =>
      split at h
      · exact nomatch h
      next hrefresh =>
        unfold partHindrance flaggedRow
        dsimp only
        rw [if_neg hflag, if_neg hrefresh]
        exact ite_self _

theorem Reached.vaultHindrance (h : Reached s v) (t off : Nat) (c : Cause) : vaultHindrance v t off c = vaultHindrance s t off c := by
  unfold Machine.vaultHindrance refreshing
  dsimp only
  rw [h.part Vault.hold fun _ => rfl, h.part Vault.flagged fun _ => rfl, h.part Vault.refresh fun _ => rfl]

/-! The writes of a procedure (R204). -/

theorem writePart_nothing (hbox : q.box = none) : writePart u { q with writes := [], left := [] } r s = servedBy u q (sendReply u r s) := by
  have hpick : pickOne s ([] : List Nat) = none := rfl
  unfold writePart
  rw [hpick, hbox]
  rfl

/-- R204: the only unit of a procedure, written in its turn. -/
theorem writePart_single {y : Landed} (hbox : q.box = none) (hfree : vaultHindrance s u (paOff y.1) .rpcRemote = none) :
    writePart u { q with writes := [[y]], left := [0] } r s =
      let a := landPart u { q with writes := [[y]], left := [0] } 0 r s
      servedBy u q (sendReply u a.2 a.1) := by
  have hpick : pickOne s [0] = some (0, ([] : List Nat)) := by
    unfold pickOne pickOf
    simp [Nat.mod_one]
  have hunit : ([[y]] : List (List Landed)).getD 0 [] = [y] := rfl
  unfold writePart
  dsimp only
  rw [hpick]
  dsimp only
  rw [hunit, partHindrance_of_free hfree, hbox]
  rfl

theorem landPart_modify {y : Landed} (hkind : q.kind = .rpc p) (hmod : modifies p = true) :
    landPart u { q with writes := [[y]], left := [0] } 0 r s = modifyPart u { q with writes := [[y]], left := [0] } p 0 y r s := by
  unfold landPart
  dsimp only
  rw [hkind]
  exact if_pos hmod

/-- R204, R273: a modification lands the new value of its unit and replies with the old one. -/
theorem modifyPart_stored (he : errAt s pa = none) (hpair : (tileOf s (paTile pa)).pairOf = none) (q : AReq) (p off n x : Nat)
    (b : Bool) (r : Reply) :
    let old := s.mem.readN pa n
    let a := modifyPart u q p off (pa, n, x, b) r s
    Stored s pa n ((procedure p (n / 4) old x).1.getD old) a.1 ∧ a.2.id = r.id ∧ a.2.code = r.code ∧
      a.2.bytes = patchBytes off n old r.bytes := by
  unfold modifyPart
  dsimp only
  rw [checkSegment_of_no_err he]
  have hstored := stored_landUnits hpair ((errAt_segment ..).trans he) n
    ((procedure p (n / 4) (readMem s pa n) x).1.getD (readMem s pa n))
    ((procedure p (n / 4) (readMem s pa n) x).1.isSome && (b || (usesOld p && segPoison s pa)))
  exact ⟨(hstored.tagged fun e => { e with writer := .agent q.id q.view.tile u }).atomicWrite .., rfl, rfl, rfl⟩

variable {data : Nat}

/-- R204: RPC.READ replies with what it read. -/
theorem performRpc_read (hbox : q.box = none) : performRpc u q 0 [(pa, 0, rpcBytes 0 q)] [] data s =
    let s1 := rpcOpened 0 u pa (rpcBytes 0 q) q s
    servedBy u q (sendReply u (rpcReply 0 q (readPieces s1 (agentKnows q.view u) [(pa, 0, rpcBytes 0 q)])) s1) :=
  writePart_nothing hbox

/-- R204: RPC.WRITE lands its data. -/
theorem performRpc_write (hkind : q.kind = .rpc 1) (hbox : q.box = none) (he : errAt s pa = none)
    (hpair : (tileOf s (paTile pa)).pairOf = none) (hfree : vaultHindrance s u (paOff pa) .rpcRemote = none) :
    ∃ s1 s2, Reached s s1 ∧ Stored s1 pa n (data / 2 ^ (8 * 0) % 2 ^ (8 * n)) s2 ∧
      performRpc u q 1 [(pa, 0, n)] [] data s = servedBy u q (sendReply u (rpcReply 1 q (readPieces s1 (fun _ => true) [(pa, 0, n)])) s2) := by
  have hs1 := reached_rpcOpened he 1 u n q
  have hstored := stored_landUnits ((hs1.observed.part Tile.pairOf (fun _ => rfl) _).trans hpair)
    ((errAt_segment ..).trans ((hs1.errAt pa).trans he)) n (data / 2 ^ (8 * 0) % 2 ^ (8 * n)) false
  refine ⟨_, _, hs1, hstored.tagged fun e => { e with writer := .agent q.id q.view.tile u }, ?_⟩
  have hfree1 := (hs1.vaultHindrance u (paOff pa) .rpcRemote).trans hfree
  refine (writePart_single (y := (pa, n, data / 2 ^ (8 * 0) % 2 ^ (8 * n), false)) hbox hfree1).trans ?_
  unfold landPart
  rw [hkind]
  rfl

/-- R204: a procedure that changes what it finds lands the new value and replies with the old one. -/
theorem performRpc_modify (hkind : q.kind = .rpc p) (hp : 2 ≤ p ∧ p ≤ 7) (hbox : q.box = none) (he : errAt s pa = none)
    (hpair : (tileOf s (paTile pa)).pairOf = none) (hfree : vaultHindrance s u (paOff pa) .rpcRemote = none) :
    ∃ s1 s2 a, Reached s s1 ∧
      Stored s1 pa n ((procedure p (n / 4) (s.mem.readN pa n) (if p ≥ 6 then data else data / 2 ^ (8 * 0) % 2 ^ (8 * n))).1.getD
        (s.mem.readN pa n)) s2 ∧
      a.id = q.id ∧ a.code = 1 ∧ a.bytes = patchBytes 0 n (s.mem.readN pa n) (rpcReply p q (0, false)).bytes ∧
      performRpc u q p [(pa, 0, n)] [] data s = servedBy u q (sendReply u a s2) := by
  have hmod : modifies p = true := by unfold modifies; simp [hp]
  have hs1 := reached_rpcOpened he p u n q
  have hfree1 := (hs1.vaultHindrance u (paOff pa) .rpcRemote).trans hfree
  generalize hy : (if p ≥ 6 then data else data / 2 ^ (8 * 0) % 2 ^ (8 * n)) = y
  have hperform : performRpc u q p [(pa, 0, n)] [] data s = writePart u { q with writes := [[(pa, n, y, false)]], left := [0] }
      (rpcReply p q (readPieces (rpcOpened p u pa n q s) (if rpcWrites p then fun _ => true else agentKnows q.view u) [(pa, 0, n)]))
      (rpcOpened p u pa n q s) := by
    unfold performRpc
    dsimp only
    rw [hmod, ← hy]
    rfl
  have hreply : ∀ o : Nat × Bool, (rpcReply p q o).bytes = (rpcReply p q (0, false)).bytes := fun o => by
    unfold rpcReply
    simp [show p ≠ 0 by omega]
  rw [hperform, writePart_single hbox hfree1, landPart_modify hkind hmod]
  generalize rpcOpened p u pa n q s = s1 at hs1
  generalize readPieces s1 (if rpcWrites p then fun _ => true else agentKnows q.view u) [(pa, 0, n)] = o
  obtain ⟨hstored, hid, hcode, hbytes⟩ := modifyPart_stored (u := u) ((hs1.errAt pa).trans he)
    ((hs1.observed.part Tile.pairOf (fun _ => rfl) _).trans hpair) { q with writes := [[(pa, n, y, false)]], left := [0] } p 0 n y false
    (rpcReply p q o)
  rw [hs1.mem] at hstored hbytes
  exact ⟨s1, _, _, hs1, hstored, hid, hcode, hbytes.trans (by rw [hreply]), rfl⟩

/-! The service of an RPC (R204). -/

/-- R204: the head of the queue is served at its only piece. -/
theorem agentServe_of {rest : List AReq} (hq : (tileOf s u).agentq = q :: rest) (hkind : q.kind = .rpc p) (hanswer : q.answer = none)
    (hwalk : behindWalk (tileOf s u) q = false) (howner : ownerFirst s u q = false) (hquiet : AgentQuiet s u)
    (hind : blk q.block.toNat 28 1 / 2 % 2 = 0) (hp : p < 8)
    (hpieces : vaultPieces s q.view u (rpcWrites p) (piecesOf (blk q.block.toNat 8 8) (rpcBytes p q)) = .ok [(pa, 0, n)]) :
    agentServe u s = performRpc u q p [(pa, 0, n)] [] (blk q.block.toNat 32 32) s := by
  have hnext : nextRequest u s = (s, some q) := by
    unfold nextRequest pullRequest
    simp [hquiet.not_replaying, hq, hwalk, howner]
  unfold agentServe passEntry
  rw [hnext]
  dsimp only
  rw [if_neg (by simp [hquiet.not_replaying]), hkind]
  dsimp only
  unfold serveHead
  rw [hanswer, hkind]
  dsimp only
  rw [if_neg (by omega)]
  unfold serveRpc
  dsimp only
  rw [if_neg (by omega), ← rpcBytes, hpieces]
  exact if_neg (by omega)

theorem length_natBytes (v n : Nat) : (natBytes v n).length = n := by
  induction n generalizing v with
  | zero => rfl
  | succ n ih => exact congrArg (· + 1) (ih _)

/-- R205: bytes that replace all the bytes of a reply. -/
theorem patchBytes_all (v w n : Nat) : patchBytes 0 n v (natBytes w n) = natBytes v n := by
  cases n with
  | zero => rfl
  | succ n =>
    have hdrop : (natBytes w (n + 1)).drop (0 + (n + 1)) = [] := List.drop_of_length_le (by rw [length_natBytes]; omega)
    unfold patchBytes
    rw [hdrop]
    simp [natBytes]

/-- R204: what RPC.CAS64 and RPC.SWAP64 write, and the bytes that they reply with. -/
theorem rpcReply_swap (hp : p = 6 ∨ p = 7) (o : Nat × Bool) : (rpcReply p q o).bytes = natBytes 0 (rpcBytes p q) := by
  unfold rpcReply
  rcases hp with rfl | rfl <;> simp [replyOf]

theorem nth_lt (w v i : Nat) : nth w v i < 2 ^ w := by
  unfold nth
  exact Nat.mod_lt _ (by positivity)

/-- R204: RPC.CAS64 writes the new value where the old one is the expected one. -/
theorem cas64_value {len old data : Nat} (hn : n = 8) (ho : old < 2 ^ (8 * n)) : (procedure 6 len old data).1.getD old % 2 ^ (8 * n) =
    if old = nth 64 data 0 then nth 64 data 1 else old := by
  subst hn
  have hnew := nth_lt 64 data 1
  have hprocedure : (procedure 6 len old data).1 = if old = nth 64 data 0 then some (nth 64 data 1) else none := rfl
  rw [hprocedure]
  split
  · exact Nat.mod_eq_of_lt hnew
  · exact Nat.mod_eq_of_lt ho

/-- R204: RPC.SWAP64 writes the new value. -/
theorem swap64_value {len old data : Nat} (hn : n = 8) : (procedure 7 len old data).1.getD old % 2 ^ (8 * n) = nth 64 data 0 := by
  subst hn
  exact Nat.mod_eq_of_lt (nth_lt 64 data 0)

/-- R205: a request that was held for too long ends in RPC_REMOTE. -/
theorem agentHoldTimeout_of (hfind : (tileOf s u).agentq.find? (fun q => q.heldSince.isSome) = some q)
    (hkind : q.kind = .rpc p ∨ q.kind = .trav ∨ q.kind = .travRes ∨ q.kind = .attn) (htime : q.heldSince.getD 0 + Config.holdLimit ≤ s.time)
    (hhold : (tileOf s u).vault.hold ≠ .active) : agentHoldTimeout u s =
      servedBy u q (sendReply u (faultReply q .rpcRemote (BitVec.ofNat 64 (blk q.block.toNat 8 8))) s) := by
  unfold agentHoldTimeout
  rw [hfind]
  dsimp only
  rw [if_pos ⟨htime, hhold⟩]
  obtain h | h | h | h := hkind <;> rw [h]

/-! The arrival of a reply (R181, R184). -/

/-- R181: the future that a reply ends without an area. -/
def replyFuture (r : Reply) : Fut :=
  { code := r.code, cause := r.cause.code, flags := r.flags, count := r.count, aux := r.aux,
    data := if r.rply = 0 ∨ r.wide then BitVec.ofNat 256 (bytesNat (r.bytes.take 32)) else 0,
    poison := r.poison && (decide (r.rply = 0) || r.wide) }

theorem replyArrival_kept {k : Nat} (hfind : s.replies.find? (fun r => decide (r.id = k)) = some r)
    (hbefore : repliedBefore s r.src r.tile r.sent = false) (hend : r.code = 5 ∨ r.rply = 0 ∨ r.bytes = []) :
    FuturesKept (endFuture r.view r.cmd r.seq (replyFuture r) { s with replies := s.replies.filter fun r => decide (r.id ≠ k) })
      (replyArrival k s) := by
  have htrap (c : Cause) (b : Prop) [Decidable b] (w : State) (x : Word) :
      FuturesKept w (if b then pendTrap r.view c r.seq x w else w) := by
    split
    · exact pendTrap_kept ..
    · exact .refl w
  unfold replyArrival
  rw [hfind]
  dsimp only
  rw [if_neg (by simp [hbefore])]
  split
  · exact htrap ..
  next hcode =>
    rw [if_pos ((hend.resolve_left hcode).imp_right fun h => by simp [h])]
    exact htrap ..

/-- Settles O43: the service of an RPC by the kind of its procedure, the timeout by its equation, and the arrival through what the end of
a command leaves. -/
theorem agentEvents : Obligations.AgentEvents := by
  intro u p pa k c h q rest r s b len n old data
  refine ⟨fun hq hkind hanswer hbox hwalk howner hlog hmon hind hp hpieces hregion htile he hpoison hpair => ?serve,
    fun hfind hkind htime hhold => ?timeout, fun hfind hbefore hend hh => ?arrival⟩
  case serve =>
    have hquiet : AgentQuiet s u := ⟨hlog, hmon⟩
    have hserve : exec (.agentServe u) s = .next (performRpc u q p [(pa, 0, n)] [] data s) :=
      congrArg Host.Outcome.next (agentServe_of hq hkind hanswer hwalk howner hquiet hind hp hpieces)
    have hfree := vaultPieces_head_free hpieces
    rw [← htile] at hpair
    rw [← hq]
    obtain rfl | rfl | hp2 : p = 0 ∨ p = 1 ∨ 2 ≤ p := by omega
    · have hs1 := reached_rpcOpened he 0 u n q
      obtain ⟨hreplies, hmem, hagentq, hframe⟩ := (hs1.pieceServed u pa n).replied hquiet q
        (rpcReply 0 q (readPieces (rpcOpened 0 u pa n q s) (agentKnows q.view u) [(pa, 0, n)]))
      refine ⟨_, _, hserve.trans (congrArg Host.Outcome.next (performRpc_read hbox)), hreplies, rfl, rfl, hagentq, hframe,
        fun _ => ⟨?_, fun has => ?_⟩, fun h => by omega, fun h => by omega, fun h => by omega⟩
      · exact congrArg (fun m : Memory => m.readN pa n) (hmem.trans hs1.mem)
      · rw [readPieces_latest (.inl (hs1.observed.asOf.trans has)), hs1.mem]
        rfl
    · obtain ⟨s1, s2, hs1, hs2, hperform⟩ := performRpc_write (n := n) (data := data) hkind hbox he hpair hfree
      obtain ⟨hreplies, hmem, hagentq, hframe⟩ := ((hs1.pieceServed u pa n).trans (hs2.pieceServed u)).replied hquiet q
        (rpcReply 1 q (readPieces s1 (fun _ => true) [(pa, 0, n)]))
      refine ⟨_, _, hserve.trans (congrArg Host.Outcome.next hperform), hreplies, rfl, rfl, hagentq, hframe,
        fun h => by omega, fun _ => ⟨?_, rfl⟩, fun h => by omega, fun h => by omega⟩
      rw [hmem, hs2.readN_eq]
      simp
    · obtain ⟨s1, s2, a, hs1, hs2, hid, hcode, hbytes, hperform⟩ :=
        performRpc_modify (n := n) (data := data) hkind ⟨hp2, by omega⟩ hbox he hpair hfree
      obtain ⟨hreplies, hmem, hagentq, hframe⟩ := ((hs1.pieceServed u pa n).trans (hs2.pieceServed u)).replied hquiet q a
      have hstored := (congrArg (fun m : Memory => m.readN pa n) hmem).trans hs2.readN_eq
      have hswap (hp67 : p = 6 ∨ p = 7) (hn : n = 8) : a.bytes = natBytes old 8 := by
        rw [hbytes, rpcReply_swap hp67]
        exact (patchBytes_all ..).trans (congrArg (natBytes old) hn)
      refine ⟨_, _, hserve.trans (congrArg Host.Outcome.next hperform), hreplies, hid, hcode, hagentq, hframe,
        fun h => by omega, fun h => by omega, fun h hn => ⟨?_, hswap (.inl h) hn⟩, fun h hn => ⟨?_, hswap (.inr h) hn⟩⟩
      · subst h
        exact hstored.trans (cas64_value hn (Memory.readN_lt ..))
      · subst h
        exact hstored.trans (swap64_value hn)
  case timeout =>
    obtain ⟨hreplies, hagentq⟩ := servedBy_requests u q (sendReply u (faultReply q .rpcRemote (BitVec.ofNat 64 (blk b 8 8))) s)
    exact ⟨_, congrArg Host.Outcome.next (agentHoldTimeout_of hfind hkind htime hhold), hreplies, hagentq⟩
  case arrival =>
    have hkept := replyArrival_kept hfind hbefore hend
    obtain ⟨hfut, -, hreplies⟩ :=
      endFuture_holder (s := { s with replies := s.replies.filter fun r => decide (r.id ≠ k) }) hh r.seq (replyFuture r)
    refine ⟨_, rfl, hkept.replies.trans hreplies, ?_⟩
    rw [hkept.futs, hfut]
    exact ⟨rfl, rfl, rfl, rfl, rfl⟩

end Sys2Proof.Machine
end

section
/-! SUPPORT and the settling theorem of the events of a walk, a lookup and an attention command (O44). -/

namespace Sys2Proof.Machine

variable {s : State} {u k dest : Nat} {w : Walk} {q : AReq} {r : Word} {a : Attn}

/-! The steps of a walk that end it (R206, R208, R210, R211). -/

theorem ramblerStep_of (hw : (tileOf s u).walks[k]? = some w) (hheld : behindHeld (tileOf s u) w = false) :
    ramblerStep u k s = walkStep u w s := by
  unfold ramblerStep
  rw [hw]
  dsimp only
  rw [hheld]
  rfl

/-- R208: the rule at which a walk stands. -/
def walkRule (w : Walk) : Word := w.rules.getD w.rule 0

theorem walkStep_bad (hbad : ruleBad (walkRule w) (walkSize w.req.block.toNat) (walkKl w.req.block.toNat) = true) :
    walkStep u w s = endWalk u w (walkReply w 5 .traversal w.p) s := if_pos hbad

section
variable (hbad : ruleBad (walkRule w) (walkSize w.req.block.toNat) (walkKl w.req.block.toNat) = false)
  (hop : wfld (walkRule w) 60 4 ≠ 6)
include hbad hop

theorem walkStep_null (hkept : w.kept = none) (hp : w.p = 0) : walkStep u w s = endWalk u w (walkReply w 2 .none_ 0) s := by
  unfold walkStep
  dsimp only
  rw [← walkRule, if_neg (by rw [hbad]; exact Bool.false_ne_true), if_neg hop, hkept]
  exact if_pos hp

theorem walkStep_limit (hkept : w.kept = none) (hp : w.p ≠ 0) (hsteps : blk w.req.block.toNat 32 2 ≤ w.steps) :
    walkStep u w s = endWalk u w (walkReply w 3 .none_ w.p) s := by
  unfold walkStep
  dsimp only
  rw [← walkRule, if_neg (by rw [hbad]; exact Bool.false_ne_true), if_neg hop, hkept]
  dsimp only
  rw [if_neg hp]
  exact if_pos hsteps

/-- R210: a kept record decides by its rule, without a fetch. -/
theorem walkStep_kept {l : List Byte} (hkept : w.kept = some l) (htrue : ruleTrue w (walkRule w) w.req.block.toNat = true) :
    walkStep u w s = settleWalk u w (walkAct w (wfld (walkRule w) 32 16) (walkSize w.req.block.toNat)) s := by
  unfold walkStep
  dsimp only
  rw [← walkRule, if_neg (by rw [hbad]; exact Bool.false_ne_true), if_neg hop, hkept]
  dsimp only
  rw [htrue]
  rfl

end

/-- R211: the low bits of the action of a rule that holds. -/
theorem wfld_action (r : Word) : wfld r 32 16 % 4 = wfld r 32 2 := by
  unfold wfld
  omega

/-- R211: the action that ends a walk with its record. -/
theorem walkAct_return {l : List Byte} {act : Nat} (hkept : w.kept = some l) (hact : act / 2 ^ 13 = 3) (hlow : act % 4 = 0) (size : Nat) :
    walkAct w act size = .inr (walkOk w l) := by
  have hgood : actBad act size = false := by
    unfold actBad
    rw [hact, hlow]
    rfl
  unfold walkAct
  dsimp only
  rw [if_neg (by simp [hgood]), hact, hkept]
  rfl

/-! Continuations (R212, R213). -/

theorem takeUp_of {mk : Nat → Walk} {l lr : List (Nat × Nat × Nat)} (hblock : ownPieces s q.view (.agent u) false (piecesOf q.blockVa 64) = .ok l)
    (hrules : ownPieces s q.view (.agent u) false (piecesOf (blk (readPieces s (agentKnows q.view u) l).1 0 8) 128) = .ok lr)
    (hclean : (readPieces s (agentKnows q.view u) l).2 = false) (hclean' : (readPieces s (agentKnows q.view u) lr).2 = false) :
    takeUp u q mk s =
      let b := (readPieces s (agentKnows q.view u) l).1
      modTile u (fun x => { x with walks := x.walks ++ [{ mk b with
        req := { (mk b).req with block := BitVec.ofNat 512 b }
        rules := (List.range 16).map fun i => BitVec.ofNat 64 (nth 64 (readPieces s (agentKnows q.view u) lr).1 i) }] }) s := by
  unfold takeUp
  dsimp only
  rw [hblock]
  dsimp only
  rw [hrules]
  dsimp only
  rw [if_neg (by simp [hclean]), if_neg (by simp [hclean'])]

section
variable (hfind : s.conts.find? (fun c => decide (c.1 = k)) = some (k, dest, w)) (hbefore : contBefore k dest w.src s.conts = false)
include hfind hbefore

/-- R213: a continuation at an agent whose slots are full goes back to its requester. -/
theorem continuationArrival_full (hfull : 32 ≤ ((tileOf s dest).walks.filter fun w => w.slot).length) :
    continuationArrival k s = sendReply dest
      { replyOf w.req 4 .none_ 0 w.steps 0 (natBytes (contBlock w) 64) false with rply := blk w.req.block.toNat 56 8 }
      { s with conts := s.conts.filter fun c => decide (c.1 ≠ k) } := by
  unfold continuationArrival
  rw [hfind]
  dsimp only
  rw [if_neg (by simp [hbefore])]
  exact if_pos hfull

/-- R212: a continuation at an agent with a free slot is taken up. -/
theorem continuationArrival_room (hroom : ((tileOf s dest).walks.filter fun w => w.slot).length < 32) :
    continuationArrival k s = takeUp dest { w.req with arrive := s.time }
      (fun _ => { w with req := { w.req with arrive := s.time }, slot := true, stall := none, kept := none, held := false, bank := none })
      { s with conts := s.conts.filter fun c => decide (c.1 ≠ k) } := by
  unfold continuationArrival
  rw [hfind]
  dsimp only
  rw [if_neg (by simp [hbefore])]
  exact if_neg (Nat.not_le.mpr hroom)

end

/-! Lookups and attention (R215, R217). -/

theorem passEntry_of {s1 : State} (h : replaying s u = false) : passEntry u s s1 = s1 := if_neg (by simp [h])

theorem gatherPool_of {s1 : State} (hnext : nextRequest u s = (s1, some q)) (hreplay : replaying s1 u = false) (hkind : q.kind = .gpool) :
    gatherPool u s = servePool u q s1 := by
  unfold gatherPool
  rw [hnext]
  dsimp only
  rw [if_pos hkind, passEntry_of hreplay]

theorem attentionDecode_of {s1 : State} (hnext : nextRequest u s = (s1, some q)) (hreplay : replaying s1 u = false)
    (hkind : q.kind = .attn) : attentionDecode u s = serveAttn u q s1 := by
  unfold attentionDecode
  rw [hnext]
  dsimp only
  rw [if_pos hkind, passEntry_of hreplay]

/-- R381: the vault's rows opened and read for a request. -/
theorem observed_openPieces (l : List (Nat × Nat × Nat)) (v : View) (va : Nat) (write : Bool) :
    Observed s (openPieces u l (checkPieces l (agentFill v u va write s))) :=
  ((reached_agentFill v u va write).observed.trans (observed_foldl (fun _ _ => observed_checkSegment ..) l _)).trans
    (observed_foldl (fun _ _ => observed_touchBank ..) l _)

theorem endPool_replies (u : Nat) (q : AReq) (r : Reply) (s : State) :
    (endPool u q r s).replies = s.replies ++ [{ r with src := u, sent := s.nextId }] := (servedBy_requests u q (sendReply u r s)).1

/-- R215: a lookup whose rows are all found. -/
theorem servePool_found {li lw : List (Nat × Nat × Nat)} {pooled : Pooled}
    (hli : ownPieces s q.view (.agent u) false (piecesOf (blk q.block.toNat 0 8) (4 * blk q.block.toNat 24 4)) = .ok li)
    (hweighted : blk q.block.toNat 8 8 ≠ 0)
    (hlw : ownPieces s q.view (.agent u) false (piecesOf (blk q.block.toNat 8 8) (4 * blk q.block.toNat 24 4)) = .ok lw)
    (hall : poolAll s q u (word32 s li (readPieces s (agentKnows q.view u) li).1) (word32 s lw (readPieces s (agentKnows q.view u) lw).1)
      (List.range (blk q.block.toNat 24 4))
      { acc := List.replicate (blk q.block.toNat 32 2) (if blk q.block.toNat 34 1 / 16 % 4 = 2 then 0xFF800000 else 0) } = .ok pooled) :
    servePool u q s =
      let v := poolEnd (blk q.block.toNat 34 1 / 16 % 4) pooled
      endPool u q { replyOf q 1 .none_ (statusFlags v.2) pooled.n 0 (f32Bytes v.1) pooled.poison with rply := blk q.block.toNat 40 8, wide := true }
        (openPieces u pooled.pas (checkPieces pooled.pas (agentFill q.view u (blk q.block.toNat 16 8) false s))) := by
  unfold servePool
  dsimp only
  rw [hli]
  dsimp only
  rw [if_neg hweighted, hlw]
  dsimp only
  rw [if_neg hweighted, hall]

theorem allCaches_none (hn : a.n = 0) (l : List Nat) : allCaches s q u a l = .ok (l.map fun _ => ([], [])) := by
  induction l with
  | nil => rfl
  | cons g l ih =>
    have hcache (base : Nat) : cachePieces s q u a base g (List.range a.n) = .ok [] := by
      rw [hn]
      rfl
    unfold allCaches
    rw [hcache, hcache, ih]
    rfl

theorem natBytes_zero (n : Nat) : natBytes 0 n = List.replicate n 0 := by
  induction n with
  | zero => rfl
  | succ n ih => exact congrArg (List.cons 0) ((congrArg (natBytes · n) (Nat.zero_div _)).trans ih)

theorem packElems_zeros (w n : Nat) : packElems w (List.replicate n 0) = 0 := by
  induction n with
  | zero => rfl
  | succ n ih =>
    rw [List.replicate_succ, packElems, ih, Nat.zero_mod, Nat.mul_zero]

theorem f32Bytes_zeros (n : Nat) : f32Bytes (List.replicate n 0) = List.replicate (4 * n) 0 := by
  unfold f32Bytes
  rw [packElems_zeros, natBytes_zero, List.length_replicate]

/-- R217: equally many zeros for each of `m` heads. -/
theorem flatMap_zeros (m d : Nat) :
    (((List.range m).map fun _ => (List.replicate d 0, 0)).flatMap fun h : List Nat × Nat => h.1) = List.replicate (m * d) 0 := by
  rw [List.flatMap_def, List.map_map]
  simp [Function.comp_def, List.map_const', List.flatten_replicate_replicate]

/-- R217: attention over no positions replies with zeros. -/
theorem serveAttn_none {lq : List (Nat × Nat × Nat)} (hn : min (blk q.block.toNat 40 4) (blk q.block.toNat 44 4) = 0)
    (hlq : ownPieces s q.view (.agent u) false
      (piecesOf (blk q.block.toNat 0 8) (2 * (blk q.block.toNat 35 1 % 16 + 1) * blk q.block.toNat 32 2)) = .ok lq) :
    ∃ s1 r, Observed s s1 ∧ serveAttn u q s = endPool u q r s1 ∧ r.code = 1 ∧ r.count = 0 ∧
      r.bytes = List.replicate (4 * ((blk q.block.toNat 35 1 % 16 + 1) * blk q.block.toNat 32 2)) 0 ∧ r.rply = blk q.block.toNat 56 8 := by
  have hnone : (attnOf q.block.toNat).n = 0 := hn
  have hhead (x : Nat) (key value : Nat → Nat × (Nat → Num)) :
      attnHead (attnOf q.block.toNat) x key value = (List.replicate (attnOf q.block.toNat).d 0, 0) := if_pos hnone
  have hscale : scalePieces s q u (attnOf q.block.toNat) = .ok [] := if_pos (.inr hnone)
  have hqueries : ownPieces s q.view (.agent u) false
      (piecesOf (blk q.block.toNat 0 8) (2 * (attnOf q.block.toNat).hq * (attnOf q.block.toNat).d)) = .ok lq := hlq
  unfold serveAttn
  dsimp only
  rw [hqueries, hscale, allCaches_none hnone]
  dsimp only
  simp only [hhead]
  refine ⟨_, _, observed_openPieces _ q.view _ false, rfl, rfl, hnone, ?_, rfl⟩
  exact (congrArg f32Bytes (flatMap_zeros ..)).trans (f32Bytes_zeros _)

/-- Settles O44: the steps of a walk and the arrival of a continuation by their equations, a lookup and an attention command by the reply
that they end in. -/
theorem walkEvents : Obligations.WalkEvents := by
  intro u k dest w q s s' b r size ends
  refine ⟨fun hw hheld => ?step, fun hfind hbefore => ?continuation, fun hnext hreplay =>
    ⟨fun li lw pooled hkind hli hweighted hlw hall => ?lookup, fun lq hkind hn hlq => ?attention⟩⟩
  case step =>
    have hstep (a : Reply) (h : walkStep u w s = endWalk u w a s) : ends a :=
      congrArg Host.Outcome.next ((ramblerStep_of hw hheld).trans h)
    refine ⟨fun hbad => hstep _ (walkStep_bad hbad), fun hbad hop hkept hp => hstep _ (walkStep_null hbad hop hkept hp),
      fun hbad hop hkept hp hsteps => hstep _ (walkStep_limit hbad hop hkept hp hsteps),
      fun l hbad hop hkept htrue hact hlow => ⟨walkOk w l, hstep _ ?_, rfl, rfl, rfl, rfl⟩⟩
    have hreturn := walkAct_return hkept hact ((wfld_action r).trans hlow) size
    exact (walkStep_kept hbad hop hkept htrue).trans (congrArg (settleWalk u w · s) hreturn)
  case continuation =>
    refine ⟨fun hfull => ⟨_, congrArg Host.Outcome.next (continuationArrival_full hfind hbefore hfull), rfl, rfl, rfl, rfl⟩,
      fun l lr hroom hl hlr hclean hclean' => congrArg Host.Outcome.next ?_⟩
    exact (continuationArrival_room hfind hbefore hroom).trans (takeUp_of (q := { w.req with arrive := s.time }) hl hlr hclean hclean')
  case lookup =>
    have hpool := (gatherPool_of hnext hreplay hkind).trans (servePool_found hli hweighted hlw hall)
    have hreplies := (observed_openPieces (s := s') (u := u) pooled.pas q.view (blk q.block.toNat 16 8) false).replies
    refine ⟨_, _, congrArg Host.Outcome.next hpool, (endPool_replies ..).trans (congrArg (· ++ [_]) hreplies), rfl, rfl, rfl, rfl⟩
  case attention =>
    obtain ⟨s1, a, hs1, hserve, hcode, hcount, hbytes, hrply⟩ := serveAttn_none hn hlq
    have hdecode := (attentionDecode_of hnext hreplay hkind).trans hserve
    exact ⟨_, _, congrArg Host.Outcome.next hdecode, (endPool_replies ..).trans (congrArg (· ++ [_]) hs1.replies), hcode, hcount, hbytes, hrply⟩

end Sys2Proof.Machine
end

section
/-! SUPPORT and the settling theorem of the requests to the compaction unit (O36): each is answered or keeps its place, by its kind
and by what the list holds; a take copies its items one by one (`ItemsTaken`). -/

namespace Sys2Proof.Machine

variable {s u v : State} {t c n : Nat} {r : WlReq} {l : Launch} {w : WorkList}

/-! Launches and contexts while the unit works. -/

/-- The launches, and every context of every tile, as before. -/
structure RequestsStand (s u : State) : Prop where
  launches : u.launches = s.launches
  ctxs : ∀ t c, ctxOf u t c = ctxOf s t c

theorem RequestsStand.refl (s : State) : RequestsStand s s := ⟨rfl, fun _ _ => rfl⟩

theorem RequestsStand.trans (h : RequestsStand s u) (h' : RequestsStand u v) : RequestsStand s v :=
  ⟨h'.launches.trans h.launches, fun t c => (h'.ctxs t c).trans (h.ctxs t c)⟩

theorem Observed.requestsStand (h : Observed s u) : RequestsStand s u := ⟨h.launches, h.ctxOf_eq⟩

theorem requestsStand_foldl {α : Type} {f : State → α → State} (hf : ∀ u x, RequestsStand u (f u x)) (l : List α) (s : State) :
    RequestsStand s (l.foldl f s) :=
  List.foldlRecOn (motive := RequestsStand s) l f (.refl s) fun u h x _ => h.trans (hf u x)

theorem requestsStand_noteWrite (pa n : Nat) : RequestsStand s (noteWrite pa n s) := ⟨rfl, fun _ _ => rfl⟩

theorem requestsStand_writeMem (pa n x : Nat) : RequestsStand s (writeMem pa n x s) := ⟨rfl, fun _ _ => rfl⟩

theorem requestsStand_homeStore (pa n x : Nat) (p : Bool) : RequestsStand s (homeStore pa n x p s) :=
  ((observed_checkStore pa n).requestsStand.trans (requestsStand_noteWrite pa n)).trans (observed_storeMem pa n x p).requestsStand

theorem requestsStand_landSeg (l : List Landed) : RequestsStand s (landSeg l s) := by
  unfold landSeg
  split
  case h_1 => exact .refl s
  case h_2 pa x rest =>
    extract_lets seg full bad s1
    have h1 : RequestsStand s s1 := (observed_checkStore ..).requestsStand.trans
      (requestsStand_foldl (fun u x => (requestsStand_noteWrite ..).trans (requestsStand_writeMem ..)) _ _)
    split
    · exact h1.trans (observed_setSegPoison ..).requestsStand
    · split
      · exact h1.trans (observed_setSegPoison ..).requestsStand
      · exact h1

theorem requestsStand_landUnits (l : List Landed) : RequestsStand s (landUnits l s) := by
  unfold landUnits
  split
  · exact (requestsStand_landSeg l).trans (requestsStand_landSeg _)
  · exact requestsStand_landSeg l

theorem requestsStand_takeItems (t c : Nat) (w : WorkList) (va k : Nat) : RequestsStand s (takeItems t c w va k s) := by
  refine requestsStand_foldl (fun u i => ?_) _ s
  extract_lets from_ u1
  have h1 : RequestsStand u u1 := (observed_checkSegment from_).requestsStand
  split
  · exact h1.trans (requestsStand_landUnits _)
  · exact h1

/-- The launch of a serial number once one launch has changed. -/
theorem launchOf_modLaunch {f : Launch → Launch} (hl : launchOf s n = some l) (hf : ∀ k, (f k).serial = k.serial) :
    launchOf (modLaunch l.serial f s) n = some (f l) := by
  have hserial : ((fun k => decide (k.serial = n)) ∘ fun k => if k.serial = l.serial then f k else k) = fun k => decide (k.serial = n) := by
    funext k
    by_cases hk : k.serial = l.serial <;> simp [hk, hf]
  unfold launchOf modLaunch at *
  rw [List.find?_map, hserial, hl]
  exact congrArg some (if_pos rfl)

/-- R268: the sight of a context changes, and nothing else but its checkpoint. -/
theorem modSight_fields (t c id : Nat) (f : Sight → Sight) (s : State) :
    (ctxOf (modSight t c id f s) t c).phase = (ctxOf s t c).phase ∧
      (modSight t c id f s).launches = s.launches ∧ (modSight t c id f s).mem = s.mem ∧ (modSight t c id f s).poison = s.poison := by
  have hpair : Observed (modCtx t c (fun y => { y with sight := f y.sight }) s) (modSight t c id f s) := observed_modPair ..
  have hpoison : (modSight t c id f s).poison = s.poison := by
    unfold modSight landBoth modPair
    split <;> rfl
  refine ⟨?_, hpair.launches, landBoth_mem .., hpoison⟩
  rw [hpair.ctxOf_eq, ctxOf_modCtx_same]

/-! The answer and the wait (R418). -/

theorem ctxOf_answer (t c : Nat) (r : WlReq) (res : Nat) (trap : Cause) (u : State) : ctxOf (answer t c r res trap u) t c =
    { ctxOf u t c with wl := some { r with applied := true, result := res, trap := trap, sent := u.nextId } } := ctxOf_modCtx_same ..

theorem holdTaker_fields (hwl : (ctxOf s t c).wl = some r) : ctxOf (holdTaker t c r s) t c =
    { ctxOf s t c with wl := some { r with order := if r.order = 0 then s.nextId else r.order } } ∧
      (holdTaker t c r s).launches = s.launches ∧ (holdTaker t c r s).mem = s.mem ∧ (holdTaker t c r s).poison = s.poison := by
  unfold holdTaker
  by_cases ho : r.order = 0
  · rw [if_neg (not_not.mpr ho), if_pos ho]
    exact ⟨ctxOf_modCtx_same .., rfl, rfl, rfl⟩
  · rw [if_pos ho, if_neg ho]
    exact ⟨by rw [← hwl], rfl, rfl, rfl⟩

/-- A context that is not at its fatal end keeps what the unit has done (R242). -/
theorem wlRequestApply_of {c : Fin 8} (happly : applyRequest t c s = v) (hphase : (ctxOf v t c).phase ≠ .ending) :
    wlRequestApply t c s = v := by
  unfold wlRequestApply
  rw [happly]
  dsimp only
  split
  · exact if_neg fun h => hphase h.1
  · rfl

/-- R418: the unit has applied the request of a context, with a result and a cause, and the launch and the state satisfy `P`. -/
def UnitAnswers (t : Nat) (c : Fin 8) (r : WlReq) (s : State) (P : State → Launch → Prop) (res : Nat) (trap : Cause) : Prop :=
  ∃ v k n, exec (.wlRequestApply t c) s = .next v ∧
    (ctxOf v t c).wl = some { r with applied := true, result := res, trap := trap, sent := n } ∧
    launchOf v (ctxOf s t c).launch = some k ∧ P v k

/-- R239, R241: the request of a context waits at the unit in its place. -/
def UnitHolds (t : Nat) (c : Fin 8) (r : WlReq) (s : State) : Prop :=
  ∃ v, exec (.wlRequestApply t c) s = .next v ∧
    (ctxOf v t c).wl = some { r with order := if r.order = 0 then s.nextId else r.order } ∧
    v.launches = s.launches ∧ v.mem = s.mem ∧ v.poison = s.poison

theorem unitAnswers_of {c : Fin 8} {P : State → Launch → Prop} {res : Nat} {trap : Cause} {k : Launch}
    (happly : applyRequest t c s = answer t c r res trap u) (hphase : (ctxOf u t c).phase ≠ .ending)
    (hlaunch : launchOf u (ctxOf s t c).launch = some k) (hP : P (answer t c r res trap u) k) : UnitAnswers t c r s P res trap := by
  have hctx := ctxOf_answer t c r res trap u
  refine ⟨_, k, u.nextId, congrArg Host.Outcome.next (wlRequestApply_of happly ?_), by rw [hctx], hlaunch, hP⟩
  rw [hctx]
  exact hphase

theorem unitHolds_of {c : Fin 8} (hwl : (ctxOf s t c).wl = some r) (hphase : (ctxOf s t c).phase ≠ .ending)
    (happly : applyRequest t c s = holdTaker t c r s) : UnitHolds t c r s := by
  obtain ⟨hctx, hkept⟩ := holdTaker_fields hwl
  refine ⟨_, congrArg Host.Outcome.next (wlRequestApply_of happly ?_), by rw [hctx], hkept⟩
  rw [hctx]
  exact hphase

/-! What the unit does with each kind of request (R237 to R241). -/

/-- R418: a request that the unit can apply: of a running launch, held by no pair, with none of its tile to precede it. -/
structure Requested (t : Nat) (c : Fin 8) (r : WlReq) (l : Launch) (s : State) : Prop where
  wl : (ctxOf s t c).wl = some r
  launch : launchOf s (ctxOf s t c).launch = some l
  free : heldByPair s t c.val r.id = false
  phase : (ctxOf s t c).phase ≠ .ending
  applied : r.applied = false
  first : r.order = 0 → askedBefore s t r.id = false

/-- R235: the list that a request names. -/
abbrev askedList (l : Launch) (r : WlReq) : WorkList := Sparse.get ({} : WorkList) l.lists r.list

/-- R235, R238: that list with one item more. -/
def appendedList (l : Launch) (r : WlReq) : WorkList := { askedList l r with
  tail := (askedList l r).tail + 1, seen := Sparse.set (askedList l r).tail r.known (askedList l r).seen }

/-- R240: what the asking context has taken and not acknowledged. -/
abbrev ownTaken (l : Launch) (t c : Nat) : Nat := Sparse.get 0 l.u (t * 8 + c)

section
variable {c : Fin 8} (h : Requested t c r l s)
include h

theorem Requested.applies : ¬(r.applied = true ∨ heldByPair s t c.val r.id = true ∨ (r.order = 0 ∧ askedBefore s t r.id = true)) := by
  rintro (ha | hp | ⟨ho, hb⟩)
  · rw [h.applied] at ha
    cases ha
  · rw [h.free] at hp
    cases hp
  · rw [h.first ho] at hb
    cases hb

theorem applyRequest_append (hop : r.op = 0) : applyRequest t c s =
    if (askedList l r).tail - (askedList l r).head = (askedList l r).cap then answer t c r 0 .worklistFull s
    else answer t c r 0 .none_ (modLaunch l.serial (fun l' => { l' with
        p := l'.p + 1, done := l'.done.join r.known,
        lists := Sparse.set r.list (appendedList l r) l'.lists })
      (homeStore (itemPa (askedList l r) (askedList l r).tail) 16 (r.a.toNat + r.b.toNat * 2 ^ 64) r.poison s)) := by
  simp only [applyRequest, h.wl, h.launch, hop, if_neg h.applies]
  rfl

theorem applyRequest_take (hop : r.op = 1) : applyRequest t c s =
    if r.b.toNat = 0 then answer t c r 0 .none_ s
    else if (askedList l r).tail - (askedList l r).head ≠ 0 then
      (if earlierTaker s l r.list r.order then holdTaker t c r s
       else applyTake t c r l (askedList l r) (min r.b.toNat ((askedList l r).tail - (askedList l r).head)) s)
    else if ownTaken l t c ≠ 0 ∨ quiescent s l then answer t c r 0 .none_ s
    else holdTaker t c r s := by
  simp only [applyRequest, h.wl, h.launch, hop, if_neg h.applies]

theorem applyRequest_done (hop : r.op = 2) : applyRequest t c s =
    if r.a.toNat > ownTaken l t c then answer t c r 0 .worklistId s
    else answer t c r 0 .none_ (modLaunch l.serial (fun l' => { l' with
      q := l'.q + r.a.toNat, done := l'.done.join r.known,
      u := Sparse.set (t * 8 + c.val) (ownTaken l t c - r.a.toNat) l'.u }) s) := by
  simp only [applyRequest, h.wl, h.launch, hop, if_neg h.applies]

theorem applyRequest_qwait (hop : r.op = 3) : applyRequest t c s =
    if ownTaken l t c ≠ 0 then answer t c r 0 .worklistId s
    else if quiescent s l then answer t c r 0 .none_ (modSight t c r.id (Sight.know l.done) s)
    else holdTaker t c r s := by
  simp only [applyRequest, h.wl, h.launch, hop, if_neg h.applies]

end

/-! The items of a take (R239). -/

theorem mem_insertNat (n k : Nat) (l : List Nat) : k ∈ insertNat n l ↔ k = n ∨ k ∈ l := by
  induction l with
  | nil => exact List.mem_singleton.trans (or_iff_left List.not_mem_nil).symm
  | cons a l ih =>
    unfold insertNat
    split
    · exact List.mem_cons
    · split
      next hn => rw [hn, List.mem_cons, or_self_left]
      next => rw [List.mem_cons, List.mem_cons, ih, or_left_comm]

theorem segPoison_setSegPoison (pa q : Nat) (s : State) :
    segPoison (setSegPoison pa true s) q = (segPoison s q || decide (pa / 64 = q / 64)) := by
  have hmem : segPoison (setSegPoison pa true s) q = decide (q / 64 ∈ insertNat (pa / 64) s.poison) := List.contains_eq_mem ..
  have hmem' : segPoison s q = decide (q / 64 ∈ s.poison) := List.contains_eq_mem ..
  rw [hmem, hmem', ← Bool.decide_or]
  exact decide_eq_decide.mpr ((mem_insertNat ..).trans (or_comm.trans (or_congr_right eq_comm)))

/-- R111: 16 aligned bytes do not fill a segment. -/
theorem not_full_of_item {pa : Nat} (ha : pa % 16 = 0) (x : Nat) (p : Bool) : ((List.range 64).all fun i =>
    ([(pa, 16, x, p)] : List Landed).any fun u => decide (u.1 ≤ pa / 64 * 64 + i) && decide (pa / 64 * 64 + i < u.1 + u.2.1)) = false := by
  rw [List.all_eq_false]
  simp only [List.any_cons, List.any_nil, Bool.or_false, Bool.and_eq_true, decide_eq_true_eq]
  by_cases h : pa % 64 = 0
  · exact ⟨63, List.mem_range.mpr (by decide), by omega⟩
  · exact ⟨0, List.mem_range.mpr (by decide), by omega⟩

/-- R111: an item that lands in a scratchpad without a mirror poisons its segment where the item is poisoned, and clears none. -/
theorem landUnits_item {pa : Nat} (hm : mirrorOf s pa = none) (hr : paRegion pa = 1) (ha : pa % 16 = 0) (x : Nat) (p : Bool) :
    Stored s pa 16 x (landUnits [(pa, 16, x, p)] s) ∧
      ∀ q, segPoison (landUnits [(pa, 16, x, p)] s) q = (segPoison s q || decide (pa / 64 = q / 64) && p) := by
  have hnone : (([(pa, 16, x, p)] : List Landed).head?.map fun u => u.1).bind (mirrorOf s) = none := hm
  have herr : errAt s (pa / 64 * 64) = none := (errAt_segment s pa).trans (errAt_scratch hr s)
  have hland : landUnits [(pa, 16, x, p)] s = landSeg [(pa, 16, x, p)] s := by
    unfold landUnits
    rw [hnone]
  rw [hland]
  refine ⟨stored_landSeg herr 16 x p, fun q => ?_⟩
  unfold landSeg
  dsimp only
  rw [not_full_of_item ha, checkStore_of_no_err herr]
  cases p with
  | true => exact (segPoison_setSegPoison ..).trans (by rw [Nat.mul_div_cancel _ (by decide), Bool.and_true]; rfl)
  | false => rw [Bool.and_false, Bool.or_false]; rfl

/-- R239: one item written to its place in the destination. -/
def takeItem (t c : Nat) (w : WorkList) (va i : Nat) (s : State) : State :=
  let s := checkSegment (itemPa w (w.head + i)) s
  match resolve s (viewOf s t c) .none_ (va + 16 * i) true with
  | .ok r => landUnits [(r.pa, 16, readMem s (itemPa w (w.head + i)) 16, segPoison s (itemPa w (w.head + i)))] s
  | .error _ => s

theorem takeItems_succ (t c : Nat) (w : WorkList) (va k : Nat) (s : State) :
    takeItems t c w va (k + 1) s = takeItem t c w va k (takeItems t c w va k s) := by
  unfold takeItems
  rw [List.range_succ, List.foldl_append]
  rfl

/-- A destination of 16 bytes for item `i` of a list, at `base` in a scratchpad, which resolves whatever stands in memory. -/
structure ItemReaches (t c : Nat) (w : WorkList) (va base : Nat) (s : State) (i : Nat) (x : Resolved) : Prop where
  pa : x.pa = base + 16 * i
  alone : mirrorOf s (base + 16 * i) = none
  region : paRegion (base + 16 * i) = 1
  source : itemPa w (w.head + i) + 16 ≤ 2 ^ 40
  sound : errAt s (itemPa w (w.head + i)) = none
  resolves : ∀ m p h o, resolve { s with mem := m, poison := p, hist := h, writes := o } (viewOf s t c) .none_ (va + 16 * i) true = .ok x

/-- R239: the first `k` items of a list copied to `base`, each with its poison. -/
structure ItemsTaken (w : WorkList) (base : Nat) (s : State) (k : Nat) (u : State) : Prop where
  rest : ({ u with mem := [], poison := [], hist := [], writes := 0 } : State) = { s with mem := [], poison := [], hist := [], writes := 0 }
  items : ∀ i, i < k → u.mem.readN (base + 16 * i) 16 = s.mem.readN (itemPa w (w.head + i)) 16
  other : ∀ q, q < base ∨ base + 16 * k ≤ q → u.mem.read q = s.mem.read q
  poison : ∀ q, segPoison u q = (segPoison s q ||
    (List.range k).any fun i => decide ((base + 16 * i) / 64 = q / 64) && segPoison s (itemPa w (w.head + i)))

theorem readN_congr {m m' : Memory} {a n : Nat} (h : ∀ q, a ≤ q → q < a + n → m.read q = m'.read q) : m.readN a n = m'.readN a n := by
  induction n generalizing a with
  | zero => rfl
  | succ n ih => rw [Memory.readN, Memory.readN, h a (by omega) (by omega), ih fun q hq hlt => h q (by omega) (by omega)]

/-- R2: some bytes of a number that was written. -/
theorem readN_writeN_within (m : Memory) (a v : Nat) {n i k : Nat} (h : i + k ≤ n) :
    (Memory.writeN a v n m).readN (a + i) k = v / 2 ^ (8 * i) % 2 ^ (8 * k) := by
  induction k generalizing i with
  | zero => exact (Nat.mod_one _).symm
  | succ k ih =>
    have hbyte : (Memory.writeN a v n m).read (a + i) = BitVec.ofNat 8 (v / 2 ^ (8 * i)) := by
      rw [Memory.read_writeN, if_pos (by omega), Nat.add_sub_cancel_left]
    rw [Memory.readN, hbyte, BitVec.toNat_ofNat, Nat.add_assoc, ih (by omega), Nat.mul_succ, Nat.pow_add, ← Nat.div_div_eq_div_mul,
      Nat.mul_succ, Nat.add_comm (8 * k), Nat.pow_add, Nat.mod_mul]

/-- R239: one item more. -/
theorem ItemsTaken.step {va base k : Nat} {x : Resolved} (ht : ItemsTaken w base s k u) (hx : ItemReaches t c w va base s k x)
    (ha : base % 16 = 0) (hb : 2 ^ 40 ≤ base) : ItemsTaken w base s (k + 1) (takeItem t c w va k u) := by
  have hsource := hx.source
  have hu : u = { s with mem := u.mem, poison := u.poison, hist := u.hist, writes := u.writes } :=
    (congrArg (fun z : State => { z with mem := u.mem, poison := u.poison, hist := u.hist, writes := u.writes }) ht.rest :)
  have herr : errAt u (itemPa w (w.head + k)) = none := by
    rw [hu]
    exact hx.sound
  have hmirror : mirrorOf u (base + 16 * k) = none := by
    rw [hu]
    exact hx.alone
  have hresolve : resolve u (viewOf u t c) .none_ (va + 16 * k) true = .ok x := by
    rw [hu]
    exact hx.resolves ..
  have hread : readMem u (itemPa w (w.head + k)) 16 = s.mem.readN (itemPa w (w.head + k)) 16 :=
    readN_congr fun q _ hq => ht.other q (.inl (by omega))
  have hbad : segPoison u (itemPa w (w.head + k)) = segPoison s (itemPa w (w.head + k)) := by
    rw [ht.poison, List.any_eq_false.mpr, Bool.or_false]
    intro i _
    rw [decide_eq_false (by omega), Bool.false_and]
    exact Bool.false_ne_true
  have hitem : takeItem t c w va k u = landUnits [(base + 16 * k, 16, s.mem.readN (itemPa w (w.head + k)) 16,
      segPoison s (itemPa w (w.head + k)))] u := by
    unfold takeItem
    rw [checkSegment_of_no_err herr]
    dsimp only
    rw [hresolve, hread, hbad, ← hx.pa]
  obtain ⟨hstored, hpoison⟩ := landUnits_item hmirror hx.region (by omega) (s.mem.readN (itemPa w (w.head + k)) 16)
    (segPoison s (itemPa w (w.head + k)))
  rw [hitem]
  refine ⟨hstored.rest.trans ht.rest, fun i hi => ?_, fun q hq => ?_, fun q => ?_⟩
  · obtain hlt | rfl := Nat.lt_succ_iff_lt_or_eq.mp hi
    · exact (readN_congr fun q _ _ => hstored.read_other (.inl (by omega))).trans (ht.items i hlt)
    · rw [hstored.readN_eq, Nat.mod_eq_of_lt (Memory.readN_lt ..)]
  · exact (hstored.read_other (by omega)).trans (ht.other q (by omega))
  · rw [hpoison, ht.poison, List.range_succ, List.any_append, List.any_cons, List.any_nil, Bool.or_false, Bool.or_assoc]

theorem itemsTaken_takeItems {va base k : Nat} {x : Nat → Resolved} (ha : base % 16 = 0) (hb : 2 ^ 40 ≤ base)
    (hx : ∀ i, i < k → ItemReaches t c w va base s i (x i)) : ItemsTaken w base s k (takeItems t c w va k s) := by
  induction k with
  | zero => exact ⟨rfl, fun _ hi => absurd hi (Nat.not_lt_zero _), fun _ _ => rfl, fun _ => (Bool.or_false _).symm⟩
  | succ k ih =>
    rw [takeItems_succ]
    exact (ih fun i hi => hx i (by omega)).step (hx k (by omega)) ha hb

/-- R239: what a take of `k` items leaves before its count and its answer. -/
def itemsGiven (t c : Nat) (r : WlReq) (w : WorkList) (k : Nat) (s : State) : State :=
  modSight t c r.id (Sight.know (Known.all ((List.range k).map fun i => Sparse.get {} w.seen (w.head + i))))
    (ctxWrites t c r.id (ctxOf s t c).sight (takeItems t c w r.a.toNat k) s)

/-- R239: a launch of whose list a context has taken `k` items. -/
def takenLaunch (t c : Nat) (r : WlReq) (w : WorkList) (k : Nat) (l : Launch) : Launch := { l with
  k := l.k + k, u := Sparse.modify 0 (t * 8 + c) (fun u => u + k) l.u,
  lists := Sparse.set r.list { w with head := w.head + k } l.lists }

theorem applyTake_eq (t c : Nat) (r : WlReq) (l : Launch) (w : WorkList) (k : Nat) (s : State) : applyTake t c r l w k s =
    answer t c r k .none_ (modLaunch l.serial (takenLaunch t c r w k) (itemsGiven t c r w k s)) := rfl

theorem itemsGiven_fields (t c : Nat) (r : WlReq) (w : WorkList) (k : Nat) (s : State) :
    (ctxOf (itemsGiven t c r w k s) t c).phase = (ctxOf s t c).phase ∧ (itemsGiven t c r w k s).launches = s.launches ∧
      (itemsGiven t c r w k s).mem = (takeItems t c w r.a.toNat k s).mem ∧
      (itemsGiven t c r w k s).poison = (takeItems t c w r.a.toNat k s).poison := by
  have hstand : RequestsStand s (ctxWrites t c r.id (ctxOf s t c).sight (takeItems t c w r.a.toNat k) s) :=
    ⟨(requestsStand_takeItems ..).launches, (requestsStand_takeItems ..).ctxs⟩
  obtain ⟨hphase, hlaunches, hmem, hpoison⟩ := modSight_fields t c r.id
    (Sight.know (Known.all ((List.range k).map fun i => Sparse.get {} w.seen (w.head + i))))
    (ctxWrites t c r.id (ctxOf s t c).sight (takeItems t c w r.a.toNat k) s)
  exact ⟨hphase.trans (congrArg Ctx.phase (hstand.ctxs t c)), hlaunches.trans hstand.launches, hmem, hpoison⟩

/-! The answers (R238 to R241). -/

section
variable {c : Fin 8} (h : Requested t c r l s)
include h

/-- R418: an answer that leaves the launch and the memory. -/
theorem Requested.answered {trap : Cause} (happly : applyRequest t c s = answer t c r 0 trap s) :
    UnitAnswers t c r s (fun v k => k = l ∧ v.mem = s.mem ∧ v.poison = s.poison) 0 trap :=
  unitAnswers_of happly h.phase h.launch ⟨rfl, rfl, rfl⟩

theorem Requested.waits (happly : applyRequest t c s = holdTaker t c r s) : UnitHolds t c r s := unitHolds_of h.wl h.phase happly

/-- R238: an append to a list with room. -/
theorem Requested.appended (hop : r.op = 0) (hroom : (askedList l r).tail - (askedList l r).head ≠ (askedList l r).cap) :
    let pa := itemPa (askedList l r) (askedList l r).tail
    UnitAnswers t c r s (fun v k => k = { l with p := l.p + 1, done := l.done.join r.known, lists := Sparse.set r.list (appendedList l r) l.lists } ∧
      v.mem.readN pa 8 = r.a.toNat ∧ v.mem.readN (pa + 8) 8 = r.b.toNat ∧ ∀ q, q < pa ∨ pa + 16 ≤ q → v.mem.read q = s.mem.read q) 0 .none_ := by
  intro pa
  have hstand : RequestsStand s (homeStore pa 16 (r.a.toNat + r.b.toNat * 2 ^ 64) r.poison s) := requestsStand_homeStore ..
  have hread (i k : Nat) (hik : i + k ≤ 16) : (homeStore pa 16 (r.a.toNat + r.b.toNat * 2 ^ 64) r.poison s).mem.readN (pa + i) k =
      (r.a.toNat + r.b.toNat * 2 ^ 64) / 2 ^ (8 * i) % 2 ^ (8 * k) := by
    rw [homeStore_mem, readN_writeN_within _ _ _ hik]
  refine unitAnswers_of ((applyRequest_append h hop).trans (if_neg hroom)) ?_ (launchOf_modLaunch ?_ fun _ => rfl) ⟨rfl, ?_, ?_, ?_⟩
  · exact (congrArg Ctx.phase (hstand.ctxs t c)).trans_ne h.phase
  · unfold launchOf
    rw [hstand.launches]
    exact h.launch
  · have ha := r.a.isLt
    exact (hread 0 8 (by decide)).trans (by omega)
  · have ha := r.a.isLt
    have hb := r.b.isLt
    exact (hread 8 8 (by decide)).trans (by omega)
  · intro q hq
    show Memory.read (homeStore ..).mem q = _
    rw [homeStore_mem, Memory.read_writeN, if_neg (by omega)]

/-- R239: a take from a list with items, before which no earlier request waits. -/
theorem Requested.took (hop : r.op = 1) (hb : r.b.toNat ≠ 0) (hitems : (askedList l r).tail - (askedList l r).head ≠ 0)
    (hearly : earlierTaker s l r.list r.order = false) (hn : min r.b.toNat ((askedList l r).tail - (askedList l r).head) = n) :
    UnitAnswers t c r s (fun v k => k.k = l.k + n ∧ Sparse.get 0 k.u (t * 8 + c.val) = ownTaken l t c + n ∧ k.p = l.p ∧ k.q = l.q ∧
      Sparse.get {} k.lists r.list = { askedList l r with head := (askedList l r).head + n } ∧
      v.mem = (takeItems t c (askedList l r) r.a.toNat n s).mem ∧ v.poison = (takeItems t c (askedList l r) r.a.toNat n s).poison)
      n .none_ := by
  have happly := applyRequest_take h hop
  rw [if_neg hb, if_pos hitems, hearly, if_neg Bool.false_ne_true, hn, applyTake_eq] at happly
  obtain ⟨hphase, hlaunches, hmem, hpoison⟩ := itemsGiven_fields t c r (askedList l r) n s
  have hlaunch : launchOf (itemsGiven t c r (askedList l r) n s) (ctxOf s t c).launch = some l := by
    unfold launchOf
    rw [hlaunches]
    exact h.launch
  exact unitAnswers_of happly (hphase.trans_ne h.phase) (launchOf_modLaunch hlaunch fun _ => rfl)
    ⟨rfl, Sparse.get_modify_same 0 _ (fun u => u + n) l.u, rfl, rfl, Sparse.get_set_same .., hmem, hpoison⟩

/-- R240: an acknowledgement within what the context has taken. -/
theorem Requested.acknowledged (hop : r.op = 2) (hle : r.a.toNat ≤ ownTaken l t c) :
    UnitAnswers t c r s (fun v k => k.q = l.q + r.a.toNat ∧ Sparse.get 0 k.u (t * 8 + c.val) = ownTaken l t c - r.a.toNat ∧
      k.lists = l.lists ∧ v.mem = s.mem) 0 .none_ :=
  unitAnswers_of ((applyRequest_done h hop).trans (if_neg (Nat.not_lt.mpr hle))) h.phase (launchOf_modLaunch h.launch fun _ => rfl)
    ⟨rfl, Sparse.get_set_same .., rfl, rfl⟩

/-- R241: a QWAIT of a context that has acknowledged what it took, in a quiescent launch. -/
theorem Requested.quiet (hop : r.op = 3) (hu : ownTaken l t c = 0) (hq : quiescent s l = true) :
    UnitAnswers t c r s (fun v k => k = l ∧ v.mem = s.mem ∧ v.poison = s.poison) 0 .none_ := by
  have happly := applyRequest_qwait h hop
  rw [if_neg (not_not.mpr hu), if_pos hq] at happly
  obtain ⟨hphase, hlaunches, hmem, hpoison⟩ := modSight_fields t c r.id (Sight.know l.done) s
  refine unitAnswers_of happly (hphase.trans_ne h.phase) ?_ ⟨rfl, hmem, hpoison⟩
  unfold launchOf
  rw [hlaunches]
  exact h.launch

end

theorem segPoison_congr (h : u.poison = v.poison) (pa : Nat) : segPoison u pa = segPoison v pa := by
  unfold segPoison
  rw [h]

/-- R418: the answer arrives. -/
theorem wlAnswer_of {c : Fin 8} (hwl : (ctxOf s t c).wl = some r) (happlied : r.applied = true) (hanswered : r.answered = false)
    (hbefore : answeredBefore s t r.sent = false) :
    wlAnswer t c s = modCtx t c (fun y => { y with wl := some { r with answered := true } }) s := by
  unfold wlAnswer
  rw [hwl]
  exact if_pos ⟨happlied, by simp [hanswered], by simp [hbefore]⟩

/-- Settles O36: by the kind of the request and the state of the list. -/
theorem workListEvents : Obligations.WorkListEvents := by
  intro t c r l s hwl hlaunch hfree hphase w u applied still held
  refine ⟨fun happlied hfirst => ?request, fun happlied hanswered hbefore =>
    congrArg Host.Outcome.next (wlAnswer_of hwl happlied hanswered hbefore)⟩
  have h : Requested t c r l s := ⟨hwl, hlaunch, hfree, hphase, happlied, hfirst⟩
  refine ⟨fun hop hfull => h.answered ((applyRequest_append h hop).trans (if_pos hfull)), fun hop hroom => h.appended hop hroom,
    fun hop hb hitems hearly => ?take, fun hop hb => h.answered ((applyRequest_take h hop).trans (if_pos hb)),
    fun hop hempty hu => h.answered ?none, fun hop hb hitems hearly => h.waits ?behind,
    fun hop hb hempty hu hq => h.waits ?empty, fun hop hle => h.acknowledged hop hle,
    fun hop hlt => h.answered ((applyRequest_done h hop).trans (if_pos hlt)),
    fun hop hu => h.answered ((applyRequest_qwait h hop).trans (if_pos hu)), fun hop hu hq => h.quiet hop hu hq,
    fun hop hu hq => h.waits ?open_⟩
  case take =>
    obtain ⟨v, k, n, hexec, hwl', hk, hcount, hown, hp, hq, hlist, hmem, hpoison⟩ := h.took hop hb hitems hearly rfl
    refine ⟨v, k, n, hexec, hwl', hk, hcount, hown, hp, hq, hlist, fun base x halign hbase hx => ?_⟩
    have htaken := itemsTaken_takeItems (t := t) (c := c) (va := r.a.toNat) (x := x) halign hbase fun i hi => by
      obtain ⟨hpa, hmirror, hregion, hsource, hsound, hresolve⟩ := hx i hi
      exact ItemReaches.mk (w := w) hpa hmirror hregion hsource hsound hresolve
    rw [hmem]
    exact ⟨htaken.items, htaken.other, fun q => (segPoison_congr hpoison q).trans (htaken.poison q)⟩
  case none =>
    rw [applyRequest_take h hop, if_neg (not_not.mpr hempty), if_pos hu]
    exact ite_self _
  case behind =>
    rw [applyRequest_take h hop, if_neg hb, if_pos hitems]
    exact if_pos hearly
  case empty =>
    rw [applyRequest_take h hop, if_neg hb, if_neg (not_not.mpr hempty)]
    refine if_neg ?_
    rintro (hne | hquiet)
    · exact hne hu
    · exact absurd (hquiet.symm.trans hq) (by decide)
  case open_ =>
    rw [applyRequest_qwait h hop, if_neg (not_not.mpr hu), hq]
    exact if_neg Bool.false_ne_true

end Sys2Proof.Machine
end

section
/-! SUPPORT and the settling theorem of the hamper (O37): one equation for each way that CLAIM, ACQ, ACQT, REL, RELALL and RESQ end, what
a grant of one name binds, and what is left once every name, granule and slot is released (`NamesReleased`). -/

namespace Sys2Proof.Machine

variable {s : State} {d a : Fin 16} {w v : Word} {x y z : Tile} {c k n now : Nat}

/-! CLAIM, REL and RESQ (R245, R248, R249). -/

section
variable (hr : Ready s [a]) (hc : Clean s [a])
include hr hc

theorem doClaim_of : doClaim a s = if (cur s).claim.isSome then fail .claimRepeated
    else if !claimFits (curTile s) (rdS s a).val then fail .claimImpossible
    else .done (modCur (fun y => { y with claim := some (rdS s a).val }) s) .next :=
  (ready_of hr _).trans (unpoisoned_of_clean hc _)

theorem doRel_of : doRel a s = if wbit (rdS s a).val 23 ∨ wfld (rdS s a).val 28 36 ≠ 0 then fail .claimExceeded
    else releaseWith (rdS s a).val s :=
  (ready_of hr _).trans (unpoisoned_of_clean hc _)

end

theorem releaseWith_of (hb : releaseBusy s s.focusTile s.focusCtx w = false) :
    releaseWith w s = .done (modCurTile (releaseVector s.time s.focusCtx w) s) .next := if_neg (by simp [hb])

/-! ACQ and ACQT (R246, R247). -/

theorem hamperCheck_unclaimed (h : (ctxIn x c).claim = none) (w : Word) : hamperCheck x c w = .error .claimAbsent := by
  unfold hamperCheck
  dsimp only
  rw [h]

/-- R246: the value of a grant has zeros where a refusal has its code. -/
theorem wfld_grant (now c : Nat) (w : Word) (x : Tile) : wfld (grant now c w x).1 0 2 = 0 := by
  unfold grant wfld
  dsimp only
  rw [BitVec.toNat_ofNat]
  omega

theorem wfld_refusal (h : n < 4) : wfld (BitVec.ofNat 64 n) 0 2 = n := by
  unfold wfld
  rw [BitVec.toNat_ofNat]
  omega

/-- R246: what ACQ and ACQT do with a request that is granted. -/
def granted (d : Fin 16) (w : Word) (s : State) : Eff :=
  .done (wrS d { val := (grant s.time s.focusCtx w (curTile s)).1 }
    (setTile s.focusTile (grant s.time s.focusCtx w (curTile s)).2 s)) .next

section
variable (hr : Ready s [d, a]) (hc : Clean s [a])
include hr hc

theorem doAcqt_error {e : Cause} (h : hamperCheck (curTile s) s.focusCtx (rdS s a).val = .error e) : doAcqt d a s = .trap { cause := e } := by
  refine (ready_of hr _).trans ((unpoisoned_of_clean hc _).trans ?_)
  dsimp only
  rw [h]
  rfl

theorem doAcqt_granted (hl : Unlogged s) (h : hamperCheck (curTile s) s.focusCtx (rdS s a).val = .ok 0) :
    doAcqt d a s = granted d (rdS s a).val s := by
  refine (ready_of hr _).trans ((unpoisoned_of_clean hc _).trans ?_)
  dsimp only
  rw [h]
  exact (logged_of hl ..).trans (if_pos (wfld_grant ..))

theorem doAcqt_refused (hl : Unlogged s) (h : hamperCheck (curTile s) s.focusCtx (rdS s a).val = .ok n) (h0 : n ≠ 0) (h4 : n < 4) :
    doAcqt d a s = .done (wrS d { val := BitVec.ofNat 64 n } (countEvent s.focusTile s.focusCtx 18 1 s)) .next := by
  refine (ready_of hr _).trans ((unpoisoned_of_clean hc _).trans ?_)
  dsimp only
  rw [h]
  refine (logged_of hl ..).trans ?_
  rw [if_neg h0]
  exact if_neg (by rw [wfld_refusal h4]; exact h0)

theorem doAcq_held (h : (cur s).acqRes = some v) :
    doAcq d a s = .done (wrS d { val := v } (modCur (fun y => { y with acqRes := none }) s)) .next := by
  refine (ready_of hr _).trans ((unpoisoned_of_clean hc _).trans ?_)
  dsimp only
  rw [h]

theorem doAcq_error {e : Cause} (hres : (cur s).acqRes = none) (h : hamperCheck (curTile s) s.focusCtx (rdS s a).val = .error e) :
    doAcq d a s = .trap { cause := e } := by
  refine (ready_of hr _).trans ((unpoisoned_of_clean hc _).trans ?_)
  rw [hres, h]
  rfl

theorem doAcq_granted (hres : (cur s).acqRes = none) (h : hamperCheck (curTile s) s.focusCtx (rdS s a).val = .ok 0)
    (hq : ((curTile s).acqq.any fun q => decide (q.1 = s.focusCtx)) = false) : doAcq d a s = granted d (rdS s a).val s := by
  refine (ready_of hr _).trans ((unpoisoned_of_clean hc _).trans ?_)
  rw [hres, h]
  exact if_pos ⟨rfl, by simp [hq]⟩

theorem doAcq_refused (hres : (cur s).acqRes = none) (h : hamperCheck (curTile s) s.focusCtx (rdS s a).val = .ok n) (h0 : n ≠ 0) :
    doAcq d a s = .wait (joinQueue (rdS s a).val s) .offcore := by
  refine (ready_of hr _).trans ((unpoisoned_of_clean hc _).trans ?_)
  rw [hres, h]
  exact if_neg fun hbad => h0 hbad.1

end

/-- R247: a request that has joined the queue stands there, as a request that stood there before does. -/
theorem mem_joinQueue (w : Word) (s : State) : ∃ v, (s.focusCtx, v) ∈ (curTile (joinQueue w s)).acqq := by
  unfold joinQueue
  dsimp only
  split
  next h =>
    obtain ⟨⟨e, v⟩, hmem, he⟩ := List.any_eq_true.mp h
    obtain rfl := of_decide_eq_true he
    exact ⟨v, hmem⟩
  next h =>
    refine ⟨w, ?_⟩
    have hcount := observed_countAt (s := modCurTile (fun x => { x with acqq := x.acqq ++ [(s.focusCtx, w)] }) s)
      s.focusTile s.focusCtx 18 1
    unfold countEvent
    rw [(hcount ..).curTile_part Tile.acqq fun _ => rfl, curTile_modCurTile]
    exact List.mem_append_right _ List.mem_cons_self

/-! A grant of one name (R136, R246). -/

theorem toNat_two_pow (hk : k < 16) : (BitVec.ofNat 64 (2 ^ k)).toNat = 2 ^ k ∧ 2 ^ k < 2 ^ 16 := by
  have hlt : 2 ^ k < 2 ^ 16 := Nat.pow_lt_pow_right (by decide) hk
  rw [BitVec.toNat_ofNat]
  exact ⟨Nat.mod_eq_of_lt (Nat.lt_trans hlt (by decide)), hlt⟩

theorem wbit_two_pow (k j : Nat) (hj : j < 64) : wbit (BitVec.ofNat 64 (2 ^ k)) j = decide (k = j) := by
  unfold wbit
  rw [BitVec.getLsbD_ofNat, Nat.testBit_two_pow, decide_eq_true hj, Bool.true_and]

theorem filter_range_eq (hk : k < 16) : ((List.range 16).filter fun j => decide (k = j)) = [k] := by
  have hall : ∀ k, k < 16 → ((List.range 16).filter fun j => decide (k = j)) = [k] := by decide
  exact hall k hk

theorem newNames_single {y : Ctx} (hk : k < 16) (h : physOf y k = none) : newNames y (BitVec.ofNat 64 (2 ^ k)) = [k] := by
  unfold newNames
  refine (List.filter_congr fun j hj => ?_).trans (filter_range_eq hk)
  rw [wbit_two_pow k j (by have := List.mem_range.mp hj; omega)]
  by_cases hkj : k = j
  · rw [← hkj, h]
    exact Bool.and_true _
  · rw [decide_eq_false hkj, Bool.false_and]

/-- R136: the tile once a name is bound to register `n`. -/
def boundTo (c now k n : Nat) (x : Tile) : Tile :=
  { x with xregs := Sparse.set n { bound := true, lastUse := now } x.xregs,
           ctxs := Sparse.modify {} c (fun y => { y with names := Sparse.set k (n, false) y.names }) x.ctxs }

theorem bindName_of (hn : (List.range 32).find? (fun p => !(Sparse.get ({} : TileReg) x.xregs p).bound) = some n) :
    bindName c now k x = boundTo c now k n x := by
  unfold bindName
  rw [hn]
  rfl

/-- R246: the tile once a request for one name is granted, which takes no granules and no slots. -/
theorem grant_single (hk : k < 16) (h : physOf (ctxIn x c) k = none)
    (hn : (List.range 32).find? (fun p => !(Sparse.get ({} : TileReg) x.xregs p).bound) = some n) :
    (grant now c (BitVec.ofNat 64 (2 ^ k)) x).2 = takeSlots c 0 (takeGranules c 0 (boundTo c now k n x)) := by
  obtain ⟨hval, hlt⟩ := toNat_two_pow hk
  have hslots : wfld (BitVec.ofNat 64 (2 ^ k)) 24 3 = 0 := by
    unfold wfld
    omega
  have hgranules : wfld (BitVec.ofNat 64 (2 ^ k)) 16 7 = 0 := by
    unfold wfld
    omega
  unfold grant
  dsimp only
  rw [newNames_single hk h, hslots, hgranules, List.foldl_cons, List.foldl_nil,
    if_neg (by rw [wbit_two_pow k 31 (by decide), decide_eq_false (by omega)]; exact Bool.false_ne_true), bindName_of hn]

theorem ctxIn_takeNone (c : Nat) (x : Tile) : ctxIn (takeSlots c 0 (takeGranules c 0 x)) c = ctxIn x c := by
  have hgranules : ctxIn (takeGranules c 0 x) c = { ctxIn x c with granules := (ctxIn x c).granules ++ [] } :=
    Sparse.get_modify_same ({} : Ctx) c (fun y => { y with granules := y.granules ++ [] }) x.ctxs
  refine hgranules.trans ?_
  rw [List.append_nil]

theorem physOf_boundTo (hn : n < 32) (j : Nat) :
    physOf (ctxIn (boundTo c now k n x) c) j = if j = k then some n else physOf (ctxIn x c) j := by
  have hctx : ctxIn (boundTo c now k n x) c = { ctxIn x c with names := Sparse.set k (n, false) (ctxIn x c).names } :=
    Sparse.get_modify_same ({} : Ctx) c (fun y => { y with names := Sparse.set k (n, false) y.names }) x.ctxs
  unfold physOf
  rw [hctx, Sparse.get_set]
  by_cases hj : j = k
  · rw [if_pos hj, if_pos hj]
    exact if_pos hn
  · rw [if_neg hj, if_neg hj]

/-- A sum over the numbers below `n`, one of whose terms grows. -/
theorem foldl_range_add {f g : Nat → Nat} {e : Nat} (hk : g k = f k + e) (hother : ∀ j, j ≠ k → g j = f j) (n : Nat) :
    (List.range n).foldl (fun m j => m + g j) 0 = (List.range n).foldl (fun m j => m + f j) 0 + if k < n then e else 0 := by
  induction n with
  | zero => rfl
  | succ n ih =>
    rw [List.range_succ, List.foldl_append, List.foldl_append, ih, List.foldl_cons, List.foldl_cons, List.foldl_nil, List.foldl_nil]
    by_cases hn : n = k
    · subst hn
      rw [hk, if_neg (by omega), if_pos (by omega)]
      omega
    · rw [hother n hn, Nat.add_right_comm]
      exact congrArg (HAdd.hAdd _) (if_congr (by omega) rfl rfl)

theorem boundBits_boundTo (hk : k < 16) (h : physOf (ctxIn x c) k = none) (hn : n < 32) :
    boundBits (ctxIn (boundTo c now k n x) c) = boundBits (ctxIn x c) + 2 ^ k := by
  refine (foldl_range_add (k := k) (e := 2 ^ k) ?_ (fun j hj => ?_) 16).trans (congrArg (HAdd.hAdd _) (if_pos hk)) <;> rw [physOf_boundTo hn]
  · rw [if_pos rfl, h]
    simp
  · rw [if_neg hj]

/-- R246: the value of a grant of one name. -/
theorem grant_single_value (hk : k < 16) (h : physOf (ctxIn x c) k = none)
    (hfind : (List.range 32).find? (fun p => !(Sparse.get ({} : TileReg) x.xregs p).bound) = some n) (hn : n < 32) :
    (grant now c (BitVec.ofNat 64 (2 ^ k)) x).1 = BitVec.ofNat 64 (2 ^ (16 + k)) := by
  have hvalue : (grant now c (BitVec.ofNat 64 (2 ^ k)) x).1 = BitVec.ofNat 64
      ((boundBits (ctxIn (grant now c (BitVec.ofNat 64 (2 ^ k)) x).2 c) - boundBits (ctxIn x c)) * 2 ^ 16 +
        (slotBits (grant now c (BitVec.ofNat 64 (2 ^ k)) x).2 c - slotBits x c) * 2 ^ 32) := rfl
  have hslots : slotBits (takeSlots c 0 (takeGranules c 0 (boundTo c now k n x))) c = slotBits x c := rfl
  rw [hvalue, grant_single hk h hfind, ctxIn_takeNone, boundBits_boundTo hk h hn, hslots, Nat.add_sub_cancel_left, Nat.sub_self,
    Nat.zero_mul, Nat.add_zero, ← Nat.pow_add, Nat.add_comm]

/-! Everything released (R249). -/

theorem get_absent {α : Type} (e : α) {m : Sparse α} {j : Nat} (h : j ∉ m.map fun p => p.1) : Sparse.get e m j = e := by
  induction m with
  | nil => rfl
  | cons p m ih =>
    rw [List.map_cons, List.mem_cons, not_or] at h
    exact (if_neg (Ne.symm h.1)).trans (ih h.2)

/-- An entry of a table without repeated keys, once some entries are gone: none, or one that is left. -/
theorem get_filter {α : Type} (e : α) {m : Sparse α} (h : (m.map fun p => p.1).Nodup) (f : Nat × α → Bool) (j : Nat) :
    Sparse.get e (m.filter f) j = e ∨ Sparse.get e (m.filter f) j = Sparse.get e m j ∧ f (j, Sparse.get e m j) = true := by
  induction m with
  | nil => exact .inl rfl
  | cons p m ih =>
    obtain ⟨i, u⟩ := p
    rw [List.map_cons, List.nodup_cons] at h
    obtain ⟨hnot, hm⟩ := h
    by_cases hi : i = j
    · subst hi
      have hget : Sparse.get e ((i, u) :: m) i = u := if_pos rfl
      by_cases hf : f (i, u) = true
      · rw [List.filter_cons_of_pos hf, hget]
        exact .inr ⟨if_pos rfl, hf⟩
      · rw [List.filter_cons_of_neg hf]
        exact .inl (get_absent e fun hmem => hnot ((List.filter_sublist.map _).subset hmem))
    · have hget : Sparse.get e ((i, u) :: m) j = Sparse.get e m j := if_neg hi
      rw [hget]
      by_cases hf : f (i, u) = true
      · rw [List.filter_cons_of_pos hf, Sparse.get, if_neg hi]
        exact ih hm
      · rw [List.filter_cons_of_neg hf]
        exact ih hm

theorem physOf_congr {y z : Ctx} (h : y.names = z.names) (k : Nat) : physOf y k = physOf z k := by
  unfold physOf
  rw [h]

theorem physOf_filter {y : Ctx} (hnodup : (y.names.map fun p => p.1).Nodup) (f : Nat × Nat × Bool → Bool)
    (h : physOf y k = none ∨ f (k, Sparse.get (999, false) y.names k) = false) :
    physOf { y with names := y.names.filter f } k = none := by
  unfold physOf at *
  dsimp only
  obtain hget | ⟨hget, hleft⟩ := get_filter (999, false) hnodup f k <;> rw [hget]
  · rfl
  · exact h.resolve_right (by simp [hleft])

theorem fst_of_physOf {y : Ctx} (h : physOf y k = some n) : (Sparse.get (999, false) y.names k).1 = n := by
  unfold physOf at h
  dsimp only at h
  split at h
  · exact Option.some.inj h
  · cases h

theorem partner_ne (c : Nat) : c ≠ partner c := by
  unfold partner
  omega

/-- R249: a context without its names of register `n`. -/
def withoutRegister (n : Nat) (y : Ctx) : Ctx := { y with names := y.names.filter fun m => decide (m.2.1 ≠ n) }

/-- R249: the release of a name takes entries out of its context's names, its own among them where it was bound. -/
theorem releaseName_names (c k : Nat) (x : Tile) : ∃ f : Nat × Nat × Bool → Bool,
    ctxIn (releaseName c k x) c = { ctxIn x c with names := (ctxIn x c).names.filter f } ∧
      (physOf (ctxIn x c) k = none ∨ f (k, Sparse.get (999, false) (ctxIn x c).names k) = false) ∧
      (releaseName c k x).slots = x.slots ∧ (releaseName c k x).acqq = x.acqq := by
  unfold releaseName
  dsimp only
  split
  next hnone =>
    refine ⟨fun _ => true, ?_, .inl hnone, rfl, rfl⟩
    rw [List.filter_true]
  next p hp =>
    split
    · exact ⟨_, Sparse.get_set_same .., .inr (decide_eq_false (not_not.mpr rfl)), rfl, rfl⟩
    · refine ⟨fun n => decide (n.2.1 ≠ p), ?_, .inr (decide_eq_false (not_not.mpr (fst_of_physOf hp))), rfl, rfl⟩
      exact (Sparse.get_modify_other _ (partner_ne c) (withoutRegister p) _).trans
        (Sparse.get_modify_same ({} : Ctx) c (withoutRegister p) x.ctxs)

/-- R249: what the release of names leaves. -/
structure NamesReleased (c : Nat) (x y : Tile) : Prop where
  granules : (ctxIn y c).granules = (ctxIn x c).granules
  claim : (ctxIn y c).claim = (ctxIn x c).claim
  slots : y.slots = x.slots
  acqq : y.acqq = x.acqq

/-- R249: once several names are released, neither they nor names that were free before are bound. -/
theorem releaseNames_free (l : List Nat) (hnodup : ((ctxIn x c).names.map fun p => p.1).Nodup) :
    NamesReleased c x (l.foldl (fun x k => releaseName c k x) x) ∧
      ∀ j, physOf (ctxIn x c) j = none ∨ j ∈ l → physOf (ctxIn (l.foldl (fun x k => releaseName c k x) x) c) j = none := by
  induction l generalizing x with
  | nil => exact ⟨⟨rfl, rfl, rfl, rfl⟩, fun j hj => hj.resolve_right List.not_mem_nil⟩
  | cons k l ih =>
    obtain ⟨f, hctx, hk, hslots, hacqq⟩ := releaseName_names c k x
    have hfree := physOf_filter (k := k) hnodup f hk
    have hkept (j : Nat) (hj : physOf (ctxIn x c) j = none) := physOf_filter (k := j) hnodup f (.inl hj)
    have hsub : ((ctxIn (releaseName c k x) c).names.map fun p => p.1).Nodup := by
      rw [hctx]
      exact hnodup.sublist (List.filter_sublist.map _)
    rw [← hctx] at hfree
    simp only [← hctx] at hkept
    obtain ⟨hrest, hnone⟩ := ih hsub
    refine ⟨⟨hrest.granules.trans (by rw [hctx]), hrest.claim.trans (by rw [hctx]), hrest.slots.trans hslots, hrest.acqq.trans hacqq⟩,
      fun j hj => hnone j ?_⟩
    obtain hj | hj := hj
    · exact .inl (hkept j hj)
    · obtain rfl | hj := List.mem_cons.mp hj
      · exact .inl hfree
      · exact .inr hj

/-- R249: a slot after the release of those that a mask names. -/
theorem get_clearSlots (P : Nat → Prop) [DecidablePred P] (l : List Nat) (m : Sparse MSlot) (j : Nat) :
    Sparse.get {} (l.foldl (fun m j => if P j then Sparse.set j {} m else m) m) j = if j ∈ l ∧ P j then {} else Sparse.get {} m j := by
  induction l generalizing m with
  | nil => exact (if_neg fun h => List.not_mem_nil h.1).symm
  | cons i l ih =>
    rw [List.foldl_cons, ih]
    by_cases hij : j = i
    · subst hij
      by_cases hp : P j <;> simp [hp]
    · by_cases hp : P i <;> simp [hp, hij, Sparse.get_set]

/-- R249: RELALL of a context without queued requests, whose names are all different. -/
theorem releaseEverything (now : Nat) (hq : x.acqq = []) (hlen : (ctxIn x c).granules.length ≤ 96)
    (hnodup : ((ctxIn x c).names.map fun p => p.1).Nodup) : ∃ y, releaseVector now c everything x = y ∧
      (∀ k, k < 16 → physOf (ctxIn y c) k = none) ∧ (ctxIn y c).granules = [] ∧
      (∀ j, j < 4 → (Sparse.get ({} : MSlot) y.slots j).owner ≠ some c) ∧ (ctxIn y c).claim = (ctxIn x c).claim := by
  have hall : ∀ k, k < 16 → wbit everything k = true := by decide
  have hgranules : wfld everything 16 7 = 127 := by decide
  have hslots : wfld everything 24 4 = 15 := by decide
  have hmask : ∀ j, j < 4 → 15 / 2 ^ j % 2 = 1 := by decide
  obtain ⟨hnames, hfree⟩ := releaseNames_free (c := c) ((List.range 16).filter fun k => wbit everything k) hnodup
  generalize hz : ((List.range 16).filter fun k => wbit everything k).foldl (fun x k => releaseName c k x) x = z at hnames hfree
  have hvector : releaseVector now c everything x = releaseSlots c 15 (releaseGranules c 127 z) := by
    unfold releaseVector
    rw [hz, hgranules, hslots]
    have hnone : (releaseSlots c 15 (releaseGranules c 127 z)).acqq = [] := hnames.acqq.trans hq
    dsimp only
    rw [hnone]
    rfl
  have hctx : ctxIn (releaseSlots c 15 (releaseGranules c 127 z)) c =
      { ctxIn z c with granules := (ctxIn z c).granules.take ((ctxIn z c).granules.length - 127) } :=
    Sparse.get_modify_same ({} : Ctx) c
      (fun y => { y with granules := (ctxIn z c).granules.take ((ctxIn z c).granules.length - 127) }) z.ctxs
  refine ⟨_, hvector, fun k hk => ?_, ?_, fun j hj => ?_, ?_⟩
  · have hsame : physOf (ctxIn (releaseSlots c 15 (releaseGranules c 127 z)) c) k = physOf (ctxIn z c) k :=
      physOf_congr (by rw [hctx]) k
    have hmem : k ∈ (List.range 16).filter fun k => wbit everything k := List.mem_filter.mpr ⟨List.mem_range.mpr hk, hall k hk⟩
    exact hsame.trans (hfree k (.inr hmem))
  · rw [hctx]
    have hzero : (ctxIn z c).granules.length - 127 = 0 := by
      rw [hnames.granules]
      omega
    dsimp only
    rw [hzero, List.take_zero]
  · have hget := get_clearSlots (fun j => 15 / 2 ^ j % 2 = 1 ∧ (Sparse.get {} z.slots j).owner = some c) (List.range 4) z.slots j
    refine (congrArg MSlot.owner hget).trans_ne ?_
    split
    · exact Option.some_ne_none c |>.symm
    next h => exact fun howner => h ⟨List.mem_range.mpr hj, hmask j hj, howner⟩
  · rw [hctx]
    exact hnames.claim

/-- Settles O37: each instruction is its equation; a grant of one name and RELALL are what they leave of the tile. -/
theorem hamperComplete : Obligations.HamperComplete := by
  intro d a r s hr hc hl w g traps queue
  have hra : Ready s [a] := hr.mono (by simp)
  have hclaim := doClaim_of hra hc
  refine ⟨fun hnone hfits => ?_, fun hsome => ?_, fun hnone hfits => ?_, fun hnone => ?absent, fun hok => ?granted, fun hok h0 h4 => ?refused,
    fun v hres => congrArg (settle s) (doAcq_held hr hc hres), fun k hk hw hphys hbound => ?single, fun h23 h28 hb => ?rel, fun hbad => ?relBad,
    fun hb hq hlen hnodup => ?relall, congrArg (settle s) ?resq⟩
  · refine congrArg (settle s) ?_
    rw [hclaim, hnone, hfits]
    rfl
  · refine congrArg (settle s) ?_
    rw [hclaim]
    exact if_pos (Option.isSome_iff_ne_none.mpr hsome)
  · refine congrArg (settle s) ?_
    rw [hclaim, hnone, hfits]
    rfl
  case absent =>
    have hcheck := hamperCheck_unclaimed (x := curTile s) hnone w
    exact ⟨congrArg (settle s) (doAcqt_error hr hc hcheck), fun hres => congrArg (settle s) (doAcq_error hr hc hres hcheck)⟩
  case granted =>
    exact ⟨congrArg (settle s) (doAcqt_granted hr hc hl hok), fun hres hq => congrArg (settle s) (doAcq_granted hr hc hres hok hq)⟩
  case refused =>
    exact ⟨congrArg (settle s) (doAcqt_refused hr hc hl hok h0 h4),
      fun hres => ⟨_, congrArg (settle s) (doAcq_refused hr hc hres hok h0), mem_joinQueue w s⟩⟩
  case single =>
    obtain ⟨q, hq, hfree⟩ := hbound
    obtain ⟨n, hn⟩ := Option.isSome_iff_exists.mp (List.find?_isSome.mpr ⟨q, List.mem_range.mpr hq, by rw [hfree]; rfl⟩ :
      ((List.range 32).find? (fun p => !(Sparse.get ({} : TileReg) (curTile s).xregs p).bound)).isSome = true)
    obtain ⟨hunbound, hmem, hlower⟩ := List.find?_range_eq_some.mp hn
    have hlt := List.mem_range.mp hmem
    have hg : g.2 = takeSlots s.focusCtx 0 (takeGranules s.focusCtx 0 (boundTo s.focusCtx s.time k n (curTile s))) := by
      show (grant s.time s.focusCtx w (curTile s)).2 = _
      rw [hw]
      exact grant_single hk hphys hn
    have hreg : Sparse.get ({} : TileReg) g.2.xregs n = { bound := true, lastUse := s.time } := by
      rw [hg]
      exact Sparse.get_set_same ..
    refine ⟨n, hlt, by simpa using hunbound, fun j hj => by simpa using hlower j hj, ?_, fun j => ?_, by rw [hreg], by rw [hreg], ?_⟩
    · rw [hg, ctxIn_takeNone, physOf_boundTo hlt, if_pos rfl]
    · unfold rowIn
      rw [hreg]
      rfl
    · show (grant s.time s.focusCtx w (curTile s)).1 = _
      rw [hw]
      exact grant_single_value hk hphys hn hlt
  case rel =>
    refine congrArg (settle s) ((doRel_of hra hc).trans ((if_neg ?_).trans (releaseWith_of hb)))
    rintro (hbit | hfld)
    · exact absurd (hbit.symm.trans h23) (by decide)
    · exact hfld h28
  case relBad => exact congrArg (settle s) ((doRel_of hra hc).trans (if_pos hbad))
  case relall =>
    obtain ⟨y, hy, hnames, hgranules, hslots, hkept⟩ := releaseEverything (x := curTile s) (c := s.focusCtx) s.time hq hlen hnodup
    have htile : curTile (modCurTile (releaseVector s.time s.focusCtx everything) s) = y := (curTile_modCurTile ..).trans hy
    have hcur : cur (modCurTile (releaseVector s.time s.focusCtx everything) s) = ctxIn y s.focusCtx :=
      congrArg (fun x => ctxIn x s.focusCtx) htile
    refine ⟨_, congrArg (settle s) (releaseWith_of hb), ?_, ?_, ?_, ?_⟩
    · rw [hcur]
      exact hnames
    · rw [hcur]
      exact hgranules
    · rw [htile]
      exact hslots
    · rw [hcur]
      exact hkept
  case resq => exact (ready_of hr _).trans (unpoisoned_of_clean hc _)

end Sys2Proof.Machine
end

section
/-! SUPPORT and the settling theorems of barriers, semaphores and arrival sets (O33, O34): what a release leaves of the operands, what an
arrival makes of its object, and one equation for each way that a group or a step ends. -/

namespace Sys2Proof.Machine

variable {s s' : State} {d a b m : Fin 16} {i : Fin 64} {l : Launch} {key n p : Nat}

/-! Operands after a release (R57, R273). -/

/-- R356: scalars among those without poison have none. -/
theorem Clean.mono {r r' : List (Fin 16)} (h : Clean s r) (hr : r' ⊆ r) : Clean s r' :=
  List.any_eq_false.mpr fun x hx => List.any_eq_false.mp h x (hr hx)

/-- R57: a release leaves the scalars that the group reads. -/
theorem ReleaseMet.rdS_eq (h : ReleaseMet s s') (r : Fin 16) : rdS s' r = rdS s r := by
  obtain ⟨rfl, -, -⟩ := h
  have hcur : ctxIn (curTile (modCur issueMerged s)) s.focusCtx = issueMerged (cur s) := cur_modCur ..
  have htile : opTile (modCur issueMerged s) = s.grp.snap.getD (curTile (modCur issueMerged s)) := rfl
  unfold rdS opCtx
  rw [htile]
  unfold opTile
  cases s.grp.snap with
  | none => exact (congrArg (fun y => scalarIn y r.val) hcur :)
  | some x => rfl

theorem ReleaseMet.anyPoison_eq (h : ReleaseMet s s') (r : List (Fin 16)) : anyPoison s' r = anyPoison s r := by
  unfold anyPoison
  simp only [h.rdS_eq]

/-- R410: a release leaves a launch that neither records nor replays. -/
theorem ReleaseMet.unlogged (h : ReleaseMet s s') (hl : Unlogged s) : Unlogged s' := by
  obtain ⟨hlaunches, hlaunch, -⟩ := releaseMet_keep h
  exact unlogged_keep hl hlaunches hlaunch

theorem ReleaseMet.launchOf_eq (h : ReleaseMet s s') : launchOf s' (cur s').launch = launchOf s (cur s).launch := by
  obtain ⟨hlaunches, -, -, -, -, -, -, -, hcur⟩ := releaseMet_keep h
  unfold launchOf
  rw [hlaunches, hcur]
  rfl

/-! The barrier that a group names (R224, R295). -/

/-- R224: the launch of the acting context declares the barrier, whose object has a key, and binds it to no other level. -/
structure Declared (s : State) (q : BarDom) (i : Fin 64) (l : Launch) (key : Nat) : Prop where
  launch : launchOf s (cur s).launch = some l
  key : barKeyOf s (domCode q) s.focusTile i.val = some key
  level : ¬(q = .device ∧ i.val < (barDecl l 6).1)
  declared : i.val < (barDecl l (domCode q)).1

variable {q : BarDom}

theorem withBar_declared (h : Declared s q i l key) (k : Nat → Nat → Eff) : withBar s q i k = k key (barTasks l (domCode q) s.focusTile) := by
  unfold withBar
  rw [h.launch]
  dsimp only
  rw [if_neg h.level, h.key]
  exact if_pos h.declared

theorem withBar_undeclared (hlaunch : launchOf s (cur s).launch = some l) (hkey : barKeyOf s (domCode q) s.focusTile i.val = some key)
    (h : (barDecl l (domCode q)).1 ≤ i.val ∨ (q = .device ∧ i.val < (barDecl l 6).1)) (k : Nat → Nat → Eff) :
    withBar s q i k = .trap { cause := .barrierId } := by
  unfold withBar
  rw [hlaunch]
  dsimp only
  by_cases hlevel : q = .device ∧ i.val < (barDecl l 6).1
  · exact if_pos hlevel
  · rw [if_neg hlevel, hkey]
    exact if_neg (Nat.not_lt.mpr (h.resolve_right hlevel))

/-! An arrival at its object (R225, R226). -/

theorem Known.has_join (a b : Known) (n : Nat) : (a.join b).has n = (a.has n || b.has n) := by
  have hleft : (a.join b).has n = (decide (n < max a.upTo b.upTo) || (a.also ++ b.also.filter fun x => !a.has x).contains n) := rfl
  have ha : a.has n = (decide (n < a.upTo) || a.also.contains n) := rfl
  have hb : b.has n = (decide (n < b.upTo) || b.also.contains n) := rfl
  rw [hleft, hb, Bool.eq_iff_iff]
  simp only [Bool.or_eq_true, decide_eq_true_eq, List.contains_iff_mem, List.mem_append, List.mem_filter, lt_max_iff, ha]
  by_cases hn : n < a.upTo <;> by_cases hm : n ∈ a.also <;> simp [hn, hm]

/-- R225: the object of a key after an arrival. -/
theorem get_barArrive (key n : Nat) (k : Known) (s : State) : let o := Sparse.get ({} : Bar) s.bars key
    Sparse.get ({} : Bar) (barArrive key n k s).2.bars key =
      if (o.a + 1) % n = 0 then { a := o.a + 1, c := (o.a + 1) / n, sent := s.nextId, arrived := o.arrived.join k, released := o.arrived.join k }
      else { o with a := o.a + 1, arrived := o.arrived.join k } := Sparse.get_set_same ..

/-- R225: an arrival counts, and completes a phase with a multiple of the count. -/
theorem barArrive_counts (key n : Nat) (k : Known) (s : State) : let o := Sparse.get ({} : Bar) s.bars key
    let w := Sparse.get ({} : Bar) (barArrive key n k s).2.bars key
    w.a = o.a + 1 ∧ w.c = if (o.a + 1) % n = 0 then (o.a + 1) / n else o.c := by
  dsimp only
  rw [get_barArrive]
  split <;> exact ⟨rfl, rfl⟩

/-- R226: what the arrival and those before it released stands with the object, and with the phase when it completes. -/
theorem barArrive_releases (key n : Nat) (k : Known) (s : State) {x : Nat}
    (hx : k.has x = true ∨ (Sparse.get ({} : Bar) s.bars key).arrived.has x = true) : let o := Sparse.get ({} : Bar) s.bars key
    let w := Sparse.get ({} : Bar) (barArrive key n k s).2.bars key
    w.arrived.has x = true ∧ ((o.a + 1) % n = 0 → w.released.has x = true) := by
  have hall : ((Sparse.get ({} : Bar) s.bars key).arrived.join k).has x = true := by
    rw [Known.has_join, Bool.or_eq_true]
    exact hx.symm
  dsimp only
  rw [get_barArrive]
  split
  · exact ⟨hall, fun _ => hall⟩
  next hpart => exact ⟨hall, fun hfull => absurd hfull hpart⟩

theorem barArrive_other (key n : Nat) (k : Known) (s : State) {r : Nat} (h : r ≠ key) :
    Sparse.get ({} : Bar) (barArrive key n k s).2.bars r = Sparse.get {} s.bars r := Sparse.get_set_other _ _ h _

/-! Waiting for a phase (R226, R229). -/

/-- R226: the acting context acquires what the completed phases of an object released. -/
def knowsPhase (key : Nat) (s : State) : State :=
  modCur (fun y => { y with sight := y.sight.know (Sparse.get ({} : Bar) s.bars key).released }) s

theorem awaitPhase_done (hdone : barDone s key p = true) (hwait : (cur s).wait = .none_) (k : State → Eff) :
    awaitPhase s key p k = k (knowsPhase key s) := if_pos ⟨hdone, by rw [hwait]; exact Wait.noConfusion⟩

theorem awaitPhase_open (hdone : barDone s key p = false) (k : State → Eff) : awaitPhase s key p k = .wait s (.barrier key p) :=
  if_neg fun h => absurd (hdone.symm.trans h.1) (by decide)

/-! BAR.ARR, BAR.WAIT and BAR.AW (R226, R227). -/

theorem doBarArr_tile (hr : Ready s [d]) (h : Declared s .tile i l key) (hl : Unlogged s) (hrel : ReleaseMet s s') :
    let u := barArrive key (barTasks l (domCode .tile) s.focusTile) (knownNow s' s'.focusTile s'.focusCtx) s'
    doBarArr d .tile i s = .done (wrS d { val := BitVec.ofNat 64 u.1 } u.2) .next := by
  refine (ready_of hr _).trans ((withBar_declared h _).trans ((released_of hrel _).trans ?_))
  exact (if_pos (.inl rfl)).trans (logged_of (hrel.unlogged hl) ..)

/-- R229: an arrival of the acting context sent to the home of its object. -/
def sendArrival (b : BarArr) (s : State) : State := { s with nextId := s.nextId + 1, barArr := s.barArr ++ [b] }

theorem doBarArr_far (hr : Ready s [d]) (h : Declared s q i l key) (hq : q ≠ .tile) (hrec : l.recording = none) (hl : Unlogged s)
    (hrel : ReleaseMet s s') : doBarArr d q i s = .done (phaseAcc d s'.nextId key (sendArrival
      { id := s'.nextId, key := key, count := barTasks l (domCode q) s.focusTile, tile := s'.focusTile, ctx := s'.focusCtx,
        acc := if d = 0 then 0 else s'.nextId, known := knownNow { s' with nextId := s'.nextId + 1 } s'.focusTile s'.focusCtx } s')) .next := by
  have hreplay : replaying s' s'.focusTile = false := not_replaying (hrel.unlogged hl) rfl rfl
  refine (ready_of hr _).trans ((withBar_declared h _).trans ((released_of hrel _).trans ?_))
  dsimp only
  refine if_neg ?_
  rintro (hbad | hbad)
  · exact hq hbad
  · rw [hreplay, hrel.launchOf_eq, h.launch] at hbad
    dsimp only at hbad
    rw [hrec] at hbad
    exact Bool.false_ne_true hbad

section
variable (hr : Ready s [a]) (hc : Clean s [a]) (h : Declared s q i l key)
include hr hc h

theorem doBarWait_of : doBarWait a q i s = awaitPhase s key (rdS s a).val.toNat fun s => .done s .next :=
  (ready_of hr _).trans ((unpoisoned_of_clean hc _).trans (withBar_declared h _))

end

/-- R227: a context that has joined a phase with its BAR.AW. -/
def joinPhase (p : Nat) (s : State) : State := modCur (fun y => { y with barPhase := some p, afterEret := false }) s

/-- R227: what a BAR.AW does once it has arrived and joined phase `p`. -/
def awaitJoined (key p : Nat) (s : State) : Eff :=
  awaitPhase (joinPhase p s) key p fun s => .done (modCur (fun y => { setPm false y with barPhase := none }) s) .next

theorem awaitJoined_of (hwait : (cur s).wait = .none_) : awaitJoined key p s =
    if barDone s key p then .done (modCur (fun y => { setPm false y with barPhase := none }) (knowsPhase key (joinPhase p s))) .next
    else .wait (joinPhase p s) (.barrier key p) := by
  have hcur : (cur (joinPhase p s)).wait = .none_ := (congrArg Ctx.wait (cur_modCur ..)).trans hwait
  have hsame : barDone (joinPhase p s) key p = barDone s key p := rfl
  by_cases hdone : barDone s key p = true
  · rw [if_pos hdone]
    exact awaitPhase_done (hsame.trans hdone) hcur _
  · rw [if_neg hdone]
    exact awaitPhase_open (hsame.trans (Bool.eq_false_iff.mpr hdone)) _

theorem doBarAw_joined (h : Declared s q i l key) (hp : (cur s).barPhase = some p) : doBarAw q i s = awaitJoined key p s := by
  refine (withBar_declared h _).trans ?_
  dsimp only
  rw [hp]
  rfl

section
variable (h : Declared s q i l key) (hp : (cur s).barPhase = none) (he : (cur s).afterEret = false)
  (hsent : (s.barArr.any fun b => b.aw && decide (b.tile = s.focusTile) && decide (b.ctx = s.focusCtx)) = false) (hrel : ReleaseMet s s')
include h hp he hsent hrel

theorem doBarAw_tile (hq : q = .tile) : let u := barArrive key (barTasks l (domCode q) s.focusTile) (knownNow s' s'.focusTile s'.focusCtx) s'
    doBarAw q i s = awaitJoined key u.1 u.2 := by
  refine (withBar_declared h _).trans ?_
  dsimp only
  rw [hp]
  dsimp only
  rw [hsent, if_neg Bool.false_ne_true, he, if_neg Bool.false_ne_true, released_of hrel]
  exact if_pos hq

theorem doBarAw_far (hq : q ≠ .tile) : doBarAw q i s = .wait (sendArrival
    { id := s'.nextId, key := key, count := barTasks l (domCode q) s.focusTile, tile := s'.focusTile, ctx := s'.focusCtx, acc := 0,
      aw := true, known := knownNow { s' with nextId := s'.nextId + 1 } s'.focusTile s'.focusCtx } s') .offcore := by
  refine (withBar_declared h _).trans ?_
  dsimp only
  rw [hp]
  dsimp only
  rw [hsent, if_neg Bool.false_ne_true, he, if_neg Bool.false_ne_true, released_of hrel]
  exact if_neg hq

end

/-! The steps of a barrier (R225, R228, R229). -/

/-- R225: an arrival that is not held and that no earlier request precedes. -/
theorem barrierArrival_of {k : Nat} {b : BarArr} (hfind : s.barArr.find? (fun x => decide (x.id = k)) = some b)
    (hheld : heldByPair s b.tile b.ctx k = false) (hbefore : sentBefore s b.tile (barHome b.key) k = false) :
    let u := barArrive b.key b.count b.known { s with barArr := s.barArr.filter fun x => decide (x.id ≠ k) }
    barrierArrival k s = modCtx b.tile b.ctx (fun y =>
      if b.aw then { y with barPhase := some u.1 }
      else { y with accs := y.accs.map fun a =>
        if a.id = b.acc ∧ a.kind = .phase then { a with served := true, sent := u.2.nextId, data := BitVec.ofNat 512 u.1 } else a })
      { u.2 with nextId := u.2.nextId + 1 } := by
  unfold barrierArrival
  rw [hfind]
  exact if_neg fun h => h.elim (by simp [hheld]) (by simp [hbefore])

theorem barrierRelease_of {t : Nat} {c : Fin 8} (hwait : (ctxOf s t c).wait = .barrier key p) (hdone : p < (Sparse.get ({} : Bar) s.bars key).c)
    (hhome : key / 2 ^ 20 = 2 ∨ repliedBefore s (barHome key) t (Sparse.get ({} : Bar) s.bars key).sent = false) :
    barrierRelease t c s = modCtx t c (fun y => { y with wait := .none_ }) s := by
  unfold barrierRelease
  rw [hwait]
  exact if_pos ⟨decide_eq_true hdone, hhome.imp_right fun h => by simp [h]⟩

theorem barrierTimeout_of {t : Nat} {c : Fin 8} (hwait : (ctxOf s t c).wait = .barrier key p)
    (hopen : (Sparse.get ({} : Bar) s.bars key).c ≤ p) (hlaunch : launchOf s (ctxOf s t c).launch = some l)
    (hlimit : barLimit s l key ≠ 0) (htime : (ctxOf s t c).waitSince + barLimit s l key ≤ s.time)
    (hstop : (ctxOf s t c).stopped = false) (hhalt : (ctxOf s t c).debugHalt = false) :
    barrierTimeout t c s = enterCause t c { cause := .barrierTimeout, eval := BitVec.ofNat 64 p } 0 s := by
  unfold barrierTimeout
  dsimp only
  rw [hwait, hlaunch]
  refine if_pos ⟨hlimit, htime, ?_, by simp [hstop], by simp [hhalt]⟩
  simp [barDone, hopen]

/-- Settles O34: each step is its equation, and the object of an arrival that of `barArrive`. -/
theorem barrierEvents : Obligations.BarrierEvents := by
  intro k t key p c b l s
  refine ⟨fun hfind hheld hbefore => ?arrival, fun hwait hdone hhome => congrArg Host.Outcome.next (barrierRelease_of hwait hdone hhome),
    fun hwait hopen hlaunch hlimit htime hstop hhalt =>
      congrArg Host.Outcome.next (barrierTimeout_of hwait hopen hlaunch hlimit htime hstop hhalt)⟩
  case arrival =>
    obtain ⟨ha, hc⟩ := barArrive_counts b.key b.count b.known { s with barArr := s.barArr.filter fun x => decide (x.id ≠ k) }
    refine ⟨_, congrArg Host.Outcome.next (barrierArrival_of hfind hheld hbefore), rfl, rfl,
      ⟨ha, hc, fun x hx => barArrive_releases b.key b.count b.known _ hx⟩, fun r hr => barArrive_other _ _ _ _ hr, fun haw => ?_⟩
    rw [ctxOf_modCtx_same, haw]
    rfl

/-! Semaphores (R230, R231). -/

theorem ReleaseMet.semAmount_eq (h : ReleaseMet s s') (a : Fin 16) : semAmount s' a = semAmount s a := by
  unfold semAmount
  rw [h.rdS_eq]

theorem ReleaseMet.semValue_eq (h : ReleaseMet s s') (k : Nat) : semValue s' k = semValue s k := by
  obtain ⟨-, -, hsems, -⟩ := releaseMet_keep h
  unfold semValue
  rw [hsems]

theorem doSig_of (hr : Ready s [a]) (hc : Clean s [a]) (h : ReleaseMet s s') : doSig a m s =
    if semValue s m.val + semAmount s a > 255 then fail .semaphoreOverflow
    else .done (trailSig m.val (semAmount s a) (putSem m.val (semValue s m.val + semAmount s a) s')) .next := by
  refine (ready_of hr _).trans ((unpoisoned_of_clean hc _).trans ((released_of h _).trans ?_))
  dsimp only
  rw [h.semAmount_eq, h.semValue_eq]

/-- R230, R231: what WSEM does with operands that are ready. -/
theorem doWsem_of (hr : Ready s [a]) (hc : Clean s [a]) : doWsem a m s =
    if semAmount s a = 0 then .done s .next
    else if (semHead s m.val = none ∨ semHead s m.val = some s.focusCtx) ∧ semAmount s a ≤ semValue s m.val then
      .done (modCurTile (fun x => { x with semq := x.semq.filter fun q => decide (q.1 ≠ s.focusCtx) })
        (consumeSem m.val (semValue s m.val) (semAmount s a) s)) .next
    else .wait (if (curTile s).semq.any fun q => decide (q.1 = s.focusCtx) then s
      else modCurTile (fun x => { x with semq := x.semq ++ [(s.focusCtx, m.val, semAmount s a)] }) s) .offcore :=
  (ready_of hr _).trans (unpoisoned_of_clean hc _)

/-- R230: TSEM takes its amount, or leaves the semaphore. -/
theorem doTsem_of (hr : Ready s [d, a]) (hc : Clean s [a]) (hl : Unlogged s) : doTsem d a m s =
    if semHead s m.val = none ∧ semAmount s a ≤ semValue s m.val then
      .done (wrS d { val := 1 } (consumeSem m.val (semValue s m.val) (semAmount s a) s)) .next
    else .done (wrS d { val := 0 } s) .next := by
  refine (ready_of hr _).trans ((unpoisoned_of_clean hc _).trans ((logged_of hl ..).trans ?_))
  by_cases hcan : semHead s m.val = none ∧ semAmount s a ≤ semValue s m.val
  · rw [if_pos hcan, decide_eq_true hcan.1, decide_eq_true hcan.2]
    rfl
  · rw [if_neg hcan, ← Bool.decide_and, decide_eq_false hcan]
    rfl

theorem sems_consumeSem (k v n : Nat) (s : State) : (curTile (consumeSem k v n s)).sems = Sparse.set k (v - n) (curTile s).sems := by
  have hcur (f : Ctx → Ctx) (u : State) : (curTile (modCur f u)).sems = (curTile u).sems := part_modCtx Tile.sems (fun _ _ => rfl) ..
  unfold consumeSem putSem
  dsimp only
  rw [hcur, curTile_modCurTile, curTile_modCurTile]

theorem semHead_eq_none (k : Nat) :
    semHead s k = none ↔ ((curTile s).semq.find? fun q => decide (q.2.1 = k)) = none := Option.map_eq_none_iff

/-! Arrival sets (R232, R234). -/

/-- R232: the set that ASARM arms at an address with the fields of a word. -/
def armedSet (base : Nat) (w : Word) : ArrSet := { armed := true, base := base, nc := wfld w 32 8, e := wfld w 0 17 }

theorem doAsarm_of (hr : Ready s [a, b]) (hc : Clean s [a, b]) (ha : (rdS s a).val.toNat % 512 = 0)
    (hregion : regionTrap s (rdS s a).val.toNat (wfld (rdS s b).val 32 8) = none) : doAsarm a b i s =
      if wfld (rdS s b).val 32 8 = 0 ∨ wfld (rdS s b).val 32 8 > 128 ∨ wfld (rdS s b).val 0 17 > 512 * wfld (rdS s b).val 32 8 ∨
          wfld (rdS s b).val 17 15 ≠ 0 ∨ wfld (rdS s b).val 40 24 ≠ 0 then fail .arrivalId
      else .done (modCurTile (fun x => { x with
        arr := Sparse.set i.val (armedSet (rdS s a).val.toNat (rdS s b).val) x.arr }) s) .next := by
  refine (ready_of hr _).trans ((unpoisoned_of_clean hc _).trans ?_)
  dsimp only
  rw [if_neg (not_not.mpr ha), hregion]
  rfl

/-- R234: the arrival set that a group names. -/
abbrev namedSet (s : State) (i : Fin 64) : ArrSet := Sparse.get ({} : ArrSet) (curTile s).arr i.val

/-- R234: the mask of a group, in two scalars. -/
abbrev maskOf (s : State) (a b : Fin 16) : Nat := (rdS s a).val.toNat + (rdS s b).val.toNat * 2 ^ 64

section
variable (hc : Clean s [a, b]) (k : Bool → Known → Eff)
include hc

theorem withMask_armed (harmed : (namedSet s i).armed = true) (hmask : maskOf s a b < 2 ^ (namedSet s i).nc) :
    withMask s a b i k = k (arrHolds (namedSet s i) (maskOf s a b)) (marksOf (namedSet s i) (maskOf s a b)) := by
  refine (unpoisoned_of_clean hc _).trans (if_neg ?_)
  rintro (h | h)
  · rw [harmed] at h
    cases h
  · exact Nat.not_le.mpr hmask h

theorem withMask_unarmed (h : (namedSet s i).armed = false ∨ 2 ^ (namedSet s i).nc ≤ maskOf s a b) :
    withMask s a b i k = .trap { cause := .arrivalId } :=
  (unpoisoned_of_clean hc _).trans (if_pos (h.imp_left fun h => by rw [h]; rfl))

end

theorem arrHolds_armed {e : ArrSet} (h : e.armed = true) (k : Nat) :
    arrHolds e k = decide (if k = 0 then e.e ≤ e.count else e.bits.toNat &&& k = k) := by
  unfold arrHolds
  rw [h, Bool.true_and]
  split <;> rfl

theorem doAswait_of (hr : Ready s [a, b]) : doAswait a b i s = withMask s a b i fun h n =>
    if h then .done (modCur (fun y => { y with sight := y.sight.know n }) s) .next else .wait s .offcore := ready_of hr _

theorem doAstest_of (hr : Ready s [d, a, b]) (hl : Unlogged s) : doAstest d a b i s = withMask s a b i fun h _ =>
    .done (wrS d { val := if h then 1 else 0 } s) .next := by
  refine (ready_of hr _).trans ?_
  simp only [logged_of hl]

/-! The groups together (O33). -/

/-- Settles O33: each group is its equation, by the barrier or the set that it names and by the state of that. -/
theorem synchronisationGroups : Obligations.SynchronisationGroups := by
  refine ⟨?barriers, ?others⟩
  case barriers =>
    intro d a q i l key s s' hlaunch hrec hl hkey n o arrived counted knows sends waited
    refine ⟨fun hdecl hlevel => ?declared, fun hbad => ?undeclared⟩
    case declared =>
      have h : Declared s q i l key := ⟨hlaunch, hkey, hlevel, hdecl⟩
      refine ⟨fun hr hrel hq => ?tile, fun hr hrel hq => ?far, fun hr hc hwait => ?wait, fun hp he hwait hrel hsent => ?await,
        fun p hp hdone hwait => ?again⟩
      case tile =>
        subst hq
        have hrun := doBarArr_tile hr h hl hrel
        obtain rfl := hrel.1
        exact ⟨barArrive_counts .., congrArg (settle s) hrun⟩
      case far =>
        have hrun := doBarArr_far hr h hq hrec hl hrel
        obtain rfl := hrel.1
        exact congrArg (settle s) hrun
      case wait =>
        refine ⟨fun hlt => congrArg (settle s) ?_, fun hle => congrArg (settle s) ?_⟩
        · exact (doBarWait_of hr hc h).trans (awaitPhase_done (decide_eq_true hlt) hwait _)
        · exact (doBarWait_of hr hc h).trans (awaitPhase_open (decide_eq_false (Nat.not_lt.mpr hle)) _)
      case await =>
        refine ⟨fun hq => ?_, fun hq => ?_⟩
        · have hrun := doBarAw_tile h hp he hsent hrel hq
          obtain rfl := hrel.1
          exact ⟨barArrive_counts .., congrArg (settle s) (hrun.trans (awaitJoined_of ((congrArg Ctx.wait (cur_modCur ..)).trans hwait)))⟩
        · have hrun := doBarAw_far h hp he hsent hrel hq
          obtain rfl := hrel.1
          exact congrArg (settle s) hrun
      case again =>
        exact congrArg (settle s) ((doBarAw_joined h hp).trans ((awaitJoined_of hwait).trans (if_pos (decide_eq_true hdone))))
    case undeclared =>
      have hfail := fun k => withBar_undeclared hlaunch hkey hbad k
      exact ⟨congrArg (settle s) (hfail _), fun hr => congrArg (settle s) ((ready_of hr _).trans (hfail _)),
        fun hr hc => congrArg (settle s) ((ready_of hr _).trans ((unpoisoned_of_clean hc _).trans (hfail _)))⟩
  case others =>
    intro d a b m i s s' hl hr hc n v put took waits e mask w holds
    have hra : Ready s [a] := hr.mono (by simp)
    have hca : Clean s [a] := hc.mono (by simp)
    have hrd : Ready s [d, a] := hr.mono (by simp)
    have hrab : Ready s [a, b] := hr.mono (by simp)
    refine ⟨fun hrel => ⟨fun hle => congrArg (settle s) ?_, fun hlt => congrArg (settle s) ?_⟩, fun hn => congrArg (settle s) ?_,
      fun hn hwaits hle => ⟨?_, congrArg (settle s) ?_⟩, fun hn hblock => congrArg (settle s) ?_, fun hwaits hle => congrArg (settle s) ?_,
      fun hblock => congrArg (settle s) ?_, fun halign hregion h1 h128 he h17 h40 => congrArg (settle s) ?_,
      fun harmed hmask => ⟨fun hholds => ?_, fun hholds => ?_⟩, fun hbad => ⟨congrArg (settle s) ?_, congrArg (settle s) ?_⟩⟩
    · exact (doSig_of hra hca hrel).trans (if_neg (Nat.not_lt.mpr hle))
    · exact (doSig_of hra hca hrel).trans (if_pos hlt)
    · exact (doWsem_of hra hca).trans (if_pos hn)
    · show Sparse.get 0 (curTile (consumeSem ..)).sems m.val = _
      rw [sems_consumeSem, Sparse.get_set_same]
    · exact (doWsem_of hra hca).trans ((if_neg hn).trans (if_pos ⟨hwaits.imp_left (semHead_eq_none _).mpr, hle⟩))
    · refine (doWsem_of hra hca).trans ((if_neg hn).trans (if_neg ?_))
      rintro ⟨hhead, hle⟩
      obtain hlt | ⟨hsome, hother⟩ := hblock
      · exact Nat.not_le.mpr hlt hle
      · exact hhead.elim (fun hnone => hsome ((semHead_eq_none _).mp hnone)) hother
    · exact (doTsem_of hrd hca hl).trans (if_pos ⟨(semHead_eq_none _).mpr hwaits, hle⟩)
    · refine (doTsem_of hrd hca hl).trans (if_neg ?_)
      rintro ⟨hhead, hle⟩
      exact hblock.elim (fun hsome => hsome ((semHead_eq_none _).mp hhead)) fun hlt => Nat.not_le.mpr hlt hle
    · refine (doAsarm_of hrab hc halign hregion).trans (if_neg ?_)
      rintro (hbad | hbad | hbad | hbad | hbad)
      · exact Nat.not_lt.mpr h1 (hbad ▸ Nat.zero_lt_one)
      · exact Nat.not_lt.mpr h128 hbad
      · exact Nat.not_lt.mpr he hbad
      · exact hbad h17
      · exact hbad h40
    · have hset := (arrHolds_armed harmed mask).trans (decide_eq_true hholds)
      refine ⟨congrArg (settle s) ?_, congrArg (settle s) ?_⟩
      · rw [doAswait_of hrab, withMask_armed hc _ harmed hmask, hset]
        rfl
      · rw [doAstest_of hr hl, withMask_armed hc _ harmed hmask, hset]
        rfl
    · have hset := (arrHolds_armed harmed mask).trans (decide_eq_false hholds)
      refine ⟨congrArg (settle s) ?_, congrArg (settle s) ?_⟩
      · rw [doAswait_of hrab, withMask_armed hc _ harmed hmask, hset]
        rfl
      · rw [doAstest_of hr hl, withMask_armed hc _ harmed hmask, hset]
        rfl
    · exact (doAswait_of hrab).trans (withMask_unarmed hc _ hbad)
    · exact (doAstest_of hr hl).trans (withMask_unarmed hc _ hbad)

end Sys2Proof.Machine
end

section
/-! SUPPORT and the settling theorem of WLAPP, WLTAKE, WLDONE and QWAIT (O35): each passes its checks as a request to the compaction
unit (`askUnit`), which ends by what the context has sent and kept. -/

namespace Sys2Proof.Machine

variable {s s' : State} {d a b : Fin 16} {i : Fin 64} {l : Launch} {r w : WlReq} {k : WlReq → State → Eff}

/-! A request and its answer (R418). -/

/-- R418: the answer that the acting context has kept for its group, of a kind of request (log 73). -/
abbrev keptFor (s : State) (op : Nat) : Option (Nat × WlReq) :=
  (cur s).wlKept.filter fun e => decide (e.1 = (cur s).pc) && decide (e.2.op = op)

/-- R418: the acting context with a new request on its way. -/
def sendRequest (r : WlReq) (s : State) : State :=
  modCur (fun y => { y with wl := some { r with
    id := s.nextId, known := knownNow { s with nextId := s.nextId + 1 } s.focusTile s.focusCtx } }) { s with nextId := s.nextId + 1 }

theorem askUnit_new (hwl : (cur s).wl = none) (hkept : keptFor s r.op = none) : askUnit s r k = .wait (sendRequest r s) .worklist := by
  unfold keptFor at hkept
  unfold askUnit
  rw [hwl]
  dsimp only
  rw [hkept]
  rfl

theorem askUnit_kept {p : Nat} (hwl : (cur s).wl = none) (hkept : keptFor s r.op = some (p, w)) :
    askUnit s r k = k w (modCur (fun y => { y with wlKept := none }) s) := by
  unfold keptFor at hkept
  unfold askUnit
  rw [hwl]
  dsimp only
  rw [hkept]

theorem askUnit_unanswered (hwl : (cur s).wl = some w) (hw : w.answered = false) : askUnit s r k = .wait s .worklist := by
  unfold askUnit
  rw [hwl]
  exact if_neg (by simp [hw])

theorem askUnit_answered (hwl : (cur s).wl = some w) (hw : w.answered = true) (htrap : w.trap = .none_) :
    askUnit s r k = k w (modCur (fun y => { y with wl := none }) s) := by
  unfold askUnit
  rw [hwl]
  exact (if_pos hw).trans (if_neg (not_not.mpr htrap))

theorem askUnit_refused (hwl : (cur s).wl = some w) (hw : w.answered = true) (htrap : w.trap ≠ .none_) :
    askUnit s r k = .trap { cause := w.trap } := by
  unfold askUnit
  rw [hwl]
  exact (if_pos hw).trans (if_pos htrap)

/-! The checks of the four groups (R235, R238 to R240). -/

/-- R235: the launch of the acting context configures the list that a group names. -/
abbrev Configured (l : Launch) (i : Fin 64) : Prop := (Sparse.get ({} : WorkList) l.lists i.val).cap ≠ 0

theorem withList_configured (hlaunch : launchOf s (cur s).launch = some l) (h : Configured l i) (k : Eff) : withList s i k = k := by
  unfold withList
  rw [hlaunch]
  exact if_neg h

theorem withList_absent (hlaunch : launchOf s (cur s).launch = some l) (h : ¬Configured l i) (k : Eff) :
    withList s i k = .trap { cause := .worklistId } := by
  unfold withList
  rw [hlaunch]
  exact if_pos (not_not.mp h)

theorem logPut_unlogged (h : Unlogged s) (kind c code count value : Nat) : logPut s.focusTile kind c code count value s = s := by
  unfold logPut
  split
  next l hl => exact if_neg fun hlog => by simp [h l hl] at hlog
  next => rfl

theorem unlogged_modCur (h : Unlogged s) (f : Ctx → Ctx) : Unlogged (modCur f s) :=
  unlogged_keep h rfl (part_modCtx Tile.launch (fun _ _ => rfl) ..)

/-- R239: the items that WLTAKE asks for. -/
abbrev askedItems (s : State) (b : Fin 16) : Nat := min (rdS s b).val.toNat 64

/-- R239: the destination of a WLTAKE passes its checks, and no earlier access has still to touch it. -/
structure AreaMet (s : State) (a b : Fin 16) : Prop where
  align : (rdS s a).val.toNat % 16 = 0
  area : takeArea s (rdS s a).val.toNat (askedItems s b) = none
  untouched : touchedSoon s (rdS s a).val.toNat (16 * askedItems s b) = false

section
variable (hlaunch : launchOf s (cur s).launch = some l) (h : Configured l i)
include hlaunch h

theorem doWlapp_of (hr : Ready s [a, b]) (hrel : ReleaseMet s s') : doWlapp a b i s = askUnit s'
    { op := 0, list := i.val, a := (rdS s a).val, b := (rdS s b).val, poison := (rdS s a).poison || (rdS s b).poison }
    fun _ s => .done s .next := by
  refine (ready_of hr _).trans ((withList_configured hlaunch h _).trans ((released_of hrel _).trans ?_))
  rw [hrel.rdS_eq, hrel.rdS_eq, hrel.anyPoison_eq, anyPoison_pair]

theorem doWldone_of (hr : Ready s [a]) (hc : Clean s [a]) (hrel : ReleaseMet s s') : doWldone a i s = askUnit s'
    { op := 2, list := i.val, a := (rdS s a).val } fun _ s => .done s .next := by
  refine (ready_of hr _).trans ((unpoisoned_of_clean hc _).trans ((withList_configured hlaunch h _).trans ((released_of hrel _).trans ?_)))
  rw [hrel.rdS_eq]

section
variable (hr : Ready s [d, a, b]) (hc : Clean s [a, b])
include hr hc

theorem doWltake_misaligned (ha : (rdS s a).val.toNat % 16 ≠ 0) : doWltake d a b i s = .trap (addrTrap .align (rdS s a).val) :=
  (ready_of hr _).trans ((unpoisoned_of_clean hc _).trans ((withList_configured hlaunch h _).trans (if_pos ha)))

theorem doWltake_area {tr : Trap} (ha : (rdS s a).val.toNat % 16 = 0)
    (harea : takeArea s (rdS s a).val.toNat (askedItems s b) = some tr) : doWltake d a b i s = .trap tr := by
  refine (ready_of hr _).trans ((unpoisoned_of_clean hc _).trans ((withList_configured hlaunch h _).trans ((if_neg (not_not.mpr ha)).trans ?_)))
  rw [harea]

/-- R239: what a WLTAKE asks, and how it ends with an answer. -/
theorem doWltake_of (hl : Unlogged s) (harea : AreaMet s a b) : doWltake d a b i s = askUnit s
    { op := 1, list := i.val, a := (rdS s a).val, b := BitVec.ofNat 64 (askedItems s b) } fun w u => .done (wrS d { val := BitVec.ofNat 64 w.result }
      (logPut u.focusTile 3 u.focusCtx 0 ((cur u).retired + 1) (BitVec.ofNat 64 w.result).toNat u)) .next := by
  refine (ready_of hr _).trans ((unpoisoned_of_clean hc _).trans ((withList_configured hlaunch h _).trans
    ((if_neg (not_not.mpr harea.align)).trans ?_)))
  rw [harea.area]
  refine (if_neg (by rw [harea.untouched]; exact Bool.false_ne_true)).trans ?_
  exact if_neg (by rw [not_replaying hl rfl rfl]; exact Bool.false_ne_true)

end
end

/-- Settles O35: each group is its request, and that ends by what the context has sent and kept. -/
theorem workListGroups : Obligations.WorkListGroups := by
  intro d a b i l w s s' hl hr hlaunch hrel known m area asked kept ends others
  have hra : Ready s [a] := hr.mono (by simp)
  have hrab : Ready s [a, b] := hr.mono (by simp)
  obtain ⟨-, -, -, -, -, -, -, -, hcur⟩ := releaseMet_keep hrel
  have hwl : (cur s').wl = (cur s).wl := (congrArg Ctx.wl hcur :)
  have hkept (op : Nat) : keptFor s' op = keptFor s op := by
    unfold keptFor
    rw [hcur]
    rfl
  have happ (hk : known) := doWlapp_of hlaunch hk hrab hrel
  have hdone (hk : known) (hc : Clean s [a]) := doWldone_of hlaunch hk hra hc hrel
  have htake (hk : known) (hc : Clean s [a, b]) (harea : area) := doWltake_of hlaunch hk hr hc hl ⟨harea.1, harea.2.1, harea.2.2⟩
  have hothers (e : State → Eff) (he : ∀ u r k, (cur u).wl = (cur s).wl → askUnit u r k = e u) : others e :=
    ⟨fun hk => congrArg (settle s) ((happ hk).trans (he s' _ _ hwl)),
      fun hk hc harea => congrArg (settle s) ((htake hk hc harea).trans (he s _ _ rfl)),
      fun hk hc => congrArg (settle s) ((hdone hk hc).trans (he s' _ _ hwl)), congrArg (settle s) (he s _ _ rfl)⟩
  have hends (p : Nat → Prop) (f : Ctx → Ctx) (he : ∀ u r k, (cur u).wl = (cur s).wl → keptFor u r.op = keptFor s r.op → p r.op →
      askUnit u r k = k w (modCur f u)) : ends p (modCur f) := by
    refine ⟨fun h0 hk => congrArg (settle s) ((happ hk).trans (he s' _ _ hwl (hkept 0) h0)), fun h1 hk hc harea => congrArg (settle s) ?_,
      fun h2 hk hc => congrArg (settle s) ((hdone hk hc).trans (he s' _ _ hwl (hkept 2) h2)),
      fun h3 => congrArg (settle s) (he s _ _ rfl rfl h3)⟩
    refine (htake hk hc harea).trans ((he s _ _ rfl rfl h1).trans ?_)
    rw [logPut_unlogged (unlogged_modCur hl f)]
  refine ⟨fun hnone => ?new, fun hw hans htrap => hends (fun _ => True) (fun y => { y with wl := none })
      fun u r k hu _ _ => askUnit_answered (hu.trans hw) hans htrap,
    fun hnone => hends (fun op => ∃ p, kept op = some (p, w)) (fun y => { y with wlKept := none })
      fun u r k hu hop ⟨p, hp⟩ => askUnit_kept (hu.trans hnone) (hop.trans hp),
    fun hw hans => hothers _ fun u r k hu => askUnit_unanswered (hu.trans hw) hans,
    fun hw hans htrap => hothers _ fun u r k hu => askUnit_refused (hu.trans hw) hans htrap, fun hk hc => ?area, fun hk => ?absent⟩
  case new =>
    have hnone' := hwl.trans hnone
    obtain rfl := hrel.1
    refine ⟨fun hk h0 => congrArg (settle s) ?_, fun hk h1 hc harea => congrArg (settle s) ?_, fun hk h2 hc => congrArg (settle s) ?_,
      fun h3 => congrArg (settle s) (askUnit_new hnone h3)⟩
    · exact (happ hk).trans (askUnit_new hnone' ((hkept 0).trans h0))
    · exact (htake hk hc harea).trans (askUnit_new hnone h1)
    · exact (hdone hk hc).trans (askUnit_new hnone' ((hkept 2).trans h2))
  case area =>
    exact ⟨fun ha => congrArg (settle s) (doWltake_misaligned hlaunch hk hr hc ha),
      fun tr ha harea => congrArg (settle s) (doWltake_area hlaunch hk hr hc ha harea)⟩
  case absent =>
    have habsent := fun k => withList_absent hlaunch hk k
    exact ⟨congrArg (settle s) ((ready_of hrab _).trans (habsent _)),
      fun hc => congrArg (settle s) ((ready_of hra _).trans ((unpoisoned_of_clean hc _).trans (habsent _))),
      fun hc => congrArg (settle s) ((ready_of hr _).trans ((unpoisoned_of_clean hc _).trans (habsent _)))⟩

end Sys2Proof.Machine
end
